-- ==== Sys2Proof/Word.lean ====
section
/-! DEFINITION. The word types of the K12 model. Every register is 32 bits (spec R12), every multi-byte field is
little-endian (R11), bit 0 is the least significant bit. -/
namespace Sys2Proof

/-- One byte. -/
abbrev Byte := BitVec 8
/-- A 32-bit register or field. -/
abbrev W32 := BitVec 32
/-- A 64-bit value (a `_LO`/`_HI` pair, R13). -/
abbrev W64 := BitVec 64
/-- A byte string, lowest address first. -/
abbrev Bytes := List Byte

end Sys2Proof
end

