-- ==== Sys2Proof/Syntax.lean ====
section
/-! DEFINITION. The commands of the K12: one constructor of `Instr` per row of spec/opcode_table.json, and the
operand types. A command carries what comes from outside the device (a register write, a transaction, a physical
fact); everything else it needs it reads from the state. -/
namespace Sys2Proof

/-- A logical core, core.cluster.die (R10). -/
structure CoreId where
  die : Fin 12
  cluster : Fin 8
  core : Fin 8
  deriving DecidableEq, Repr

/-- The broadcast modes of a tile (R81). -/
inductive BroadcastMode where
  | quad
  | pair01
  | pair23
  deriving DecidableEq, Repr

/-- One arbiter: its row of R177 (1-9), its die (0-13), and which one of that kind on the die. -/
structure ArbId where
  kind : Fin 9
  die : Fin 14
  unit : Nat
  deriving DecidableEq, Repr

/-- The request classes of R176. -/
inductive ReqClass where
  | background
  | normal
  | urgent
  deriving DecidableEq, Repr

/-- What makes a request (R176): an engine's feeder, stream, writer or deep-entry read; the berth sequencer; the vector
engine; the slipway; a harbourmaster core; the scrubber; the snapshot drain or its sister copy; the mover in a slot of a
core's stevedore; or another device, whose transaction carries its class (R298). -/
inductive Origin where
  | engine
  | sequencer
  | vector
  | slipway
  | harbourmaster
  | scrubber
  | drain
  | mover (core : CoreId) (slot : Fin 4)
  | fabric (cls : BitVec 2)
  deriving DecidableEq, Repr

/-- A transfer that a requester of an arbiter presents in a service slot: the requester by its place in the row of R177,
what makes the transfer, and the bytes that it moves. -/
structure Arrival where
  req : Nat
  origin : Origin
  addr : BitVec 48
  len : Nat
  deriving DecidableEq, Repr

/-- What an island controller's sideband tells an arbiter of a requester (R181). -/
inductive MaskCond where
  | running
  | deepSleep
  | resetLevelSleep
  | inReset
  deriving DecidableEq, Repr

/-- An operation in flight in a core: the tile of a mode, the vector operation, or a mover or collective by its slot. -/
inductive UnitOp where
  | tile (mode : BroadcastMode)
  | vector
  | mover (slot : Fin 4)
  | collective (slot : Fin 8)
  deriving DecidableEq, Repr

/-- A failed parity check (R172-R175): the unit, the read address and the destination of the failing 16-byte unit,
whether the replay failed too, whether the read was the rebuilding program's, and the operation in flight that made the
access, if one did. -/
structure ParityCase where
  unit : W32
  src : BitVec 48
  dst : BitVec 48
  second : Bool
  rebuilding : Bool
  op : Option (CoreId × UnitOp)
  deriving DecidableEq, Repr

/-- Decoder engine kinds of a slipway (R186). -/
inductive EngineKind where
  | image
  | audio
  | text
  deriving DecidableEq, Repr

/-- A gradient region of stage 2 (R231), as the finalise program works on it: the core whose cluster holds the accumulator,
the shard, the accumulator's and the gradient's addresses, the element count, and how the replica ALL_REDUCE carries it: its
schedule (none where the replica group has one member), its instance, deep transport or E5M2 with its headroom and overflow,
and the offset of its residue words in a residue bank. -/
structure GradRegion where
  core : CoreId
  shard : W32
  acc : BitVec 48
  grad : BitVec 48
  elems : Nat
  sched : Option (BitVec 12)
  seq : W32
  deep : Bool
  margin : BitVec 4
  ovf : Bool
  resOff : BitVec 48
  deriving DecidableEq, Repr

/-- The bytes of one shard and of its tag, copied from the majority source (R240). -/
structure ShardCopy where
  bytes : Bytes
  tag : Bytes
  deriving DecidableEq, Repr

/-- The abort causes of R241 that no other command carries. -/
inductive AbortCause where
  | stale
  | dataLoss
  | manifest
  | stateWrite
  | host
  | fault
  deriving DecidableEq, Repr

/-- Transaction types of R298. -/
inductive TxnType where
  | put
  | getReq
  | getRsp
  | reduce
  | cctl
  | tally
  | compl
  deriving DecidableEq, Repr

/-- A fabric transaction: the generic header of R298, the 32 type-dependent bytes 16-47 of R299, and LEN data bytes. -/
structure Txn where
  type : TxnType
  cls : BitVec 2
  sig : Bool
  aliased : Bool
  detour : Bool
  daxis : BitVec 2
  dst : BitVec 18
  src : BitVec 18
  tag : BitVec 16
  epoch : W32
  fields : Bytes
  data : Bytes
  deriving DecidableEq, Repr

/-- A flit of R286: KIND, VL, ACK, the 252 body bytes and the CRC. -/
structure Flit where
  kind : BitVec 2
  vl : Fin 4
  ack : BitVec 12
  body : Bytes
  crc : BitVec 16
  deriving DecidableEq, Repr

/-- How a port's training ends (R284, R285): a stage failed, or stage 5 with the peer's identity, its session number, and the
lanes of each direction that training found bad. -/
inductive TrainResult where
  | stageFailed
  | linked (peerId : BitVec 18) (peerPort : BitVec 4) (session : W32) (badTx badRx : BitVec 9)
  deriving DecidableEq, Repr

/-- The codewords that the FEC of a port could not correct since the last flit (R283, R309), and whether one of them overlaps
this flit. -/
structure FecLoss where
  codewords : W32
  overlap : Bool
  deriving DecidableEq, Repr

/-- What the FEC of a port reports with a flit: the symbols corrected since the last flit, and what was not corrected. -/
structure Fec where
  corrected : W32
  lost : FecLoss
  deriving DecidableEq, Repr

/-- Why a lane fails (R291). -/
inductive LaneFault where
  | corrected (symbols : W32)
  | lostLock
  deriving DecidableEq, Repr

/-- What an uncorrectable Hold read was reading (R316). -/
inductive HoldRead where
  | slot (i : Fin 4)
  | logRecord (seq : W64)
  | sisterRecord (seq : W64)
  | ballast (row : Nat) (ver : W64)
  deriving DecidableEq, Repr

/-- A durable Ballast row version: row, VER and its bytes (R336, R341). -/
structure BallastRow where
  row : Nat
  ver : W64
  bytes : Bytes
  deriving DecidableEq, Repr

/-- A physical unit as the spare ledger names it (R357, R358), with the entry of the substitution queue that had it tested, if
one had (R351, R352). -/
structure UnitLoc where
  kind : Byte
  pdie : Byte
  punit : W32
  queued : Option Nat
  deriving DecidableEq, Repr

/-- What the physical device shows to a boot (R352, R370): the units that fail their tests, whether the device secret is
rebuilt from the primary or the mirror helper data, whether the Hold metadata can be read, the Ballast versions and how many of
the last records of the own and of the sister log were not programmed whole, and the inspection's duration in ms. -/
structure BootFacts where
  failed : List UnitLoc
  secretPrimary : Bool
  secretMirror : Bool
  holdMetaOk : Bool
  torn : List (Nat × W64)
  tornLog : Nat
  tornSister : Nat
  ms : W32
  deriving DecidableEq, Repr, Inhabited

/-- Which host-memory transfer fails (R409). -/
inductive DmaPurpose where
  | jobFetch (queue : Fin 256)
  | eventWrite (queue : Fin 256)
  | sample (die : Fin 12) (kind : EngineKind) (engine : Fin 4)
  | hold
  deriving DecidableEq, Repr

/-- What a host's configuration writes set in a function's configuration space (R407, R411, R433): the base addresses of its two
BARs, the D-state, MSI-X Enable and Function Mask, and the payload and read request sizes by their PCI Express codes. -/
structure FnCfg where
  bar0 : BitVec 64
  bar2 : BitVec 64
  d3hot : Bool
  msixEnable : Bool
  msixMask : Bool
  maxPayload : BitVec 3
  maxRead : BitVec 3
  deriving DecidableEq, Repr, Inhabited

/-- An island, coded as the clock records of R390 code it: KIND 1-10, DIE 0-13, UNIT. -/
structure IslandId where
  kind : BitVec 4
  die : BitVec 4
  unit : BitVec 16
  deriving DecidableEq, Repr

/-- How many further k-blocks a running tile completes before a suspension takes effect (R128). -/
structure TileStop where
  core : CoreId
  mode : BroadcastMode
  blocks : Nat
  deriving DecidableEq, Repr

/-- The commands: one constructor per row of spec/opcode_table.json. -/
inductive Instr where
  /-- DESCRIPTOR_ISSUE (spec R163): The berth sequencer issues the next tile, vector, mover or collective descriptor in program order into its unit's queue once that queue has room. -/
  | descriptorIssue (core : CoreId)
  /-- TILE (spec R88): A tile descriptor starts once its WAIT tokens are satisfied, consumes them and begins loading k-block 0. -/
  | tile (core : CoreId)
  /-- SPILL (spec R89): At a segment end a fed row's running pair is added into its deep entry and written through the slice write port. -/
  | spill (core : CoreId) (mode : BroadcastMode)
  /-- TILE_COMPLETE (spec R88): After the last output or deep-entry write, the tile writes its exception record and signals SIG_CTR one cycle later. -/
  | tileComplete (core : CoreId) (mode : BroadcastMode)
  /-- ADD (spec R130): Vector elementwise x + y, rounded once to the output format. -/
  | add (core : CoreId)
  /-- SUB (spec R130): Vector elementwise x - y, rounded once to the output format. -/
  | sub (core : CoreId)
  /-- MUL (spec R130): Vector elementwise x × y, rounded once to the output format. -/
  | mul (core : CoreId)
  /-- DIV (spec R130): Vector elementwise x ÷ y, with the stated special cases for zero divisors. -/
  | div (core : CoreId)
  /-- SQRT (spec R130): Vector elementwise square root, rounded once. -/
  | sqrt (core : CoreId)
  /-- FMA (spec R134): Vector elementwise x × y + z with z read at AUX_ADDR in the output layout. -/
  | fma (core : CoreId)
  /-- MIN (spec R131): Vector elementwise IEEE minimum. -/
  | min (core : CoreId)
  /-- MAX (spec R131): Vector elementwise IEEE maximum. -/
  | max (core : CoreId)
  /-- CMP (spec R134): Vector elementwise comparison under the CTRL predicate, writing one byte per element. -/
  | cmp (core : CoreId)
  /-- ABS (spec R134): Vector elementwise sign clear. -/
  | abs (core : CoreId)
  /-- NEG (spec R134): Vector elementwise sign flip. -/
  | neg (core : CoreId)
  /-- SCALE (spec R134): Vector elementwise x × c with c the FP32 value in CTRL. -/
  | scale (core : CoreId)
  /-- EXP (spec R144): Vector transcendental e to the x within the stated bound. -/
  | exp (core : CoreId)
  /-- LOG (spec R144): Vector transcendental natural logarithm within the stated bound. -/
  | log (core : CoreId)
  /-- TANH (spec R144): Vector transcendental hyperbolic tangent. -/
  | tanh (core : CoreId)
  /-- SIGMOID (spec R144): Vector transcendental logistic sigmoid. -/
  | sigmoid (core : CoreId)
  /-- RSQRT (spec R144): Vector transcendental reciprocal square root. -/
  | rsqrt (core : CoreId)
  /-- RECIP (spec R144): Vector transcendental reciprocal. -/
  | recip (core : CoreId)
  /-- SIN (spec R144): Vector transcendental sine. -/
  | sin (core : CoreId)
  /-- COS (spec R144): Vector transcendental cosine. -/
  | cos (core : CoreId)
  /-- ERF (spec R144): Vector transcendental error function. -/
  | erf (core : CoreId)
  /-- GELU (spec R144): Vector transcendental GELU. -/
  | gelu (core : CoreId)
  /-- SUM (spec R145): Per-row sum over lanes with spills and a canonical lane merge tree. -/
  | sum (core : CoreId)
  /-- SUMSQ (spec R145): Per-row sum of exact squares over lanes and a canonical merge tree. -/
  | sumsq (core : CoreId)
  /-- MAX_REDUCTION (spec R145): Per-row maximum reduction. -/
  | maxReduction (core : CoreId)
  /-- MIN_REDUCTION (spec R145): Per-row minimum reduction. -/
  | minReduction (core : CoreId)
  /-- AMAX (spec R145): Per-row maximum magnitude written as FP32 for later converts. -/
  | amax (core : CoreId)
  /-- MERGE (spec R145): Entry-by-entry merge of two deep-entry tensors with a merge record of the two child records. -/
  | merge (core : CoreId)
  /-- CONVERT (spec R64): Tide-gate convert of a tensor to a new format and scale, optionally writing residues and an amax-derived scale. -/
  | convert (core : CoreId)
  /-- DIGEST (spec R237): Folds COUNT bytes into a 16-byte SHAKE256 chaining value. -/
  | digest (core : CoreId)
  /-- CONV (spec R150): Depthwise convolution over windows with the chosen padding. -/
  | conv (core : CoreId)
  /-- TCONV (spec R151): Depthwise transposed convolution with cropping pads. -/
  | tconv (core : CoreId)
  /-- MAXPOOL (spec R150): Maximum pooling over windows. -/
  | maxpool (core : CoreId)
  /-- AVGPOOL (spec R150): Average pooling over windows, optionally excluding padding taps. -/
  | avgpool (core : CoreId)
  /-- PATCH (spec R150): Gathers window taps into a patch matrix for matrix tiles. -/
  | patch (core : CoreId)
  /-- ARGMAX (spec R153): Writes the winning channel index of each pixel. -/
  | argmax (core : CoreId)
  /-- BOXDEC (spec R154): Decodes anchor offsets into FP32 box corners. -/
  | boxdec (core : CoreId)
  /-- SUPPRESS (spec R155): Orders candidates by score and suppresses overlaps up to TOPK. -/
  | suppress (core : CoreId)
  /-- VECTOR_COMPLETE (spec R140): A vector operation writes its exception record, RES word and output tag, then signals SIG_CTR. -/
  | vectorComplete (core : CoreId)
  /-- COPY (spec R167): Mover copy of ROWS rows from source to destination. -/
  | copy (core : CoreId)
  /-- GATHER (spec R167): Mover gather of rows selected by an index list. -/
  | gather (core : CoreId)
  /-- SCATTER (spec R167): Mover scatter of rows to positions selected by an index list. -/
  | scatter (core : CoreId)
  /-- FILL (spec R167): Mover fill of rows with a 16-byte pattern. -/
  | fill (core : CoreId)
  /-- SIGNAL (spec R167): Mover that moves no data and only signals. -/
  | signal (core : CoreId)
  /-- COMPARE (spec R167): Mover comparison of two row sets, writing a result byte and optionally stopping the program on a mismatch. -/
  | compare (core : CoreId)
  /-- MOVER_COMPLETE (spec R165): When every write of a mover is visible it signals SIG_CTR and then sends its remote signal. -/
  | moverComplete (core : CoreId) (slot : Fin 4)
  /-- TOKEN_SIGNAL (spec R171): A local or remote signal adds one token to a counter, saturating with counter-overflow. -/
  | tokenSignal (core : CoreId) (ctr : Fin 32)
  /-- FWD_END (spec R484): The mark ends the forward phase of a pass on the core, tests the loss word and signals SIG_CTR. -/
  | fwdEnd (core : CoreId)
  /-- PASS_END (spec R484): The mark ends the current run of the program image and signals SIG_CTR. -/
  | passEnd (core : CoreId)
  /-- REDUCE_SCATTER (spec R261): Collective reduce-scatter over the schedule's trees, member k keeping chunk k. -/
  | reduceScatter (core : CoreId)
  /-- ALL_REDUCE (spec R261): Collective all-reduce leaving bit-identical deep entries on every member. -/
  | allReduce (core : CoreId)
  /-- REDUCE (spec R261): Collective reduction to member ROOT. -/
  | reduce (core : CoreId)
  /-- ALL_GATHER (spec R261): Collective gather of every member's bytes to every member. -/
  | allGather (core : CoreId)
  /-- BROADCAST (spec R261): Collective broadcast of member ROOT's bytes. -/
  | broadcast (core : CoreId)
  /-- RING_STEP (spec R271): One round of passing blocks round the ring group under credits. -/
  | ringStep (core : CoreId)
  /-- RING_CREDIT (spec R271): A ring credit from a successor releases the predecessor's data write for that round. -/
  | ringCredit (core : CoreId) (sched : BitVec 16) (round : BitVec 16) (seq : W32)
  /-- COLLECTIVE_COMPLETE (spec R263): When results, residues and sent messages are delivered, the collective writes its record and signals SIG_CTR. -/
  | collectiveComplete (core : CoreId) (slot : Fin 8)
  /-- ARBITER_GRANT (spec R179): In each service slot an arbiter grants one request by class, age and round-robin order. -/
  | arbiterGrant (arb : ArbId) (arrivals : List Arrival)
  /-- QUOTA_WINDOW (spec R180): At the start of each urgent quota window the per-requester urgent grant counts reset and masks lift. -/
  | quotaWindow (arb : ArbId)
  /-- ISLAND_MASK (spec R181): An island's reset or deep-sleep sideband masks its requesters and discards their parked requests on reset. -/
  | islandMask (arb : ArbId) (req : Nat) (cond : MaskCond)
  /-- PARITY_REPLAY (spec R172): A failed parity check holds the data back and replays the read or hop once. -/
  | parityReplay (p : ParityCase)
  /-- REGENERATED (spec R175): The rebuilding program finishes rebuilding a working-copy partition and the stalled access repeats. -/
  | regenerated (addr : BitVec 48)
  /-- HBM_REFRESH (spec R162): The HBM controller issues per-bank refresh at the interval the stack temperature requires. -/
  | hbmRefresh (stack : Fin 24)
  /-- SCRUB_READ (spec R162): The scrubber reads the next granule; an uncorrectable error raises latent-fault and queues the granule. -/
  | scrubRead (stack : Fin 24) (uncorrectable : Bool)
  /-- MANIFEST_VALIDATION (spec R199): A manifest at the head of its stream queue is validated whole, its digest taken and its concealed-bit array zeroed. -/
  | manifestValidation (die : Fin 12) (stream : Fin 8)
  /-- SAMPLE_ADMIT (spec R201): A stream admits its next entry into its window when the window has room. -/
  | sampleAdmit (die : Fin 12) (stream : Fin 8)
  /-- ENGINE_GRANT (spec R202): A free decoder engine is granted one admitted sample of its kind, round-robin over streams. -/
  | engineGrant (die : Fin 12) (kind : EngineKind) (engine : Fin 4)
  /-- SAMPLE_READY (spec R203): A sample's decode ends, possibly concealed or over budget, and its output, bit and outcome record are complete. -/
  | sampleReady (die : Fin 12) (kind : EngineKind) (engine : Fin 4) (fetched : Bool)
  /-- RELEASE (spec R204): A ready sample whose predecessors are released has its output, concealed bit and outcome written and a token signalled. -/
  | release (die : Fin 12) (stream : Fin 8)
  /-- PASS_RUN_START (spec R484): Run p of each core's program image starts once run p − 1 has ended and the run-ahead rule allows it. -/
  | passRunStart (core : CoreId)
  /-- BALLAST_PAGE_IN (spec R339): Before a pass, listed non-resident Ballast rows are paged into free cache slots and the slot table is written. -/
  | ballastPageIn
  /-- REPLICA_REDUCTION (spec R231): After the last run and its collectives, stage 2 all-reduces the accumulator and the finalise program writes FP32 gradients. -/
  | replicaReduction (regions : List GradRegion) (normSeq : W32)
  /-- UPDATE_START (spec R243): After a commit verdict and once the target bank is no longer draining, the optimiser update starts. -/
  | updateStart
  /-- UPDATE_COMPLETE (spec R237): When the update's writes are visible, the device digest is computed and tally transactions are sent. -/
  | updateComplete
  /-- TALLY (spec R272): A received tally transaction is checked by tag, step and epoch and its digest is held by member index. -/
  | tally (txn : Txn)
  /-- REPAIR_COMPLETE (spec R240): A minority member's copy from the majority source ends; it recomputes its digest and flips or stops. -/
  | repairComplete (shards : List ShardCopy) (dataLoss : Bool)
  /-- SNAPSHOT_LOCAL_SEAL (spec R319): Once every body page and relied-on Ballast version is durable, the own slot's header is written. -/
  | snapshotLocalSeal
  /-- SNAPSHOT_RELEASE (spec R319): After the sister seal or a failed sister copy, the drain completes, DRAIN clears and the SNAPSHOT record is written. -/
  | snapshotRelease
  /-- ABORT_CAUSE (spec R241): An abort cause enters aborting, floods ABORT and discards the sequencers' queues. -/
  | abortCause (cause : AbortCause)
  /-- ABORT_COMPLETE (spec R241): Once every unit is quiet and receive slots are empty, A increments, records are written and the device stops. -/
  | abortComplete
  /-- COMMIT (spec R227): A received commit notice updates the kept step of that shard-group member and releases waiting gathers. -/
  | commit (txn : Txn)
  /-- VERDICT_UP (spec R269): A subtree's ORed LOSS_BAD arrives at the host of its parent node and is forwarded up when complete. -/
  | verdictUp (txn : Txn)
  /-- VERDICT_DOWN (spec R269): The job-wide ORed LOSS_BAD arrives from the parent and is forwarded down. -/
  | verdictDown (txn : Txn)
  /-- ABORT (spec R270): A received ABORT message is forwarded to tree neighbours and aborts the matching attempt before point 4. -/
  | abort (txn : Txn)
  /-- RESHARD (spec R275): A re-shard job entry takes the re-shard lock towards a target layout. -/
  | reshard
  /-- LOCK_DRAINED (spec R275): When the device has nothing of epoch E outstanding and its children have drained, it sends DRAINED up. -/
  | lockDrained
  /-- DRAINED (spec R275): A child's DRAINED message is recorded; member 0 sends CLOSED once the whole job has drained. -/
  | drained (txn : Txn)
  /-- CLOSED (spec R275): CLOSED arrives and epoch-E messages become epoch faults. -/
  | closed (txn : Txn)
  /-- PERMUTE_PUTS (spec R274): Once the alternate bank is not draining, the device performs its permute puts. -/
  | permutePuts
  /-- PERMUTE_COMPLETE (spec R274): When its puts and received bytes are complete, the device writes new tags and sends PERMUTED up. -/
  | permuteComplete
  /-- PERMUTED (spec R275): A PERMUTED message is recorded; member 0 sends ADVANCE once the whole job has permuted. -/
  | permuted (txn : Txn)
  /-- ADVANCE (spec R277): ADVANCE arrives and the advance write switches pointer, epoch and layout, then ADVANCED is sent. -/
  | advance (txn : Txn)
  /-- ABANDON (spec R275): ABANDON arrives and the device enters stopped with epoch E unchanged. -/
  | abandon (txn : Txn)
  /-- ADVANCED (spec R277): An ADVANCED notice from a new shard-group member releases first remote gathers of the new epoch. -/
  | advanced (txn : Txn)
  /-- ABANDON_REQ (spec R275): Member 0 receives an abort request during the lock and sends ABANDON if not yet decided. -/
  | abandonReq (txn : Txn)
  /-- PORT_TRAINING_COMPLETE (spec R284): A port completes detect, train, lock, map and link, or returns to detect and raises port-down after 16 failures. -/
  | portTrainingComplete (port : Fin 12) (result : TrainResult)
  /-- FLIT_RECEIVE (spec R289): A received flit is accepted in sequence or discarded with a replay request. -/
  | flitReceive (port : Fin 12) (flit : Flit) (corrected : W32) (uncorrectable : FecLoss)
  /-- CONTROL_FLIT (spec R288): A control flit delivers credit returns, a replay request, a lane operation or stage-5 identity. -/
  | controlFlit (port : Fin 12) (flit : Flit) (corrected : W32) (uncorrectable : FecLoss)
  /-- REPLAY_TIMEOUT (spec R289): When ACK has not advanced for 4 µs the sender resends from its oldest unacknowledged flit. -/
  | replayTimeout (port : Fin 12)
  /-- LANE_FAIL (spec R291): A lane exceeds its corrected-symbol threshold in a 1 ms window or loses signal, starting a swap or a width reduction. -/
  | laneFail (port : Fin 12) (lane : Fin 9) (rx : Bool) (why : LaneFault)
  /-- LANE_SWAP (spec R291): At switch flit S the failed logical lane moves onto the spare lane and lane-substituted is raised. -/
  | laneSwap (port : Fin 12) (rx : Bool)
  /-- PORT_DOWN (spec R293): A port goes down and holds its replay buffer and sequence state, moving new traffic to the other rail. -/
  | portDown (port : Fin 12)
  /-- PORT_HOLD_EXPIRY (spec R293): A down port's 10 s hold expires, losing its unacknowledged transactions and aborting the attempt. -/
  | portHoldExpiry (port : Fin 12)
  /-- TRANSACTION_ROUTE (spec R295): A transaction at a device is routed one hop by dimension order, aliases and detours. -/
  | transactionRoute
  /-- PUT (spec R300): A PUT's data is written at its target, REMOTE is signalled if SIG is set, and COMPL is returned. -/
  | put (txn : Txn)
  /-- GET_REQ (spec R300): A GET_REQ reads bytes at the destination and returns them in a GET_RSP. -/
  | getReq (txn : Txn)
  /-- GET_RSP (spec R300): A GET_RSP delivers the read bytes to RET_ADDR at the source. -/
  | getRsp (txn : Txn)
  /-- REDUCE_TRANSACTION (spec R264): A part of a collective message arrives, is placed in its receive slot and merged when its message is complete. -/
  | reduceTransaction (core : CoreId) (txn : Txn)
  /-- COMPL (spec R301): A completion reaches the source, marking delivery or causing remote-reject. -/
  | compl (txn : Txn)
  /-- ALIAS_COMMIT (spec R307): A write of FAB_ALIASi_HI commits the alias entry in one write, or fails with fabric-invalid. -/
  | aliasCommit (master : Fin 4) (entry : Fin 8) (hi : W32)
  /-- RETRAIN (spec R290): FAB_CTRL command retrains the selected port without loss. -/
  | retrain (master : Fin 4)
  /-- DISABLE (spec R293): FAB_CTRL command holds the selected port down. -/
  | disable (master : Fin 4)
  /-- ENABLE (spec R309): FAB_CTRL command moves the selected port from disabled to training. -/
  | enable (master : Fin 4)
  /-- SNAPSHOT_DRAIN_PIECE (spec R319): One 64 KiB piece of the frozen bank is written to the own slot and sent to the sister slot. -/
  | snapshotDrainPiece
  /-- LOG_RESEND (spec R326): When the sister link returns, unacknowledged log records are resent. -/
  | logResend
  /-- PROGRAM_FAILED (spec R315): A NAND page program fails; the block is retired and the page reprogrammed into a spare block. -/
  | programFailed (stack : Fin 8)
  /-- HOLD_READ_FAILED (spec R316): A Hold read stays uncorrectable after retries and invalidates what it was reading. -/
  | holdReadFailed (what : HoldRead)
  /-- RESTORE (spec R331): Hold command restoring an own slot into bank 0 and setting C, A, epoch and layout, arming replay if asked. -/
  | restore
  /-- STANDIN_RESTORE (spec R335): Hold command in which a relief device restores a failed device's image and log from its sister, and its Ballast from a peer. -/
  | standinRestore (rows : List Nat) (vers : List W64) (contents : List Bytes)
  /-- EXPORT (spec R343): Hold command writing working copies of each shard and an end marker. -/
  | exportState
  /-- SEAL_OUT (spec R344): Hold command writing a slot as a sealed image under the owner seal key. -/
  | sealOut
  /-- SEAL_IN (spec R346): Hold command opening a sealed image or capture and writing it into an own slot. -/
  | sealIn
  /-- CAPTURE (spec R345): Hold command writing a sealed image, log records and trace for lab replay. -/
  | capture
  /-- BAL_LOAD (spec R328): Hold command loading Ballast rows from HBM before the first step. -/
  | balLoad
  /-- TRACE_ON (spec R345): HLD_CTRL command arms the trace. -/
  | traceOn (master : Fin 4)
  /-- TRACE_OFF (spec R348): HLD_CTRL command disarms the trace. -/
  | traceOff (master : Fin 4)
  /-- CANCEL (spec R329): HLD_CTRL command ends a running EXPORT, SEAL_OUT or CAPTURE after its current piece. -/
  | cancel (master : Fin 4)
  /-- BALLAST_WRITE_BACK (spec R342): A dirty Ballast row's current half is programmed as a durable version when the wear bucket allows. -/
  | ballastWriteBack (row : Nat)
  /-- WEAR_BUCKET_REFILL (spec R342): The wear governor's bucket refills at its rated rate. -/
  | wearBucketRefill (ms : Nat)
  /-- REQUEST_FULL_INSPECTION (spec R364): SPR_CTRL command requesting a full inspection at the next reset. -/
  | requestFullInspection (master : Fin 4)
  /-- WITHDRAW_FULL_INSPECTION (spec R364): SPR_CTRL command withdrawing the full-inspection request. -/
  | withdrawFullInspection (master : Fin 4)
  /-- BOOT_READY (spec R376): Boot reaches ready; a trial slot is promoted or a failed trial cleared. -/
  | bootReady
  /-- ROM_WATCHDOG (spec R376): A boot that is not ready within its limit is reset by the ROM watchdog. -/
  | romWatchdog (facts : BootFacts)
  /-- HARBOURMASTER_WATCHDOG (spec R459): Both active P0 harbourmasters fail to service their watchdog for 2 s and the device resets. -/
  | harbourmasterWatchdog (facts : BootFacts)
  /-- LOAD (spec R398): PLN_CTRL command accepting a plan load and checking its header, signature and sections. -/
  | load (master : Fin 4)
  /-- PLAN_APPLY (spec R399): Once no drain runs, configuration is written, images loaded, state reset and the PLAN record written. -/
  | planApply
  /-- FW_STAGE (spec R375): SEC_CTRL command checking a package and writing it into the inactive slot as a trial. -/
  | fwStage (master : Fin 4)
  /-- CLEAR_TRIAL (spec R376): SEC_CTRL command clearing TRIAL. -/
  | clearTrial (master : Fin 4)
  /-- ENROL (spec R384): DOE object claiming, rotating or releasing ownership of the owner record. -/
  | enrol (fn : Fin 2) (object : Bytes)
  /-- ATTEST (spec R386): Returns a signed attestation report over a nonce with the device certificate. -/
  | attest (requester : Fin 4) (nonce : Bytes)
  /-- PLAN_SEG (spec R435): DOE object writing plan bytes into HBM as a BAR2 write would. -/
  | planSeg (fn : Fin 2) (addr : W64) (data : Bytes)
  /-- PLAN_LOAD (spec R435): DOE object writing PLN_ADDR and PLN_HOME and starting LOAD, answering when it ends. -/
  | planLoad (fn : Fin 2) (addr : W64) (home : W32)
  /-- DOE_DISCOVERY (spec R435): DOE Discovery request listing the supported data objects. -/
  | doeDiscovery (fn : Fin 2) (index : Byte)
  /-- DOE_ABORT (spec R435): DOE Abort discards the pending response without stopping a started effect. -/
  | doeAbort (fn : Fin 2)
  /-- STP_STOP (spec R251): STP_CTRL STOP stops the device at once in idle or when the current activity ends. -/
  | stpStop (master : Fin 4)
  /-- STP_ABORT (spec R241): STP_CTRL ABORT aborts the running attempt, held from tally point 4 on. -/
  | stpAbort (master : Fin 4)
  /-- STP_RESUME (spec R251): STP_CTRL RESUME moves the device from stopped to idle. -/
  | stpResume (master : Fin 4)
  /-- JOB_DOORBELL (spec R424): A job queue doorbell sets the new TAIL or puts the queue in error. -/
  | jobDoorbell (master : Fin 4) (queue : Fin 256) (value : W32)
  /-- EVQ_DOORBELL (spec R424): An event queue doorbell sets the new HEAD. -/
  | evqDoorbell (master : Fin 4) (queue : Fin 256) (value : W32)
  /-- JOB_FETCH (spec R425): The K12 fetches the next entry from an enabled, unparked, non-empty job queue in turn. -/
  | jobFetch
  /-- NOP (spec R426): Job entry that ends when fetched. -/
  | nop
  /-- STEP (spec R428): Job entry releasing an attempt of step C + 1 with its passes, manifests and attempt tag. -/
  | step
  /-- EVAL_OPEN (spec R247): Job entry opening an evaluation window in idle. -/
  | evalOpen
  /-- EVAL_CLOSE (spec R247): Job entry closing the evaluation window. -/
  | evalClose
  /-- HOLD (spec R430): Job entry carrying a Hold command and its parameters into the control order. -/
  | hold
  /-- DEAL (spec R246): Job entry asking the dealer to split a candidate manifest into pass manifests by token counts. -/
  | deal
  /-- MANIFEST (spec R426): Job entry submitting a manifest to an evaluation stream. -/
  | manifest
  /-- FENCE (spec R426): Job entry that ends when every earlier entry of its queue has ended. -/
  | fence
  /-- EVQ_MODERATION_TIMER (spec R433): The oldest unsignalled event entry reaches TIME_US and the MSI-X message is sent. -/
  | evqModerationTimer (queue : Fin 256)
  /-- QUEUE_ENABLE (spec R423): Setting ENABLE resets the ring pointers or fails with queue-error. -/
  | queueEnable (master : Fin 4) (cfg : W32)
  /-- QUEUE_DISABLE (spec R423): Clearing ENABLE stops fetching or writing and drops unstarted control entries. -/
  | queueDisable (master : Fin 4) (cfg : W32)
  /-- CLAIM (spec R416): OWN_REQ command taking vacant ownership. -/
  | claim (master : Fin 4) (gen : BitVec 16)
  /-- RELEASE_OWNERSHIP (spec R416): OWN_REQ RELEASE command making ownership vacant. -/
  | releaseOwnership (master : Fin 4) (gen : BitVec 16)
  /-- OFFER (spec R416): OWN_REQ command offering ownership to a target master. -/
  | offer (master : Fin 4) (gen : BitVec 16) (target : Fin 4)
  /-- ACCEPT (spec R416): OWN_REQ command by the offer target taking ownership. -/
  | accept (master : Fin 4) (gen : BitVec 16)
  /-- WITHDRAW (spec R416): OWN_REQ command withdrawing an offer. -/
  | withdraw (master : Fin 4) (gen : BitVec 16)
  /-- OFFER_TIMEOUT (spec R416): An offer not accepted within OWN_TIMEOUT returns to held. -/
  | offerTimeout
  /-- OWNERSHIP_LAPSE (spec R417): A lapsing or silent owner reaches OWN_TIMEOUT and ownership becomes vacant. -/
  | ownershipLapse
  /-- RECLAIM (spec R420): A signed reclaim token on a management port makes its target the owner. -/
  | reclaim (port : Fin 2) (token : Bytes)
  /-- REGISTER_WRITE (spec R17): A BAR0 write to a register with no row of its own, subject to alignment, ownership and reserved-field rules. -/
  | registerWrite (master : Fin 4) (offset : BitVec 24) (value : W32) (size : Nat)
  /-- LO_READ_CAPTURE (spec R13): A read of a _LO register captures the _HI half for the reading master. -/
  | loReadCapture (master : Fin 4) (offset : BitVec 24)
  /-- BAR2_READ (spec R413): A host read through the BAR2 window, refused for banks, Ballast cache and SRAM of an applied plan. -/
  | bar2Read (fn : Fin 2) (offset : BitVec 36) (len : Nat)
  /-- BAR2_WRITE (spec R412): A host write through the BAR2 window, subject to R40, R222 and ownership. -/
  | bar2Write (fn : Fin 2) (offset : BitVec 36) (data : Bytes)
  /-- SLW_CONCEALED (spec R213): RC read of the concealed-sample count, clearing it for the owner. -/
  | slwConcealed (master : Fin 4)
  /-- SLW_OVERBUDGET (spec R213): RC read of the over-budget count, clearing it for the owner. -/
  | slwOverbudget (master : Fin 4)
  /-- STP_SKIPS (spec R251): RC read of the NOCOMMIT count, clearing it for the owner. -/
  | stpSkips (master : Fin 4)
  /-- FAB_CORR (spec R309): RC read of corrected FEC symbols of the selected port. -/
  | fabCorr (master : Fin 4)
  /-- FAB_UNCORR (spec R309): RC read of uncorrectable codewords of the selected port. -/
  | fabUncorr (master : Fin 4)
  /-- FAB_REPLAY (spec R309): RC read of resent flits of the selected port. -/
  | fabReplay (master : Fin 4)
  /-- FAB_LOST (spec R309): RC read of lost transactions of the selected port. -/
  | fabLost (master : Fin 4)
  /-- HLD_PROG_FAIL (spec R348): RC read of the NAND program-failure count. -/
  | hldProgFail (master : Fin 4)
  /-- EVQ_LOST (spec R434): RC read of the selected queue's dropped-event count. -/
  | evqLost (master : Fin 4)
  /-- CLK_FORCED (spec R462): RC read of the forced-switch count. -/
  | clkForced (master : Fin 4)
  /-- CLK_REF_FAILS (spec R462): RC read of the reference-failure count. -/
  | clkRefFails (master : Fin 4)
  /-- PWR_SLACKS (spec R463): RC read of the slack-state entry count. -/
  | pwrSlacks (master : Fin 4)
  /-- REG_READ (spec R437): Management message reading 1–64 BAR0 registers. -/
  | regRead (port : Fin 2) (offset : BitVec 24) (count : Byte)
  /-- REG_WRITE (spec R437): Management message writing a BAR0 register as a PCIe write from that master. -/
  | regWrite (port : Fin 2) (offset : BitVec 24) (value : W32)
  /-- JOB (spec R437): Management message submitting a job entry into the control order. -/
  | job (port : Fin 2) (entry : Bytes)
  /-- EVENT_READ (spec R437): Management message returning and removing entries from the port's event buffer. -/
  | eventRead (port : Fin 2) (count : Byte)
  /-- KEEPALIVE (spec R437): Management message returning OWN_STATUS and keeping a port owner alive. -/
  | keepalive (port : Fin 2)
  /-- BOARD_WRITE (spec R437): Management message writing 256 bytes of the board record into both NOR copies. -/
  | boardWrite (port : Fin 2) (offset : BitVec 16) (data : Bytes)
  /-- RECOVERY (spec R437): Management message transferring a recovery package, checked, written and followed by reset on LAST. -/
  | recovery (port : Fin 2) (offset : W32) (last : Bool) (data : Bytes) (facts : BootFacts)
  /-- ENTDAA (spec R436): I3C dynamic address assignment of the management port. -/
  | entdaa (port : Fin 2) (addr : BitVec 7)
  /-- GET_ENDPOINT_ID (spec R436): MCTP control command returning the endpoint ID. -/
  | getEndpointId (port : Fin 2)
  /-- SET_ENDPOINT_ID (spec R436): MCTP control command setting the endpoint ID. -/
  | setEndpointId (port : Fin 2) (eid : Byte)
  /-- GET_MCTP_VERSION_SUPPORT (spec R436): MCTP control command returning supported versions. -/
  | getMctpVersionSupport (port : Fin 2)
  /-- GET_MESSAGE_TYPE_SUPPORT (spec R436): MCTP control command returning supported message types. -/
  | getMessageTypeSupport (port : Fin 2)
  /-- GET_VENDOR_MESSAGE_SUPPORT (spec R436): MCTP control command returning vendor-defined message support. -/
  | getVendorMessageSupport (port : Fin 2)
  /-- LINK_UP (spec R406): A PCIe link reaches DL_Up at its trained width and speed. -/
  | linkUp (link : Fin 2) (speed : BitVec 4) (width : Byte) (flit : Bool)
  /-- LINK_DOWN (spec R408): A PCIe link enters DL_Down, resetting its function and sending the owner into lapsing. -/
  | linkDown (link : Fin 2)
  /-- FLR (spec R408): Function-level reset of one function, erroring its queues and vacating its ownership. -/
  | flr (link : Fin 2)
  /-- HOT_RESET (spec R408): Hot reset of one function, erroring its queues and vacating its ownership. -/
  | hotReset (link : Fin 2)
  /-- PERST (spec R472): PERST_N or PERSTB_N asserts a link-only reset, and its deassertion starts training. -/
  | perst (link : Fin 2) (asserted : Bool)
  /-- DMA_ERROR (spec R409): A host-memory transfer fails and ends its queue, event, sample or Hold command as stated. -/
  | dmaError (transfer : DmaPurpose) (addr : W64)
  /-- MONITOR_WINDOW (spec R449): A reference-monitor window ends; two out-of-range windows or a zero count declare a reference failure. -/
  | monitorWindow (die : Fin 14) (count : BitVec 16) (stops : List TileStop)
  /-- GENERATOR_HOLDOVER (spec R450): A generator's reference edges stop for 0.1 µs and it enters holdover. -/
  | generatorHoldover (island : IslandId)
  /-- REFERENCE_RESTORED (spec R451): After the reference is good for the settle delay, generators relock, islands return and ports retrain. -/
  | referenceRestored (windows : List (List (BitVec 16)))
  /-- CLK_RESUME (spec R451): CLK_CTRL RESUME continues a suspended attempt after a reference failure. -/
  | clkResume (master : Fin 4)
  /-- DISCARD (spec R451): CLK_CTRL DISCARD discards the suspended attempt and stops the device. -/
  | discard (master : Fin 4)
  /-- SOURCE_FB (spec R447): CLK_CTRL command switching the selected island to the fallback oscillator. -/
  | sourceFb (master : Fin 4)
  /-- SOURCE_GEN (spec R447): CLK_CTRL command switching the selected island to its generator. -/
  | sourceGen (master : Fin 4)
  /-- SWITCH_WATCHDOG (spec R448): A clock switch not done within 64 target cycles is forced and island-forced raised. -/
  | switchWatchdog (island : IslandId)
  /-- GOVERNOR_TICK (spec R454): Each 1 µs tick the breakwater governor admits island transitions up to 9.5 A. -/
  | governorTick
  /-- CORE_IDLE (spec R455): A core that issued no tile or vector descriptor for 4,096 cycles becomes idle and requests its end of work. -/
  | coreIdle (core : CoreId)
  /-- POWER_WINDOW (spec R456): A 1 ms power window ends and the core clock cap is lowered or raised by 25 MHz. -/
  | powerWindow (watts : BitVec 16)
  /-- SLACK_ENTERED (spec R457): The input falls below the warning level or a die reaches slack temperature; the step suspends and islands ramp to sleep. -/
  | slackEntered (thermal : Bool) (stops : List TileStop)
  /-- RELEASE_LEVEL_CROSSED (spec R457): The input rises above the release level and the release timer starts. -/
  | releaseLevelCrossed
  /-- SLACK_RELEASE_TIMER (spec R457): The release timer reaches 1 ms, islands ramp back to run and the step continues. -/
  | slackReleaseTimer
  /-- RESET_LEVEL (spec R458): The input falls below the reset level; the attempt is discarded and only the hold-up domain stays on. -/
  | resetLevel
  /-- HOLDUP_CUTOFF (spec R458): The input reaches the hold-up cut-off and the K12 is off. -/
  | holdupCutoff
  /-- INPUT_HIGH (spec R461): The input rises above 56.0 V and input-high is raised once per excursion. -/
  | inputHigh (tenMillivolts : BitVec 16)
  /-- THERMAL_TRIP (spec R478): A die exceeds the trip temperature and the device resets and waits to cool below 60 °C. -/
  | thermalTrip (facts : BootFacts)
  /-- RESET (spec R459): PWR_CTRL RESET performs the commanded device reset. -/
  | reset (master : Fin 4) (facts : BootFacts)
  /-- POWER_ON (spec R460): Input rises or stays above the release level for 10 ms and the power-up and boot sequence runs. -/
  | powerOn (facts : BootFacts)
  /-- REFERENCE_SETTLE (spec R460): The reference-settle delay ends, N0 is calibrated and generators lock. -/
  | referenceSettle (windows : List (List (BitVec 16)))
  /-- INPUT_BELOW_RELEASE_LEVEL (spec R457): While the slack release timer runs, the filtered input falls below the release level but stays above the warning level, and the timer restarts from 0. -/
  | inputBelowReleaseLevel
  /-- SLACK_TEMPERATURE_CLEARED (spec R457): For a thermal slack cause, every die's reading crosses 5 °C below the slack temperature, starting the release timer, or a die warms back above that margin, restarting it. -/
  | slackTemperatureCleared (cleared : Bool)
  /-- TRIP_COOLDOWN_COMPLETE (spec R478): After a thermal-trip reset, every die reads at most 60 °C and the K12 runs the power-up sequence. -/
  | tripCooldownComplete
  /-- INPUT_HIGH_ENDED (spec R461): The input falls back to 56.0 V or below, PWR_STATUS.HIGH clears and input-high can be raised on the next excursion. -/
  | inputHighEnded
  /-- MISALIGNED_BAR0_READ (spec R12): A BAR0 read that is not a naturally aligned 32-bit access returns 0xFFFF_FFFF and raises misaligned-access. -/
  | misalignedBar0Read (master : Fin 4) (offset : BitVec 24) (size : Nat)
  deriving DecidableEq, Repr

end Sys2Proof
end

