-- ==== Sys2Proof/Config.lean ====
section
/-! DEFINITION. What the spec leaves to the implementation, as constants without a value: nothing in Lean can evaluate them,
so a statement that holds, holds for every choice. Each is named in the assumption log. -/
namespace Sys2Proof.Config
open Sys2Proof

/-- BASE and METAL of ID_STEPPING: the stepping of this part (R414 gives the layout; a stepping is a fact of the part). -/
opaque baseStepping : Byte
opaque metalStepping : Byte

/-- ID_STEPPING (R414, R481): PRODUCT 0x000C, BASE, METAL. -/
def stepping : W32 := 0x000C#16 ++ (baseStepping ++ metalStepping)

/-- The depth, less one, of the tile queue and of the vector queue of a core: R163 gives only the mover and collective
queues a depth. -/
opaque tileDepthM1 : Nat
opaque vectorDepthM1 : Nat

/-- Transcendental results (R144): bounded by the spec, not given as bits; where a value breaks the bound it is not used. The
arguments are the operation code, the operand rounded into no format (its sign, significand, exponent), and the output format
code; the answer is the value before the output rounding as sign, significand and exponent. -/
opaque transcendental : Nat → Bool → Nat → Int → Nat → Bool × Nat × Int

/-- The K12's own inverse DCT (R189): the dequantised coefficients in natural order, row and column; the level before the
shift by 128. It counts only where it meets the accuracy requirements of IEEE 1180-1990. -/
opaque idct : List Int → Nat → Nat → Int

/-- The K12's own Opus decoder (R191), with its own concealment of lost packets (R207): the FP32 bits of a PCM sample at
48 kHz, from the stream's OpusHead packet, its audio packets (none: lost), the channel and the sample's index. -/
opaque opusPcm : Bytes → List (Option Bytes) → Nat → Nat → Nat

/-- Whether the source of a PNG entry is 16 bits deep where no header tells it. -/
opaque unknownDepth : Bytes → Bool

/-- A sample after rate conversion, as FP32 bits (R191 fixes no coefficients): source rate, target rate, the channel's
decoded samples in units of 2^−256, index. -/
opaque resample : Nat → Nat → List Int → Nat → Nat

/-- A resized pixel component in FP32 (R190 bounds it): filter, size of the crop and of the output (width, height), the
crop's components pixel by pixel, row, column, channel. -/
opaque resize : Nat → Nat × Nat → Nat × Nat → List Nat → Nat → Nat → Nat → Nat

/-- A mel value in FP32 (R192 bounds it): FFT_N, the frame's WIN_LEN samples in units of 2^−256, the bin's row of the filter
table. -/
opaque mel : Nat → List Int → List Nat → Nat

/-- The mel value of a channel that the source does not have, as FP32 bits: the source's channels, channel, frame, bin. -/
opaque absentChannel : Nat → Nat → Nat → Nat → Nat

/-- Which sample a time range starts at (START_MS, rate), and how many samples it selects (START_MS, DURATION_MS, rate,
samples), where it does not fall on whole samples, and how many samples a rate conversion yields. -/
opaque selectedFrom : Nat → Nat → Nat
opaque selectedLen : Nat → Nat → Nat → Nat → Nat
opaque resampledLen : Nat → Nat → Nat → Nat

/-- Where a firmware-supplied program of R231, R232 or R236 keeps a record, by the machine's counter. -/
opaque programRecord : Nat → Nat

/-- The bytes of a Ballast row that the spec gives no contents: plan digest, row, version, and the bytes it is made from. -/
opaque ballastRow : Bytes → Nat → Nat → Bytes → Bytes

/-- The session number that a port draws for a new link (R288), by the machine's counter. -/
opaque linkSession : Nat → W32

/-- The working format tag of a shard (R343 exports it; no section of the plan gives it): plan digest and shard. -/
opaque workingTag : Bytes → Nat → Bytes

/-- The spare blocks of the Hold as made (R315, R348), and its P/E counts as made: Bond, Ballast. -/
opaque spareTotal : Nat
opaque bondWear : W32
opaque ballastWear : W32

/-- How far the highest P/E count of a region (0 Bond, 1 Ballast) stands above the mean, by the bytes programmed into it. -/
opaque wearSpread : Nat → Nat → Nat

/-- The bytes that the Hold relocates when a row is programmed (R342), by the bytes programmed before. -/
opaque relocation : Nat → Nat

/-- How many rows of a bank of a pseudo-channel the stack's post-package repair can replace (R349): die, and PUNIT without its
row. -/
opaque rowRepairs : Nat → Nat → Nat

/-- How many bytes of the ledger's copies an interrupted inspection had written (R353, R356), by the machine's counter. -/
opaque ledgerWritten : Nat → Nat

/-- The piece after which a cancelled output ends, by the machine's counter (R329). -/
opaque cancelPiece : Nat → Nat

/-- Free bytes at a place where the spec gives none, by the machine's counter. -/
opaque freeBytes : Nat → Nat → Bytes

/-- The signature scheme of R366 by reference (FN-DSA-1024 over SHAKE256): key, signed bytes, signature field. -/
opaque verifySig : Bytes → Bytes → Bytes → Bool
opaque signWith : Bytes → Bytes → Bytes
opaque publicKey : Bytes → Bytes

/-- Key encapsulation and sealed-record encryption by reference (ML-KEM-1024, AES-256-GCM). -/
opaque decapsulate : Bytes → Bytes → Option Bytes
opaque aesGcmSeal : Bytes → Bytes → Bytes → Bytes → Bytes × Bytes
opaque aesGcmOpen : Bytes → Bytes → Bytes → Bytes → Bytes → Option Bytes

/-- The device secret that the identity structure yields. -/
opaque deviceSecret : Bytes

/-- Chofoun's PCI-SIG vendor ID (R407), and the MCTP version entries that a port reports (R436). -/
opaque vendorId : BitVec 16
opaque mctpVersions : Bytes

/-- The boot ROM's content digest, and what its release-key table holds (R367, R370). -/
opaque romDigest : Bytes
opaque releaseTable : List Bytes

/-- R367: the digests of the release keys that the boot ROM accepts: at most four. -/
def releaseDigests : List Bytes := releaseTable.take 4

/-- The public part of a key-encapsulation seed. -/
opaque kemPublic : Bytes → Bytes

/-- What the host's configuration writes leave in a function's configuration space, by the machine's counter: no row of the
table carries a configuration write. -/
opaque hostCfg : Nat → FnCfg

/-- Whether a write of firmware to a NOR copy fails (R404), by the machine's counter. -/
opaque norWriteFails : Nat → Bool

/-- What the physical device shows to a boot that a register message commands: a free value, since the message brings no
such facts. -/
opaque bootFacts : Nat → BootFacts

/-- What the sensors read (R463) and how far a running Hold command is (R348), by the machine's counter: 0 input voltage, 1
input current, 2 hottest die, 3 per cent of the command. -/
opaque sensor : Nat → Nat → Nat

/-- SLEEP_DIV of an island kind that no clock record covers: R390 states no default. -/
opaque sleepDiv : Nat → Nat

/-- The length of a slack state in µs. -/
opaque slackMicros : Nat → Nat

/-- Codes that an event or a message carries where the spec names the item and gives no code for it. -/
opaque reasonCode : Nat → Byte

end Sys2Proof.Config
end

