-- ==== Sys2Proof/Machine/Exact.lean ====
section
/-! DEFINITION. Exact real arithmetic of the K12: signed values m × 2^e with the specials, exact sums and products, and one
rounding to nearest, ties to even (spec R58). Quotients and roots carry a sticky last bit, so that one rounding of them, also after
a division by a scale, is exact. -/
namespace Sys2Proof.Machine
open Sys2Proof

/-- An exact operand or result: a finite value (−1)^neg × m × 2^e, an infinity, or NaN (R49, R53). -/
inductive Num where
  | fin (neg : Bool) (m : Nat) (e : Int)
  | inf (neg : Bool)
  | nan
  deriving DecidableEq, Repr

/-- The number of significant bits of a natural number. -/
def bitLen (n : Nat) : Nat := if n = 0 then 0 else Nat.log2 n + 1

def numZero : Num := .fin false 0 0
def numNegZero : Num := .fin true 0 0
def numOne : Num := .fin false 1 0
def numOfNat (n : Nat) : Num := .fin false n 0
def numOfInt (i : Int) : Num := .fin (decide (i < 0)) i.natAbs 0
def numPow2 (e : Int) : Num := .fin false 1 e

def isNan : Num → Bool
  | .nan => true
  | _ => false
def isInf : Num → Bool
  | .inf _ => true
  | _ => false
def isZero : Num → Bool
  | .fin _ m _ => m == 0
  | _ => false
def isFin : Num → Bool
  | .fin _ _ _ => true
  | _ => false

/-- The sign bit; NaN counts as positive. -/
def numNeg : Num → Bool
  | .fin n _ _ => n
  | .inf n => n
  | .nan => false

def numFlip : Num → Num
  | .fin n m e => .fin (!n) m e
  | .inf n => .inf (!n)
  | .nan => .nan

def numAbs : Num → Num
  | .fin _ m e => .fin false m e
  | .inf _ => .inf false
  | .nan => .nan

/-- The signed integer i with value = i × 2^u, for u ≤ e. -/
def alignInt (neg : Bool) (m : Nat) (e u : Int) : Int :=
  let v : Int := ((m <<< (e - u).toNat : Nat) : Int)
  if neg then -v else v

/-- An exact sum. A zero sum is −0 only when both terms are −0: R103 says so of the accumulators; for the ADD, SUB and FMA of
Class B, whose chapter states no sign of an exact zero (R61), the same is the model's DESIGN CHOICE (log 73). The flag is set for
opposite infinities (R104). -/
def numAdd (a b : Num) : Num × Bool :=
  match a, b with
  | .nan, _ => (.nan, false)
  | _, .nan => (.nan, false)
  | .inf x, .inf y => if x = y then (.inf x, false) else (.nan, true)
  | .inf x, _ => (.inf x, false)
  | _, .inf y => (.inf y, false)
  | .fin n1 m1 e1, .fin n2 m2 e2 =>
    if m1 = 0 then
      if m2 = 0 then (.fin (n1 && n2) 0 0, false) else (.fin n2 m2 e2, false)
    else if m2 = 0 then (.fin n1 m1 e1, false)
    else
      let u := if e1 ≤ e2 then e1 else e2
      let i := alignInt n1 m1 e1 u + alignInt n2 m2 e2 u
      if i = 0 then (.fin false 0 0, false) else (.fin (decide (i < 0)) i.natAbs u, false)

def numSub (a b : Num) : Num × Bool := numAdd a (numFlip b)

/-- An exact product; the flag is set for 0 × ∞ (R74). R74 names no product of two infinities: it is an infinity with the sign of any
product, and no invalid (DESIGN CHOICE, log 111). -/
def numMul (a b : Num) : Num × Bool :=
  match a, b with
  | .nan, _ => (.nan, false)
  | _, .nan => (.nan, false)
  | .inf x, .inf y => (.inf (x != y), false)
  | .inf x, .fin n m _ => if m = 0 then (.nan, true) else (.inf (x != n), false)
  | .fin n m _, .inf y => if m = 0 then (.nan, true) else (.inf (n != y), false)
  | .fin n1 m1 e1, .fin n2 m2 e2 => (.fin (n1 != n2) (m1 * m2) (e1 + e2), false)

/-- The quotient of positive integers with at least 256 significant bits and a sticky last bit: (q, k) with
m ÷ d ≈ q × 2^−k, q odd wherever the quotient is inexact. -/
def stickyDiv (m d : Nat) : Nat × Nat :=
  let k := 256 + bitLen d - bitLen m
  let n := m <<< k
  (2 * (n / d) + (if n % d = 0 then 0 else 1), k + 1)

/-- A quotient as one value to be rounded once. Zero divisors and infinities follow IEEE 754: x ÷ 0 is ∞ and 0 ÷ 0 and
∞ ÷ ∞ are NaN; the flag is set for a NaN that the division itself creates. -/
def numDiv (a b : Num) : Num × Bool :=
  match a, b with
  | .nan, _ => (.nan, false)
  | _, .nan => (.nan, false)
  | .inf _, .inf _ => (.nan, true)
  | .inf x, .fin n _ _ => (.inf (x != n), false)
  | .fin n _ _, .inf y => (.fin (n != y) 0 0, false)
  | .fin n1 m1 e1, .fin n2 m2 e2 =>
    if m2 = 0 then (if m1 = 0 then (.nan, true) else (.inf (n1 != n2), false))
    else if m1 = 0 then (.fin (n1 != n2) 0 0, false)
    else let (q, k) := stickyDiv m1 m2; (.fin (n1 != n2) q (e1 - e2 - (k : Int)), false)

/-- The integer square root, by bits from the top. -/
def isqrtGo : Nat → Nat → Nat → Nat
  | 0, _, r => r
  | k + 1, n, r => let t := r + 2 ^ k; isqrtGo k n (if t * t ≤ n then t else r)

def isqrt (n : Nat) : Nat := isqrtGo (bitLen n / 2 + 1) n 0

/-- A square root as one value to be rounded once. √−0 is −0; a negative operand gives NaN and sets the flag. -/
def numSqrt (a : Num) : Num × Bool :=
  match a with
  | .nan => (.nan, false)
  | .inf false => (.inf false, false)
  | .inf true => (.nan, true)
  | .fin n m e =>
    if m = 0 then (.fin n 0 0, false)
    else if n then (.nan, true)
    else
      let (m1, e1) := if e % 2 = 0 then (m, e) else (2 * m, e - 1)
      let k := 256 - bitLen m1 / 2
      let v := m1 <<< (2 * k)
      let r := isqrt v
      (.fin false (2 * r + (if r * r = v then 0 else 1)) (e1 / 2 - (k : Int) - 1), false)

/-- Whether a < b, for values that are not NaN; −0 and +0 are equal. -/
def numLt (a b : Num) : Bool :=
  match a, b with
  | .nan, _ => false
  | _, .nan => false
  | .inf x, .inf y => x && !y
  | .inf x, _ => x
  | _, .inf y => !y
  | .fin n1 m1 e1, .fin n2 m2 e2 =>
    let u := if e1 ≤ e2 then e1 else e2
    decide (alignInt n1 m1 e1 u < alignInt n2 m2 e2 u)

def numEq (a b : Num) : Bool :=
  match a, b with
  | .nan, _ => false
  | _, .nan => false
  | _, _ => !numLt a b && !numLt b a

/-- m × 2^e rounded to the nearest value with p significant bits and a last place not below 2^lo, ties to even: the
significand, the last place and whether anything was lost. -/
def roundDy (p : Nat) (lo : Int) (m : Nat) (e : Int) : Nat × Int × Bool :=
  if m = 0 then (0, lo, false)
  else
    let t := e + (bitLen m : Int) - (p : Int)
    let u := if t < lo then lo else t
    if u ≤ e then (m <<< (e - u).toNat, u, false)
    else
      let sh := (u - e).toNat
      let q := m >>> sh
      let r := m % 2 ^ sh
      let half := 2 ^ (sh - 1)
      let up := decide (half < r) || (r == half && q % 2 == 1)
      (if up then q + 1 else q, u, r != 0)

/-- A value rounded to the nearest multiple of 2^q, ties to even, as the integer multiple. -/
def roundQuantum (neg : Bool) (m : Nat) (e q : Int) : Int :=
  if q ≤ e then alignInt neg m e q
  else
    let sh := (q - e).toNat
    let k := m >>> sh
    let r := m % 2 ^ sh
    let half := 2 ^ (sh - 1)
    let up := decide (half < r) || (r == half && k % 2 == 1)
    let v : Int := ((if up then k + 1 else k : Nat) : Int)
    if neg then -v else v

/-- Whether m × 2^e is below 2^t. -/
def belowPow2 (m : Nat) (e t : Int) : Bool := m == 0 || decide (e + (bitLen m : Int) ≤ t)

end Sys2Proof.Machine
end

