-- ==== Sys2Proof/Machine/State.lean ====
section
/-! DEFINITION. The state of the K12 as plain data: everything the spec gives the device, the queue of waiting commands,
the reasons a step can stop, and the state right after reset. INVENTORY.md lists every field with the rule that names it. -/
namespace Sys2Proof.Machine
open Sys2Proof

/-- A sparse map: pairs in strictly rising key order, no pair whose value is the map's default. The operations are in
Machine/SMap.lean. Memories are such maps of bytes. -/
abbrev SMap (α : Type) := List (Nat × α)

/-- A descriptor waiting in a unit's queue: its address, the WAIT fields read at issue (R138) and its place in program
order (R170). -/
structure QEntry where
  addr : Nat
  wctr : Nat
  wcnt : Nat
  ord : Nat
  deriving DecidableEq, Repr

/-- A running accumulator (R101, R111): empty, the standard pair of head and tail, or the FP64-mode double-word. -/
inductive Acc where
  | empty
  | pair (head : W64) (tail : W32)
  | dword (hi lo : W64)
  deriving DecidableEq, Repr

/-- An exception record being built (R118, R119): flag word, term count, and per class the first position, the count and
the merge-tree leaf. -/
structure ExcRec where
  flags : W64
  terms : Nat
  pos : List W64
  cnt : List Nat
  leaf : List (BitVec 16)
  deriving DecidableEq, Repr

/-- A tile in flight (R88): descriptor bytes, mode, fed rows, k-blocks merged by the rows that still run the current
segment, how many fed rows have already spilled it, the running pairs and the deep entries of (row, column), the record that the chain
continues (`base`) and the part of it that this tile adds (`exc`). -/
structure TileRun where
  desc : Bytes
  mode : BroadcastMode
  fed : List Nat
  block : Nat
  ahead : Nat
  accs : List ((Nat × Nat) × Acc)
  deep : List ((Nat × Nat) × Bytes)
  base : ExcRec
  exc : ExcRec
  ord : Nat
  deriving DecidableEq, Repr

/-- A vector operation in flight (R140): outputs are written, its records and its signal are not. -/
structure VecRun where
  desc : Bytes
  exc : ExcRec
  res : W64
  otag : W64
  final : Bool
  ord : Nat
  deriving DecidableEq, Repr

/-- A mover in flight (R164). `stop` is set when a COMPARE with STOP found a difference (R167). -/
structure MovRun where
  desc : Bytes
  stop : Bool
  idx : List Nat
  ord : Nat
  deriving DecidableEq, Repr

/-- A part of a collective message (R299): its number, its scale, its first element and its bytes. -/
structure MsgPart where
  part : Nat
  scale : W32
  elemOff : Nat
  data : Bytes
  deriving DecidableEq, Repr

/-- A collective message in its receive slot (R264), by its key, with the parts that have arrived. -/
structure Msg where
  attempt : W32
  sched : Nat
  seq : Nat
  chunk : Nat
  member : Nat
  parts : Nat
  got : List MsgPart
  deriving DecidableEq, Repr

/-- A collective of the stages after the runs (R231, R232): a replica ALL_REDUCE of one region, or the ALL_REDUCE of the
norm with the device's own deep entry and the one delivered. -/
inductive StageJob where
  | reduce
  | norm (own out : Bytes)
  deriving DecidableEq, Repr

/-- A collective in progress (R260-R263): its descriptor, or the description of the stage job that it serves; the chunks
whose own part is finished upwards and downwards, the TAGs of what it sent and is not yet delivered, and its record. -/
structure ColRun where
  desc : Bytes
  job : Option StageJob
  epoch : W32
  attempt : W32
  upDone : List Nat
  downDone : List Nat
  sent : List (BitVec 16)
  exc : ExcRec
  ord : Nat
  deriving DecidableEq, Repr

/-- One logical core: token counters, berth sequencer (with the mark it has reached, R138, whether that mark has failed
validation, R484, and the program-order number at which each run of the attempt began), unit queues, operations in flight, receive slots with the ring credits, the (SCHED, SEQ) of the collectives that this attempt has completed and the residue
words (offset in the bank, bytes) that it has narrowed (R258), statistics. -/
structure Core where
  ctr : SMap Nat
  pc : Nat
  mark : Option QEntry
  markBad : Bool
  run : Nat
  runStarts : List Nat
  runActive : Bool
  fwdEnded : Bool
  stopped : Bool
  nextOrd : Nat
  tileQ : List QEntry
  vecQ : List QEntry
  movQ : List QEntry
  colQ : List QEntry
  tiles : List TileRun
  vec : Option VecRun
  movs : List MovRun
  cols : List ColRun
  recv : List Msg
  credits : List (Nat × Nat × Nat)
  doneCols : List (Nat × Nat)
  quant : List (Nat × Nat)
  stat : List W64
  flagged : W64
  raised : BitVec 4
  lossBad : Bool
  pairWired : Bool
  idle : Bool
  startAsked : Bool
  deriving DecidableEq, Repr

/-- A stalled access of R175: the failing location, whether it waits for regeneration (else for good), and the core and
program-order number of the operation that made it. -/
structure Stall where
  unit : W32
  addr : Nat
  regen : Bool
  op : Option (Nat × Nat)
  deriving DecidableEq, Repr

/-- Parity state (R172-R175) and the HBM controllers' refresh and scrub positions (R162). -/
structure Parity where
  replays : SMap Nat
  raised : List W32
  stalls : List Stall
  scrub : SMap Nat
  refresh : SMap Nat
  deriving DecidableEq, Repr

/-- A request at an arbiter: requester, class, its age at a large arbiter (R178, R179), and the bytes it moves. -/
structure ArbReq where
  req : Nat
  cls : ReqClass
  age : Nat
  addr : Nat
  len : Nat
  deriving DecidableEq, Repr

/-- One arbiter (R176-R181). -/
structure Arb where
  reqs : List ArbReq
  ptr : Nat
  urgent : SMap Nat
  masked : List Nat
  last : Option Nat
  deriving DecidableEq, Repr

/-- The states of the step machine (R217), by code. -/
inductive StepState where
  | idle
  | passes
  | normCheck
  | update
  | tally
  | updateWait
  | evaluation
  | stopped
  | aborting
  | suspended
  | reshardLock
  deriving DecidableEq, Repr

/-- The verdict of the norm check (R234). -/
inductive Verdict where
  | commit
  | noCommit (cause : BitVec 12)
  deriving DecidableEq, Repr

/-- A manifest of a STEP entry that waits for a place in its stream (R428). -/
structure ManRef where
  pass : Nat
  die : Nat
  stream : Nat
  addr : Nat
  deriving DecidableEq, Repr

/-- A validated manifest as the log book lists it (R325 MAN). -/
structure ManLog where
  pass : Nat
  die : Nat
  stream : Nat
  count : Nat
  digest : Bytes
  deriving DecidableEq, Repr

/-- A released sample as the log book lists it (R325 SAMP). -/
structure SampLog where
  pass : Nat
  die : Nat
  stream : Nat
  idx : Nat
  bytes : Bytes
  deriving DecidableEq, Repr

/-- A fetched job entry: its queue, its ring index, its number in its queue, its 64 bytes; `sub` once a MANIFEST entry
has handed its manifest to the stream. -/
structure JobEnt where
  queue : Nat
  index : Nat
  num : Nat
  bytes : Bytes
  sub : Bool
  deriving DecidableEq, Repr

/-- The running attempt (R214-R241). `reduced` once stage 2 has started, `todo` the regions whose replica ALL_REDUCE waits
for its slot, `finalised` once the FP32 gradients are written, `normSeq` the SEQ of the norm's
instance. -/
structure Attempt where
  job : JobEnt
  step : W64
  np : Nat
  tag : W32
  snap : Bool
  mans : List ManRef
  paged : List Nat
  reduced : Bool
  finalised : Bool
  todo : List GradRegion
  normSeq : W32
  grads : List GradRegion
  norm : Option (W64 × W64)
  upFrom : List Nat
  lossOr : Bool
  upSent : Bool
  jobLoss : Option Bool
  verdict : Option Verdict
  point : Nat
  digests : List (Nat × Bytes)
  repairing : Bool
  cause : BitVec 12
  held : BitVec 12
  lostWhileSuspended : Bool
  concealed : W32
  overBudget : W32
  manLog : List ManLog
  sampLog : List SampLog
  balDigest : Bytes
  deriving DecidableEq, Repr

/-- What the last ended attempt had received (R269, R272): the members whose VERDICT_UP came, whether VERDICT_DOWN came, the
members whose digest came, and its step. -/
structure EndedAtt where
  upFrom : List Nat
  down : Bool
  tallyFrom : List Nat
  step : W64
  deriving DecidableEq, Repr

/-- P1's copy of the control-island state (R365). -/
structure ControlCopy where
  bank : Bool
  c : W64
  a : W64
  epoch : W32
  layout : Nat
  deriving DecidableEq, Repr

/-- The step machine: the STP_ registers, counters and bank pointer (R251), the running attempt and what is kept between
attempts. -/
structure Stp where
  state : StepState
  prior : StepState
  stopPend : Bool
  bank : Bool
  pass : Nat
  phase : Bool
  c : W64
  a : W64
  epoch : W32
  layout : Nat
  last : W32
  normHi : W64
  tally : Bytes
  skips : W32
  att : Option Attempt
  lastTag : W32
  curTag : W32
  commits : SMap W64
  advances : SMap W32
  ended : EndedAtt
  kept : List Txn
  abortsSeen : List W32
  mirror : ControlCopy
  deriving DecidableEq, Repr

/-- The re-shard lock (R275). -/
structure Lock where
  job : JobEnt
  target : Nat
  point : Nat
  drainedFrom : List Nat
  permutedFrom : List Nat
  selfDrained : Bool
  selfPermuted : Bool
  waited : Bool
  putsLeft : List (BitVec 16)
  got : Nat
  abandonAsked : Bool
  decided : Bool
  deriving DecidableEq, Repr

/-- Where a sample is (R201-R203). -/
inductive SampleState where
  | waiting
  | decoding
  | ready (writes : List (Nat × Bytes)) (outcome : Bytes)
  deriving DecidableEq, Repr

/-- An admitted, unreleased sample: its manifest's number, its entry index and its 128-byte entry. -/
structure Sample where
  man : Nat
  idx : Nat
  ent : Bytes
  st : SampleState
  deriving DecidableEq, Repr

/-- A validated manifest in a stream's queue (R200). -/
structure Man where
  num : Nat
  hdr : Bytes
  ents : List Bytes
  digest : Bytes
  next : Nat
  released : Nat
  deriving DecidableEq, Repr

/-- One slipway stream (R196-R204, R213). -/
structure Stream where
  subs : List (Nat × Option Nat)
  queue : List Man
  window : List Sample
  nextNum : Nat
  invalid : Bool
  samples : W64
  concealed : W32
  overBudget : W32
  units : W64
  mdigest : Bytes
  raised : BitVec 4
  deriving DecidableEq, Repr

/-- A decoder engine at work: its stream, and the sample by manifest number and entry index (R202). -/
structure Decoding where
  stream : Nat
  man : Nat
  idx : Nat
  deriving DecidableEq, Repr

/-- One slipway's engines and arbiter pointers, by engine kind. -/
structure Slipway where
  busy : SMap (Option Decoding)
  ptr : SMap Nat
  deriving DecidableEq, Repr

/-- Fabric port states (R309 FAB_PSTAT.STATE), by code. -/
inductive PortState where
  | down
  | training
  | up
  | retraining
  | held
  | cablingFault
  | disabled
  deriving DecidableEq, Repr

/-- How a transaction arrived: its port, its virtual lane, and the flits of the receive buffer that it frees when it is
forwarded or consumed (R290). -/
structure Arrived where
  port : Nat
  vl : Nat
  flits : Nat
  deriving DecidableEq, Repr

/-- One fabric port (R283-R293, R309). Lanes are bit sets of nine; a spare flag says that the spare lane of a direction serves,
`toldTx` and `toldRx` that its use was told (R363),
`narrowed` that a width operation has put the link on four lanes. `linked` holds while the sequence state and replay buffer of a
link are kept, `carries` while the peer check lets data flits pass, `asked` while a replay request stands. `sess` is this end's
session number and `session` the peer's. `ctlWait` holds control bodies that wait for room in the replay buffer. `rxMarks` tells,
by virtual lane, how far into the received byte stream each flit reaches whose credit is not yet returned.
`acked` is the sequence number of the oldest flit in the replay buffer. `txEnds` (by virtual lane: bytes to the end of each
transaction not yet wholly in flits, its source and TAG) and `flying` (the last flit, source and TAG of each transaction
not yet acknowledged) say which transactions a lost link loses. `widthOp` holds while the retraining under way is a width operation
(R292). `owed` (by virtual lane: bytes to the end of a transit transaction not yet wholly in flits, and how it came) and `freed` (those
that have left) say which credits of other ports go back once it is forwarded (R290). -/
structure Port where
  state : PortState
  width : Nat
  spareTx : Bool
  spareRx : Bool
  toldTx : Bool
  toldRx : Bool
  narrowed : Bool
  widthOp : Bool
  laneBadTx : BitVec 9
  laneBadRx : BitVec 9
  peerId : BitVec 18
  peerPort : BitVec 4
  fails : Nat
  linked : Bool
  carries : Bool
  sess : W32
  session : W32
  txSeq : BitVec 12
  rxSeq : BitVec 12
  acked : BitVec 12
  asked : Bool
  replayBuf : List Flit
  ctlWait : List Bytes
  credit : SMap Nat
  resends : Nat
  swapTx : Option (Nat × Nat × BitVec 12)
  swapRx : Option (Nat × Nat × BitVec 12)
  txStream : SMap Bytes
  rxStream : SMap Bytes
  rxMarks : SMap (List Nat)
  txEnds : SMap (List (Nat × Nat × Nat))
  flying : List (BitVec 12 × Nat × Nat)
  owed : SMap (List (Nat × Arrived))
  freed : List Arrived
  corr : W32
  uncorr : W32
  replay : W32
  lost : W32
  deriving DecidableEq, Repr

/-- A FAB_ALIAS entry (R303, R309), as its two register halves. -/
structure Alias where
  lo : W32
  hi : W32
  deriving DecidableEq, Repr

/-- What an outstanding transaction of this device was sent for (R300, R301). -/
inductive SentFor where
  | collective (core : Nat) (ord : Nat)
  | control
  | sisterPiece (slot : Nat)
  | sisterHeader (slot : Nat)
  | sisterLog (seq : W64)
  | standin (part : Nat)
  | permute
  deriving DecidableEq, Repr

/-- A transaction at this device that waits to be routed: its rail, and how it arrived where it comes from a port
(R281, R295). -/
structure Outbound where
  rail : Nat
  arr : Option Arrived
  txn : Txn
  deriving DecidableEq, Repr

/-- The fabric: ports, aliases, the transactions waiting to be routed, those that have landed and wait for their own
commands, and the unanswered requests of this device. -/
structure Fabric where
  homeId : BitVec 18
  ports : SMap Port
  aliases : SMap Alias
  outbox : List Outbound
  landed : List Txn
  outstanding : List (BitVec 16 × Txn × SentFor)
  nextTag : BitVec 16
  deriving DecidableEq, Repr

/-- Snapshot slot states (R348 HLD_SLOT.STATE). -/
inductive SlotState where
  | empty
  | filling
  | sealed
  | invalid
  deriving DecidableEq, Repr

/-- One snapshot slot (R317, R318): its header and the sparse bytes of its body; `imported` once SEAL_IN wrote it (the
SOURCE of a RESTORE record, R324). -/
structure Slot where
  st : SlotState
  sisterOk : Bool
  cover : Bool
  imported : Bool
  header : Bytes
  body : SMap Byte
  deriving DecidableEq, Repr

/-- How the sister copy of a drain stands (R319). -/
inductive SisterCopy where
  | pending
  | sealed
  | failed
  deriving DecidableEq, Repr

/-- A snapshot in progress (R319): the frozen bank, the own slot, the point, the next byte to drain, the facts its header
needs, and the sister copy. -/
structure Drain where
  bank : Bool
  slot : Nat
  point : Nat
  next : Nat
  header : Bytes
  sister : SisterCopy
  deriving DecidableEq, Repr

/-- A log record as kept (R323): its SEQ, its type, where it begins (counted on from the start of its log area, past the
ring's end too), and its bytes. -/
structure LogRec where
  seq : W64
  type : BitVec 16
  pos : Nat
  bytes : Bytes
  deriving DecidableEq, Repr

/-- Replay mode (R332-R334): the last step, the logged records still ahead, whether they stand in the own log area,
whether one of them has been lost, and whether the trace feeds the replay. -/
structure Replay where
  upto : W64
  log : List LogRec
  own : Bool
  lost : Bool
  trace : Bool
  deriving DecidableEq, Repr

/-- A Ballast cache slot's directory entry (R338): its row, the version of each half, its last use. -/
structure BalSlot where
  row : Option Nat
  ver0 : W64
  ver1 : W64
  lastUse : Nat
  deriving DecidableEq, Repr

/-- The running Hold command (R329): its code and its job entry. -/
structure HoldCmd where
  code : Nat
  job : JobEnt
  cancel : Bool
  deriving DecidableEq, Repr

/-- What a stand-in has read of the failed device's image and records (R335): the header that it has chosen, the parts that
have arrived, their bytes, and whether a read was answered with an error. -/
structure StandinFetch where
  header : Option Bytes
  slot : Nat
  got : List Nat
  bytes : SMap Byte
  failed : Bool
  deriving DecidableEq, Repr

/-- The Hold (chapter 11). `logPos` is where the next own record goes, counted on past the ring's end; `prevDigest` is the RDIGEST
of the record before it; `sisParts` holds the PUTs of sister records that are not yet whole or wait for an earlier record, by
their offset in the area; `sisAcks` the own records that the sister has acknowledged (R326); `bucketRem` what
a refill of the bucket leaves below one byte, `batch` what the batch of forced programs that is open may still program (R342); `bondProg` and `balProg` the bytes programmed into each region; `planHome` the
home ID of the newest PLAN record (R400); `traceFrom` and `traceUpto` bound the steps that the trace ring covers. -/
structure Hold where
  slots : SMap Slot
  drain : Option Drain
  snapQueue : List Drain
  log : List LogRec
  nextSeq : W64
  prevDigest : Bytes
  logPos : Nat
  sisLog : List LogRec
  sisParts : List (Nat × Txn)
  sisAcked : W64
  sisAckedAny : Bool
  sisAcks : List W64
  replay : Option Replay
  replayTo : W64
  cmd : Option HoldCmd
  fetch : Option StandinFetch
  restoreFailed : Bool
  sisterUp : Bool
  trace : Bool
  ring : List Bytes
  traceFrom : Nat
  traceUpto : Nat
  bal : List BallastRow
  cache : SMap BalSlot
  slotTable : List (Nat × Nat × Nat)
  useOrd : Nat
  bucket : Nat
  bucketRem : Nat
  batch : Nat
  planHome : BitVec 18
  sealCount : W32
  bondWear : W32
  balWear : W32
  bondProg : Nat
  balProg : Nat
  spareBlocks : W32
  retired : SMap Nat
  progFail : W32
  ownerCopy : Bytes
  deriving DecidableEq, Repr

/-- A ledger entry (R357). -/
structure LedgerEnt where
  kind : Byte
  state : Byte
  cause : Byte
  pdie : Byte
  punit : W32
  aux : W32
  gen : W32
  deriving DecidableEq, Repr

/-- A queued location (R351): the unit it lies in and why it was queued. -/
structure QueuedLoc where
  unit : W32
  addr : Nat
  cause : Byte
  deriving DecidableEq, Repr

/-- SPR_STATUS.STATE (R364). -/
inductive SprState where
  | ready
  | inspecting
  | noShape
  deriving DecidableEq, Repr

/-- An inspection whose points 1 to 3 are done (R353): whether it is full, the new set with its generation, whether the ledger
is to be written, how many groups used their last spare, how many entries were added, which copies were valid, whether any
copy was, and its duration. -/
structure Inspection where
  full : Bool
  entries : List LedgerEnt
  gen : W64
  grown : Bool
  exhausted : Nat
  added : Nat
  ok0 : Bool
  ok1 : Bool
  okb : Bool
  chosen : Bool
  ms : W32
  deriving DecidableEq, Repr

/-- Spares, ledger and inspection (chapter 12). -/
structure Spares where
  state : SprState
  lastKind : BitVec 2
  nextFull : Bool
  nor0Ok : Bool
  nor1Ok : Bool
  bondOk : Bool
  bondLedger : Bytes
  added : Nat
  gen : W64
  entries : List LedgerEnt
  queue : List QueuedLoc
  overflow : Bool
  offered : Bool
  lastMs : W32
  insp : Option Inspection
  deriving DecidableEq, Repr

/-- One die of a plan's shape (R389): HBM stacks and the core count of each logical cluster. -/
structure DieShape where
  hbmStacks : Nat
  cores : List Nat
  deriving DecidableEq, Repr

/-- The shape section (R389). -/
structure Shape where
  ex : Nat
  ey : Nat
  ez : Nat
  rails : Nat
  holdStacks : Nat
  state0 : Nat
  state1 : Nat
  res0 : Nat
  res1 : Nat
  stateBytes : Nat
  resBytes : Nat
  dies : List DieShape
  deriving DecidableEq, Repr

/-- A clock record (R390). -/
structure ClockRec where
  kind : Nat
  die : Nat
  unit : Nat
  mhz : Nat
  sleepDiv : Nat
  deriving DecidableEq, Repr

/-- A quota record (R390). -/
structure QuotaRec where
  arb : Nat
  die : Nat
  wLog2 : Nat
  req : Nat
  qu : Nat
  deriving DecidableEq, Repr

/-- An SRAM partition (R391). -/
structure Part where
  part : Nat
  mem : Nat
  attr : Byte
  slices : Nat
  offset : Nat
  length : Nat
  rebuild : W32
  deriving DecidableEq, Repr

/-- A group record (R267). -/
structure Group where
  group : Nat
  n : Nat × Nat × Nat
  s : Nat × Nat × Nat
  deriving DecidableEq, Repr

/-- A schedule record (R267). -/
structure Sched where
  sched : Nat
  cop : Nat
  rotate : Nat
  explicit : Bool
  group : Nat
  treeFirst : Nat
  recvOff : Nat
  recvBytes : Nat
  deriving DecidableEq, Repr

/-- A permute entry (R273). -/
structure Permute where
  src : Nat
  dst : Nat
  residue : Bool
  srcOff : Nat
  dstOff : Nat
  len : Nat
  deriving DecidableEq, Repr

/-- A program image record (R397) with its bytes. -/
structure Image where
  core : Nat
  loadOff : Nat
  entryOff : Nat
  bytes : Bytes
  deriving DecidableEq, Repr

/-- A shard record (R397). -/
structure Shard where
  shard : W32
  expOff : Nat
  offset : Nat
  bytes : Nat
  tagOff : Nat
  deriving DecidableEq, Repr

/-- A digest range (R397). -/
structure Range where
  core : Nat
  offset : Nat
  bytes : Nat
  deriving DecidableEq, Repr

/-- A relocation (R397). -/
structure Reloc where
  core : Nat
  role : Nat
  fieldOff : Nat
  bankOff : Nat
  deriving DecidableEq, Repr

/-- A rebuilding program record (R397) with its bytes. -/
structure Prog where
  prog : W32
  core : Nat
  loadOff : Nat
  bytes : Bytes
  deriving DecidableEq, Repr

/-- One layout: its trees and schedules (R266) and its program images (R396, R397). -/
structure Layout where
  runahead : Nat
  groups : List Group
  scheds : List Sched
  nodes : List (Nat × Nat)
  maps : List Permute
  jobGroup : Nat
  shardGroup : Nat
  replicaGroup : Nat
  normSched : Nat
  adamW : Bool
  beta1 : W32
  beta2 : W32
  eps : W32
  wd : W32
  lrs : List (W64 × W32)
  images : List Image
  shards : List Shard
  ranges : List Range
  relocs : List Reloc
  progs : List Prog
  deriving DecidableEq, Repr

/-- A slipway profile (R196, R393), as its 64 bytes; `ok` when it passes validation (R195). -/
structure Profile where
  bytes : Bytes
  ok : Bool
  deriving DecidableEq, Repr

/-- A stream record (R393). -/
structure StreamCfg where
  die : Nat
  stream : Nat
  eval : Bool
  clusters : Byte
  profiles : List Profile
  deriving DecidableEq, Repr

/-- The Hold-regions section (R394). -/
structure HoldCfg where
  sisterXor : BitVec 18
  balRow : Nat
  slotBytes : Nat
  logBytes : Nat
  traceBytes : Nat
  balBytes : Nat
  balRows : Nat
  balCache : Nat
  balSlots : Nat
  balLife : Nat
  balList : Nat
  balLStride : Nat
  deriving DecidableEq, Repr

/-- The fault-policy section (R395). -/
structure Policy where
  skip : Bool
  snapEvery : Nat
  normLimit : W32
  statsAddr : Nat
  laneThresh : W32
  suppress : List (BitVec 16)
  loss : List W32
  deriving DecidableEq, Repr

/-- A stowage plan, read from its bytes (R387-R397). -/
structure Plan where
  digest : Bytes
  shapeId : Bytes
  shape : Shape
  clocks : List ClockRec
  quotas : List QuotaRec
  parts : List Part
  modes : List Byte
  streams : List StreamCfg
  hold : HoldCfg
  policy : Policy
  layouts : List Layout
  deriving DecidableEq, Repr

/-- PLN_STATUS.STATE (R403). -/
inductive PlnState where
  | none
  | checking
  | validating
  | applying
  | applied
  deriving DecidableEq, Repr

/-- A load at point 2 or 3 of R398: its plan object's address and home ID, and the bytes that point 2 read. -/
structure LoadJob where
  addr : Nat
  home : BitVec 18
  bytes : Bytes
  deriving DecidableEq, Repr

/-- Plan application (R398-R403). `job` is a load at point 2 or 3; `loading` holds the plan that waits for point 4, with its
latched home ID. -/
structure Pln where
  state : PlnState
  cont : Bool
  reason : Byte
  section_ : Nat
  addr : W64
  home : W32
  plan : Option Plan
  job : Option LoadJob
  loading : Option (Plan × BitVec 18)
  everApplied : Bool
  deriving DecidableEq, Repr

/-- SEC_STATUS.BOOT (R404). -/
inductive BootState where
  | ready
  | booting
  | failed
  deriving DecidableEq, Repr

/-- The owner record in use (R380). -/
structure Owner where
  claimed : Bool
  gen : W64
  minSvn : W32
  key : Bytes
  curId : W32
  curWrap : Bytes
  prevId : W32
  prevWrap : Bytes
  deriving DecidableEq, Repr

/-- A firmware update that runs (R375): its point, the inactive slot, the address of the package and, from point 3 on, its bytes;
`mirrorDone` says that the mirror's copy is written. -/
structure FwStage where
  point : Nat
  slot : Bool
  addr : Nat
  bytes : Bytes
  mirrorDone : Bool
  deriving DecidableEq, Repr

/-- Boot, firmware, identity and measurements (R366-R386, R404). `ctlRead` says that this boot has read the boot control record. -/
structure Sec where
  ctlRead : Bool
  stage : Option FwStage
  boot : BootState
  ident : Bool
  slot : Bool
  copy : Bool
  trialBoot : Bool
  fwReason : Byte
  fwAddr : W64
  svn : W32
  fwVersion : W32
  fwDigest : Bytes
  serial : W64
  secret : Bytes
  mBoot : Bytes
  mConf : Bytes
  mPlan : Bytes
  owner : Owner
  reclaimSeq : W64
  package : SMap Byte
  releaseKey : Bytes
  deriving DecidableEq, Repr

/-- OWN_STATUS.STATE (R421). -/
inductive OwnState where
  | vacant
  | held
  | offered
  | lapsing
  deriving DecidableEq, Repr

/-- Ownership (R416, R421). -/
structure Own where
  state : OwnState
  owner : Fin 4
  target : Fin 4
  gen : BitVec 16
  timeout : Byte
  deriving DecidableEq, Repr

/-- One of the 256 queues (R422-R434). -/
structure Queue where
  enabled : Bool
  event : Bool
  link : Bool
  vector : Byte
  sizeLog2 : Nat
  base : W64
  head : Nat
  tail : Nat
  error : Byte
  mask : BitVec 16
  timeUs : BitVec 16
  count : Byte
  lost : W32
  phase : Bool
  unsignalled : Nat
  lostMark : Bool
  lostTold : Bool
  fetched : Nat
  deriving DecidableEq, Repr

/-- The control order and the entries outside it (R425-R427). -/
structure Ctl where
  running : Option JobEnt
  waiting : List JobEnt
  free : List JobEnt
  turn : Nat
  deriving DecidableEq, Repr

/-- What each master holds of its own: selectors (R419) and captured _HI halves (R13). -/
structure Master where
  jqSel : Byte
  slwDie : BitVec 4
  slwStream : BitVec 3
  fabSel : BitVec 4
  slotSel : BitVec 2
  clkSel : IslandId
  captured : List (Nat × W32)
  deriving DecidableEq, Repr

/-- One PCIe function and its link (R405-R412); `unset` while its configuration space is as a reset left it, until the host configures
it anew. -/
structure Fn where
  up : Bool
  speed : BitVec 4
  width : Byte
  flit : Bool
  perst : Bool
  win : W64
  msix : SMap W32
  pba : SMap Bool
  doe : Option Bytes
  cfg : FnCfg
  unset : Bool
  deriving DecidableEq, Repr

/-- One management port (R436-R439); `busy` while the response to its master's outstanding request is being sent. -/
structure Mgmt where
  addr : Option (BitVec 7)
  eid : Byte
  buf : List Bytes
  lostMark : Bool
  lostTold : Bool
  busy : Bool
  deriving DecidableEq, Repr

/-- A BAR2 access that waits for a stack to leave self-refresh (R445, R457): its function, its device address, how many bytes it
reads, or what it writes. -/
structure HostWait where
  fn : Nat
  addr : Nat
  len : Nat
  data : Option Bytes
  deriving DecidableEq, Repr

/-- What the device puts out, newest last: values of register reads, BAR2 read data, message responses, MSI-X messages
(link, vector) and in-band interrupt bytes to its masters, and ring credits (device, core, schedule, round, SEQ) to its
ring predecessors, whose transport R271 does not give. -/
structure Bus where
  reads : List (Nat × W32)
  bar2 : List Bytes
  bar2Wait : List HostWait
  doe : List (Nat × Bytes)
  mctp : List (Nat × Bytes)
  msix : List (Nat × Nat)
  ibi : List (Nat × Byte)
  ring : List (Nat × Nat × Nat × Nat × Nat)
  deriving DecidableEq, Repr

/-- CLK_STATUS.REF (R462). -/
inductive RefState where
  | absent
  | settling
  | good
  | failed
  deriving DecidableEq, Repr

/-- One island's clock (R446-R450, R462 CLK_ISL). -/
structure Island where
  mode : BitVec 2
  generator : Bool
  lock : Bool
  last : BitVec 2
  mhz : Nat
  holdover : Bool
  target : Option Bool
  deriving DecidableEq, Repr

/-- A clock switch that the governor stages (R447, R451, R456, R460): to the locked generator, to the fallback, or over the fallback and
back at a new frequency. -/
inductive ClockAsk where
  | toGenerator
  | toFallback
  | retune
  deriving DecidableEq, Repr

/-- A governor request (R454): weight in mA and the island transition it asks for: a mode, a core's start or end of work, or a
clock switch. -/
structure GovReq where
  weight : Nat
  island : IslandId
  mode : Option (BitVec 2)
  startCore : Option CoreId
  clock : Option ClockAsk
  deriving DecidableEq, Repr

/-- Clocks and the reference monitor (R441-R452, R462). Each die's monitor has its own expected count: `n0` is that of P0, which
CLK_STATUS shows, and `dieN0` holds those of the other dies. -/
structure Clk where
  ref : RefState
  resumePend : Bool
  settleDef : Bool
  settle : Byte
  n0 : BitVec 16
  dieN0 : SMap Nat
  bad : SMap Nat
  islands : SMap Island
  forced : W32
  refFails : W32
  needResume : Bool
  gov : List GovReq
  deriving DecidableEq, Repr

/-- Where the device is in its power-up and boot (R458-R460, R478). -/
inductive PowerPhase where
  | off
  | holdUp
  | waiting
  | cooling
  | powered
  | booting
  | run
  deriving DecidableEq, Repr

/-- Power (R453-R463). -/
structure Pwr where
  phase : PowerPhase
  slack : Bool
  timer : Bool
  releasing : Bool
  causeSupply : Bool
  causeThermal : Bool
  coolOk : Bool
  vinOk : Bool
  lastReset : BitVec 4
  high : Bool
  cap : Nat
  vin : BitVec 16
  iin : BitVec 16
  power : BitVec 16
  limit : BitVec 16
  boardW : Nat
  linkMode : Bool
  slacks : W32
  temp : Byte
  limitedTold : Bool
  supplyResets : W32
  facts : Option BootFacts
  powerLoss : Bool
  deriving DecidableEq, Repr

/-- The whole device, and the queue of waiting commands (first in, first out). `fresh` is the model's own counter that
free values are taken at; no statement rests on its value. -/
structure State where
  mem : SMap Byte
  hostA : SMap Byte
  hostB : SMap Byte
  nor0 : SMap Byte
  nor1 : SMap Byte
  cores : SMap Core
  par : Parity
  arbs : SMap Arb
  stp : Stp
  lock : Option Lock
  streams : SMap Stream
  slips : SMap Slipway
  fab : Fabric
  hold : Hold
  spr : Spares
  pln : Pln
  sec : Sec
  own : Own
  queues : SMap Queue
  ctl : Ctl
  masters : SMap Master
  staged : SMap (Option W32)
  fns : SMap Fn
  ports : SMap Mgmt
  bus : Bus
  clk : Clk
  pwr : Pwr
  fresh : Nat
  pending : List Instr
  deriving DecidableEq, Repr

/-- Why the machine stops. No command of the K12 ends in a fault of this model: what the spec calls a failure is an event
and a change of state. `absentUnit` stands for an access the spec gives no effect and no event; no meaning raises it
(safe: a run that would raise it stops). -/
inductive Fault where
  | absentUnit
  deriving DecidableEq, Repr

/-- Why a command has no meaning. `notModelled` marks a row whose arm is not written (safe: the run stops there); the
dispatcher alone raises it, naming the row's mnemonic. -/
inductive Refusal where
  | notModelled (mnemonic : String)
  deriving DecidableEq, Repr

/-! The values of every part right after reset. Where a register table has a Reset column, its value stands here; where
the spec states none, the value is the one the assumption log names. -/

/-- A core after reset: no run, empty queues, counters 0. -/
def Core.init : Core :=
  { ctr := [], pc := 0, mark := none, markBad := false, run := 0, runStarts := [], runActive := false, fwdEnded := false, stopped := false, nextOrd := 0,
    tileQ := [], vecQ := [], movQ := [], colQ := [], tiles := [], vec := none, movs := [], cols := [], recv := [],
    credits := [], doneCols := [], quant := [], stat := [0, 0, 0, 0, 0, 0, 0, 0], flagged := 0, raised := 0, lossBad := false, pairWired := false,
    idle := true, startAsked := false }

def Parity.init : Parity := { replays := [], raised := [], stalls := [], scrub := [], refresh := [] }

def Arb.init : Arb := { reqs := [], ptr := 0, urgent := [], masked := [], last := none }

def EndedAtt.init : EndedAtt := { upFrom := [], down := false, tallyFrom := [], step := 0 }

/-- R251: STATE resets to 0x7 (stopped), every other field to 0. -/
def Stp.init : Stp :=
  { state := .stopped, prior := .stopped, stopPend := false, bank := false, pass := 0, phase := false, c := 0, a := 0,
    epoch := 0, layout := 0, last := 0, normHi := 0, tally := List.replicate 16 0, skips := 0, att := none, lastTag := 0,
    curTag := 0, commits := [], advances := [], ended := EndedAtt.init, kept := [], abortsSeen := [],
    mirror := { bank := false, c := 0, a := 0, epoch := 0, layout := 0 } }

def Stream.init : Stream :=
  { subs := [], queue := [], window := [], nextNum := 0, invalid := false, samples := 0, concealed := 0, overBudget := 0,
    units := 0, mdigest := List.replicate 32 0, raised := 0 }

def Slipway.init : Slipway := { busy := [], ptr := [] }

def Port.init : Port :=
  { state := .down, width := 0, spareTx := false, spareRx := false, toldTx := false, toldRx := false, narrowed := false, widthOp := false, laneBadTx := 0, laneBadRx := 0, peerId := 0, peerPort := 0, fails := 0,
    linked := false, carries := false, sess := 0, session := 0, txSeq := 0, rxSeq := 0, acked := 0, asked := false, replayBuf := [], ctlWait := [],
    credit := [], resends := 0, swapTx := none, swapRx := none, txStream := [], rxStream := [], rxMarks := [], txEnds := [], flying := [], owed := [], freed := [],
    corr := 0, uncorr := 0, replay := 0, lost := 0 }

def Alias.init : Alias := { lo := 0, hi := 0 }

def Fabric.init : Fabric :=
  { homeId := 0, ports := [], aliases := [], outbox := [], landed := [], outstanding := [], nextTag := 0 }

def Slot.init : Slot :=
  { st := .empty, sisterOk := false, cover := false, imported := false, header := [], body := [] }

def BalSlot.init : BalSlot :=
  { row := none, ver0 := 0xFFFFFFFFFFFFFFFF#64, ver1 := 0xFFFFFFFFFFFFFFFF#64, lastUse := 0 }

def Hold.init : Hold :=
  { slots := [], drain := none, snapQueue := [], log := [], nextSeq := 0, prevDigest := [], logPos := 0, sisLog := [], sisParts := [], sisAcked := 0,
    sisAckedAny := false, sisAcks := [], replay := none,
    replayTo := 0, cmd := none, fetch := none, restoreFailed := false, sisterUp := false, trace := false, ring := [], traceFrom := 0, traceUpto := 0, bal := [],
    cache := [], slotTable := [], useOrd := 0, bucket := 0, bucketRem := 0, batch := 0, planHome := 0, sealCount := 0, bondWear := 0, balWear := 0, bondProg := 0, balProg := 0,
    spareBlocks := 0, retired := [], progFail := 0, ownerCopy := [] }

/-- R364: STATE resets to inspecting. -/
def Spares.init : Spares :=
  { state := .inspecting, lastKind := 0, nextFull := false, nor0Ok := false, nor1Ok := false, bondOk := false,
    bondLedger := [], added := 0, gen := 0, entries := [], queue := [], overflow := false, offered := false, lastMs := 0, insp := none }

def Pln.init : Pln :=
  { state := .none, cont := false, reason := 0, section_ := 0, addr := 0, home := 0, plan := none, job := none, loading := none,
    everApplied := false }

def Owner.init : Owner :=
  { claimed := false, gen := 0, minSvn := 0, key := [], curId := 0, curWrap := [], prevId := 0, prevWrap := [] }

/-- R369: the measurement registers are zero; R404: BOOT resets to booting. -/
def Sec.init : Sec :=
  { ctlRead := false, stage := none, boot := .booting, ident := false, slot := false, copy := false, trialBoot := false, fwReason := 0, fwAddr := 0,
    svn := 0, fwVersion := 0, fwDigest := List.replicate 32 0, serial := 0, secret := [], mBoot := List.replicate 32 0,
    mConf := List.replicate 32 0, mPlan := List.replicate 32 0, owner := Owner.init, reclaimSeq := 0, package := [],
    releaseKey := [] }

/-- R416: reset leaves ownership vacant with GEN 0; R421: SECONDS resets to 0x0A. -/
def Own.init : Own := { state := .vacant, owner := 0, target := 0, gen := 0, timeout := 0x0A }

/-- R434: SIZE_LOG2 resets to 6, EVQ_MASK to 0x1FFF, EVQ_MOD.COUNT to 1. -/
def Queue.init : Queue :=
  { enabled := false, event := false, link := false, vector := 0, sizeLog2 := 6, base := 0, head := 0, tail := 0,
    error := 0, mask := 0x1FFF, timeUs := 0, count := 1, lost := 0, phase := true, unsignalled := 0, lostMark := false,
    lostTold := false, fetched := 0 }

def Ctl.init : Ctl := { running := none, waiting := [], free := [], turn := 0 }

/-- R462: CLK_SEL.KIND resets to 1. -/
def Master.init : Master :=
  { jqSel := 0, slwDie := 0, slwStream := 0, fabSel := 0, slotSel := 0, clkSel := { kind := 1, die := 0, unit := 0 },
    captured := [] }

/-- A function's configuration space after a reset: no address, D0, MSI-X disabled, the smallest payload and a read request size of
512 bytes, as PCI Express resets them (PRESUMED, log 102). -/
def FnCfg.init : FnCfg :=
  { bar0 := 0, bar2 := 0, d3hot := false, msixEnable := false, msixMask := false, maxPayload := 0, maxRead := 2 }

def Fn.init : Fn :=
  { up := false, speed := 0, width := 0, flit := false, perst := true, win := 0, msix := [], pba := [], doe := none, cfg := FnCfg.init,
    unset := true }

def Mgmt.init : Mgmt := { addr := none, eid := 0, buf := [], lostMark := false, lostTold := false, busy := false }

def Bus.init : Bus := { reads := [], bar2 := [], bar2Wait := [], doe := [], mctp := [], msix := [], ibi := [], ring := [] }

def Island.init : Island :=
  { mode := 0, generator := false, lock := false, last := 0, mhz := 0, holdover := false, target := none }

/-- R462: SETTLE resets to 0xFF. -/
def Clk.init : Clk :=
  { ref := .absent, resumePend := false, settleDef := false, settle := 0xFF, n0 := 0, dieN0 := [], bad := [], islands := [],
    forced := 0, refFails := 0, needResume := false, gov := [] }

/-- R463: LAST_RESET resets to 0x1, CAP_MHZ to 0x6D6, PWR_LIMIT to 0x2AF8. -/
def Pwr.init : Pwr :=
  { phase := .waiting, slack := false, timer := false, releasing := false, causeSupply := false, causeThermal := false, coolOk := true,
    vinOk := true,
    lastReset := 1, high := false, cap := 0x6D6, vin := 0, iin := 0, power := 0, limit := 0x2AF8, boardW := 11000,
    linkMode := false, slacks := 0, temp := 0, limitedTold := false, supplyResets := 0, facts := none,
    powerLoss := false }

/-- The machine right after a power-on reset, before its boot: memory lists nothing, no command waits. -/
def State.reset : State :=
  { mem := [], hostA := [], hostB := [], nor0 := [], nor1 := [], cores := [], par := Parity.init, arbs := [],
    stp := Stp.init, lock := none, streams := [], slips := [], fab := Fabric.init, hold := Hold.init, spr := Spares.init,
    pln := Pln.init, sec := Sec.init, own := Own.init, queues := [], ctl := Ctl.init, masters := [], staged := [],
    fns := [], ports := [], bus := Bus.init, clk := Clk.init, pwr := Pwr.init, fresh := 0, pending := [] }

end Sys2Proof.Machine
end

