-- ==== Sys2Proof/Machine/SMap.lean ====
section
/-! DEFINITION. Sparse maps and byte strings: the canonical form of every memory, table and register file of the state,
and little-endian fields (spec R11). -/
namespace Sys2Proof.Machine
open Sys2Proof

/-! Sparse maps. -/

/-- The value at a key; `d` where the key is not listed. -/
def smGet {α : Type} (d : α) : SMap α → Nat → α
  | [], _ => d
  | (j, v) :: m, k => if j = k then v else smGet d m k

/-- The map with its entry at a key removed. -/
def smDel {α : Type} : SMap α → Nat → SMap α
  | [], _ => []
  | (j, v) :: m, k => if j = k then m else (j, v) :: smDel m k

/-- The map with an entry put at its place in rising key order. -/
def smIns {α : Type} : SMap α → Nat → α → SMap α
  | [], k, v => [(k, v)]
  | (j, w) :: m, k, v =>
    if k < j then (k, v) :: (j, w) :: m else if k = j then (k, v) :: m else (j, w) :: smIns m k v

/-- A write: a value equal to the default takes its entry out, so that equal maps are equal data. -/
def smSet {α : Type} [DecidableEq α] (d : α) (m : SMap α) (k : Nat) (v : α) : SMap α :=
  if v = d then smDel m k else smIns m k v

/-- Every entry of a key range removed. -/
def smDelRange {α : Type} (m : SMap α) (lo len : Nat) : SMap α :=
  m.filter fun p => decide (p.1 < lo ∨ lo + len ≤ p.1)

/-- The entries of a key range, with keys counted from its start. -/
def smSlice {α : Type} (m : SMap α) (lo len : Nat) : SMap α :=
  (m.filter fun p => decide (lo ≤ p.1 ∧ p.1 < lo + len)).map fun p => (p.1 - lo, p.2)

/-- A range overwritten with the entries of `src`, whose keys count from the range's start. -/
def smPaste {α : Type} (m : SMap α) (lo len : Nat) (src : SMap α) : SMap α :=
  (m.filter fun p => decide (p.1 < lo)) ++ ((smSlice src 0 len).map fun p => (p.1 + lo, p.2)) ++
    (m.filter fun p => decide (lo + len ≤ p.1))

/-- The canonical form: keys strictly rising and no value equal to the default. -/
def smWf {α : Type} [DecidableEq α] (d : α) (m : SMap α) : Bool :=
  decide (m.Pairwise fun p q => p.1 < q.1) && m.all fun p => decide (p.2 ≠ d)

/-- An entry changed by a function. -/
def smUpd {α : Type} [DecidableEq α] (d : α) (m : SMap α) (k : Nat) (f : α → α) : SMap α :=
  smSet d m k (f (smGet d m k))

/-- Every value changed by a function; values that become the default leave the map. -/
def smMapVal {α : Type} [DecidableEq α] (d : α) (m : SMap α) (f : α → α) : SMap α :=
  (m.map fun p => (p.1, f p.2)).filter fun p => decide (p.2 ≠ d)

/-! Byte memories. `d` is what an unlisted byte reads as: 0x00 for device and host memory, 0xFF for the erased NOR. -/

/-- Bytes `a` to `a + n - 1`. -/
def rdD (d : Byte) (m : SMap Byte) (a n : Nat) : Bytes := (List.range n).map fun i => smGet d m (a + i)

/-- A byte string written at an address. -/
def wrD (d : Byte) (m : SMap Byte) (a : Nat) (bs : Bytes) : SMap Byte :=
  match bs with
  | [] => m
  | b :: rest => wrD d (smSet d m a b) (a + 1) rest

def rd (m : SMap Byte) (a n : Nat) : Bytes := rdD 0 m a n
def wr (m : SMap Byte) (a : Nat) (bs : Bytes) : SMap Byte := wrD 0 m a bs

/-- The canonical form of a byte memory whose unlisted bytes read as 0. -/
def Memory.wf (m : SMap Byte) : Bool := smWf 0#8 m

/-! Little-endian fields of byte strings (R11). -/

/-- The unsigned value of a byte string, lowest byte first. -/
def leNat : Bytes → Nat
  | [] => 0
  | b :: bs => b.toNat + 256 * leNat bs

/-- `n` bytes of a value, lowest first. -/
def toLe : Nat → Nat → Bytes
  | 0, _ => []
  | n + 1, v => BitVec.ofNat 8 v :: toLe n (v / 256)

/-- `n` bytes of a string from an offset; bytes beyond its end are 0. -/
def sub (bs : Bytes) (off n : Nat) : Bytes := (List.range n).map fun i => bs.getD (off + i) 0

/-- The unsigned field of `n` bytes at an offset. -/
def fld (bs : Bytes) (off n : Nat) : Nat := leNat (sub bs off n)

def fld32 (bs : Bytes) (off : Nat) : W32 := BitVec.ofNat 32 (fld bs off 4)
def fld64 (bs : Bytes) (off : Nat) : W64 := BitVec.ofNat 64 (fld bs off 8)

/-- The byte at an offset. -/
def byteAt (bs : Bytes) (off : Nat) : Nat := (bs.getD off 0).toNat

/-- Bit `i` of a natural number, as 0 or 1. -/
def bitOf (v i : Nat) : Nat := v / 2 ^ i % 2

/-- Whether bytes `off` to `off + n - 1` are all 0. -/
def zeros (bs : Bytes) (off n : Nat) : Bool := (sub bs off n).all (· == 0)

/-- The string with the bytes from an offset replaced. -/
def patch (bs : Bytes) (off : Nat) (new : Bytes) : Bytes :=
  (List.range bs.length).map fun i =>
    if off ≤ i ∧ i < off + new.length then new.getD (i - off) 0 else bs.getD i 0

def zeroBytes (n : Nat) : Bytes := List.replicate n 0

/-- A string padded with zero bytes to a multiple of `k`. -/
def padTo (k : Nat) (bs : Bytes) : Bytes := bs ++ zeroBytes ((k - bs.length % k) % k)

def le16 (v : Nat) : Bytes := toLe 2 v
def le32 (v : W32) : Bytes := toLe 4 v.toNat
def le64 (v : W64) : Bytes := toLe 8 v.toNat

/-- A 32-bit counter that stays at its largest value. -/
def satInc32 (v : W32) (n : Nat := 1) : W32 := BitVec.ofNat 32 (min (v.toNat + n) 0xFFFFFFFF)

/-- A 64-bit sum that stays at its largest value. -/
def satAdd64 (v : W64) (n : Nat) : W64 := BitVec.ofNat 64 (min (v.toNat + n) 0xFFFFFFFFFFFFFFFF)

/-- Whether the ranges `[a, a+n)` and `[b, b+m)` share a byte. -/
def overlap (a n b m : Nat) : Bool := decide (0 < n ∧ 0 < m ∧ a < b + m ∧ b < a + n)

/-- Whether `[a, a+n)` lies inside `[b, b+m)`. -/
def inside (a n b m : Nat) : Bool := decide (b ≤ a ∧ a + n ≤ b + m)

def ceilDiv (a b : Nat) : Nat := (a + b - 1) / b

/-- The first position of a list whose element satisfies a test. -/
def findIdx? {α : Type} (p : α → Bool) : List α → Option Nat
  | [] => none
  | x :: xs => if p x then some 0 else (findIdx? p xs).map (· + 1)

/-- The list without its element at a position. -/
def dropAt {α : Type} : List α → Nat → List α
  | [], _ => []
  | _ :: xs, 0 => xs
  | x :: xs, n + 1 => x :: dropAt xs n

/-- The smallest power-of-two exponent `k` with `n <= 2^k`. -/
def clog2 (n : Nat) : Nat := if n ≤ 1 then 0 else Nat.log2 (n - 1) + 1

end Sys2Proof.Machine
end

