-- ==== Sys2Proof/Machine/Formats.lean ====
section
/-! DEFINITION. The six element formats (spec R47–R50), the format tag (R51, R52), scales (R53) and the output rules
(R58–R62). -/
namespace Sys2Proof.Machine
open Sys2Proof

/-- The element formats, by FMT code 0x0–0x5 (R51). -/
inductive Fmt where
  | e4m3 | e5m2 | bf16 | fp16 | fp32 | fp64
  deriving DecidableEq, Repr

def fmtOfCode : Nat → Option Fmt
  | 0 => some .e4m3 | 1 => some .e5m2 | 2 => some .bf16 | 3 => some .fp16 | 4 => some .fp32 | 5 => some .fp64
  | _ => none

def fmtCode : Fmt → Nat
  | .e4m3 => 0 | .e5m2 => 1 | .bf16 => 2 | .fp16 => 3 | .fp32 => 4 | .fp64 => 5

/-- The layout of a binary format: exponent bits, fraction bits, bias. -/
structure FloatSpec where
  eb : Nat
  fb : Nat
  bias : Nat
  deriving DecidableEq, Repr

/-- R47: the encodings. -/
def fmtSpec : Fmt → FloatSpec
  | .e4m3 => { eb := 4, fb := 3, bias := 7 }
  | .e5m2 => { eb := 5, fb := 2, bias := 15 }
  | .bf16 => { eb := 8, fb := 7, bias := 127 }
  | .fp16 => { eb := 5, fb := 10, bias := 15 }
  | .fp32 => { eb := 8, fb := 23, bias := 127 }
  | .fp64 => { eb := 11, fb := 52, bias := 1023 }

/-- R100: the H64 head. -/
def h64Spec : FloatSpec := { eb := 9, fb := 54, bias := 255 }

/-- The element size in bytes. -/
def fmtBytes : Fmt → Nat
  | .e4m3 => 1 | .e5m2 => 1 | .bf16 => 2 | .fp16 => 2 | .fp32 => 4 | .fp64 => 8

def fmtShort : Fmt → Bool
  | .fp32 => false | .fp64 => false | _ => true

/-- R48: the canonical NaN. -/
def fmtNan : Fmt → Nat
  | .e4m3 => 0x7F | .e5m2 => 0x7E | .bf16 => 0x7FC0 | .fp16 => 0x7E00 | .fp32 => 0x7FC00000
  | .fp64 => 0x7FF8000000000000

/-- R48: the largest finite positive encoding. -/
def fmtMax : Fmt → Nat
  | .e4m3 => 0x7E | .e5m2 => 0x7B | .bf16 => 0x7F7F | .fp16 => 0x7BFF | .fp32 => 0x7F7FFFFF
  | .fp64 => 0x7FEFFFFFFFFFFFFF

def specSign (s : FloatSpec) : Nat := 2 ^ (s.eb + s.fb)
def specInf (s : FloatSpec) : Nat := (2 ^ s.eb - 1) * 2 ^ s.fb

/-- The exponent of the last place of the subnormal numbers. -/
def specLo (s : FloatSpec) : Int := 1 - (s.bias : Int) - (s.fb : Int)

/-- The value of an encoding by R47 alone (no special encodings). -/
def decodePlain (s : FloatSpec) (q : Nat) : Num :=
  let neg := decide (q / specSign s % 2 = 1)
  let ex := q / 2 ^ s.fb % 2 ^ s.eb
  let fr := q % 2 ^ s.fb
  if ex = 0 then .fin neg fr (specLo s) else .fin neg (2 ^ s.fb + fr) ((ex : Int) - (s.bias : Int) - (s.fb : Int))

/-- The value of an encoding whose top exponent holds infinities and NaNs. -/
def decodeIeee (s : FloatSpec) (q : Nat) : Num :=
  let ex := q / 2 ^ s.fb % 2 ^ s.eb
  if ex = 2 ^ s.eb - 1 then
    if q % 2 ^ s.fb = 0 then .inf (decide (q / specSign s % 2 = 1)) else .nan
  else decodePlain s q

/-- R47, R48, R49: the value of an element's bits. -/
def decode (f : Fmt) (q : Nat) : Num :=
  match f with
  | .e4m3 => if q % 0x80 = 0x7F then .nan else decodePlain (fmtSpec .e4m3) q
  | _ => decodeIeee (fmtSpec f) q

/-- Whether a NaN encoding is signalling: fraction's top bit clear (IEEE 754; the long formats). -/
def isSnan (f : Fmt) (q : Nat) : Bool :=
  isNan (decode f q) && (q / 2 ^ ((fmtSpec f).fb - 1) % 2 == 0)

/-- The encoding of a rounded magnitude q × 2^u, without its sign: the exponent field grows without bound. -/
def packMag (s : FloatSpec) (q : Nat) (u : Int) : Nat :=
  if q = 0 then 0
  else if bitLen q ≤ s.fb then q
  else
    let ex := (u + ((bitLen q : Int) - 1) + (s.bias : Int)).toNat
    ex * 2 ^ s.fb + (q >>> (bitLen q - 1 - s.fb)) % 2 ^ s.fb

/-- A finite magnitude rounded once to a format with an unbounded exponent (R58): the sign-free encoding and whether it
was inexact. -/
def roundMag (s : FloatSpec) (m : Nat) (e : Int) : Nat × Bool :=
  let (q, u, x) := roundDy (s.fb + 1) (specLo s) m e
  (packMag s q u, x)

/-! Flags: bits [8:0] of the flag word (R119). -/
abbrev Flags := BitVec 9
def flInv : Flags := 0x001
def flNanIn : Flags := 0x002
def flInfIn : Flags := 0x004
def flPovf : Flags := 0x008
def flOovf : Flags := 0x010
def flOsat : Flags := 0x020
def flUnf : Flags := 0x040
def flBound : Flags := 0x080
def flConc : Flags := 0x100
def flIf (b : Bool) (f : Flags) : Flags := if b then f else 0

/-- R59–R61: the bits written for a value, and the output flags (output overflow, output saturate, underflow). -/
def encodeOut (f : Fmt) (ovf : Bool) (v : Num) : Nat × Flags :=
  let s := fmtSpec f
  let sat := f == .e4m3 || ovf
  let sg (n : Bool) : Nat := if n then specSign s else 0
  match v with
  | .nan => (fmtNan f, 0)
  | .inf n => if sat then (sg n + fmtMax f, flOsat) else (sg n + specInf s, 0)
  | .fin n m e =>
    let (mag, x) := roundMag s m e
    if fmtMax f < mag then
      if sat then (sg n + fmtMax f, flOsat) else (sg n + specInf s, flOovf)
    else (sg n + mag, flIf (x && m != 0 && belowPow2 m e (1 - (s.bias : Int))) flUnf)

/-- The FP32 encoding of a value rounded once, NaN canonical, overflow to ∞. -/
def toFp32 (v : Num) : Nat := (encodeOut .fp32 false v).1

/-! The format tag (R51). -/

structure Tag where
  fmt : Fmt
  ovf : Bool
  scale : Nat
  deriving DecidableEq, Repr

/-- R52: the tag in 8 bytes, if it is valid. -/
def parseTag (b : Bytes) : Option Tag :=
  let b0 := byteAt b 0
  let b1 := byteAt b 1
  let sc := fld b 4 4
  match fmtOfCode (b0 % 16) with
  | none => none
  | some f =>
    let ovf := decide (b1 % 2 = 1)
    let long := !fmtShort f
    if b0 / 16 ≠ 0 ∨ b1 / 2 ≠ 0 ∨ fld b 2 2 ≠ 0 then none
    else if ovf && (f == .e4m3 || long) then none
    else if long then (if sc = 0x3F800000 then some { fmt := f, ovf := ovf, scale := sc } else none)
    else if 0x00800000 ≤ sc ∧ sc ≤ 0x7F7FFFFF then some { fmt := f, ovf := ovf, scale := sc } else none

def tagBytes (t : Tag) : Bytes :=
  toLe 1 (fmtCode t.fmt) ++ toLe 1 (if t.ovf then 1 else 0) ++ toLe 2 0 ++ toLe 4 t.scale

/-- The per-tensor scale s. -/
def tagScale (t : Tag) : Num := decode .fp32 t.scale

/-- R53: the value of an element of a tensor. -/
def valueOf (t : Tag) (q : Nat) : Num := (numMul (tagScale t) (decode t.fmt q)).1

/-- R55, R64: a value written into a tensor: the output rounding of value ÷ scale. -/
def writeVal (t : Tag) (v : Num) : Nat × Flags := encodeOut t.fmt t.ovf (numDiv v (tagScale t)).1

/-- The element size of a tagged tensor. -/
def tagSize (t : Tag) : Nat := fmtBytes t.fmt

/-- R68: the scale a convert takes from an amax word, and whether the amax is invalid. The smallest e with
amax ≤ MAXF × 2^(e − MARGIN), clamped to −126–127. -/
def amaxScale (f : Fmt) (margin amax : Nat) : Nat × Bool :=
  if !fmtShort f then (0x3F800000, false)
  else
    match decode .fp32 amax with
    | .nan => (0x3F800000, true)
    | .inf _ => (0x3F800000, true)
    | .fin n m e =>
      if m = 0 then (0x3F800000, false)
      else if n then (0x3F800000, true)
      else if amax < 0x00800000 then (0x3F800000, false)
      else
        match decode f (fmtMax f) with
        | .fin _ mm me =>
          -- the least k with m·2^e ≤ mm·2^(me + k): compare leading places, then the aligned significands
          let k0 := (e + (bitLen m : Int)) - (me + (bitLen mm : Int))
          let ok := !numLt (.fin false mm (me + k0)) (.fin false m e)
          let k := (if ok then k0 else k0 + 1) + (margin : Int)
          let kc := if k < -126 then -126 else if 127 < k then 127 else k
          ((kc + 127).toNat * 2 ^ 23, false)
        | _ => (0x3F800000, false)

end Sys2Proof.Machine
end

