-- ==== Sys2Proof/Machine/Accum.lean ====
section
/-! DEFINITION. Accumulation (spec R100–R128): the pair, the double-word, deep entries and their
additions and merges. -/
namespace Sys2Proof.Machine
open Sys2Proof

/-- The FP64 encoding of a value on the FP64 grid. -/
def fp64Bits (neg : Bool) (mag : Nat) : W64 := BitVec.ofNat 64 ((if neg then 2 ^ 63 else 0) + mag)

/-- The value of a double-word or deep entry (R109). -/
def dwordVal (hi lo : W64) : Num :=
  match decode .fp64 hi.toNat, decode .fp64 lo.toNat with
  | .fin n m e, .fin n2 m2 e2 =>
    if m = 0 ∧ m2 = 0 then .fin n 0 0 else (numAdd (.fin n m e) (.fin n2 m2 e2)).1
  | a, b => (numAdd a b).1

/-- R108: the double-word rule for the exact value s of a sum, with the flags it raises. -/
def storeDword (s : Num) : (W64 × W64) × Flags :=
  match s with
  | .nan => ((0x7FF8000000000000#64, 0), 0)
  | .inf n => ((fp64Bits n 0x7FF0000000000000, 0), 0)
  | .fin n m e =>
    let (hq, hu, _) := roundDy 53 (-1074) m e
    let hm := packMag (fmtSpec .fp64) hq hu
    if fmtMax .fp64 < hm then ((fp64Bits n 0x7FF0000000000000, 0), flPovf)
    else
      match (numSub (.fin n m e) (.fin n hq hu)).1 with
      | .fin rn rm re =>
        if rm = 0 then ((fp64Bits n hm, 0), 0)
        else
          let (lq, lu, lx) := roundDy 53 (-1074) rm re
          ((fp64Bits n hm, fp64Bits rn (packMag (fmtSpec .fp64) lq lu)), flIf (lx && belowPow2 rm re (-1022)) flUnf)
      | _ => ((fp64Bits n hm, 0), 0)

/-- The last place 2^u of a head (R101). -/
def headPlace (h : W64) : Int :=
  let ex : Nat := h.toNat / 2 ^ 54 % 512
  if ex = 0 then -308 else (ex : Int) - 309

/-- The exact value of a running accumulator. An empty one counts as −0, the term that changes no sum (R103). -/
def accVal : Acc → Num
  | .empty => numNegZero
  | .pair h t =>
    match decodeIeee h64Spec h.toNat with
    | .fin n m e => if t = 0 then .fin n m e
      else (numAdd (.fin n m e) (.fin (decide (t.toInt < 0)) t.toInt.natAbs (headPlace h - 31))).1
    | v => v
  | .dword hi lo => dwordVal hi lo

/-- R102: the pair that stores an exact sum. -/
def storePair (s : Num) : Acc × Flags :=
  match s with
  | .nan => (.pair 0x7FE0000000000000#64 0, 0)
  | .inf n => (.pair (BitVec.ofNat 64 ((if n then 2 ^ 63 else 0) + specInf h64Spec)) 0, 0)
  | .fin n m e =>
    let (mag, _) := roundMag h64Spec m e
    let sg := if n then 2 ^ 63 else 0
    if specInf h64Spec ≤ mag then (.pair (BitVec.ofNat 64 (sg + specInf h64Spec)) 0, flPovf)
    else
      let h := BitVec.ofNat 64 (sg + mag)
      match (numSub (.fin n m e) (decodeIeee h64Spec h.toNat)).1 with
      | .fin rn rm re => (.pair h (BitVec.ofInt 32 (roundQuantum rn rm re (headPlace h - 31))), 0)
      | _ => (.pair h 0, 0)

/-- An exact sum stored in the accumulator of a mode. -/
def storeAcc (mode64 : Bool) (s : Num) : Acc × Flags :=
  if mode64 then let ((hi, lo), f) := storeDword s; (.dword hi lo, f) else storePair s

/-- R102, R104, R111: one term added to an accumulator; the flags are the addition's own. -/
def accAdd (mode64 : Bool) (a : Acc) (x : Num) : Acc × Flags :=
  match a with
  | .empty => storeAcc mode64 x
  | _ =>
    let (s, inv) := numAdd (accVal a) x
    let (r, f) := storeAcc mode64 s
    (r, f ||| flIf inv flInv)

/-- R105: a chain merged into a running accumulator; an empty one takes the chain as it is. -/
def accMerge (mode64 : Bool) (run chain : Acc) : Acc × Flags :=
  match run, chain with
  | .empty, c => (c, 0)
  | r, .empty => (r, 0)
  | r, c => accAdd mode64 r (accVal c)

/-- R73, R74, R111: an exact product with the cell's flags, as it enters the chain. In FP64 mode it enters as a
double-word. -/
def cellProduct (mode64 : Bool) (x y : Num) : Num × Flags :=
  let (p, inv) := numMul x y
  let fl := flIf (isNan x || isNan y) flNanIn ||| flIf (isInf x || isInf y) flInfIn ||| flIf inv flInv
  if !mode64 then (p, fl)
  else
    match p with
    | .fin n m e =>
      if numLt (decode .fp64 (fmtMax .fp64)) (.fin false m e) then (.inf n, fl ||| flPovf)
      else let ((hi, lo), f) := storeDword p; (dwordVal hi lo, fl ||| f)
    | _ => (p, fl)

/-! Deep entries in memory (R107). -/

def deepOf (b : Bytes) : Num := dwordVal (fld64 b 0) (fld64 b 8)
def deepBytes (d : W64 × W64) : Bytes := le64 d.1 ++ le64 d.2

/-- R116: two deep values merged; the flags are the merge's own. -/
def deepMerge (a b : Num) : (W64 × W64) × Flags :=
  let (s, inv) := numAdd a b
  let (d, f) := storeDword s
  (d, f ||| flIf inv flInv)

/-- R116, R117: values merged through the canonical tree, level by level; the second part lists the flags of each merge in
the order of the tree. -/
def canonLevel : List Num → List Num × List Flags
  | a :: b :: rest =>
    let (d, f) := deepMerge a b
    let (vs, fs) := canonLevel rest
    (dwordVal d.1 d.2 :: vs, f :: fs)
  | l => (l, [])

def canonTree : Nat → List Num → Num × List Flags
  | _, [] => (numNegZero, [])
  | _, [v] => (v, [])
  | 0, v :: _ => (v, [])
  | n + 1, l => let (l1, f1) := canonLevel l; let (v, f2) := canonTree n l1; (v, f1 ++ f2)

end Sys2Proof.Machine
end

