-- ==== Sys2Proof/Machine/Flags.lean ====
section
/-! DEFINITION. The flags of an operation and the exception record that keeps them (spec R118–R124). -/
namespace Sys2Proof.Machine
open Sys2Proof

/-! The exception record (R118–R124). -/

/-- The flag class of each flag bit (R121): output overflow and output saturate share class 4. -/
def flagClass : Nat → Nat
  | 0 => 0 | 1 => 1 | 2 => 2 | 3 => 3 | 4 => 4 | 5 => 4 | 6 => 5 | 7 => 6 | _ => 7

def excFresh (kind : Nat) : ExcRec :=
  { flags := BitVec.ofNat 64 (kind * 2 ^ 24), terms := 0, pos := List.replicate 8 0, cnt := List.replicate 8 0,
    leaf := List.replicate 8 0 }

/-- Whether class c has a flag set. -/
def classSet (flags : W64) (c : Nat) : Bool :=
  (List.range 9).any fun b => flagClass b == c && flags.getLsbD b

def setAt {α : Type} : List α → Nat → α → List α
  | [], _, _ => []
  | _ :: xs, 0, v => v :: xs
  | x :: xs, n + 1, v => x :: setAt xs n v

/-- One occurrence of class c counted `n` times, at a position that `before` orders against the kept one. -/
def excNoteClass (before : W64 → W64 → Bool) (r : ExcRec) (c : Nat) (pos : W64) (n : Nat) (leaf : BitVec 16) : ExcRec :=
  let old := r.pos.getD c 0
  let first := !classSet r.flags c || before pos old
  { r with pos := if first then setAt r.pos c pos else r.pos,
           leaf := if first then setAt r.leaf c leaf else r.leaf,
           cnt := setAt r.cnt c (min (r.cnt.getD c 0 + n) 0xFFFFFFFF) }

/-- R121, R122: flags that arise at a position, each class counted once. -/
def excNoteN (before : W64 → W64 → Bool) (r : ExcRec) (f : Flags) (pos : W64) (n : Nat) (leaf : BitVec 16 := 0) : ExcRec :=
  if f = 0 ∨ n = 0 then r
  else
    let step (r : ExcRec) (c : Nat) : ExcRec :=
      if classSet (f.setWidth 64) c then excNoteClass before r c pos n leaf else r
    let r' := (List.range 8).foldl step r
    { r' with flags := r.flags ||| f.setWidth 64 }

/-- R120: a tile position. -/
def tilePos (ord m n k : Nat) : W64 := BitVec.ofNat 64 (m + n * 2 ^ 8 + k * 2 ^ 16 + ord * 2 ^ 48)

/-- R122: the order of tile positions: ordinal, m, n, k. -/
def tileRank (p : W64) : Nat :=
  let v := p.toNat
  v / 2 ^ 48 * 2 ^ 33 + v % 256 * 2 ^ 25 + v / 256 % 256 * 2 ^ 17 + v / 2 ^ 16 % 2 ^ 17
def tileBefore (p q : W64) : Bool := decide (tileRank p < tileRank q)

/-- The order of element indices. -/
def elemBefore (p q : W64) : Bool := decide (p.toNat < q.toNat)

/-- Flags noted at an element index of a vector record. -/
def excNote (r : ExcRec) (f : Flags) (idx : Nat) : ExcRec := excNoteN elemBefore r f (BitVec.ofNat 64 idx) 1

/-- Flags noted at a tile position. -/
def excNoteTile (r : ExcRec) (f : Flags) (ord m n k : Nat) : ExcRec :=
  if f = 0 then r else excNoteN tileBefore r f (tilePos ord m n k) 1

/-- R118: the record's 128 bytes. -/
def excBytes (r : ExcRec) : Bytes :=
  le64 r.flags ++ toLe 8 (min r.terms 0xFFFFFFFFFFFFFFFF) ++ (r.pos.map le64).flatten ++
    (r.cnt.map fun c => toLe 4 (min c 0xFFFFFFFF)).flatten ++ (r.leaf.map fun l => toLe 2 l.toNat).flatten

def excParse (b : Bytes) : ExcRec :=
  { flags := fld64 b 0, terms := fld b 8 8, pos := (List.range 8).map fun i => fld64 b (16 + 8 * i),
    cnt := (List.range 8).map fun i => fld b (80 + 4 * i) 4,
    leaf := (List.range 8).map fun i => BitVec.ofNat 16 (fld b (112 + 2 * i) 2) }

/-- The chain ordinal of a flag word. -/
def excOrd (r : ExcRec) : Nat := r.flags.toNat / 2 ^ 48

/-- The class bits of a flag word. -/
def excBits (r : ExcRec) : Flags := r.flags.setWidth 9

/-- Two parts of one record in occurrence order: the earlier part's position wins, counts add (R123, R124). -/
def excJoin (flags : W64) (a b : ExcRec) : ExcRec :=
  { flags := flags ||| ((excBits a ||| excBits b).setWidth 64), terms := a.terms + b.terms,
    pos := (List.range 8).map fun c => if classSet a.flags c then a.pos.getD c 0 else b.pos.getD c 0,
    cnt := (List.range 8).map fun c => min (a.cnt.getD c 0 + b.cnt.getD c 0) 0xFFFFFFFF,
    leaf := (List.range 8).map fun c => if classSet a.flags c then a.leaf.getD c 0 else b.leaf.getD c 0 }

/-- The flag word of a fresh record of a kind, with no class set. -/
def kindWord (kind : Nat) : W64 := BitVec.ofNat 64 (kind * 2 ^ 24)

/-- A leaf record that enters a merge carries its logical leaf index where a class is set (R124). -/
def excAsLeaf (i : Nat) (r : ExcRec) : ExcRec :=
  { r with leaf := (List.range 8).map fun c => if classSet r.flags c then BitVec.ofNat 16 i else 0 }

/-- R124: the merge record of two children; `own` holds what the merge itself raised (LEAF 0xFFFF) and `n` the entries it
writes. "The flags are ORed" is read of the class flags: CHAIN, MODE64 and ORD, which describe a tile, stay 0 in a merge
record (DESIGN CHOICE, log 72). -/
def excMerge (left right own : ExcRec) (n : Nat) : ExcRec :=
  let j := excJoin (kindWord 3) (excJoin (kindWord 3) left right) own
  let t := left.terms + right.terms + 1
  let r := { j with terms := min t 0xFFFFFFFFFFFFFFFF }
  if 2 ^ 32 < t ∧ !(left.flags.getLsbD 7 || right.flags.getLsbD 7) then
    { r with flags := r.flags ||| flBound.setWidth 64, pos := setAt r.pos 6 0, leaf := setAt r.leaf 6 0xFFFF,
             cnt := setAt r.cnt 6 (min n 0xFFFFFFFF) }
  else r

/-- The limit of R113: beyond it a record sets BOUND. -/
def termLimit : Nat := 2 ^ 32

end Sys2Proof.Machine
end

