-- ==== Sys2Proof/Machine/Ledger.lean ====
section
/-! DEFINITION. The spare ledger's out-of-service set and the shape it offers (spec R349, R350, R357–R360). -/
namespace Sys2Proof.Machine
open Sys2Proof

/-- Whether the ledger lists a unit as out of service. -/
def ledHas (es : List LedgerEnt) (kind pdie punit : Nat) : Bool :=
  es.any fun e => e.kind.toNat == kind && e.pdie.toNat == pdie && e.punit.toNat == punit

/-- R358: the packing of PUNIT by kind. -/
def puRow (cluster berth engine row : Nat) : Nat := cluster * 2 ^ 29 + berth * 2 ^ 25 + engine * 2 ^ 23 + row
def puBerth (cluster berth : Nat) : Nat := cluster * 2 ^ 29 + berth * 2 ^ 25
def puBank (cluster bank : Nat) : Nat := cluster * 2 ^ 29 + bank
def puCluster (cluster : Nat) : Nat := cluster * 2 ^ 29
def puModule (link dir module : Nat) : Nat := link * 2 ^ 27 + dir * 2 ^ 26 + module * 2 ^ 22
def puFabLane (rx : Bool) (port lane : Nat) : Nat := (if rx then 256 else 0) + port * 16 + lane

/-- Physical units of a group that are in service, in ascending physical order (R350). -/
def inService (es : List LedgerEnt) (kind pdie n : Nat) (pu : Nat → Nat) : List Nat :=
  (List.range n).filter fun i => !ledHas es kind pdie (pu i)

def hmCores (es : List LedgerEnt) (die : Nat) : Nat := (inService es 0x05 die 3 id).length
def berthsUp (es : List LedgerEnt) (die c : Nat) : List Nat := inService es 0x02 die 9 (puBerth c)
def banksUp (es : List LedgerEnt) (die c : Nat) : List Nat := inService es 0x03 die 34 (puBank c)

/-- Clusters of a die in service: not listed themselves, with 32 banks and at least one berth. -/
def clustersUp (es : List LedgerEnt) (die : Nat) : List Nat :=
  (inService es 0x04 die 8 puCluster).filter fun c => decide (32 ≤ (banksUp es die c).length) && !(berthsUp es die c).isEmpty

/-- Stacks of a die in service: 0 west, 1 east. -/
def stacksUp (es : List LedgerEnt) (die : Nat) : List Nat := inService es 0x0B die 2 id

/-- R24: the hawser links in row order, as pairs of physical dies (12 is P0, 13 is P1). -/
def hawserLinks : List (Nat × Nat) :=
  [(0, 1), (1, 2), (2, 3), (3, 4), (4, 5), (6, 7), (7, 8), (8, 9), (9, 10), (10, 11),
   (0, 6), (1, 7), (2, 8), (3, 9), (4, 10), (5, 11), (12, 0), (12, 6), (13, 5), (13, 11)]

/-- A link runs while it has a module in service in each direction (R349). A module is named on the lower die. -/
def linkRuns (es : List LedgerEnt) (i : Nat) : Bool :=
  es.isEmpty || (List.range 2).all fun dir =>
    (List.range 16).any fun m => !(es.any fun e => e.kind.toNat == 0x07 && e.punit.toNat == puModule i dir m)

/-- A die that works on its own: not listed and with two harbourmaster cores (R359). -/
def dieAlone (es : List LedgerEnt) (d : Nat) : Bool := es.isEmpty || (!ledHas es 0x0D d 0 && decide (2 ≤ hmCores es d))

/-- One round of reaching dies from those already reached. -/
def reachStep (es : List LedgerEnt) (got : List Nat) : List Nat :=
  got ++ ((List.range 14).filter fun d =>
    !got.contains d && dieAlone es d &&
      (List.range 20).any fun i =>
        linkRuns es i &&
          (match hawserLinks[i]? with
            | some (a, b) => (a == d && got.contains b) || (b == d && got.contains a)
            | none => false))

def reachFrom (es : List LedgerEnt) : Nat → List Nat → List Nat
  | 0, got => got
  | n + 1, got => reachFrom es n (reachStep es got)

/-- The physical dies that stay in the offered shape (R359): they work and P0 reaches them. -/
def diesUp (es : List LedgerEnt) : List Nat :=
  if es.isEmpty then List.range 14
  else if !dieAlone es 12 then [] else (List.range 14).filter (reachFrom es 13 [12]).contains

/-- Physical quay dies in service, in the order of R360. -/
def quaysUp (es : List LedgerEnt) : List Nat := (diesUp es).filter (· < 12)

/-- R186: the engines of a kind that a slipway offers: 4 image, 4 audio, 2 text and 1 pyramid while spares last. -/
def offeredEngines (es : List LedgerEnt) (die kind : Nat) : Nat :=
  let n := [5, 5, 3, 2].getD kind 0
  Nat.min (n - 1) (inService es 0x09 die n fun i => 16 * kind + i).length

/-- What an offered die can serve. -/
def offerDie (es : List LedgerEnt) (d : Nat) : DieShape :=
  if es.isEmpty then { hbmStacks := 2, cores := List.replicate 8 8 }
  else { hbmStacks := (stacksUp es d).length, cores := (clustersUp es d).map fun c => min 8 (berthsUp es d c).length }

/-- The offered shape: the quay dies, whether both rails are offered, and the NAND stacks. No die means no shape. -/
def offerDies (es : List LedgerEnt) : List DieShape := (quaysUp es).map (offerDie es)
def offerRails (es : List LedgerEnt) : Nat :=
  let up := diesUp es
  if up.contains 12 then (if up.contains 13 then 3 else 1) else 0
def offerHold (es : List LedgerEnt) : Nat :=
  let n := if offerRails es = 3 then 8 else if offerRails es = 1 then 4 else 0
  ((List.range n).filter fun k =>
    !(es.any fun e => e.kind.toNat == 0x0C && e.state.toNat == 2 && e.punit.toNat == k)).length

/-- R360: whether each logical unit of a shape finds a physical unit that offers it. -/
def offersShape (es : List LedgerEnt) (sh : Shape) : Bool :=
  let od := offerDies es
  decide (sh.dies.length ≤ od.length) &&
  ((List.range sh.dies.length).all fun i =>
    match sh.dies[i]?, od[i]? with
    | some w, some o =>
      decide (w.hbmStacks ≤ o.hbmStacks) && decide (w.cores.length ≤ o.cores.length) &&
        ((List.range w.cores.length).all fun c => decide (w.cores.getD c 0 ≤ o.cores.getD c 0))
    | _, _ => false) &&
  decide (sh.rails ≤ offerRails es) && decide (sh.holdStacks ≤ offerHold es)

/-- The physical dies behind the logical dies of a shape with n dies (R350). -/
def physDie (es : List LedgerEnt) (d : Nat) : Nat := (quaysUp es).getD d d

end Sys2Proof.Machine
end

