-- ==== Sys2Proof/Machine/Ops.lean ====
section
/-! DEFINITION. The named operations over the device's state: cores, the address space, banks and partitions, host memory,
events and their delivery, token counters, statistics, and the end of job entries. -/
namespace Sys2Proof.Machine
open Sys2Proof

/-! Cores by logical number (R10): die × 64 + cluster × 8 + core. -/

def coreIdx (c : CoreId) : Nat := c.die.val * 64 + c.cluster.val * 8 + c.core.val
def coreAt (s : State) (k : Nat) : Core := smGet Core.init s.cores k
def getCore (s : State) (c : CoreId) : Core := coreAt s (coreIdx c)
def setCoreAt (s : State) (k : Nat) (x : Core) : State := { s with cores := smSet Core.init s.cores k x }
def setCore (s : State) (c : CoreId) (x : Core) : State := setCoreAt s (coreIdx c) x
def updCore (s : State) (c : CoreId) (f : Core → Core) : State := setCore s c (f (getCore s c))
def coreOfIdx (k : Nat) : CoreId :=
  { die := ⟨k / 64 % 12, Nat.mod_lt _ (by decide)⟩, cluster := ⟨k / 8 % 8, Nat.mod_lt _ (by decide)⟩,
    core := ⟨k % 8, Nat.mod_lt _ (by decide)⟩ }

/-! The current logical shape: the applied plan's, and before a plan the offered one (DEDUCED from R40, R359; log 21). -/

def curDies (s : State) : List DieShape :=
  match s.pln.plan with
  | some p => p.shape.dies
  | none => offerDies s.spr.entries

def dieShape (s : State) (d : Nat) : DieShape := (curDies s).getD d { hbmStacks := 0, cores := [] }
def clusterCores (s : State) (d c : Nat) : Nat := (dieShape s d).cores.getD c 0
def coreExists (s : State) (d c k : Nat) : Bool := decide (k < clusterCores s d c)
def stackCount (s : State) : Nat := ((curDies s).map fun d => d.hbmStacks).foldl (· + ·) 0
def stackBytes : Nat := 0x600000000
/-- R361: the HBM region ends at the last logical stack's window. -/
def hbmEnd (s : State) : Nat := stackCount s * stackBytes

/-- R41: a logical stack's die, and which of the die's stacks it is, counting the stacks of each die in turn. -/
def stackPlace : List DieShape → Nat → Nat → Option (Nat × Nat)
  | [], _, _ => none
  | d :: ds, die, k => if k < d.hbmStacks then some (die, k) else stackPlace ds (die + 1) (k - d.hbmStacks)

/-- R28, R41: the die and the pseudo-channel of the die that hold an HBM address: bits [13:9] of the offset within the stack
select one of its 32, and the die's first stack carries 0–31, its second 32–63. -/
def pseudoChannel (s : State) (a : Nat) : Option (Nat × Nat) :=
  (stackPlace (curDies s) 0 (a / stackBytes)).map fun p => (p.1, 32 * p.2 + a % stackBytes / 512 % 32)

/-- The cores of the current shape, in logical order (die, cluster, core). -/
def allCores (s : State) : List CoreId :=
  ((List.range 768).filter fun k => coreExists s (k / 64) (k / 8 % 8) (k % 8)).map coreOfIdx

/-! The device address space (R38–R41). -/

def sramBase : Nat := 0x100000000000
def bondBase : Nat := 0x200000000000
def ballastBase : Nat := 0x280000000000
def regionEnd : Nat := 0x300000000000
def clusterBase (die cluster : Nat) : Nat := sramBase + die * 2 ^ 32 + cluster * 2 ^ 29
def coreBase (c : CoreId) : Nat := clusterBase c.die.val c.cluster.val + 2 ^ 28 + c.core.val * 2 ^ 24
def clusterBytes : Nat := 2 ^ 26
def coreBytes : Nat := 2 ^ 24

/-- Whether a byte range lies in the HBM of the shape. -/
def inHbm (s : State) (a n : Nat) : Bool := decide (a + n ≤ hbmEnd s)

/-- Whether a byte range lies in the SRAM of one cluster or of the cores of one cluster that the shape has (R39). -/
def inSram (s : State) (a n : Nat) : Bool :=
  if a < sramBase then false
  else
    let die := (a - sramBase) / 2 ^ 32
    let off := (a - sramBase) % 2 ^ 32
    let cl := off / 2 ^ 29
    let r := off % 2 ^ 29
    let cores := clusterCores s die cl
    if die < 12 ∧ 0 < cores then
      if r < clusterBytes then decide (r + n ≤ clusterBytes)
      else if 2 ^ 28 ≤ r then decide (r - 2 ^ 28 + n ≤ cores * coreBytes) && decide (r - 2 ^ 28 < cores * coreBytes)
      else false
    else false

/-- R312: the Bond window and the Ballast window. -/
def inHoldWindow (a n : Nat) : Bool := inside a n bondBase (2 ^ 41) || inside a n ballastBase (2 ^ 43)

/-- R40: whether every byte of a range is mapped for a descriptor or a BAR2 access. -/
def mapped (s : State) (a n : Nat) : Bool := n == 0 || inHbm s a n || inSram s a n || inHoldWindow a n

def inCoreSram (c : CoreId) (a n : Nat) : Bool := inside a n (coreBase c) coreBytes
def inClusterSram (c : CoreId) (a n : Nat) : Bool := inside a n (clusterBase c.die.val c.cluster.val) clusterBytes
def inOwnSram (c : CoreId) (a n : Nat) : Bool := inCoreSram c a n || inClusterSram c a n

/-- Device memory: HBM and SRAM, by device address. -/
def rdMem (s : State) (a n : Nat) : Bytes := rd s.mem a n
def wrMem (s : State) (a : Nat) (bs : Bytes) : State := { s with mem := wr s.mem a bs }
def zeroMem (s : State) (a n : Nat) : State := { s with mem := smDelRange s.mem a n }

/-- Host memory behind a link: false link A, true link B. -/
def rdHost (s : State) (link : Bool) (a n : Nat) : Bytes := rd (if link then s.hostB else s.hostA) a n
def wrHost (s : State) (link : Bool) (a : Nat) (bs : Bytes) : State :=
  if link then { s with hostB := wr s.hostB a bs } else { s with hostA := wr s.hostA a bs }

/-! Banks (R220, R222) and partitions (R391). -/

/-- The four bank ranges by role: 0 committed state, 1 alternate state, 2 committed residue, 3 alternate residue (R397). -/
def bankBase (sh : Shape) (committed : Bool) (role : Nat) : Nat × Nat :=
  let which := if role % 2 = 0 then committed else !committed
  if role < 2 then (if which then sh.state1 else sh.state0, sh.stateBytes)
  else (if which then sh.res1 else sh.res0, sh.resBytes)

def bankRange (s : State) (role : Nat) : Nat × Nat :=
  match s.pln.plan with
  | some p => bankBase p.shape s.stp.bank role
  | none => (0, 0)

def touchesBank (s : State) (role a n : Nat) : Bool :=
  let (b, m) := bankRange s role
  overlap a n b m

def touchesAnyBank (s : State) (a n : Nat) : Bool := (List.range 4).any fun r => touchesBank s r a n

/-- R222 for a descriptor's write range in the current state of the step machine. -/
def bankWriteOk (s : State) (a n : Nat) : Bool :=
  let st := if s.stp.state = .suspended then s.stp.prior else s.stp.state
  !touchesBank s 0 a n && !touchesBank s 2 a n &&
  (!touchesBank s 1 a n || decide (st = .update)) &&
  (!touchesBank s 3 a n || decide (st = .passes))

/-- R222 for a host write through BAR2: only in stopped, and only a bank that is not draining. -/
def hostBankOk (s : State) (a n : Nat) : Bool :=
  !touchesAnyBank s a n ||
  (decide (s.stp.state = .stopped) &&
    match s.hold.drain, s.pln.plan with
    | some d, some p =>
      let st := if d.bank then p.shape.state1 else p.shape.state0
      let re := if d.bank then p.shape.res1 else p.shape.res0
      !overlap a n st p.shape.stateBytes && !overlap a n re p.shape.resBytes
    | _, _ => true)

/-- R222: what no descriptor writes (a slipway, the dealer) never writes a bank. -/
def wrOpen (s : State) (l : List (Nat × Bytes)) : State :=
  (l.filter fun w => !touchesAnyBank s w.1 w.2.length).foldl (fun s w => wrMem s w.1 w.2) s

/-- The byte ranges of a partition in one core's SRAM or one cluster's SRAM, in ascending slice order. -/
def partRanges (p : Part) (c : CoreId) : List (Nat × Nat) :=
  if p.mem = 1 then
    ((List.range 4).filter fun e => bitOf p.slices e = 1).map fun e => (coreBase c + e * 2 ^ 22 + p.offset, p.length)
  else [(clusterBase c.die.val c.cluster.val + p.offset, p.length)]

def partHas (p : Part) (attr : Nat) : Bool := decide (bitOf p.attr.toNat attr = 1)
def planParts (s : State) : List Part :=
  match s.pln.plan with
  | some p => p.parts
  | none => []

/-- The core a device SRAM address belongs to, for partitions: a cluster address counts as core 0 of its cluster. -/
def coreOfAddr (a : Nat) : CoreId :=
  let off := (a - sramBase) % 2 ^ 32
  coreOfIdx ((a - sramBase) / 2 ^ 32 % 12 * 64 + off / 2 ^ 29 * 8 + (if 2 ^ 28 ≤ off % 2 ^ 29 then off / 2 ^ 24 % 8 else 0))

/-- The REGEN partition that an address lies in (R174). -/
def regenPart (s : State) (a : Nat) : Option Part :=
  if sramBase ≤ a ∧ a < bondBase then
    (planParts s).find? fun p => partHas p 0 && (partRanges p (coreOfAddr a)).any fun r => inside a 1 r.1 r.2
  else none

/-- An address of a partition counted over its slices (R391). -/
def concatAddr : List (Nat × Nat) → Nat → Nat
  | [], off => off
  | (b, n) :: rest, off => if off < n then b + off else concatAddr rest (off - n)

/-- The save base of R128 within a slice, if a plan is applied. -/
def saveOffset (s : State) : Option Nat := ((planParts s).find? fun p => partHas p 2).map fun p => p.offset

def curPlan (s : State) : Option Plan := s.pln.plan
def curLayout (s : State) : Option Layout := (s.pln.plan).bind fun p => p.layouts[s.stp.layout]?

/-! Events (R18, R19, R431–R433, R439). -/

/-- Event sources: UNIT, DIE, GROUP, ITEM in bytes 4–7 (R431). -/
def evSrc (unit die group item : Nat) : Nat := unit * 2 ^ 28 + die * 2 ^ 24 + group * 2 ^ 16 + item
def srcDevice : Nat := evSrc 0 0 0 0
def srcCore (c : CoreId) : Nat := evSrc 1 c.die.val c.cluster.val c.core.val
def srcStream (die stream : Nat) : Nat := evSrc 3 die 0 stream
/-- R431 puts a stack into GROUP and gives it no number there: an HBM interface has its stack's index within its die, a Hold
controller its NAND stack's number 0 to 7 (DESIGN CHOICE, log 96). -/
def srcStack (die stack : Nat) : Nat := evSrc 4 die stack 0
def srcPort (p : Nat) : Nat := evSrc 5 (if p < 6 then 12 else 13) p 0
def srcHold (k : Nat) : Nat := evSrc 6 (if k < 4 then 12 else 13) k 0
def srcControl (die : Nat) : Nat := evSrc 7 die 0 0
def srcHost (link : Nat) : Nat := evSrc 8 12 0 link
def srcQueue (q : Nat) : Nat := evSrc 8 12 q 0
def srcMgmt (p : Nat) : Nat := evSrc 9 (12 + p) 0 (2 + p)

def evClass (code : Nat) : Nat := code / 2 ^ 12 % 16
/-- R19: a gale event. -/
def isGale (code : Nat) : Bool := (evClass code == 8 || evClass code == 9) && bitOf code 11 == 1

def evEntry (code : Nat) (phase lost : Bool) (src : Nat) (step : W64) (payload : Bytes) : Bytes :=
  toLe 2 code ++ [BitVec.ofNat 8 ((if phase then 1 else 0) + (if lost then 2 else 0)), 0] ++ toLe 4 src ++
    le64 step ++ sub payload 0 16

/-- R398: whether a load runs, from its acceptance to point 5. -/
def loadRuns (s : State) : Bool := s.pln.job.isSome || s.pln.loading.isSome

def getQueue (s : State) (q : Nat) : Queue := smGet Queue.init s.queues q
def setQueue (s : State) (q : Nat) (x : Queue) : State := { s with queues := smSet Queue.init s.queues q x }
def getFn (s : State) (l : Nat) : Fn := smGet Fn.init s.fns l
def setFn (s : State) (l : Nat) (x : Fn) : State := { s with fns := smSet Fn.init s.fns l x }
def getMgmt (s : State) (p : Nat) : Mgmt := smGet Mgmt.init s.ports p
def setMgmt (s : State) (p : Nat) (x : Mgmt) : State := { s with ports := smSet Mgmt.init s.ports p x }
def b2n (b : Bool) : Nat := if b then 1 else 0

/-- The MSI-X table as dwords, entry v at 4v; the vector-control dword's mask bit is set after reset. -/
def msixDword (f : Fn) (i : Nat) : W32 := (smGet 0 f.msix i) ^^^ (if i % 4 = 3 then 1 else 0)
def setMsixDword (f : Fn) (i : Nat) (v : W32) : Fn :=
  { f with msix := smSet 0 f.msix i (v ^^^ (if i % 4 = 3 then 1 else 0)) }
/-- Whether a vector's message is held back as a pending bit (R407, R433): its own mask, MSI-X Enable and Function Mask of the
configuration space, D3hot. -/
def msixMasked (f : Fn) (v : Nat) : Bool :=
  (msixDword f (4 * v + 3)).getLsbD 0 || !f.cfg.msixEnable || f.cfg.msixMask || f.cfg.d3hot

/-- R433: an MSI-X message is sent, or its pending bit is set while the vector is masked. -/
def msixSend (s : State) (link v : Nat) : State :=
  let f := getFn s link
  if msixMasked f v then setFn s link { f with pba := smSet false f.pba v true }
  else { s with bus := { s.bus with msix := s.bus.msix ++ [(link, v)] } }

def ringSize (q : Queue) : Nat := 2 ^ q.sizeLog2
def ringFree (q : Queue) : Nat := ringSize q - 1 - (q.tail + ringSize q - q.head) % ringSize q

/-- Sends an event queue's message: it signals every written entry. -/
def evqSignal (s : State) (q : Nat) : State :=
  let x := getQueue s q
  if x.unsignalled = 0 then s
  else msixSend (setQueue s q { x with unsignalled := 0 }) (b2n x.link) x.vector.toNat

/-- An event to be raised: its code, its source, its payload, and whether a refusal counts as a drop (not for events-lost, R432). -/
structure Event where
  code : Nat
  src : Nat
  payload : Bytes
  counts : Bool

/-- Events-lost, of the queue or port with this number. -/
def lostEvent (src q : Nat) : Event := { code := 0xC005, src := src, payload := toLe 2 q, counts := false }

/-- R409: the purpose of a host-memory transfer in the payload of dma-error. -/
def purposeCode : DmaPurpose → Nat
  | .jobFetch _ => 1
  | .eventWrite _ => 2
  | .sample _ _ _ => 3
  | .hold => 4

/-- Dma-error of a transfer through a link for a purpose, at a bus address. -/
def dmaEvent (link purpose : Nat) (addr : W64) : Event :=
  { code := 0xC006, src := srcHost link, payload := toLe 1 link ++ toLe 1 purpose ++ le64 addr, counts := true }

/-- Queue-error. -/
def queueEvent (q code : Nat) : Event := { code := 0xC004, src := srcQueue q, payload := toLe 2 q ++ toLe 1 code, counts := true }

/-- Whether an entry for an event is dropped for want of room (R432). A function in D3hot writes no entry (R407): it is lost, as
without a free one (DESIGN CHOICE, log 102). -/
def evqDrops (s : State) (x : Queue) (code : Nat) : Bool :=
  (if isGale code then ringFree x == 0 else decide (ringFree x ≤ 4)) || (getFn s (b2n x.link)).cfg.d3hot

/-- The entry that an event queue's next write carries. -/
def evqEntry (s : State) (x : Queue) (e : Event) : Bytes := evEntry e.code x.phase x.lostMark e.src s.stp.c e.payload

/-- The queue after a written entry. -/
def evqNext (x : Queue) : Queue :=
  let t := (x.tail + 1) % ringSize x
  { x with tail := t, phase := if t = 0 then !x.phase else x.phase, lostMark := false, lostTold := false,
           unsignalled := x.unsignalled + 1 }

/-- One event entry offered to an event queue, and the events that follow: events-lost at the first drop since an entry (R432); with
the queue's link down the write fails, the event counts as lost, the queue goes to error 3, and dma-error and queue-error follow
(R409, R423). Events-lost counts as no drop and shows only as LOST (DEDUCED, log 91). -/
def evqPush (s : State) (q : Nat) (e : Event) : State × List Event :=
  let x := getQueue s q
  let addr := x.base.toNat + 32 * x.tail
  if evqDrops s x e.code then
    (setQueue s q { x with lost := if e.counts then satInc32 x.lost else x.lost, lostMark := true,
                           lostTold := x.lostTold || e.counts },
     if e.counts && !x.lostTold then [lostEvent (srcQueue q) q] else [])
  else if !(getFn s (b2n x.link)).up then
    (setQueue s q { x with lost := satInc32 x.lost, error := 3 }, [dmaEvent (b2n x.link) 2 (BitVec.ofNat 64 addr), queueEvent q 3])
  else
    let s1 := setQueue (wrHost s x.link addr (evqEntry s x e)) q (evqNext x)
    (if isGale e.code || decide (x.count.toNat ≤ x.unsignalled + 1) then evqSignal s1 q else s1, [])

/-- The classes that a management port's buffer receives (R439). -/
def mgmtClass (c : Nat) : Bool := [0, 8, 9, 0xA, 0xB, 0xC].contains c

def isOwner (s : State) (m : Nat) : Bool := decide (s.own.state ≠ .vacant) && decide (s.own.owner.val = m)

/-- One event entry offered to a management port's buffer of 64, with its in-band interrupt (R439). -/
def mgmtPush (s : State) (p : Nat) (e : Event) : State × List Event :=
  let x := getMgmt s p
  let free := 64 - x.buf.length
  let gale := isGale e.code
  if (if gale then free == 0 else decide (free ≤ 4)) then
    (setMgmt s p { x with lostMark := true, lostTold := x.lostTold || e.counts },
     if e.counts && !x.lostTold then [lostEvent (srcMgmt p) (256 + p)] else [])
  else
    let y := { x with buf := x.buf ++ [evEntry e.code false x.lostMark e.src s.stp.c e.payload], lostMark := false,
                      lostTold := false }
    let s1 := setMgmt s p y
    let byte : Byte := BitVec.ofNat 8 (evClass e.code + (if gale then 0x80 else 0))
    if gale || (x.buf.isEmpty && isOwner s (2 + p)) then
      ({ s1 with bus := { s1.bus with ibi := s1.bus.ibi ++ [(p, byte)] } }, [])
    else (s1, [])

/-- Whether an event queue's mask lets a code pass: gale events and data-loss cannot be masked (R185, R433). -/
def maskPasses (x : Queue) (code : Nat) : Bool := isGale code || code == 0x2103 || x.mask.getLsbD (evClass code)

/-- Whether an event queue takes events of a code. -/
def takesEvent (x : Queue) (code : Nat) : Bool := x.enabled && x.event && x.error == 0 && maskPasses x code

/-- One offer of an event, the events that follow it gathered behind those of earlier offers. -/
def gather (offer : State → Nat → State × List Event) (acc : State × List Event) (i : Nat) : State × List Event :=
  let r := offer acc.1 i
  (r.1, acc.2 ++ r.2)

/-- Whether the plan in force suppresses an event (R395). -/
def suppressed (s : State) (code : Nat) : Bool :=
  match s.pln.plan with
  | some p => p.policy.suppress.contains (BitVec.ofNat 16 code)
  | none => false

/-- Delivery of one event to every queue and port that takes it, with the events that follow. -/
def deliver (s : State) (e : Event) : State × List Event :=
  if suppressed s e.code then (s, [])
  else
    let qs := (s.queues.filter fun x => takesEvent x.2 e.code).map fun x => x.1
    let r1 := qs.foldl (gather fun s q => evqPush s q e) (s, [])
    if mgmtClass (evClass e.code) then [0, 1].foldl (gather fun s p => mgmtPush s p e) r1 else r1

/-- Events delivered in their order, then those that follow them, for a number of rounds. -/
def deliverRounds : Nat → List Event → State → State
  | 0, _, s => s
  | n + 1, es, s =>
    let r := es.foldl (fun acc e => let d := deliver acc.1 e; (d.1, acc.2 ++ d.2)) (s, [])
    deliverRounds n r.2 r.1

/-- An event is raised: delivered where it is taken, and then what follows. Four rounds deliver all: every queue that takes class C
and whose link is down is in error after the second, so only events-lost, which no refusal follows, can come up in the fourth. -/
def raise (s : State) (code src : Nat) (payload : Bytes) : State :=
  deliverRounds 4 [{ code := code, src := src, payload := payload, counts := true }] s

def raiseEvent (s : State) (e : Event) : State := raise s e.code e.src e.payload

/-- Dma-error is raised for a transfer (R409). -/
def raiseDma (s : State) (link : Nat) (t : DmaPurpose) (addr : W64) : State := raiseEvent s (dmaEvent link (purposeCode t) addr)

/-- R185: the logical unit, and the logical address of the first affected 16-byte unit. -/
def memPay (unit addr : Nat) : Bytes := toLe 4 unit ++ toLe 8 (16 * (addr / 16))

/-- Writes of a slipway or of the dealer: those that touch a bank are discarded, and state-write-rejected is raised once for
them all. R222 states no abort for them (DESIGN CHOICE, log 80). -/
def wrUnit (s : State) (src : Nat) (l : List (Nat × Bytes)) : State :=
  let t := wrOpen s l
  if l.any fun w => touchesAnyBank s w.1 w.2.length then raise t 0x4107 src [] else t

/-! Token counters (R169–R171). -/

def tokenMax : Nat := 1048575

/-- One signal arrives at a counter. -/
def signalCtr (s : State) (c : CoreId) (ctr : Nat) : State :=
  let x := getCore s c
  let v := smGet 0 x.ctr ctr
  if v = tokenMax then raise s 0x2003 (srcCore c) (toLe 4 (srcCore c))
  else setCore s c { x with ctr := smSet 0 x.ctr ctr (v + 1) }

/-- The SIG_CTR field: 0xFF signals nothing. -/
def signalField (s : State) (c : CoreId) (f : Nat) : State := if f = 0xFF then s else signalCtr s c f

/-- Whether a descriptor waits for tokens at all: a WAIT_CTR that names no counter waits for nothing, so that validation
meets it. -/
def waits (e : QEntry) : Bool := decide (e.wctr ≤ 31) && decide (0 < e.wcnt)

/-- The MODE field of a queued tile descriptor, as memory holds it. -/
def queuedMode (s : State) (e : QEntry) : Nat := byteAt (rdMem s (e.addr + 1) 1) 0 % 4

/-- R82: the heads of the tile queue: its first tile, and behind a pair tile the first tile of the other pair, which waits
for no tile of that pair. The MODE of a tile that still waits is read from memory as it stands (DEDUCED, log 75). -/
def tileHeads (s : State) : List QEntry → List QEntry
  | [] => []
  | e :: rest =>
    let m := queuedMode s e
    if m = 1 ∨ m = 2 then e :: ((rest.find? fun o => queuedMode s o != m).filter fun o => queuedMode s o == 3 - m).toList
    else [e]

/-- R170: the descriptors that may wait on a counter at one time: the heads of the queues, and the mark. -/
def waiters (s : State) (x : Core) : List QEntry :=
  tileHeads s x.tileQ ++ x.vecQ.take 1 ++ x.movQ.take 1 ++ x.colQ.take 1 ++ x.mark.toList

/-- R170: whether a waiter is satisfied: its counter holds enough, and no earlier waiter on that counter is passed over. -/
def ready (s : State) (x : Core) (e : QEntry) : Bool :=
  !waits e ||
    (decide (e.wcnt ≤ smGet 0 x.ctr e.wctr) &&
      !((waiters s x).any fun o => decide (o.ord < e.ord) && waits o && o.wctr == e.wctr))

/-- The bytes of an issued descriptor: as memory holds them when its tokens are satisfied, but with the WAIT_CTR and
WAIT_CNT of its issue, which later writes do not change (R138). `off` is the byte of WAIT_CTR. -/
def descAt (s : State) (e : QEntry) (n off : Nat) : Bytes :=
  patch (patch (rdMem s e.addr n) off (toLe 1 e.wctr)) (off + 2) (toLe 2 e.wcnt)

/-- The start of a waiter takes its tokens in one step. -/
def consume (x : Core) (e : QEntry) : Core :=
  if waits e then { x with ctr := smSet 0 x.ctr e.wctr (smGet 0 x.ctr e.wctr - e.wcnt) } else x

/-- R175: whether the operation of a core with a program-order number is stalled. -/
def opStalled (s : State) (c : CoreId) (ord : Nat) : Bool := s.par.stalls.any fun p => p.op == some (coreIdx c, ord)

/-- The REMOTE field of R166: counter, core, cluster, die. -/
def remoteOf (w : Nat) : Nat × Nat × Nat × Nat := (w % 32, w / 32 % 8, w / 256 % 8, w / 2048 % 16)
def remoteOk (s : State) (w : Nat) : Bool :=
  let (_, k, cl, d) := remoteOf w
  decide (d < 12) && coreExists s d cl k
def signalRemote (s : State) (w : Nat) : State :=
  let (ctr, k, cl, d) := remoteOf w
  if remoteOk s w then signalCtr s (coreOfIdx (d * 64 + cl * 8 + k)) ctr else s

/-! Statistics and the once-per-step events of records (R126, R127). -/

def addStats (x : Core) (r : ExcRec) : Core :=
  { x with stat := (List.range 8).map fun i => satAdd64 (x.stat.getD i 0) (r.cnt.getD i 0),
           flagged := if excBits r = 0 then x.flagged else satAdd64 x.flagged 1 }

/-- A final record is written: its counts join the statistics and its conditions raise their events. -/
def finalRecord (s : State) (c : CoreId) (r : ExcRec) (addr : Nat) : State :=
  let s1 := updCore s c fun x => addStats x r
  let fl := excBits r
  let conds : List (Nat × Nat × Bool) :=
    [(0, 0x1101, fl &&& (flInv ||| flNanIn ||| flInfIn ||| flPovf) != 0), (1, 0x1102, fl &&& flBound != 0),
     (2, 0x1103, fl &&& (flOovf ||| flOsat) != 0), (3, 0x1104, fl &&& flUnf != 0)]
  conds.foldl (fun s k =>
    let x := getCore s c
    if k.2.2 && !x.raised.getLsbD k.1 then
      raise (setCore s c { x with raised := x.raised ||| BitVec.ofNat 4 (2 ^ k.1) }) k.2.1 (srcCore c)
        (toLe 4 (srcCore c) ++ toLe 8 addr)
    else s) s1

/-! Location queue (R351). -/

/-- A location is queued for the next inspection; a full queue drops it and makes the next inspection full. -/
def queueLocation (s : State) (unit : W32) (addr : Nat) (cause : Byte) : State :=
  if s.spr.queue.length < 4096 then
    raise { s with spr := { s.spr with queue := s.spr.queue ++ [{ unit := unit, addr := addr, cause := cause }] } }
      0xA005 srcDevice []
  else raise { s with spr := { s.spr with overflow := true } } 0xA101 srcDevice []

/-! The end of a job entry (R440): `status` 0 done, 1 rejected, 2 dropped; `code` the event that ended or rejected it. -/

def jobByte (j : JobEnt) (i : Nat) : Nat := byteAt j.bytes i
def jobOpc (j : JobEnt) : Nat := jobByte j 0
def jobDoneBit (j : JobEnt) : Bool := decide (jobByte j 1 % 2 = 1)
def jobDonePayload (j : JobEnt) (status code : Nat) : Bytes :=
  sub j.bytes 4 4 ++ toLe 1 (jobOpc j) ++ toLe 1 status ++ toLe 2 j.queue ++ toLe 2 j.index ++ toLe 2 code
def jobSrc (j : JobEnt) : Nat := if j.queue < 256 then srcQueue j.queue else srcMgmt (j.queue - 256)

def jobDone (s : State) (j : JobEnt) (status code : Nat) : State :=
  if jobDoneBit j || status != 0 then raise s 0x0001 (jobSrc j) (jobDonePayload j status code) else s

/-- The running control entry ends. -/
def endControl (s : State) (j : JobEnt) (status code : Nat) : State :=
  jobDone { s with ctl := { s.ctl with running := none } } j status code

/-- An entry outside the control order ends. -/
def endFree (s : State) (j : JobEnt) (status code : Nat) : State :=
  jobDone { s with ctl := { s.ctl with free := s.ctl.free.filter (· != j) } } j status code

/-- job-invalid (R426, R427). -/
def raiseJobInvalid (s : State) (j : JobEnt) : State :=
  raise s 0xC003 (jobSrc j) (toLe 2 j.queue ++ toLe 2 j.index ++ toLe 1 (jobOpc j))

/-- A fresh number of the model's own counter, at which free values are taken. -/
def bumpFresh (s : State) : State := { s with fresh := s.fresh + 1 }

end Sys2Proof.Machine
end

