-- ==== Sys2Proof/Machine/Islands.lean ====
section
/-! DEFINITION. Clock islands and the breakwater governor (spec R36, R390, R445–R448, R454, R455). -/
namespace Sys2Proof.Machine
open Sys2Proof

/-! Islands of a shape (R36, R390). An island is named by KIND, DIE and UNIT. -/

def islandKey (i : IslandId) : Nat := i.kind.toNat * 2 ^ 20 + i.die.toNat * 2 ^ 16 + i.unit.toNat
def getIsland (s : State) (i : IslandId) : Island := smGet Island.init s.clk.islands (islandKey i)
def setIsland (s : State) (i : IslandId) (x : Island) : State :=
  { s with clk := { s.clk with islands := smSet Island.init s.clk.islands (islandKey i) x } }

def islandId (kind die unit : Nat) : IslandId :=
  { kind := BitVec.ofNat 4 kind, die := BitVec.ofNat 4 die, unit := BitVec.ofNat 16 unit }

/-- The logical die behind a physical one, in a shape of n quay dies; the pier dies keep 12 and 13. -/
def logicalDie (es : List LedgerEnt) (n rails p : Nat) : Option Nat :=
  if p = 12 then some 12
  else if p = 13 then (if rails = 3 then some 13 else none)
  else (findIdx? (· == p) (quaysUp es)).bind fun d => if d < n then some d else none

/-- The hawser endpoints of a shape: each end of each link whose two dies it has. -/
def hawserIslands (es : List LedgerEnt) (n rails : Nat) : List IslandId :=
  (hawserLinks.filterMap fun l =>
    match logicalDie es n rails l.1, logicalDie es n rails l.2 with
    | some a, some b => some [islandId 6 a b, islandId 6 b a]
    | _, _ => none).flatten

/-- Islands that exist once on a die, on the quay dies and the pier dies of a shape. -/
def dieIslands (kind n rails : Nat) : List IslandId :=
  (((List.range n) ++ [12]) ++ (if rails = 3 then [13] else [])).map fun d => islandId kind d 0

/-- Every island of a shape, in the row order of R36. -/
def islandsOf (es : List LedgerEnt) (dies : List DieShape) (rails hold : Nat) : List IslandId :=
  let n := dies.length
  let die (d : Nat) : DieShape := dies.getD d { hbmStacks := 0, cores := [] }
  let clusters (d : Nat) : List Nat := List.range (die d).cores.length
  ((List.range n).map fun d => ((clusters d).map fun c =>
      (List.range ((die d).cores.getD c 0)).map fun k => islandId 1 d (c * 16 + k)).flatten).flatten ++
    ((List.range n).map fun d => (clusters d).map fun c => islandId 2 d c).flatten ++
    dieIslands 3 n rails ++ ((List.range n).map fun d => islandId 4 d 0) ++
    ((List.range n).map fun d => (List.range (die d).hbmStacks).map fun k => islandId 5 d k).flatten ++
    hawserIslands es n rails ++ ((List.range 6).map fun p => islandId 7 12 p) ++
    (if rails = 3 then (List.range 6).map fun p => islandId 7 13 (p + 6) else []) ++ [islandId 8 12 0] ++
    [islandId 9 12 0] ++ (if hold = 8 then [islandId 9 13 0] else []) ++ dieIslands 10 n rails

/-- The island that a key names. -/
def islandOfKey (k : Nat) : IslandId := islandId (k / 2 ^ 20) (k / 2 ^ 16 % 16) (k % 2 ^ 16)

def curRails (s : State) : Nat := ((curPlan s).map fun p => p.shape.rails).getD (offerRails s.spr.entries)
def curHoldStacks (s : State) : Nat := ((curPlan s).map fun p => p.shape.holdStacks).getD (offerHold s.spr.entries)

/-- R36: the core islands of the berths that hold no logical core of the shape: each cluster has nine berths, and in a full
cluster the ninth is its relief berth. They are kept in deep-sleep. -/
def reliefIslands (dies : List DieShape) : List IslandId :=
  ((List.range dies.length).map fun d =>
    let cores := ((dies[d]?).map fun x => x.cores).getD []
    ((List.range cores.length).map fun c =>
      ((List.range 9).filter fun k => decide (cores.getD c 0 ≤ k)).map fun k => islandId 1 d (c * 16 + k)).flatten).flatten

/-- Whether an island is one of a berth that holds no logical core. -/
def isRelief (s : State) (i : IslandId) : Bool := (reliefIslands (curDies s)).contains i

/-- The islands that a clock record may name (R390), and a master may select (R462): those of the shape's logical units. -/
def namedIslands (s : State) : List IslandId :=
  islandsOf s.spr.entries (curDies s) (curRails s) (if 4 < curHoldStacks s then 8 else 4)

/-- The islands of the current shape: those that its plan can name, and those of its spare berths. -/
def shapeIslands (s : State) : List IslandId := namedIslands s ++ reliefIslands (curDies s)

/-- R280: a fabric port on an axis of extent 1 is left unconnected. -/
def unconnected (s : State) (i : IslandId) : Bool :=
  i.kind == 7 &&
    (match curPlan s with
      | some p =>
        let a := i.unit.toNat % 6 / 2
        (if a = 0 then p.shape.ex else if a = 1 then p.shape.ey else p.shape.ez) == 1
      | none => false)

/-- R446, R36: the islands that are not kept in deep-sleep. -/
def activeIslands (s : State) : List IslandId := (shapeIslands s).filter fun i => !unconnected s i && !isRelief s i

/-! Clocks (R445). -/

def nominalMhz : Nat → Nat
  | 1 => 1750 | 2 => 1750 | 3 => 2000 | 4 => 1200 | 5 => 1600 | 6 => 2000 | 7 => 1750 | 8 => 1000 | 9 => 800 | 10 => 1000
  | _ => 0
def lowestMhz : Nat → Nat
  | 1 => 400 | 2 => 400 | 3 => 800 | 4 => 400 | 5 => 1600 | 6 => 2000 | 7 => 1750 | 8 => 1000 | 9 => 400 | 10 => 500
  | _ => 0

/-- Whether RUN_MHZ is allowed for a kind. -/
def mhzOk (kind mhz : Nat) : Bool :=
  mhz == 0 || (decide (lowestMhz kind ≤ mhz) && decide (mhz ≤ nominalMhz kind) && mhz % 25 == 0)

/-- Whether a clock record covers an island (R390). -/
def clockCovers (r : ClockRec) (i : IslandId) : Bool :=
  r.kind == i.kind.toNat && (r.die == 0xFF || r.die == i.die.toNat) && (r.unit == 0xFFFF || r.unit == i.unit.toNat)

/-- The plan's run clock of an island: the last record that covers it; 0 means the kind's nominal clock. -/
def planMhz (s : State) (i : IslandId) : Nat :=
  let recs := ((curPlan s).map fun p => p.clocks).getD []
  match (recs.filter fun r => clockCovers r i).getLast? with
  | some r => if r.mhz = 0 then nominalMhz i.kind.toNat else r.mhz
  | none => nominalMhz i.kind.toNat

/-- The current run clock, including the cap of R456 on core islands. -/
def runMhz (s : State) (i : IslandId) : Nat := if i.kind = 1 then Nat.min (planMhz s i) s.pwr.cap else planMhz s i

/-- The kinds whose sleep clock is the run clock divided by SLEEP_DIV; the others are fixed. -/
def scalable (kind : Nat) : Bool := [1, 2, 3, 4, 9, 10].contains kind

/-- SLEEP_DIV of an island: that of the last record that covers it. Without a record the spec states none: a free value. -/
def sleepDivOf (s : State) (i : IslandId) : Nat :=
  let recs := ((curPlan s).map fun p => p.clocks).getD []
  ((recs.filter fun r => clockCovers r i).getLast?.map fun r => r.sleepDiv).getD (Config.sleepDiv i.kind.toNat)

/-! The governor (R454). -/

/-- Weights in mA: run ↔ sleep or work, and sleep ↔ deep-sleep. -/
def govWeight : Nat → Nat × Nat
  | 1 => (170, 25) | 2 => (60, 10) | 3 => (150, 20) | 4 => (120, 15) | 5 => (500, 100) | 6 => (80, 10) | 7 => (150, 20)
  | 8 => (200, 30) | 9 => (400, 40) | 10 => (30, 5)
  | _ => (0, 0)

def modeDeep : BitVec 2 := 0
def modeSleep : BitVec 2 := 1
def modeRun : BitVec 2 := 2

/-- Whether a kind has a sleep mode (R445). -/
def canSleep (kind : Nat) : Bool := kind != 7 && kind != 8

/-- The mode an island will have once its requests are admitted. -/
def plannedMode (s : State) (i : IslandId) : BitVec 2 :=
  match (s.clk.gov.filterMap fun r => if r.island = i then r.mode else none).getLast? with
  | some m => m
  | none => (getIsland s i).mode

/-- The transitions from a mode to another, one mode at a time; a kind without sleep goes in one. -/
def modeSteps (i : IslandId) (from_ tgt : BitVec 2) : List GovReq :=
  let w := govWeight i.kind.toNat
  let req (weight : Nat) (m : BitVec 2) : GovReq :=
    { weight := weight, island := i, mode := some m, startCore := none, clock := none }
  if from_ = tgt then []
  else if from_ = modeDeep ∧ tgt = modeRun then
    (if canSleep i.kind.toNat then [req w.2 modeSleep, req w.1 modeRun] else [req (w.1 + w.2) modeRun])
  else if from_ = modeRun ∧ tgt = modeDeep then
    (if canSleep i.kind.toNat then [req w.1 modeSleep, req w.2 modeDeep] else [req (w.1 + w.2) modeDeep])
  else if from_ = modeDeep ∨ tgt = modeDeep then [req w.2 tgt] else [req w.1 tgt]

/-- The clock of an island on its generator, as MHz over a divisor; deep-sleep has none. -/
def islandClock (s : State) (i : IslandId) : Option (Nat × Nat) :=
  let x := getIsland s i
  if x.mode = modeDeep then none
  else some (x.mhz, if x.mode = modeSleep ∧ scalable i.kind.toNat then sleepDivOf s i else 1)

def askMode (s : State) (i : IslandId) (m : BitVec 2) : State :=
  { s with clk := { s.clk with gov := s.clk.gov ++ modeSteps i (plannedMode s i) m } }

/-- Every active island is asked for run. -/
def askRun (s : State) : State := (activeIslands s).foldl (fun s i => askMode s i modeRun) s

/-- R457: every island in run is asked for sleep, where its kind has one. -/
def askSleep (s : State) : State :=
  ((activeIslands s).filter fun i => canSleep i.kind.toNat && plannedMode s i == modeRun).foldl
    (fun s i => askMode s i modeSleep) s

/-- The requests that one tick admits: in request order while the sum stays at or below the budget. -/
def admitReqs : Nat → List GovReq → List GovReq × List GovReq
  | _, [] => ([], [])
  | budget, r :: rs =>
    if r.weight ≤ budget then
      let (a, b) := admitReqs (budget - r.weight) rs
      (r :: a, b)
    else ([], r :: rs)

def govBudget : Nat := 9500

/-- Whether an island's present clock runs: the fallback does, and a generator that is locked. -/
def clockRuns (x : Island) : Bool := !x.generator || x.lock

/-- The newest clock switch of an island that waits for the governor. -/
def lastAsk (s : State) (i : IslandId) : Option ClockAsk :=
  (s.clk.gov.filterMap fun r => if r.island = i then r.clock else none).getLast?

/-- R447, R451, R456, R460: a clock switch that the governor stages; one that would repeat the newest of its island adds none. The
table of R454 gives switches no weight: the model takes the island's weight between run and sleep (DESIGN CHOICE, log 101). -/
def askClock (s : State) (i : IslandId) (a : ClockAsk) : State :=
  if lastAsk s i = some a then s
  else
    let r : GovReq := { weight := (govWeight i.kind.toNat).1, island := i, mode := none, startCore := none, clock := some a }
    { s with clk := { s.clk with gov := s.clk.gov ++ [r] } }

/-- R447, point 1: a switch to a generator without lock is refused; the others wait for their completion. -/
def startSwitch (x : Island) (gen : Bool) : Island := if gen && !x.lock then { x with last := 3 } else { x with target := some gen }

/-- R447: an admitted switch. A change of frequency moves the island to the fallback, where its generator relocks at the run clock that
then holds, unless it is in holdover, and asks for the way back. Where the old clock has stopped, the move to the fallback hangs
(R448), and the new frequency is that of the generator's next lock. -/
def admitClock (s : State) (i : IslandId) (a : ClockAsk) : State :=
  let x := getIsland s i
  setIsland s i (match a with
    | .toGenerator => startSwitch x true
    | .toFallback => startSwitch x false
    | .retune =>
      let y := { x with mhz := runMhz s i }
      if !x.generator then y
      else if !x.lock then startSwitch y false
      else startSwitch { y with generator := false, last := 1, lock := !x.holdover } true)

/-- R447: a requested switch reports completion, unless the old clock or the target clock has stopped. -/
def finishSwitch (x : Island) : Island :=
  match x.target with
  | some g => if clockRuns x && (!g || x.lock) then { x with generator := g, last := 1, target := none } else x
  | none => x

/-- Every switch that can complete does. -/
def finishSwitches (s : State) : State :=
  { s with clk := { s.clk with islands := smMapVal Island.init s.clk.islands finishSwitch } }

/-- Whether an island runs from the reference: on its generator, which is locked (R451). -/
def onReference (s : State) (i : IslandId) : Bool := (getIsland s i).generator && (getIsland s i).lock

/-- The island of a fabric port, and that of the PCIe links. -/
def portIsland (p : Nat) : IslandId := islandId 7 (if p < 6 then 12 else 13) p
def pcieIsland : IslandId := islandId 8 12 0

def coreIsland (c : CoreId) : IslandId := islandId 1 c.die.val (c.cluster.val * 16 + c.core.val)

/-- R446, R454: an island whose compute groups take up no new work: it sleeps, or it has not yet been led out of deep-sleep. An
island in use that sleeps deeply has a request to run waiting at the governor. -/
def computeStopped (s : State) (i : IslandId) : Bool :=
  let m := (getIsland s i).mode
  m == modeSleep || (m == modeDeep && s.clk.gov.any fun r => r.island == i && r.mode.isSome)

/-- R445, R457: a stack in self-refresh, or on its way there or back, whose controller holds new requests. -/
def stackHolds (s : State) (i : IslandId) : Bool :=
  (getIsland s i).mode == modeSleep || s.clk.gov.any fun r => r.island == i && r.mode.isSome

/-- The island of the stack that holds an HBM address. -/
def stackIsland (s : State) (a : Nat) : Option IslandId :=
  (stackPlace (curDies s) 0 (a / stackBytes)).map fun p => islandId 5 p.1 p.2

/-- R445, R457: whether a request of `n` bytes at `a` waits for a stack in self-refresh. -/
def hbmHolds (s : State) (a n : Nat) : Bool :=
  decide (0 < n ∧ a < hbmEnd s) &&
    (List.range ((a % stackBytes + n - 1) / stackBytes + 1)).any fun k =>
      (stackIsland s (a + k * stackBytes)).any (stackHolds s)

/-- The islands of the stacks in use. -/
def stackIslands (s : State) : List IslandId :=
  ((curDies s).mapIdx fun d x => (List.range x.hbmStacks).map fun k => islandId 5 d k).flatten

/-- Whether some stack in use holds requests. -/
def anyStackHolds (s : State) : Bool := (stackIslands s).any (stackHolds s)

/-- R455: an idle core asks the governor for its start before its first tile or vector descriptor. -/
def askStart (s : State) (c : CoreId) : State :=
  let x := getCore s c
  if x.idle && !x.startAsked then
    let s1 := setCore s c { x with startAsked := true }
    { s1 with clk := { s1.clk with gov := s1.clk.gov ++ [{ weight := 170, island := coreIsland c, mode := none,
                                                           startCore := some c, clock := none }] } }
  else s

/-- R455: a core that is idle asks for its end of work; one whose queues hold a tile or vector descriptor that has not started
asks for its next start with it. -/
def coreIdle (s : State) (c : CoreId) : State :=
  let x := getCore s c
  if x.idle || !coreExists s c.die.val c.cluster.val c.core.val then s
  else
    let s1 := setCore s c { x with idle := true, startAsked := false }
    let s2 := { s1 with clk := { s1.clk with gov := s1.clk.gov ++ [{ weight := 170, island := coreIsland c, mode := none,
                                                                     startCore := none, clock := none }] } }
    if x.tileQ.isEmpty && x.vecQ.isEmpty then s2 else askStart s2 c

/-! Source switches (R447, R448). -/

/-- A switch requested by software: refused when the target clock is not running, and else staged by the governor (R454). A selection
that names no island of the shape switches nothing (R462). -/
def askSource (s : State) (i : IslandId) (gen : Bool) : State :=
  if !(namedIslands s).contains i then s
  else
    let x := getIsland s i
    if gen && !x.lock then setIsland s i { x with last := 3 }
    else askClock s i (if gen then .toGenerator else .toFallback)

/-- The watchdog forces a switch that has not completed. It counts cycles of the target clock, so a generator that has lost its lock
never lets it elapse. The sideband mask of points 1 to 3 is raised and lowered within this one command, between two service slots
of every arbiter. -/
def forceSwitch (s : State) (i : IslandId) : State :=
  let x := getIsland s i
  match x.target with
  | none => s
  | some g =>
    if g && !x.lock then s else
    let s1 := setIsland s i { x with generator := g, last := 2, target := none }
    let s2 := { s1 with clk := { s1.clk with forced := satInc32 s1.clk.forced } }
    if s2.clk.ref = .failed then s2
    else raise s2 0x8101 srcDevice (toLe 1 i.kind.toNat ++ toLe 1 i.die.toNat ++ toLe 2 i.unit.toNat)

/-- Every island of the shape at its run clock. A generator that its island does not run on takes the frequency at once; an island on
its generator changes it by the staged switch over the fallback (R447, R456). -/
def applyClocks (s : State) : State :=
  (shapeIslands s).foldl (fun s i =>
    let x := getIsland s i
    if x.mhz = runMhz s i then s
    else if x.generator then askClock s i .retune
    else setIsland s i { x with mhz := runMhz s i }) s

/-- R441, R460: with the reference good, a generator that has not locked yet locks, and its island asks for the staged switch to it. -/
def lockGenerators (s : State) : State :=
  (shapeIslands s).foldl (fun s i =>
    let x := getIsland s i
    if x.lock && x.generator && !x.holdover then s
    else
      let s1 := setIsland s i { x with lock := true, holdover := false }
      if x.generator then s1 else askClock s1 i .toGenerator) s

/-- Those of the listed islands that are not in use any more. -/
def outsideIslands (s : State) : List IslandId :=
  let act := activeIslands s
  (s.clk.islands.map fun p => islandOfKey p.1).filter fun i => !act.contains i

/-- R446: the islands after a change of shape: those outside it, and unconnected ports, go to deep-sleep, staged by the governor
(R454) and once their requesters are quiet (R181); the new ones lock to a good reference (R441). -/
def settleIslands (s : State) : State :=
  let out := outsideIslands s
  let s1 := { s with clk := { s.clk with gov := s.clk.gov.filter fun r => !out.contains r.island } }
  let s2 := applyClocks (out.foldl (fun s i => askMode s i modeDeep) s1)
  askRun (if s2.clk.ref = .good then lockGenerators s2 else s2)

/-- CORE_IDLE (R455). -/
def execCoreIdle (c : CoreId) (s : State) : Host.Outcome State Fault Refusal := .next (coreIdle s c)
/-- SWITCH_WATCHDOG (R448). -/
def execSwitchWatchdog (i : IslandId) (s : State) : Host.Outcome State Fault Refusal := .next (forceSwitch s i)

end Sys2Proof.Machine
end

