-- ==== Sys2Proof/Machine/Fab.lean ====
section
/-! DEFINITION. Device IDs, groups and trees (spec R252–R254, R266, R294), the transaction header (R298, R299), and sending
transactions. -/
namespace Sys2Proof.Machine
open Sys2Proof

/-! Logical IDs (R294) and alias entries (R303, R309). -/

def idX (i : Nat) : Nat := i % 64
def idY (i : Nat) : Nat := i / 64 % 64
def idZ (i : Nat) : Nat := i / 4096 % 64
def mkId (x y z : Nat) : Nat := x + 64 * y + 4096 * z

def getAlias (s : State) (i : Nat) : Alias := smGet Alias.init s.fab.aliases i
def aliasValid (a : Alias) : Bool := a.hi.getLsbD 31
def aliasMode (a : Alias) : Nat := a.hi.toNat / 2 ^ 29 % 4
def aliasDetour (a : Alias) : Nat := a.hi.toNat / 2 ^ 26 % 8
def aliasTarget (a : Alias) : Nat := a.hi.toNat % 2 ^ 18
def aliasId (a : Alias) : Nat := a.lo.toNat % 2 ^ 18

/-- The valid entries in entry order. -/
def aliasList (s : State) : List Alias := ((List.range 8).map (getAlias s)).filter aliasValid

def acceptId (s : State) : Option Nat := ((aliasList s).find? fun a => aliasMode a == 0).map aliasId

/-- The ALIAS_ID of every valid accept entry. -/
def acceptIds (s : State) : List Nat := ((aliasList s).filter fun a => aliasMode a == 0).map aliasId

/-- The ID under which the device answers and sends its job traffic (R304, R394). -/
def myId (s : State) : Nat := (acceptId s).getD s.fab.homeId.toNat

/-- The torus extents of the plan; 1 each before a plan. -/
def extents (s : State) : Nat × Nat × Nat :=
  match s.pln.plan with
  | some p => (p.shape.ex, p.shape.ey, p.shape.ez)
  | none => (1, 1, 1)

def routableIn (e : Nat × Nat × Nat) (i : Nat) : Bool :=
  decide (i < 2 ^ 18 ∧ idX i < e.1 ∧ idY i < e.2.1 ∧ idZ i < e.2.2)
def routable (s : State) (i : Nat) : Bool := routableIn (extents s) i

/-! Groups (R252). -/

def groupSize (g : Group) : Nat := g.n.1 * g.n.2.1 * g.n.2.2
def axisIndex (n str c : Nat) : Nat := c % (n * str) / str
def memberIndex (g : Group) (i : Nat) : Nat :=
  axisIndex g.n.1 g.s.1 (idX i) + g.n.1 * (axisIndex g.n.2.1 g.s.2.1 (idY i) + g.n.2.1 * axisIndex g.n.2.2 g.s.2.2 (idZ i))

def axisCoord (n str c m : Nat) : Nat := c / (n * str) * (n * str) + m * str + c % str

/-- The ID of a member of the group that contains a device. -/
def memberId (g : Group) (base m : Nat) : Nat :=
  mkId (axisCoord g.n.1 g.s.1 (idX base) (m % g.n.1))
    (axisCoord g.n.2.1 g.s.2.1 (idY base) (m / g.n.1 % g.n.2.1))
    (axisCoord g.n.2.2 g.s.2.2 (idZ base) (m / (g.n.1 * g.n.2.1)))

/-- Whether a device belongs to the group that contains another. -/
def sameGroup (g : Group) (a b : Nat) : Bool := memberId g a (memberIndex g b) == b

def groupRec (l : Layout) (k : Nat) : Option Group := l.groups.find? fun g => g.group == k
def schedRec (l : Layout) (k : Nat) : Option Sched := l.scheds.find? fun x => x.sched == k

/-! Trees (R253, R254). -/

/-- One axis of the leaf order: leaf coordinate to member coordinate, and back. -/
def rotAxis (mirror : Bool) (n rho j : Nat) : Nat := if mirror then (rho + n - j) % n else (j + rho) % n
def unrotAxis (mirror : Bool) (n rho m : Nat) : Nat := if mirror then (rho + n - m) % n else (m + n - rho) % n

def mapAxes (g : Group) (f : Nat → Nat → Nat → Nat) (rho j : Nat) : Nat :=
  let nx := g.n.1
  let ny := g.n.2.1
  let nz := g.n.2.2
  f nx (rho % nx) (j % nx) + nx * (f ny (rho / nx % ny) (j / nx % ny) + ny * f nz (rho / (nx * ny)) (j / (nx * ny)))

/-- R253: the member at leaf j of the tree for chunk k. -/
def leafMember (g : Group) (rotate root k j : Nat) : Nat :=
  mapAxes g (rotAxis (rotate == 2 && k % 2 == 1)) (if rotate = 0 then root else k % groupSize g) j
def memberLeaf (g : Group) (rotate root k m : Nat) : Nat :=
  mapAxes g (unrotAxis (rotate == 2 && k % 2 == 1)) (if rotate = 0 then root else k % groupSize g) m

/-- The canonical tree: the hosts of the right children of the nodes that leaf j hosts, lowest level first. -/
def canonKids (size j : Nat) : Nat → Nat → List Nat
  | 0, _ => []
  | n + 1, lev => if j % 2 ^ (lev + 1) = 0 ∧ j + 2 ^ lev < size then (j + 2 ^ lev) :: canonKids size j n (lev + 1) else []

/-- The lowest set bit's position. -/
def lowBit : Nat → Nat → Nat
  | 0, _ => 0
  | n + 1, j => if j % 2 = 1 then 0 else lowBit n (j / 2) + 1

def canonParent (j : Nat) : Option Nat := if j = 0 then none else some (j - 2 ^ lowBit 20 j)

/-- The lowest leaf below a reference of an explicit tree (R267). -/
def lowLeaf (nodes : List (Nat × Nat)) (size : Nat) : Nat → Nat → Nat
  | 0, r => r
  | n + 1, r => if r < size then r else lowLeaf nodes size n ((nodes.getD (r - size) (0, 0)).1)

def explicitKids (nodes : List (Nat × Nat)) (size j : Nat) : List Nat :=
  (List.range (size - 1)).filterMap fun i =>
    if lowLeaf nodes size size (size + i) = j then some (lowLeaf nodes size size (nodes.getD i (0, 0)).2) else none

def explicitParent (nodes : List (Nat × Nat)) (size j : Nat) : Option Nat :=
  ((List.range (size - 1)).find? fun i => lowLeaf nodes size size (nodes.getD i (0, 0)).2 == j).map fun i =>
    lowLeaf nodes size size (size + i)

/-- The tree of a schedule: none means canonical. -/
def schedNodes (l : Layout) (x : Sched) (size : Nat) : Option (List (Nat × Nat)) :=
  if x.explicit then some ((l.nodes.drop x.treeFirst).take (size - 1)) else none

def treeKids (t : Option (List (Nat × Nat))) (size j : Nat) : List Nat :=
  match t with
  | none => canonKids size j 20 0
  | some ns => explicitKids ns size j
def treeParent (t : Option (List (Nat × Nat))) (size j : Nat) : Option Nat :=
  match t with
  | none => canonParent j
  | some ns => explicitParent ns size j

/-! The job tree: canonical over JOB_GROUP with ROTATE 0 and ROOT 0 (R268), so that leaf j is member j. -/

def jobGroup (s : State) : Option Group := (curLayout s).bind fun l => groupRec l l.jobGroup
def shardGroup (s : State) : Option Group := (curLayout s).bind fun l => groupRec l l.shardGroup
def replicaGroup (s : State) : Option Group := (curLayout s).bind fun l => groupRec l l.replicaGroup
def jobSize (s : State) : Nat := ((jobGroup s).map groupSize).getD 1
def jobIndex (s : State) : Nat := ((jobGroup s).map fun g => memberIndex g (myId s)).getD 0
def jobKids (s : State) : List Nat := treeKids none (jobSize s) (jobIndex s)
def jobParent (s : State) : Option Nat := treeParent none (jobSize s) (jobIndex s)
def jobMemberId (s : State) (m : Nat) : Nat := ((jobGroup s).map fun g => memberId g (myId s) m).getD (myId s)

/-! Transactions as bytes (R298). -/

def txnCode : TxnType → Nat
  | .put => 1 | .getReq => 2 | .getRsp => 3 | .reduce => 4 | .cctl => 5 | .tally => 6 | .compl => 7
def txnOfCode : Nat → Option TxnType
  | 1 => some .put | 2 => some .getReq | 3 => some .getRsp | 4 => some .reduce | 5 => some .cctl | 6 => some .tally
  | 7 => some .compl | _ => none

def txnHeader (t : Txn) : Bytes :=
  toLe 1 (txnCode t.type) ++
    toLe 1 (t.cls.toNat + 4 * b2n t.sig + 8 * b2n t.aliased + 16 * b2n t.detour + 32 * t.daxis.toNat) ++
    toLe 2 t.data.length ++ toLe 3 t.dst.toNat ++ toLe 3 t.src.toNat ++ toLe 2 t.tag.toNat ++ le32 t.epoch ++
    sub t.fields 0 32

/-- A transaction on the byte stream of a virtual lane, padded to a multiple of 4 (R287). -/
def txnBytes (t : Txn) : Bytes := padTo 4 (txnHeader t ++ t.data)

/-- The transaction at the head of a byte stream and the rest of the stream, once the stream holds all of it. -/
def txnParse (b : Bytes) : Option (Txn × Bytes) :=
  let len := fld b 2 2
  let total := ceilDiv (48 + len) 4 * 4
  match txnOfCode (byteAt b 0) with
  | some ty =>
    if b.length < total then none
    else
      let f := byteAt b 1
      some ({ type := ty, cls := BitVec.ofNat 2 f, sig := bitOf f 2 == 1, aliased := bitOf f 3 == 1,
              detour := bitOf f 4 == 1, daxis := BitVec.ofNat 2 (f / 32), dst := BitVec.ofNat 18 (fld b 4 3),
              src := BitVec.ofNat 18 (fld b 7 3), tag := BitVec.ofNat 16 (fld b 10 2), epoch := fld32 b 12,
              fields := sub b 16 32, data := sub b 48 len }, b.drop total)
  | none => none

/-- A field of the type-dependent bytes, by its byte number in the header. -/
def txnFld (t : Txn) (off n : Nat) : Nat := fld t.fields (off - 16) n

/-- The 32 type-dependent bytes from pieces at byte numbers of the header. -/
def txnFields (l : List (Nat × Bytes)) : Bytes := l.foldl (fun b p => patch b (p.1 - 16) p.2) (zeroBytes 32)

/-! Sending. -/

/-- A TAG that no outstanding transaction of this device uses (R298). -/
def freeTag (used : List (BitVec 16)) : Nat → BitVec 16 → BitVec 16
  | 0, t => t
  | n + 1, t => if used.contains t then freeTag used n (t + 1) else t

/-- Whether outbound transactions count as delivered when issued: a replay fed from a trace (R346). -/
def traceReplay (s : State) : Bool :=
  match s.hold.replay with
  | some r => r.trace
  | none => false

/-- R281: the rail of a source on a quay die. -/
def railOfDie (d : Nat) : Nat := if d < 3 ∨ (6 ≤ d ∧ d < 9) then 0 else 1

/-- R281, R365: the rail of the harbourmaster that serves: rail 0 from pier die P0, rail 1 from P1. -/
def hmRail (s : State) : Nat := if (diesUp s.spr.entries).contains 12 then 0 else 1

/-- FAB_LOST of a port counts a lost transaction. -/
def countLost (s : State) (p : Nat) : State :=
  let x := smGet Port.init s.fab.ports p
  { s with fab := { s.fab with ports := smSet Port.init s.fab.ports p { x with lost := satInc32 x.lost } } }

def raiseLost (s : State) (dst : Nat) : State := raise s 0x6105 srcDevice (toLe 3 dst)

/-- A transaction of this device enters the fabric on a rail: its TAG is chosen, and it waits to be routed. One whose
destination is not routable is discarded with its events, and the answer's TAG is none (R294); it counts at the +x port of its rail
(DESIGN CHOICE, log 108). -/
def sendTxn (s : State) (rail : Nat) (t : Txn) (why : SentFor) : State × Option (BitVec 16) :=
  if traceReplay s then (s, none)
  else if !routable s t.dst.toNat then
    (raiseLost (raise (countLost s (6 * (rail % 2))) 0x6001 srcDevice (toLe 3 t.dst.toNat)) t.dst.toNat, none)
  else
    let used := s.fab.outstanding.map fun o => o.1
    let tag := freeTag used (used.length + 1) s.fab.nextTag
    let t' := { t with tag := tag }
    ({ s with fab := { s.fab with outbox := s.fab.outbox ++ [{ rail := rail, arr := none, txn := t' }], nextTag := tag + 1,
                                  outstanding := s.fab.outstanding ++ [(tag, t', why)] } }, some tag)

/-- The epoch that this device's transactions carry: from point 3 of a re-shard lock on, that of the layout to come, since
R276 makes a message of the old one an epoch fault (DEDUCED). -/
def msgEpoch (s : State) : W32 :=
  match s.lock with
  | some l => if 3 ≤ l.point then s.stp.epoch + 1 else s.stp.epoch
  | none => s.stp.epoch

/-- The transaction of this device with given contents. -/
def mkTxn (s : State) (ty : TxnType) (cls : Nat) (dst : Nat) (fields data : Bytes) : Txn :=
  { type := ty, cls := BitVec.ofNat 2 cls, sig := false, aliased := false, detour := false, daxis := 0,
    dst := BitVec.ofNat 18 dst, src := BitVec.ofNat 18 (myId s), tag := 0, epoch := msgEpoch s, fields := fields,
    data := data }

/-- R281: the rail of the die that holds an address: a quay die's, or the harbourmaster's where no quay die does. -/
def railOfAddr (s : State) (a : Nat) : Nat :=
  if a < hbmEnd s then ((stackPlace (curDies s) 0 (a / stackBytes)).map fun p => railOfDie p.1).getD (hmRail s)
  else if sramBase ≤ a ∧ a < bondBase then railOfDie ((a - sramBase) / 2 ^ 32)
  else hmRail s

/-- R281: the rail that an answer takes: that of the die that the request addressed; control messages and tallies reach the
harbourmaster. The core that a REDUCE reaches is told apart by its command. -/
def answerRail (s : State) (req : Txn) : Nat :=
  match req.type with
  | .put => railOfAddr s (txnFld req 16 6)
  | .getReq => railOfAddr s (txnFld req 16 6)
  | _ => hmRail s

/-- An answer (COMPL or GET_RSP) goes back to the source with the request's TAG; it is not itself answered. -/
def sendAnswer (s : State) (rail : Nat) (req : Txn) (ty : TxnType) (fields data : Bytes) : State :=
  if traceReplay s then s
  else
    let t := { mkTxn s ty req.cls.toNat req.src.toNat fields data with tag := req.tag }
    { s with fab := { s.fab with outbox := s.fab.outbox ++ [{ rail := rail, arr := none, txn := t }] } }

def sendComplOn (s : State) (rail : Nat) (req : Txn) (status : Nat) : State :=
  sendAnswer s rail req .compl (txnFields [(16, toLe 1 status)]) []

def sendCompl (s : State) (req : Txn) (status : Nat) : State := sendComplOn s (answerRail s req) req status

/-- Collective-control message kinds (R269). -/
def ckCommit : Nat := 1
def ckVerdictUp : Nat := 2
def ckVerdictDown : Nat := 3
def ckAbort : Nat := 4
def ckDrained : Nat := 5
def ckClosed : Nat := 6
def ckPermuted : Nat := 7
def ckAdvance : Nat := 8
def ckAbandon : Nat := 9
def ckAdvanced : Nat := 10
def ckAbandonReq : Nat := 11

/-- A collective-control message to a device; the sender's member index is its own in JOB_GROUP. -/
def sendCctl (s : State) (kind cause : Nat) (step : W64) (tag : W32) (data dst : Nat) : State × Bool :=
  let f := txnFields [(16, toLe 1 kind), (18, toLe 2 cause), (20, toLe 3 (jobIndex s)), (24, le64 step),
    (32, toLe 8 data), (40, le32 tag)]
  let r := sendTxn s (hmRail s) (mkTxn s .cctl 1 dst f []) .control
  (r.1, r.2.isSome || traceReplay s)

/-- The same message to several devices; the answer says whether all could be routed. -/
def sendCctlAll (s : State) (kind cause : Nat) (step : W64) (tag : W32) (data : Nat) (dsts : List Nat) : State × Bool :=
  dsts.foldl (fun acc d => let r := sendCctl acc.1 kind cause step tag data d; (r.1, acc.2 && r.2)) (s, true)

end Sys2Proof.Machine
end

