-- ==== Sys2Proof/Machine/Keccak.lean ====
section
/-! DEFINITION. SHAKE256, which the spec names for every digest (R199, R237, R317, R366). The spec names the function and
does not spell it out; this is the sponge of FIPS 202 with rate 136 bytes, log entry 20. -/
namespace Sys2Proof.Machine
open Sys2Proof

/-- The 24 round constants. -/
def keccakRc : List W64 :=
  [0x0000000000000001#64, 0x0000000000008082#64, 0x800000000000808A#64, 0x8000000080008000#64,
   0x000000000000808B#64, 0x0000000080000001#64, 0x8000000080008081#64, 0x8000000000008009#64,
   0x000000000000008A#64, 0x0000000000000088#64, 0x0000000080008009#64, 0x000000008000000A#64] ++
  [0x000000008000808B#64, 0x800000000000008B#64, 0x8000000000008089#64, 0x8000000000008003#64,
   0x8000000000008002#64, 0x8000000000000080#64, 0x000000000000800A#64, 0x800000008000000A#64,
   0x8000000080008081#64, 0x8000000000008080#64, 0x0000000080000001#64, 0x8000000080008008#64]

/-- Rotation amounts of lane x + 5y. -/
def keccakRot : List Nat :=
  [0, 1, 62, 28, 27, 36, 44, 6, 55, 20, 3, 10, 43, 25, 39, 41, 45, 15, 21, 8, 18, 2, 61, 56, 14]

/-- One round over the 25 lanes. -/
def keccakRound (a : List W64) (rc : W64) : List W64 :=
  let at_ (l : List W64) (i : Nat) : W64 := l.getD i 0
  let c := (List.range 5).map fun x => at_ a x ^^^ at_ a (x + 5) ^^^ at_ a (x + 10) ^^^ at_ a (x + 15) ^^^ at_ a (x + 20)
  let d := (List.range 5).map fun x => at_ c ((x + 4) % 5) ^^^ (at_ c ((x + 1) % 5)).rotateLeft 1
  let t := (List.range 25).map fun i => at_ a i ^^^ at_ d (i % 5)
  -- lane (x, y) moves to (y, 2x + 3y): the lane that lands at (u, v) comes from x = (u + 3v) mod 5, y = u
  let b := (List.range 25).map fun i =>
    let u := i % 5
    let v := i / 5
    let x := (u + 3 * v) % 5
    let src := x + 5 * u
    (at_ t src).rotateLeft (keccakRot.getD src 0)
  let e := (List.range 25).map fun i =>
    let x := i % 5
    let y := i / 5
    at_ b i ^^^ (~~~ (at_ b ((x + 1) % 5 + 5 * y)) &&& at_ b ((x + 2) % 5 + 5 * y))
  match e with
  | l0 :: ls => (l0 ^^^ rc) :: ls
  | [] => []

/-- The permutation: 24 rounds. -/
def keccakF (a : List W64) : List W64 := keccakRc.foldl keccakRound a

/-- One 136-byte block XORed into the first 17 lanes. -/
def keccakXor (a : List W64) (block : Bytes) : List W64 :=
  (List.range 25).map fun i => if i < 17 then a.getD i 0 ^^^ fld64 block (8 * i) else a.getD i 0

def keccakAbsorb : Nat → List W64 → Bytes → List W64
  | 0, a, _ => a
  | n + 1, a, bs => keccakAbsorb n (keccakF (keccakXor a bs)) (bs.drop 136)

def keccakSqueeze : Nat → List W64 → Bytes
  | 0, _ => []
  | n + 1, a => ((a.take 17).flatMap fun w => toLe 8 w.toNat) ++ keccakSqueeze n (keccakF a)

/-- SHAKE256 of a byte string, `n` output bytes, in the order the function emits them (R11). -/
def shake256 (n : Nat) (bs : Bytes) : Bytes :=
  let q := 136 - bs.length % 136
  let pad : Bytes := if q = 1 then [0x9F] else (0x1F : Byte) :: (List.replicate (q - 2) 0 ++ [0x80])
  let padded := bs ++ pad
  (keccakSqueeze (ceilDiv n 136) (keccakAbsorb (padded.length / 136) (List.replicate 25 0) padded)).take n

end Sys2Proof.Machine
end

