-- ==== Sys2Proof/Machine/StepOps.lean ====
section
/-! DEFINITION. Shared operations of the step machine: the log book (spec R323–R327), the end of an attempt with its
records (R235, R241, R249), the flip (R223), the freeze of a snapshot (R242, R319), aborts (R241, R270), and the cause met
during a re-shard lock (R275). -/
namespace Sys2Proof.Machine
open Sys2Proof

/-! Cause bits of STP_LAST (R251). -/
def cLoss : BitVec 12 := 0x001
def cGrad : BitVec 12 := 0x002
def cOverlimit : BitVec 12 := 0x004
def cRepaired : BitVec 12 := 0x008
def cNomaj : BitVec 12 := 0x010
def cStale : BitVec 12 := 0x020
def cDataloss : BitVec 12 := 0x040
def cManifest : BitVec 12 := 0x080
def cRemote : BitVec 12 := 0x100
def cHost : BitVec 12 := 0x200
def cFault : BitVec 12 := 0x400
def cStatewr : BitVec 12 := 0x800

def verCommitted : Nat := 1
def verSkipped : Nat := 2
def verStopped : Nat := 3
def verAborted : Nat := 4

/-- The first 16 bytes of SHAKE256. -/
def digest16 (b : Bytes) : Bytes := shake256 16 b
/-- The 32-byte SHAKE256 digest. -/
def digest32 (b : Bytes) : Bytes := shake256 32 b

/-- The state of the step machine, seen through a suspension (R218). -/
def effState (s : State) : StepState := if s.stp.state = .suspended then s.stp.prior else s.stp.state

/-- A state entered; during a suspension it is the state that resumption returns to. -/
def enterState (s : State) (x : StepState) : State :=
  if s.stp.state = .suspended then { s with stp := { s.stp with prior := x } }
  else { s with stp := { s.stp with state := x } }

/-- The state after an attempt, window or lock: stopped when a STOP is pending, else `x`. -/
def settleState (s : State) (x : StepState) : State :=
  if s.stp.stopPend then enterState { s with stp := { s.stp with stopPend := false } } .stopped else enterState s x

/-- R365: P1 mirrors the control-island state with every write of it; without P1 there is no mirror. -/
def mirrored (s : State) : State :=
  if (diesUp s.spr.entries).contains 13 then
    let x := s.stp
    { s with stp := { x with mirror := { bank := x.bank, c := x.c, a := x.a, epoch := x.epoch, layout := x.layout } } }
  else s

/-! The log book. -/

def planDigest (s : State) : Bytes := ((curPlan s).map fun p => p.digest).getD (zeroBytes 32)
def shapeId (s : State) : Bytes := ((curPlan s).map fun p => p.shapeId).getD (zeroBytes 16)
def holdCfg (s : State) : Option HoldCfg := (curPlan s).map fun p => p.hold
def slotBytes (s : State) : Nat := ((holdCfg s).map fun h => h.slotBytes).getD 0
def logBytes (s : State) : Nat := ((holdCfg s).map fun h => h.logBytes).getD 0
/-- R394: the sister of the answering ID. -/
def sisterId (s : State) : Nat :=
  ((holdCfg s).map fun h => (BitVec.ofNat 18 (myId s) ^^^ h.sisterXor).toNat).getD 0

/-- R312, R314: where the parts of the Bond window lie. -/
def slotAddr (s : State) (i : Nat) : Nat := bondBase + i * slotBytes s
def ownLogAddr (s : State) : Nat := bondBase + 4 * slotBytes s
def sisLogAddr (s : State) : Nat := ownLogAddr s + logBytes s

/-- R323: the bytes of a record. -/
def logRecBytes (type : Nat) (seq step attempt : W64) (prev body : Bytes) : Bytes :=
  let total := ceilDiv (64 + body.length + 16) 64 * 64
  let front := toLe 4 0x424C4B4B ++ toLe 2 type ++ toLe 2 1 ++ toLe 4 total ++ toLe 4 0 ++ le64 seq ++ le64 step ++
    le64 attempt ++ sub prev 0 16 ++ zeroBytes 8 ++ body ++ zeroBytes (total - 80 - body.length)
  front ++ digest16 front

def recTrailer (b : Bytes) : Bytes := sub b (b.length - 16) 16

/-- Parts of a byte string of at most 4,096 bytes that do not run past the end of a ring of `ring` bytes. -/
def ringParts (ring : Nat) : Nat → Nat → Bytes → List (Nat × Bytes)
  | 0, _, _ => []
  | n + 1, pos, b =>
    if b.isEmpty then []
    else
      let p := if ring = 0 then pos else pos % ring
      let k := if ring = 0 then 4096 else min 4096 (ring - p)
      (p, b.take k) :: ringParts ring n (pos + k) (b.drop k)

/-- PUTs of a byte string to an address of a device, without a token (R299); the answer says whether all could be routed. -/
def sendPutsOn (s : State) (rail dst : Nat) (why : SentFor) (cls : Nat) (parts : List (Nat × Bytes)) : State × Bool :=
  parts.foldl (fun acc p =>
    let r := sendTxn acc.1 rail (mkTxn acc.1 .put cls dst (txnFields [(16, toLe 6 p.1)]) p.2) why
    (r.1, acc.2 && (r.2.isSome || traceReplay r.1))) (s, true)

/-- PUTs of the harbourmaster. -/
def sendPuts (s : State) (dst : Nat) (why : SentFor) (cls : Nat) (parts : List (Nat × Bytes)) : State :=
  (sendPutsOn s (hmRail s) dst why cls parts).1

/-- R326: a record's copy goes to the sister's log area. -/
def sendLogCopy (s : State) (r : LogRec) : State :=
  if (holdCfg s).isNone then s
  else
    sendPuts s (sisterId s) (.sisterLog r.seq) 1
      ((ringParts (logBytes s) (r.bytes.length / 64 + 2) r.pos r.bytes).map fun p => (sisLogAddr s + p.1, p.2))

def getSlot (s : State) (i : Nat) : Slot := smGet Slot.init s.hold.slots i
def setSlot (s : State) (i : Nat) (x : Slot) : State :=
  { s with hold := { s.hold with slots := smSet Slot.init s.hold.slots i x } }
def hdrStep (h : Bytes) : W64 := fld64 h 8
def hdrAttempt (h : Bytes) : W64 := fld64 h 16
def hdrLogSeq (h : Bytes) : W64 := fld64 h 136

/-- R327: the coverage of a sealed own slot is lost when a record inside it is removed. -/
def loseCover (s : State) (seq : W64) (i : Nat) : State :=
  let x := getSlot s i
  if x.st = .sealed ∧ x.cover ∧ (hdrLogSeq x.header).toNat < seq.toNat then
    raise (setSlot s i { x with cover := false }) 0x7102 srcDevice []
  else s

/-- R334: a record of the own log that a replay still needs is lost. -/
def loseReplay (s : State) (seq : W64) : State :=
  match s.hold.replay with
  | some r =>
    if r.own && r.log.any fun x => x.seq == seq then
      { s with hold := { s.hold with replay := some { r with log := r.log.filter fun x => x.seq != seq, lost := true } } }
    else s
  | none => s

/-- The oldest records leave until the ring has room. -/
def logEvict : Nat → State → Nat → State
  | 0, s, _ => s
  | n + 1, s, need =>
    match s.hold.log with
    | [] => s
    | r :: rest =>
      if s.hold.logPos - r.pos + need ≤ logBytes s then s
      else
        let s1 := loseReplay { s with hold := { s.hold with log := rest } } r.seq
        logEvict n (loseCover (loseCover s1 r.seq 0) r.seq 1) need

/-- R342, R348: bytes programmed into the Bond. -/
def bondProgram (s : State) (n : Nat) : State := { s with hold := { s.hold with bondProg := s.hold.bondProg + n } }

/-- A record is appended to the own log and copied to the sister. PREV is the RDIGEST of the record before, whether or not that
record can still be read (R316, R323). -/
def logAppend (s : State) (type : Nat) (step : W64) (body : Bytes) : State :=
  let seq := s.hold.nextSeq
  let prev := if seq = 0 then zeroBytes 16 else s.hold.prevDigest
  let r : LogRec := { seq := seq, type := BitVec.ofNat 16 type, pos := s.hold.logPos,
                      bytes := logRecBytes type seq step s.stp.a prev body }
  let s1 := bondProgram (logEvict (s.hold.log.length + 1) s r.bytes.length) r.bytes.length
  sendLogCopy { s1 with hold := { s1.hold with log := s1.hold.log ++ [r], nextSeq := seq + 1, prevDigest := recTrailer r.bytes,
                                               logPos := r.pos + r.bytes.length } } r

/-! Records of an attempt. -/

def sumCores (s : State) (f : Core → W64) : Nat :=
  min ((s.cores.map fun p => (f p.2).toNat).foldl (· + ·) 0) 0xFFFFFFFFFFFFFFFF

/-- R249: the statistics record; an aborted attempt carries zero counts and NORMSQ +0 (R241). -/
def statsRecord (s : State) (a : Attempt) (verdict : Nat) (cause : BitVec 12) : Bytes :=
  let zero := verdict == verAborted
  let n : W64 × W64 := if zero then (0, 0) else a.norm.getD (0, 0)
  le64 a.step ++ le64 s.stp.a ++ toLe 1 verdict ++ [0] ++ toLe 2 cause.toNat ++ toLe 4 a.np ++ le64 n.1 ++ le64 n.2 ++
    ((List.range 8).map fun i => toLe 8 (if zero then 0 else sumCores s fun c => c.stat.getD i 0)).flatten ++
    toLe 8 (if zero then 0 else sumCores s fun c => c.flagged) ++
    toLe 4 (if zero then 0 else a.concealed.toNat) ++ toLe 4 (if zero then 0 else a.overBudget.toNat) ++ zeroBytes 8

/-- Insertion into a list in rising key order. -/
def insKey {α : Type} (key : α → Nat) (x : α) : List α → List α
  | [] => [x]
  | y :: ys => if key x < key y then x :: y :: ys else y :: insKey key x ys
def sortKey {α : Type} (key : α → Nat) (l : List α) : List α := l.foldl (fun acc x => insKey key x acc) []

def manKey (m : ManLog) : Nat := (m.pass * 16 + m.die) * 8 + m.stream
def sampKey (m : SampLog) : Nat := ((m.pass * 16 + m.die) * 8 + m.stream) * 2 ^ 20 + m.idx

/-- R325: the body of an ATTEMPT record. -/
def attemptBody (s : State) (a : Attempt) (stats : Bytes) (verdict : Nat) (replayed : Bool) (tally : Bytes) : Bytes :=
  let none_ := verdict == verAborted
  let mans := if none_ then [] else sortKey manKey a.manLog
  let samps := if none_ then [] else sortKey sampKey a.sampLog
  stats ++ planDigest s ++ s.sec.fwDigest ++ le32 s.stp.epoch ++ toLe 1 s.stp.layout ++ toLe 1 (b2n replayed) ++ [0, 0] ++
    (if verdict = verCommitted then sub tally 0 16 else zeroBytes 16) ++ sub a.balDigest 0 32 ++
    toLe 4 mans.length ++ toLe 4 samps.length ++
    (mans.map fun m => toLe 4 m.pass ++ toLe 1 m.die ++ toLe 1 m.stream ++ [0, 0] ++ toLe 4 m.count ++ toLe 4 0 ++
      sub m.digest 0 32).flatten ++
    (samps.map fun m => m.bytes).flatten

/-- R334: replay mode ends, with its record and event. -/
def endReplay (s : State) (reason : Nat) : State :=
  if s.hold.replay.isNone then s
  else
    raise (logAppend { s with hold := { s.hold with replay := none } } 0x0007 s.stp.c (toLe 1 reason)) 0x7007 srcDevice []

/-- R332–R334: replay meets a difference. -/
def diverge (s : State) : State := endReplay (raise s 0x7101 srcDevice (toLe 1 1)) 2

/-- The logged record that the running attempt must match, if replay mode is armed and reaches it (R332). -/
def replayMatch (s : State) (step : W64) : Option LogRec :=
  match s.hold.replay with
  | some r =>
    match r.log with
    | x :: _ => if x.type = 1 ∧ fld64 x.bytes 24 = step then some x else none
    | [] => none
  | none => none

/-- R333: whether a logged record differs from the attempt that matched it. -/
def replayDiffers (x : LogRec) (stats tally : Bytes) (verdict : Nat) : Bool :=
  sub x.bytes 64 128 != stats || sub x.bytes (64 + 200) 16 != (if verdict = verCommitted then sub tally 0 16 else zeroBytes 16)

/-- The matched record has been compared: the replay goes on behind it. -/
def replayPast (s : State) : State :=
  { s with hold := { s.hold with replay := s.hold.replay.map fun r => { r with log := r.log.drop 1 } } }

/-- R333, R334: after an attempt and its record: the end of replay mode where it ends. `differs` is what the comparison with the
matched record found, if one was matched; the flag says whether the device must enter stopped. -/
def replayAfter (s : State) (a : Attempt) (differs : Option Bool) : State × Bool :=
  match differs, s.hold.replay with
  | some true, _ => (diverge s, true)
  | some false, some r =>
    (if r.upto.toNat ≤ a.step.toNat then endReplay s 1 else if r.lost || r.log.isEmpty then endReplay s 3 else s, false)
  | _, some r => (if r.lost then endReplay s 3 else s, false)
  | _, none => (s, false)

/-- R269, R272: what an attempt had received, kept so that a second copy is known after its end. -/
def endedAtt (a : Attempt) : EndedAtt :=
  { upFrom := a.upFrom, down := a.jobLoss.isSome, tallyFrom := a.digests.map fun p => p.1, step := a.step }

/-- The end of the running attempt: A rises, the statistics record is written, a matched attempt is compared with its logged
record, then the log entry is written (R333), STP_LAST changes and the attempt is gone. The flag says whether replay found a
divergence. `stats` is taken with A before the end (R249). -/
def closeAttempt (s : State) (a : Attempt) (verdict : Nat) (cause : BitVec 12) (tally : Bytes) : State × Bool :=
  let stats := statsRecord s a verdict cause
  let differs := (replayMatch s a.step).map fun x => replayDiffers x stats tally verdict
  let s1 := mirrored { s with stp := { s.stp with
    a := s.stp.a + 1, att := none, last := BitVec.ofNat 32 (verdict * 2 ^ 24 + cause.toNat), ended := endedAtt a } }
  let s2 := match curPlan s with
    | some p => wrMem s1 p.policy.statsAddr stats
    | none => s1
  let s3 := if differs.isSome then replayPast s2 else s2
  replayAfter (logAppend s3 0x0001 a.step (attemptBody s a stats verdict differs.isSome tally)) a differs

/-! Snapshots: the freeze (R242, R317–R319). -/

/-- The header of R317 but for SLOT, IMAGE_DIGEST and HCHK. -/
def snapHeader (s : State) (logSeq : W64) : Bytes :=
  let sh := (curPlan s).map fun p => p.shape
  toLe 4 0x50534B4B ++ toLe 2 1 ++ [0, 0] ++ le64 s.stp.c ++ le64 s.stp.a ++ le32 s.stp.epoch ++ toLe 1 s.stp.layout ++
    [0, 0, 0] ++ toLe 4 (myId s) ++ le32 Config.stepping ++ toLe 8 ((sh.map fun x => x.stateBytes).getD 0) ++
    toLe 8 ((sh.map fun x => x.resBytes).getD 0) ++ sub (shapeId s) 0 16 ++ sub (planDigest s) 0 32 ++
    sub s.sec.fwDigest 0 32 ++ le64 logSeq ++ sub s.stp.tally 0 16

/-- The own slot of the next snapshot: the one that does not hold the newest sealed snapshot (R318). -/
def snapSlot (s : State) : Nat :=
  let a := getSlot s 0
  let b := getSlot s 1
  if a.st ≠ .sealed then 0
  else if b.st ≠ .sealed then 1
  else if (hdrStep a.header).toNat < (hdrStep b.header).toNat then 0
  else if (hdrStep b.header).toNat < (hdrStep a.header).toNat then 1
  else if (hdrAttempt a.header).toNat < (hdrAttempt b.header).toNat then 0 else 1

/-- Point 1 of R319: the chosen slot's header is erased, the slot is filling. -/
def startDrain (s : State) (d : Drain) : State :=
  let k := snapSlot s
  let s1 := setSlot s k { Slot.init with st := .filling }
  { s1 with hold := { s1.hold with drain := some { d with slot := k, header := patch d.header 6 [BitVec.ofNat 8 k] } } }

/-- R242: a snapshot of the bank that has just become committed; a second one queues behind the first. -/
def freeze (s : State) (logSeq : W64) : State :=
  let d : Drain := { bank := s.stp.bank, slot := 0, point := 2, next := 0, header := snapHeader s logSeq, sister := .pending }
  if s.hold.drain.isSome then { s with hold := { s.hold with snapQueue := s.hold.snapQueue ++ [d] } } else startDrain s d

/-- The Hold is drained: the next queued snapshot starts. -/
def nextDrain (s : State) : State :=
  match s.hold.snapQueue with
  | [] => { s with hold := { s.hold with drain := none } }
  | d :: rest => startDrain { s with hold := { s.hold with drain := none, snapQueue := rest } } d

/-! The flip and the end of a committed attempt (R223, R238). -/

/-- The members of a group other than this device, as IDs. -/
def groupPeers (s : State) (g : Option Group) : List Nat :=
  match g with
  | some g => ((List.range (groupSize g)).filter (· != memberIndex g (myId s))).map (memberId g (myId s))
  | none => []

/-- The flip: one write toggles the bank pointer and sets C + 1, mirrored to P1. -/
def flip (s : State) : State := mirrored { s with stp := { s.stp with bank := !s.stp.bank, c := s.stp.c + 1 } }

/-- Points 6 and 7 of R238 with the records, the snapshot of R242 and the end of the STEP entry. -/
def commitAttempt (s : State) (a : Attempt) (cause : BitVec 12) (tally : Bytes) : State :=
  let s1 := flip s
  let s1 := { s1 with stp := { s1.stp with tally := sub tally 0 16,
                                           commits := smSet 0 s1.stp.commits (myId s1) s1.stp.c } }
  let seq := s1.hold.nextSeq
  let (s2, diverged) := closeAttempt s1 a verCommitted cause tally
  let s3 := raise s2 0x4001 srcDevice (le64 s2.stp.c ++ le64 s2.stp.a)
  let s4 := (sendCctlAll s3 ckCommit 0 s3.stp.c a.tag 0 (groupPeers s3 (shardGroup s3))).1
  let every := ((curPlan s4).map fun p => p.policy.snapEvery).getD 0
  let s5 := if a.snap || (every != 0 && s4.stp.c.toNat % every == 0) then freeze s4 seq else s4
  let s6 := if diverged then enterState { s5 with stp := { s5.stp with stopPend := false } } .stopped
            else settleState s5 .idle
  endControl s6 a.job 0 0x4001

/-- An attempt that ends in stopped with VERDICT 0x03 (R238–R240). -/
def stopAttempt (s : State) (a : Attempt) (cause : BitVec 12) : State :=
  let (s1, _) := closeAttempt s a verStopped (cause ||| a.held) a.balDigest
  endControl (enterState { s1 with stp := { s1.stp with stopPend := false } } .stopped) a.job 0 0x4106

/-! Intake and sequencers discarded at an abort (R211, R241). -/

def planStreams (s : State) : List StreamCfg := ((curPlan s).map fun p => p.streams).getD []
def streamCfg (s : State) (die stream : Nat) : Option StreamCfg :=
  (planStreams s).find? fun x => x.die == die && x.stream == stream
def isEvalStream (s : State) (k : Nat) : Bool := ((streamCfg s (k / 8) (k % 8)).map fun x => x.eval).getD false

/-- A stream without its admitted samples: an evaluation stream keeps the entries not yet admitted; a stream of the attempt
keeps none, since its manifests belong to the attempt. -/
def dropSamples (eval : Bool) (x : Stream) : Stream :=
  if eval then
    { x with window := [], queue := (x.queue.map fun m => { m with released := m.next }).filter fun m =>
        decide (m.released < m.ents.length) }
  else { x with subs := [], queue := [], window := [] }

/-- R211: every admitted, unreleased sample is discarded, and every waiting manifest of the attempt. -/
def discardIntake (s : State) : State :=
  let streams := (s.streams.map fun p => (p.1, dropSamples (isEvalStream s p.1) p.2)).filter fun p =>
    decide (p.2 ≠ Stream.init)
  let slips := (s.slips.map fun p => (p.1, { p.2 with busy := [] })).filter fun p => decide (p.2 ≠ Slipway.init)
  { s with streams := streams, slips := slips }

/-- The berth sequencers issue nothing further and discard their queues. -/
def discardQueues (s : State) : State :=
  { s with cores := smMapVal Core.init s.cores fun c =>
      { c with tileQ := [], vecQ := [], movQ := [], colQ := [], mark := none, markBad := false, runActive := false, fwdEnded := false } }

/-! Aborts. -/

/-- R270: the first time an attempt tag is told, ABORT goes to every neighbour in the job tree but the one it came from. -/
def floodAbort (s : State) (cause : Nat) (step : W64) (tag : W32) (from_ : Option Nat) : State :=
  if s.stp.abortsSeen.contains tag then s
  else
    let s1 := { s with stp := { s.stp with abortsSeen := s.stp.abortsSeen ++ [tag] } }
    let nbrs := (jobKids s ++ (jobParent s).toList).filter fun m => some m != from_
    (sendCctlAll s1 ckAbort cause step tag 0 (nbrs.map (jobMemberId s1))).1

/-- The attempt enters aborting (R241). -/
def enterAbort (s : State) (a : Attempt) (cause : BitVec 12) : State :=
  let s1 := { s with stp := { s.stp with att := some { a with cause := a.cause ||| cause } } }
  enterState (discardIntake (discardQueues (floodAbort s1 cause.toNat a.step a.tag none))) .aborting

/-! The re-shard lock ends (R275). -/

def reshardBody (s : State) (toEpoch : W32) (toLayout outcome : Nat) : Bytes :=
  le32 s.stp.epoch ++ le32 toEpoch ++ toLe 1 s.stp.layout ++ toLe 1 toLayout ++ toLe 1 outcome

/-- ABANDON: stopped, epoch unchanged. -/
def endAbandon (s : State) (l : Lock) : State :=
  let s1 := logAppend { s with lock := none } 0x0003 s.stp.c (reshardBody s (s.stp.epoch + 1) l.target 2)
  let s2 := raise s1 0x5103 srcDevice []
  endControl (enterState { s2 with stp := { s2.stp with stopPend := false } } .stopped) l.job 0 0x5103

/-- Member 0 sends ABANDON down and takes it itself. -/
def decideAbandon (s : State) (l : Lock) : State :=
  let s1 := (sendCctlAll s ckAbandon 0 s.stp.c 0 0 ((jobKids s).map (jobMemberId s))).1
  endAbandon s1 l

/-- An abort cause met during the lock: before point 5 ABANDON_REQ goes to member 0, which abandons. -/
def lockCause (s : State) : State :=
  match s.lock with
  | none => s
  | some l =>
    if 5 ≤ l.point then s
    else if jobIndex s = 0 then (if l.decided then s else decideAbandon s l)
    else if l.abandonAsked then s
    else (sendCctl { s with lock := some { l with abandonAsked := true } } ckAbandonReq 0 s.stp.c 0 0 (jobMemberId s 0)).1

/-- An abort cause of R241 arises. Before point 4 of R238 the attempt aborts; from point 4 on the cause is held; during a
suspension it takes effect at resumption (R293). -/
def startAbort (s : State) (cause : BitVec 12) : State :=
  match s.stp.att with
  | none => lockCause s
  | some a =>
    if s.stp.state = .aborting then { s with stp := { s.stp with att := some { a with cause := a.cause ||| cause } } }
    else if 4 ≤ a.point then { s with stp := { s.stp with att := some { a with held := a.held ||| cause } } }
    else if s.stp.state = .suspended then
      { s with stp := { s.stp with att := some { a with cause := a.cause ||| cause, lostWhileSuspended := true } } }
    else enterAbort s a cause

/-- R276: whether a message of an epoch is taken in the current state. -/
def epochOk (s : State) (e : W32) : Bool :=
  match s.lock with
  | none => e == s.stp.epoch
  | some l => if e = s.stp.epoch then decide (l.point < 3) else e == s.stp.epoch + 1 && decide (2 ≤ l.point)

/-- R276: a message of a wrong epoch is discarded; outside the lock a running attempt aborts, inside it the device asks for
the abandonment. -/
def epochFault (s : State) : State :=
  startAbort (raise s 0x5101 srcDevice []) cFault

/-- R264, R269, R272: a message that breaks the order of its exchange. -/
def sequenceFault (s : State) : State :=
  startAbort (raise s 0x5102 srcDevice []) cFault

/-- R227, R265, R277: whether a gather from a device may take effect: once this device has flipped to C or advanced to the
current epoch itself, a remote shard-group member must have said so too. -/
def gatherOk (s : State) (m : Nat) : Bool :=
  let me := myId s
  let inGroup := match shardGroup s with
    | some g => sameGroup g me m
    | none => false
  m == me || !inGroup ||
    ((smGet 0 s.stp.commits me != s.stp.c || decide (s.stp.c.toNat ≤ (smGet 0 s.stp.commits m).toNat)) &&
      (smGet 0 s.stp.advances me != s.stp.epoch || decide (s.stp.epoch.toNat ≤ (smGet 0 s.stp.advances m).toNat)))

/-- A transaction leaves the list of those that have landed. -/
def takeLanded (s : State) (t : Txn) : State :=
  { s with fab := { s.fab with landed := s.fab.landed.erase t } }

/-- A control message that could not be routed aborts the attempt (R294). -/
def sendJob (s : State) (kind cause : Nat) (step : W64) (tag : W32) (data : Nat) (dsts : List Nat) : State :=
  let r := sendCctlAll s kind cause step tag data dsts
  if r.2 then r.1 else startAbort r.1 cFault

/-! Responses of the DOE mailboxes (R435). -/

/-- A response: its first word holds VERSION, STATUS and the code of the event that rejected the object. An object that does
not end as done raises doe-rejected. -/
def answerDoe (s : State) (fn type status code : Nat) (body : Bytes) : State :=
  let s1 := { s with bus := { s.bus with doe := s.bus.doe ++ [(fn, toLe 1 1 ++ toLe 1 status ++ toLe 2 code ++ body)] } }
  if status = 0 then s1 else raise s1 0xC00B (srcHost fn) (toLe 1 fn ++ toLe 1 type ++ toLe 1 status)

/-- A PLAN_LOAD that waits for the end of R398 is answered. -/
def answerLoads (s : State) (status code : Nat) : State :=
  [0, 1].foldl (fun s l =>
    if (getFn s l).doe.isSome then answerDoe (setFn s l { getFn s l with doe := none }) l 4 status code [] else s) s

/-- R398: a data-loss while a plan is applied leaves no plan. -/
def failApply (s : State) : State :=
  if s.pln.loading.isNone then s
  else
    (fun s => answerLoads s 3 0xB101) <| raise { s with pln := { s.pln with state := .none, plan := none, loading := none, reason := 0x0A, section_ := 0 } }
      0xB101 srcDevice [0x0A, 0]

/-- Data-loss (R175): the unit raises the event, and the attempt aborts with cause DATALOSS. -/
def dataLoss (s : State) (unit : W32) (addr : Nat) : State :=
  failApply (startAbort (raise s 0x2103 unit.toNat (memPay unit.toNat addr)) cDataloss)

/-! Program images (R396, R398). -/

/-- The images of the current layout in core SRAM. -/
def loadImages (s : State) : State :=
  (((curLayout s).map fun l => l.images).getD []).foldl (fun s i =>
    wrMem s (coreBase (coreOfIdx i.core) + i.loadOff) i.bytes) s

/-- A descriptor's write that R222 forbids: the event, and the attempt aborts with cause STATEWR. -/
def stateWriteRejected (s : State) (src : Nat) : State :=
  startAbort (raise s 0x4107 src []) cStatewr

end Sys2Proof.Machine
end

