-- ==== Sys2Proof/Machine/Operands.lean ====
section
/-! DEFINITION. What every descriptor shares: the fields of its bytes, the fixed order of its validation (spec R483), and
the elements of a tensor in memory. -/
namespace Sys2Proof.Machine
open Sys2Proof

/-! Validation (R483). -/

/-- The outcome of validation: valid, the kind's invalid event, unmapped-address at an address, or state-write-rejected. -/
inductive Check where
  | ok
  | invalid
  | unmapped (a : Nat)
  | stateWrite (a : Nat)
  deriving DecidableEq, Repr

/-- Where the mapped region around an address ends; the address itself where it is not mapped. -/
def regionLimit (s : State) (a : Nat) : Nat :=
  if a < hbmEnd s then hbmEnd s
  else if inSram s a 1 then
    let die := (a - sramBase) / 2 ^ 32
    let cl := (a - sramBase) % 2 ^ 32 / 2 ^ 29
    if (a - sramBase) % 2 ^ 29 < clusterBytes then clusterBase die cl + clusterBytes
    else clusterBase die cl + 2 ^ 28 + clusterCores s die cl * coreBytes
  else if inside a 1 bondBase (2 ^ 41) then bondBase + 2 ^ 41
  else if inside a 1 ballastBase (2 ^ 43) then ballastBase + 2 ^ 43
  else a

/-- R483: form, mapping of every range, placement, and the bank rule for every write, in that order. -/
def check (s : State) (form : Bool) (ranges : List (Nat × Nat)) (place : Bool) (writes : List (Nat × Nat)) : Check :=
  if !form then .invalid
  else
    match ranges.find? fun r => !mapped s r.1 r.2 with
    | some r => .unmapped (regionLimit s r.1 / 16 * 16)
    | none =>
      if !place then .invalid
      else
        match writes.find? fun r => !bankWriteOk s r.1 r.2 with
        | some r => .stateWrite r.1
        | none => .ok

/-- The event of a failed check: one event, for the first step failed; R222's also aborts the attempt. Its payload is the
logical core (R127) or unit (R185); the chapter of 0x5001 names none. -/
def failCheck (s : State) (c : CoreId) (code : Nat) (k : Check) : State :=
  match k with
  | .ok => s
  | .invalid => raise s code (srcCore c) (if code = 0x5001 then [] else toLe 4 (srcCore c))
  | .unmapped a => raise s 0x2001 (srcCore c) (memPay (srcCore c) a)
  | .stateWrite _ => stateWriteRejected s (srcCore c)

/-- A counter field: 0–31, or 0xFF for none. -/
def ctrOk (v : Nat) : Bool := decide (v ≤ 31) || v == 0xFF

/-- An address field of 8 bytes: bits [63:48] are 0. -/
def addrOk (d : Bytes) (off : Nat) : Bool := zeros d (off + 6) 2

/-- The rows of a tensor: row r of `len` bytes at base + r × stride. -/
def rowRanges (base stride rows len : Nat) : List (Nat × Nat) := (List.range rows).map fun r => (base + r * stride, len)

/-- The bounding range of rows. -/
def rowsBound (base stride rows len : Nat) : Nat × Nat := (base, if rows = 0 then 0 else (rows - 1) * stride + len)

/-- The smallest range around a list of ranges. -/
def boundOf : List (Nat × Nat) → Nat × Nat
  | [] => (0, 0)
  | [r] => r
  | (a, n) :: rest =>
    let (b, m) := boundOf rest
    (Nat.min a b, Nat.max (a + n) (b + m) - Nat.min a b)

def overlapR (a b : Nat × Nat) : Bool := overlap a.1 a.2 b.1 b.2

/-- Whether two lists of ranges share a byte. -/
def anyOverlap (a b : List (Nat × Nat)) : Bool := a.any fun x => b.any fun y => overlapR x y

/-- Element bits of a given size at an address. -/
def rdElem (s : State) (a n : Nat) : Nat := leNat (rdMem s a n)

/-- Consecutive elements of a byte string. -/
def elems (n : Nat) (b : Bytes) (count : Nat) : List Nat := (List.range count).map fun i => fld b (i * n) n

end Sys2Proof.Machine
end

