-- ==== Sys2Proof/Machine/Sequencer.lean ====
section
/-! DEFINITION. The berth sequencer (spec R163, R169–R171, R484): issue in program order, marks, and signals. -/
namespace Sys2Proof.Machine
open Sys2Proof

/-- R218: the device is suspended, and no unit starts work. -/
def suspended (s : State) : Bool := decide (s.stp.state = .suspended)

/-- Descriptor sizes and the byte of WAIT_CTR, by OPC: tile, vector and collective have 128 bytes, mover and mark 64. -/
def descBytes (opc : Nat) : Nat := if opc = 3 ∨ opc = 5 then 64 else 128
def waitByte (opc : Nat) : Nat := if opc = 3 ∨ opc = 5 then 56 else 108

/-- R84: a reserved OPC is taken as a tile descriptor, which R85 then fails. -/
def descKind (opc : Nat) : Nat := if opc = 2 ∨ opc = 3 ∨ opc = 4 ∨ opc = 5 then opc else 1

/-- R138: the WAIT fields as they stand at issue. -/
def entryAt (s : State) (x : Core) (opc : Nat) : QEntry :=
  let w := sub (rdMem s (x.pc + waitByte opc) 4) 0 4
  { addr := x.pc, wctr := byteAt w 0, wcnt := fld w 2 2, ord := x.nextOrd }

/-- The free places of the queue of a kind: descriptors in flight keep theirs until they complete (R163). -/
def queueRoom (x : Core) (kind : Nat) : Bool :=
  match kind with
  | 2 => decide (x.vecQ.length + x.vec.toList.length ≤ Config.vectorDepthM1)
  | 3 => decide (x.movQ.length + x.movs.length < 16)
  | 4 => decide (x.colQ.length + x.cols.length < 8)
  | _ => decide (x.tileQ.length + x.tiles.length ≤ Config.tileDepthM1)

def pushEntry (x : Core) (kind : Nat) (e : QEntry) : Core :=
  match kind with
  | 2 => { x with vecQ := x.vecQ ++ [e] }
  | 3 => { x with movQ := x.movQ ++ [e] }
  | 4 => { x with colQ := x.colQ ++ [e] }
  | _ => { x with tileQ := x.tileQ ++ [e] }

/-- Whether the sequencer of a core may issue: its program runs, nothing stopped it, and no mark is waiting. -/
def canIssue (s : State) (x : Core) : Bool := x.runActive && !x.stopped && x.mark.isNone && !suspended s

/-- The bytes of an issued descriptor of 128 bytes: a tile, a vector operation or a collective. -/
def desc128 (s : State) (e : QEntry) : Bytes := descAt s e 128 108
/-- The bytes of an issued descriptor of 64 bytes: a mover or a mark. -/
def desc64 (s : State) (e : QEntry) : Bytes := descAt s e 64 56

/-- R484: a mark's form: a defined MARK, reserved bytes 0, counters in range. -/
def markOk (d : Bytes) : Bool :=
  byteAt d 0 == 5 && (byteAt d 1 == 1 || byteAt d 1 == 2) && zeros d 2 54 && zeros d 60 4 &&
    ctrOk (byteAt d 56) && ctrOk (byteAt d 57)

/-- The sequencer reaches the mark that stands next in its program: it reads the WAIT fields and goes past it. -/
def reachMark (s : State) (c : CoreId) : State :=
  let x := getCore s c
  if canIssue s x && rdElem s x.pc 1 == 5 then
    setCore s c { x with mark := some (entryAt s x 5), pc := x.pc + 64, nextOrd := x.nextOrd + 1 }
  else s

/-- DESCRIPTOR_ISSUE (R163): the next tile, vector, mover or collective descriptor enters its queue once there is room. -/
def issueNext (s : State) (c : CoreId) : State :=
  let x := getCore s c
  if !canIssue s x then s
  else
    let opc := rdElem s x.pc 1
    if opc = 5 then reachMark s c
    else
      let kind := descKind opc
      if !queueRoom x kind then s
      else
        let x1 := pushEntry x kind (entryAt s x kind)
        let s1 := setCore s c { x1 with pc := x.pc + descBytes kind, nextOrd := x.nextOrd + 1 }
        let s2 := if kind = 1 ∨ kind = 2 then askStart s1 c else s1
        reachMark s2 c

/-! Marks (R484). -/

/-- Cores that have a program image in the current layout: the active cores. -/
def activeCores (s : State) : List Nat := ((curLayout s).map fun l => l.images.map fun i => i.core).getD []

/-- The current pass is the lowest run that some active core has not ended; PHASE follows R484. -/
def passView (s : State) : State :=
  let act := activeCores s
  let np := (s.stp.att.map fun a => a.np).getD 0
  let p := Nat.min (act.foldl (fun acc k => Nat.min acc (coreAt s k).run) np) (np - 1)
  let ph := act.all fun k => let x := coreAt s k; decide (p < x.run) || (x.run == p && x.fwdEnded)
  { s with stp := { s.stp with pass := p, phase := ph && !act.isEmpty } }

/-- R233: the loss word of a core, tested when its forward phase ends. -/
def testLoss (s : State) (c : CoreId) : State :=
  match curPlan s with
  | none => s
  | some p =>
    let i := (findIdx? (fun k => coreIdx k == coreIdx c) (allCores s)).getD 768
    let off := (p.policy.loss.getD i 0xFFFFFFFF#32).toNat
    if off = 0xFFFFFFFF then s
    else
      let w := rdElem s (coreBase c + off) 4
      if w / 2 ^ 23 % 256 = 255 then updCore s c fun x => { x with lossBad := true } else s

/-- Whether the waiting mark of a core may take effect: its tokens are there, and every earlier tile, vector and mover
descriptor of the run has completed. -/
def markReady (s : State) (x : Core) (e : QEntry) : Bool :=
  x.runActive && !x.stopped && !x.markBad && !suspended s && x.tileQ.isEmpty && x.tiles.isEmpty && x.vecQ.isEmpty && x.vec.isNone &&
    x.movQ.isEmpty && x.movs.isEmpty && ready s x e

/-- The mark of a kind takes effect; one that breaks its table raises tile-invalid once and takes none, and the sequencer
stays at it: the run does not end. The collectives of the run wait for no mark and go on. -/
def markEffect (s : State) (c : CoreId) (kind : Nat) : State :=
  let s := reachMark s c
  let x := getCore s c
  match x.mark with
  | none => s
  | some e =>
    if !markReady s x e then s
    else
      let d := desc64 s e
      if !markOk d then
        if byteAt d 0 = 5 ∧ (byteAt d 1 = 1 ∨ byteAt d 1 = 2) ∧ byteAt d 1 ≠ kind then s
        else
          let s1 := setCore s c { x with markBad := true }
          raise s1 0x1001 (srcCore c) (toLe 4 (srcCore c))
      else if byteAt d 1 ≠ kind then s
      else
        let x1 := { consume x e with mark := none }
        if kind = 1 then
          let s1 := testLoss (setCore s c { x1 with fwdEnded := true }) c
          passView (reachMark (signalField s1 c (byteAt d 57)) c)
        else
          let s1 := setCore s c { x1 with runActive := false, run := x1.run + 1, fwdEnded := false }
          let s2 := if x1.fwdEnded then s1 else testLoss s1 c
          passView (signalField s2 c (byteAt d 57))

/-- DESCRIPTOR_ISSUE (R163). -/
def execDescriptorIssue (c : CoreId) (s : State) : Host.Outcome State Fault Refusal := .next (issueNext s c)

/-- TOKEN_SIGNAL (R171): one token is added; a full counter stays and raises counter-overflow. -/
def execTokenSignal (c : CoreId) (ctr : Fin 32) (s : State) : Host.Outcome State Fault Refusal :=
  .next (signalCtr s c ctr.val)

/-- FWD_END (R484). -/
def execFwdEnd (c : CoreId) (s : State) : Host.Outcome State Fault Refusal := .next (markEffect s c 1)

/-- PASS_END (R484). -/
def execPassEnd (c : CoreId) (s : State) : Host.Outcome State Fault Refusal := .next (markEffect s c 2)

end Sys2Proof.Machine
end

