-- ==== Sys2Proof/Machine/Transc.lean ====
section
/-! DEFINITION. The functions of spec R144 as numbers: each by integer series, with at least 500 correct bits beyond the
bounds of that rule, and the bound itself, which the free results of Config.transcendental must keep (log 22). -/
namespace Sys2Proof.Machine
open Sys2Proof

/-! Fixed point: an integer i stands for i ÷ 2^p. -/

/-- A magnitude m × 2^e in fixed point, cut at its last place. -/
def fixOf (p m : Nat) (e : Int) : Nat := if 0 ≤ e + p then m <<< (e + p).toNat else m >>> (-(e + p)).toNat

def fixMul (p : Nat) (a b : Int) : Int := a * b / 2 ^ p

/-- Σ over k of (−1)^k (or +1) ÷ (n^(2k+1) (2k+1)): the inverse tangent of 1/n, or its hyperbolic one. -/
def atanInvGo (alt : Bool) (n : Nat) : Nat → Nat → Int → Int → Int
  | 0, _, _, acc => acc
  | fuel + 1, k, pw, acc =>
    let t := pw / (2 * k + 1 : Nat)
    atanInvGo alt n fuel (k + 1) (pw / (n * n : Nat)) (acc + (if alt && k % 2 == 1 then -t else t))
def atanInv (alt : Bool) (p n : Nat) : Int := atanInvGo alt n p 0 (2 ^ p / (n : Int)) 0

/-- ln 2 = 2 artanh(1/3), and π by Machin's sum. -/
def fixLn2 (p : Nat) : Int := 2 * atanInv false p 3
def fixPi (p : Nat) : Int := 16 * atanInv true p 5 - 4 * atanInv true p 239

/-- A power series from its current term: each term is the last times x ÷ d(k). -/
def seriesGo (p : Nat) (x : Int) (d : Nat → Nat) : Nat → Nat → Int → Int → Int
  | 0, _, _, acc => acc
  | fuel + 1, k, t, acc =>
    let t' := fixMul p t x / (d k : Int)
    seriesGo p x d fuel (k + 1) t' (acc + t')

/-- e^x for x in fixed point, as (t, n): the value is t × 2^(n − p), with t near 2^p. -/
def fixExp (p : Nat) (x : Int) : Int × Int :=
  let l := fixLn2 p
  let n := (2 * x + l) / (2 * l)
  (seriesGo p (x - n * l) (fun k => k + 1) p 0 (2 ^ p) (2 ^ p), n)

/-- ln of m × 2^e, m positive. -/
def fixLog (p m : Nat) (e : Int) : Int :=
  let k := (bitLen m : Int) - 1
  let z : Int := fixOf p m (-k)
  let q := (z - 2 ^ p) * 2 ^ p / (z + 2 ^ p)
  let q2 := fixMul p q q
  let rec go : Nat → Nat → Int → Int → Int
    | 0, _, _, acc => acc
    | fuel + 1, j, t, acc => go fuel (j + 1) (fixMul p t q2) (acc + t / (2 * j + 1 : Nat))
  (k + e) * fixLn2 p + 2 * go p 0 q 0

/-- sin and cos of x in fixed point, by the nearest multiple of π ÷ 2. -/
def fixSinCos (p : Nat) (x : Int) : Int × Int :=
  let h := fixPi p / 2
  let n := (2 * x + h) / (2 * h)
  let r := x - n * h
  let r2 := -(fixMul p r r)
  let s := seriesGo p r2 (fun k => (2 * k + 2) * (2 * k + 3)) p 0 r r
  let c := seriesGo p r2 (fun k => (2 * k + 1) * (2 * k + 2)) p 0 (2 ^ p) (2 ^ p)
  match (n % 4).toNat with
  | 0 => (s, c)
  | 1 => (c, -s)
  | 2 => (-s, -c)
  | _ => (-c, s)

/-- 2 ÷ √π in fixed point. -/
def fixErfScale (p : Nat) : Int := 2 * 2 ^ (2 * p) / (isqrt (fixPi p * 2 ^ p).toNat : Int)

/-- erf of z ≥ 0 in fixed point, by its power series. -/
def fixErf (p : Nat) (z : Int) : Int :=
  let w := -(fixMul p z z)
  let rec go : Nat → Nat → Int → Int → Int
    | 0, _, _, acc => acc
    | fuel + 1, k, t, acc => go fuel (k + 1) (fixMul p t w / (k + 1 : Nat)) (acc + t / (2 * k + 1 : Nat))
  fixMul p (fixErfScale p) (go (2 * p) 0 z 0)

/-- A fixed-point value as a number. -/
def numFix (p : Nat) (i : Int) : Num := .fin (decide (i < 0)) i.natAbs (-(p : Int))

def withSign (neg : Bool) (v : Num) : Num := if neg then numFlip v else v

/-- e^x as a number; far outside every format beyond ±2048. -/
def expNum (neg : Bool) (m : Nat) (e : Int) : Num :=
  if numLt (.fin false 1 11) (.fin false m e) then numPow2 (if neg then -4096 else 4096)
  else
    let x : Int := fixOf 640 m e
    let (t, n) := fixExp 640 (if neg then -x else x)
    .fin false t.toNat (n - 640)

/-- f(x) of R144 for a finite x in the domain. Where |x| is so small or so large that the first term of its series or its
limit is f(x) to 2^−200 of it, that is the value. -/
def trExact (vop : Nat) (neg : Bool) (m : Nat) (e : Int) : Num :=
  let x : Num := .fin neg m e
  let small := belowPow2 m e (-100)
  let big (k : Int) : Bool := !belowPow2 m e k
  match vop with
  | 0x10 => expNum neg m e
  | 0x11 => numFix 640 (fixLog 640 m e)
  | 0x12 =>
    if small then x else if big 9 then .fin neg 1 0
    else
      let u : Int := match expNum true m (e + 1) with
        | .fin _ t k => fixOf 640 t k
        | _ => 0
      withSign neg (numDiv (numFix 640 (2 ^ 640 - u)) (numFix 640 (2 ^ 640 + u))).1
  | 0x13 => let u := expNum true m e
    (numDiv (if neg then u else numOne) (numAdd numOne u).1).1
  | 0x14 => (numSqrt (numDiv numOne x).1).1
  | 0x15 => (numDiv numOne x).1
  | 0x16 => withSign neg (numFix 640 (fixSinCos 640 (fixOf 640 m e)).1)
  | 0x17 => numFix 640 (fixSinCos 640 (fixOf 640 m e)).2
  | 0x18 =>
    if small then (numMul x (numFix 640 (fixErfScale 640))).1 else if big 4 then .fin neg 1 0
    else withSign neg (numFix 1280 (fixErf 1280 (fixOf 1280 m e)))
  | _ =>
    if big 6 then (if neg then .fin true 1 (-4096) else x)
    else
      let a := fixOf 5120 m e
      let g := fixErf 5120 (isqrt (a * a / 2))
      (numMul x (numFix 5121 (if neg then 2 ^ 5120 - g else 2 ^ 5120 + g))).1

/-- R144: the exponents of εr and εa for FP32 and FP64 internal results; none where εa is 0. -/
def trBound (vop : Nat) (fp64 : Bool) : Int × Option Int :=
  let wide (a b : Int) : Int := if fp64 then b else a
  match vop with
  | 0x11 => (wide (-22) (-50), some (wide (-24) (-52)))
  | 0x14 => (wide (-23) (-51), none)
  | 0x15 => (wide (-23) (-51), none)
  | 0x16 => (wide (-22) (-50), some (wide (-24) (-52)))
  | 0x17 => (wide (-22) (-50), some (wide (-24) (-52)))
  | 0x19 => (wide (-21) (-49), some (wide (-149) (-1074)))
  | _ => (wide (-22) (-50), some (wide (-149) (-1074)))

/-- Whether |r − y| ≤ εr |y| + εa. -/
def withinBound (eps : Int × Option Int) (r y : Num) : Bool :=
  let rel := (numMul (numPow2 eps.1) (numAbs y)).1
  let lim := match eps.2 with
    | some k => (numAdd rel (numPow2 k)).1
    | none => rel
  isFin r && !numLt lim (numAbs (numSub r y).1)

end Sys2Proof.Machine
end

