-- ==== Sys2Proof/Machine/VecOps.lean ====
section
/-! DEFINITION. The vector descriptor (spec R133–R137) and the elementwise, transcendental, reduction, convert and digest
computations (R55–R72, R129–R132, R143–R145). -/
namespace Sys2Proof.Machine
open Sys2Proof

/-! Fields (R133, R135). -/

def vOp (d : Bytes) : Nat := byteAt d 1
def vConc (d : Bytes) : Bool := bitOf (byteAt d 2) 0 == 1
def vConcZero (d : Bytes) : Bool := bitOf (byteAt d 2) 1 == 1
def vCount (d : Bytes) : Nat := fld d 4 4
def vTagX (d : Bytes) : Option Tag := parseTag (sub d 8 8)
def vTagY (d : Bytes) : Option Tag := parseTag (sub d 16 8)
def vX (d : Bytes) : Nat := fld d 32 6
def vY (d : Bytes) : Nat := fld d 40 6
def vOut (d : Bytes) : Nat := fld d 48 6
def vExc (d : Bytes) : Nat := fld d 56 6
def vAux (d : Bytes) : Nat := fld d 64 6
def vRes (d : Bytes) : Nat := fld d 72 6
def vOtag (d : Bytes) : Nat := fld d 80 6
def vCtrl (d : Bytes) : Nat := fld d 88 4
def vSig (d : Bytes) : Nat := byteAt d 109

/-- Groups of R134. -/
inductive VGroup where
  | elementwise
  | transcendental
  | reduction
  | merge
  | convert
  | digest
  | window
  | argmax
  | boxdec
  | suppress
  deriving DecidableEq, Repr

def vGroup (vop : Nat) : Option VGroup :=
  if 1 ≤ vop ∧ vop ≤ 0x0C then some .elementwise
  else if 0x10 ≤ vop ∧ vop ≤ 0x19 then some .transcendental
  else if 0x20 ≤ vop ∧ vop ≤ 0x24 then some .reduction
  else if vop = 0x25 then some .merge
  else if vop = 0x30 then some .convert
  else if vop = 0x31 then some .digest
  else if 0x40 ≤ vop ∧ vop ≤ 0x44 then some .window
  else if vop = 0x50 then some .argmax
  else if vop = 0x51 then some .boxdec
  else if vop = 0x52 then some .suppress
  else none

/-- R65: the fields of a convert control word. -/
def cvResidue (d : Bytes) : Bool := vCtrl d % 2 == 1
def cvAmax (d : Bytes) : Bool := vCtrl d / 256 % 4 == 1
def cvMargin (d : Bytes) : Nat := vCtrl d / 4096 % 16

/-- TAG_OUT; a convert whose scale comes from an amax ignores the SCALE field (R68). -/
def vTagO (d : Bytes) : Option Tag :=
  parseTag (if vOp d = 0x30 ∧ cvAmax d then sub d 24 4 ++ toLe 4 0x3F800000 else sub d 24 8)

def vRows (d : Bytes) : Nat := fld d 92 4
def vLdx (d : Bytes) : Nat := fld d 96 4
def vLdy (d : Bytes) : Nat := fld d 100 4
/-- LDO stands at byte 100 in the reduction group and at byte 104 in the elementwise ones. -/
def vLdo (d : Bytes) : Nat := if vGroup (vOp d) = some .reduction then fld d 100 4 else fld d 104 4
def vConcAddr (d : Bytes) : Nat := fld d 112 6
def vSample (d : Bytes) : Nat := fld d 120 4
def vDeepOut (d : Bytes) : Bool := decide (vOp d = 0x20 ∨ vOp d = 0x21) && vCtrl d % 2 == 1

/-- A missing tag stands as FP64 with scale 1. -/
def vTag (t : Option Tag) : Tag := t.getD { fmt := .fp64, ovf := false, scale := 0x3F800000 }

/-- Which tags the operation reads (R134, R137). -/
def readsX (d : Bytes) : Bool := !([0x25, 0x31, 0x52].contains (vOp d))
def readsY (d : Bytes) : Bool := [1, 2, 3, 4, 6, 7, 8, 9, 0x40, 0x41, 0x52].contains (vOp d)
def readsO (d : Bytes) : Bool := !([9, 0x25, 0x31, 0x50, 0x52].contains (vOp d)) && !vDeepOut d

def tagsOk (d : Bytes) : Bool :=
  (if readsX d then (vTagX d).isSome else zeros d 8 8) && (if readsY d then (vTagY d).isSome else zeros d 16 8) &&
    (if readsO d then (vTagO d).isSome else zeros d 24 8)

def vEx (d : Bytes) : Nat := tagSize (vTag (vTagX d))
def vEy (d : Bytes) : Nat := tagSize (vTag (vTagY d))
/-- The output element: one byte for CMP, 16 for deep entries. -/
def vEo (d : Bytes) : Nat := if vOp d = 9 then 1 else if vDeepOut d then 16 else tagSize (vTag (vTagO d))

/-- R129, R56: Class C: every tag the operation reads is the same long format; a convert between long formats. -/
def vClassC (d : Bytes) : Bool :=
  let fs := (if readsX d then [(vTag (vTagX d)).fmt] else []) ++ (if readsY d then [(vTag (vTagY d)).fmt] else []) ++
    (if readsO d then [(vTag (vTagO d)).fmt] else [])
  match vGroup (vOp d) with
  | some .elementwise => fs.all (· == .fp32) || fs.all (· == .fp64)
  | some .convert => fs.all fun f => !fmtShort f
  | _ => false

/-! Operands of a validated operation: read ranges, written ranges, and the control words among them. -/

/-- A named operand: its byte ranges, whether it must lie in the core's own SRAM, and the alignment of its base. A strided
tensor's byte ranges are the bytes of its rows; the stride gaps between them are none of its bytes (log 69). -/
structure VRange where
  addr : Nat
  rows : List (Nat × Nat)
  ctl : Bool
  al : Nat
  deriving DecidableEq, Repr

/-- One operand of consecutive bytes. -/
def vBlock (a n : Nat) (ctl : Bool) (al : Nat) : VRange := { addr := a, rows := [(a, n)], ctl := ctl, al := al }

/-- The bytes of concealed bits that n elements need (R143). -/
def concBytes (n sample : Nat) : Nat := if n = 0 ∨ sample = 0 then 0 else (n - 1) / sample / 8 + 1

/-- Whether a stride spans rows of `count` elements of size `e` (R137). -/
def strideOk (ld count e : Nat) : Bool := decide (count * e ≤ ld) && ld % e == 0

/-- A tensor of rows. Its byte ranges are the bytes of its rows: the spec leaves open whether the range of a strided tensor
(R70, R137) is that or its bounding span (DESIGN CHOICE, log 69). -/
def spanOf (base ld rows count e : Nat) : VRange :=
  { addr := base, rows := rowRanges base ld rows (count * e), ctl := false, al := 1 }

/-- The record, RES word and tag slot that every vector operation writes. -/
def recordWrites (d : Bytes) : List VRange :=
  [vBlock (vExc d) 128 true 64] ++ (if vRes d = 0 then [] else [vBlock (vRes d) 8 true 8]) ++
    (if vOtag d = 0 then [] else [vBlock (vOtag d) 8 true 8])

/-- The ranges of an operand that hold a byte. -/
def vBytes (r : VRange) : List (Nat × Nat) := r.rows.filter fun p => decide (0 < p.2)

/-- R136: every byte of an operand lies in the place its kind allows. -/
def regionOk (c : CoreId) (r : VRange) : Bool :=
  (vBytes r).all fun p => if r.ctl then inCoreSram c p.1 p.2 else inOwnSram c p.1 p.2

/-- Whether two operands share a byte. -/
def vOverlap (a b : VRange) : Bool := anyOverlap (vBytes a) (vBytes b)

/-- The form that every vector descriptor shares. -/
def vForm (d : Bytes) : Bool :=
  byteAt d 0 == 2 && (vGroup (vOp d)).isSome && byteAt d 2 / 4 == 0 && byteAt d 3 == 0 && tagsOk d &&
    addrOk d 32 && addrOk d 40 && addrOk d 48 && addrOk d 56 && addrOk d 64 && addrOk d 72 && addrOk d 80 &&
    ctrOk (byteAt d 108) && ctrOk (vSig d)

/-- R137, the last condition, for every group but the converts: no written range overlaps a read range, save that the main
output may coincide exactly with the reads that are marked so. -/
def vApart (reads : List (VRange × Bool)) (out : VRange) (others : List VRange) : Bool :=
  (reads.all fun r => r.2 || !vOverlap out r.1) && others.all fun w => reads.all fun r => !vOverlap w r.1

/-- The verdict from the pieces: form, reads, writes (the record writes of R140 among them), placement rules. Alignment holds of an
operand without bytes too; the mapping step tests bytes, and so not the address of such an operand (DESIGN CHOICE, log 112). -/
def vCheck (s : State) (c : CoreId) (form : Bool) (d : Bytes) (operands : List VRange) (place : Bool) : Check :=
  let live := operands.filter fun r => !(vBytes r).isEmpty
  let aligned := operands.all fun r => r.addr % r.al == 0
  check s (form && vForm d && aligned) (live.flatMap vBytes) (place && operands.all (regionOk c)) []

/-- The verdict for a group with one main output: its reads, that output, and the rules of its placement. -/
def vCheck1 (s : State) (c : CoreId) (d : Bytes) (form : Bool) (reads : List (VRange × Bool)) (out : VRange)
    (place : Bool) : Check :=
  vCheck s c form d ((reads.map fun r => r.1) ++ out :: recordWrites d) (place && vApart reads out (recordWrites d))

/-! Elementwise values (R130–R132, R134). -/

/-- IEEE flags of the RES word (R141): NX, UF, OF, DZ, NV. -/
abbrev Ieee := BitVec 5
def ieNx : Ieee := 1
def ieUf : Ieee := 2
def ieOf : Ieee := 4
def ieDz : Ieee := 8
def ieNv : Ieee := 16

def ieIf (b : Bool) (f : Ieee) : Ieee := if b then f else 0

/-- The IEEE flags of rounding a value into a long format (R60, R72). -/
def ieeeRound (f : Fmt) (v : Num) : Ieee :=
  match v with
  | .fin _ m e =>
    let s := fmtSpec f
    let (mag, x) := roundMag s m e
    if fmtMax f < mag then ieOf ||| ieNx
    else ieIf x ieNx ||| ieIf (x && belowPow2 m e (1 - (s.bias : Int))) ieUf
  | _ => 0

/-- R62, R55: an operation's result written: bits, record flags and IEEE flags. `inv` marks a NaN that the operation made,
`infIn` an infinite operand. -/
def finishElem (t : Tag) (classC : Bool) (v : Num) (inv infIn snan : Bool) (extra : Ieee) : Nat × Flags × Ieee :=
  let nv := ieIf (classC && snan) ieNv
  match v with
  | .nan => (fmtNan t.fmt, if inv then flInv else flNanIn, nv ||| ieIf (classC && inv) ieNv)
  | v =>
    let w := (numDiv v (tagScale t)).1
    let (q, f) := encodeOut t.fmt t.ovf w
    (q, f ||| flIf infIn flInfIn, nv ||| (if classC then extra ||| ieeeRound t.fmt w else 0))

/-- R131: maximum and minimum of two numbers; −0 ranks below +0. -/
def numMax (a b : Num) : Num :=
  if isNan a || isNan b then .nan else if numLt a b then b else if numLt b a then a else if numNeg a then b else a
def numMin (a b : Num) : Num :=
  if isNan a || isNan b then .nan else if numLt a b then a else if numLt b a then b else if numNeg a then a else b

/-- The result of an elementwise operation on scaled values; the flag marks a NaN that the operation made. An FMA with a NaN
operand makes none: 0 × ∞ beside a quiet NaN addend raises no invalid flag, which IEEE 754-2019 leaves open and the spec does
not say (DESIGN CHOICE, log 92). -/
def ewValue (vop : Nat) (x y z c : Num) : Num × Bool :=
  match vop with
  | 1 => numAdd x y
  | 2 => numSub x y
  | 3 => numMul x y
  | 4 => numDiv x y
  | 5 => numSqrt x
  | 6 => if isNan x || isNan y || isNan z then (.nan, false)
         else let (p, i) := numMul x y; if i then (.nan, true) else numAdd p z
  | 7 => (numMin x y, false)
  | 8 => (numMax x y, false)
  | 10 => (numAbs x, false)
  | 11 => (numFlip x, false)
  | _ => numMul x c

/-- R134: the predicate of CMP on numbers that are not NaN. -/
def cmpPred (p : Nat) (x y : Num) : Bool :=
  match p with
  | 0 => numEq x y
  | 1 => !numEq x y
  | 2 => numLt x y
  | 3 => numLt x y || numEq x y
  | 4 => numLt y x
  | _ => numLt y x || numEq x y

/-- CMP: the byte, record flags and IEEE flags. Every infinite operand raises ∞-in in either class, also beside a NaN (R134).
A NaN operand raises NaN-in in Class B only: R134 names Class B alone there, although R132 and R62 could be read to raise it
in Class C too (DESIGN CHOICE, log 70). -/
def cmpElem (p : Nat) (classC : Bool) (x y : Num) (snan : Bool) : Nat × Flags × Ieee :=
  let nan := isNan x || isNan y
  (if nan then (if p = 1 then 1 else 0) else if cmpPred p x y then 1 else 0,
   flIf (nan && !classC) flNanIn ||| flIf (isInf x || isInf y) flInfIn,
   ieIf (nan && classC && (decide (2 ≤ p) || snan)) ieNv)

/-- One element of an elementwise operation from the bits of its operands. -/
def ewElem (d : Bytes) (qx qy qz : Nat) : Nat × Flags × Ieee :=
  let tx := vTag (vTagX d)
  let ty := vTag (vTagY d)
  let tz := vTag (vTagO d)
  let cc := vClassC d
  let op := vOp d
  let x := valueOf tx qx
  let useY := readsY d
  let y := if useY then valueOf ty qy else numZero
  let z := if op = 6 then valueOf tz qz else numZero
  let c := if op = 12 then decode .fp32 (vCtrl d) else numZero
  let snan := isSnan tx.fmt qx || (useY && isSnan ty.fmt qy) || (op == 6 && isSnan tz.fmt qz) ||
    (op == 12 && isSnan .fp32 (vCtrl d))
  if op = 9 then cmpElem (vCtrl d % 8) cc x y snan
  else if cc ∧ (op = 10 ∨ op = 11) then
    let sb := specSign (fmtSpec tx.fmt)
    (if op = 10 then qx % sb else if qx / sb % 2 = 1 then qx - sb else qx + sb, 0, 0)
  else
    let (v, inv) := ewValue op x y z c
    let infIn := isInf x || isInf y || isInf z || isInf c
    let dz := op == 4 && isFin x && !isZero x && isZero y
    finishElem tz cc v inv infIn snan (ieIf dz ieDz)

/-! Transcendentals (R144). -/

/-- A significand without trailing zero bits, so that equal values are equal data. -/
def normGo : Nat → Nat → Int → Nat × Int
  | 0, m, e => (m, e)
  | n + 1, m, e => if m % 2 = 0 then normGo n (m / 2) (e + 1) else (m, e)
def normMag (m : Nat) (e : Int) : Nat × Int := if m = 0 then (0, 0) else normGo (bitLen m) m e

/-- The special inputs of R144: the result, and whether the operation made a NaN. None: the bounded value. -/
def trSpecial (vop : Nat) (x : Num) : Option (Num × Bool) :=
  match x with
  | .nan => some (.nan, false)
  | .inf n =>
    match vop with
    | 0x10 => some (if n then numZero else .inf false, false)
    | 0x11 => some (if n then .nan else .inf false, n)
    | 0x12 => some (.fin n 1 0, false)
    | 0x13 => some (if n then numZero else numOne, false)
    | 0x14 => some (if n then .nan else numZero, n)
    | 0x15 => some (.fin n 0 0, false)
    | 0x16 => some (.nan, true)
    | 0x17 => some (.nan, true)
    | 0x18 => some (.fin n 1 0, false)
    | _ => some (if n then numNegZero else .inf false, false)
  | .fin n m _ =>
    match vop with
    | 0x11 => if m = 0 then some (.inf true, false) else if n then some (.nan, true) else none
    | 0x14 => if m = 0 then some (.inf n, false) else if n then some (.nan, true) else none
    | 0x15 => if m = 0 then some (.inf n, false) else none
    | _ => none

/-- The internal result of a transcendental: special inputs as R144 states; every other one a free value of the internal
format that keeps the bound of R144. Where the free value would break it, the result is f(x) rounded to the format (log 22).
Where no value of the format lies within the bound, as f(x) is too large or too small for it, f(x) rounded to the format stands, an
infinity among the results, with no flag of its own (DESIGN CHOICE, log 22).
Beyond 2²⁰ a sine or cosine has magnitude at most 1 and no other bound. -/
def trValue (vop : Nat) (fp64 : Bool) (x : Num) : Num × Bool :=
  match trSpecial vop x, x with
  | some r, _ => r
  | none, .fin n m e =>
    let (m', e') := normMag m e
    let (rn, rm, re) := Config.transcendental vop n m' e' (if fp64 then 1 else 0)
    let f : Fmt := if fp64 then .fp64 else .fp32
    let r := decode f (encodeOut f false (.fin rn rm re)).1
    let far := (vop == 0x16 || vop == 0x17) && numLt (.fin false 1 20) (.fin false m e)
    if far then (if numLt numOne (numAbs r) then .fin (numNeg r) 1 0 else r, false)
    else
      let y := trExact vop n m' e'
      (if withinBound (trBound vop fp64) r y then r else decode f (encodeOut f false y).1, false)
  | none, _ => (.nan, false)

/-- One element of a transcendental. Every infinite input also raises ∞-in (R144), beside the invalid of LOG and RSQRT of −∞ and
of SIN and COS of ±∞ too: R144 speaks of these inputs by name, R62 of elements at large (DEDUCED, log 70). -/
def trElem (d : Bytes) (qx : Nat) : Nat × Flags × Ieee :=
  let tx := vTag (vTagX d)
  let tz := vTag (vTagO d)
  let x := valueOf tx qx
  let (v, inv) := trValue (vOp d) (tx.fmt == .fp64 || tz.fmt == .fp64) x
  let (q, f, ie) := finishElem tz false v inv (isInf x) false 0
  (q, f ||| flIf (isInf x) flInfIn, ie)

/-! Converts (R64–R72). -/

/-- R68: the scale of the destination, and whether the amax was invalid. -/
def cvScale (s : State) (d : Bytes) : Nat × Bool :=
  let t := vTag (vTagO d)
  if cvAmax d then
    (if fmtShort t.fmt then amaxScale t.fmt (cvMargin d) (rdElem s (vAux d) 4) else (0x3F800000, false))
  else (t.scale, false)

/-- R66: the source and destination pairs that are exact at equal scales. -/
def exactPair : Fmt → Fmt → Bool
  | .e4m3, f => f != .e5m2
  | .e5m2, f => f != .e4m3
  | .bf16, f => f == .bf16 || f == .fp32 || f == .fp64
  | .fp16, f => f == .fp16 || f == .fp32 || f == .fp64
  | .fp32, f => f == .fp32 || f == .fp64
  | .fp64, f => f == .fp64

/-- One element of a convert: bits, residue bits, record flags and IEEE flags. An infinity of an exact pair at equal scales
is written as it is, with no flag, as R66 says of such pairs; R59 and R62, which would raise ∞-in and write ±MAXF under
OVF 1, are taken to give way to it (DESIGN CHOICE, log 70). -/
def cvElem (d : Bytes) (ot : Tag) (qx : Nat) : Nat × Nat × Flags × Ieee :=
  let tx := vTag (vTagX d)
  let x := valueOf tx qx
  let exact := exactPair tx.fmt ot.fmt && tx.scale == ot.scale
  let (q, f, ie) := match x with
    | .inf n =>
      if exact then ((if n then specSign (fmtSpec ot.fmt) else 0) + specInf (fmtSpec ot.fmt), 0, 0)
      else finishElem ot (vClassC d) x false true false 0
    | _ => finishElem ot (vClassC d) x false false (isSnan tx.fmt qx) 0
  let w := valueOf ot q
  let res := if isFin x && isFin w then toFp32 (numSub x w).1 else fmtNan .fp32
  (q, res, f, ie)

/-! Rows, concealed samples and element results. -/

/-- R143: whether the element of an index is concealed. -/
def concealed (s : State) (d : Bytes) (idx : Nat) : Bool :=
  vConc d &&
    (let j := idx / vSample d
     bitOf (rdElem s (vConcAddr d + j / 8) 1) (j % 8) == 1)

/-- What a vector operation leaves: its writes, its record, its RES word and the scale of its output tag. -/
structure VOut where
  writes : List (Nat × Bytes)
  exc : ExcRec
  res : Nat
  scale : Option Nat
  deriving DecidableEq, Repr

/-- Element-by-element work over rows: `f` takes the row and column and answers the output bits, the residue bits and the
flags. Record positions are row × COUNT + i (R140). -/
def rowsWork (s : State) (d : Bytes) (exc : ExcRec) (f : Nat → Nat → Bool → Nat × Nat × Flags × Ieee) :
    List (List Nat × List Nat) × ExcRec × Ieee :=
  (List.range (vRows d)).foldl (fun acc r =>
    let row := (List.range (vCount d)).foldl (fun (a : List Nat × List Nat × ExcRec × Ieee) i =>
      let idx := r * vCount d + i
      let conc := concealed s d idx
      let r1 := if conc then excNote a.2.2.1 flConc idx else a.2.2.1
      let (q, rs, fl, ie) := f r i (conc && vConcZero d)
      (a.1 ++ [q], a.2.1 ++ [rs], excNote r1 fl idx, a.2.2.2 ||| ie)) ([], [], acc.2.1, acc.2.2)
    (acc.1 ++ [(row.1, row.2.1)], row.2.2.1, row.2.2.2)) ([], exc, 0)

/-- The element bits of an operand at row r, column i; +0 for a concealed sample read as zero. -/
def opBits (s : State) (base ld e r i : Nat) (zero : Bool) : Nat := if zero then 0 else rdElem s (base + r * ld + i * e) e

def packRow (n : Nat) (l : List Nat) : Bytes := (l.map (toLe n)).flatten

/-- ADD to SCALE: the whole operation. -/
def ewOut (s : State) (d : Bytes) : VOut :=
  let r := rowsWork s d (excFresh 2) fun r i z =>
    let qx := opBits s (vX d) (vLdx d) (vEx d) r i z
    let qy := if readsY d then opBits s (vY d) (vLdy d) (vEy d) r i z else 0
    let qz := if vOp d = 6 then opBits s (vAux d) (vLdo d) (vEo d) r i z else 0
    let (q, f, ie) := ewElem d qx qy qz
    (q, 0, f, ie)
  { writes := (List.range (vRows d)).map fun k => (vOut d + k * vLdo d, packRow (vEo d) (r.1.getD k ([], [])).1),
    exc := r.2.1, res := r.2.2.toNat, scale := none }

/-- EXP to GELU. -/
def trOut (s : State) (d : Bytes) : VOut :=
  let r := rowsWork s d (excFresh 2) fun r i z =>
    let (q, f, ie) := trElem d (opBits s (vX d) (vLdx d) (vEx d) r i z)
    (q, 0, f, ie)
  { writes := (List.range (vRows d)).map fun k => (vOut d + k * vLdo d, packRow (vEo d) (r.1.getD k ([], [])).1),
    exc := r.2.1, res := 0, scale := none }

/-- CONVERT. -/
def cvOut (s : State) (d : Bytes) : VOut :=
  let (sd, bad) := cvScale s d
  let ot := { vTag (vTagO d) with scale := sd }
  let exc0 := if bad then excNote (excFresh 2) flInv 0 else excFresh 2
  let r := rowsWork s d exc0 fun r i _ => cvElem d ot (opBits s (vX d) (vLdx d) (vEx d) r i false)
  let outs := (List.range (vRows d)).map fun k => (vOut d + k * vLdo d, packRow (vEo d) (r.1.getD k ([], [])).1)
  let ress := if cvResidue d then
      (List.range (vRows d)).map fun k => (vY d + k * vLdy d, packRow 4 (r.1.getD k ([], [])).2)
    else []
  { writes := outs ++ ress, exc := r.2.1, res := r.2.2.toNat, scale := some sd }

/-! Reductions (R145). -/

/-- R129: lanes by format. -/
def fmtLanes : Fmt → Nat
  | .e4m3 => 256 | .e5m2 => 256 | .bf16 => 128 | .fp16 => 128 | .fp32 => 64 | .fp64 => 32

/-- A lane's state: its pair, its deep value if it has spilled, the terms since the last spill, the term count. -/
structure Lane where
  acc : Acc
  deep : Num
  since : Nat
  terms : Nat
  deriving DecidableEq, Repr

/-- The term of an element: itself, or its exact square as FP64 mode takes it (R111). -/
def sumTerm (sq fp64 : Bool) (x : Num) : Num × Flags :=
  if sq then
    match x with
    | .fin _ _ _ => cellProduct fp64 x x
    | x => ((numMul x x).1, 0)
  else (x, 0)

def laneSpill (l : Lane) : Lane × Flags :=
  let (v, inv) := numAdd l.deep (accVal l.acc)
  let ((hi, lo), f) := storeDword v
  ({ acc := .empty, deep := dwordVal hi lo, since := 0, terms := l.terms + 1 }, f ||| flIf inv flInv)

/-- One lane over its elements (index, value), in ascending index; `last` marks the final one. -/
def laneGo (sq fp64 : Bool) : List (Nat × Num) → Lane → ExcRec → Lane × ExcRec
  | [], l, r => (l, r)
  | (idx, x) :: rest, l, r =>
    let (t, f0) := sumTerm sq fp64 x
    let (a, f1) := accAdd fp64 l.acc t
    let r1 := excNote r (f0 ||| f1) idx
    let l1 := { l with acc := a, since := l.since + 1, terms := l.terms + 1 }
    if rest.isEmpty || l1.since == 4096 then
      let (l2, f2) := laneSpill l1
      laneGo sq fp64 rest l2 (excNote r1 f2 idx)
    else laneGo sq fp64 rest l1 r1

/-- A row's sum: the root as a double-word, its term count, the record. -/
def rowSum (sq fp64 : Bool) (lanes base : Nat) (vals : List Num) (exc : ExcRec) : Num × Nat × ExcRec :=
  let last := base + (vals.length - 1)
  let r := (List.range lanes).foldl (fun (acc : List Num × Nat × ExcRec) l =>
    let mine := (List.range (ceilDiv (vals.length - l) lanes)).map fun j =>
      let i := l + j * lanes
      (base + i, vals.getD i numZero)
    let (ln, e) := laneGo sq fp64 mine { acc := .empty, deep := numNegZero, since := 0, terms := 0 } acc.2.2
    (acc.1 ++ [if mine.isEmpty then numZero else ln.deep], acc.2.1 + ln.terms, e)) ([], 0, exc)
  let (root, fs) := canonTree 9 r.1
  let e := fs.foldl (fun e f => excNote e f last) r.2.2
  let terms := r.2.1 + (lanes - 1)
  (root, terms, if termLimit < terms then excNote e flBound last else e)

/-- MAX, MIN and AMAX of a row (R131, R145). -/
def rowExtreme (vop : Nat) (vals : List Num) : Num :=
  match vop, vals with
  | 0x22, [] => .inf true
  | 0x23, [] => .inf false
  | _, [] => numZero
  | 0x22, v :: vs => vs.foldl numMax v
  | 0x23, v :: vs => vs.foldl numMin v
  | _, v :: vs => vs.foldl (fun a b => numMax a (numAbs b)) (numAbs v)

/-- The flags of one special operand. -/
def specialFlags (v : Num) : Flags := flIf (isNan v) flNanIn ||| flIf (isInf v) flInfIn

/-- R121: NaN-in and ∞-in of a list of operands, from an element index on. -/
def noteSpecials : List Num → Nat → ExcRec → ExcRec
  | [], _, e => e
  | v :: vs, i, e => noteSpecials vs (i + 1) (excNote e (specialFlags v) i)

/-- The values of a row with the flags of their special operands noted. -/
def rowVals (s : State) (d : Bytes) (r : Nat) (exc : ExcRec) : List Num × ExcRec :=
  (List.range (vCount d)).foldl (fun (acc : List Num × ExcRec) i =>
    let idx := r * vCount d + i
    let conc := concealed s d idx
    let e1 := if conc then excNote acc.2 flConc idx else acc.2
    let v := decode (vTag (vTagX d)).fmt (opBits s (vX d) (vLdx d) (vEx d) r i (conc && vConcZero d))
    (acc.1 ++ [v], excNote e1 (specialFlags v) idx)) ([], exc)

/-- SUM to AMAX. A row whose result is NaN keeps the ∞-in of its infinite elements at their indices: the input element is the one that
R62 and R140 speak of (DESIGN CHOICE, log 111). -/
def redOut (s : State) (d : Bytes) : VOut :=
  let tx := vTag (vTagX d)
  let ot := vTag (vTagO d)
  let sx := tagScale tx
  let isSum := decide (vOp d = 0x20 ∨ vOp d = 0x21)
  let sq := vOp d == 0x21
  let r := (List.range (vRows d)).foldl (fun (acc : List (Nat × Bytes) × ExcRec) r =>
    let (vals, e1) := rowVals s d r acc.2
    let a := vOut d + r * vLdo d
    let last := r * vCount d + (vCount d - 1)
    if isSum then
      let (root, n, e2) := rowSum sq (tx.fmt == .fp64) (fmtLanes tx.fmt) (r * vCount d) vals e1
      let e3 := { e2 with terms := Nat.max e2.terms n }
      if vDeepOut d then (acc.1 ++ [(a, deepBytes (storeDword root).1)], e3)
      else
        let v := if sq then (numMul (numMul root sx).1 sx).1 else (numMul root sx).1
        let (q, f) := writeVal ot v
        (acc.1 ++ [(a, toLe (tagSize ot) q)], excNote e3 f last)
    else
      let (q, f) := writeVal ot (numMul (rowExtreme (vOp d) vals) sx).1
      (acc.1 ++ [(a, toLe (tagSize ot) q)], excNote e1 f last)) ([], excFresh 2)
  { writes := r.1, exc := r.2, res := 0, scale := none }

/-- MERGE (R116, R124). -/
def mergeOut (s : State) (d : Bytes) : VOut :=
  let n := vCount d
  let r := (List.range n).foldl (fun (acc : Bytes × ExcRec) i =>
    let (dw, f) := deepMerge (deepOf (rdMem s (vX d + 16 * i) 16)) (deepOf (rdMem s (vY d + 16 * i) 16))
    (acc.1 ++ deepBytes dw, excNoteN elemBefore acc.2 f (BitVec.ofNat 64 i) 1 0xFFFF)) ([], excFresh 3)
  let leaf (i : Nat) (b : Bytes) : ExcRec := if i = 0xFFFF then excParse b else excAsLeaf i (excParse b)
  let left := leaf (fld d 100 2) (rdMem s (vAux d) 128)
  let right := leaf (fld d 102 2) (rdMem s (fld d 92 6) 128)
  { writes := [(vOut d, r.1)], exc := excMerge left right r.2 n, res := 0, scale := none }

/-- DIGEST (R237): CV′ is the first 16 bytes of SHAKE256(CV ‖ the bytes). -/
def digestOut (s : State) (d : Bytes) : VOut :=
  { writes := [(vOut d, digest16 (rdMem s (vAux d) 16 ++ rdMem s (vX d) (vCount d)))], exc := excFresh 2, res := 0,
    scale := none }

/-! Validation by group (R135–R137, R142, R143). -/

/-- R143: the concealed bits' form and range. With CONC_EN 0 neither CONC_ADDR nor SAMPLE_LEN is tested; with CONC_EN 1 a
CONC_ADDR of 0, which R136 says means none, is an address outside every SRAM and fails (DESIGN CHOICES, log 93). -/
def concForm (d : Bytes) : Bool := !vConc d || (decide (0 < vSample d) && addrOk d 112)
def concRange (d : Bytes) : List (VRange × Bool) :=
  if vConc d then
    [(vBlock (vConcAddr d) (concBytes (vRows d * vCount d) (vSample d)) true 1, false)]
  else []

/-- R70, R137: whether OUT may coincide with an operand: same base, no wider element, same stride over several rows. -/
def coincides (d : Bytes) (base ld e : Nat) : Bool :=
  vOut d == base && decide (vEo d ≤ e) && (vRows d == 1 || vLdo d == ld)

/-- The elementwise and transcendental groups. OUT may coincide with an operand in both: R137 names "other elementwise operations",
and a transcendental works element by element (DESIGN CHOICE, log 112). COUNT 0 passes as an operation on no element (DESIGN CHOICE,
log 71). CTRL must be 0 where the operation has neither immediate nor predicate, and
CTRL[31:3] of CMP too (DESIGN CHOICE, log 93). -/
def ewCheck (s : State) (c : CoreId) (d : Bytes) : Check :=
  let n := vCount d
  let rows := vRows d
  let ctrl := if vOp d = 9 then decide (vCtrl d ≤ 5) else vOp d == 12 || vCtrl d == 0
  let form := decide (1 ≤ rows) && decide (rows ≤ 65535) && ctrl && zeros d 124 4 && concForm d
  let x := (spanOf (vX d) (vLdx d) rows n (vEx d), coincides d (vX d) (vLdx d) (vEx d))
  let y := if readsY d then [(spanOf (vY d) (vLdy d) rows n (vEy d), coincides d (vY d) (vLdy d) (vEy d))] else []
  let z := if vOp d = 6 then [(spanOf (vAux d) (vLdo d) rows n (vEo d), false)] else []
  let place := strideOk (vLdx d) n (vEx d) && (!readsY d || strideOk (vLdy d) n (vEy d)) && strideOk (vLdo d) n (vEo d)
  vCheck1 s c d form ([x] ++ y ++ z ++ concRange d) (spanOf (vOut d) (vLdo d) rows n (vEo d)) place

/-- R70: of a convert, only overlaps between the source, the destination and the residue are tested: the destination may
coincide with the source, the residue must not overlap either. -/
def cvApart (d : Bytes) (src dst : VRange) (res : List VRange) : Bool :=
  (coincides d (vX d) (vLdx d) (vEx d) || !vOverlap dst src) && res.all fun r => !vOverlap r src && !vOverlap r dst

/-- The converts. COUNT 0 passes as an operation on no element (DESIGN CHOICE, log 71). -/
def cvCheck (s : State) (c : CoreId) (d : Bytes) : Check :=
  let n := vCount d
  let rows := vRows d
  let short := fmtShort (vTag (vTagO d)).fmt
  let ctrl := vCtrl d / 65536 == 0 && vCtrl d / 1024 % 4 == 0 && decide (vCtrl d / 256 % 4 ≤ 1) && vCtrl d / 2 % 128 == 0
  let form := decide (1 ≤ rows) && decide (rows ≤ 65535) && ctrl && zeros d 124 4 && !vConc d
  let amax := if cvAmax d && short then [vBlock (vAux d) 4 false 1] else []
  let res := if cvResidue d then [spanOf (vY d) (vLdy d) rows n 4] else []
  let src := spanOf (vX d) (vLdx d) rows n (vEx d)
  let dst := spanOf (vOut d) (vLdo d) rows n (vEo d)
  let place := strideOk (vLdx d) n (vEx d) && strideOk (vLdo d) n (vEo d) &&
    (!cvResidue d || (short && strideOk (vLdy d) n 4)) && (!cvAmax d || vOtag d != 0) && cvApart d src dst res
  vCheck s c form d ([src] ++ amax ++ [dst] ++ res ++ recordWrites d) place

/-- The reductions. That AMAX writes FP32 is tested at placement, with the rules that tie fields together (DESIGN CHOICE, log 77). -/
def redCheck (s : State) (c : CoreId) (d : Bytes) : Check :=
  let n := vCount d
  let rows := vRows d
  let sums := decide (vOp d = 0x20 ∨ vOp d = 0x21)
  let form := decide (1 ≤ rows) && decide (rows ≤ 65535) && (if sums then decide (vCtrl d ≤ 1) else vCtrl d == 0) &&
    zeros d 104 4 && zeros d 124 4 && concForm d
  let place := strideOk (vLdx d) n (vEx d) && strideOk (vLdo d) 1 (vEo d) &&
    (vOp d != 0x24 || (vTag (vTagO d)).fmt == .fp32)
  let out := { spanOf (vOut d) (vLdo d) rows 1 (vEo d) with al := if vDeepOut d then 16 else 1 }
  vCheck1 s c d form ([(spanOf (vX d) (vLdx d) rows n (vEx d), false)] ++ concRange d) out place

/-- MERGE. The left child's record at AUX_ADDR need not be 64-byte aligned: R136 asks alignment of EXC_ADDR and YREC_ADDR
alone, while R118 aligns every record (DESIGN CHOICE, log 93). -/
def mergeCheck (s : State) (c : CoreId) (d : Bytes) : Check :=
  let n := 16 * vCount d
  let form := decide (vCtrl d ≤ 1) && addrOk d 92 && zeros d 104 4 && zeros d 112 16 && !vConc d
  let r (a len : Nat) (ctl : Bool) (al : Nat) : VRange × Bool := (vBlock a len ctl al, false)
  vCheck1 s c d form [r (vX d) n false 16, r (vY d) n false 16, r (vAux d) 128 false 1, r (fld d 92 6) 128 true 64]
    (vBlock (vOut d) n false 16) true

def digestCheck (s : State) (c : CoreId) (d : Bytes) : Check :=
  let form := vCtrl d == 0 && vCount d % 64 == 0 && zeros d 92 16 && zeros d 112 16 && !vConc d
  let r (a len : Nat) : VRange × Bool := (vBlock a len false 1, false)
  vCheck1 s c d form [r (vX d) (vCount d), r (vAux d) 16] (vBlock (vOut d) 16 false 1) true

end Sys2Proof.Machine
end

