-- ==== Sys2Proof/Machine/Collective.lean ====
section
/-! DEFINITION. Collectives (spec R252–R265, R271): validation, the node rule over the schedule's trees, transports,
residues, receive slots, ring rounds, completion. -/
namespace Sys2Proof.Machine
open Sys2Proof

/-! Fields (R260). -/

def kCop (d : Bytes) : Nat := byteAt d 1
def kElem (d : Bytes) : Nat := byteAt d 2 % 4
def kOvf (d : Bytes) : Bool := bitOf (byteAt d 2) 2 == 1
def kMargin (d : Bytes) : Nat := byteAt d 3 % 16
def kSched (d : Bytes) : Nat := fld d 4 2
def kRound (d : Bytes) : Nat := fld d 6 2
def kCount (d : Bytes) : Nat := fld d 8 4
def kSeq (d : Bytes) : Nat := fld d 12 4
def kRoot (d : Bytes) : Nat := fld d 16 4
def kSrc (d : Bytes) : Nat := fld d 24 6
def kDst (d : Bytes) : Nat := fld d 32 6
def kRecv (d : Bytes) : Nat := fld d 40 6
def kResIn (d : Bytes) : Nat := fld d 48 6
def kResOut (d : Bytes) : Nat := fld d 56 6
def kExc (d : Bytes) : Nat := fld d 64 6
def kSig (d : Bytes) : Nat := byteAt d 109
/-- REDUCE_SCATTER, ALL_REDUCE and REDUCE merge deep entries; the others carry bytes. -/
def kMerges (d : Bytes) : Bool := decide (kCop d ≤ 3)
def kE5 (d : Bytes) : Bool := kElem d == 0

/-! The schedule of a collective: its record, group, tree and this device's member index. -/

structure KCtx where
  sched : Sched
  group : Group
  tree : Option (List (Nat × Nat))
  me : Nat
  size : Nat
  runahead : Nat
  deriving DecidableEq, Repr

def kCtxIn (s : State) (lay : Option Layout) (sched : Nat) : Option KCtx :=
  match lay with
  | none => none
  | some l =>
    match schedRec l sched with
    | none => none
    | some x =>
      match groupRec l x.group with
      | none => none
      | some g =>
        some { sched := x, group := g, tree := schedNodes l x (groupSize g), me := memberIndex g (myId s),
               size := groupSize g, runahead := l.runahead }

/-- In the current layout. -/
def kCtx (s : State) (sched : Nat) : Option KCtx := kCtxIn s (curLayout s) sched

/-- R276: in the layout that a message of an epoch belongs to: inside the re-shard lock a message of E + 1 is step traffic of a
member that has advanced, and its schedule is one of the target layout. -/
def kCtxAt (s : State) (epoch : W32) (sched : Nat) : Option KCtx :=
  match s.lock with
  | some l => if epoch = s.stp.epoch then kCtx s sched else kCtxIn s ((curPlan s).bind fun p => p.layouts[l.target]?) sched
  | none => kCtx s sched

/-- The members that send to a member for chunk k, lowest level first (R253, R254), and the one it sends to. -/
def kKids (x : KCtx) (root k m : Nat) : List Nat :=
  (treeKids x.tree x.size (memberLeaf x.group x.sched.rotate root k m)).map (leafMember x.group x.sched.rotate root k)
def kParent (x : KCtx) (root k m : Nat) : Option Nat :=
  (treeParent x.tree x.size (memberLeaf x.group x.sched.rotate root k m)).map (leafMember x.group x.sched.rotate root k)

/-- R261: the first element of chunk k and its element count. Each chunk of an ALL_GATHER is one member's slice; a ring
round is one chunk. -/
def kLo (d : Bytes) (size k : Nat) : Nat :=
  if kCop d = 4 ∨ kCop d = 6 then 0 else Nat.min (k * ceilDiv (kCount d) size) (kCount d)
def kLen (d : Bytes) (size k : Nat) : Nat :=
  if kCop d = 4 ∨ kCop d = 6 then kCount d else kLo d size (k + 1) - kLo d size k

/-- The chunks that a descriptor works on; empty ones send and write nothing. -/
def kChunks (d : Bytes) (size : Nat) : List Nat :=
  if kCop d = 6 then [0] else (List.range size).filter fun k => decide (0 < kLen d size k)

/-- Bytes of one element on the way: one in E5M2, sixteen deep, one in bytes transport. -/
def kUnit (d : Bytes) : Nat := if kElem d = 1 then 16 else 1

/-! Validation (R262). -/

/-- The bytes of a source and of the result at DST_ADDR. -/
def kSrcLen (d : Bytes) : Nat := if kMerges d then 16 * kCount d else kCount d
def kDstLen (d : Bytes) (x : KCtx) : Nat :=
  match kCop d with
  | 1 => 16 * kLen d x.size x.me
  | 2 => 16 * kCount d
  | 3 => if x.me = kRoot d then 16 * kCount d else 0
  | 4 => x.size * kCount d
  | _ => kCount d

/-- R260: the ranges of ROUND and ROOT, which end at the schedule's size. -/
def kRange (d : Bytes) (x : KCtx) : Bool :=
  (if kCop d = 6 then decide (1 ≤ kRound d) && decide (kRound d < x.size) else true) &&
    (if kCop d = 3 ∨ kCop d = 5 then decide (kRoot d < x.size) else true)

/-- The form of a collective descriptor. R483 puts a field's range in the form step and what ties fields to one another in the
placement step; the model counts the ranges of ROUND and ROOT in R260, "otherwise 0" included, as ranges, and what R262 or R260
ties to ELEM or to the writing member (OVF, MARGIN, the residue addresses, a DST_ADDR of 0) as placement (DESIGN CHOICE,
log 77). Where SCHED names no schedule there is no S to test against. -/
def kForm (d : Bytes) (x : Option KCtx) : Bool :=
  byteAt d 0 == 4 && decide (1 ≤ kCop d) && decide (kCop d ≤ 6) && decide (kElem d ≤ 2) && byteAt d 2 / 8 == 0 &&
    byteAt d 3 / 16 == 0 && decide (kSched d ≤ 4095) && decide (1 ≤ kCount d) && decide (kCount d ≤ 16777216) &&
    (kCop d == 6 || kRound d == 0) && zeros d 20 4 && addrOk d 24 && addrOk d 32 && addrOk d 40 && addrOk d 48 &&
    addrOk d 56 && addrOk d 64 && zeros d 72 36 && ctrOk (byteAt d 108) && ctrOk (kSig d) && zeros d 112 16 &&
    kExc d % 64 == 0 && (!kMerges d || (kSrc d % 16 == 0 && kDst d % 16 == 0)) &&
    (kCop d == 3 || kCop d == 5 || kRoot d == 0) && x.toList.all (kRange d)

/-- R267, R391: the receive area of a schedule on a core. -/
def recvArea (s : State) (c : CoreId) (x : Sched) : Nat :=
  match (planParts s).find? fun p => partHas p 1 with
  | some p => concatAddr (partRanges p c) x.recvOff
  | none => 0

/-- R264: the size of a receive slot. -/
def recvSlot (x : KCtx) : Nat := x.sched.recvBytes / (x.runahead + 2) / 64 * 64

/-- R264: the bytes of a receive slot that the messages of one instance need. -/
def kNeed (d : Bytes) (x : KCtx) : Nat :=
  let need := (kChunks d x.size).map fun k =>
    let up := (kKids x (kRoot d) k x.me).length
    let down := (kParent x (kRoot d) k x.me).toList.length
    let msgs := if kCop d = 6 then 1 else if kMerges d then up + (if kCop d = 2 then down else 0) else down
    msgs * (64 + ceilDiv (kLen d x.size k * kUnit d) 64 * 64)
  need.foldl (· + ·) 0

def kFits (d : Bytes) (x : KCtx) : Bool := decide (kNeed d x ≤ recvSlot x)

/-- Whether a range lies in the residue bank of a role: 2 committed, 3 alternate. -/
def inResRole (s : State) (role a n : Nat) : Bool := inside a n (bankRange s role).1 (bankRange s role).2

/-- R258: the elements that this member narrows, as (first, count): in a REDUCE_SCATTER those outside its own chunk, in an
ALL_REDUCE every one, in a REDUCE every one unless it is the root; none in deep transport. -/
def kNarrowed (d : Bytes) (x : KCtx) : List (Nat × Nat) :=
  if !kMerges d || !kE5 d then []
  else
    let lo := kLo d x.size x.me
    let hi := lo + kLen d x.size x.me
    (match kCop d with
      | 1 => [(0, lo), (hi, kCount d - hi)]
      | 3 => if x.me = kRoot d then [] else [(0, kCount d)]
      | _ => [(0, kCount d)]).filter fun r => decide (0 < r.2)

/-- The residue words that a descriptor narrows, as ranges of a residue bank. -/
def narrowWords (s : State) (d : Bytes) (x : KCtx) : List (Nat × Nat) :=
  (kNarrowed d x).map fun r => (kResOut d - (bankRange s 3).1 + 4 * r.1, 4 * r.2)

/-- R258: whether this attempt has narrowed words that the descriptor narrows: the words count from their first quantisation on,
from the start of the descriptor that narrows them. -/
def quantised (s : State) (y : Core) (d : Bytes) (x : KCtx) : Bool := anyOverlap (narrowWords s d x) y.quant

/-- R258: RES_IN has the committed role for the first quantisation and the alternate role later. Of a member that narrows no word
the rule asks neither role; the model takes either (DESIGN CHOICE, log 77). -/
def resInOk (s : State) (c : CoreId) (d : Bytes) (x : KCtx) : Bool :=
  let n := 4 * kCount d
  if (kNarrowed d x).isEmpty then inResRole s 2 (kResIn d) n || inResRole s 3 (kResIn d) n
  else inResRole s (if quantised s (getCore s c) d x then 3 else 2) (kResIn d) n

/-- The pieces of a range of a concatenation of ranges (R391). -/
def concatPieces : List (Nat × Nat) → Nat → Nat → List (Nat × Nat)
  | [], _, _ => []
  | (b, m) :: rest, off, n =>
    if n = 0 then []
    else if off < m then (b + off, Nat.min n (m - off)) :: concatPieces rest 0 (n - Nat.min n (m - off))
    else concatPieces rest (off - m) n

/-- The part of the receive slot that one instance needs: the schedule's area may run across slices (R391). Where RECV_ADDR is not
the schedule's area, which the placement step refuses, the bytes from RECV_ADDR on. -/
def recvRanges (s : State) (c : CoreId) (d : Bytes) (x : KCtx) : List (Nat × Nat) :=
  let off := kSeq d % (x.runahead + 2) * recvSlot x
  match (planParts s).find? fun p => partHas p 1 with
  | some p =>
    if kRecv d = recvArea s c x.sched then concatPieces (partRanges p c) (x.sched.recvOff + off) (kNeed d x)
    else [(kRecv d + off, kNeed d x)]
  | none => [(kRecv d + off, kNeed d x)]

/-- What a collective reads: its source, its residues, and the receive slot that its messages arrive in. -/
def kReads (s : State) (c : CoreId) (d : Bytes) (x : Option KCtx) : List (Nat × Nat) :=
  [(kSrc d, kSrcLen d)] ++ (if kResIn d = 0 then [] else [(kResIn d, 4 * kCount d)]) ++
    (match x with
      | some x =>
        if kNeed d x = 0 then [] else recvRanges s c d x
      | none => [])
def kWrites (d : Bytes) (x : Option KCtx) : List (Nat × Nat) :=
  [(kExc d, 128)] ++
    (match x with
      | some x => if kDstLen d x = 0 then [] else [(kDst d, kDstLen d x)]
      | none => if kDst d = 0 then [] else [(kDst d, kSrcLen d)]) ++
    (if kResOut d = 0 then [] else [(kResOut d, 4 * kCount d)])

def kPlace (s : State) (c : CoreId) (d : Bytes) (x : KCtx) : Bool :=
  let e5 := kE5 d
  let n := 4 * kCount d
  x.sched.cop == kCop d && (if kMerges d then decide (kElem d ≤ 1) else kElem d == 2) &&
    (if kDstLen d x = 0 then kDst d == 0 else inOwnSram c (kDst d) (kDstLen d x)) &&
    inOwnSram c (kSrc d) (kSrcLen d) && inOwnSram c (kExc d) 128 && kRecv d == recvArea s c x.sched &&
    (if e5 then resInOk s c d x && inResRole s 3 (kResOut d) n
      else !kOvf d && kMargin d == 0 && kResIn d == 0 && kResOut d == 0) &&
    ((kWrites d (some x)).all fun w => (kReads s c d (some x)).all fun r =>
      !overlapR w r || (e5 && w == (kResOut d, n) && r == (kResIn d, n) && kResOut d == kResIn d)) &&
    kFits d x

/-- The verdict on a collective descriptor. The mapping step of R483 tests every named address and extent; where SCHED names no
schedule, which alone fixes some extents, it tests SRC, a non-zero DST over SRC's length, EXC, the residues and the first byte of
RECV_ADDR (DESIGN CHOICE, log 77). -/
def colCheck (s : State) (c : CoreId) (d : Bytes) : Check :=
  let x := kCtx s (kSched d)
  check s (kForm d x) (kReads s c d x ++ kWrites d x ++ [(kRecv d, 1)])
    (match x with
      | some x => kPlace s c d x
      | none => false)
    (if kResOut d = 0 then [] else [(kResOut d, 4 * kCount d)])

/-! Narrowing and widening (R255–R257). -/

/-- R256: one message element as a deep value, with its flags. -/
def widenElem (scale q : Nat) : Num × Flags :=
  let v := decode .e5m2 q
  let w := (numMul v (decode .fp32 scale)).1
  let ((hi, lo), _) := storeDword w
  (dwordVal hi lo, flIf (isNan v) flNanIn ||| flIf (isInf v) flInfIn)

/-- The elements of a message as deep values; flags at their index in the slice. -/
def widen (d : Bytes) (lo : Nat) (scale : Nat) (b : Bytes) (exc : ExcRec) : List Num × ExcRec :=
  if kE5 d then
    (List.range b.length).foldl (fun (acc : List Num × ExcRec) i =>
      let (v, f) := widenElem scale (byteAt b i)
      (acc.1 ++ [v], excNote acc.2 f (lo + i))) ([], exc)
  else ((List.range (b.length / 16)).map fun i => deepOf (sub b (16 * i) 16), exc)

/-- What goes out: the bytes, the scale word, and the residues written. -/
structure Packed where
  bytes : Bytes
  scale : Nat
  residues : Option Bytes
  exc : ExcRec
  deriving DecidableEq, Repr

/-- R255 narrow, R67, R68; in deep transport the entries themselves. -/
def narrow (s : State) (d : Bytes) (lo : Nat) (v : List Num) (exc : ExcRec) : Packed :=
  if !kE5 d then
    { bytes := (v.map fun x => deepBytes (storeDword x).1).flatten, scale := 0, residues := none, exc := exc }
  else
    let a := (List.range v.length).map fun i =>
      numAdd (v.getD i numZero) (decode .fp32 (rdElem s (kResIn d + 4 * (lo + i)) 4))
    let amax := toFp32 (a.foldl (fun m x => amaxN m (numAbs x.1)) numZero)
    let (sd, bad) := amaxScale .e5m2 (kMargin d) amax
    let e0 := if bad then excNote exc flInv lo else exc
    let t : Tag := { fmt := .e5m2, ovf := kOvf d, scale := sd }
    let r := (List.range a.length).foldl (fun (acc : Bytes × Bytes × ExcRec) i =>
      let (x, made) := a.getD i (numZero, false)
      let (q, f, _) := finishElem t false x made (isInf x) false 0
      let w := valueOf t q
      let res := if isFin x && isFin w then toFp32 (numSub x w).1 else fmtNan .fp32
      (acc.1 ++ toLe 1 q, acc.2.1 ++ toLe 4 res, excNote acc.2.2 f (lo + i))) ([], [], e0)
    { bytes := r.1, scale := sd, residues := some r.2.1, exc := r.2.2 }
where
  /-- The larger magnitude; NaN over ∞ over numbers (R68). -/
  amaxN (m x : Num) : Num := if isNan m || isNan x then .nan else if numLt m x then x else m

/-! Messages. -/

/-- The parts of a message of at most 4,096 bytes, whole elements each. -/
def msgParts (unit : Nat) : Nat → Nat → Bytes → List (Nat × Bytes)
  | 0, _, _ => []
  | n + 1, off, b => if b.isEmpty then [] else (off, b.take 4096) :: msgParts unit n (off + 4096 / unit) (b.drop 4096)

/-- The transactions of one message to a member; the answer lists their TAGs. An ID that cannot be routed aborts the
attempt (R294). -/
def sendMsg (s : State) (c : CoreId) (ord : Nat) (d : Bytes) (x : KCtx) (k dst : Nat) (b : Bytes) (scale : Nat) :
    State × List (BitVec 16) :=
  let parts := msgParts (kUnit d) (b.length / 4096 + 1) 0 b
  let id := memberId x.group (myId s) dst
  let r := (List.range parts.length).foldl (fun (acc : State × List (BitVec 16) × Bool) i =>
    let (off, pb) := parts.getD i (0, [])
    let f := txnFields [(16, toLe 2 (kSched d)), (18, toLe 3 k), (21, toLe 3 x.me), (24, toLe 4 (kSeq d)),
      (28, le32 acc.1.stp.curTag), (32, toLe 2 i), (34, toLe 2 parts.length), (36, toLe 4 scale), (40, toLe 4 off)]
    let (s1, t) := sendTxn acc.1 (railOfDie c.die.val) (mkTxn acc.1 .reduce 0 id f pb) (.collective (coreIdx c) ord)
    (s1, acc.2.1 ++ t.toList, acc.2.2 && (t.isSome || traceReplay s1))) (s, [], true)
  (if r.2.2 then r.1 else startAbort r.1 cFault, r.2.1)

/-- The bytes and scale of a complete message from a member for chunk k. -/
def msgFrom (s : State) (r : List Msg) (d : Bytes) (k m : Nat) : Option (Bytes × Nat) :=
  match r.find? fun g => g.attempt == s.stp.curTag && g.sched == kSched d && g.seq == kSeq d && g.chunk == k &&
      g.member == m && g.got.length == g.parts with
  | some g =>
    let ps := (List.range g.parts).filterMap fun i => g.got.find? fun p => p.part == i
    some ((ps.map fun p => p.data).flatten, ((ps.head?.map fun (p : MsgPart) => p.scale).getD 0).toNat)
  | none => none

/-! Progress. -/

/-- A message sent, its TAGs noted in the run. -/
def sendFor (s : State) (c : CoreId) (run : ColRun) (x : KCtx) (k dst : Nat) (b : Bytes) (scale : Nat) : State × ColRun :=
  let (s1, tags) := sendMsg s c run.ord run.desc x k dst b scale
  (s1, { run with sent := run.sent ++ tags })

/-- R255: a message goes down to the hosts of the right children, top level first. -/
def sendDown (s : State) (c : CoreId) (run : ColRun) (x : KCtx) (k : Nat) (b : Bytes) (scale : Nat) : State × ColRun :=
  ((kKids x (kRoot run.desc) k x.me).reverse).foldl (fun acc m => sendFor acc.1 c acc.2 x k m b scale) (s, run)

/-- Deep values delivered as the result of a chunk (R261): written at DST_ADDR, or kept by the norm's own run. -/
def deliverChunk (s : State) (run : ColRun) (lo : Nat) (v : List Num) : State × ColRun :=
  let b := (v.map fun y => deepBytes (storeDword y).1).flatten
  match run.job with
  | some (.norm own _) => (s, { run with job := some (.norm own b) })
  | _ => (wrMem s (kDst run.desc + (if kCop run.desc = 1 then 0 else 16 * lo)) b, run)

/-- The member's own contribution to a chunk. -/
def ownDeep (s : State) (run : ColRun) (lo n : Nat) : List Num :=
  match run.job with
  | some (.norm own _) => [deepOf own]
  | _ => (List.range n).map fun i => deepOf (rdMem s (kSrc run.desc + 16 * (lo + i)) 16)

def writeResidues (s : State) (d : Bytes) (lo : Nat) (p : Packed) : State :=
  match p.residues with
  | some b => wrMem s (kResOut d + 4 * lo) b
  | none => s

/-- One message merged into a chunk's values, element by element. -/
def mergeMsg (lo : Nat) (v w : List Num) (exc : ExcRec) : List Num × ExcRec :=
  (List.range v.length).foldl (fun (acc : List Num × ExcRec) i =>
    let (dw, f) := deepMerge (v.getD i numZero) (w.getD i numZero)
    (acc.1 ++ [dwordVal dw.1 dw.2], excNote acc.2 f (lo + i))) ([], exc)

/-- The upward part of chunk k, once every child's message is complete. -/
def pumpUp (s : State) (c : CoreId) (x : KCtx) (run : ColRun) (k : Nat) : State × ColRun :=
  let d := run.desc
  if run.upDone.contains k then (s, run)
  else
    let lo := kLo d x.size k
    let n := kLen d x.size k
    let recv := (getCore s c).recv
    let msgs := (kKids x (kRoot d) k x.me).map (msgFrom s recv d k)
    if msgs.any Option.isNone then (s, run)
    else
      let (v, exc) := (msgs.filterMap id).foldl (fun (acc : List Num × ExcRec) m =>
        let (w, e1) := widen d lo m.2 m.1 acc.2
        mergeMsg lo acc.1 w e1) (ownDeep s run lo n, run.exc)
      let run := { run with exc := exc, upDone := run.upDone ++ [k] }
      match kParent x (kRoot d) k x.me with
      | some p =>
        let t := narrow s d lo v run.exc
        let (s1, r1) := sendFor (writeResidues s d lo t) c { run with exc := t.exc } x k p t.bytes t.scale
        (s1, if kCop d = 2 then r1 else { r1 with downDone := r1.downDone ++ [k] })
      | none =>
        if kCop d = 2 then
          let t := narrow s d lo v run.exc
          let (s1, r1) := sendDown (writeResidues s d lo t) c { run with exc := t.exc } x k t.bytes t.scale
          let (w, e2) := widen d lo t.scale t.bytes r1.exc
          deliverChunk s1 { r1 with exc := e2, downDone := r1.downDone ++ [k] } lo w
        else deliverChunk s { run with downDone := run.downDone ++ [k] } lo v

/-- The downward part of chunk k of an ALL_REDUCE. -/
def pumpDown (s : State) (c : CoreId) (x : KCtx) (run : ColRun) (k : Nat) : State × ColRun :=
  let d := run.desc
  if run.downDone.contains k || !run.upDone.contains k then (s, run)
  else
    match (kParent x (kRoot d) k x.me).bind (msgFrom s (getCore s c).recv d k) with
    | none => (s, run)
    | some m =>
      let lo := kLo d x.size k
      let (s1, r1) := sendDown s c run x k m.1 m.2
      let (w, e) := widen d lo m.2 m.1 r1.exc
      deliverChunk s1 { r1 with exc := e, downDone := r1.downDone ++ [k] } lo w

/-- Chunk k of an ALL_GATHER or BROADCAST: the root's bytes travel down, once the root's commit notice allows it (R265). -/
def pumpBytes (s : State) (c : CoreId) (x : KCtx) (run : ColRun) (k : Nat) : State × ColRun :=
  let d := run.desc
  if run.downDone.contains k then (s, run)
  else
    let lo := kLo d x.size k
    let n := kLen d x.size k
    let dst := kDst d + (if kCop d = 4 then k * kCount d else lo)
    let fin (b : Bytes) : State × ColRun :=
      let (s1, r1) := sendDown s c run x k b 0
      (wrMem s1 dst b, { r1 with upDone := r1.upDone ++ [k], downDone := r1.downDone ++ [k] })
    match kParent x (kRoot d) k x.me with
    | none => fin (rdMem s (kSrc d + lo) n)
    | some p =>
      let origin := memberId x.group (myId s) (if kCop d = 4 then k else kRoot d)
      if !gatherOk s origin then (s, run)
      else
        match msgFrom s (getCore s c).recv d k p with
        | some m => fin m.1
        | none => (s, run)

/-- R271: a ring round: the block goes to the successor once its credit is there, the predecessor's block is written. -/
def pumpRing (s : State) (c : CoreId) (x : KCtx) (run : ColRun) : State × ColRun :=
  let d := run.desc
  let key := (kSched d, kRound d, kSeq d)
  let cr := (getCore s c).credits
  let (s1, r1) :=
    if !run.upDone.contains 0 && cr.contains key then
      let (t, r) := sendFor (updCore s c fun y => { y with credits := y.credits.erase key }) c run x 0
        ((x.me + 1) % x.size) (rdMem s (kSrc d) (kCount d)) 0
      (t, { r with upDone := [0] })
    else (s, run)
  if r1.downDone.contains 0 then (s1, r1)
  else
    match msgFrom s1 (getCore s1 c).recv d 0 ((x.me + x.size - 1) % x.size) with
    | some m => (wrMem s1 (kDst d) m.1, { r1 with downDone := [0] })
    | none => (s1, r1)

/-- One collective goes as far as its messages allow. -/
def pumpRun (s : State) (c : CoreId) (run : ColRun) : State × ColRun :=
  match kCtx s (kSched run.desc) with
  | none => (s, run)
  | some x =>
    if kCop run.desc = 6 then pumpRing s c x run
    else
      (kChunks run.desc x.size).foldl (fun acc k =>
        if kMerges run.desc then
          let r := pumpUp acc.1 c x acc.2 k
          if kCop run.desc = 2 then pumpDown r.1 c x r.2 k else r
        else pumpBytes acc.1 c x acc.2 k) (s, run)

def replaceRun (l : List ColRun) (r : ColRun) : List ColRun := l.map fun q => if q.ord = r.ord ∧ q.desc = r.desc then r else q

/-- Every collective of a core, while the step runs. -/
def pumpCore (s : State) (c : CoreId) : State :=
  (getCore s c).cols.foldl (fun s r =>
    if suspended s || opStalled s c r.ord || s.stp.state == .aborting then s
    else
      let (s1, r1) := pumpRun s c r
      updCore s1 c fun y => { y with cols := replaceRun y.cols r1 }) s

def kDone (s : State) (r : ColRun) : Bool :=
  match kCtx s (kSched r.desc) with
  | none => false
  | some x => (kChunks r.desc x.size).all fun k => r.upDone.contains k && r.downDone.contains k

/-- R263: whether every message that a collective sent is delivered. -/
def kDelivered (s : State) (r : ColRun) : Bool :=
  r.sent.all fun t => !(s.fab.outstanding.any fun o => o.1 == t)

/-- The largest number of merges on one element. -/
def kTerms (s : State) (r : ColRun) : Nat :=
  if !kMerges r.desc then 0
  else
    match kCtx s (kSched r.desc) with
    | none => 0
    | some x => ((kChunks r.desc x.size).map fun k => (kKids x (kRoot r.desc) k x.me).length).foldl Nat.max 0

/-! Receive slots (R264). -/

/-- Whether a sender may send for a chunk of a schedule: a child host upwards, the parent host downwards, the ring
predecessor. -/
def senderOk (x : KCtx) (root k m : Nat) : Bool :=
  let cop := x.sched.cop
  if cop = 6 then k == 0 && m == (x.me + x.size - 1) % x.size
  else
    decide (k < x.size) && decide (m < x.size) &&
      ((decide (cop ≤ 3) && (kKids x root k x.me).contains m) ||
        ((cop == 2 || cop == 4 || cop == 5) && kParent x root k x.me == some m))

/-- The root that a descriptor in progress names for a message's instance. -/
def runRoot (y : Core) (sched seq : Nat) : Option Nat :=
  (y.cols.find? fun r => kSched r.desc == sched && kSeq r.desc == seq).map fun r => kRoot r.desc

/-- R264: whether a member may send for a chunk of an instance. Where the tree depends on a root that only the descriptor
names, and no descriptor has started, a sender under some root passes here; the descriptor's start tests it again. -/
def arrivalOk (x : KCtx) (y : Core) (sched seq k m : Nat) : Bool :=
  if x.sched.rotate = 0 ∧ (x.sched.cop = 3 ∨ x.sched.cop = 5) then
    match runRoot y sched seq with
    | some r => senderOk x r k m
    | none => (List.range x.size).any fun r => senderOk x r k m
  else senderOk x 0 k m

/-- Whether another instance still holds the slot of (sched, seq). -/
def slotTaken (s : State) (y : Core) (runahead sched seq : Nat) (attempt : W32) : Bool :=
  let slot := seq % (runahead + 2)
  (y.recv.any fun g => g.attempt == attempt && g.sched == sched && g.seq != seq && g.seq % (runahead + 2) == slot) ||
    (attempt == s.stp.curTag &&
      y.cols.any fun r => kSched r.desc == sched && kSeq r.desc != seq && kSeq r.desc % (runahead + 2) == slot)

/-- The part that a transaction carries. -/
def partOf (t : Txn) : MsgPart :=
  { part := txnFld t 32 2, scale := fld32 t.fields 20, elemOff := txnFld t 40 4, data := t.data }

def isMsg (t : Txn) (g : Msg) : Bool :=
  g.attempt == fld32 t.fields 12 && g.sched == txnFld t 16 2 && g.seq == txnFld t 24 4 && g.chunk == txnFld t 18 3 &&
    g.member == txnFld t 21 3

/-- A part placed in its message; none where it is a second one. -/
def addPart (l : List Msg) (t : Txn) : Option (List Msg) :=
  match l.find? (isMsg t) with
  | none => some (l ++ [{ attempt := fld32 t.fields 12, sched := txnFld t 16 2, seq := txnFld t 24 4,
                          chunk := txnFld t 18 3, member := txnFld t 21 3, parts := txnFld t 34 2, got := [partOf t] }])
  | some g =>
    if g.parts ≠ txnFld t 34 2 ∨ g.got.any fun p => p.part == txnFld t 32 2 then none
    else some (l.map fun h => if isMsg t h then { h with got := h.got ++ [partOf t] } else h)

/-- R264: the bytes of the receive slot that a message goes into are undefined to a program: they become free, line by line. -/
def spoilSlot (s : State) (c : CoreId) (x : KCtx) (seq : Nat) : State :=
  match (planParts s).find? fun p => partHas p 1 with
  | none => s
  | some p =>
    let off := x.sched.recvOff + seq % (x.runahead + 2) * recvSlot x
    bumpFresh ((List.range (recvSlot x / 64)).foldl (fun t i =>
      wrMem t (concatAddr (partRanges p c) (off + 64 * i)) (sub (Config.freeBytes s.fresh (64 * i)) 0 64)) s)

/-- REDUCE_TRANSACTION (R264): a part arrives at the core that its message is for. -/
def recvReduce (s : State) (c : CoreId) (t : Txn) : State :=
  let s := takeLanded s t
  let tag := fld32 t.fields 12
  let rail := railOfDie c.die.val
  if tag.toNat < s.stp.curTag.toNat then sendComplOn s rail t 0
  else if !epochOk s t.epoch then sendComplOn (epochFault s) rail t 3
  else
    let y := getCore s c
    let sched := txnFld t 16 2
    let seq := txnFld t 24 4
    let part := txnFld t 32 2
    let ok := match kCtxAt s t.epoch sched with
      | none => false
      | some x =>
        arrivalOk x y sched seq (txnFld t 18 3) (txnFld t 21 3) && !slotTaken s y x.runahead sched seq tag && !(tag == s.stp.curTag && y.doneCols.contains (sched, seq))
    match (if ok && decide (part < txnFld t 34 2) then addPart y.recv t else none) with
    | none => sendComplOn (sequenceFault s) rail t 0
    | some l =>
      let s1 := match kCtxAt s t.epoch sched with
        | some x => spoilSlot s c x seq
        | none => s
      pumpCore (sendComplOn (setCore s1 c { y with recv := l }) rail t 0) c

/-! Start and completion. -/

/-- R264: messages that waited for a descriptor and come from no sender of its tree. -/
def strangers (s : State) (y : Core) (d : Bytes) (x : KCtx) : List Msg :=
  y.recv.filter fun g => g.attempt == s.stp.curTag && g.sched == kSched d && g.seq == kSeq d &&
    !senderOk x (kRoot d) g.chunk g.member

/-- A descriptor that fails during an attempt also aborts it (R262). -/
def failCol (s : State) (c : CoreId) (k : Check) : State :=
  let s1 := failCheck s c 0x5001 k
  match k with
  | .stateWrite _ => s1
  | _ => if s1.stp.att.isSome then startAbort s1 cFault else s1

/-- R264: whether the slot that a collective starts in still holds another instance, or this one runs already. -/
def slotClash (s : State) (y : Core) (d : Bytes) (x : KCtx) : Bool :=
  slotTaken s y x.runahead (kSched d) (kSeq d) s.stp.curTag ||
    y.cols.any fun r => kSched r.desc == kSched d && kSeq r.desc == kSeq d

/-- A collective in progress before any of its work. -/
def newRun (s : State) (d : Bytes) (job : Option StageJob) (ord : Nat) : ColRun :=
  { desc := d, job := job, epoch := s.stp.epoch, attempt := s.stp.curTag, upDone := [], downDone := [], sent := [],
    exc := excFresh 3, ord := ord }

/-- A collective begins: the residue words it narrows are counted (R258), a ring round sends its credit, and it goes as far as
it can. -/
def launchCol (s : State) (c : CoreId) (run : ColRun) (x : KCtx) : State :=
  let d := run.desc
  let s1 := updCore s c fun y =>
    { y with cols := y.cols ++ [run],
             quant := y.quant ++ narrowWords s d x }
  let s2 := if kCop d = 6 then
      { s1 with bus := { s1.bus with ring := s1.bus.ring ++
          [(memberId x.group (myId s1) ((x.me + x.size - 1) % x.size), coreIdx c, kSched d, kRound d, kSeq d)] } }
    else s1
  pumpCore s2 c

/-- R264: a start that breaks the order of the exchange: the messages that break it go, and the attempt aborts. -/
def breakOrder (s : State) (c : CoreId) (bad : List Msg) : State :=
  startAbort (raise (updCore s c fun y => { y with recv := y.recv.filter fun g => !bad.contains g }) 0x5102 (srcCore c) [])
    cFault

/-- A validated collective starts: its tokens are consumed. -/
def beginCol (s : State) (c : CoreId) (e : QEntry) (rest : List QEntry) (d : Bytes) (x : KCtx) : State :=
  let y := getCore s c
  let bad := strangers s y d x
  if slotClash s y d x || !bad.isEmpty then breakOrder (setCore s c { y with colQ := rest }) c bad
  else launchCol (setCore s c { consume y e with colQ := rest }) c (newRun s d none e.ord) x

/-- The head of a core's collective queue starts, for the command of its operation code; an undefined code fails under any
of them. -/
def startCol (cop : Nat) (s : State) (c : CoreId) : State :=
  let y := getCore s c
  match y.colQ with
  | [] => s
  | e :: rest =>
    if suspended s || y.stopped || !ready s y e then s
    else
      let d := desc128 s e
      if kCop d ≠ cop ∧ 1 ≤ kCop d ∧ kCop d ≤ 6 then s
      else
        match colCheck s c d, kCtx s (kSched d) with
        | .ok, some x => beginCol s c e rest d x
        | k, _ => failCol (setCore s c { y with colQ := rest }) c k

/-- What a stage job leaves: the norm's root goes into the attempt and STP_NORMSQ (R232). -/
def endJob (s : State) (j : StageJob) : State :=
  match j, s.stp.att with
  | .norm _ out, some a =>
    let n := (storeDword (deepOf out)).1
    { s with stp := { s.stp with att := some { a with norm := some n }, normHi := n.1 } }
  | _, _ => s

/-- R263: a collective whose work and messages are done writes its record and signals; one of the stages after the runs ends
its job, with a record that the firmware's program keeps at an address of its own. -/
def completeCol (s : State) (c : CoreId) (slot : Nat) : State :=
  let s := pumpCore s c
  let y := getCore s c
  match y.cols[slot]? with
  | none => s
  | some r =>
    if suspended s || opStalled s c r.ord || s.stp.state == .aborting || !kDone s r || !kDelivered s r then s
    else
      let d := r.desc
      let rec_ : ExcRec := { r.exc with terms := kTerms s r, leaf := List.replicate 8 0xFFFF }
      let mine (g : Msg) : Bool := g.attempt == s.stp.curTag && g.sched == kSched d && g.seq == kSeq d
      let s1 := setCore s c { y with cols := dropAt y.cols slot, recv := y.recv.filter (! mine ·),
                                     doneCols := (kSched d, kSeq d) :: y.doneCols }
      match r.job with
      | none => signalField (finalRecord (wrMem s1 (kExc d) (excBytes rec_)) c rec_ (kExc d)) c (kSig d)
      | some j => endJob (finalRecord (bumpFresh s1) c rec_ (Config.programRecord s.fresh)) j

/-- R271: a credit from the ring successor. -/
def ringCredit (s : State) (c : CoreId) (sched round seq : Nat) : State :=
  let s1 := updCore s c fun y => { y with credits := y.credits ++ [(sched, round, seq)] }
  pumpCore s1 c

/-- REDUCE_SCATTER (R261). -/
def execReduceScatter (c : CoreId) (s : State) : Host.Outcome State Fault Refusal := .next (startCol 1 s c)
/-- ALL_REDUCE (R261). -/
def execAllReduce (c : CoreId) (s : State) : Host.Outcome State Fault Refusal := .next (startCol 2 s c)
/-- REDUCE (R261). -/
def execReduce (c : CoreId) (s : State) : Host.Outcome State Fault Refusal := .next (startCol 3 s c)
/-- ALL_GATHER (R261). -/
def execAllGather (c : CoreId) (s : State) : Host.Outcome State Fault Refusal := .next (startCol 4 s c)
/-- BROADCAST (R261). -/
def execBroadcast (c : CoreId) (s : State) : Host.Outcome State Fault Refusal := .next (startCol 5 s c)
/-- RING_STEP (R271). -/
def execRingStep (c : CoreId) (s : State) : Host.Outcome State Fault Refusal := .next (startCol 6 s c)
/-- RING_CREDIT (R271). -/
def execRingCredit (c : CoreId) (sched round : BitVec 16) (seq : W32) (s : State) : Host.Outcome State Fault Refusal :=
  .next (ringCredit s c sched.toNat round.toNat seq.toNat)
/-- REDUCE_TRANSACTION (R264). -/
def execReduceTransaction (c : CoreId) (t : Txn) (s : State) : Host.Outcome State Fault Refusal := .next (recvReduce s c t)

end Sys2Proof.Machine
end

