-- ==== Sys2Proof/Machine/Exchange.lean ====
section
/-! DEFINITION. What devices tell each other during an attempt (spec R227, R234, R235, R238–R240, R269, R270, R272): the
verdict, the tally with its decision and repair, commit notices and aborts. -/
namespace Sys2Proof.Machine
open Sys2Proof

/-! Collective-control fields (R299). -/

def ccKind (t : Txn) : Nat := txnFld t 16 1
def ccCause (t : Txn) : Nat := txnFld t 18 2
def ccMember (t : Txn) : Nat := txnFld t 20 3
def ccStep (t : Txn) : W64 := fld64 t.fields 8
def ccData (t : Txn) : Nat := txnFld t 32 8
def ccTag (t : Txn) : W32 := fld32 t.fields 24

/-- Every collective of every core goes as far as its messages and notices allow. -/
def pumpAll (s : State) : State :=
  (s.cores.map fun p => p.1).foldl (fun s k => pumpCore s (coreOfIdx k)) s

def setAtt (s : State) (a : Attempt) : State := { s with stp := { s.stp with att := some a } }

/-! The verdict (R234, R235). -/

/-- R234: G² against L, L² compared exactly. -/
def verdictOf (lossBad : Bool) (g2 : Num) (l : Num) : Verdict :=
  if lossBad then .noCommit cLoss
  else if isNan g2 || isInf g2 then .noCommit cGrad
  else if numLt (numMul l l).1 g2 then .noCommit cOverlimit
  else .commit

/-- R235: the attempt ends without a commit. -/
def noCommit (s : State) (a : Attempt) (cause : BitVec 12) : State :=
  let skip := ((curPlan s).map fun p => p.policy.skip).getD false
  let (s1, diverged) := closeAttempt s a (if skip then verSkipped else verStopped) (cause ||| a.held) (zeroBytes 16)
  let s2 := { s1 with stp := { s1.stp with skips := satInc32 s1.stp.skips } }
  let code := if skip then 0x4101 else 0x4102
  let s3 := raise s2 code srcDevice []
  let s4 := if skip && !diverged then settleState s3 .idle
    else enterState { s3 with stp := { s3.stp with stopPend := false } } .stopped
  endControl s4 a.job 0 code

/-- R234: the verdict, once the norm and the job's ORed latch are known. -/
def decideVerdict (s : State) : State :=
  match s.stp.att with
  | none => s
  | some a =>
    if suspended s || s.stp.state != .normCheck || a.verdict.isSome then s
    else
      match a.norm, a.jobLoss with
      | some n, some bad =>
        let l := decode .fp32 (((curPlan s).map fun p => p.policy.normLimit.toNat).getD 0x7F800000)
        match verdictOf bad (dwordVal n.1 n.2) l with
        | .commit => setAtt s { a with verdict := some .commit }
        | .noCommit c => noCommit (setAtt s { a with verdict := some (.noCommit c) }) { a with verdict := some (.noCommit c) } c
      | _, _ => s

/-- R269: VERDICT_UP once this member's own latch and every child's are known; the root answers with VERDICT_DOWN. -/
def tryVerdictUp (s : State) : State :=
  match s.stp.att with
  | none => s
  | some a =>
    if suspended s || s.stp.state == .aborting || !a.reduced || a.upSent || !(jobKids s).all a.upFrom.contains then s
    else
      let bad := a.lossOr || s.cores.any fun p => p.2.lossBad
      match jobParent s with
      | some p =>
        sendJob (setAtt s { a with lossOr := bad, upSent := true }) ckVerdictUp 0 a.step a.tag (b2n bad) [jobMemberId s p]
      | none =>
        let s1 := setAtt s { a with lossOr := bad, upSent := true, jobLoss := some bad }
        decideVerdict (sendJob s1 ckVerdictDown 0 a.step a.tag (b2n bad) ((jobKids s).map (jobMemberId s)))

/-- A message of an attempt by its tag (R269): dropped, kept for its attempt, or taken. -/
inductive TagCase where
  | old
  | now
  | later
  deriving DecidableEq, Repr

def tagCase (s : State) (tag : W32) : TagCase :=
  if tag.toNat < s.stp.curTag.toNat then .old else if tag = s.stp.curTag then .now else .later

def keepTxn (s : State) (t : Txn) : State := { s with stp := { s.stp with kept := s.stp.kept ++ [t] } }

def setEnded (s : State) (e : EndedAtt) : State := { s with stp := { s.stp with ended := e } }

/-- R269: a VERDICT_UP of the current attempt, or of the last one once it has ended. -/
def takeVerdictUp (s : State) (t : Txn) : State :=
  match s.stp.att with
  | none =>
    let e := s.stp.ended
    if !(jobKids s).contains (ccMember t) || e.upFrom.contains (ccMember t) then sequenceFault s
    else setEnded s { e with upFrom := e.upFrom ++ [ccMember t] }
  | some a =>
    if !(jobKids s).contains (ccMember t) || a.upFrom.contains (ccMember t) then sequenceFault s
    else
      tryVerdictUp (setAtt s { a with upFrom := a.upFrom ++ [ccMember t], lossOr := a.lossOr || bitOf (ccData t) 0 == 1 })

/-- R269: a VERDICT_DOWN likewise. -/
def takeVerdictDown (s : State) (t : Txn) : State :=
  match s.stp.att with
  | none =>
    let e := s.stp.ended
    if jobParent s != some (ccMember t) || e.down then sequenceFault s else setEnded s { e with down := true }
  | some a =>
    if jobParent s != some (ccMember t) || a.jobLoss.isSome then sequenceFault s
    else
      let bad := bitOf (ccData t) 0 == 1
      let s1 := setAtt s { a with jobLoss := some bad }
      decideVerdict (sendJob s1 ckVerdictDown 0 a.step a.tag (b2n bad) ((jobKids s).map (jobMemberId s)))

/-- R270: an ABORT with this attempt's tag. -/
def takeAbort (s : State) : State := if s.stp.att.isSome then startAbort s cRemote else s

/-! The tally (R237–R240, R272). -/

def replicaSize (s : State) : Nat := ((replicaGroup s).map groupSize).getD 1
def replicaIndex (s : State) : Nat := ((replicaGroup s).map fun g => memberIndex g (myId s)).getD 0

/-- How many members hold a digest. -/
def votes (ds : List (Nat × Bytes)) (d : Bytes) : Nat := (ds.filter fun p => p.2 == d).length

/-- R239: the digest that more than half of n members hold. -/
def majority (ds : List (Nat × Bytes)) (n : Nat) : Option Bytes :=
  (ds.find? fun p => decide (n < 2 * votes ds p.2)).map fun p => p.2

def ownDigest (s : State) (a : Attempt) : Bytes :=
  ((a.digests.find? fun p => p.1 == replicaIndex s).map fun p => p.2).getD (zeroBytes 16)

/-- The decision of R239, once every member's digest is held. -/
def decideTally (s : State) : State :=
  match s.stp.att with
  | none => s
  | some a =>
    let n := replicaSize s
    if suspended s || s.stp.state != .tally || decide (4 ≤ a.point) || decide (a.digests.length < n) then s
    else
      let a := { a with point := 4 }
      let mine := ownDigest s a
      match majority a.digests n with
      | some v =>
        if v = mine then commitAttempt (setAtt s a) a 0 mine
        else raise (setAtt s { a with point := 5, repairing := true }) 0x4105 srcDevice []
      | none => stopAttempt (raise (setAtt s a) 0x4106 srcDevice []) a cNomaj

/-- R272: whether a tally comes from another member of REPLICA_GROUP, of a step and of the receiver's epoch. -/
def tallyOk (s : State) (t : Txn) (step : W64) : Bool :=
  let m := txnFld t 28 3
  fld64 t.fields 0 == step && t.epoch == s.stp.epoch &&
    (match replicaGroup s with
      | some g => decide (m < groupSize g) && t.src.toNat == memberId g (myId s) m && m != replicaIndex s
      | none => false)

/-- R272: a digest with the tag of the current attempt, or of the last one once it has ended. -/
def takeTally (s : State) (t : Txn) : State :=
  let m := txnFld t 28 3
  match s.stp.att with
  | none =>
    let e := s.stp.ended
    if !tallyOk s t e.step || e.tallyFrom.contains m then sequenceFault s
    else setEnded s { e with tallyFrom := e.tallyFrom ++ [m] }
  | some a =>
    if !tallyOk s t a.step || a.digests.any fun p => p.1 == m then sequenceFault s
    else decideTally (setAtt s { a with digests := a.digests ++ [(m, sub t.fields 16 16)] })

/-- The digest and its exchange: points 2 and 3 of R238. -/
def startTally (s : State) (a : Attempt) (d : Bytes) (k0 : Nat) : State :=
  let me := replicaIndex s
  let s1 := setAtt s { a with point := if replicaSize s = 1 then 2 else 3, digests := a.digests ++ [(me, d)] }
  let f := txnFields [(16, le64 a.step), (24, toLe 4 k0), (28, toLe 3 me), (32, sub d 0 16)]
  let r := (groupPeers s1 (replicaGroup s1)).foldl (fun (acc : State × Bool) dst =>
    let (x, t) := sendTxn acc.1 (hmRail acc.1) (mkTxn acc.1 .tally 1 dst f (le32 a.tag ++ zeroBytes 12)) .control
    (x, acc.2 && (t.isSome || traceReplay x))) (s1, true)
  decideTally (if r.2 then r.1 else startAbort r.1 cFault)

/-! Arrival. -/

/-- A message with an attempt tag: answered, and taken, kept or dropped. Outside the lock a tally of the current tag
tests its epoch itself (R272). -/
def recvTagged (s : State) (t : Txn) (tag : W32) (take : State → State) : State :=
  let s := takeLanded s t
  match tagCase s tag with
  | .old => sendCompl s t 0
  | .later => sendCompl (keepTxn s t) t 0
  | .now => if (t.type == .tally && s.lock.isNone) || epochOk s t.epoch then sendCompl (take s) t 0 else sendCompl (epochFault s) t 3

/-- R270: an ABORT is forwarded the first time its tag is seen, whatever attempt runs; later copies do nothing. -/
def recvAbort (s : State) (t : Txn) : State :=
  let s := takeLanded s t
  let tag := ccTag t
  let seen := s.stp.abortsSeen.contains tag
  match tagCase s tag with
  | .old => sendCompl s t 0
  | c =>
    if !epochOk s t.epoch && c == .now then sendCompl (epochFault s) t 3
    else if seen then sendCompl s t 0
    else
      let s1 := floodAbort s (ccCause t) (ccStep t) tag (some (ccMember t))
      sendCompl (if c = .now then takeAbort s1 else keepTxn s1 t) t 0

/-- R227: the newest commit step of a shard-group member. -/
def recvCommit (s : State) (t : Txn) : State :=
  let s := takeLanded s t
  if !epochOk s t.epoch then sendCompl (epochFault s) t 3
  else
    let s1 := { s with stp := { s.stp with commits := smSet 0 s.stp.commits t.src.toNat (ccStep t) } }
    pumpAll (sendCompl s1 t 0)

/-- What an attempt kept for itself while it had not started (R269, R272), in order of arrival. -/
def takeKept (s : State) : State :=
  let mine (t : Txn) : Bool :=
    (t.type == .tally && fld32 t.data 0 == s.stp.curTag) ||
      (t.type == .cctl && decide (ccKind t ≤ ckAbort) && ccTag t == s.stp.curTag)
  let old (t : Txn) : Bool :=
    (t.type == .tally && decide ((fld32 t.data 0).toNat < s.stp.curTag.toNat)) ||
      (t.type == .cctl && decide (ccKind t ≤ ckAbort) && decide ((ccTag t).toNat < s.stp.curTag.toNat))
  let ts := s.stp.kept.filter mine
  let s1 := { s with stp := { s.stp with kept := s.stp.kept.filter fun t => !mine t && !old t } }
  ts.foldl (fun s t =>
    if t.type = .tally then takeTally s t
    else if !epochOk s t.epoch then epochFault s
    else if ccKind t = ckVerdictUp then takeVerdictUp s t
    else if ccKind t = ckVerdictDown then takeVerdictDown s t
    else takeAbort s) s1

/-- R240: the copy of the alternate-bank shards from the majority source ends. -/
def repairWrites (s : State) (copies : List ShardCopy) : State :=
  let b := (bankRange s 1).1
  let recs := ((curLayout s).map fun l => l.shards).getD []
  (recs.zip copies).foldl (fun s p =>
    wrMem (wrMem s (b + p.1.offset) (sub p.2.bytes 0 p.1.bytes)) (b + p.1.tagOff) (sub p.2.tag 0 16)) s

/-- COMMIT (R227). -/
def execCommit (t : Txn) (s : State) : Host.Outcome State Fault Refusal := .next (recvCommit s t)
/-- VERDICT_UP (R269). -/
def execVerdictUp (t : Txn) (s : State) : Host.Outcome State Fault Refusal :=
  .next (recvTagged s t (ccTag t) fun s => takeVerdictUp s t)
/-- VERDICT_DOWN (R269). -/
def execVerdictDown (t : Txn) (s : State) : Host.Outcome State Fault Refusal :=
  .next (recvTagged s t (ccTag t) fun s => takeVerdictDown s t)
/-- ABORT (R270). -/
def execAbort (t : Txn) (s : State) : Host.Outcome State Fault Refusal := .next (recvAbort s t)
/-- TALLY (R272). -/
def execTally (t : Txn) (s : State) : Host.Outcome State Fault Refusal :=
  .next (recvTagged s t (fld32 t.data 0) fun s => takeTally s t)

end Sys2Proof.Machine
end

