-- ==== Sys2Proof/Machine/Ballast.lean ====
section
/-! DEFINITION. The Ballast (spec R338–R342): lists, the cache and its directory, page-in, write-back, the wear governor. -/
namespace Sys2Proof.Machine
open Sys2Proof

def emptyVer : W64 := 0xFFFFFFFFFFFFFFFF#64

def balRow (s : State) : Nat := ((holdCfg s).map fun h => h.balRow).getD 0
def balSlots (s : State) : Nat := ((holdCfg s).map fun h => h.balSlots).getD 0
/-- Whether the plan has a Ballast. -/
def hasBallast (s : State) : Bool := ((holdCfg s).map fun h => decide (0 < h.balRows)).getD false

/-! Lists (R339). -/

def balListAddr (s : State) (p : Nat) : Nat := ((holdCfg s).map fun h => h.balList + p * h.balLStride).getD 0
def balCount (s : State) (p : Nat) : Nat := rdElem s (balListAddr s p) 4
def balRowsOf (s : State) (p : Nat) : List Nat :=
  (List.range (balCount s p)).map fun i => rdElem s (balListAddr s p + 16 + 8 * i) 8
def balListBytes (s : State) (p : Nat) : Bytes := rdMem s (balListAddr s p) (16 + 8 * balCount s p)

def ascending : List Nat → Bool
  | x :: y :: rest => decide (x < y) && ascending (y :: rest)
  | _ => true

/-- R339: whether the list of a pass of a step keeps the rules. -/
def balListOk (s : State) (step : W64) (p : Nat) : Bool :=
  match holdCfg s with
  | none => true
  | some h =>
    let a := balListAddr s p
    inHbm s a (16 + 8 * balCount s p) && decide (balCount s p ≤ h.balSlots) && zeros (rdMem s (a + 4) 4) 0 4 &&
      fld64 (rdMem s (a + 8) 8) 0 == step && ascending (balRowsOf s p) && (balRowsOf s p).all fun r => decide (r < h.balRows)

/-- R325: the digest over an attempt's lists in pass order. -/
def balListsDigest (s : State) (np : Nat) : Bytes :=
  if hasBallast s then digest32 (((List.range np).map (balListBytes s)).flatten) else zeroBytes 32

/-! The cache (R338). -/

def getSlotB (s : State) (i : Nat) : BalSlot := smGet BalSlot.init s.hold.cache i
def setSlotB (s : State) (i : Nat) (x : BalSlot) : State :=
  { s with hold := { s.hold with cache := smSet BalSlot.init s.hold.cache i x } }

def halfAddr (s : State) (i half : Nat) : Nat :=
  ((holdCfg s).map fun h => h.balCache + (2 * i + half) * h.balRow).getD 0

/-- R338: the current half: the greater VER not above C. -/
def curHalf (s : State) (x : BalSlot) : Nat :=
  let c := s.stp.c.toNat
  if x.ver1.toNat ≤ c ∧ (c < x.ver0.toNat ∨ x.ver0.toNat < x.ver1.toNat) then 1 else 0
def verOf (x : BalSlot) (half : Nat) : W64 := if half = 0 then x.ver0 else x.ver1
def curVer (s : State) (x : BalSlot) : W64 := verOf x (curHalf s x)

/-- The slot that holds a row. -/
def slotOfRow (s : State) (row : Nat) : Option Nat :=
  (s.hold.cache.find? fun p => p.2.row == some row).map fun p => p.1

/-- The newest durable version of a row. -/
def newestOf (l : List BallastRow) (row : Nat) : Option BallastRow :=
  (l.filter fun v => v.row == row).foldl (fun best v =>
    match best with
    | none => some v
    | some b => if b.ver.toNat < v.ver.toNat then some v else some b) none

/-- R340: a row is dirty while its current version is above its newest durable one. -/
def slotDirty (s : State) (x : BalSlot) : Bool :=
  match x.row with
  | none => false
  | some r =>
    let v := curVer s x
    decide (v ≠ emptyVer) && decide (v.toNat ≤ s.stp.c.toNat) &&
      (match newestOf s.hold.bal r with
        | some d => decide (d.ver.toNat < v.toNat)
        | none => true)

def dirtyRows (s : State) : Nat := (s.hold.cache.filter fun p => slotDirty s p.2).length

/-! Versions kept (R341). -/

def sealedSteps (s : State) : List Nat :=
  ([0, 1].filter fun i => decide ((getSlot s i).st = .sealed)).map fun i => (hdrStep (getSlot s i).header).toNat

/-- The versions that stay: the newest of each row, and each sealed own slot's newest not above its STEP. -/
def keepVersions (steps : List Nat) (l : List BallastRow) : List BallastRow :=
  l.filter fun v =>
    newestOf l v.row == some v ||
      steps.any fun st => newestOf (l.filter fun w => decide (w.ver.toNat ≤ st)) v.row == some v

/-- The steps of the snapshots that are not sealed yet: the one that drains and those that wait. -/
def drainSteps (s : State) : List Nat :=
  ((s.hold.drain.toList.filter fun d => decide (d.point < 4)) ++ s.hold.snapQueue).map fun d => (hdrStep d.header).toNat

/-- A version programmed, metered with what the Hold relocates for it (R342); one with the same row and VER is replaced. -/
def addVersion (s : State) (v : BallastRow) : State :=
  let l := (s.hold.bal.filter fun w => !(w.row == v.row && w.ver == v.ver)) ++ [v]
  let n := balRow s + Config.relocation s.hold.balProg
  { s with hold := { s.hold with bal := keepVersions (sealedSteps s ++ drainSteps s) l, bucket := s.hold.bucket - n,
                                 balProg := s.hold.balProg + n } }

/-! The wear governor (R342). -/

def bucketMax (s : State) : Nat := ((holdCfg s).map fun h => h.balBytes / 128).getD 0
def batchBytes : Nat := 8 * 2 ^ 20

/-- R341: a half of a slot is programmed as a version. -/
def writeBackHalf (s : State) (i half : Nat) : State :=
  let x := getSlotB s i
  match x.row with
  | none => s
  | some r => addVersion s { row := r, ver := verOf x half, bytes := rdMem s (halfAddr s i half) (balRow s) }

/-- R342: room in a batch of 8 MiB for one forced program: the open batch, or a new one while the bucket holds it. -/
def openBatch (s : State) : Option State :=
  if s.hold.batch ≠ 0 then some s
  else if batchBytes ≤ s.hold.bucket then some { s with hold := { s.hold with batch := batchBytes } } else none

/-- A forced write-back (R342): within the open batch, else with a new one; none where it must wait. -/
def forceHalf (s : State) (i half : Nat) : Option State :=
  (openBatch s).map fun s1 =>
    let s2 := writeBackHalf s1 i half
    { s2 with hold := { s2.hold with batch := s2.hold.batch - balRow s } }

/-- No batch is open: what was forced is programmed, or a batch that is not full goes out as it is. -/
def closeBatch (s : State) : State := { s with hold := { s.hold with batch := 0 } }

/-- The half of a slot that was current at a step: the greater VER not above it. -/
def halfAt (x : BalSlot) (step : Nat) : Option Nat :=
  let ok (h : Nat) : Bool := verOf x h != emptyVer && decide ((verOf x h).toNat ≤ step)
  if ok 1 && (!ok 0 || decide (x.ver0.toNat < x.ver1.toNat)) then some 1 else if ok 0 then some 0 else none

/-- The half whose version a snapshot at a step relies on, where that version is not durable (R319, point 3). -/
def snapNeeds (s : State) (x : BalSlot) (step : Nat) : Option Nat :=
  match x.row, halfAt x step with
  | some r, some h => if s.hold.bal.any fun v => v.row == r && v.ver == verOf x h then none else some h
  | _, _ => none

/-- The slots with a version that a snapshot at STEP relies on and that is not durable. -/
def snapDirty (s : State) (step : W64) : List Nat :=
  (s.hold.cache.filter fun p => (snapNeeds s p.2 step.toNat).isSome).map fun p => p.1

/-- The halves of a slot that are written back before it is reused: the current one where its row is dirty, and what a
snapshot that is not sealed relies on. -/
def halvesNeeded (s : State) (x : BalSlot) : List Nat :=
  ((if slotDirty s x then [curHalf s x] else []) ++ (drainSteps s).filterMap (snapNeeds s x)).eraseDups

/-- The lowest dirty row: the next one of the voluntary write-back. -/
def nextDirty (s : State) : Option Nat :=
  ((s.hold.cache.filter fun p => slotDirty s p.2).filterMap fun p => p.2.row).foldl (fun (best : Option Nat) r =>
    match best with
    | some b => some (Nat.min b r)
    | none => some r) none

/-- BALLAST_WRITE_BACK of a resident row: forced where the snapshot that drains relies on a version of it, in batches of 8
MiB, each begun while the bucket holds it; else voluntary, in ascending row order, while the bucket is at least half full. None is programmed during a
suspension, which pauses the snapshot's points (R319, log 95). That a batch gives each stack 1 MiB is a matter of place alone (log
95). -/
def writeBackRow (s : State) (row : Nat) : State :=
  match slotOfRow s row with
  | none => s
  | some i =>
    if suspended s || anyStackHolds s then s else
    let x := getSlotB s i
    let forced := match s.hold.drain with
      | some d => if d.point == 3 then snapNeeds s x (hdrStep d.header).toNat else none
      | none => none
    match forced with
    | some h =>
      match forceHalf s i h with
      | some s1 => if (s.hold.drain.map fun d => snapDirty s1 (hdrStep d.header)).getD [] = [] then closeBatch s1 else s1
      | none => raise s 0x7005 srcDevice []
    | none => if nextDirty s == some row && decide (bucketMax s ≤ 2 * s.hold.bucket) then writeBackHalf s i (curHalf s x) else s

/-! Page-in (R339, R340). -/

/-- The first slot number that the directory does not use. -/
def freeSlot (used : List Nat) : Nat → Nat → Nat
  | 0, k => k
  | n + 1, k => if used.contains k then freeSlot used n (k + 1) else k

/-- R340: the slot that is reused: not of the current list, lowest last use, then lowest row. -/
def victimSlot (s : State) (list : List Nat) : Option Nat :=
  let cand := s.hold.cache.filter fun p =>
    match p.2.row with
    | some r => !list.contains r
    | none => false
  (cand.foldl (fun (best : Option (Nat × BalSlot)) p =>
    match best with
    | none => some p
    | some b =>
      if p.2.lastUse < b.2.lastUse ∨ (p.2.lastUse = b.2.lastUse ∧ p.2.row.getD 0 < b.2.row.getD 0) then some p else some b)
    none).map fun p => p.1

/-- A row's newest durable version goes into half 0 of a slot, half 1 is emptied. A row with no version has no stated
contents: they are a free function of the plan and the row. -/
def fillSlot (s : State) (i row : Nat) : State :=
  let v := newestOf s.hold.bal row
  let b := match v with
    | some d => sub d.bytes 0 (balRow s)
    | none => sub (Config.ballastRow (planDigest s) row 0 []) 0 (balRow s)
  let ver := (v.map fun d => d.ver).getD 0
  setSlotB (wrMem s (halfAddr s i 0) b) i { row := some row, ver0 := ver, ver1 := emptyVer, lastUse := s.hold.useOrd }

/-- One listed row made resident; false where it must wait for the governor. -/
def pageRow (s : State) (list : List Nat) (row : Nat) : State × Bool :=
  match slotOfRow s row with
  | some i => (setSlotB s i { getSlotB s i with lastUse := s.hold.useOrd }, true)
  | none =>
    let used := s.hold.cache.map fun p => p.1
    let k := freeSlot used (used.length + 1) 0
    if k < balSlots s then (fillSlot s k row, true)
    else
      match victimSlot s list with
      | none => (s, false)
      | some i =>
        let hs := halvesNeeded s (getSlotB s i)
        if hs.isEmpty then (fillSlot s i row, true)
        else
          match hs.foldl (fun (r : Option State) h => r.bind fun s => forceHalf s i h) (some s) with
          | some s1 => (fillSlot s1 i row, true)
          | none => (s, false)

def pageRows (list : List Nat) : List Nat → State → State × Bool
  | [], s => (s, true)
  | r :: rs, s =>
    let (s1, ok) := pageRow s list r
    if ok then pageRows list rs s1 else (s1, false)

/-- R339: the slot table of a list: row, current-half address, other-half address. -/
def slotTableOf (s : State) (list : List Nat) : List (Nat × Nat × Nat) :=
  list.filterMap fun r => (slotOfRow s r).map fun i =>
    let h := curHalf s (getSlotB s i)
    (r, halfAddr s i h, halfAddr s i (1 - h))

/-- The first pass of the attempt whose list is not resident yet. -/
def nextPaged (a : Attempt) : Option Nat := (List.range a.np).find? fun p => !a.paged.contains p

/-- Whether the run of a pass has ended on every active core. -/
def passEnded (s : State) (p : Nat) : Bool := (activeCores s).all fun k => decide (p < (coreAt s k).run)

/-- BALLAST_PAGE_IN: the next pass's rows become resident and its slot table is written, once the pass before has ended on every
core: till then that one is the current pass, whose slots R340 keeps and whose table its program reads (R339). A wait is told once
per try. -/
def pageIn (s : State) : State :=
  match s.stp.att with
  | none => s
  | some a =>
    if suspended s || anyStackHolds s || s.stp.state != .passes || !hasBallast s then s
    else
      match nextPaged a with
      | none => s
      | some p =>
        if p ≠ 0 ∧ !passEnded s (p - 1) then s else
        let list := balRowsOf s p
        let s0 := { s with hold := { s.hold with useOrd := s.hold.useOrd + 1 } }
        let (s0, ok) := pageRows list list s0
        let s1 := closeBatch s0
        if ok then
          let s2 := { s1 with hold := { s1.hold with slotTable := slotTableOf s1 list } }
          { s2 with stp := { s2.stp with att := some { a with paged := a.paged ++ [p] } } }
        else raise { s1 with hold := { s1.hold with useOrd := s.hold.useOrd } } 0x7005 srcDevice []

/-- R338: the update writes the other half of every row of the attempt's lists with VER C + 1. The spec gives the bytes of
no Ballast update: they are a free function of the plan, the row, the version and the row's current bytes, so that equal
steps give equal bytes (R1). -/
def updateBallast (s : State) (a : Attempt) : State :=
  if !hasBallast s then s
  else
    let rows := ((List.range a.np).map (balRowsOf s)).flatten
    s.hold.cache.foldl (fun s p =>
      match p.2.row with
      | some r =>
        if rows.contains r then
          let h := 1 - curHalf s p.2
          let old := rdMem s (halfAddr s p.1 (1 - h)) (balRow s)
          let b := sub (Config.ballastRow (planDigest s) r (s.stp.c + 1).toNat old) 0 (balRow s)
          let s1 := wrMem s (halfAddr s p.1 h) b
          let y := if h = 0 then { p.2 with ver0 := s.stp.c + 1 } else { p.2 with ver1 := s.stp.c + 1 }
          setSlotB s1 p.1 y
        else s
      | none => s) s

/-- BALLAST_PAGE_IN (R339). -/
def execBallastPageIn (s : State) : Host.Outcome State Fault Refusal := .next (pageIn s)
/-- BALLAST_WRITE_BACK (R342). -/
def execBallastWriteBack (row : Nat) (s : State) : Host.Outcome State Fault Refusal := .next (writeBackRow s row)
/-- R342: the seconds of the design life, times 1,000. -/
def lifeMs (s : State) : Nat := ((holdCfg s).map fun h => h.balLife).getD 0 * 31557600 * 1000

/-- The bucket after some milliseconds: BAL_BYTES × 3,000 ÷ (BAL_LIFE × 31,557,600 s), up to its size; what is below one
byte counts at the next refill. -/
def refillBucket (s : State) (ms : Nat) : State :=
  let n := ((holdCfg s).map fun h => h.balBytes).getD 0 * 3000 * ms + s.hold.bucketRem
  { s with hold := { s.hold with bucket := Nat.min (s.hold.bucket + n / lifeMs s) (bucketMax s), bucketRem := n % lifeMs s } }

/-- WEAR_BUCKET_REFILL (R342). -/
def execWearBucketRefill (ms : Nat) (s : State) : Host.Outcome State Fault Refusal := .next (refillBucket s ms)

end Sys2Proof.Machine
end

