-- ==== Sys2Proof/Machine/Control.lean ====
section
/-! DEFINITION. The control order (spec R426, R427): the entry at its head, its start, its rejection, and the entry checks
every opcode shares. -/
namespace Sys2Proof.Machine
open Sys2Proof

/-- R427: the entry at the head of the control order, if it has an opcode and none runs. -/
def headEntry (s : State) (opc : Nat) : Option JobEnt :=
  match s.ctl.running, s.ctl.waiting with
  | none, j :: _ => if jobOpc j = opc then some j else none
  | _, _ => none

/-- The head starts. -/
def takeHead (s : State) (j : JobEnt) : State :=
  { s with ctl := { s.ctl with running := some j, waiting := s.ctl.waiting.drop 1 } }

/-- The head ends with job-invalid. -/
def rejectHead (s : State) (j : JobEnt) : State :=
  let s1 := { s with ctl := { s.ctl with waiting := s.ctl.waiting.drop 1 } }
  jobDone (raiseJobInvalid s1 j) j 1 0xC003

/-- R426: the header bits and the bytes that an opcode does not name; `named` are (first byte, length). -/
def entryForm (j : JobEnt) (named : List (Nat × Nat)) : Bool :=
  decide (jobByte j 1 < (if jobOpc j = 1 then 4 else 2)) && zeros j.bytes 2 2 &&
    (List.range 56).all fun i => (named.any fun r => decide (r.1 ≤ i + 8 ∧ i + 8 < r.1 + r.2)) || jobByte j (i + 8) == 0

/-- R427: what a STEP, EVAL_OPEN or RESHARD entry meets at the head. -/
inductive Gate where
  | start
  | reject
  | wait
  deriving DecidableEq, Repr

def entryGate (s : State) : Gate :=
  match s.stp.state with
  | .idle => .start
  | .stopped => .reject
  | .evaluation => .reject
  | _ => .wait

/-! What an attempt or a window starts with (R169, R221, R226, R392, R429). -/

def imageOf (s : State) (k : Nat) : Option Image := (curLayout s).bind fun l => l.images.find? fun i => i.core == k

/-- R429: the entry's 64 bytes in the first 64 bytes of every active core's image. -/
def writeEntry (s : State) (j : JobEnt) : State :=
  (((curLayout s).map fun l => l.images).getD []).foldl (fun s i =>
    wrMem s (coreBase (coreOfIdx i.core) + i.loadOff) (sub j.bytes 0 64)) s

/-- R221: every listed field holds the address of its offset in the bank that has its role. -/
def relocate (s : State) : State :=
  (((curLayout s).map fun l => l.relocs).getD []).foldl (fun s r =>
    match imageOf s r.core with
    | some i =>
      wrMem s (coreBase (coreOfIdx r.core) + i.loadOff + r.fieldOff) (toLe 6 ((bankRange s r.role).1 + r.bankOff))
    | none => s) s

/-- R225: a version tag. -/
def versionTag (step : W64) (epoch shard : W32) : Bytes := le64 step ++ le32 epoch ++ le32 shard

/-- R226: the expected tags in every active core. -/
def writeExpected (s : State) : State :=
  match curLayout s with
  | none => s
  | some l =>
    l.images.foldl (fun s i => l.shards.foldl (fun s x =>
      wrMem s (coreBase (coreOfIdx i.core) + x.expOff) (versionTag s.stp.c s.stp.epoch x.shard)) s) s

/-- A core at the start of an attempt or window: counters and statistics 0, nothing queued, wiring as the plan sets it. R126 and
R127 clear the statistics and the once-per-step marks at a step's start; that an evaluation window clears them too is the
model's (DESIGN CHOICE, log 97). -/
def freshCore (x : Core) (pair : Bool) : Core :=
  { x with ctr := [], mark := none, markBad := false, run := 0, runStarts := [], runActive := false, fwdEnded := false, stopped := false,
           nextOrd := 0, tileQ := [], vecQ := [], movQ := [], colQ := [], doneCols := [], quant := [], stat := List.replicate 8 0,
           flagged := 0, raised := 0, lossBad := false, pairWired := pair }

/-- Every core of the shape made fresh; messages of earlier attempts leave the receive slots. -/
def freshCores (s : State) : State :=
  let modes := ((curPlan s).map fun p => p.modes).getD []
  (allCores s).foldl (fun s c =>
    updCore s c fun x =>
      let y := freshCore x (modes.getD (coreIdx c) 0 == 1)
      { y with recv := y.recv.filter fun g => decide (s.stp.curTag.toNat ≤ g.attempt.toNat) }) s

/-- The once-per-step marks of parity units and streams. -/
def freshMarks (s : State) : State :=
  { s with par := { s.par with raised := [] },
           streams := smMapVal Stream.init s.streams fun x => { x with raised := 0 } }

/-- What STEP and EVAL_OPEN do before the first descriptor runs. -/
def primeCores (s : State) (j : JobEnt) : State :=
  relocate (writeExpected (writeEntry (freshMarks (freshCores s)) j))

/-! Entries outside the control order (R426). -/

/-- The first such entry with an opcode, in order of fetch. -/
def freeEntry (s : State) (opc : Nat) : Option JobEnt := s.ctl.free.find? fun j => jobOpc j == opc

def rejectFree (s : State) (j : JobEnt) : State := endFree (raiseJobInvalid s j) j 1 0xC003

end Sys2Proof.Machine
end

