-- ==== Sys2Proof/Machine/Bits.lean ====
section
/-! DEFINITION. Bit streams, Huffman codes and check sums of the input formats that spec R187 names by reference (log 23), and
what a decoder reports of damage. -/
namespace Sys2Proof.Machine
open Sys2Proof

/-- The bits of bytes, most significant first, and least significant first. -/
def bitsMsb (b : Bytes) : List Bool := b.flatMap fun x => (List.range 8).map fun i => x.getLsbD (7 - i)
def bitsLsb (b : Bytes) : List Bool := b.flatMap fun x => (List.range 8).map x.getLsbD

/-- The first n bits as a number, the first bit the highest, and the rest; none where they run out. -/
def takeMsb : Nat → List Bool → Nat → Option (Nat × List Bool)
  | 0, l, v => some (v, l)
  | _ + 1, [], _ => none
  | n + 1, b :: l, v => takeMsb n l (2 * v + b.toNat)

/-- The first n bits as a number, the first bit the lowest. -/
def takeLsb : Nat → List Bool → Option (Nat × List Bool)
  | 0, l => some (0, l)
  | _ + 1, [] => none
  | n + 1, b :: l => (takeLsb n l).map fun r => (b.toNat + 2 * r.1, r.2)

/-- A Huffman code as a tree. -/
inductive Code where
  | none
  | leaf (sym : Nat)
  | node (zero one : Code)
  deriving DecidableEq, Repr

/-- A code word added; none where it or a shorter one is taken. -/
def Code.insert : Code → List Bool → Nat → Option Code
  | .none, [], s => some (.leaf s)
  | .none, false :: w, s => ((Code.none.insert w s).map fun c => .node c .none)
  | .none, true :: w, s => ((Code.none.insert w s).map fun c => .node .none c)
  | .leaf _, _, _ => Option.none
  | .node _ _, [], _ => Option.none
  | .node z o, false :: w, s => (z.insert w s).map fun c => .node c o
  | .node z o, true :: w, s => (o.insert w s).map fun c => .node z c

/-- One symbol read: the symbol and the rest; `none` where the bits run out, `some none` where they name no symbol. -/
def Code.read : Code → List Bool → Option (Option (Nat × List Bool))
  | .none, _ => some Option.none
  | .leaf s, l => some (some (s, l))
  | .node _ _, [] => Option.none
  | .node z _, false :: l => z.read l
  | .node _ o, true :: l => o.read l

/-- The n low bits of a number, highest first. -/
def codeWord (n v : Nat) : List Bool := (List.range n).map fun i => bitOf v (n - 1 - i) == 1

/-- The canonical code of (length, symbol) pairs in code order; none where the lengths take too many words. -/
def canonCode (words : List (Nat × Nat)) : Option Code :=
  (words.foldl (fun (acc : Option (Code × Nat × Nat)) w =>
    acc.bind fun (c, next, len) =>
      let v := next * 2 ^ (w.1 - len)
      if 2 ^ w.1 ≤ v then none else (c.insert (codeWord w.1 v) w.2).map fun c' => (c', v + 1, w.1))
    (some (Code.none, 0, 0))).map fun r => r.1

/-- A check sum of w bits, high bit first. -/
def crcMsb (w poly : Nat) (b : Bytes) : Nat :=
  b.foldl (fun c x =>
    (List.range 8).foldl (fun c i =>
      let top := bitOf c (w - 1) + bitOf x.toNat (7 - i)
      let s := c * 2 % 2 ^ w
      if top = 1 then s ^^^ poly else s) c) 0

/-- The CRC-32 of PNG chunks, low bit first and complemented. -/
def crc32 (b : Bytes) : Nat :=
  (b.foldl (fun c x =>
    (List.range 8).foldl (fun c _ => if c % 2 = 1 then c / 2 ^^^ 0xEDB88320 else c / 2) (c ^^^ x.toNat)) 0xFFFFFFFF) ^^^
    0xFFFFFFFF

/-- A big-endian field. -/
def beNat (b : Bytes) (off n : Nat) : Nat := (sub b off n).foldl (fun v x => 256 * v + x.toNat) 0

/-- A finding of damage: the decode units consumed when it was found, its byte offset in the input, the first unit that it
conceals and how many. -/
structure Damage where
  used : Nat
  offset : Nat
  unit : Nat
  count : Nat
  deriving DecidableEq, Repr

/-- What an image decoder finds in an input (R187, R189, R207): how the decode ends (0 clean, 1 in part concealed, 2 wholly
damaged, 5 unsupported), the size, whether samples are 16 bits deep (none where no header tells), the source channels (1
grey, 2 grey and alpha, 3 RGB, 4 RGBA), the samples row by row with partial concealment done, the decode units, and the
damage in the order it was found. -/
structure ImageDecode where
  outcome : Nat
  width : Nat
  height : Nat
  deep16 : Option Bool
  channels : Nat
  samples : Array Nat
  units : Nat
  damage : List Damage
  deriving DecidableEq, Repr

/-- An image that has no decode: damaged as a whole, or unsupported. -/
def imageFails (outcome units : Nat) (deep : Option Bool) (damage : List Damage) : ImageDecode :=
  { outcome := outcome, width := 0, height := 0, deep16 := deep, channels := 1, samples := #[], units := units,
    damage := damage }

/-- What an audio decoder finds in an input: how the decode ends, the sampling rate, the PCM samples of each channel as
numbers with their power-of-two divisor, the samples per channel, the decode units, and the damage. -/
structure AudioDecode where
  outcome : Nat
  rate : Nat
  pcm : Array (Array Num)
  length : Nat
  units : Nat
  damage : List Damage
  deriving DecidableEq, Repr

def audioFails (outcome units : Nat) (damage : List Damage) : AudioDecode :=
  { outcome := outcome, rate := 0, pcm := #[], length := 0, units := units, damage := damage }

/-- R207: a header that cannot be parsed, or an input that is not of its kind: the whole sample, at byte offset 0. -/
def badHeader : List Damage := [{ used := 0, offset := 0, unit := 0, count := 0 }]

end Sys2Proof.Machine
end

