-- ==== Sys2Proof/Machine/Jpeg.lean ====
section
/-! DEFINITION. JPEG (spec R187–R189, R205, R207): segments, baseline and progressive Huffman scans with restart intervals by
reference to ISO/IEC 10918-1 (log 23), the inverse DCT within the accuracy of IEEE 1180, colour, and the concealment of MCUs. -/
namespace Sys2Proof.Machine
open Sys2Proof

/-! Coefficients. A block's 64 coefficients stand in zigzag order from its base. -/

/-- Natural index (8 v + u) of each zigzag place. -/
def zigzag : List Nat :=
  [0, 1, 8, 16, 9, 2, 3, 10, 17, 24, 32, 25, 18, 11, 4, 5, 12, 19, 26, 33, 40, 48, 41, 34, 27, 20, 13, 6, 7, 14, 21, 28] ++
  [35, 42, 49, 56, 57, 50, 43, 36, 29, 22, 15, 23, 30, 37, 44, 51, 58, 59, 52, 45, 38, 31, 39, 46, 53, 60, 61, 54, 47, 55, 62, 63]

/-- What a scan changes as it goes: coefficients, DC predictions, the run of ended blocks, and the coefficients written. -/
structure JScan where
  coefs : Array Int
  preds : List Int
  eob : Nat
  writes : Nat

/-- A block's result: the scan's state, the bits that follow, and whether the block decoded; where it did not, the bits begin
at the code that failed. -/
abbrev JRes := JScan × List Bool × Bool

def JScan.put (j : JScan) (i : Nat) (v : Int) : JScan := { j with coefs := j.coefs.setIfInBounds i v, writes := j.writes + 1 }

/-- A signed value of n bits. -/
def jExtend (n v : Nat) : Int := if n ≠ 0 ∧ v < 2 ^ (n - 1) then (v : Int) - (2 ^ n - 1) else v

/-- A Huffman symbol; none where no code word stands. -/
def jSym (c : Code) (l : List Bool) : Option (Nat × List Bool) :=
  match c.read l with
  | some (some r) => some r
  | _ => none

/-- The DC coefficient of a first scan, shifted by al. -/
def dcFirst (dc : Code) (comp base al : Nat) (j : JScan) (l : List Bool) : JRes :=
  match (jSym dc l).bind fun r => if 11 < r.1 then none else (takeMsb r.1 r.2 0).map fun v => (jExtend r.1 v.1, v.2) with
  | some (d, r) =>
    let p := j.preds.getD comp 0 + d
    (({ j with preds := j.preds.set comp p }).put base (p * 2 ^ al), r, true)
  | none => (j, l, false)

/-- The AC coefficients k to se of a first scan; `prog` admits runs of ended blocks. -/
def acFirst (ac : Code) (base se al : Nat) (prog : Bool) : Nat → Nat → JScan → List Bool → JRes
  | 0, _, j, l => (j, l, true)
  | fuel + 1, k, j, l =>
    if se < k then (j, l, true)
    else
      match jSym ac l with
      | none => (j, l, false)
      | some (rs, r) =>
        if rs % 16 = 0 then
          (if rs = 0xF0 then (if 63 < k + 15 then (j, l, false) else acFirst ac base se al prog fuel (k + 16) j r)
          else if rs = 0 then (j, r, true)
          else if !prog then (j, l, false)
          else
            match takeMsb (rs / 16) r 0 with
            | some (v, r2) => ({ j with eob := 2 ^ (rs / 16) + v - 1 }, r2, true)
            | none => (j, l, false))
        else
          match takeMsb (rs % 16) r 0 with
          | none => (j, l, false)
          | some (v, r2) =>
            let k1 := k + rs / 16
            if se < k1 then (j, l, false)
            else acFirst ac base se al prog fuel (k1 + 1) (j.put (base + k1) (jExtend (rs % 16) v * 2 ^ al)) r2

/-- Coefficients from k on corrected by one bit each, over `skip` zero ones, up to the next zero one or the end. -/
def acCorrect (base se al : Nat) : Nat → Nat → Nat → JScan → List Bool → Option (Nat × JScan × List Bool)
  | 0, k, _, j, l => some (k, j, l)
  | fuel + 1, k, skip, j, l =>
    if se < k then some (k, j, l)
    else
      let c := j.coefs.getD (base + k) 0
      if c = 0 then (if skip = 0 then some (k, j, l) else acCorrect base se al fuel (k + 1) (skip - 1) j l)
      else
        match l with
        | [] => none
        | false :: r => acCorrect base se al fuel (k + 1) skip j r
        | true :: r => acCorrect base se al fuel (k + 1) skip (j.put (base + k) (if c < 0 then c - 2 ^ al else c + 2 ^ al)) r

/-- The AC coefficients of a refining scan. -/
def acRefine (ac : Code) (base se al : Nat) : Nat → Nat → JScan → List Bool → JRes
  | 0, _, j, l => (j, l, true)
  | fuel + 1, k, j, l =>
    if se < k then (j, l, true)
    else
      match jSym ac l with
      | none => (j, l, false)
      | some (rs, r) =>
        let ends := rs % 16 == 0 && rs != 0xF0
        match takeMsb (if ends then rs / 16 else rs % 16) r 0 with
        | none => (j, l, false)
        | some (v, r2) =>
          if 1 < rs % 16 then (j, l, false)
          else if ends then
            match acCorrect base se al 64 k 64 j r2 with
            | some (_, j2, r3) => ({ j2 with eob := 2 ^ (rs / 16) + v - 1 }, r3, true)
            | none => (j, l, false)
          else
            match acCorrect base se al 64 k (rs / 16) j r2 with
            | none => (j, l, false)
            | some (k2, j2, r3) =>
              if se < k2 then (j2, l, false)
              else
                acRefine ac base se al fuel (k2 + 1)
                  (if rs % 16 = 1 then j2.put (base + k2) ((if v = 1 then 1 else -1) * 2 ^ al) else j2) r3

/-- The header of a scan: components with their codes, spectral band and bit positions. -/
structure JHead where
  prog : Bool
  comps : List (Nat × Code × Code)
  ss : Nat
  se : Nat
  ah : Nat
  al : Nat

/-- One block of a component of the scan. -/
def jBlock (h : JHead) (comp : Nat) (dc ac : Code) (base : Nat) (j : JScan) (l : List Bool) : JRes :=
  if !h.prog then
    let (j1, l1, ok) := dcFirst dc comp base 0 j l
    if ok then acFirst ac base 63 0 false 64 1 j1 l1 else (j1, l1, false)
  else if h.ss = 0 then
    (if h.ah = 0 then dcFirst dc comp base h.al j l
    else
      match l with
      | [] => (j, l, false)
      | b :: r => (if b then j.put base (j.coefs.getD base 0 + 2 ^ h.al) else j, r, true))
  else if 0 < j.eob then
    (if h.ah = 0 then ({ j with eob := j.eob - 1 }, l, true)
    else
      match acCorrect base h.se h.al 64 h.ss 64 j l with
      | some (_, j2, r) => ({ j2 with eob := j2.eob - 1 }, r, true)
      | none => (j, l, false))
  else if h.ah = 0 then acFirst ac base h.se h.al true 64 h.ss j l
  else acRefine ac base h.se h.al 64 h.ss j l

/-- The blocks of one MCU of the scan: component and block base. -/
def jUnit (h : JHead) (blocks : List (Nat × Nat)) (j : JScan) (l : List Bool) : JRes :=
  blocks.foldl (fun (r : JRes) b =>
    if r.2.2 then
      match h.comps.find? fun c => c.1 == b.1 with
      | some (_, dc, ac) => jBlock h b.1 dc ac b.2 r.1 r.2.1
      | none => r
    else r) (j, l, true)

/-- MCUs i to e of a scan from the bits of one restart interval: the state, the MCU that failed, and the bits left there. -/
def jUnits (h : JHead) (blocks : Nat → List (Nat × Nat)) : Nat → Nat → JScan → List Bool → JScan × Option Nat × List Bool
  | 0, _, j, l => (j, none, l)
  | n + 1, i, j, l =>
    let (j1, l1, ok) := jUnit h (blocks i) j l
    if ok then jUnits h blocks n (i + 1) j1 l1 else (j1, some i, l1)

/-! Entropy data. -/

/-- The data of a restart interval: the number of the marker before it, that marker's offset, the bytes with stuffing undone
and their offsets, and the offset where they end. -/
structure JSeg where
  rst : Option Nat
  start : Nat
  data : List Nat
  offs : List Nat
  stop : Nat

/-- The intervals of a scan's data and the offset of the marker, or of the end, behind it; bytes are gathered newest first. -/
def jSegs (a : Array Nat) : Nat → Nat → JSeg → List JSeg → List JSeg × Nat
  | 0, off, cur, acc => ((({ cur with data := cur.data.reverse, offs := cur.offs.reverse, stop := off }) :: acc).reverse, off)
  | fuel + 1, off, cur, acc =>
    let close : JSeg := { cur with data := cur.data.reverse, offs := cur.offs.reverse, stop := off }
    let add (v w : Nat) := jSegs a fuel (off + w) { cur with data := v :: cur.data, offs := off :: cur.offs } acc
    if a.size ≤ off then ((close :: acc).reverse, off)
    else
      let x := a.getD off 0
      let y := a.getD (off + 1) 0xD9
      if x ≠ 0xFF then add x 1
      else if y = 0 ∧ off + 1 < a.size then add 0xFF 2
      else if y = 0xFF then jSegs a fuel (off + 1) cur acc
      else if 0xD0 ≤ y ∧ y ≤ 0xD7 then
        jSegs a fuel (off + 2) { rst := some (y - 0xD0), start := off, data := [], offs := [], stop := 0 } (close :: acc)
      else ((close :: acc).reverse, off)

/-- What a decode keeps between segments. -/
structure Jpeg where
  quant : List (Nat × List Nat)
  dc : List (Nat × Code)
  ac : List (Nat × Code)
  prog : Bool
  w : Nat
  h : Nat
  comps : List (Nat × Nat × Nat × Nat)
  interval : Nat
  coefs : Array Int
  seen : List Nat
  scans : Nat
  coefUnits : Nat
  lost : Array Bool
  damage : List Damage
  fails : Option Nat

def jHMax (j : Jpeg) : Nat := j.comps.foldl (fun m c => Nat.max m c.2.1) 1
def jVMax (j : Jpeg) : Nat := j.comps.foldl (fun m c => Nat.max m c.2.2.1) 1
def jMcuW (j : Jpeg) : Nat := ceilDiv j.w (8 * jHMax j)
def jMcuH (j : Jpeg) : Nat := ceilDiv j.h (8 * jVMax j)
def jMcus (j : Jpeg) : Nat := jMcuW j * jMcuH j
/-- A component's blocks per MCU, and the first coefficient of a component. -/
def jComp (j : Jpeg) (c : Nat) : Nat × Nat := ((j.comps.getD c (0, 1, 1, 0)).2.1, (j.comps.getD c (0, 1, 1, 0)).2.2.1)
def jBase (j : Jpeg) (c : Nat) : Nat :=
  ((List.range c).map fun k => (jComp j k).1 * (jComp j k).2 * jMcus j * 64).foldl (· + ·) 0
/-- The base of the block in column x, row y of a component. -/
def jBlockAt (j : Jpeg) (c x y : Nat) : Nat := jBase j c + (y * (jMcuW j * (jComp j c).1) + x) * 64

/-- The width and height in blocks of a scan of one component. -/
def jAlone (j : Jpeg) (c : Nat) : Nat × Nat :=
  (ceilDiv (ceilDiv (j.w * (jComp j c).1) (jHMax j)) 8, ceilDiv (ceilDiv (j.h * (jComp j c).2) (jVMax j)) 8)

/-- The blocks of MCU i of a scan over components cs, and the MCU of the image that it belongs to. -/
def jScanUnit (j : Jpeg) (cs : List Nat) (i : Nat) : List (Nat × Nat) :=
  match cs with
  | [c] => let w := (jAlone j c).1; [(c, jBlockAt j c (i % w) (i / w))]
  | _ => cs.flatMap fun c =>
    let (h, v) := jComp j c
    (List.range (h * v)).map fun k => (c, jBlockAt j c (i % jMcuW j * h + k % h) (i / jMcuW j * v + k / h))
def jMcuOf (j : Jpeg) (cs : List Nat) (i : Nat) : Nat :=
  match cs with
  | [c] => let w := (jAlone j c).1; i / w / (jComp j c).2 * jMcuW j + i % w / (jComp j c).1
  | _ => i
def jScanLen (j : Jpeg) (cs : List Nat) : Nat :=
  match cs with
  | [c] => (jAlone j c).1 * (jAlone j c).2
  | _ => jMcus j

/-- R207: scan MCUs i to e − 1 damaged, found at an input offset with `writes` coefficients written so far in the scan. -/
def jLose (j : Jpeg) (cs : List Nat) (i e off writes : Nat) : Jpeg :=
  let ms := ((List.range (e - i)).map fun k => jMcuOf j cs (i + k)).filter fun m => !j.lost.getD m true
  let lost := ms.foldl (fun (a : Array Bool) m => a.setIfInBounds m true) j.lost
  let fresh := (lost.toList.filter id).length - (j.lost.toList.filter id).length
  { j with
    lost := lost
    damage := j.damage ++ [{ used := ceilDiv off 64 + j.coefUnits + ceilDiv writes 64, offset := off,
                             unit := ms.headD (jMcuOf j cs i), count := fresh }] }

/-- The intervals of a scan in turn from its MCU i: what fails is lost up to the next restart marker that fits. -/
def jIntervals (h : JHead) (cs : List Nat) (n : Nat) : List JSeg → Nat → Jpeg → JScan → Jpeg × JScan
  | [], _, j, sc => (j, sc)
  | g :: rest, i, j, sc =>
    if n ≤ i then (j, sc)
    else
      let fresh : JScan := { sc with preds := [0, 0, 0], eob := 0 }
      let e := if j.interval = 0 then n else Nat.min n (i + j.interval)
      let (sc1, bad, left) := jUnits h (jScanUnit j cs) (e - i) i fresh (bitsMsb (g.data.map (BitVec.ofNat 8)))
      -- the MCU at which the next interval starts: the first at or behind e whose marker number is the next one's
      let next := match rest with
        | [] => n
        | q :: _ =>
          if j.interval = 0 then n
          else
            ((List.range 8).map fun k => e + k * j.interval).find?
              (fun k => (q.rst.map fun m => decide ((k / j.interval + 7) % 8 = m)).getD false) |>.getD n
      let failAt := g.offs.getD ((8 * g.data.length - left.length) / 8) g.stop
      let j1 := match bad with
        | some m => jLose j cs m (Nat.min n next) failAt sc1.writes
        | none => if e < Nat.min n next then
            jLose j cs e (Nat.min n next) (match rest with | q :: _ => q.start | [] => g.stop) sc1.writes else j
      jIntervals h cs n rest (Nat.min n next) j1 sc1

/-- A scan: its header must name known components and codes, at most ten blocks in an MCU of several components, and a band
that the process allows. -/
def jScan (a : Array Nat) (off len : Nat) (j : Jpeg) : Jpeg × Nat :=
  let at_ (k : Nat) : Nat := a.getD (off + k) 0
  let n := at_ 4
  let cs := (List.range n).filterMap fun k => j.comps.findIdx? fun c => c.1 == at_ (5 + 2 * k)
  let codes := (List.range n).map fun k => (at_ (6 + 2 * k) / 16, at_ (6 + 2 * k) % 16)
  let ss := at_ (5 + 2 * n)
  let se := at_ (6 + 2 * n)
  let ah := at_ (7 + 2 * n) / 16
  let al := at_ (7 + 2 * n) % 16
  let needDc := !j.prog || (ss == 0 && ah == 0)
  let needAc := !j.prog || ss != 0
  let comps := (cs.zip codes).map fun (c, d, x) => (c, j.dc.lookup d, j.ac.lookup x)
  let fits := decide (len = 6 + 2 * n ∧ 1 ≤ n ∧ n ≤ 3 ∧ cs.length = n ∧ cs.Nodup ∧ al < 14 ∧
      (n = 1 ∨ (cs.map fun c => (jComp j c).1 * (jComp j c).2).foldl (· + ·) 0 ≤ 10)) && !j.comps.isEmpty &&
    comps.all (fun (c : Nat × Option Code × Option Code) => (!needDc || c.2.1.isSome) && (!needAc || c.2.2.isSome)) &&
    (if j.prog then decide (ss ≤ se ∧ se ≤ 63) && (if ss = 0 then se == 0 else n == 1) && (ah == 0 || ah == al + 1)
      else ss == 0 && se == 63 && ah == 0 && al == 0) &&
    j.comps.all (fun c => (j.quant.lookup c.2.2.2).isSome)
  if !fits then ({ j with fails := some 2 }, off)
  else if 64 ≤ j.scans then ({ j with fails := some 5 }, off)
  else
    let h : JHead := { prog := j.prog, comps := comps.map fun c => (c.1, c.2.1.getD .none, c.2.2.getD .none), ss := ss,
                       se := se, ah := ah, al := al }
    let d := off + 2 + len
    let (segs, stop) := jSegs a (a.size + 1) d { rst := none, start := d, data := [], offs := [], stop := d } []
    let m := jScanLen j cs
    let (j1, sc) := jIntervals h cs m segs 0 j { coefs := j.coefs, preds := [0, 0, 0], eob := 0, writes := 0 }
    ({ j1 with coefs := sc.coefs, scans := j1.scans + 1, coefUnits := j1.coefUnits + ceilDiv sc.writes 64,
               seen := if ss = 0 then cs ++ j1.seen else j1.seen }, stop)

/-! Segments. -/

/-- Quantisation tables of a DQT segment. -/
def jQuant (a : Array Nat) : Nat → Nat → Nat → Jpeg → Jpeg
  | 0, _, _, j => j
  | fuel + 1, off, stop, j =>
    if stop ≤ off then j
    else
      let p := a.getD off 0
      let w := if 16 ≤ p then 2 else 1
      if stop < off + 1 + 64 * w ∨ 32 ≤ p ∨ 3 < p % 16 then { j with fails := some 2 }
      else
        let t := (List.range 64).map fun k =>
          if w = 2 then 256 * a.getD (off + 1 + 2 * k) 0 + a.getD (off + 2 + 2 * k) 0 else a.getD (off + 1 + k) 0
        jQuant a fuel (off + 1 + 64 * w) stop { j with quant := (p % 16, t) :: j.quant }

/-- Huffman codes of a DHT segment. -/
def jHuff (a : Array Nat) : Nat → Nat → Nat → Jpeg → Jpeg
  | 0, _, _, j => j
  | fuel + 1, off, stop, j =>
    if stop ≤ off then j
    else
      let p := a.getD off 0
      let counts := (List.range 16).map fun k => a.getD (off + 1 + k) 0
      let total := counts.foldl (· + ·) 0
      let lens := (List.range 16).flatMap fun k => List.replicate (counts.getD k 0) (k + 1)
      let words := (List.range total).map fun k => (lens.getD k 0, a.getD (off + 17 + k) 0)
      if stop < off + 17 + total ∨ 32 ≤ p ∨ 3 < p % 16 then { j with fails := some 2 }
      else
        match canonCode words with
        | none => { j with fails := some 2 }
        | some c =>
          jHuff a fuel (off + 17 + total) stop
            (if p < 16 then { j with dc := (p, c) :: j.dc } else { j with ac := (p - 16, c) :: j.ac })

/-- 4:4:4, 4:2:2 or 4:2:0: the sampling factors of three components are 1 to 4, the second and third have the same, and the
first has those, or twice the horizontal one, or twice both. -/
def jRatioOk (shapes : List (Nat × Nat)) : Bool :=
  match shapes with
  | [y, b, r] =>
    b == r && decide (1 ≤ b.1 ∧ 1 ≤ b.2 ∧ y.1 ≤ 4 ∧ y.2 ≤ 4) && (y == b || y == (2 * b.1, b.2) || y == (2 * b.1, 2 * b.2))
  | _ => false

/-- The frame header (R187's row): what lies outside the row is unsupported. -/
def jFrame (a : Array Nat) (off len : Nat) (prog : Bool) (j : Jpeg) : Jpeg :=
  let at_ (k : Nat) : Nat := a.getD (off + k) 0
  let n := at_ 9
  let h := 256 * at_ 5 + at_ 6
  let w := 256 * at_ 7 + at_ 8
  let comps := (List.range n).map fun k =>
    (at_ (10 + 3 * k), at_ (11 + 3 * k) / 16, at_ (11 + 3 * k) % 16, at_ (12 + 3 * k))
  let shapes := comps.map fun c => (c.2.1, c.2.2.1)
  if len ≠ 8 + 3 * n ∨ !j.comps.isEmpty then { j with fails := some 2 }
  else if at_ 4 ≠ 8 ∨ w = 0 ∨ h = 0 ∨ 16384 < w ∨ 16384 < h ∨
      !(n == 1 || jRatioOk shapes)
    then { j with fails := some 5 }
  else
    let plain := comps.map fun c => (c.1, 1, 1, c.2.2.2)
    let j1 : Jpeg := { j with prog := prog, w := w, h := h, comps := if n = 1 then plain else comps }
    { j1 with coefs := Array.replicate (jBase j1 n) 0, lost := Array.replicate (jMcus j1) false }

/-- Segments from an offset to the end of the image, or of the input. -/
def jSegments (a : Array Nat) : Nat → Nat → Jpeg → Jpeg
  | 0, _, j => j
  | fuel + 1, off, j =>
    if j.fails.isSome then j
    else if a.size < off + 2 then j
    else
      let m := a.getD (off + 1) 0
      let len := 256 * a.getD (off + 2) 0 + a.getD (off + 3) 0
      let next := jSegments a fuel (off + 2 + len)
      if a.getD off 0 ≠ 0xFF then { j with fails := some 2 }
      else if m = 0xFF then jSegments a fuel (off + 1) j
      else if m = 0xD9 then j
      else if a.size < off + 2 + len ∨ len < 2 then { j with fails := some 2 }
      else if m = 0xDB then next (jQuant a 8 (off + 4) (off + 2 + len) j)
      else if m = 0xC4 then next (jHuff a 16 (off + 4) (off + 2 + len) j)
      else if m = 0xC0 then next (jFrame a off len false j)
      else if m = 0xC2 then next (jFrame a off len true j)
      else if 0xC0 ≤ m ∧ m ≤ 0xCF ∧ m ≠ 0xC8 then { j with fails := some 5 }
      else if m = 0xDD then next { j with interval := 256 * a.getD (off + 4) 0 + a.getD (off + 5) 0 }
      else if m = 0xDA then let (j1, stop) := jScan a off len j; jSegments a fuel stop j1
      else next j

/-! Samples. -/

/-- cos(k π ÷ 16) in fixed point of 64 places. -/
def cosTable : Array Int := (Array.range 32).map fun k => (fixSinCos 64 (fixPi 64 * (k : Nat) / 16)).2

/-- The exact inverse DCT of R189's reference, rounded to the nearest integer: coefficients in natural order, row and column. -/
def idctExact (c : Array Int) (y x : Nat) : Int :=
  let sum := (List.range 64).foldl (fun (acc : Int) k =>
    let f := c.getD k 0
    if f = 0 then acc
    else
      let cu := cosTable.getD ((2 * x + 1) * (k % 8) % 32) 0
      let cv := cosTable.getD ((2 * y + 1) * (k / 8) % 32) 0
      let half (n : Nat) (v : Int) : Int := if n = 0 then v * cosTable.getD 4 0 / 2 ^ 64 else v
      acc + f * (half (k % 8) cu * half (k / 8) cv / 2 ^ 64)) 0
  (sum + 2 ^ 65) / 2 ^ 66

/-! The accuracy test of IEEE 1180-1990 (log 23): 10,000 blocks of random samples for each of three ranges and each of two
signs go through an exact forward DCT; the inverse under test is compared with the exact one. -/

/-- The next state of the standard's generator, and the sample in −lo to hi that it stands for. -/
def ieeeNext (x : Nat) : Nat := (x * 1103515245 + 12345) % 2 ^ 32
def ieeeSample (x lo hi : Nat) : Int := ((x &&& 0x7FFFFFFE) * (lo + hi + 1) / 0x7FFFFFFF : Nat) - (lo : Int)

def clampTo (lo hi v : Int) : Int := if v < lo then lo else if hi < v then hi else v

/-- The exact forward DCT, rounded to the nearest integer and held within −2,048 to 2,047. -/
def fdctExact (b : Array Int) (k : Nat) : Int :=
  let sum := (List.range 64).foldl (fun (acc : Int) i =>
    let cu := cosTable.getD ((2 * (i % 8) + 1) * (k % 8) % 32) 0
    let cv := cosTable.getD ((2 * (i / 8) + 1) * (k / 8) % 32) 0
    let half (n : Nat) (v : Int) : Int := if n = 0 then v * cosTable.getD 4 0 / 2 ^ 64 else v
    acc + b.getD i 0 * (half (k % 8) cu * half (k / 8) cv / 2 ^ 64)) 0
  clampTo (-2048) 2047 ((sum + 2 ^ 65) / 2 ^ 66)

/-- The errors of a test so far: the generator's state, and for each of the 64 places the peak error, the sum of the errors
and of their squares. -/
structure IeeeRun where
  seed : Nat
  peak : Nat
  sums : Array Int
  squares : Array Nat

/-- One block of a test. -/
def ieeeBlock (f : List Int → Nat → Nat → Int) (lo hi : Nat) (sign : Int) (r : IeeeRun) : IeeeRun :=
  let (seed, b) := (List.range 64).foldl (fun (acc : Nat × Array Int) _ =>
    (ieeeNext acc.1, acc.2.push (sign * ieeeSample (ieeeNext acc.1) lo hi))) (r.seed, #[])
  let c := (Array.range 64).map (fdctExact b)
  let errs := (Array.range 64).map fun k =>
    clampTo (-256) 255 (f c.toList (k / 8) (k % 8)) - clampTo (-256) 255 (idctExact c (k / 8) (k % 8))
  { seed := seed, peak := errs.foldl (fun m v => Nat.max m v.natAbs) r.peak,
    sums := (r.sums.zip errs).map fun p => p.1 + p.2, squares := (r.squares.zip errs).map fun p => p.1 + p.2.natAbs ^ 2 }

/-- One test over 10,000 blocks: the peak error is at most 1, the mean square error at most 0.06 at a place and 0.02 over all,
the mean error at most 0.015 at a place and 0.0015 over all. -/
def ieeeTest (f : List Int → Nat → Nat → Int) (lo hi : Nat) (sign : Int) : Bool :=
  let r := (List.range 10000).foldl (fun r _ => ieeeBlock f lo hi sign r)
    { seed := 1, peak := 0, sums := Array.replicate 64 0, squares := Array.replicate 64 0 }
  decide (r.peak ≤ 1) && r.squares.all (fun v => decide (v ≤ 600)) && decide (r.squares.foldl (· + ·) 0 ≤ 12800) &&
    r.sums.all (fun v => decide (v.natAbs ≤ 150)) && decide ((r.sums.foldl (· + ·) 0).natAbs ≤ 960)

/-- Whether an inverse DCT meets the requirements. -/
def meetsIeee1180 (f : List Int → Nat → Nat → Int) : Bool :=
  [(256, 255), (5, 5), (300, 300)].all fun r => ieeeTest f r.1 r.2 1 && ieeeTest f r.1 r.2 (-1)

/-- The K12's own inverse DCT (R189): zero for a block of zeros; else that of Config, where it meets the requirements of
IEEE 1180-1990 and this value is within their peak error of one; else the exact one. -/
def idct (c : Array Int) (y x : Nat) : Int :=
  let r := Config.idct c.toList y x
  let e := idctExact c y x
  if c.all (· == 0) then 0 else if meetsIeee1180 Config.idct && decide (e - 1 ≤ r ∧ r ≤ e + 1) then r else e

def clamp255 (v : Int) : Nat := if v < 0 then 0 else Nat.min 255 v.toNat

/-- The samples of a component, whole blocks, row by row. -/
def jPlane (j : Jpeg) (c : Nat) : Array Nat :=
  let q := (j.quant.lookup ((j.comps.getD c (0, 1, 1, 0)).2.2.2)).getD []
  let bw := jMcuW j * (jComp j c).1
  let bh := jMcuH j * (jComp j c).2
  (List.range (bw * bh)).foldl (fun (p : Array Nat) b =>
    let f := (List.range 64).foldl (fun (f : Array Int) k =>
      f.setIfInBounds (zigzag.getD k 0) (j.coefs.getD (jBase j c + b * 64 + k) 0 * (q.getD k 0 : Nat))) (Array.replicate 64 0)
    (List.range 64).foldl (fun (p : Array Nat) k =>
      p.setIfInBounds ((b / bw * 8 + k / 8) * (bw * 8) + b % bw * 8 + k % 8) (clamp255 (idct f (k / 8) (k % 8) + 128))) p)
    (Array.replicate (bw * bh * 64) 0)

/-- R207: lost MCUs copy the one above, or are mid-grey in the top row and below a lost one. -/
def jConceal (j : Jpeg) (c : Nat) (p : Array Nat) : Array Nat :=
  let mw := jMcuW j
  let bw := 8 * (jComp j c).1
  let bh := 8 * (jComp j c).2
  (List.range (jMcus j)).foldl (fun (p : Array Nat) m =>
    if !j.lost.getD m false then p
    else
      let copy := decide (mw ≤ m) && !j.lost.getD (m - mw) true
      (List.range (bw * bh)).foldl (fun (p : Array Nat) k =>
        let y := m / mw * bh + k / bw
        let x := m % mw * bw + k % bw
        p.setIfInBounds (y * (mw * bw) + x) (if copy then p.getD ((y - bh) * (mw * bw) + x) 128 else 128)) p) p

/-- R189: RGB of a pixel, each coefficient a multiple of 2^−16. -/
def ycc (y cb cr : Nat) (c : Nat) : Nat :=
  let b : Int := (cb : Int) - 128
  let r : Int := (cr : Int) - 128
  let v : Int := (y : Int) * 65536 + (if c = 0 then 91881 * r else if c = 1 then -22554 * b - 46802 * r else 116130 * b)
  clamp255 ((v + 32768) / 65536)

/-- The pixels, chroma replicated. -/
def jPixels (j : Jpeg) : Array Nat :=
  let planes := (Array.range j.comps.length).map fun c => jConceal j c (jPlane j c)
  let at_ (c y x : Nat) : Nat :=
    let (h, v) := jComp j c
    (planes.getD c #[]).getD (y * v / jVMax j * (jMcuW j * 8 * h) + x * h / jHMax j) 0
  if j.comps.length = 1 then (Array.range (j.w * j.h)).map fun i => at_ 0 (i / j.w) (i % j.w)
  else
    (Array.range (j.w * j.h * 3)).map fun i =>
      let y := i / 3 / j.w
      let x := i / 3 % j.w
      ycc (at_ 0 y x) (at_ 1 y x) (at_ 2 y x) (i % 3)

/-- A JPEG input. -/
def jpegDecode (b : Bytes) : ImageDecode :=
  let a := (b.map (·.toNat)).toArray
  let j0 : Jpeg :=
    { quant := [], dc := [], ac := [], prog := false, w := 0, h := 0, comps := [], interval := 0, coefs := #[], seen := [],
      scans := 0, coefUnits := 0, lost := #[], damage := [], fails := none }
  let read := ceilDiv a.size 64
  if !(a.getD 0 0 == 0xFF && a.getD 1 0 == 0xD8) then imageFails 2 read none badHeader
  else
    let j := jSegments a (a.size + 1) 2 j0
    match j.fails with
    | some 2 => imageFails 2 read none badHeader
    | some k => imageFails k (read + j.coefUnits) (some false) j.damage
    | none =>
      if j.scans = 0 then imageFails 2 read none badHeader
      else
        -- a component that no scan brought is cut off
        let j1 := match (List.range j.comps.length).filter fun c => !j.seen.contains c with
          | [] => j
          | _ => jLose j [0, 1] 0 (jMcus j) a.size 0
        { outcome := if j1.damage.isEmpty then 0 else 1, width := j1.w, height := j1.h, deep16 := some false,
          channels := j1.comps.length, samples := jPixels j1, units := read + j1.coefUnits + ceilDiv (j1.w * j1.h) 64,
          damage := j1.damage }

end Sys2Proof.Machine
end

