-- ==== Sys2Proof/Machine/Flac.lean ====
section
/-! DEFINITION. FLAC (spec R187, R188, R191, R205, R207): the stream of RFC 9639 by reference (log 23), its check sums, and the
muting of damaged frames. -/
namespace Sys2Proof.Machine
open Sys2Proof

/-- A signed field of n bits. -/
def takeSigned (n : Nat) (l : List Bool) : Option (Int × List Bool) :=
  (takeMsb n l 0).map fun r => (if n ≠ 0 ∧ 2 ^ (n - 1) ≤ r.1 then (r.1 : Int) - 2 ^ n else r.1, r.2)

/-- The zeros before the next one. -/
def unary : List Bool → Option (Nat × List Bool)
  | [] => none
  | true :: r => some (0, r)
  | false :: r => (unary r).map fun u => (u.1 + 1, u.2)

/-- `n` fields read in turn. -/
def takeMany (f : List Bool → Option (Int × List Bool)) : Nat → List Bool → Option (List Int × List Bool)
  | 0, l => some ([], l)
  | n + 1, l =>
    match f l with
    | none => none
    | some (v, r) => (takeMany f n r).map fun t => (v :: t.1, t.2)

/-- A Rice-coded value. -/
def takeRice (k : Nat) (l : List Bool) : Option (Int × List Bool) :=
  (unary l).bind fun (q, r) => (takeMsb k r 0).map fun (v, r2) =>
    let u := q * 2 ^ k + v
    (if u % 2 = 0 then ((u / 2 : Nat) : Int) else -(((u + 1) / 2 : Nat) : Int), r2)

/-- The partitions of a residual, `per` values each, the first `order` short. -/
def takeParts (wide : Nat) (per order : Nat) : Nat → Bool → List Bool → Option (List Int × List Bool)
  | 0, _, l => some ([], l)
  | n + 1, first, l => do
    let (k, l1) ← takeMsb wide l 0
    let count := if first then per - order else per
    let (v, l2) ← if k = 2 ^ wide - 1 then (takeMsb 5 l1 0).bind fun (w, r) => takeMany (takeSigned w) count r
      else takeMany (takeRice k) count l1
    let (t, l3) ← takeParts wide per order n false l2
    return (v ++ t, l3)

def takeResidual (block order : Nat) (l : List Bool) : Option (List Int × List Bool) :=
  (takeMsb 2 l 0).bind fun (m, l1) => (takeMsb 4 l1 0).bind fun (po, l2) =>
    if 1 < m ∨ block % 2 ^ po ≠ 0 ∨ block / 2 ^ po < order then none
    else takeParts (4 + m) (block / 2 ^ po) order (2 ^ po) true l2

/-- Samples from residuals: `done` holds the samples newest first. -/
def predictGo (coefs : List Int) (shift : Nat) : List Int → List Int → List Int
  | [], done => done.reverse
  | e :: es, done =>
    let p := ((coefs.zip done).map fun c => c.1 * c.2).foldl (· + ·) 0
    predictGo coefs shift es ((p / 2 ^ shift + e) :: done)

def fixedCoefs (order : Nat) : List Int :=
  match order with
  | 0 => []
  | 1 => [1]
  | 2 => [2, -1]
  | 3 => [3, -3, 1]
  | _ => [4, -6, 4, -1]

/-- A subframe of `bits` bits per sample. -/
def takeSubframe (block bits : Nat) (l : List Bool) : Option (List Int × List Bool) := do
  let (pad, l1) ← takeMsb 1 l 0
  let (type, l2) ← takeMsb 6 l1 0
  let (wf, l3) ← takeMsb 1 l2 0
  let (waste, l4) ← if wf = 1 then (unary l3).map fun u => (u.1 + 1, u.2) else some (0, l3)
  if pad = 1 ∨ bits ≤ waste then none
  let w := bits - waste
  let (v, rest) ←
    if type = 0 then (takeSigned w l4).map fun r => (List.replicate block r.1, r.2)
    else if type = 1 then takeMany (takeSigned w) block l4
    else if 8 ≤ type ∧ type ≤ 12 ∧ type - 8 ≤ block then do
      let order := type - 8
      let (warm, r1) ← takeMany (takeSigned w) order l4
      let (res, r2) ← takeResidual block order r1
      return (predictGo (fixedCoefs order) 0 res warm.reverse, r2)
    else if 32 ≤ type ∧ type - 31 ≤ block then do
      let order := type - 31
      let (warm, r1) ← takeMany (takeSigned w) order l4
      let (prec, r2) ← takeMsb 4 r1 0
      let (shift, r3) ← takeSigned 5 r2
      if prec = 15 ∨ shift < 0 then none
      let (coefs, r4) ← takeMany (takeSigned (prec + 1)) order r3
      let (res, r5) ← takeResidual block order r4
      return (predictGo coefs shift.toNat res warm.reverse, r5)
    else none
  return (v.map (· * 2 ^ waste), rest)

/-- A frame header: block size, channel code, bits per sample (0: STREAMINFO's), first sample, and its bytes. -/
structure FlacHead where
  block : Nat
  chan : Nat
  bits : Nat
  pos : Nat
  len : Nat

/-- The coded number of a header: value and bytes. -/
def codedNumber (at_ : Nat → Nat) : Option (Nat × Nat) :=
  let x := at_ 0
  if x < 0x80 then some (x, 1)
  else
    let n := ((List.range 8).takeWhile fun k => bitOf x (7 - k) == 1).length
    if n = 1 ∨ n = 8 then none
    else if (List.range (n - 1)).all fun k => at_ (k + 1) / 64 == 2 then
      some ((List.range (n - 1)).foldl (fun v k => v * 64 + at_ (k + 1) % 64) (x % 2 ^ (7 - n)), n)
    else none

def flacBytes (a : Array Nat) (off n : Nat) : Bytes := (List.range n).map fun k => BitVec.ofNat 8 (a.getD (off + k) 0)

/-- A frame header at an offset whose CRC-8 and fields are good. `maxBlock` is STREAMINFO's block size. -/
def flacHead (a : Array Nat) (off maxBlock : Nat) : Option FlacHead :=
  let at_ (k : Nat) : Nat := a.getD (off + k) 0
  let bc := at_ 2 / 16
  let rc := at_ 2 % 16
  let sc := at_ 3 / 2 % 8
  if a.size < off + 6 ∨ at_ 0 ≠ 0xFF ∨ at_ 1 / 2 ≠ 0x7C ∨ bc = 0 ∨ rc = 15 ∨ 10 < at_ 3 / 16 ∨ sc = 3 ∨ at_ 3 % 2 = 1 then none
  else
    (codedNumber fun k => at_ (4 + k)).bind fun (num, n) =>
      let o := 4 + n
      let bl := if bc = 6 then 1 else if bc = 7 then 2 else 0
      let rl := if rc = 12 then 1 else if rc = 13 ∨ rc = 14 then 2 else 0
      let len := o + bl + rl + 1
      let block :=
        if bc = 1 then 192 else if bc < 6 then 144 * 2 ^ bc else if bc = 6 then at_ o + 1
        else if bc = 7 then 256 * at_ o + at_ (o + 1) + 1 else 2 ^ bc
      if crcMsb 8 0x07 (flacBytes a off (len - 1)) ≠ at_ (len - 1) then none
      else
        some { block := block, chan := at_ 3 / 16, bits := [0, 8, 12, 0, 16, 20, 24, 32].getD sc 0,
               pos := if at_ 1 % 2 = 1 then num else num * maxBlock, len := len }

/-- The channels of a frame from its subframes. -/
def flacJoin (chan : Nat) (subs : List (List Int)) : List (List Int) :=
  let x := subs.getD 0 []
  let y := subs.getD 1 []
  match chan with
  | 8 => [x, (x.zip y).map fun p => p.1 - p.2]
  | 9 => [(x.zip y).map fun p => p.1 + p.2, y]
  | 10 =>
    let m := (x.zip y).map fun p => (2 * p.1 + p.2 % 2, p.2)
    [m.map fun p => (p.1 + p.2) / 2, m.map fun p => (p.1 - p.2) / 2]
  | _ => subs

def takeSubframes (block bits chan : Nat) : Nat → Nat → List Bool → Option (List (List Int) × List Bool)
  | 0, _, l => some ([], l)
  | n + 1, i, l =>
    let wide := if (chan = 9 ∧ i = 0) ∨ ((chan = 8 ∨ chan = 10) ∧ i = 1) then bits + 1 else bits
    match takeSubframe block wide l with
    | none => none
    | some (v, r) => (takeSubframes block bits chan n (i + 1) r).map fun t => (v :: t.1, t.2)

/-- The stream's facts (`fixed`: every frame but the last has the block size), and what a decode has so far: channels newest
first, their length, frames, damage, whether the block size of the last lost frame is unknown, and whether something outside
R187 was met. -/
structure FlacRun where
  maxBlock : Nat
  ch : Nat
  bits : Nat
  total : Nat
  pcm : List (List Int)
  pos : Nat
  frames : Nat
  damage : List Damage
  unknown : Bool
  fixed : Bool
  beyond : Bool

def FlacRun.mute (r : FlacRun) (n : Nat) : FlacRun :=
  { r with pcm := r.pcm.map fun c => List.replicate n 0 ++ c, pos := r.pos + n }

/-- How many frames `n` samples are, as far as the stream tells. -/
def FlacRun.framesIn (r : FlacRun) (n : Nat) : Nat :=
  if n = 0 then 0 else if r.fixed then ceilDiv n r.maxBlock else 1

/-- R207: a damaged frame; `n` its samples where they are known. -/
def FlacRun.lose (r : FlacRun) (off : Nat) (n : Option Nat) : FlacRun :=
  let r1 := r.mute (n.getD 0)
  { r1 with
    damage := r.damage ++ [{ used := ceilDiv off 64 + r.ch * ceilDiv r.pos 64, offset := off, unit := r.frames, count := 1 }]
    frames := r.frames + 1, unknown := n.isNone }

/-- R207: a good header, found again after a loss, whose first sample is `pos`: the samples up to it are muted, and the frames
that they were are damaged with the frame that was lost. -/
def FlacRun.regain (r : FlacRun) (off pos : Nat) : FlacRun :=
  let n := r.framesIn (pos - r.pos)
  let r1 := { r.mute (pos - r.pos) with unknown := false }
  if r.unknown then
    { r1 with
      damage := r.damage.dropLast ++ (r.damage.getLast?.map fun d => { d with count := d.count + (n - 1) }).toList
      frames := r.frames + (n - 1) }
  else if n = 0 then r1
  else
    { r1 with
      damage := r.damage ++ [{ used := ceilDiv off 64 + r.ch * ceilDiv r.pos 64, offset := off, unit := r.frames, count := n }]
      frames := r.frames + n }

/-- Frames from an offset to the end of the input. Where sync is lost, bytes are passed over up to the next good header. -/
def flacFrames (a : Array Nat) (bits : List Bool) : Nat → Nat → Bool → FlacRun → FlacRun
  | 0, _, _, r => r
  | fuel + 1, off, seek, r =>
    if a.size ≤ off then r
    else
      let chans (h : FlacHead) : Nat := if h.chan < 8 then h.chan + 1 else 2
      match (flacHead a off r.maxBlock).filter fun h => chans h == r.ch && (h.bits == 0 || h.bits == r.bits || h.bits == 32) with
      | none => flacFrames a bits fuel (off + 1) true (if seek then r else r.lose off none)
      | some h =>
        if h.bits = 32 ∨ 65535 < h.block then { r with beyond := true }
        else
          let r0 := if seek then r.regain off h.pos else r
          match takeSubframes h.block r.bits h.chan r.ch 0 (bits.drop (8 * (off + h.len))) with
          | some (subs, rest) =>
            let stop := a.size - rest.length / 8
            if a.size < stop + 2 ∨ crcMsb 16 0x8005 (flacBytes a off (stop - off)) ≠ 256 * a.getD stop 0 + a.getD (stop + 1) 0
            then flacFrames a bits fuel (off + h.len) true (r0.lose off (some h.block))
            else
              let out := flacJoin h.chan subs
              flacFrames a bits fuel (stop + 2) false
                { r0 with pcm := (r0.pcm.zip out).map fun p => p.2.reverse ++ p.1, pos := r0.pos + h.block,
                          frames := r0.frames + 1 }
          | none => flacFrames a bits fuel (off + h.len) true (r0.lose off (some h.block))

/-- The offset behind the metadata blocks; none where they run out. -/
def flacMeta (a : Array Nat) : Nat → Nat → Option Nat
  | 0, _ => none
  | fuel + 1, off =>
    let next := off + 4 + 65536 * a.getD (off + 1) 0 + 256 * a.getD (off + 2) 0 + a.getD (off + 3) 0
    if a.size < next ∨ a.size < off + 4 then none
    else if 128 ≤ a.getD off 0 then some next else flacMeta a fuel next

/-- A FLAC input. -/
def flacDecode (b : Bytes) : AudioDecode :=
  let a := (b.map (·.toNat)).toArray
  let read := ceilDiv a.size 64
  let rate := beNat b 18 3 / 16
  let ch := beNat b 20 1 / 2 % 8 + 1
  let bps := beNat b 20 2 / 16 % 32 + 1
  let total := beNat b 21 5 % 2 ^ 36
  -- a first page whose packet is that of Ogg-encapsulated FLAC; any other Ogg input is none of the entry's kind
  if sub b 0 4 == [0x4F, 0x67, 0x67, 0x53] && sub b (27 + byteAt b 26) 5 == [0x7F, 0x46, 0x4C, 0x41, 0x43] then audioFails 5 read []
  else if sub b 0 4 != [0x66, 0x4C, 0x61, 0x43] || a.getD 4 0 % 128 != 0 || beNat b 5 3 != 34 then audioFails 2 read badHeader
  else
    match flacMeta a a.size 4 with
    | none => audioFails 2 read badHeader
    | some first =>
      if bps < 8 ∨ 24 < bps ∨ rate < 8000 ∨ 192000 < rate then audioFails 5 read []
      else
        let r := flacFrames a (bitsMsb b) (a.size + 1) first false
          { maxBlock := beNat b 10 2, ch := ch, bits := bps, total := total, pcm := List.replicate ch [], pos := 0, frames := 0,
            damage := [], unknown := false, fixed := decide (beNat b 8 2 = beNat b 10 2), beyond := false }
        if r.beyond then audioFails 5 read r.damage
        else
          let short := decide (r.pos < total)
          let r2 := if short then (if r.unknown then r else r.lose a.size none).regain a.size total else r
          let len := if total = 0 then r2.pos else total
          { outcome := if r2.damage.isEmpty then 0 else 1, rate := rate,
            pcm := (r2.pcm.map fun c => ((c.reverse.take len).map fun v => (.fin (decide (v < 0)) v.natAbs (1 - (bps : Int)) : Num)).toArray).toArray,
            length := len, units := read + ch * ceilDiv len 64, damage := r2.damage }

end Sys2Proof.Machine
end

