-- ==== Sys2Proof/Machine/Opus.lean ====
section
/-! DEFINITION. Opus in Ogg (spec R187, R191, R205, R207): pages and packets of RFC 7845, the packet rules of RFC 6716 section 3
by reference (log 23), lengths, and the loss of packets. The samples themselves are the K12's own (R191): Config.opusPcm. -/
namespace Sys2Proof.Machine
open Sys2Proof

/-! Packets. -/

/-- A frame's samples at 48 kHz, by the configuration number of the TOC byte. -/
def opusFrame (config : Nat) : Nat :=
  if config < 12 then [480, 960, 1920, 2880].getD (config % 4) 480
  else if config < 16 then [480, 960].getD (config % 2) 480
  else [120, 240, 480, 960].getD (config % 4) 120

/-- A coded frame length and the rest. -/
def opusLen : List Nat → Option (Nat × List Nat)
  | x :: r => if x < 252 then some (x, r) else r.head?.map fun y => (4 * y + x, r.tail)
  | [] => none

def opusLens : Nat → List Nat → Option (List Nat × List Nat)
  | 0, l => some ([], l)
  | n + 1, l => (opusLen l).bind fun (x, r) => (opusLens n r).map fun t => (x :: t.1, t.2)

/-- The padding bytes of a packet of code 3. -/
def opusPad : List Nat → Option (Nat × List Nat)
  | [] => none
  | x :: r => if x = 255 then (opusPad r).map fun t => (254 + t.1, t.2) else some (x, r)

/-- Frames of the given lengths taken off; the last without a length takes what is left. -/
def opusTake (lens : List Nat) (pad : Nat) (delimited : Bool) (count : Nat) (l : List Nat) : Option (List Nat) :=
  let need := lens.foldl (· + ·) 0
  if l.length < need + pad ∨ lens.any (1275 < ·) then none
  else if delimited then some (l.drop (need + pad))
  else
    let left := l.length - need - pad
    let open_ := count - lens.length
    if open_ = 0 then (if left = 0 then some [] else none)
    else if left % open_ ≠ 0 ∨ 1275 < left / open_ then none else some []

/-- One stream's packet by the rules of RFC 6716: its samples and, self-delimited, what follows it. -/
def opusPacket (delimited : Bool) : List Nat → Option (Nat × List Nat)
  | [] => none
  | toc :: r =>
    let frame := opusFrame (toc / 8)
    let done (count : Nat) (x : Option (List Nat)) : Option (Nat × List Nat) :=
      if 5760 < count * frame then none else x.map fun t => (count * frame, t)
    match toc % 4 with
    | 0 => (opusLens (if delimited then 1 else 0) r).bind fun (ls, t) => done 1 (opusTake ls 0 delimited 1 t)
    | 1 => (opusLens (if delimited then 1 else 0) r).bind fun (ls, t) => done 2 (opusTake (ls ++ ls) 0 delimited 2 t)
    | 2 => (opusLens (if delimited then 2 else 1) r).bind fun (ls, t) => done 2 (opusTake ls 0 delimited 2 t)
    | _ =>
      match r with
      | [] => none
      | c :: r1 =>
        let m := c % 64
        (if c / 64 % 2 = 1 then opusPad r1 else some (0, r1)).bind fun (pad, r2) =>
          let n := if c / 128 = 1 then (if delimited then m else m - 1) else if delimited then 1 else 0
          if m = 0 then none
          else
            (opusLens n r2).bind fun (ls, t) =>
              done m (opusTake (if c / 128 = 0 ∧ delimited then List.replicate m (ls.headD 0) else ls) pad delimited m t)

/-- A packet of `n` streams; its samples are those of each. -/
def opusStreams : Nat → List Nat → Option Nat
  | 0, _ => none
  | 1, l => (opusPacket false l).map fun r => r.1
  | n + 1, l => (opusPacket true l).bind fun (d, r) => (opusStreams n r).bind fun d2 => if d = d2 then some d else none

/-! Pages. -/

structure OggPage where
  flags : Nat
  granule : Nat
  serial : Nat
  seq : Nat
  lacing : List Nat
  data : Nat
  next : Nat

def leAt (a : Array Nat) (off n : Nat) : Nat := (List.range n).foldr (fun k v => a.getD (off + k) 0 + 256 * v) 0

/-- The fields of a page at an offset; the answer is none where no page stands there whole. -/
def oggFields (a : Array Nat) (off : Nat) : Option OggPage :=
  let n := a.getD (off + 26) 0
  let lacing := (List.range n).map fun k => a.getD (off + 27 + k) 0
  let stop := off + 27 + n + lacing.foldl (· + ·) 0
  if a.size < off + 27 ∨ a.size < stop ∨ leAt a off 4 ≠ 0x5367674F ∨ a.getD (off + 4) 1 ≠ 0 then none
  else
    some { flags := a.getD (off + 5) 0, granule := leAt a (off + 6) 8, serial := leAt a (off + 14) 4, seq := leAt a (off + 18) 4,
           lacing := lacing, data := off + 27 + n, next := stop }

/-- The check sum of a page, its own field as zeros. -/
def oggGood (a : Array Nat) (off : Nat) (p : OggPage) : Bool :=
  let b := flacBytes a off 22 ++ List.replicate 4 0 ++ flacBytes a (off + 26) (p.next - (off + 26))
  crcMsb 32 0x04C11DB7 b == leAt a (off + 22) 4

/-- The packets that a page ends, and the piece it leaves open: offset and length of each piece. -/
def oggPieces : List Nat → Nat → Nat → List (Nat × Nat) × Nat × Nat
  | [], start, len => ([], start, len)
  | x :: r, start, len =>
    if x = 255 then oggPieces r start (len + 255)
    else let t := oggPieces r (start + len + x) 0; ((start, len + x) :: t.1, t.2)

/-- What the stream has brought so far: packets with their offsets, newest first (none: lost), the open piece, the offset where the
packet that is open was torn, the pages' granule positions with the packets ended so far, the damage. -/
structure OggRun where
  packets : List (Option (List Nat) × Nat)
  piece : Option (List Nat × Nat)
  torn : Option Nat
  marks : List (Nat × Nat)
  seq : Option Nat
  lost : List (Nat × Nat × Nat)
  ended : Bool

def oggSlice (a : Array Nat) (off n : Nat) : List Nat := (List.range n).map fun k => a.getD (off + k) 0

/-- `n` packets lost at an offset; no packet is open. -/
def oggLose (r : OggRun) (off n : Nat) : OggRun :=
  if n = 0 then { r with piece := none }
  else { r with packets := List.replicate n (none, off) ++ r.packets, piece := none, lost := r.lost ++ [(off, r.packets.length, n)] }

/-- The packet torn by a gap before a page, by a page that does not continue it, or with the start that its page continues: it is lost
at the first page that ends it or does not go on with it. -/
def oggTorn (off : Nat) (cont ends : Bool) (r : OggRun) : OggRun :=
  let gap := r.seq.isSome
  let torn := if gap || (r.piece.isSome && !cont) || (r.piece.isNone && r.torn.isNone && cont) then some off else r.torn
  match torn with
  | none => r
  | some o => if cont && !ends then { r with piece := none, torn := some o } else { oggLose r o 1 with torn := none }

/-- A good page taken: a continued packet joins its open piece, or is lost with it. -/
def oggTake (a : Array Nat) (off : Nat) (p : OggPage) (r : OggRun) : OggRun :=
  let cont := p.flags % 2 == 1
  let (whole, s, n) := oggPieces p.lacing p.data 0
  let r1 := oggTorn off cont (!whole.isEmpty) (if r.seq = some p.seq then { r with seq := none } else r)
  let pieces := whole.map fun w => (oggSlice a w.1 w.2, w.1)
  let joined := if !cont then pieces.map fun w => (some w.1, w.2)
    else
      match r1.piece, pieces with
      | some (h, o), w :: ws => (some (h ++ w.1), o) :: ws.map fun w => (some w.1, w.2)
      | _, _ :: ws => ws.map fun w => (some w.1, w.2)
      | _, [] => []
  let packets := joined.foldl (fun l w => w :: l) r1.packets
  { r1 with
    packets := packets
    piece := if p.lacing.getLast? ≠ some 255 then none
      else if cont ∧ whole.isEmpty then r1.piece.map fun h => (h.1 ++ oggSlice a s n, h.2) else some (oggSlice a s n, s)
    marks := if whole.isEmpty then r1.marks else (p.granule, packets.length) :: r1.marks
    seq := some (p.seq + 1), ended := bitOf p.flags 2 == 1 }

/-- A page whose check sum is bad: the packets that end in it are lost, and one that it leaves open is torn. -/
def oggBad (off : Nat) (p : OggPage) (r : OggRun) : OggRun :=
  let n := (oggPieces p.lacing p.data 0).1.length
  let open_ := decide (p.lacing.getLast? = some 255)
  { oggLose r off (if open_ then n else Nat.max 1 n) with torn := if open_ then some off else none, seq := none }

/-- Pages of one stream from an offset to its last. A page whose check sum is bad loses its packets; the next page is looked
for behind it. A packet that is open where the input ends is lost. -/
def oggPages (a : Array Nat) (serial : Nat) : Nat → Nat → Bool → OggRun → OggRun
  | 0, _, _, r => r
  | fuel + 1, off, seek, r =>
    if a.size ≤ off ∨ r.ended then
      (if r.torn.isSome ∨ r.piece.isSome then { oggLose r (r.torn.getD off) 1 with torn := none } else r)
    else
      match oggFields a off with
      | some p =>
        if oggGood a off p then
          oggPages a serial fuel p.next false (if p.serial = serial then oggTake a off p r else r)
        else oggPages a serial fuel (off + 27) true (oggBad off p r)
      | none =>
        oggPages a serial fuel (off + 1) true
          (if seek then r else { r with piece := none, torn := some (r.torn.getD off), seq := none })

/-- The streams of an OpusHead packet; some none: a family outside R187; none: no such header. -/
def opusHead (l : List Nat) : Option (Option (Nat × Nat)) :=
  let at_ (k : Nat) : Nat := l.getD k 0
  let ch := at_ 9
  let n := at_ 19
  if l.take 8 ≠ [79, 112, 117, 115, 72, 101, 97, 100] ∨ l.length < 19 ∨ 15 < at_ 8 ∨ ch = 0 then none
  else if at_ 18 = 0 then (if ch ≤ 2 then some (some (ch, 1)) else none)
  else if at_ 18 ≠ 1 ∨ 8 < ch then some none
  else if l.length < 21 + ch ∨ n = 0 ∨ n < at_ 20 ∨
      (List.range ch).any (fun k => at_ (21 + k) != 255 && decide (n + at_ 20 ≤ at_ (21 + k))) then none
  else some (some (ch, n))

/-- The samples of each packet; a lost one has those of the packet in front of it, or at the start those of the first good one (DESIGN
CHOICE, log 79). -/
def opusFilled : Nat → List (Option Nat) → List Nat
  | _, [] => []
  | p, x :: r => x.getD p :: opusFilled (x.getD p) r

/-- A sample of the K12's own decoder (R191): a number, so that a constant that is none counts as 0. -/
def opusSample (head : Bytes) (given : List (Option Bytes)) (c i : Nat) : Num :=
  let v := decode .fp32 (Config.opusPcm head given c i % 2 ^ 32)
  if isFin v then v else numZero

/-- An Opus input. -/
def opusDecode (b : Bytes) : AudioDecode :=
  let a := (b.map (·.toNat)).toArray
  let read := ceilDiv a.size 64
  match (oggFields a 0).filter (oggGood a 0) with
  | none => audioFails 2 read badHeader
  | some p0 =>
    let head := oggSlice a p0.data (p0.lacing.foldl (· + ·) 0)
    match opusHead head with
    | none => audioFails 2 read badHeader
    | some none => audioFails 5 read []
    | some (some (ch, streams)) =>
      let r := oggPages a p0.serial (a.size + 1) p0.next false
        { packets := [], piece := none, torn := none, marks := [], seq := some (p0.seq + 1), lost := [], ended := false }
      let all := r.packets.reverse
      -- the packet behind the header is the comment packet
      let audio := all.drop 1
      let durs := audio.map fun p => p.1.bind (opusStreams streams)
      let count := audio.length
      let filled := opusFilled ((durs.findSome? id).getD 0) durs
      let sum (n : Nat) : Nat := (filled.take n).foldl (· + ·) 0
      let marks := r.marks.reverse.filter fun m => 1 < m.2
      let start := match marks with
        | (g, n) :: _ => g - sum (n - 1)
        | [] => 0
      -- packets lost behind the last granule position follow it
      let last := match marks.getLast? with
        | some (g, n) => g + (sum count - sum (n - 1))
        | none => sum count
      let len := last - start - (head.getD 10 0 + 256 * head.getD 11 0)
      let found := r.lost.map (fun d => (d.1, d.2.1 - 1, d.2.2)) ++ ((List.range count).filterMap fun k =>
        match audio.getD k (none, 0), durs.getD k none with
        | (some _, o), none => some (o, k, 1)
        | _, _ => none)
      let damage := (found.mergeSort fun x y => decide (x.1 ≤ y.1)).map fun d =>
        ({ used := ceilDiv d.1 64 + ch * ceilDiv (sum d.2.1) 64, offset := d.1, unit := d.2.1, count := d.2.2 } : Damage)
      let given : List (Option Bytes) := audio.map fun p => p.1.map fun l => l.map (BitVec.ofNat 8)
      { outcome := if damage.isEmpty then 0 else 1, rate := 48000,
        pcm := (Array.range ch).map fun c => (Array.range len).map fun i =>
          opusSample (head.map (BitVec.ofNat 8)) given c i,
        length := len, units := read + ch * ceilDiv len 64, damage := damage }

end Sys2Proof.Machine
end

