-- ==== Sys2Proof/Machine/Png.lean ====
section
/-! DEFINITION. PNG (spec R187–R189, R205, R207): chunks, the inflate of RFC 1951 by reference, filters, Adam7, palettes, and
the concealment of damaged rows. -/
namespace Sys2Proof.Machine
open Sys2Proof

/-! Inflate. Output bytes are kept newest first, each with the number of compressed bits read when it was written. -/

/-- How reading ends: as it should, at something that the format does not allow, or because the data runs out. -/
inductive Stop where
  | done
  | bad
  | short
  deriving DecidableEq, Repr

/-- What an inflation wrote, the bits that it read (up to the place of an error), and how it ended. -/
structure Inflated where
  out : List (Nat × Nat)
  used : Nat
  stop : Stop

def lenBase : List Nat := [3, 4, 5, 6, 7, 8, 9, 10, 11, 13, 15, 17, 19, 23, 27, 31, 35, 43, 51, 59, 67, 83, 99, 115, 131, 163, 195, 227, 258]
def lenExtra : List Nat := [0, 0, 0, 0, 0, 0, 0, 0, 1, 1, 1, 1, 2, 2, 2, 2, 3, 3, 3, 3, 4, 4, 4, 4, 5, 5, 5, 5, 0]
def distBase (k : Nat) : Nat := if k < 4 then k + 1 else (2 + k % 2) * 2 ^ (k / 2 - 1) + 1
def distExtra (k : Nat) : Nat := if k < 4 then 0 else k / 2 - 1
def codeLenOrder : List Nat := [16, 17, 18, 0, 8, 7, 9, 6, 10, 5, 11, 4, 12, 3, 13, 2, 14, 1, 15]

/-- The code of a list of lengths, symbol by symbol. -/
def codeOfLens (lens : List Nat) : Option Code :=
  canonCode ((List.range 15).flatMap fun l => (List.range lens.length).filterMap fun s =>
    if lens.getD s 0 = l + 1 then some (l + 1, s) else none)

/-- `n` bytes copied from a distance back. -/
def copyBack (pos dist : Nat) : Nat → List (Nat × Nat) → List (Nat × Nat)
  | 0, out => out
  | n + 1, out => copyBack pos dist n (((out[dist - 1]?.map fun p => p.1).getD 0, pos) :: out)

/-- A value read, or how reading stopped. -/
def orShort {α : Type} (x : Option α) : Except Stop α := x.elim (.error .short) .ok
def orBad {α : Type} (x : Option α) : Except Stop α := x.elim (.error .bad) .ok
def Code.take (c : Code) (l : List Bool) : Except Stop (Nat × List Bool) :=
  match c.read l with
  | some (some r) => .ok r
  | some Option.none => .error .bad
  | Option.none => .error .short

/-- The length and distance behind a symbol of a copy, and the rest. -/
def takeCopy (dist : Code) (have_ s : Nat) (r : List Bool) : Except Stop (Nat × Nat × List Bool) := do
  let (x, r1) ← orShort (takeLsb (lenExtra.getD (s - 257) 0) r)
  let (k, r2) ← dist.take r1
  if 29 < k then throw .bad
  let (y, r3) ← orShort (takeLsb (distExtra k) r2)
  if have_ < distBase k + y then throw .bad
  return (lenBase.getD (s - 257) 3 + x, distBase k + y, r3)

/-- The symbols of a block up to its end; the answer says how it ended. -/
def inflateSyms (total : Nat) (lit dist : Code) : Nat → List Bool → List (Nat × Nat) → List Bool × List (Nat × Nat) × Stop
  | 0, l, out => (l, out, .short)
  | fuel + 1, l, out =>
    match lit.take l with
    | .error e => (l, out, e)
    | .ok (s, r) =>
      if s < 256 then inflateSyms total lit dist fuel r ((s, total - r.length) :: out)
      else if s = 256 then (r, out, .done)
      else if 285 < s then (l, out, .bad)
      else
        match takeCopy dist out.length s r with
        | .ok (n, d, r1) => inflateSyms total lit dist fuel r1 (copyBack (total - r1.length) d n out)
        | .error e => (l, out, e)

/-- The code lengths of a dynamic block, run lengths undone. -/
def readLens (c : Code) : Nat → Nat → List Bool → List Nat → Except Stop (List Nat × List Bool)
  | 0, _, _, _ => .error .bad
  | fuel + 1, want, l, acc =>
    if want ≤ acc.length then (if acc.length = want then .ok (acc.reverse, l) else .error .bad)
    else do
      let (s, r) ← c.take l
      if s < 16 then readLens c fuel want r (s :: acc)
      else
        let (bits, base, v) := if s = 16 then (2, 3, acc.head?) else if s = 17 then (3, 3, some 0) else (7, 11, some 0)
        let x ← orBad v
        let (n, r2) ← orShort (takeLsb bits r)
        readLens c fuel want r2 (List.replicate (base + n) x ++ acc)

def fixedLit : Option Code :=
  codeOfLens (List.replicate 144 8 ++ List.replicate 112 9 ++ List.replicate 24 7 ++ List.replicate 8 8)
def fixedDist : Option Code := codeOfLens (List.replicate 30 5)

/-- The codes of a dynamic block. -/
def dynCodes (l : List Bool) : Except Stop (Code × Code × List Bool) := do
  let (hlit, l1) ← orShort (takeLsb 5 l)
  let (hdist, l2) ← orShort (takeLsb 5 l1)
  let (hclen, l3) ← orShort (takeLsb 4 l2)
  let (cl, l4) ← orShort <| (List.range (hclen + 4)).foldl (fun (acc : Option (List (Nat × Nat) × List Bool)) i =>
    acc.bind fun (m, l) => (takeLsb 3 l).map fun (v, r) => ((codeLenOrder.getD i 0, v) :: m, r)) (some ([], l3))
  let c ← orBad <| codeOfLens ((List.range 19).map fun s => ((cl.find? fun p => p.1 == s).map fun p => p.2).getD 0)
  let n := hlit + 257 + hdist + 1
  let (lens, l5) ← readLens c (n + 1) n l4 []
  let lit ← orBad <| codeOfLens (lens.take (hlit + 257))
  let dist ← orBad <| codeOfLens (lens.drop (hlit + 257))
  return (lit, dist, l5)

/-- Blocks until the last one ends, an error, or the end of the data. -/
def inflateGo (total : Nat) : Nat → List Bool → List (Nat × Nat) → Inflated
  | 0, _, out => { out := out, used := total, stop := .short }
  | fuel + 1, l, out =>
    -- data that runs out has all been read
    let stop (l : List Bool) (out : List (Nat × Nat)) (e : Stop) : Inflated :=
      { out := out, used := if e = .short then total else total - l.length, stop := e }
    let next (fin : Nat) (r : List Bool × List (Nat × Nat) × Stop) : Inflated :=
      if r.2.2 ≠ .done ∨ fin = 1 then stop r.1 r.2.1 r.2.2 else inflateGo total fuel r.1 r.2.1
    match takeLsb 1 l with
    | none => stop l out .short
    | some (fin, l1) =>
      match takeLsb 2 l1 with
      | some (0, l2) =>
        let l3 := l2.drop (l2.length % 8)
        (match takeLsb 16 l3 with
          | some (n, l4) =>
            (match takeLsb 16 l4 with
              | some (m, l5) =>
                if m ≠ 0xFFFF - n then stop l3 out .bad
                else
                  let r := (List.range n).foldl (fun (acc : List Bool × List (Nat × Nat) × Stop) _ =>
                    match takeLsb 8 acc.1 with
                    | some (v, r) => (r, (v, total - r.length) :: acc.2.1, acc.2.2)
                    | none => (acc.1, acc.2.1, .short)) (l5, out, .done)
                  next fin r
              | none => stop l out .short)
          | none => stop l out .short)
      | some (1, l2) =>
        (match fixedLit, fixedDist with
          | some a, some b => next fin (inflateSyms total a b (l2.length + 1) l2 out)
          | _, _ => stop l out .bad)
      | some (2, l2) =>
        (match dynCodes l2 with
          | .ok (a, b, l3) => next fin (inflateSyms total a b (l3.length + 1) l3 out)
          | .error e => stop l out e)
      | some _ => stop l1 out .bad
      | none => stop l out .short

/-- A zlib stream: its two header bytes, then the deflate data. The check sum at its end is read and not looked at. -/
def zlibInflate (b : Bytes) : Inflated :=
  if b.length < 2 then { out := [], used := 8 * b.length, stop := .short }
  else if byteAt b 0 % 16 ≠ 8 ∨ (256 * byteAt b 0 + byteAt b 1) % 31 ≠ 0 ∨ bitOf (byteAt b 1) 5 = 1 then
    { out := [], used := 0, stop := .bad }
  else
    let bits := bitsLsb (b.drop 2)
    let r := inflateGo bits.length (bits.length + 1) bits []
    { r with used := r.used + 16, out := r.out.map fun p => (p.1, p.2 + 16) }

/-- The compressed bits read: behind a whole stream its four check bytes too, as far as they are there (R205). -/
def Inflated.read (r : Inflated) (size : Nat) : Nat :=
  if r.stop = .done then Nat.min (8 * size) ((r.used + 7) / 8 * 8 + 32) else r.used

/-! Chunks. -/

/-- The chunks: offset, length, type, and whether the check sum is good; a chunk that runs past the input ends the list. -/
structure PngChunk where
  off : Nat
  len : Nat
  type : Nat
  good : Bool
  whole : Bool

def pngChunks (b : Bytes) : Nat → Nat → List PngChunk
  | 0, _ => []
  | fuel + 1, off =>
    if b.length < off + 8 then []
    else
      let n := beNat b off 4
      let t := beNat b (off + 4) 4
      if b.length < off + 12 + n then [{ off := off, len := b.length - (off + 8), type := t, good := false, whole := false }]
      else
        let ok := crc32 (sub b (off + 4) (n + 4)) == beNat b (off + 8 + n) 4
        { off := off, len := n, type := t, good := ok, whole := true } :: (if t = 0x49454E44 then [] else pngChunks b fuel (off + 12 + n))

/-- The header: size, depth, colour type, interlace. -/
structure PngHead where
  w : Nat
  h : Nat
  depth : Nat
  ct : Nat
  lace : Bool

def pngChannels (ct : Nat) : Nat := if ct = 0 ∨ ct = 3 then 1 else if ct = 2 then 3 else if ct = 4 then 2 else 4

/-! Filters. -/

def paeth (a b c : Nat) : Nat :=
  let p : Int := (a : Int) + b - c
  let pa := (p - a).natAbs
  let pb := (p - b).natAbs
  let pc := (p - c).natAbs
  if pa ≤ pb ∧ pa ≤ pc then a else if pb ≤ pc then b else c

/-- One row unfiltered: the raw bytes against the row above, `bpp` bytes a pixel; the rows are held newest byte first. -/
def unfilterGo (ft bpp : Nat) : List Nat → List Nat → List Nat → List Nat → List Nat
  | x :: xs, up, seen, out =>
    let a := out.getD (bpp - 1) 0
    let u := up.headD 0
    let c := seen.getD (bpp - 1) 0
    let p := match ft with
      | 1 => a
      | 2 => u
      | 3 => (a + u) / 2
      | 4 => paeth a u c
      | _ => 0
    unfilterGo ft bpp xs up.tail (u :: seen) ((x + p) % 256 :: out)
  | [], _, _, out => out.reverse

/-- The rows of one image or pass: each unfiltered row, or none where its data is missing or its filter type invalid, then with
the compressed bits and the inflated bytes read when that filter type came. A damaged row stands as zeros for the row below
it. -/
def pngRows (bpp len : Nat) : Nat → Array (Nat × Nat) → Nat → List Nat → List (Option (List Nat) × Option (Nat × Nat))
  | 0, _, _, _ => []
  | n + 1, data, at_, prev =>
    let have_ := decide (at_ + 1 + len ≤ data.size)
    let ft := (data.getD at_ (0, 0)).1
    let wrong := if at_ < data.size ∧ 4 < ft then some ((data.getD at_ (0, 0)).2, at_ + 1) else none
    if have_ && decide (ft ≤ 4) then
      let raw := (List.range len).map fun i => (data.getD (at_ + 1 + i) (0, 0)).1
      let row := unfilterGo ft bpp raw prev [] []
      (some row, none) :: pngRows bpp len n data (at_ + 1 + len) row
    else (none, wrong) :: pngRows bpp len n data (at_ + 1 + len) (List.replicate len 0)

/-- The samples of a row of bytes. -/
def rowSamples (deep : Bool) (row : List Nat) : List Nat :=
  if deep then (List.range (row.length / 2)).map fun i => 256 * row.getD (2 * i) 0 + row.getD (2 * i + 1) 0 else row

/-- Adam7: first column, first row, column step, row step of each pass. -/
def adam7 : List (Nat × Nat × Nat × Nat) :=
  [(0, 0, 8, 8), (4, 0, 8, 8), (0, 4, 4, 8), (2, 0, 4, 4), (0, 2, 2, 4), (1, 0, 2, 2), (0, 1, 1, 2)]
def passSize (n start step : Nat) : Nat := if n ≤ start then 0 else (n - start + step - 1) / step

/-- The passes of an image with pixels: the one pass of a plain image covers all. -/
def pngPasses (h : PngHead) : List (Nat × Nat × Nat × Nat) :=
  if h.lace then adam7.filter fun p => decide (0 < passSize h.w p.1 p.2.2.1 ∧ 0 < passSize h.h p.2.1 p.2.2.2)
  else [(0, 0, 1, 1)]

/-- A pass with its rows as pngRows gives them. -/
abbrev PassRows := (Nat × Nat × Nat × Nat) × List (Option (List Nat) × Option (Nat × Nat))

/-- The rows of every pass in the order of the data. -/
def pngPassRows (h : PngHead) (bpp : Nat) (data : Array (Nat × Nat)) :
    List (Nat × Nat × Nat × Nat) → Nat → List PassRows
  | [], _ => []
  | p :: ps, at_ =>
    let len := passSize h.w p.1 p.2.2.1 * bpp
    let n := passSize h.h p.2.1 p.2.2.2
    (p, pngRows bpp len n data at_ []) :: pngPassRows h bpp data ps (at_ + n * (len + 1))

/-- The first row of the final image that damaged data touches, in an interlaced image: every row from it on is damaged. -/
def firstTouched (h : PngHead) (rows : List PassRows) : Nat :=
  rows.foldl (fun m p =>
    (List.range p.2.length).foldl (fun m r =>
      if ((p.2.getD r (none, none)).1).isNone then Nat.min m (p.1.2.1 + r * p.1.2.2.2) else m) m) h.h

/-- The samples of the final image, pixel by pixel, from the rows of its passes. -/
def pngPixels (h : PngHead) (ch : Nat) (rows : List PassRows) : Array Nat :=
  rows.foldl (fun (a : Array Nat) p =>
    (List.range p.2.length).foldl (fun (a : Array Nat) r =>
      match (p.2.getD r (none, none)).1 with
      | none => a
      | some row =>
        let v := (rowSamples (h.depth == 16) row).toArray
        let y := p.1.2.1 + r * p.1.2.2.2
        (List.range v.size).foldl (fun (a : Array Nat) i =>
          a.setIfInBounds ((y * h.w + p.1.1 + i / ch * p.1.2.2.1) * ch + i % ch) (v.getD i 0)) a) a)
    (Array.replicate (h.w * h.h * ch) 0)

/-- R207: each damaged row takes the nearest good row above it, or the mid value (alpha at its maximum). -/
def concealRows (w ch : Nat) (good : Nat → Bool) (mid : Nat → Nat) : Nat → Nat → Array Nat → Array Nat
  | 0, _, a => a
  | n + 1, y, a =>
    let a1 :=
      if good y then a
      else
        (List.range (w * ch)).foldl (fun (a : Array Nat) i =>
          a.setIfInBounds (y * w * ch + i)
            (if (List.range y).any good then a.getD ((y - 1) * w * ch + i) 0 else mid (i % ch))) a
    concealRows w ch good mid n (y + 1) a1

/-- R205: the pixels that the rows of these passes de-filtered. -/
def filteredPixels (h : PngHead) (rows : List PassRows) : Nat :=
  (rows.map fun p => passSize h.w p.1.1 p.1.2.2.1 * (p.2.filter fun r => r.1.isSome).length).foldl (· + ·) 0

/-- R205: decode units of a PNG, rounded up stage by stage. -/
def pngUnits (bits inflated pixels : Nat) : Nat := ceilDiv (ceilDiv bits 8) 64 + ceilDiv inflated 64 + ceilDiv pixels 64

/-- Where the byte number k of the joined IDAT data lies in the input; none behind its end. -/
def idatPlace : List PngChunk → Nat → Option Nat
  | [], _ => none
  | c :: cs, k => if k < c.len then some (c.off + 8 + k) else idatPlace cs (k - c.len)

/-- What the data of a PNG was read from: the IDAT chunks, the one behind them whose check sum is bad or that the input cuts off, the
input's length. -/
structure PngSource where
  used : List PngChunk
  broken : Option PngChunk
  size : Nat

/-- Where the data ends: at the broken chunk, or behind the last one. -/
def PngSource.behind (p : PngSource) : Nat :=
  match p.broken with
  | some c => if c.whole then c.off else p.size
  | none => (p.used.getLast?.map fun c => c.off + 8 + c.len).getD p.size

/-- The damage of one row: where it was found and after how many units (R205, R208). An invalid filter type lies in the compressed byte
that holds the last bit of its code. -/
def pngFound (p : PngSource) (inf : Inflated) (wrong : Option (Nat × Nat)) (px unit count : Nat) : Damage :=
  match wrong with
  | some (bits, n) =>
    { used := pngUnits bits n px, offset := (idatPlace p.used ((bits - 1) / 8)).getD p.behind, unit := unit, count := count }
  | none =>
    { used := pngUnits inf.used inf.out.length px,
      offset := if inf.stop = .short then p.behind else (idatPlace p.used (inf.used / 8)).getD p.behind, unit := unit, count := count }

/-- One row of the data: its pixels, its row of the final image, whether it is good, its wrong filter type. -/
abbrev PngLine := Nat × Nat × Bool × Option (Nat × Nat)

/-- The rows of every pass in the order of the data. -/
def pngLines (h : PngHead) (rows : List PassRows) : List PngLine :=
  rows.flatMap fun p => (List.range p.2.length).map fun r =>
    let x := p.2.getD r (none, none)
    (passSize h.w p.1.1 p.1.2.2.1, p.1.2.1 + r * p.1.2.2.2, x.1.isSome, x.2)

/-- R207, R208, R210: the damage of the rows in the order it is found, behind `px` de-filtered pixels. In an interlaced image a damaged
row takes every final row from its own on that no earlier one took (down to `top`). -/
def pngDamage (lace : Bool) (p : PngSource) (inf : Inflated) : List PngLine → Nat → Nat → List Damage
  | [], _, _ => []
  | (w, y, good, wrong) :: r, px, top =>
    if good then pngDamage lace p inf r (px + w) top
    else if lace then
      if top ≤ y then pngDamage lace p inf r px top
      else pngFound p inf wrong px y (top - y) :: pngDamage lace p inf r px y
    else pngFound p inf wrong px y 1 :: pngDamage lace p inf r px top

/-- A PNG input. -/
def pngDecode (b : Bytes) : ImageDecode :=
  let sig := sub b 0 8 == [0x89, 0x50, 0x4E, 0x47, 0x0D, 0x0A, 0x1A, 0x0A]
  let chunks := pngChunks b b.length 8
  let bad := imageFails 2 0 none badHeader
  match chunks with
  | [] => bad
  | c0 :: rest0 =>
    if !sig || c0.type != 0x49484452 || c0.len != 13 || !c0.good then bad
    else
      let h : PngHead := { w := beNat b (c0.off + 8) 4, h := beNat b (c0.off + 12) 4, depth := byteAt b (c0.off + 16),
                           ct := byteAt b (c0.off + 17), lace := byteAt b (c0.off + 20) == 1 }
      let fields := decide (0 < h.w ∧ 0 < h.h) && [1, 2, 4, 8, 16].contains h.depth && [0, 2, 3, 4, 6].contains h.ct &&
        byteAt b (c0.off + 18) == 0 && byteAt b (c0.off + 19) == 0 && decide (byteAt b (c0.off + 20) ≤ 1)
      let deep := h.depth == 16
      -- R187, R210: a critical chunk or an animation outside the row; what stands in front of it has been decoded
      let outside (c : PngChunk) : Bool := c.good &&
        ((bitOf (c.type / 2 ^ 24) 5 == 0 && !([0x504C5445, 0x49444154, 0x49454E44].contains c.type)) || c.type == 0x6163544C)
      let rest := rest0.takeWhile fun c => !outside c
      let cut := rest0.any outside
      let idats := rest.filter fun c => c.type == 0x49444154
      let plte := (rest.takeWhile fun c => c.type != 0x49444154).find? fun c => c.type == 0x504C5445
      if !fields then bad
      else if decide (h.depth < 8) || (h.ct == 3 && deep) || decide (16384 < h.w) || decide (16384 < h.h) then
        imageFails 5 0 (some deep) []
      else if h.ct = 3 ∧ plte.isNone ∧ !cut then { bad with deep16 := some deep }
      else
        let ch := pngChannels h.ct
        let bpp := ch * (h.depth / 8)
        let goodIdats := idats.takeWhile fun c => c.good
        let broken := (idats.drop goodIdats.length).head?
        let used := goodIdats ++ (broken.filter fun c => !c.whole).toList
        let packed := used.flatMap fun c => sub b (c.off + 8) c.len
        let inf := zlibInflate packed
        let data := inf.out.reverse.toArray
        let rows := pngPassRows h bpp data (pngPasses h) 0
        let flat := rows.flatMap fun p => p.2
        let goodRow (y : Nat) : Bool :=
          if h.lace then decide (y < firstTouched h rows) else ((flat.getD y (none, none)).1).isSome
        let plteBad := h.ct == 3 && (plte.map fun c => !c.good).getD false
        let good (y : Nat) : Bool := goodRow y && !plteBad
        let raw := pngPixels h ch rows
        let samples := if h.ct = 3 then
            let base := ((plte.map fun c => c.off).getD 0) + 8
            let n := ((plte.map fun c => c.len).getD 0) / 3
            (Array.range (h.w * h.h * 3)).map fun i =>
              let v := raw.getD (i / 3) 0
              if v < n then byteAt b (base + 3 * v + i % 3) else 0
          else raw
        let outCh := if h.ct = 3 then 3 else ch
        let top := if deep then 65535 else 255
        let mid (c : Nat) : Nat := if (outCh = 2 ∧ c = 1) ∨ (outCh = 4 ∧ c = 3) then top else if deep then 32768 else 128
        let lost := (List.range h.h).filter fun y => !good y
        -- data that only the unsupported chunk cuts short is no damage
        let missing := cut && broken.isNone && inf.stop != .bad
        let lines := (pngLines h rows).filter fun l => l.2.2.1 || l.2.2.2.isSome || !missing
        let damage : List Damage :=
          if plteBad then [{ used := 0, offset := (plte.map fun c => c.off).getD 0, unit := 0, count := h.h }]
          else pngDamage h.lace { used := used, broken := broken, size := b.length } inf lines 0 h.h
        let units := pngUnits (inf.read packed.length) data.size (filteredPixels h rows)
        if cut then imageFails 5 units (some deep) damage
        else
          { outcome := if lost.isEmpty then 0 else 1, width := h.w, height := h.h, deep16 := some deep, channels := outCh,
            samples := concealRows h.w outCh good mid h.h 0 samples, units := units, damage := damage }

end Sys2Proof.Machine
end

