-- ==== Sys2Proof/Machine/Media.lean ====
section
/-! DEFINITION. What the slipway engines produce from an input (spec R187–R195, R205–R210): pixels and pyramids, log-mel
frames, token IDs, decode units, damage and concealment. -/
namespace Sys2Proof.Machine
open Sys2Proof

/-! Manifest entries (R198) and profiles (R393). -/

def eKind (e : Bytes) : Nat := byteAt e 8
def eProfile (e : Bytes) : Nat := byteAt e 9
def eHost (e : Bytes) : Bool := bitOf (byteAt e 10) 0 == 1
def eExplicit (e : Bytes) : Bool := bitOf (byteAt e 10) 1 == 1
def eSlot (e : Bytes) : Nat := fld e 12 2
def eSrc (e : Bytes) : Nat := fld e 16 8
def eLen (e : Bytes) : Nat := fld e 24 4
def eOut (e : Bytes) : Nat := fld e 32 6
def eOutW (e : Bytes) : Nat := fld e 48 2
def eOutH (e : Bytes) : Nat := fld e 50 2
def eTokens (e : Bytes) : Nat := fld e 40 4
def eNormA (e : Bytes) (c : Nat) : Num := decode .fp32 (fld e (64 + 8 * c) 4)
def eNormB (e : Bytes) (c : Nat) : Num := decode .fp32 (fld e (68 + 8 * c) 4)
def isImage (k : Nat) : Bool := k == 1 || k == 2
def isAudio (k : Nat) : Bool := k == 3 || k == 4 || k == 5

def pChannels (p : Bytes) : Nat := byteAt p 1
def pFilter (p : Bytes) : Nat := byteAt p 2
def pLevels (p : Bytes) : Nat := byteAt p 3
def pBudget (p : Bytes) : Nat := byteAt p 4
def pDownmix (p : Bytes) : Nat := byteAt p 5
def pPresplit (p : Bytes) : Nat := byteAt p 6
def pKinds (p : Bytes) : Nat := byteAt p 7
def pTag (p : Bytes) : Option Tag := parseTag (sub p 8 8)
def pRate (p : Bytes) : Nat := fld p 16 4
def pFft (p : Bytes) : Nat := fld p 20 2
def pWin (p : Bytes) : Nat := fld p 22 2
def pHop (p : Bytes) : Nat := fld p 24 2
def pBins (p : Bytes) : Nat := fld p 26 2
def pFrames (p : Bytes) : Nat := fld p 28 2
def pFloor (p : Bytes) : Nat := fld p 32 4
def pBos (p : Bytes) : Nat := fld p 36 4
def pEos (p : Bytes) : Nat := fld p 40 4
def pPad (p : Bytes) : Nat := fld p 44 4
def pMel (p : Bytes) : Nat := fld p 48 8
def pTok (p : Bytes) : Nat := fld p 56 8
def noId : Nat := 0xFFFFFFFF

/-- How a sample's decode ends, before its budget is looked at: outcome code, units, the damage in the order found, whether
its source is 16 bits deep, truncation, the length of R208, and the output in writes. -/
structure Decoded where
  outcome : Nat
  units : Nat
  damage : List Damage
  deep : Bool
  trunc : Bool
  outLen : Nat
  writes : List (Nat × Bytes)
  deriving DecidableEq, Repr

def outTag (p : Bytes) : Tag := (pTag p).getD { fmt := .fp32, ovf := false, scale := 0x3F800000 }

/-- The element bits of v × A + B in the profile's output format, rounded once. -/
def normElem (p : Bytes) (v a b : Num) : Nat := (writeVal (outTag p) (numAdd (numMul v a).1 b).1).1

/-! Images (R189, R190). -/

def midValue (deep16 : Bool) : Nat := if deep16 then 32768 else 128
def fullValue (deep16 : Bool) : Nat := if deep16 then 65535 else 255

/-- R189: channel c of a decoded pixel with `n` output channels. -/
def imgChan (im : ImageDecode) (n y x c : Nat) : Nat :=
  let at_ (k : Nat) : Nat := im.samples.getD ((y * im.width + x) * im.channels + k) 0
  let grey := decide (im.channels ≤ 2)
  if c = 3 then
    (if im.channels = 4 then at_ 3 else if im.channels = 2 then at_ 1 else fullValue (im.deep16.getD false))
  else if grey then at_ 0
  else if n = 1 then (77 * at_ 0 + 150 * at_ 1 + 29 * at_ 2 + 128) / 256
  else at_ c

/-- R190: channel c of a pixel of the crop; outside the image the mid value, alpha at its maximum. -/
def cropChan (e : Bytes) (im : ImageDecode) (n y x c : Nat) : Nat :=
  let whole := fld e 44 2 == 0 || fld e 46 2 == 0
  let yy := if whole then y else fld e 42 2 + y
  let xx := if whole then x else fld e 40 2 + x
  if yy < im.height ∧ xx < im.width then imgChan im n yy xx c
  else if c = 3 then fullValue (im.deep16.getD false) else midValue (im.deep16.getD false)

def cropSize (e : Bytes) (im : ImageDecode) : Nat × Nat :=
  if fld e 44 2 = 0 ∨ fld e 46 2 = 0 then (im.width, im.height) else (fld e 44 2, fld e 46 2)

/-! Filters of R190 along one axis: the taps of output place x, each a source place and its weight, `size` source places to
`out` output places. -/

/-- Bilinear with half-pixel centres; a tap beyond the edge takes the edge. The weights sum to 2 × out. -/
def bilinearTaps (size out x : Nat) : List (Nat × Nat) :=
  let pos : Int := (2 * x + 1 : Nat) * (size : Int) - out
  let at_ := pos / (2 * out : Nat)
  let frac := (pos - at_ * (2 * out : Nat)).toNat
  [(Nat.min at_.toNat (size - 1), 2 * out - frac), (Nat.min (at_ + 1).toNat (size - 1), frac)]

/-- Area averaging with exact overlap weights, which sum to `size`. -/
def areaTaps (size out x : Nat) : List (Nat × Nat) :=
  let lo := x * size
  let hi := (x + 1) * size
  (List.range (ceilDiv hi out - lo / out)).map fun k =>
    let s := lo / out + k
    (s, Nat.min hi ((s + 1) * out) - Nat.max lo (s * out))

/-- The exact filter value as numerator and denominator. -/
def filterExact (filter : Nat) (e : Bytes) (im : ImageDecode) (n y x c : Nat) : Nat × Nat :=
  let (w, h) := cropSize e im
  let taps := if filter = 0 then bilinearTaps else areaTaps
  let sum := (taps h (eOutH e) y).foldl (fun (v : Nat) ty =>
    (taps w (eOutW e) x).foldl (fun (v : Nat) tx => v + ty.2 * tx.2 * cropChan e im n ty.1 tx.1 c) v) 0
  (sum, if filter = 0 then 4 * eOutW e * eOutH e else w * h)

/-- A pyramid level: its size and its components, row by row. -/
structure Level where
  w : Nat
  h : Nat
  px : List Num
  deriving DecidableEq, Repr

def levelOf (w h n : Nat) (f : Nat → Nat → Nat → Num) : Level :=
  { w := w, h := h, px := (List.range (h * w * n)).map fun i => f (i / n / w) (i / n % w) (i % n) }

def levelAt (l : Level) (n y x c : Nat) : Num :=
  l.px.getD ((Nat.min y (l.h - 1) * l.w + Nat.min x (l.w - 1)) * n + c) numZero

/-- A value in FP32, rounded to nearest even. -/
def r32 (v : Num) : Num := decode .fp32 (toFp32 v)

/-- A resized component (R190): a free FP32 value within 2^−16 × full scale of the exact filter value; a value of Config that
is not within it gives way to the exact one, rounded. `src` holds the components of the crop. -/
def resized (e p : Bytes) (im : ImageDecode) (src : List Nat) (n y x c : Nat) : Num :=
  let (sum, d) := filterExact (pFilter p) e im n y x c
  let r := decode .fp32 (Config.resize (pFilter p) (cropSize e im) (eOutW e, eOutH e) src y x c % 2 ^ 32)
  let miss := numAbs (numSub (numMul r (numOfNat d)).1 (numOfNat sum)).1
  let lim : Num := .fin false (d * fullValue (im.deep16.getD false)) (-16)
  if isFin r && !numLt lim miss then r else r32 (numDiv (numOfNat sum) (numOfNat d)).1

/-- R190: the 2 × 2 box average, each step in FP32. -/
def boxAvg (a b c d : Num) : Num :=
  r32 (numMul (r32 (numAdd (r32 (numAdd a b).1) (r32 (numAdd c d).1)).1) (numPow2 (-2))).1

def nextLevel (n : Nat) (l : Level) : Level :=
  levelOf ((l.w + 1) / 2) ((l.h + 1) / 2) n fun y x c =>
    boxAvg (levelAt l n (2 * y) (2 * x) c) (levelAt l n (2 * y) (2 * x + 1) c) (levelAt l n (2 * y + 1) (2 * x) c)
      (levelAt l n (2 * y + 1) (2 * x + 1) c)

/-- The levels written from an address, each from a 64-byte boundary. -/
def levelWrites (e p : Bytes) (n size : Nat) : Nat → Nat → Level → List (Nat × Bytes)
  | 0, _, _ => []
  | k + 1, addr, l =>
    let b := ((List.range l.px.length).map fun i =>
      toLe size (normElem p (l.px.getD i numZero) (eNormA e (i % n)) (eNormB e (i % n)))).flatten
    (addr, b) :: levelWrites e p n size k (addr + ceilDiv b.length 64 * 64) (nextLevel n l)

/-- The byte lengths of the levels: width, height and channels halve as in R190. -/
def levelElems (n : Nat) : Nat → Nat → Nat → List Nat
  | 0, _, _ => []
  | k + 1, w, h => (w * h * n) :: levelElems n k ((w + 1) / 2) ((h + 1) / 2)

def imgElems (e p : Bytes) : Nat :=
  (levelElems (pChannels p) (pLevels p) (eOutW e) (eOutH e)).foldl (· + ·) 0

def imgWrites (e p : Bytes) (l : Level) : List (Nat × Bytes) :=
  levelWrites e p (pChannels p) (tagSize (outTag p)) (pLevels p) (eOut e) l

/-- Whole-sample content of an image: the mid value, alpha at its maximum. -/
def imgWhole (e p : Bytes) (deep16 : Bool) : List (Nat × Bytes) :=
  imgWrites e p (levelOf (eOutW e) (eOutH e) (pChannels p) fun _ _ c =>
    numOfNat (if c = 3 then fullValue deep16 else midValue deep16))

/-- The depth of an image sample for its mid value: a PNG's own, a free one where no header tells it. -/
def depthOf (e : Bytes) (im : Option ImageDecode) : Bool :=
  eKind e == 2 && ((im.bind fun i => i.deep16).getD (Config.unknownDepth e))

/-- An image sample. -/
def imgDecode (e p input : Bytes) : Decoded :=
  let im := if eKind e = 2 then pngDecode input else jpegDecode input
  let deep := depthOf e (some im)
  let n := pChannels p
  let base : Decoded := { outcome := im.outcome, units := im.units + ceilDiv (imgElems e p) 64, damage := im.damage, deep := deep,
                          trunc := false, outLen := eOutW e * eOutH e, writes := [] }
  if im.outcome ≤ 1 then
    let same := decide (cropSize e im = (eOutW e, eOutH e))
    let w := (cropSize e im).1
    let src := if same then [] else (List.range (w * (cropSize e im).2 * n)).map fun i => cropChan e im n (i / n / w) (i / n % w) (i % n)
    let l := levelOf (eOutW e) (eOutH e) n fun y x c =>
      if same then numOfNat (cropChan e im n y x c) else resized e p im src n y x c
    { base with writes := imgWrites e p l }
  else { base with writes := imgWhole e p deep }

/-! Audio (R191, R192). -/

def audioSize (p : Bytes) : Nat := pChannels p * pFrames p * pBins p

/-- One output element: ln(max(mel, LOG_FLOOR)) × A₀ + B₀, the logarithm within the bound of R144. -/
def melElem (e p : Bytes) (mel : Num) : Nat :=
  normElem p (trValue 0x11 false (numMax mel (decode .fp32 (pFloor p)))).1 (eNormA e 0) (eNormB e 0)

/-- The output with `frames` decoded frames; the frames beyond them hold the floor. -/
def audioWrites (e p : Bytes) (frames : Nat) (mel : Nat → Nat → Nat → Num) : List (Nat × Bytes) :=
  let fr := pFrames p
  let nb := pBins p
  [(eOut e, ((List.range (audioSize p)).map fun i =>
    let t := i / nb % fr
    toLe (tagSize (outTag p)) (melElem e p (if t < frames then mel (i / nb / fr) t (i % nb) else numZero))).flatten)]

def silence (e p : Bytes) : List (Nat × Bytes) := audioWrites e p 0 fun _ _ _ => numZero

/-- Bytes as a text of ASCII codes. -/
def isText (b : Bytes) (off : Nat) (t : List Nat) : Bool := sub b off t.length == t.map (BitVec.ofNat 8)

/-- The RIFF chunks from an offset: identifier offset and declared size. -/
def wavChunks (b : Bytes) : Nat → Nat → List (Nat × Nat)
  | 0, _ => []
  | n + 1, off =>
    if b.length < off + 8 then [] else (off, fld b (off + 4) 4) :: wavChunks b n (off + 8 + (fld b (off + 4) 4 + 1) / 2 * 2)

/-- A PCM WAV input (R187, R207). -/
def wavDecode (b : Bytes) : AudioDecode :=
  let bad := audioFails 2 (ceilDiv b.length 64) badHeader
  let chunks := wavChunks b (b.length / 8 + 1) 12
  if !(isText b 0 [82, 73, 70, 70] && isText b 8 [87, 65, 86, 69]) then bad
  else
    match chunks.find? fun c => isText b c.1 [102, 109, 116, 32], chunks.find? fun c => isText b c.1 [100, 97, 116, 97] with
    | some (fo, fs), some (d, ds) =>
      if fs < 16 then bad
      else
        let tag := fld b (fo + 8) 2
        let ch := fld b (fo + 10) 2
        let rate := fld b (fo + 12) 4
        let bits := fld b (fo + 22) 2
        let sub_ := tag == 0xFFFE && decide (40 ≤ fs) &&
          sub b (fo + 32) 16 == [1, 0, 0, 0, 0, 0, 0x10, 0, 0x80, 0, 0, 0xAA, 0, 0x38, 0x9B, 0x71]
        if !((tag == 1 || sub_) && (bits == 16 || bits == 24) && decide (1 ≤ ch) && decide (ch ≤ 8) &&
            decide (8000 ≤ rate) && decide (rate ≤ 192000)) then
          audioFails 5 (ceilDiv b.length 64) []
        else
          let size := bits / 8
          let block := ch * size
          let want := ds / block
          let have_ := Nat.min want ((b.length - (d + 8)) / block)
          let data := ((b.drop (d + 8)).take (have_ * block)).toArray
          let at_ (i : Nat) : Num :=
            let v := (List.range size).foldr (fun k v => (data.getD (i * size + k) 0).toNat + 256 * v) 0
            let i : Int := if 2 ^ (bits - 1) ≤ v then (v : Int) - 2 ^ bits else v
            .fin (decide (i < 0)) i.natAbs (1 - (bits : Int))
          { outcome := if have_ < want then 1 else 0, rate := rate, length := want,
            pcm := (Array.range ch).map fun c => (Array.range want).map fun i => if i < have_ then at_ (i * ch + c) else numZero,
            units := ceilDiv b.length 64 + ch * ceilDiv want 64,
            damage := if have_ < want then
                [{ used := ceilDiv b.length 64 + ch * ceilDiv have_ 64, offset := d + 8 + have_ * block, unit := have_,
                   count := want - have_ }]
              else [] }
    | _, _ => bad

/-- R191: the samples that START_MS and DURATION_MS select: the first and how many. DURATION_MS 0 is the rest of the input; an
end that falls between two samples is free (log 23). -/
def selectRange (e : Bytes) (rate total : Nat) : Nat × Nat :=
  let st := fld e 40 4
  let du := fld e 44 4
  let first := if st * rate % 1000 = 0 then st * rate / 1000 else Config.selectedFrom st rate
  (first,
    if du = 0 then total - first
    else if st * rate % 1000 = 0 ∧ du * rate % 1000 = 0 then Nat.min (total - first) (du * rate / 1000)
    else Config.selectedLen st du rate total)

/-- R191: the number of frames of L samples, capped. -/
def frameCount (p : Bytes) (len : Nat) : Nat :=
  Nat.min (pFrames p) (if pWin p ≤ len then 1 + (len - pWin p) / pHop p else 1)

/-! The front end in fixed point of 256 places: what R192 calls the exact value. -/

/-- cos and sin of 2πj ÷ n for each j. -/
def circle (n : Nat) : Array (Int × Int) :=
  (Array.range n).map fun j => let r := fixSinCos 256 (fixPi 256 * (2 * j : Nat) / n); (r.2, r.1)

/-- The periodic Hann window. -/
def hann (n : Nat) : Array Int := (circle n).map fun c => (2 ^ 256 - c.1) / 2

def fixOfNum (v : Num) : Int :=
  match v with
  | .fin neg m e => let a : Int := fixOf 256 m e; if neg then -a else a
  | _ => 0

/-- |X[k]|² of a windowed frame, k = 0 to FFT_N ÷ 2, in units of 2^−512. -/
def powerOf (n : Nat) (ring : Array (Int × Int)) (x : Array Int) : Array Nat :=
  (Array.range (n / 2 + 1)).map fun k =>
    let (re, im) := (List.range x.size).foldl (fun (acc : Int × Int) i =>
      let c := ring.getD (k * i % n) (0, 0)
      let v := x.getD i 0
      (acc.1 + v * c.1, acc.2 - v * c.2)) (0, 0)
    let r := re / 2 ^ 256
    let i := im / 2 ^ 256
    (r * r + i * i).toNat

/-- A mel value (R192): a free FP32 value within 2^−18 × ΣP[k] of the exact one; a value of Config that is not within it gives
way to the exact one, rounded. -/
def melValue (s : State) (p : Bytes) (frame : List Int) (power : Array Nat) (m : Nat) : Num :=
  let bins := pFft p / 2 + 1
  let row := (List.range bins).map fun k => rdElem s (pMel p + (m * bins + k) * 4) 4
  let exact := (List.range bins).foldl (fun (v : Num) k =>
    (numAdd v (numMul (decode .fp32 (row.getD k 0)) (.fin false (power.getD k 0) (-512))).1).1) numZero
  let lim : Num := .fin false (power.foldl (· + ·) 0) (-530)
  let r := decode .fp32 (Config.mel (pFft p) frame row % 2 ^ 32)
  if isFin r && isFin exact && !numLt lim (numAbs (numSub r exact).1) then r else r32 exact

/-- The channel mean, summed in ascending channel order. -/
def downmix (pcm : Array (Array Num)) (len : Nat) : Array (Array Num) :=
  #[(Array.range len).map fun i =>
    (numDiv (pcm.foldl (fun v ch => (numAdd v (ch.getD i numZero)).1) numZero) (numOfNat pcm.size)).1]

/-- Frames of one channel: the power of each. -/
def framePowers (p : Bytes) (frames : Nat) (x : Array Int) : Array (Array Nat) :=
  let ring := circle (pFft p)
  let win := hann (pWin p)
  (Array.range frames).map fun t => powerOf (pFft p) ring ((Array.range (pWin p)).map fun i =>
    x.getD (t * pHop p + i) 0 * win.getD i 0 / 2 ^ 256)

/-- The decoded stream of an audio kind. -/
def audioStream (kind : Nat) (input : Bytes) : AudioDecode :=
  if kind = 5 then wavDecode input else if kind = 3 then flacDecode input else opusDecode input

/-- An audio sample: decode, select, downmix, convert the rate, frame, power, mel, log (R191). -/
def audioDecode (s : State) (e p input : Bytes) : Decoded :=
  let a := audioStream (eKind e) input
  let (first, sel) := selectRange e a.rate a.length
  let conv := decide (a.rate ≠ pRate p)
  let len := if conv then Config.resampledLen sel a.rate (pRate p) else sel
  let okay := decide (a.outcome ≤ 1)
  let frames := if okay then frameCount p len else pFrames p
  let cut := a.pcm.map fun c => (Array.range sel).map fun i => c.getD (first + i) numZero
  let mixed := if pDownmix p = 1 then downmix cut sel else cut
  let heard := mixed.map fun c => c.map fixOfNum
  let x := if conv then
      heard.map fun c => (Array.range len).map fun i =>
        fixOfNum (decode .fp32 (Config.resample a.rate (pRate p) c.toList i % 2 ^ 32))
    else heard
  let powers := x.map (framePowers p frames)
  let units := a.units + (if okay && conv then ceilDiv (mixed.size * len) 64 else 0) + frames * pChannels p * (pFft p / 64)
  { outcome := a.outcome, units := units, damage := a.damage, deep := false, trunc := false, outLen := frames,
    writes := if okay && decide (0 < len) then
        audioWrites e p frames fun c t m =>
          if c < x.size then
            melValue s p ((List.range (pWin p)).map fun i => (x.getD c #[]).getD (t * pHop p + i) 0) ((powers.getD c #[]).getD t #[]) m
          else decode .fp32 (Config.absentChannel x.size c t m % 2 ^ 32)
      else silence e p }

/-! Text (R193–R195). -/

def inR (b lo hi : Nat) : Bool := decide (lo ≤ b) && decide (b ≤ hi)

/-- The length of the code point at the front of a string and whether it is well formed; an ill-formed start is the
maximal ill-formed subpart. -/
def utf8Step (b : Bytes) : Nat × Bool :=
  let at_ (i : Nat) : Nat := if i < b.length then byteAt b i else 0x100
  let c (i : Nat) : Bool := inR (at_ i) 0x80 0xBF
  let b0 := at_ 0
  let s2 : Bool :=
    if b0 = 0xE0 then inR (at_ 1) 0xA0 0xBF else if b0 = 0xED then inR (at_ 1) 0x80 0x9F
    else if b0 = 0xF0 then inR (at_ 1) 0x90 0xBF else if b0 = 0xF4 then inR (at_ 1) 0x80 0x8F else c 1
  if b0 < 0x80 then (1, true)
  else if inR b0 0xC2 0xDF then (if s2 then (2, true) else (1, false))
  else if inR b0 0xE0 0xEF then (if !s2 then (1, false) else if c 2 then (3, true) else (2, false))
  else if inR b0 0xF0 0xF4 then
    (if !s2 then (1, false) else if !c 2 then (2, false) else if c 3 then (4, true) else (3, false))
  else (1, false)

/-- The code points of a string, each ill-formed subpart as U+FFFD, with the ill-formed subparts. -/
def utf8Go : Nat → Nat → Bytes → List Bytes × List Damage
  | 0, _, _ => ([], [])
  | n + 1, off, b =>
    if b.isEmpty then ([], [])
    else
      let (k, ok) := utf8Step b
      let (rest, bad) := utf8Go n (off + k) (b.drop k)
      if ok then (b.take k :: rest, bad)
      else ([0xEF, 0xBF, 0xBD] :: rest, { used := ceilDiv (off + k) 64, offset := off, unit := off, count := k } :: bad)

/-- R193: the class of a code point: 0 letter, 1 digit, 2 space, 3 other. -/
def cpClass (c : Bytes) : Nat :=
  let b := byteAt c 0
  if inR b 48 57 then 1 else if b = 32 then 2
  else if inR b 65 90 || inR b 97 122 || decide (0x80 ≤ b) then 0 else 3

/-- Runs of one class; every other code point of class other alone. -/
def classRuns : List Bytes → List (List Bytes)
  | [] => []
  | c :: cs =>
    match classRuns cs with
    | (d :: ds) :: rest =>
      if cpClass c = cpClass d ∧ cpClass c ≠ 3 then (c :: d :: ds) :: rest else [c] :: (d :: ds) :: rest
    | other => [c] :: other

/-- A run in pieces of k code points. -/
def piecesOf (k : Nat) : Nat → List Bytes → List (List Bytes)
  | 0, _ => []
  | n + 1, l => if l.isEmpty then [] else l.take k :: piecesOf k n (l.drop k)

def cutDigits (r : List Bytes) : List (List Bytes) :=
  match r with
  | c :: _ => if cpClass c = 1 then piecesOf 3 r.length r else [r]
  | [] => []

/-- A single space joins the chunk that follows it. -/
def joinSpace : List (List Bytes) → List (List Bytes)
  | [] => []
  | [r] => [r]
  | r :: q :: rest => if r = [[32]] then (r ++ q) :: joinSpace rest else r :: joinSpace (q :: rest)

/-- A chunk cut before the first code point that would take it past 4,096 bytes. -/
def cutChunk : List Bytes → Bytes → List Bytes
  | [], cur => if cur.isEmpty then [] else [cur]
  | c :: cs, cur => if 4096 < cur.length + c.length then cur :: cutChunk cs c else cutChunk cs (cur ++ c)

def presplit (mode : Nat) (cps : List Bytes) : List Bytes :=
  let groups := if mode = 0 then [cps] else joinSpace (((classRuns cps).map cutDigits).flatten)
  (groups.map fun g => cutChunk g []).flatten

/-- A merge table as the tokeniser uses it (R195). -/
structure MergeTable where
  bytemap : List Nat
  merges : List (Nat × Nat × Nat × Nat)
  deriving DecidableEq, Repr

def readTable (s : State) (addr : Nat) : MergeTable :=
  { bytemap := (List.range 256).map fun i => rdElem s (addr + 64 + 4 * i) 4,
    merges := (List.range (rdElem s (addr + 8) 4)).map fun i =>
      let a := addr + 1088 + 16 * i
      (rdElem s a 4, rdElem s (a + 4) 4, rdElem s (a + 8) 4, rdElem s (a + 12) 4) }

/-- The merge of a pair: result and rank. -/
def mergeOf (t : MergeTable) (x y : Nat) : Option (Nat × Nat) :=
  (t.merges.find? fun m => m.1 == x && m.2.1 == y).map fun m => (m.2.2.1, m.2.2.2)

/-- The position of the pair of least rank, leftmost among equals, with its result and rank. -/
def bestPair (t : MergeTable) : Nat → List Nat → Option (Nat × Nat × Nat)
  | i, x :: y :: rest =>
    let later := bestPair t (i + 1) (y :: rest)
    match mergeOf t x y, later with
    | some (r, k), some (j, r2, k2) => if k ≤ k2 then some (i, r, k) else some (j, r2, k2)
    | some (r, k), none => some (i, r, k)
    | none, l => l
  | _, _ => none

def mergeAt (l : List Nat) (i r : Nat) : List Nat := l.take i ++ r :: l.drop (i + 2)

/-- All merges of a chunk, counted. -/
def mergeAll (t : MergeTable) : Nat → List Nat → Nat → List Nat × Nat
  | 0, l, n => (l, n)
  | k + 1, l, n =>
    match bestPair t 0 l with
    | some (i, r, _) => mergeAll t k (mergeAt l i r) (n + 1)
    | none => (l, n)

/-- The IDs of the chunks of a text between BOS and EOS, and the merges applied. -/
def tokenise (p : Bytes) (t : MergeTable) (cps : List Bytes) : List Nat × Nat :=
  let r := (presplit (pPresplit p) cps).foldl (fun (acc : List Nat × Nat) ch =>
    let toks := ch.map fun b => t.bytemap.getD b.toNat 0
    let (ids, n) := mergeAll t toks.length toks 0
    (acc.1 ++ ids, acc.2 + n)) ((if pBos p = noId then [] else [pBos p]), 0)
  (r.1 ++ (if pEos p = noId then [] else [pEos p]), r.2)

/-- R194: the IDs written, whether they are cut, and how many are no padding. -/
def fitTokens (p : Bytes) (max_ : Nat) (ids : List Nat) : List Nat × Bool × Nat :=
  if ids.length ≤ max_ then (ids ++ List.replicate (max_ - ids.length) (pPad p), false, ids.length)
  else if pEos p = noId then (ids.take max_, true, max_)
  else (ids.take (max_ - 1) ++ [pEos p], true, max_)

def tokenBytes (ids : List Nat) : Bytes := (ids.map (toLe 4)).flatten

/-- Whole-sample content of a text: BOS, the IDs of U+FFFD, EOS, then PAD. -/
def textWhole (e p : Bytes) (t : MergeTable) : List Nat × Bool × Nat :=
  fitTokens p (eTokens e) (tokenise p t [[0xEF, 0xBF, 0xBD]]).1

/-- A text sample. -/
def textDecode (e p input : Bytes) (t : MergeTable) : Decoded :=
  if 16777216 < eLen e then
    let (ids, tr, n) := textWhole e p t
    { outcome := 5, units := 0, damage := [], deep := false, trunc := tr, outLen := n, writes := [(eOut e, tokenBytes ids)] }
  else
    let (cps, bad) := utf8Go input.length 0 input
    let (ids, merges) := tokenise p t cps
    let (out, tr, n) := fitTokens p (eTokens e) ids
    { outcome := if bad.isEmpty then 0 else 1, units := ceilDiv (eLen e) 64 + merges, damage := bad, deep := false, trunc := tr,
      outLen := n, writes := [(eOut e, tokenBytes out)] }

/-! Sizes, budgets, outcomes. -/

/-- The bytes of an entry's output from OUT_ADDR. -/
def outBytes (e p : Bytes) : Nat :=
  if isImage (eKind e) then
    let l := levelElems (pChannels p) (pLevels p) (eOutW e) (eOutH e)
    let sz := l.map (· * tagSize (outTag p))
    (sz.dropLast.map fun b => ceilDiv b 64 * 64).foldl (· + ·) 0 + sz.getLast?.getD 0
  else if isAudio (eKind e) then audioSize p * tagSize (outTag p)
  else 4 * eTokens e

/-- R206. -/
def budgetOf (e p : Bytes) : Nat :=
  if eExplicit e then fld e 28 4
  else
    let n := if isImage (eKind e) then eOutW e * eOutH e * pChannels p else if isAudio (eKind e) then audioSize p else eTokens e
    pBudget p * (ceilDiv (eLen e) 64 + ceilDiv n 64)

/-- R208: the unit of damage of a kind. -/
def unitCode (k : Nat) : Nat := k

/-- The whole-sample content of an entry, its source `deep` bits or not: its writes, whether it is cut, and its length. -/
def wholeContent (s : State) (e p : Bytes) (deep : Bool) : List (Nat × Bytes) × Bool × Nat :=
  if isImage (eKind e) then (imgWhole e p deep, false, eOutW e * eOutH e)
  else if isAudio (eKind e) then (silence e p, false, pFrames p)
  else
    let (ids, tr, n) := textWhole e p (readTable s (pTok p))
    ([(eOut e, tokenBytes ids)], tr, n)

/-- R208: an outcome record, with the damage in the order found: the first gives FIRST_OFFSET and FIRST_UNIT. -/
def outcomeRec (e : Bytes) (outcome : Nat) (trunc : Bool) (damage : List Damage) (used len : Nat) : Bytes :=
  let first := (damage.head?.map fun d => d.offset).getD noId
  let unit := (damage.head?.map fun d => d.unit).getD noId
  let conc := (damage.map fun d => d.count).foldl (· + ·) 0
  sub e 0 8 ++ toLe 1 outcome ++ toLe 1 (if damage.isEmpty then 0 else unitCode (eKind e)) ++
    toLe 2 ((if outcome = 0 then 0 else 1) + 2 * b2n trunc) ++ toLe 4 first ++ toLe 4 (Nat.min conc noId) ++ toLe 4 unit ++
    toLe 4 (Nat.min used noId) ++ toLe 4 len

def decodeEntry (s : State) (e p input : Bytes) : Decoded :=
  if isImage (eKind e) then imgDecode e p input
  else if isAudio (eKind e) then audioDecode s e p input
  else textDecode e p input (readTable s (pTok p))

/-- A sample at the end of its decode: its output, its outcome record and the units it consumed. Over budget, the record keeps
the damage found before the engine stopped (R210). -/
def finishDecode (s : State) (e p : Bytes) (fetched : Bool) : List (Nat × Bytes) × Bytes × Nat :=
  let input := if eHost e then rdHost s false (eSrc e) (eLen e) else rdMem s (eSrc e) (eLen e)
  if !fetched then
    let (w, tr, n) := wholeContent s e p (depthOf e none)
    (w, outcomeRec e 4 tr [] 0 n, 0)
  else
    let d := decodeEntry s e p input
    let budget := budgetOf e p
    if budget < d.units then
      let (w, tr, n) := wholeContent s e p d.deep
      (w, outcomeRec e 3 tr (d.damage.filter fun x => decide (x.used ≤ budget)) budget n, budget)
    else (d.writes, outcomeRec e d.outcome d.trunc d.damage d.units d.outLen, d.units)

end Sys2Proof.Machine
end

