-- ==== Sys2Proof/Machine/Intake.lean ====
section
/-! DEFINITION. Sample intake (spec R197–R204, R209, R211, R212): manifests, windows, engine grants, release. -/
namespace Sys2Proof.Machine
open Sys2Proof

def streamIdx (die stream : Nat) : Nat := die * 8 + stream
def getStream (s : State) (k : Nat) : Stream := smGet Stream.init s.streams k
def setStream (s : State) (k : Nat) (x : Stream) : State := { s with streams := smSet Stream.init s.streams k x }
def getSlip (s : State) (die : Nat) : Slipway := smGet Slipway.init s.slips die
def setSlip (s : State) (die : Nat) (x : Slipway) : State := { s with slips := smSet Slipway.init s.slips die x }

/-! Manifest headers (R197). -/

def mhStep (h : Bytes) : W64 := fld64 h 8
def mhCount (h : Bytes) : Nat := fld h 16 4
def mhPass (h : Bytes) : Nat := fld h 20 4
def mhConc (h : Bytes) : Nat := fld h 24 6
def mhOutc (h : Bytes) : Nat := fld h 32 6
def mhRemote (h : Bytes) : Nat := fld h 40 4

/-- A region that the slipway reaches: HBM or SRAM of the shape (R38–R40, R312). -/
def memMapped (s : State) (a n : Nat) : Bool := n == 0 || inHbm s a n || inSram s a n

/-- Whether a range lies in one core's SRAM. -/
def inAnyCore (s : State) (a n : Nat) : Bool :=
  decide (sramBase ≤ a) && inSram s a n && bitOf a 28 == 1 && decide (a / coreBytes = (a + (n - 1)) / coreBytes)

/-- The profile of a stream that an entry names, if it exists and is valid. -/
def profileOf (s : State) (die stream n : Nat) : Option Bytes :=
  ((streamCfg s die stream).bind fun c => c.profiles.find? fun p => byteAt p.bytes 0 == n && p.ok).map fun p => p.bytes

/-- R199: where an output may lie. -/
def outPlaceOk (s : State) (die : Nat) (clusters : Byte) (a n : Nat) : Bool :=
  inHbm s a n ||
    (List.range 8).any fun c => bitOf clusters.toNat c == 1 && decide (0 < clusterCores s die c) &&
      inside a n (clusterBase die c) clusterBytes

/-- R198: the fields of an entry of its kind. -/
def kindFieldsOk (e : Bytes) : Bool :=
  if isImage (eKind e) then
    decide (1 ≤ eOutW e) && decide (eOutW e ≤ 16384) && decide (1 ≤ eOutH e) && decide (eOutH e ≤ 16384) && zeros e 52 12
  else if isAudio (eKind e) then zeros e 48 16
  else decide (1 ≤ eTokens e) && decide (eTokens e ≤ 1048576) && zeros e 44 20 && zeros e 64 32

/-- R198, R199: one entry by itself. -/
def entryOk (s : State) (cfg : StreamCfg) (count : Nat) (e : Bytes) : Bool :=
  match profileOf s cfg.die cfg.stream (eProfile e) with
  | none => false
  | some p =>
    decide (1 ≤ eKind e) && decide (eKind e ≤ 6) && decide (eProfile e ≤ 63) && bitOf (pKinds p) (eKind e - 1) == 1 &&
      byteAt e 10 / 4 == 0 && byteAt e 11 == 0 && decide (eSlot e < count) && zeros e 14 2 &&
      decide (1 ≤ eLen e) && decide (eLen e ≤ 268435456) &&
      (if eExplicit e then decide (1 ≤ fld e 28 4) else fld e 28 4 == 0) && zeros e 38 2 && eOut e % 64 == 0 &&
      kindFieldsOk e && zeros e 96 32 && (eHost e || inHbm s (eSrc e) (eLen e)) &&
      outPlaceOk s cfg.die cfg.clusters (eOut e) (outBytes e p)

def entryRange (s : State) (cfg : StreamCfg) (e : Bytes) : Nat × Nat :=
  (eOut e, outBytes e ((profileOf s cfg.die cfg.stream (eProfile e)).getD []))

/-- Whether no two ranges of a list share a byte. -/
def disjointRanges : List (Nat × Nat) → Bool
  | [] => true
  | r :: rs => (rs.all fun q => !overlap r.1 r.2 q.1 q.2) && disjointRanges rs

def distinct : List Nat → Bool
  | [] => true
  | x :: xs => !xs.contains x && distinct xs

/-- The header and entries at an address. -/
def manHeader (s : State) (addr : Nat) : Bytes := rdMem s addr 128
def manEntries (s : State) (addr : Nat) (h : Bytes) : List Bytes :=
  (List.range (mhCount h)).map fun i => rdMem s (addr + 128 * (i + 1)) 128

/-- R197, R199: the header at an address for a stream; `pass` is the pass of an attempt's manifest (R215). -/
def headerOk (s : State) (addr die stream : Nat) (pass : Option Nat) : Bool :=
  let h := manHeader s addr
  let n := mhCount h
  addr % 128 == 0 && inHbm s addr (128 * (n + 1)) && fld h 0 4 == 0x31464D4B && fld h 4 2 == 1 &&
    byteAt h 6 == stream && byteAt h 7 == die && decide (1 ≤ n) && decide (n ≤ 65536) && zeros h 30 2 && zeros h 38 2 &&
    zeros h 44 84 && inAnyCore s (mhConc h) (ceilDiv n 8) && mhOutc h % 32 == 0 && memMapped s (mhOutc h) (32 * n) &&
    decide (mhRemote h < 2 ^ 15) && remoteOk s (mhRemote h) &&
    (match pass with
      | some p => mhPass h == p && mhStep h == s.stp.c + 1
      | none => true)

/-- R199: the whole manifest. -/
def manifestOk (s : State) (addr die stream : Nat) (pass : Option Nat) : Bool :=
  match streamCfg s die stream with
  | none => false
  | some cfg =>
    headerOk s addr die stream pass &&
      (let h := manHeader s addr
       let es := manEntries s addr h
       let n := mhCount h
       let outs := es.map (entryRange s cfg)
       (es.all (entryOk s cfg n)) && distinct (es.map eSlot) && disjointRanges outs &&
         outs.all fun r =>
           !overlap r.1 r.2 addr (128 * (n + 1)) && !overlap r.1 r.2 (mhConc h) (ceilDiv n 8) &&
             !overlap r.1 r.2 (mhOutc h) (32 * n))

/-- The digest of a manifest. -/
def manDigest (s : State) (addr : Nat) (h : Bytes) : Bytes := digest32 (rdMem s addr (128 * (mhCount h + 1)))

/-! Replay (R332). -/

/-- The offset of MAN entry i in a logged ATTEMPT record, and how many there are. -/
def manAt (i : Nat) : Nat := 64 + 256 + 48 * i
def loggedMans (r : LogRec) : Nat := fld r.bytes (64 + 248) 4

/-- The MAN entry of a pass and stream. -/
def loggedMan (r : LogRec) (pass die stream : Nat) : Option Nat :=
  (List.range (loggedMans r)).find? fun i =>
    fld r.bytes (manAt i) 4 == pass && byteAt r.bytes (manAt i + 4) == die && byteAt r.bytes (manAt i + 5) == stream

/-- The logged record of the running attempt, while replay mode is armed. -/
def replayRec (s : State) : Option LogRec := s.stp.att.bind fun a => replayMatch s a.step

/-- Whether a manifest's digest is the logged one. -/
def replayManOk (s : State) (pass die stream : Nat) (dg : Bytes) : Bool :=
  match replayRec s with
  | none => true
  | some r =>
    match loggedMan r pass die stream with
    | some i => sub r.bytes (manAt i + 16) 32 == dg
    | none => false

/-- Whether the log has a sample's fetch as failed. -/
def replayFetchFailed (s : State) (pass die stream idx : Nat) : Bool :=
  match replayRec s with
  | none => false
  | some r =>
    match loggedMan r pass die stream with
    | some i =>
      let before := ((List.range i).map fun j => fld r.bytes (manAt j + 8) 4).foldl (· + ·) 0
      byteAt r.bytes (manAt (loggedMans r) + 16 * (before + idx) + 8) == 4
    | none => false

/-! Submission (R200, R428). -/

def streamHolds (x : Stream) : Nat := x.subs.length + x.queue.length

/-- The manifests of the attempt go to their streams in table order, as places free. -/
def feedStreams (s : State) : State :=
  match s.stp.att with
  | none => s
  | some a =>
    let r := a.mans.foldl (fun (acc : State × List ManRef) m =>
      let k := streamIdx m.die m.stream
      let x := getStream acc.1 k
      if streamHolds x < 4 ∧ !(acc.2.any fun q => q.die == m.die && q.stream == m.stream) then
        (setStream acc.1 k { x with subs := x.subs ++ [(m.addr, some m.pass)] }, acc.2)
      else (acc.1, acc.2 ++ [m])) (s, [])
    { r.1 with stp := { r.1.stp with att := some { a with mans := r.2 } } }

/-- The MANIFEST entry that handed a manifest to a stream. -/
def manifestJob (s : State) (addr : Nat) : Option JobEnt :=
  s.ctl.free.find? fun j => jobOpc j == 7 && j.sub && fld j.bytes 8 8 == addr

/-- The MANIFEST entry of an evaluation stream's manifest ends. -/
def endManifestJob (s : State) (addr status code : Nat) : State :=
  match manifestJob s addr with
  | some j => endFree s j status code
  | none => s

/-- A valid manifest joins its stream's queue, its concealed-bit array zeroed. -/
def acceptManifest (s : State) (die stream addr : Nat) (rest : List (Nat × Option Nat)) (pass : Option Nat) : State :=
  let k := streamIdx die stream
  let x := getStream s k
  let h := manHeader s addr
  let dg := manDigest s addr h
  let m : Man := { num := x.nextNum, hdr := h, ents := manEntries s addr h, digest := dg, next := 0, released := 0 }
  let s1 := setStream s k { x with subs := rest, queue := x.queue ++ [m], nextNum := x.nextNum + 1, invalid := false,
                                   mdigest := dg }
  let s2 := wrUnit s1 (srcStream die stream) [(mhConc h, zeroBytes (ceilDiv (mhCount h) 8))]
  match pass, s2.stp.att with
  | some p, some a =>
    let ml : ManLog := { pass := p, die := die, stream := stream, count := mhCount h, digest := dg }
    { s2 with stp := { s2.stp with att := some { a with manLog := a.manLog ++ [ml] } } }
  | none, _ => endManifestJob s2 addr 0 0
  | _, _ => s2

/-- MANIFEST_VALIDATION (R199): the manifest at the head of a stream's submissions. -/
def validateManifest (s : State) (die stream : Nat) : State :=
  let k := streamIdx die stream
  let x := getStream s k
  match x.subs with
  | [] => s
  | (addr, pass) :: rest =>
    if suspended s || anyStackHolds s || decide (4 ≤ x.queue.length) then s
    else
      let dg := manDigest s addr (manHeader s addr)
      let same := match pass with
        | some p => replayManOk s p die stream dg
        | none => true
      let okay := manifestOk s addr die stream pass
      if okay && same then acceptManifest s die stream addr rest pass
      else
        let s0 := if okay then diverge s else s
        let s1 := setStream s0 k { x with subs := rest, invalid := true }
        let s2 := raise s1 0x3001 (srcStream die stream) []
        match pass with
        | some _ => startAbort s2 cManifest
        | none => endManifestJob s2 addr 1 0x3001

/-! The window and the engines (R201, R202). -/

/-- The first manifest of a queue that has entries left, taken one entry further. -/
def takeEntry : List Man → Option (Sample × List Man)
  | [] => none
  | m :: ms =>
    if m.next < m.ents.length then
      some ({ man := m.num, idx := m.next, ent := m.ents.getD m.next [], st := .waiting }, { m with next := m.next + 1 } :: ms)
    else (takeEntry ms).map fun r => (r.1, m :: r.2)

def admitSample (s : State) (die stream : Nat) : State :=
  let k := streamIdx die stream
  let x := getStream s k
  if suspended s || decide (64 ≤ x.window.length) then s
  else
    match takeEntry x.queue with
    | none => s
    | some (sm, q) => setStream s k { x with queue := q, window := x.window ++ [sm] }

def kindIndex : EngineKind → Nat
  | .image => 0
  | .audio => 1
  | .text => 2
def engineKey (k : EngineKind) (e : Nat) : Nat := kindIndex k * 4 + e
def engineTakes (k : EngineKind) (e : Bytes) : Bool :=
  match k with
  | .image => isImage (eKind e)
  | .audio => isAudio (eKind e)
  | .text => eKind e == 6

/-- R186, R349: how many logical engines of a kind a slipway has: kind index 0 image, 1 audio, 2 text, 3 pyramid. -/
def enginesUp (s : State) (die kind : Nat) : Nat := offeredEngines s.spr.entries (physDie s.spr.entries die) kind

/-- The first waiting sample of a kind in a stream's window; one whose input lies in host memory waits while its link's function is
in D3hot (R407). -/
def firstWaiting (s : State) (k : EngineKind) (w : List Sample) : Option Sample :=
  w.find? fun m => decide (m.st = .waiting) && engineTakes k m.ent && !(eHost m.ent && (getFn s 0).cfg.d3hot)

def markSample (w : List Sample) (man idx : Nat) (st : SampleState) : List Sample :=
  w.map fun m => if m.man = man ∧ m.idx = idx then { m with st := st } else m

/-- ENGINE_GRANT: a free engine takes one sample, round-robin over streams. -/
def grantEngine (s : State) (die : Nat) (k : EngineKind) (e : Nat) : State :=
  let sl := getSlip s die
  let key := engineKey k e
  if suspended s || computeStopped s (islandId 4 die 0) || (smGet none sl.busy key).isSome || decide (enginesUp s die (kindIndex k) ≤ e) then s
  else
    let order := (List.range 8).map fun i => (smGet 0 sl.ptr key + i) % 8
    match order.find? fun i => (firstWaiting s k (getStream s (streamIdx die i)).window).isSome with
    | none => s
    | some i =>
      let x := getStream s (streamIdx die i)
      match firstWaiting s k x.window with
      | none => s
      | some m =>
        let s1 := setStream s (streamIdx die i) { x with window := markSample x.window m.man m.idx .decoding }
        setSlip s1 die { sl with busy := smSet none sl.busy key (some { stream := i, man := m.man, idx := m.idx }),
                                 ptr := smSet 0 sl.ptr key ((i + 1) % 8) }

/-- The decode of an engine ends. -/
def endDecode (s : State) (die : Nat) (k : EngineKind) (e : Nat) (fetched : Bool) : State :=
  let sl := getSlip s die
  let key := engineKey k e
  match smGet none sl.busy key with
  | none => s
  | some d =>
      let si := streamIdx die d.stream
      let x := getStream s si
      let s1 := setSlip s die { sl with busy := smSet none sl.busy key none }
      match x.window.find? fun m => m.man == d.man && m.idx == d.idx with
      | none => s1
      | some m =>
        let pass := ((x.queue.find? fun q => q.num == m.man).map fun q => mhPass q.hdr).getD 0
        let reach := fetched && (isEvalStream s si || !replayFetchFailed s pass die d.stream m.idx)
        let (w, rec_, used) := finishDecode s m.ent ((profileOf s die d.stream (eProfile m.ent)).getD []) reach
        setStream s1 si { x with window := markSample x.window d.man d.idx (.ready w rec_), units := satAdd64 x.units used }

/-- The sample an engine works on, if its input lies in host memory. -/
def hostSample (s : State) (die : Nat) (k : EngineKind) (e : Nat) : Option Sample :=
  (smGet none (getSlip s die).busy (engineKey k e)).bind fun d =>
    ((getStream s (streamIdx die d.stream)).window.find? fun m => m.man == d.man && m.idx == d.idx).filter fun m => eHost m.ent

/-- R409: whether the host read of a decode that ends has failed: link A is down, or the bytes did not come. The read is taken as done
when the decode ends (DESIGN CHOICE, log 113). -/
def hostReadFails (s : State) (die : Nat) (k : EngineKind) (e : Nat) (fetched : Bool) : Bool :=
  (hostSample s die k e).isSome && (!fetched || !(getFn s 0).up)

/-- R409: dma-error for the input of an engine's sample. -/
def raiseSampleDma (s : State) (die : Fin 12) (k : EngineKind) (e : Fin 4) : State :=
  raiseDma s 0 (.sample die k e) (BitVec.ofNat 64 (((hostSample s die.val k e.val).map fun m => eSrc m.ent).getD 0))

/-- SAMPLE_READY: the decode of an engine ends; not while the device is suspended (R211). -/
def finishSample (s : State) (die : Fin 12) (k : EngineKind) (e : Fin 4) (fetched : Bool) : State :=
  if suspended s then s
  else if hostReadFails s die.val k e.val fetched then endDecode (raiseSampleDma s die k e) die.val k e.val false
  else endDecode s die.val k e.val fetched

/-! Release (R203, R204). -/

def outcomeOf (rec_ : Bytes) : Nat := byteAt rec_ 8

/-- R212: the event of an outcome, once per stream and step: its bit and its code. -/
def outcomeEvent (o : Nat) : Option (Nat × Nat) :=
  match o with
  | 1 => some (0, 0x3101)
  | 2 => some (0, 0x3101)
  | 3 => some (1, 0x3102)
  | 4 => some (2, 0x3103)
  | 5 => some (3, 0x3104)
  | _ => none

/-- The stream's counters and the manifest's progress after a release. -/
def releaseStream (x : Stream) (m : Sample) (o : Nat) : Stream :=
  let q := (x.queue.map fun q => if q.num = m.man then { q with released := q.released + 1 } else q).filter fun q =>
    decide (q.released < q.ents.length)
  { x with window := x.window.drop 1, queue := q, samples := x.samples + 1,
           concealed := if o = 0 then x.concealed else satInc32 x.concealed,
           overBudget := if o = 3 then satInc32 x.overBudget else x.overBudget }

/-- The attempt's counts and its sample list (R249, R325). -/
def noteRelease (s : State) (die stream pass : Nat) (m : Sample) (rec_ : Bytes) : State :=
  match s.stp.att with
  | none => s
  | some a =>
    let o := outcomeOf rec_
    let sl : SampLog := { pass := pass, die := die, stream := stream, idx := m.idx, bytes := sub rec_ 0 16 }
    { s with stp := { s.stp with att := some { a with
        concealed := if o = 0 then a.concealed else satInc32 a.concealed,
        overBudget := if o = 3 then satInc32 a.overBudget else a.overBudget, sampLog := a.sampLog ++ [sl] } } }

/-- The memory writes of a release, in order: output, concealed bit, outcome record. -/
def releaseWrites (s : State) (src : Nat) (h : Bytes) (m : Sample) (writes : List (Nat × Bytes)) (rec_ : Bytes) : State :=
  let a := mhConc h + eSlot m.ent / 8
  let bit := if outcomeOf rec_ = 0 then []
    else [(a, [BitVec.ofNat 8 (rdElem s a 1) ||| BitVec.ofNat 8 (2 ^ (eSlot m.ent % 8))])]
  wrUnit s src (writes ++ bit ++ [(mhOutc h + 32 * m.idx, rec_)])

/-- The token of a release, and its event. -/
def releaseTell (s : State) (die stream : Nat) (h : Bytes) (m : Sample) (o : Nat) : State :=
  let s1 := signalRemote s (mhRemote h)
  let x := getStream s1 (streamIdx die stream)
  match outcomeEvent o with
  | some (b, code) =>
    if x.raised.getLsbD b then s1
    else
      raise (setStream s1 (streamIdx die stream) { x with raised := x.raised ||| BitVec.ofNat 4 (2 ^ b) }) code
        (srcStream die stream) (toLe 1 die ++ toLe 1 stream ++ sub m.ent 0 8)
  | none => s1

/-- RELEASE: the oldest sample of a stream's window leaves it once it is ready. -/
def releaseSample (s : State) (die stream : Nat) : State :=
  let k := streamIdx die stream
  let x := getStream s k
  if suspended s || anyStackHolds s then s
  else
    match x.window with
    | [] => s
    | m :: _ =>
      match m.st, x.queue.find? fun q => q.num == m.man with
      | .ready writes rec_, some q =>
        let o := outcomeOf rec_
        let s1 := releaseWrites s (srcStream die stream) q.hdr m writes rec_
        let s2 := setStream s1 k (releaseStream x m o)
        let s3 := if isEvalStream s k then s2 else noteRelease s2 die stream (mhPass q.hdr) m rec_
        feedStreams (releaseTell s3 die stream q.hdr m o)
      | _, _ => s

/-- MANIFEST_VALIDATION (R199). -/
def execManifestValidation (die : Fin 12) (stream : Fin 8) (s : State) : Host.Outcome State Fault Refusal :=
  .next (validateManifest s die.val stream.val)
/-- SAMPLE_ADMIT (R201). -/
def execSampleAdmit (die : Fin 12) (stream : Fin 8) (s : State) : Host.Outcome State Fault Refusal :=
  .next (admitSample s die.val stream.val)
/-- ENGINE_GRANT (R202). -/
def execEngineGrant (die : Fin 12) (kind : EngineKind) (engine : Fin 4) (s : State) : Host.Outcome State Fault Refusal :=
  .next (grantEngine s die.val kind engine.val)
/-- SAMPLE_READY (R203). -/
def execSampleReady (die : Fin 12) (kind : EngineKind) (engine : Fin 4) (fetched : Bool) (s : State) :
    Host.Outcome State Fault Refusal :=
  .next (finishSample s die kind engine fetched)
/-- RELEASE (R204). -/
def execRelease (die : Fin 12) (stream : Fin 8) (s : State) : Host.Outcome State Fault Refusal :=
  .next (releaseSample s die.val stream.val)

end Sys2Proof.Machine
end

