-- ==== Sys2Proof/Machine/Attempt.lean ====
section
/-! DEFINITION. An attempt from its step entry to its tally (spec R215–R217, R231–R243, R428, R429, R484, R485) and
evaluation windows (R247, R248). -/
namespace Sys2Proof.Machine
open Sys2Proof

/-! The step entry (R428). -/

def seStep (j : JobEnt) : W64 := fld64 j.bytes 8
def seNp (j : JobEnt) : Nat := fld j.bytes 16 2
def seTag (j : JobEnt) : W32 := fld32 j.bytes 20
def seTab (j : JobEnt) : Nat := fld j.bytes 24 8
def seMan (j : JobEnt) : Nat := fld j.bytes 32 4
def seSnap (j : JobEnt) : Bool := bitOf (jobByte j 1) 1 == 1

/-- The manifest table. -/
def manTable (s : State) (j : JobEnt) : List (ManRef × Bool) :=
  (List.range (seMan j)).map fun i =>
    let b := rdMem s (seTab j + 16 * i) 16
    ({ pass := fld b 0 4, die := byteAt b 4, stream := byteAt b 5, addr := fld b 8 8 }, zeros b 6 2)

def manRefKey (m : ManRef) : Nat := (m.pass * 256 + m.die) * 256 + m.stream

def manTableOk (s : State) (j : JobEnt) : Bool :=
  let t := manTable s j
  ascending (t.map fun r => manRefKey r.1) &&
    t.all fun r =>
      r.2 && decide (r.1.pass < seNp j) && (streamCfg s r.1.die r.1.stream).isSome &&
        !isEvalStream s (streamIdx r.1.die r.1.stream) && r.1.addr % 128 == 0 && inHbm s r.1.addr 128

/-- R215, R428, R339: whether a step entry keeps its rules. -/
def stepOk (s : State) (j : JobEnt) : Bool :=
  (curLayout s).isSome && entryForm j [(8, 28)] && zeros j.bytes 18 2 && seStep j == s.stp.c + 1 && decide (1 ≤ seNp j) &&
    decide (seNp j ≤ 4096) && decide (s.stp.lastTag.toNat < (seTag j).toNat) && seTab j % 64 == 0 &&
    inHbm s (seTab j) (16 * seMan j) && decide (seMan j ≤ 12288) && manTableOk s j &&
    (!hasBallast s || (List.range (seNp j)).all (balListOk s (seStep j)))

/-! Replay (R332). -/

/-- A logged ATTEMPT that replay passes over: aborted, or with a cause that only timing or a fault explains. -/
def passedOver (r : LogRec) : Bool :=
  let cause := BitVec.ofNat 12 (fld r.bytes (64 + 18) 2)
  byteAt r.bytes (64 + 16) == verAborted ||
    (cause &&& (cNomaj ||| cDataloss ||| cStale ||| cStatewr ||| cManifest ||| cHost ||| cRemote ||| cFault)) != 0

/-- The body of a logged record with PASSED set. -/
def passedBody (r : LogRec) : Bytes :=
  let n := r.bytes.length
  let b := patch (sub r.bytes 64 (n - 80)) 197 [BitVec.ofNat 8 (byteAt r.bytes (64 + 197)) ||| 2#8]
  let nm := fld b 248 4
  let ns := fld b 252 4
  b.take (256 + 48 * nm + 16 * ns)

/-- An ATTEMPT record of a step. -/
def attemptOf (step : W64) (x : LogRec) : Bool := x.type == 1 && fld64 x.bytes 24 == step

/-- A RESHARD record whose outcome is `advanced`. -/
def advancedRec (x : LogRec) : Bool := x.type == 3 && byteAt x.bytes (64 + 10) == 1

/-- One earlier attempt of the step: A rises, and a copy of its record is written with PASSED set. -/
def passOne (s : State) (x : LogRec) : State :=
  let s1 := mirrored { s with stp := { s.stp with a := s.stp.a + 1 } }
  logAppend s1 0x0001 (fld64 x.bytes 24) (passedBody x)

/-- R332: the record to match for a step entry: the first ATTEMPT record of the step that replay repeats. -/
def replayTarget (r : Replay) (step : W64) : Option LogRec := r.log.find? fun x => attemptOf step x && !passedOver x

/-- R332: every attempt of the step before the record to match is passed over; a logged re-shard before it was not matched, which
is a divergence; with none ahead the coverage has ended. -/
def passOver (s : State) (step : W64) : State :=
  match s.hold.replay with
  | none => s
  | some r =>
    match replayTarget r step with
    | none => endReplay s 3
    | some m =>
      let before := r.log.takeWhile fun x => x != m
      if r.lost then endReplay s 3
      else if before.any advancedRec then diverge s
      else
        let s1 := (before.filter (attemptOf step)).foldl passOne s
        let ahead (q : Replay) : Replay := { q with log := q.log.dropWhile fun x => x != m }
        { s1 with hold := { s1.hold with replay := s1.hold.replay.map ahead } }

/-- R332: whether the Ballast lists have the digest of the record that the step would match; a replay that ends or diverges at
this step asks nothing of them. -/
def replayListsOk (s : State) (j : JobEnt) : Bool :=
  match s.hold.replay with
  | none => true
  | some r =>
    match replayTarget r (seStep j) with
    | none => true
    | some x =>
      r.lost || ((r.log.takeWhile fun y => y != x).any advancedRec) ||
        sub x.bytes (64 + 216) 32 == balListsDigest s (seNp j)

/-! Start of an attempt. -/

def newAttempt (s : State) (j : JobEnt) : Attempt :=
  { job := j, step := seStep j, np := seNp j, tag := seTag j, snap := seSnap j, mans := (manTable s j).map fun r => r.1,
    paged := [], reduced := false, finalised := false, todo := [], normSeq := 0, grads := [], norm := none, upFrom := [],
    lossOr := false, upSent := false, jobLoss := none, verdict := none, point := 0, digests := [], repairing := false, cause := 0, held := 0,
    lostWhileSuspended := false, concealed := 0, overBudget := 0, manLog := [], sampLog := [],
    balDigest := balListsDigest s (seNp j) }

/-- A step entry that fails R215: no state changes. -/
def rejectStep (s : State) (j : JobEnt) : State :=
  let s1 := { s with ctl := { s.ctl with waiting := s.ctl.waiting.drop 1 } }
  jobDone (raise s1 0x4006 srcDevice []) j 1 0x4006

/-- A valid step entry starts its attempt. -/
def beginStep (s : State) (j : JobEnt) : State :=
  let s1 := takeHead s j
  let s2 := { s1 with stp := { s1.stp with state := .passes, pass := 0, phase := false, lastTag := seTag j, curTag := seTag j,
                                           ended := EndedAtt.init, att := some (newAttempt s1 j) },
                      pwr := { s1.pwr with limitedTold := false } }
  takeKept (feedStreams (primeCores s2 j))

/-- STEP (R215, R427): the entry at the head of the control order. -/
def startStep (s : State) : State :=
  match headEntry s 1 with
  | none => s
  | some j =>
    match entryGate s with
    | .wait => s
    | .reject => rejectHead s j
    | .start =>
      if !stepOk s j then rejectStep s j
      else if replayListsOk s j then beginStep (passOver s (seStep j)) j
      else rejectStep (diverge s) j

/-! Runs (R484, R244). -/

/-- The reduce-scatters of a core that are not complete and were issued before a place in program order. -/
def scatterPending (s : State) (x : Core) (before : Nat) : Bool :=
  (x.cols.any fun r => kCop r.desc == 1 && decide (r.ord < before)) ||
    x.colQ.any fun e => rdElem s (e.addr + 1) 1 == 1 && decide (e.ord < before)

/-- R244: whether the reduce-scatters of pass q are complete on every active core. -/
def scattersDone (s : State) (q : Nat) : Bool :=
  (activeCores s).all fun k =>
    let x := coreAt s k
    decide (q < x.run) && !scatterPending s x (x.runStarts.getD (q + 1) x.nextOrd)

def runAllowed (s : State) (p : Nat) : Bool :=
  let ra := ((curLayout s).map fun l => l.runahead).getD 0
  decide (p < ra + 1) || scattersDone s (p - 1 - ra)

/-- Whether run p of a core may start now: a pass of the attempt, or the one run of an evaluation window. -/
def runReady (s : State) (x : Core) : Bool :=
  !suspended s && !x.runActive && !x.stopped &&
    (match s.stp.state, s.stp.att with
      | .passes, some a =>
        decide (x.run < a.np) && runAllowed s x.run && (!hasBallast s || a.paged.contains x.run)
      | .evaluation, _ => x.run == 0
      | _, _ => false)

/-- PASS_RUN_START: the next run of a core's image starts at its entry. -/
def startRun (s : State) (c : CoreId) : State :=
  match imageOf s (coreIdx c) with
  | none => s
  | some i =>
    let x := getCore s c
    if !runReady s x then s
    else
      let base := coreBase c + i.loadOff
      let s1 := wrMem s (base + 60) (toLe 4 x.run)
      let s2 := setCore s1 c { x with pc := coreBase c + i.entryOff, runActive := true, fwdEnded := false,
                                      runStarts := x.runStarts ++ [x.nextOrd] }
      passView (reachMark s2 c)

/-! Stage 2 and the norm (R231, R232). -/

/-- Whether every run has ended and every collective of the runs has completed. -/
def runsDone (s : State) (a : Attempt) : Bool :=
  ((activeCores s).all fun k => decide (a.np ≤ (coreAt s k).run)) &&
    s.cores.all fun p => !p.2.runActive && p.2.cols.isEmpty && p.2.colQ.isEmpty

/-- One FP32 operation of Class C with the record flags of its result (R56, R62). -/
def op32 (r : Num × Bool) (ops : List Num) : Num × Flags :=
  let t : Tag := { fmt := .fp32, ovf := false, scale := 0x3F800000 }
  let (q, f, _) := finishElem t true r.1 r.2 (ops.any isInf) false 0
  (decode .fp32 q, f)

/-- A final record of a firmware-supplied program that ran on a core, at an address of the program's own (R126, R127). -/
def programFinal (s : State) (c : CoreId) (exc : ExcRec) : State :=
  finalRecord (bumpFresh s) c exc (Config.programRecord s.fresh)

/-- R231: the FP32 gradient of a region, each element the single rounding of its entry, and the record of the finalise
program's convert. -/
def finalise (s : State) (r : GradRegion) : State :=
  let g := (List.range r.elems).foldl (fun (acc : Bytes × ExcRec) i =>
    let v := deepOf (rdMem s (r.acc.toNat + 16 * i) 16)
    let (q, f) := op32 (v, false) [v]
    (acc.1 ++ toLe 4 (toFp32 q), excNote acc.2 f i)) ([], excFresh 2)
  programFinal (wrMem s r.grad.toNat g.1) r.core g.2

/-- A core's SUMSQ over the FP32 gradients of its regions with DEEP_OUT 1: its deep value and its record, which is not final
(R126) and notes every NaN and infinite operand (R121). -/
def coreNorm (s : State) (rs : List GradRegion) : Num × ExcRec :=
  let vals := (rs.map fun r => (List.range r.elems).map fun i => decode .fp32 (rdElem s (r.grad.toNat + 4 * i) 4)).flatten
  if vals.isEmpty then (numZero, excFresh 2)
  else
    let r := rowSum true false (fmtLanes .fp32) 0 vals (noteSpecials vals 0 (excFresh 2))
    (r.1, { r.2.2 with terms := r.2.1 })

/-- R116, R124: deep values merged pairwise with their records, level by level. -/
def mergePairs : List (Num × ExcRec) → List (Num × ExcRec)
  | a :: b :: rest =>
    let (d, f) := deepMerge a.1 b.1
    (dwordVal d.1 d.2, excMerge a.2 b.2 (excNoteN elemBefore (excFresh 3) f 0 1 0xFFFF) 1) :: mergePairs rest
  | l => l
def mergeTree : Nat → List (Num × ExcRec) → Num × ExcRec
  | _, [] => (numZero, excFresh 3)
  | _, [v] => v
  | 0, v :: _ => v
  | n + 1, l => mergeTree n (mergePairs l)

/-- R232: the device's part of the norm: the cores with regions, merged in logical order by the canonical tree. The record of
its root is final where there is a merge at all. -/
def deviceNorm (s : State) (rs : List GradRegion) : Num × Option ExcRec :=
  let per := ((List.range 768).map fun k => rs.filter fun r => coreIdx r.core == k).filter fun l => !l.isEmpty
  let leaves := (List.range per.length).map fun i =>
    let v := coreNorm s (per.getD i [])
    (v.1, excAsLeaf i v.2)
  let r := mergeTree 12 leaves
  (r.1, if per.length ≤ 1 then none else some r.2)

/-! The collectives of stages 2 and 3 (R228, R231, R232, R258). -/

/-- The core on which the harbourmaster runs what belongs to no core: the lowest of the shape. -/
def normCore (s : State) : CoreId := (allCores s).headD (coreOfIdx 0)

/-- An ALL_REDUCE that no program issues, in the form of R260. -/
def stageDesc (elem : Nat) (ovf : Bool) (margin sched count seq at_ resIn resOut : Nat) : Bytes :=
  toLe 1 4 ++ toLe 1 2 ++ toLe 1 (elem + 4 * b2n ovf) ++ toLe 1 margin ++ toLe 2 sched ++ toLe 2 0 ++ toLe 4 count ++
    toLe 4 seq ++ zeroBytes 8 ++ toLe 8 at_ ++ toLe 8 at_ ++ zeroBytes 8 ++ toLe 8 resIn ++ toLe 8 resOut ++ zeroBytes 44 ++
    [0xFF#8, 0xFF#8] ++ zeroBytes 18

/-- The replica ALL_REDUCE of a region, in place: it narrows its words once in an attempt, and so reads the committed
residue bank and writes the alternate one (R258). -/
def regionDesc (s : State) (r : GradRegion) (sched : Nat) : Bytes :=
  stageDesc (b2n r.deep) r.ovf r.margin.toNat sched r.elems r.seq.toNat r.acc.toNat
    (if r.deep then 0 else (bankRange s 2).1 + r.resOff.toNat) (if r.deep then 0 else (bankRange s 3).1 + r.resOff.toNat)

/-- A region names an ALL_REDUCE schedule over REPLICA_GROUP; it names none only where that group has one member. -/
def stageRegionOk (s : State) (r : GradRegion) : Bool :=
  match r.sched, curLayout s with
  | some k, some l =>
    (match kCtx s k.toNat with
      | some x => x.sched.cop == 2 && x.sched.group == l.replicaGroup &&
          (r.deep || decide (r.resOff.toNat + 4 * r.elems ≤ (bankRange s 3).2))
      | none => false)
  | some _, none => false
  | none, _ => replicaSize s == 1

/-- No two regions of a core share an instance of a schedule. -/
def regionsOk (s : State) : List GradRegion → Bool
  | [] => true
  | r :: rs =>
    stageRegionOk s r && regionsOk s rs &&
      !(rs.any fun q => q.sched.isSome && q.sched == r.sched && q.core == r.core && q.seq == r.seq)

/-- A collective of a stage starts on a core, once its slot is free; the answer says whether it left the waiting list. -/
def launchJob (s : State) (c : CoreId) (d : Bytes) (job : StageJob) : State × Bool :=
  match kCtx s (kSched d) with
  | none => (s, false)
  | some x =>
    let y := getCore s c
    let bad := strangers s y d x
    if slotClash s y d x then (s, false)
    else if !bad.isEmpty then (breakOrder s c bad, true)
    else (launchCol (setCore s c { y with nextOrd := y.nextOrd + 1 }) c (newRun s d (some job) y.nextOrd) x, true)

/-- Every waiting region whose slot is free starts its replica ALL_REDUCE. -/
def startJobs (s : State) (a : Attempt) : State :=
  let r := a.todo.foldl (fun (acc : State × List GradRegion) r =>
    match r.sched with
    | none => acc
    | some k =>
      let (s1, gone) := launchJob acc.1 r.core (regionDesc acc.1 r k.toNat) .reduce
      (s1, if gone then acc.2 else acc.2 ++ [r])) (s, [])
  match r.1.stp.att with
  | some b => setAtt r.1 { b with todo := r.2 }
  | none => r.1

def jobsRun (s : State) : Bool := s.cores.any fun p => p.2.cols.any fun r => r.job.isSome

/-- R231, R232: the gradients are written, and the norm goes out on NORM_SCHED; a device alone in its group holds the root. -/
def startNorm (s : State) (a : Attempt) : State :=
  let s1 := a.grads.foldl finalise s
  let (own, exc) := deviceNorm s1 a.grads
  let s2 := match exc with
    | some e => programFinal s1 (normCore s1) e
    | none => s1
  let job : StageJob := .norm (deepBytes (storeDword own).1) (deepBytes (storeDword own).1)
  let s3 := setAtt s2 { a with finalised := true }
  let sched := ((curLayout s).map fun l => l.normSched).getD 0
  match kCtx s3 sched with
  | some x =>
    if x.size = 1 then endJob s3 job
    else
      let r := launchJob s3 (normCore s3) (stageDesc 1 false 0 sched 1 a.normSeq.toNat 0 0 0) job
      if r.2 then r.1 else breakOrder r.1 (normCore s3) []
  | none => endJob s3 job

/-- Stages 2 and 3 go as far as their collectives allow. -/
def stageNext (s : State) : State :=
  match s.stp.att with
  | none => s
  | some a =>
    if suspended s || s.stp.state != .normCheck then s
    else
      let s1 := startJobs s a
      match s1.stp.att with
      | none => s1
      | some b =>
        if s1.stp.state != .normCheck || b.finalised || !b.todo.isEmpty || jobsRun s1 then decideVerdict s1
        else decideVerdict (startNorm s1 b)

/-- REPLICA_REDUCTION: stage 2 starts on the regions that the finalise program names, with the SEQ that the norm is to use. -/
def replicaReduce (s : State) (rs : List GradRegion) (normSeq : W32) : State :=
  match s.stp.att with
  | none => s
  | some a =>
    if suspended s || s.stp.state != .passes || !runsDone s a || !regionsOk s rs then s
    else
      let s1 := setAtt { s with stp := { s.stp with state := .normCheck } }
        { a with reduced := true, grads := rs, todo := rs.filter fun r => r.sched.isSome, normSeq := normSeq }
      stageNext (tryVerdictUp s1)

/-! The update (R236, R485). -/

/-- An FP64 operation of the harbourmaster. -/
def f64 (r : Num × Bool) : Num := decode .fp64 (encodeOut .fp64 false r.1).1
def narrow32 (v : Num) : Num := decode .fp32 (toFp32 v)

/-- β ^ t by square-and-multiply, most significant bit first. -/
def powBits (b : Num) (t : Nat) : Nat → Num → Num
  | 0, r => r
  | n + 1, r =>
    let q := f64 (numMul r r)
    powBits b t n (if bitOf t n = 1 then f64 (numMul q b) else q)
def powT (b : Num) (t : Nat) : Num := powBits b t (bitLen t) numOne

/-- The optimiser's values of a step. -/
structure OptVals where
  adamW : Bool
  b1 : Num
  b2 : Num
  eps : Num
  eta : Num
  a1 : Num
  a2 : Num
  c1 : Num
  c2 : Num
  dk : Num
  deriving DecidableEq, Repr

/-- R396: the learning rate of a step. -/
def lrOf (l : Layout) (t : Nat) : Nat :=
  (((l.lrs.filter fun p => decide (p.1.toNat ≤ t)).getLast?).map fun p => p.2.toNat).getD 0

def optVals (l : Layout) (t : Nat) : OptVals :=
  let b1 := decode .fp32 l.beta1.toNat
  let b2 := decode .fp32 l.beta2.toNat
  let eta := decode .fp32 (lrOf l t)
  let wd := decode .fp32 l.wd.toNat
  let p1 := powT b1 t
  let p2 := powT b2 t
  { adamW := l.adamW, b1 := b1, b2 := b2, eps := decode .fp32 l.eps.toNat, eta := eta,
    a1 := narrow32 (f64 (numDiv eta (f64 (numSub numOne p1)))),
    a2 := narrow32 (f64 (numDiv numOne (f64 (numSub numOne p2)))),
    c1 := narrow32 (f64 (numSub numOne b1)), c2 := narrow32 (f64 (numSub numOne b2)),
    dk := narrow32 (f64 (numSub numOne (f64 (numMul eta wd)))) }

/-- One element's update: the new master and moments as FP32 values, and the record flags of each operation in the order of
R485. -/
structure OptOut where
  w : Num
  m : Num
  v : Num
  flags : List Flags
  deriving DecidableEq, Repr

def opMul (a b : Num) : Num × Flags := op32 (numMul a b) [a, b]
/-- An FMA in FP32, rounded once: a NaN that the product makes is the operation's own. -/
def opFma (a b c : Num) : Num × Flags :=
  if isNan a || isNan b || isNan c then op32 (.nan, false) [a, b, c]
  else
    let (p, i) := numMul a b
    op32 (if i then (.nan, true) else numAdd p c) [a, b, c]

/-- R485: one element. -/
def optElem (o : OptVals) (w m v g : Num) : OptOut :=
  if o.adamW then
    let t1 := opMul o.c1 g
    let m' := opFma o.b1 m t1.1
    let t2 := opMul g g
    let t3 := opMul o.c2 t2.1
    let v' := opFma o.b2 v t3.1
    let t4 := opMul v'.1 o.a2
    let t5 := op32 (numSqrt t4.1) [t4.1]
    let t6 := op32 (numAdd t5.1 o.eps) [t5.1, o.eps]
    let t7 := opMul m'.1 o.a1
    let u := op32 (numDiv t7.1 t6.1) [t7.1, t6.1]
    let t8 := opMul w o.dk
    let w' := op32 (numSub t8.1 u.1) [t8.1, u.1]
    { w := w'.1, m := m'.1, v := v'.1,
      flags := [t1.2, m'.2, t2.2, t3.2, v'.2, t4.2, t5.2, t6.2, t7.2, u.2, t8.2, w'.2] }
  else
    let v' := opFma o.b1 m g
    let t8 := opMul w o.dk
    let t9 := opMul v'.1 o.eta
    let w' := op32 (numSub t8.1 t9.1) [t8.1, t9.1]
    { w := w'.1, m := v'.1, v := numZero, flags := [v'.2, t8.2, t9.2, w'.2] }

/-- The regions of a shard, in the order in which they fill it. -/
def shardRegions (a : Attempt) (shard : W32) : List GradRegion := a.grads.filter fun r => r.shard == shard

/-- The gradient bytes of a shard, in region order. -/
def shardGrads (s : State) (a : Attempt) (shard : W32) : List Nat :=
  ((shardRegions a shard).map fun r => (List.range r.elems).map fun i => rdElem s (r.grad.toNat + 4 * i) 4).flatten

/-- The records of the optimiser over consecutive elements: one for each operation of R485 (DESIGN CHOICE, log 81). -/
def optRecords (es : List OptOut) (ops : Nat) : List ExcRec :=
  (List.range ops).map fun k =>
    (List.range es.length).foldl (fun e i => excNote e (((es.getD i ⟨.nan, .nan, .nan, []⟩).flags).getD k 0) i) (excFresh 2)

/-- The final records of a shard's update: on each region's core for its elements, on the lowest core for elements of no
region. -/
def countShard (s : State) (es : List OptOut) (ops : Nat) : List GradRegion → State
  | [] => if es.isEmpty then s else (optRecords es ops).foldl (fun s e => programFinal s (normCore s) e) s
  | r :: rs =>
    countShard ((optRecords (es.take r.elems) ops).foldl (fun s e => programFinal s r.core e) s) (es.drop r.elems) ops rs

/-- One shard and its tag, from the committed bank into the alternate bank. -/
def updateShard (s : State) (a : Attempt) (o : OptVals) (x : Shard) : State :=
  let src := (bankRange s 0).1
  let dst := (bankRange s 1).1
  let n := x.bytes / (if o.adamW then 12 else 8)
  let gs := shardGrads s a x.shard
  let word (k i : Nat) : Num := decode .fp32 (rdElem s (src + x.offset + 4 * (k * n + i)) 4)
  let r := (List.range n).map fun i =>
    optElem o (word 0 i) (word 1 i) (if o.adamW then word 2 i else numZero) (decode .fp32 (gs.getD i 0))
  let col (f : OptOut → Num) : Bytes := (r.map fun e => toLe 4 (toFp32 (f e))).flatten
  let b := col OptOut.w ++ col OptOut.m ++ (if o.adamW then col OptOut.v else [])
  let s1 := wrMem (wrMem s (dst + x.offset) b) (dst + x.tagOff) (versionTag (s.stp.c + 1) s.stp.epoch x.shard)
  countShard s1 r (if o.adamW then 12 else 4) (shardRegions a x.shard)

/-- R236: the whole update. -/
def runUpdate (s : State) (a : Attempt) : State :=
  match curLayout s with
  | none => s
  | some l =>
    let o := optVals l a.step.toNat
    updateBallast (l.shards.foldl (fun s x => updateShard s a o x) s) a

/-- R243: whether the bank that the update would write is draining. -/
def targetDraining (s : State) : Bool :=
  (s.hold.drain.toList ++ s.hold.snapQueue).any fun d => d.bank == !s.stp.bank

/-- UPDATE_START: after a commit verdict, in the norm check or the update wait; it waits while a stack holds requests (R445), as do
the digest and the repair. -/
def startUpdate (s : State) : State :=
  match s.stp.att with
  | none => s
  | some a =>
    if suspended s || anyStackHolds s || (s.stp.state != .normCheck && s.stp.state != .updateWait) || a.verdict != some .commit then s
    else if targetDraining s then
      if s.stp.state = .updateWait then s
      else raise { s with stp := { s.stp with state := .updateWait } } 0x4005 srcDevice []
    else runUpdate { s with stp := { s.stp with state := .update } } a

/-! The digest (R237). -/

/-- A range chained in 64 KiB pieces. -/
def chainRange (s : State) : Nat → Nat → Nat → Bytes → Bytes
  | 0, _, _, cv => cv
  | n + 1, addr, len, cv =>
    if len = 0 then cv
    else
      let k := Nat.min len 65536
      chainRange s n (addr + k) (len - k) (digest16 (cv ++ rdMem s addr k))

def lowestShard (l : Layout) : Nat :=
  match l.shards with
  | [] => 0
  | x :: xs => xs.foldl (fun m y => Nat.min m y.shard.toNat) x.shard.toNat

def tallyIv (s : State) (l : Layout) : Bytes := le64 (s.stp.c + 1) ++ le32 s.stp.epoch ++ toLe 4 (lowestShard l)

/-- The value of one core. -/
def coreDigest (s : State) (l : Layout) (iv : Bytes) (k : Nat) : Bytes :=
  let b := (bankRange s 1).1
  (l.ranges.filter fun r => r.core == k).foldl (fun cv r => chainRange s (r.bytes / 65536 + 1) (b + r.offset) r.bytes cv) iv

/-- The device digest. -/
def deviceDigest (s : State) (l : Layout) : Bytes :=
  let iv := tallyIv s l
  digest16 (iv ++ padTo 64 ((allCores s).map fun c => coreDigest s l iv (coreIdx c)).flatten)

/-- UPDATE_COMPLETE: points 1 to 3 of R238. -/
def completeUpdate (s : State) : State :=
  match s.stp.att, curLayout s with
  | some a, some l =>
    if suspended s || anyStackHolds s || s.stp.state != .update then s
    else startTally { s with stp := { s.stp with state := .tally } } a (deviceDigest s l) (lowestShard l)
  | _, _ => s

/-- REPAIR_COMPLETE (R240): the copy ends; the recomputed digest flips or stops this member. -/
def completeRepair (s : State) (copies : List ShardCopy) (lost : Bool) : State :=
  match s.stp.att, curLayout s with
  | some a, some l =>
    if suspended s || anyStackHolds s || s.stp.state != .tally || !a.repairing then s
    else if lost then stopAttempt s a cDataloss
    else
      let s1 := repairWrites s copies
      let d := deviceDigest s1 l
      if majority a.digests (replicaSize s) = some d then commitAttempt s1 a cRepaired d
      else stopAttempt (raise s1 0x4106 srcDevice []) a cNomaj
  | _, _ => s

/-! Evaluation windows (R247, R248, R427). -/

def evalOk (s : State) (j : JobEnt) : Bool :=
  (curLayout s).isSome && entryForm j [(20, 12)] && decide (s.stp.lastTag.toNat < (seTag j).toNat)

/-- EVAL_OPEN. -/
def openEval (s : State) : State :=
  match headEntry s 2 with
  | none => s
  | some j =>
    match entryGate s with
    | .wait => s
    | .reject => rejectHead s j
    | .start =>
      if !evalOk s j then rejectHead s j
      else
        let s1 := takeHead s j
        let s2 := { s1 with stp := { s1.stp with state := .evaluation, lastTag := seTag j, curTag := seTag j,
                                                 ended := EndedAtt.init } }
        let s3 := takeKept (primeCores s2 j)
        endControl (logAppend s3 0x0004 s3.stp.c [1]) j 0 0

/-- EVAL_CLOSE. -/
def closeEval (s : State) : State :=
  match headEntry s 3 with
  | none => s
  | some j =>
    if s.stp.state != .evaluation || !entryForm j [] then rejectHead s j
    else
      let s1 := discardQueues (takeHead s j)
      endControl (settleState (logAppend s1 0x0004 s1.stp.c [2]) .idle) j 0 0

/-- STEP (R215, R428). -/
def execStep (s : State) : Host.Outcome State Fault Refusal := .next (startStep s)
/-- PASS_RUN_START (R484). -/
def execPassRunStart (c : CoreId) (s : State) : Host.Outcome State Fault Refusal := .next (startRun s c)
/-- REPLICA_REDUCTION (R231, R232). -/
def execReplicaReduction (regions : List GradRegion) (normSeq : W32) (s : State) : Host.Outcome State Fault Refusal :=
  .next (replicaReduce s regions normSeq)
/-- COLLECTIVE_COMPLETE (R263): a collective of the stages after the runs moves them on. -/
def execCollectiveComplete (c : CoreId) (slot : Fin 8) (s : State) : Host.Outcome State Fault Refusal :=
  .next (stageNext (completeCol s c slot.val))
/-- UPDATE_START (R243). -/
def execUpdateStart (s : State) : Host.Outcome State Fault Refusal := .next (startUpdate s)
/-- UPDATE_COMPLETE (R237). -/
def execUpdateComplete (s : State) : Host.Outcome State Fault Refusal := .next (completeUpdate s)
/-- REPAIR_COMPLETE (R240). -/
def execRepairComplete (shards : List ShardCopy) (dataLoss : Bool) (s : State) : Host.Outcome State Fault Refusal :=
  .next (completeRepair s shards dataLoss)
/-- EVAL_OPEN (R247). -/
def execEvalOpen (s : State) : Host.Outcome State Fault Refusal := .next (openEval s)
/-- EVAL_CLOSE (R247). -/
def execEvalClose (s : State) : Host.Outcome State Fault Refusal := .next (closeEval s)

end Sys2Proof.Machine
end

