-- ==== Sys2Proof/Machine/Reshard.lean ====
section
/-! DEFINITION. The re-shard lock (spec R273–R277): its points, the messages that move it, the permute puts and the advance
write. -/
namespace Sys2Proof.Machine
open Sys2Proof

def setLock (s : State) (l : Lock) : State := { s with lock := some l }

/-- A control message of the lock to members of the job. -/
def sendLock (s : State) (kind : Nat) (members : List Nat) : State :=
  sendJob s kind 0 s.stp.c 0 0 (members.map (jobMemberId s))

/-- Whether every node that this member hosts has sent its message. -/
def kidsIn (s : State) (got : List Nat) : Bool := (jobKids s).all got.contains

/-- Nothing of the old epoch is outstanding: no collective, no transaction of this device without its answer. -/
def nothingOutstanding (s : State) : Bool :=
  s.fab.outstanding.isEmpty && s.cores.all fun p => p.2.cols.isEmpty && p.2.colQ.isEmpty

/-- Points 2 and 3: DRAINED goes up; member 0 sends CLOSED down once the whole job has drained. -/
def tryDrained (s : State) : State :=
  match s.lock with
  | none => s
  | some l =>
    if suspended s || l.point != 1 || !l.selfDrained || !kidsIn s l.drainedFrom then s
    else
      match jobParent s with
      | some p => sendLock (setLock s { l with point := 2 }) ckDrained [p]
      | none =>
        let s1 := sendLock s ckClosed (jobKids s)
        match s1.lock with
        | some l1 => setLock s1 { l1 with point := 3 }
        | none => s1

/-- LOCK_DRAINED: this device has nothing of the old epoch outstanding. -/
def lockDrained (s : State) : State :=
  match s.lock with
  | none => s
  | some l =>
    if suspended s || l.point != 1 || !nothingOutstanding s then s
    else tryDrained (setLock s { l with selfDrained := true })

/-! The permute (R273, R274). -/

def targetLayout (s : State) (l : Lock) : Option Layout := (curPlan s).bind fun p => p.layouts[l.target]?
def permutes (s : State) (l : Lock) : List Permute := ((targetLayout s l).map fun t => t.maps).getD []

/-- Bank bases of a permute entry: the committed source and the alternate destination. -/
def permuteSrc (s : State) (p : Permute) : Nat := (bankRange s (if p.residue then 2 else 0)).1 + p.srcOff
def permuteDst (s : State) (p : Permute) : Nat := (bankRange s (if p.residue then 3 else 1)).1 + p.dstOff

/-- One entry that this device performs: a copy to itself, or PUTs to the receiving device; a PUT that cannot be routed is an
abort cause of the lock (R294). -/
def permuteOne (s : State) (p : Permute) : State :=
  let b := rdMem s (permuteSrc s p) p.len
  if p.dst = jobIndex s then wrMem s (permuteDst s p) b
  else
    let r := sendPutsOn s (railOfAddr s (permuteSrc s p)) (jobMemberId s p.dst) .permute 1
      (ringParts 0 (p.len / 4096 + 1) (permuteDst s p) b)
    if r.2 then r.1 else startAbort r.1 cFault

/-- PERMUTE_PUTS: point 4 begins once the alternate bank is not draining. -/
def permutePuts (s : State) : State :=
  match s.lock with
  | none => s
  | some l =>
    if suspended s || anyStackHolds s || l.point != 3 then s
    else if targetDraining s then
      if l.waited then s else raise (setLock s { l with waited := true }) 0x5004 srcDevice []
    else
      ((permutes s l).filter fun p => p.src == jobIndex s).foldl permuteOne (setLock s { l with point := 4 })

/-- The bytes that other members permute to this one. -/
def permuteDue (s : State) (l : Lock) : Nat :=
  (((permutes s l).filter fun p => p.dst == jobIndex s && p.src != jobIndex s).map fun p => p.len).foldl (· + ·) 0

def putsDelivered (s : State) : Bool :=
  s.fab.outstanding.all fun o => match o.2.2 with
    | .permute => false
    | _ => true

/-- R274: the tags of the new layout's shards in the alternate state bank. -/
def writeNewTags (s : State) (l : Lock) : State :=
  (((targetLayout s l).map fun t => t.shards).getD []).foldl (fun s x =>
    wrMem s ((bankRange s 1).1 + x.tagOff) (versionTag s.stp.c (s.stp.epoch + 1) x.shard)) s

/-- R277: the advance write: pointer, epoch and layout, in one write. -/
def advanceWrite (s : State) (l : Lock) : State :=
  mirrored { s with stp := { s.stp with bank := !s.stp.bank, epoch := s.stp.epoch + 1, layout := l.target,
                                        commits := smDel s.stp.commits (myId s),
                                        advances := smSet 0 s.stp.advances (myId s) (s.stp.epoch + 1) } }

/-- Point 7 after ADVANCE: the write, its record and notices, and the end of the entry. -/
def endAdvance (s : State) (l : Lock) : State :=
  let body := reshardBody s (s.stp.epoch + 1) l.target 1
  let s1 := loadImages (advanceWrite { s with lock := none } l)
  let s2 := raise (logAppend s1 0x0003 s1.stp.c body) 0x5003 srcDevice (le32 s1.stp.epoch ++ toLe 1 s1.stp.layout)
  let s3 := (sendCctlAll s2 ckAdvanced 0 s2.stp.c 0 0 (groupPeers s2 (shardGroup s2))).1
  pumpAll (endControl (settleState s3 .idle) l.job 0 0x5003)

/-- Points 5 and 6: PERMUTED goes up; member 0 sends ADVANCE down once the whole job has permuted. -/
def tryPermuted (s : State) : State :=
  match s.lock with
  | none => s
  | some l =>
    if suspended s || l.point != 4 || !l.selfPermuted || l.decided || !kidsIn s l.permutedFrom then s
    else
      match jobParent s with
      | some p => sendLock (setLock s { l with point := 5 }) ckPermuted [p]
      | none =>
        let l1 := { l with point := 6, decided := true }
        endAdvance (sendLock (setLock s l1) ckAdvance (jobKids s)) l1

/-- PERMUTE_COMPLETE: this device's puts are delivered and its bytes received; it writes the new tags. -/
def permuteComplete (s : State) : State :=
  match s.lock with
  | none => s
  | some l =>
    if suspended s || l.point != 4 || l.selfPermuted || !putsDelivered s || decide (l.got < permuteDue s l) then s
    else tryPermuted (setLock (writeNewTags s l) { l with selfPermuted := true })

/-! Messages of the lock. -/

def takeDrained (s : State) (m : Nat) : State :=
  match s.lock with
  | none => s
  | some l =>
    if !(jobKids s).contains m || l.drainedFrom.contains m then s
    else tryDrained (setLock s { l with drainedFrom := l.drainedFrom ++ [m] })

def takeClosed (s : State) (m : Nat) : State :=
  match s.lock with
  | none => s
  | some l =>
    if jobParent s != some m || l.point != 2 then s
    else sendLock (setLock s { l with point := 3 }) ckClosed (jobKids s)

def takePermuted (s : State) (m : Nat) : State :=
  match s.lock with
  | none => s
  | some l =>
    if !(jobKids s).contains m || l.permutedFrom.contains m then s
    else tryPermuted (setLock s { l with permutedFrom := l.permutedFrom ++ [m] })

def takeAdvance (s : State) (m : Nat) : State :=
  match s.lock with
  | none => s
  | some l =>
    if jobParent s != some m || l.point != 5 then s
    else
      let l1 := { l with point := 6, decided := true }
      endAdvance (sendLock (setLock s l1) ckAdvance (jobKids s)) l1

def takeAbandon (s : State) (m : Nat) : State :=
  match s.lock with
  | none => s
  | some l =>
    if jobParent s != some m then s
    else endAbandon (sendCctlAll s ckAbandon 0 s.stp.c 0 0 ((jobKids s).map (jobMemberId s))).1 l

def takeAbandonReq (s : State) : State :=
  match s.lock with
  | none => s
  | some l => if jobIndex s != 0 || l.decided then s else decideAbandon s l

/-- A control message of the lock takes effect. -/
def takeLockMsg (s : State) (t : Txn) : State :=
  let m := ccMember t
  match ccKind t with
  | 5 => takeDrained s m
  | 6 => takeClosed s m
  | 7 => takePermuted s m
  | 8 => takeAdvance s m
  | 9 => takeAbandon s m
  | 11 => takeAbandonReq s
  | _ => s

def isLockMsg (t : Txn) : Bool := t.type == .cctl && decide (ckDrained ≤ ccKind t) && ccKind t != ckAdvanced

/-- What was kept for a lock that had not been taken, or during a suspension, in order of arrival. -/
def takeKeptLock (s : State) : State :=
  if suspended s || s.lock.isNone then s
  else
    let next (t : Txn) : Bool := ccKind t == ckDrained && t.epoch != s.stp.epoch
    let ts := s.stp.kept.filter fun t => isLockMsg t && !next t && ccStep t == s.stp.c
    ts.foldl takeLockMsg { s with stp := { s.stp with kept := s.stp.kept.filter fun t => !isLockMsg t || next t } }

/-- A lock message arrives: it is kept while no lock is held or the device is suspended, and taken else. A DRAINED of the
next epoch belongs to the next lock. -/
def recvLock (s : State) (t : Txn) : State :=
  let s := takeLanded s t
  if !epochOk s t.epoch then sendCompl (epochFault s) t 3
  else
    let early := s.lock.isNone && (ccKind t == ckDrained || ccKind t == ckAbandonReq)
    let next := ccKind t == ckDrained && t.epoch != s.stp.epoch
    if early || next || (s.lock.isSome && suspended s) then sendCompl (keepTxn s t) t 0
    else sendCompl (takeLockMsg s t) t 0

/-- R277: ADVANCED of a member of the new shard group. -/
def recvAdvanced (s : State) (t : Txn) : State :=
  let s := takeLanded s t
  if !epochOk s t.epoch then sendCompl (epochFault s) t 3
  else
    pumpAll (sendCompl { s with stp := { s.stp with advances := smSet 0 s.stp.advances t.src.toNat t.epoch } } t 0)

/-! The entry (R275, R332, R426). -/

def rsLayout (j : JobEnt) : Nat := jobByte j 8

def reshardOk (s : State) (j : JobEnt) : Bool :=
  entryForm j [(8, 1)] && ((curPlan s).bind fun p => p.layouts[rsLayout j]?).isSome && rsLayout j != s.stp.layout

/-- R332: replay meets a re-shard: the next logged RESHARD record that advanced must name the same target, with no attempt
before it that replay still repeats. Attempts that are passed over stay for the entry of their step. -/
def replayReshard (s : State) (target : Nat) : State :=
  match s.hold.replay with
  | none => s
  | some r =>
    let live (x : LogRec) : Bool := x.type == 1 && !passedOver x
    match r.log.find? fun x => live x || advancedRec x with
    | none => endReplay s 3
    | some m =>
      if r.lost then endReplay s 3
      else if live m || byteAt m.bytes (64 + 9) != target then diverge s
      else
        let before := (r.log.takeWhile fun x => x != m).filter fun x => x.type == 1
        let after := (r.log.dropWhile fun x => x != m).drop 1
        { s with hold := { s.hold with replay := some { r with log := before ++ after } } }

/-- RESHARD: point 1. -/
def startReshard (s : State) : State :=
  match headEntry s 4 with
  | none => s
  | some j =>
    match entryGate s with
    | .wait => s
    | .reject => rejectHead s j
    | .start =>
      if !reshardOk s j then rejectHead s j
      else
        let s1 := takeHead (replayReshard s (rsLayout j)) j
        let l : Lock := { job := j, target := rsLayout j, point := 1, drainedFrom := [], permutedFrom := [],
                          selfDrained := false, selfPermuted := false, waited := false, putsLeft := [], got := 0,
                          abandonAsked := false, decided := false }
        takeKeptLock (setLock { s1 with stp := { s1.stp with state := .reshardLock } } l)

/-- RESHARD (R275). -/
def execReshard (s : State) : Host.Outcome State Fault Refusal := .next (startReshard s)
/-- LOCK_DRAINED (R275). -/
def execLockDrained (s : State) : Host.Outcome State Fault Refusal := .next (lockDrained s)
/-- DRAINED (R275). -/
def execDrained (t : Txn) (s : State) : Host.Outcome State Fault Refusal := .next (recvLock s t)
/-- CLOSED (R275). -/
def execClosed (t : Txn) (s : State) : Host.Outcome State Fault Refusal := .next (recvLock s t)
/-- PERMUTE_PUTS (R274). -/
def execPermutePuts (s : State) : Host.Outcome State Fault Refusal := .next (permutePuts s)
/-- PERMUTE_COMPLETE (R274). -/
def execPermuteComplete (s : State) : Host.Outcome State Fault Refusal := .next (permuteComplete s)
/-- PERMUTED (R275). -/
def execPermuted (t : Txn) (s : State) : Host.Outcome State Fault Refusal := .next (recvLock s t)
/-- ADVANCE (R277). -/
def execAdvance (t : Txn) (s : State) : Host.Outcome State Fault Refusal := .next (recvLock s t)
/-- ABANDON (R275). -/
def execAbandon (t : Txn) (s : State) : Host.Outcome State Fault Refusal := .next (recvLock s t)
/-- ADVANCED (R277). -/
def execAdvanced (t : Txn) (s : State) : Host.Outcome State Fault Refusal := .next (recvAdvanced s t)
/-- ABANDON_REQ (R275). -/
def execAbandonReq (t : Txn) (s : State) : Host.Outcome State Fault Refusal := .next (recvLock s t)

end Sys2Proof.Machine
end

