-- ==== Sys2Proof/Machine/Tile.lean ====
section
/-! DEFINITION. Tiles (spec R73–R99, R100–R128): validation, the fixed order of products, segments and spills, outputs, the
exception record, and suspension at a k-block boundary. -/
namespace Sys2Proof.Machine
open Sys2Proof

/-! Fields of a tile descriptor (R84). -/

def tMode (d : Bytes) : Nat := byteAt d 1 % 4
def tFlag (d : Bytes) (i : Nat) : Bool := bitOf (byteAt d 2) i == 1
def tTrans (d : Bytes) : Bool := tFlag d 0
def tMaskEn (d : Bytes) : Bool := tFlag d 1
def tMaskFill (d : Bytes) : Bool := tFlag d 2
def tAccIn (d : Bytes) : Bool := tFlag d 3
def tAccOut (d : Bytes) : Bool := tFlag d 4
def tGrad (d : Bytes) : Bool := tFlag d 5
def tSpill (d : Bytes) : Nat := byteAt d 3
def tM (d : Bytes) : Nat := fld d 4 2
def tN (d : Bytes) : Nat := fld d 6 2
def tK (d : Bytes) : Nat := fld d 8 4
def tTagA (d : Bytes) : Option Tag := parseTag (sub d 16 8)
def tTagB (d : Bytes) : Option Tag := parseTag (sub d 24 8)
def tTagO (d : Bytes) : Option Tag := parseTag (sub d 32 8)
def tA (d : Bytes) : Nat := fld d 40 6
def tB (d : Bytes) : Nat := fld d 48 6
def tOut (d : Bytes) : Nat := fld d 56 6
def tDeep (d : Bytes) : Nat := fld d 64 6
def tMask (d : Bytes) : Nat := fld d 72 6
def tExc (d : Bytes) : Nat := fld d 80 6
def tAux (d : Bytes) : Nat := fld d 88 6
def tLda (d : Bytes) : Nat := fld d 96 4
def tLdb (d : Bytes) : Nat := fld d 100 4
def tLdo (d : Bytes) : Nat := fld d 104 4
def tSig (d : Bytes) : Nat := byteAt d 109

def modeCode : BroadcastMode → Nat
  | .quad => 0 | .pair01 => 1 | .pair23 => 2
def modeOf (n : Nat) : BroadcastMode := if n = 0 then .quad else if n = 1 then .pair01 else .pair23

/-- A tag that a tile takes as valid, or FP64 with scale 1 where there is none. -/
def tagOr (t : Option Tag) : Tag := t.getD { fmt := .fp64, ovf := false, scale := 0x3F800000 }

/-- R75: FP64 mode. -/
def tFp64 (d : Bytes) : Bool := (tagOr (tTagA d)).fmt == .fp64 || (tagOr (tTagB d)).fmt == .fp64

/-- K-blocks, segment length in blocks, and the end of the segment that block b belongs to (R76, R106). -/
def tBlocks (d : Bytes) : Nat := ceilDiv (tK d) 64
def tSegBlocks (d : Bytes) : Nat := 2 ^ tSpill d / 64
def tSegEnd (d : Bytes) (b : Nat) : Nat := Nat.min ((b / tSegBlocks d + 1) * tSegBlocks d) (tBlocks d)

/-- R106: whether the segment that ends at block e spills. -/
def tSpillsAt (d : Bytes) (e : Nat) : Bool := decide (e < tBlocks d) || tAccOut d

/-- Whether the tile reads, spills or writes deep entries. -/
def tUsesDeep (d : Bytes) : Bool := tAccIn d || tAccOut d || decide (2 ^ tSpill d < tK d)

/-- R86: the panel of engine e behind a base address: bits [23:22] replaced. -/
def panel (a e : Nat) : Nat := a / 2 ^ 24 * 2 ^ 24 + e * 2 ^ 22 + a % 2 ^ 22

/-- The engine and the engine column of tile column n (R76, R81). -/
def tEngine (d : Bytes) (n : Nat) : Nat := n / 64 + (if tMode d = 2 then 2 else 0)
def tEngines (d : Bytes) : List Nat := (List.range (ceilDiv (tN d) 64)).map fun i => i + (if tMode d = 2 then 2 else 0)
def tDeepAddr (d : Bytes) (m n : Nat) : Nat := panel (tDeep d) (tEngine d n) + (m * 64 + n % 64) * 16

/-- Columns of the engine at position i of the tile. -/
def tCols (d : Bytes) (i : Nat) : Nat := Nat.min 64 (tN d - 64 * i)

/-! Validation (R85, R86, R95). -/

def tForm (d : Bytes) : Bool :=
  byteAt d 0 == 1 && byteAt d 1 / 4 == 0 && decide (tMode d ≤ 2) && byteAt d 2 / 64 == 0 &&
  decide (8 ≤ tSpill d) && decide (tSpill d ≤ 12) && decide (1 ≤ tM d) && decide (tM d ≤ 256) && decide (1 ≤ tN d) &&
  decide (tN d ≤ (if tMode d = 0 then 256 else 128)) && decide (1 ≤ tK d) && decide (tK d ≤ 65536) && zeros d 12 4 &&
  (tTagA d).isSome && (tTagB d).isSome && (if tAccOut d then zeros d 32 8 else (tTagO d).isSome) &&
  addrOk d 40 && addrOk d 48 && addrOk d 56 && addrOk d 64 && addrOk d 72 && addrOk d 80 && addrOk d 88 &&
  ctrOk (byteAt d 108) && ctrOk (tSig d) && zeros d 112 16 &&
  tExc d % 64 == 0 && (!tUsesDeep d || tDeep d % 16 == 0) && (!tGrad d || tAux d % 4 == 0)

def tEa (d : Bytes) : Nat := tagSize (tagOr (tTagA d))
def tWe (d : Bytes) : Nat := tagSize (tagOr (tTagB d))
def tEo (d : Bytes) : Nat := if tAccOut d then 0 else tagSize (tagOr (tTagO d))

/-- The bytes of A over all M rows and K columns, and of the output over all M rows and N columns, row by row (R85). -/
def tARows (d : Bytes) : List (Nat × Nat) := rowRanges (tA d) (tLda d) (tM d) (tK d * tEa d)
def tORows (d : Bytes) : List (Nat × Nat) := if tAccOut d then [] else rowRanges (tOut d) (tLdo d) (tM d) (tN d * tEo d)

/-- The rows of the panels of B and of the deep entries that the tile touches, with the engine each belongs to. -/
def tBRows (d : Bytes) : List (Nat × Nat × Nat) := (List.range (tEngines d).length).flatMap fun i =>
  let e := (tEngines d).getD i 0
  (if tTrans d then rowRanges (panel (tB d) e) (tLdb d) (tCols d i) (tK d * tWe d)
   else rowRanges (panel (tB d) e) (tLdb d) (tK d) (tCols d i * tWe d)).map fun r => (e, r)
def tDeepRows (d : Bytes) : List (Nat × Nat × Nat) :=
  if tUsesDeep d then (List.range (tEngines d).length).flatMap fun i =>
    let e := (tEngines d).getD i 0
    (rowRanges (panel (tDeep d) e) 1024 (tM d) (tCols d i * 16)).map fun r => (e, r)
  else []

/-- Every range that a tile reads or writes. Where several are unmapped, the first of this list gives unmapped-address its address:
A, the record, the output, B, the deep entries, the mask, the amax word, each from its lowest row on (DESIGN CHOICE, log 110). -/
def tRanges (d : Bytes) : List (Nat × Nat) :=
  tARows d ++ [(tExc d, 128)] ++ tORows d ++ ((tBRows d).map fun r => r.2) ++ ((tDeepRows d).map fun r => r.2) ++ (if tMaskEn d then [(tMask d, ceilDiv (tM d) 8)] else []) ++
    (if tGrad d then [(tAux d, 4)] else [])

/-- A range inside one slice of the core's SRAM. -/
def inSlice (c : CoreId) (e a n : Nat) : Bool := inside a n (coreBase c + e * 2 ^ 22) (2 ^ 22)

/-- The placement conditions of R85, R86 and R95. A panel of B or of deep entries must lie wholly in the 4 MiB slice of the
engine it belongs to, which R86 only implies; LDO is free where ACC_OUT is 1, since there is no output element then; MASK_ADDR
is free where MASK_EN is 0, which no "otherwise 0" names; and each row of A and of the output is placed alone, so that one
tensor may lie in core SRAM in part and in cluster SRAM in part (DESIGN CHOICES, log 74). -/
def tPlace (c : CoreId) (d : Bytes) : Bool :=
  let want := if tMode d = 2 then 2 else 0
  (!tMaskFill d || tMaskEn d) && (!tAccOut d || tOut d == 0) && (tGrad d || tAux d == 0) && (tUsesDeep d || tDeep d == 0) &&
  (!tGrad d || ((tagOr (tTagA d)).fmt == .e5m2 && (tagOr (tTagO d)).fmt == .e5m2 && !tAccOut d)) &&
  decide (tK d * tEa d ≤ tLda d) && tLda d % tEa d == 0 &&
  decide ((if tTrans d then tK d else 64) * tWe d ≤ tLdb d) && tLdb d % tWe d == 0 &&
  (tAccOut d || (decide (tN d * tEo d ≤ tLdo d) && tLdo d % tEo d == 0)) &&
  tB d / 2 ^ 22 % 4 == want && (!tUsesDeep d || tDeep d / 2 ^ 22 % 4 == want) &&
  ((tARows d ++ tORows d).all fun r => inOwnSram c r.1 r.2) &&
  ((tBRows d ++ tDeepRows d).all fun r => inSlice c r.1 r.2.1 r.2.2) &&
  inCoreSram c (tExc d) 128 && (!tMaskEn d || inCoreSram c (tMask d) (ceilDiv (tM d) 8)) &&
  (!tGrad d || inCoreSram c (tAux d) 4)

/-- The verdict on a tile descriptor. Everything it writes lies in SRAM, so the bank rule never meets it. -/
def tileCheck (s : State) (c : CoreId) (d : Bytes) : Check := check s (tForm d) (tRanges d) (tPlace c d) []

/-! Operands. -/

/-- R90: the fed rows, in ascending order. -/
def tFed (s : State) (d : Bytes) : List Nat :=
  if tMaskEn d then
    let mb := rdMem s (tMask d) (ceilDiv (tM d) 8)
    (List.range (tM d)).filter fun m => bitOf (byteAt mb (m / 8)) (m % 8) == 0
  else List.range (tM d)

/-- The last k, exclusive, of block b. -/
def tKEnd (d : Bytes) (b : Nat) : Nat := Nat.min (64 * (b + 1)) (tK d)

/-- Row m of A over the k-steps of block b (R83). -/
def tARow (s : State) (d : Bytes) (m b : Nat) : List Num :=
  let t := tagOr (tTagA d)
  let k0 := 64 * b
  let n := tKEnd d b - k0
  (elems (tEa d) (rdMem s (tA d + m * tLda d + k0 * tEa d) (n * tEa d)) n).map (decode t.fmt)

/-- Column n of B over the k-steps of block b (R76, R93). -/
def tBCol (s : State) (d : Bytes) (n b : Nat) : List Num :=
  let t := tagOr (tTagB d)
  let k0 := 64 * b
  let cnt := tKEnd d b - k0
  let base := panel (tB d) (tEngine d n)
  let c := n % 64
  (List.range cnt).map fun i =>
    let a := if tTrans d then base + c * tLdb d + (k0 + i) * tWe d else base + (k0 + i) * tLdb d + c * tWe d
    decode t.fmt (rdElem s a (tWe d))

/-! The column chain and its merge (R76, R102, R105, R111). -/

/-- The chain of one block: products added in ascending k; flags are noted at their product. -/
def chainGo (fp64 : Bool) (ord m n : Nat) : Nat → List Num → List Num → Acc → ExcRec → Acc × ExcRec
  | k, x :: xs, y :: ys, a, r =>
    let (p, f) := cellProduct fp64 x y
    let (a', g) := accAdd fp64 a p
    chainGo fp64 ord m n (k + 1) xs ys a' (excNoteTile r (f ||| g) ord m n k)
  | _, _, _, a, r => (a, r)

/-- One block of one element: its chain merged into the running accumulator at the block's last k. -/
def blockElem (fp64 : Bool) (ord m n b k1 : Nat) (row col : List Num) (run : Acc) (r : ExcRec) : Acc × ExcRec :=
  let (ch, r1) := chainGo fp64 ord m n (64 * b) row col .empty r
  let (run', f) := accMerge fp64 run ch
  (run', excNoteTile r1 f ord m n (k1 - 1))

/-- The running accumulators by element; an element not listed is empty. -/
def getAcc (l : List ((Nat × Nat) × Acc)) (m n : Nat) : Acc := ((l.find? fun p => p.1 == (m, n)).map fun p => p.2).getD .empty
def setAcc (l : List ((Nat × Nat) × Acc)) (m n : Nat) (a : Acc) : List ((Nat × Nat) × Acc) :=
  ((m, n), a) :: l.filter fun p => p.1 != (m, n)
def dropRow (l : List ((Nat × Nat) × Acc)) (m : Nat) : List ((Nat × Nat) × Acc) := l.filter fun p => p.1.1 != m

def runOrd (t : TileRun) : Nat := excOrd t.base

/-- Row m advances through block b. -/
def rowBlock (s : State) (t : TileRun) (m b : Nat) : TileRun :=
  let row := tARow s t.desc m b
  (List.range (tN t.desc)).foldl (fun t n =>
    let (a, r) := blockElem (tFp64 t.desc) (runOrd t) m n b (tKEnd t.desc b) row (tBCol s t.desc n b) (getAcc t.accs m n) t.exc
    { t with accs := setAcc t.accs m n a, exc := r }) t

/-- Row m advances from block b to block e. -/
def rowBlocks (s : State) (t : TileRun) (m b e : Nat) : TileRun :=
  (List.range (e - b)).foldl (fun t i => rowBlock s t m (b + i)) t

/-- The deep entry of an element as it stands; none before the first spill of a tile with ACC_IN 0. -/
def getDeep (t : TileRun) (m n : Nat) : Option Bytes := (t.deep.find? fun p => p.1 == (m, n)).map fun p => p.2
def setDeep (t : TileRun) (m n : Nat) (b : Bytes) : TileRun :=
  { t with deep := ((m, n), b) :: t.deep.filter fun p => p.1 != (m, n) }

/-- R106: the deep value D of an element: what the tile took at its start under ACC_IN, then what it last spilled; before the first
spill of a tile with ACC_IN 0 the +0 that changes no sum. -/
def deepValue (t : TileRun) (m n : Nat) : Num :=
  match getDeep t m n with
  | some b => deepOf b
  | none => numNegZero

/-- R106, R108: one element spills at the end of a segment whose last k is k: D takes the running pair, and goes to DEEP_ADDR. -/
def spillElem (s : State) (t : TileRun) (k m n : Nat) : State × TileRun :=
  let (v, inv) := numAdd (deepValue t m n) (accVal (getAcc t.accs m n))
  let (dw, f) := storeDword v
  (wrMem s (tDeepAddr t.desc m n) (deepBytes dw),
    setDeep { t with exc := excNoteTile t.exc (f ||| flIf inv flInv) (runOrd t) m n k } m n (deepBytes dw))

/-- R106, R89: a row spills at the end of its segment, which ends before block e, and its pairs restart empty. -/
def spillRow (s : State) (t : TileRun) (e m : Nat) : State × TileRun :=
  let r := (List.range (tN t.desc)).foldl (fun (acc : State × TileRun) n => spillElem acc.1 acc.2 (tKEnd t.desc (e - 1) - 1) m n) (s, t)
  (r.1, { r.2 with accs := dropRow r.2.accs m })

/-- The next fed row runs to the end of the current segment and spills it, if that segment spills. -/
def spillNext (s : State) (t : TileRun) : State × TileRun :=
  let d := t.desc
  match t.fed[t.ahead]? with
  | none => (s, t)
  | some m =>
    let e := tSegEnd d t.block
    if t.block < tBlocks d ∧ tSpillsAt d e then
      let t1 := rowBlocks s t m t.block e
      let (s2, t2) := spillRow s t1 e m
      if t2.ahead + 1 < t2.fed.length then (s2, { t2 with ahead := t2.ahead + 1 })
      else (s2, { t2 with ahead := 0, block := e })
    else (s, t)

/-- Every row that has not spilled the current segment does so. -/
def spillRest : Nat → State → TileRun → State × TileRun
  | 0, s, t => (s, t)
  | n + 1, s, t =>
    let (s1, t1) := spillNext s t
    if t1.ahead = 0 then (s1, t1) else spillRest n s1 t1

/-- Every fed row advances one block, spilling where a segment ends there. -/
def allBlock (s : State) (t : TileRun) : State × TileRun :=
  let d := t.desc
  if tBlocks d ≤ t.block ∨ t.fed.isEmpty then (s, t)
  else
    let b := t.block
    let t1 := t.fed.foldl (fun t m => rowBlock s t m b) t
    if b + 1 = tSegEnd d b ∧ tSpillsAt d (b + 1) then
      let r := t.fed.foldl (fun (acc : State × TileRun) m => spillRow acc.1 acc.2 (b + 1) m) (s, t1)
      (r.1, { r.2 with block := b + 1 })
    else (s, { t1 with block := b + 1 })

def allBlocks : Nat → State → TileRun → State × TileRun
  | 0, s, t => (s, t)
  | n + 1, s, t => let (s1, t1) := allBlock s t; allBlocks n s1 t1

/-- The rest of the tile's k-blocks. -/
def finishBlocks (s : State) (t : TileRun) : State × TileRun :=
  let (s1, t1) := if t.ahead = 0 then (s, t) else spillRest t.fed.length s t
  allBlocks (tBlocks t.desc) s1 t1

/-! The term count (R112) and the record. -/

/-- Spills done when b blocks are merged. -/
def tSpills (d : Bytes) (b : Nat) : Nat :=
  ((List.range b).filter fun i => decide (i + 1 = tSegEnd d i) && tSpillsAt d (i + 1)).length

/-- The terms that a tile has counted after b blocks. -/
def tTerms (d : Bytes) (b : Nat) : Nat := Nat.min (64 * b) (tK d) + b + tSpills d b

/-- The k at which the count first passes 2³², if it does after a base count. -/
def crossK (d : Bytes) (base : Nat) : Nat → Nat → Nat
  | 0, _ => 0
  | n + 1, b =>
    let c := base + tTerms d b
    let prod := tKEnd d b - 64 * b
    if termLimit < c + prod then 64 * b + (termLimit - c)
    else if termLimit < base + tTerms d (b + 1) then tKEnd d b - 1
    else crossK d base n (b + 1)

/-- R123, R112, R121: the record of the tile after b blocks: the part of this tile joined to the chain's, with its terms
and the BOUND flag. The elements written while TERMS exceeds 2³² count once for each fed row and column of a tile, however
often it spills and whether or not it writes an output (DESIGN CHOICE, log 74). -/
def tileRecord (t : TileRun) (b : Nat) : ExcRec :=
  let d := t.desc
  let terms := if t.fed.isEmpty then 0 else tTerms d b
  let total := t.base.terms + terms
  let exc := if t.fed.isEmpty ∨ total ≤ termLimit then t.exc
    else
      let k := if termLimit < t.base.terms then 0 else crossK d t.base.terms (tBlocks d) 0
      excNoteN tileBefore t.exc flBound (tilePos (runOrd t) (t.fed.headD 0) 0 k) (t.fed.length * tN d)
  let j := excJoin t.base.flags t.base exc
  { j with terms := Nat.min total 0xFFFFFFFFFFFFFFFF }

/-- The record that a tile with ACC_IN continues. R123 gives no time for the read: it is taken at the start, from the newest tile in
flight that writes its record there and whose array work is done, as it will write it but for the flags of its outputs; else from
memory (DESIGN CHOICE, log 109). -/
def chainRecord (s : State) (c : CoreId) (d : Bytes) : ExcRec :=
  match (getCore s c).tiles.reverse.find? fun t => tExc t.desc == tExc d && (t.fed.isEmpty || decide (tBlocks t.desc ≤ t.block)) with
  | some t => excParse (excBytes (tileRecord t (tBlocks t.desc)))
  | none => excParse (rdMem s (tExc d) 128)

/-- The flag word a tile starts from: fresh, or the chain's, as the tile finds it at its start (DESIGN CHOICE, log 109), with CHAIN
set and ORD one higher (R91, R119, R123). -/
def tileBase (s : State) (c : CoreId) (d : Bytes) (anyFed : Bool) : ExcRec :=
  let mode : W64 := if tFp64 d then 2 ^ 32 else 0
  if tAccIn d then
    let r := chainRecord s c d
    let o := Nat.min (excOrd r + 1) 0xFFFF
    let low : W64 := (r.flags &&& 0x0000FFFFFFFFFFFF#64) ||| 0x200000000#64 ||| BitVec.ofNat 64 (o * 2 ^ 48)
    let fl := if anyFed then (low &&& 0xFFFFFFFE00FFFFFF#64) ||| 0x01000000#64 ||| mode else low
    { r with flags := fl }
  else { excFresh 1 with flags := kindWord 1 ||| mode }

/-! The start (R82, R88). -/

/-- R89, R87: the deep entries of the fed rows, read under ACC_IN before k-block 0. -/
def resumeDeep (s : State) (d : Bytes) (fed : List Nat) : List ((Nat × Nat) × Bytes) :=
  if tAccIn d then fed.flatMap fun m => (List.range (tN d)).map fun n => ((m, n), rdMem s (tDeepAddr d m n) 16) else []

/-- R82: whether a tile of a mode must wait for a tile of another: a quad tile for every one, a pair tile for a quad tile and
for its own pair. -/
def modesClash (a b : BroadcastMode) : Bool := a == .quad || b == .quad || a == b

/-- The array work of the tiles in flight that a tile of a mode waits for is finished, in their order: their k-blocks are
fed and merged; their outputs and records are written at their own completion. -/
def finishArrays (s : State) (c : CoreId) (mode : BroadcastMode) : State :=
  let r := (getCore s c).tiles.foldl (fun (acc : State × List TileRun) t =>
    if modesClash mode t.mode then
      let (s1, t1) := finishBlocks acc.1 t
      (s1, acc.2 ++ [t1])
    else (acc.1, acc.2 ++ [t])) (s, [])
  updCore r.1 c fun x => { x with tiles := r.2 }

/-- R82, R175: whether the array work of every tile in flight that a tile of a mode waits for can end: no such tile is
stalled. -/
def tileFits (s : State) (c : CoreId) (mode : BroadcastMode) : Bool :=
  (getCore s c).tiles.all fun t => !modesClash mode t.mode || !opStalled s c t.ord

/-- Whether a queued tile leaves the queue now: its tokens are satisfied, and it either fails validation or may start. -/
def tileLeaves (s : State) (c : CoreId) (e : QEntry) : Bool :=
  let d := desc128 s e
  ready s (getCore s c) e && (tileCheck s c d != .ok || tileFits s c (modeOf (tMode d)))

/-- A head of the tile queue starts: validated, tokens consumed, the earlier tiles' array work done (R82), the wiring set to
its mode (R34, R392), the fed rows, the deep entries that it resumes and the record that it continues fixed (the time of the last,
R123: DESIGN CHOICE, log 109). -/
def startTile (s : State) (c : CoreId) : State :=
  let x := getCore s c
  if suspended s || computeStopped s (coreIsland c) || x.idle || x.stopped then s
  else
    match (tileHeads s x.tileQ).find? (tileLeaves s c) with
    | none => s
    | some e =>
      let d := desc128 s e
      let rest := x.tileQ.erase e
      match tileCheck s c d with
      | .ok =>
        let mode := modeOf (tMode d)
        let s1 := finishArrays s c mode
        let fed := tFed s1 d
        let t : TileRun :=
          { desc := d, mode := mode, fed := fed, block := 0, ahead := 0, accs := [],
            deep := resumeDeep s1 d fed, base := tileBase s1 c d (!fed.isEmpty), exc := excFresh 1, ord := e.ord }
        updCore s1 c fun y =>
          { consume y e with tileQ := rest, tiles := y.tiles ++ [t], pairWired := mode != .quad }
      | k => failCheck (setCore s c { x with tileQ := rest }) c 0x1001 k

/-! The end (R54, R88, R91, R95, R110). -/

/-- R54, R110: the value written for an element. -/
def outValue (d : Bytes) (deep : Num) (run : Acc) : Num × Bool :=
  let (a, inv) := numAdd deep (accVal run)
  let sa := tagScale (tagOr (tTagA d))
  let sb := tagScale (tagOr (tTagB d))
  let so := tagScale (tagOr (tTagO d))
  ((numDiv (numMul (numMul a sa).1 sb).1 so).1, inv)

/-- One output row: its bytes and the flags noted. -/
def outRow (t : TileRun) (m : Nat) : List Nat × ExcRec :=
  let d := t.desc
  let o := tagOr (tTagO d)
  (List.range (tN d)).foldl (fun (acc : List Nat × ExcRec) n =>
    let (v, inv) := outValue d (deepValue t m n) (getAcc t.accs m n)
    let r1 := excNoteTile acc.2 (flIf inv flInv) (runOrd t) m n (tK d - 1)
    let (q, f) := encodeOut o.fmt o.ovf v
    (acc.1 ++ [q], excNoteTile r1 f (runOrd t) m n 0x1FFFF)) ([], t.exc)

def packElems (n : Nat) (l : List Nat) : Bytes := (l.map (toLe n)).flatten

/-- R95: the larger magnitude in an amax, with its special values. -/
def amaxJoin (a b : Num) : Num :=
  if isNan a || isNan b then .nan else if numLt a b then b else a

/-- R95: the amax of written elements. -/
def amaxOf (o : Tag) (l : List Nat) (acc : Num) : Num :=
  l.foldl (fun a q => amaxJoin a (numAbs (valueOf o q))) acc

/-- Rows written at the end: outputs of fed rows, fills of masked ones. -/
def writeOutputs (s : State) (t : TileRun) : State × TileRun × Num :=
  let d := t.desc
  let o := tagOr (tTagO d)
  let eo := tEo d
  let r := t.fed.foldl (fun (acc : State × TileRun × Num) m =>
    let (l, exc) := outRow acc.2.1 m
    (wrMem acc.1 (tOut d + m * tLdo d) (packElems eo l), { acc.2.1 with exc := exc }, amaxOf o l acc.2.2)) (s, t, numZero)
  let s2 := if tMaskFill d then
      ((List.range (tM d)).filter fun m => !t.fed.contains m).foldl
        (fun s m => wrMem s (tOut d + m * tLdo d) (zeroBytes (tN d * eo))) r.1
    else r.1
  (s2, r.2)

/-- The tile's last event of R88: the outputs or the final deep entries, the amax word, the record, then the signal. -/
def finishTile (s : State) (c : CoreId) (t : TileRun) : State :=
  let d := t.desc
  let (s1, t1) := finishBlocks s t
  let (s2, t2, am) := if tAccOut d then (s1, t1, numZero) else writeOutputs s1 t1
  let s3 := if tGrad d then wrMem s2 (tAux d) (toLe 4 (toFp32 am)) else s2
  let r := tileRecord t2 (tBlocks d)
  let s4 := wrMem s3 (tExc d) (excBytes r)
  let s5 := if tAccOut d then s4 else finalRecord s4 c r (tExc d)
  signalField s5 c (tSig d)

/-- Whether a tile is of a mode, and whether it has array work left. -/
def isMode (m : BroadcastMode) (t : TileRun) : Bool := t.mode == m
def working (t : TileRun) : Bool := !t.fed.isEmpty && decide (t.block < tBlocks t.desc)

/-- R82: the oldest tile of a mode, if no older tile of its arrays is still to complete. -/
def oldestOf (m : BroadcastMode) (l : List TileRun) : Option TileRun :=
  (l.find? fun t => modesClash m t.mode).filter (isMode m)

/-- A tile in flight replaced by what it has become. -/
def putTile (x : Core) (t u : TileRun) : Core := { x with tiles := x.tiles.map fun v => if v.ord = t.ord then u else v }

/-- R128, R451, R457: whether the tiles in flight stand still: in a suspension by a reference failure. In slack state alone what the
compute groups have accepted completes (DEDUCED, log 114). -/
def frozen (s : State) : Bool := suspended s && s.clk.needResume

/-- TILE_COMPLETE: the oldest tile of a mode ends and leaves its place in the queue; tiles of one pair complete in issue
order (R82). -/
def completeTile (s : State) (c : CoreId) (m : BroadcastMode) : State :=
  let x := getCore s c
  match oldestOf m x.tiles with
  | none => s
  | some t =>
    if frozen s || opStalled s c t.ord then s
    else finishTile (setCore s c { x with tiles := x.tiles.erase t }) c t

/-- SPILL: one fed row of the tile of a mode that is at work spills the segment. -/
def spillTile (s : State) (c : CoreId) (m : BroadcastMode) : State :=
  let x := getCore s c
  match x.tiles.find? fun t => isMode m t && working t with
  | none => s
  | some t =>
    if frozen s || opStalled s c t.ord then s
    else
      let (s1, t1) := spillNext s t
      updCore s1 c fun x => putTile x t t1

/-! Suspension (R128). -/

/-- An accumulator in its save slot. An empty one, at a segment boundary, is saved as a head of −0 with a tail of 0, the value
that changes no sum; the spec gives its slot no value (DESIGN CHOICE, log 74). -/
def accBytes : Acc → Bytes
  | .empty => le64 0x8000000000000000#64 ++ zeroBytes 8
  | .pair h t => le64 h ++ le32 t ++ zeroBytes 4
  | .dword hi lo => le64 hi ++ le64 lo

/-- R128, R106: the deep values of the fed rows are written as they stand: +0 before the first spill of a tile with ACC_IN 0. -/
def saveDeep (s : State) (t : TileRun) : State :=
  if tUsesDeep t.desc then
    t.fed.foldl (fun s m => (List.range (tN t.desc)).foldl (fun s n =>
      wrMem s (tDeepAddr t.desc m n) ((getDeep t m n).getD (zeroBytes 16))) s) s
  else s

/-- R128: the newest tile of a mode, if no newer one has its arrays, stops at a k-block boundary and saves its accumulators, deep values and partial record. -/
def suspendTile (s : State) (c : CoreId) (m : BroadcastMode) (blocks : Nat) : State :=
  let x := getCore s c
  match oldestOf m x.tiles.reverse with
  | none => s
  | some t =>
    let (s0, t0) := if t.ahead = 0 then (s, t) else spillRest t.fed.length s t
    let (s1, t1) := allBlocks blocks s0 t0
    let d := t.desc
    let s2 := match saveOffset s with
      | none => s1
      | some off =>
        t1.fed.foldl (fun s m => (List.range (tN d)).foldl (fun s n =>
          wrMem s (coreBase c + tEngine d n * 2 ^ 22 + off + (m * 64 + n % 64) * 16) (accBytes (getAcc t1.accs m n))) s) s1
    let s3 := wrMem (saveDeep s2 t1) (tExc d) (excBytes (tileRecord t1 t1.block))
    updCore s3 c fun x => putTile x t t1

/-- Every tile in flight stops; `stops` says how many further k-blocks each one completes. -/
def suspendTiles (s : State) (stops : List TileStop) : State :=
  s.cores.foldl (fun s p =>
    [BroadcastMode.quad, .pair01, .pair23].foldl (fun s m =>
      let n := ((stops.find? fun q => coreIdx q.core == p.1 && q.mode == m).map fun q => q.blocks).getD 0
      suspendTile s (coreOfIdx p.1) m n) s) s

/-- TILE (R88). -/
def execTile (c : CoreId) (s : State) : Host.Outcome State Fault Refusal := .next (startTile s c)

/-- SPILL (R89). -/
def execSpill (c : CoreId) (m : BroadcastMode) (s : State) : Host.Outcome State Fault Refusal := .next (spillTile s c m)

/-- TILE_COMPLETE (R88). -/
def execTileComplete (c : CoreId) (m : BroadcastMode) (s : State) : Host.Outcome State Fault Refusal :=
  .next (completeTile s c m)

end Sys2Proof.Machine
end

