-- ==== Sys2Proof/Machine/Abort.lean ====
section
/-! DEFINITION. Aborts (spec R241), the step commands (R251), and suspension with resumption (R217, R218). -/
namespace Sys2Proof.Machine
open Sys2Proof

/-! Register writes by masters (R17, R410, R415, R419). -/

def masterSrc (m : Nat) : Nat := if m < 2 then srcHost m else srcMgmt (m - 2)

/-- Whether an offset lies in the blocks that answer before boot is ready. -/
def earlyBlock (off : Nat) : Bool := decide (off < 0x1000) || (decide (0xC000 ≤ off) && decide (off < 0xD000))

/-- Whether a master exists (R415). -/
def masterExists (s : State) (m : Nat) : Bool := m != 1 || s.pwr.linkMode

/-- R440: master and offset; a BAR2 offset takes more than four bytes. -/
def nonOwnerWrite (s : State) (m off : Nat) : State := raise s 0xC002 (masterSrc m) (toLe 1 m ++ toLe 8 off)

/-- A register write by a master: discarded before boot is ready, refused for a non-owner unless exempt. -/
def writeGate (s : State) (m off : Nat) (exempt : Bool) (f : State → State) : State :=
  if !masterExists s m || (decide (s.sec.boot ≠ .ready) && !earlyBlock off) then s
  else if exempt || isOwner s m then f s
  else nonOwnerWrite s m off

/-! Aborts. -/

/-- Whether every operation in flight of a core that can end has ended (R175: a stalled one cannot). -/
def coreQuiet (s : State) (c : CoreId) : Bool :=
  let x := getCore s c
  (x.tiles.all fun t => opStalled s c t.ord) && (x.vec.toList.all fun v => opStalled s c v.ord) &&
    x.movs.all fun m => opStalled s c m.ord

/-- Whether every collective message that the device sent has been answered. -/
def messagesQuiet (s : State) : Bool :=
  s.fab.outstanding.all fun o => match o.2.2 with
    | .collective _ _ => false
    | _ => true

def unitsQuiet (s : State) : Bool := (s.cores.all fun p => coreQuiet s (coreOfIdx p.1)) && messagesQuiet s

/-- Point 3 of R241: receive slots emptied of the attempt, stalled operations given up. -/
def emptyUnits (s : State) : State :=
  let tag := s.stp.curTag
  { s with cores := smMapVal Core.init s.cores fun x =>
             { x with tiles := [], vec := none, movs := [], cols := [], doneCols := [], quant := [], credits := [],
                      recv := x.recv.filter fun g => decide (tag.toNat < g.attempt.toNat) },
           par := { s.par with stalls := [] } }

/-- ABORT_COMPLETE: points 3 and 4 of R241. -/
def finishAbort (s : State) : State :=
  match s.stp.att with
  | none => s
  | some a =>
    if s.stp.state != .aborting || !unitsQuiet s then s
    else
      let (s1, _) := closeAttempt (emptyUnits s) a verAborted a.cause (zeroBytes 16)
      let s2 := raise s1 0x4103 srcDevice []
      endControl (enterState { s2 with stp := { s2.stp with stopPend := false } } .stopped) a.job 0 0x4103

/-- The cause bit of a local abort cause. -/
def causeBit : AbortCause → BitVec 12
  | .stale => cStale
  | .dataLoss => cDataloss
  | .manifest => cManifest
  | .stateWrite => cStatewr
  | .host => cHost
  | .fault => cFault

/-! Step commands (R251). -/

/-- STOP. -/
def stepStop (s : State) : State :=
  match effState s with
  | .stopped => s
  | .aborting => s
  | .idle =>
    if suspended s then { s with stp := { s.stp with stopPend := true } } else { s with stp := { s.stp with state := .stopped } }
  | _ => { s with stp := { s.stp with stopPend := true } }

/-- Whether a RESTORE or STANDIN_RESTORE runs (R331). -/
def restoreRuns (s : State) : Bool := s.hold.cmd.any fun c => c.code == 1 || c.code == 2

/-- RESUME: from stopped to idle, but not after a failed restore, and not while a restore runs or a load waits, which leave
the device stopped (R217, R331, R399). -/
def stepResume (s : State) : State :=
  if s.stp.state = .stopped ∧ !s.hold.restoreFailed ∧ !restoreRuns s ∧ !loadRuns s then { s with stp := { s.stp with state := .idle } } else s

/-! The sister copy (R319). -/

/-- The header PUT is answered: the sister slot is sealed. -/
def sisterSealed (s : State) (slot : Nat) : State :=
  match s.hold.drain with
  | some d =>
    if d.sister = .pending ∧ d.slot = slot then
      let s1 := { s with hold := { s.hold with drain := some { d with sister := .sealed } } }
      setSlot s1 d.slot { getSlot s1 d.slot with sisterOk := true }
    else s
  | none => s

/-- Point 5 of R319 begins once every piece of the copy is answered: the header goes to the sister, in the background class of
the copy (R311). A suspension pauses it until resumption. -/
def trySisterHeader (s : State) : State :=
  match s.hold.drain with
  | none => s
  | some d =>
    let pieces := s.fab.outstanding.any fun o => o.2.2 == .sisterPiece d.slot
    if suspended s || d.point != 4 || d.sister != .pending || pieces then s
    else
      let s1 := sendPuts { s with hold := { s.hold with drain := some { d with point := 5 } } } (sisterId s)
        (.sisterHeader d.slot) 2 [(slotAddr s (2 + d.slot), d.header)]
      if traceReplay s then sisterSealed s1 d.slot else s1

/-! Suspension (R218). -/

/-- Work pauses: tiles stop at a k-block boundary and save (R128). -/
def suspendStep (s : State) (stops : List TileStop) : State :=
  if suspended s then s
  else suspendTiles { s with stp := { s.stp with prior := s.stp.state, state := .suspended } } stops

/-- Whether slack state alone suspends the device: no reference failure waits for RESUME. -/
def slackOnly (s : State) : Bool := suspended s && !s.clk.needResume

/-- A suspension by a reference failure: one that comes in slack state finds the state saved, and stops the tiles that went on (R458). -/
def suspendWork (s : State) (inSlack : Bool) (stops : List TileStop) : State :=
  if inSlack then suspendTiles s stops else suspendStep s stops

/-- What waited for the resumption: a sister copy's header, a pending STOP in idle, an abort that arose meanwhile, decisions of messages that
arrived, and collectives. -/
def resumeStep (s : State) : State :=
  if !suspended s then s
  else
    let s1 := trySisterHeader { s with stp := { s.stp with state := s.stp.prior } }
    let s2 := if s1.stp.state = .idle then settleState s1 .idle else s1
    match s2.stp.att with
    | none => pumpAll (takeKeptLock s2)
    | some a =>
      if a.lostWhileSuspended then startAbort (setAtt s2 { a with lostWhileSuspended := false }) a.cause
      else pumpAll (decideTally (decideVerdict (tryVerdictUp s2)))

/-- The suspended attempt is discarded (R218, R451, R458): no record, A unchanged. -/
def discardAttempt (s : State) : State :=
  let s1 := emptyUnits (discardIntake (discardQueues s))
  { s1 with stp := { s1.stp with att := none } }

/-- ABORT_CAUSE (R241). -/
def execAbortCause (cause : AbortCause) (s : State) : Host.Outcome State Fault Refusal :=
  .next (startAbort s (causeBit cause))
/-- ABORT_COMPLETE (R241). -/
def execAbortComplete (s : State) : Host.Outcome State Fault Refusal := .next (finishAbort s)
/-- STP_STOP (R251). -/
def execStpStop (m : Fin 4) (s : State) : Host.Outcome State Fault Refusal := .next (writeGate s m.val 0xB000 false stepStop)
/-- STP_ABORT (R241, R251). -/
def execStpAbort (m : Fin 4) (s : State) : Host.Outcome State Fault Refusal :=
  .next (writeGate s m.val 0xB000 false fun s => startAbort s cHost)
/-- STP_RESUME (R251). -/
def execStpResume (m : Fin 4) (s : State) : Host.Outcome State Fault Refusal :=
  .next (writeGate s m.val 0xB000 false stepResume)

end Sys2Proof.Machine
end

