-- ==== Sys2Proof/Machine/FabricPorts.lean ====
section
/-! DEFINITION. Fabric ports (spec R279–R293): flits with their CRC, sequence numbers, credits and replay; training, the
peer check, lane substitution, narrower links, ports that go down; routing (R294–R296, R303–R307). -/
namespace Sys2Proof.Machine
open Sys2Proof

def getPort (s : State) (p : Nat) : Port := smGet Port.init s.fab.ports p
def setPort (s : State) (p : Nat) (x : Port) : State := { s with fab := { s.fab with ports := smSet Port.init s.fab.ports p x } }
def updPort (s : State) (p : Nat) (f : Port → Port) : State := setPort s p (f (getPort s p))

/-! Flits (R286). -/

/-- One bit of the CRC-16 with polynomial 0x8BB7, most significant bit first. -/
def crcBit (c : Nat) (bit : Bool) : Nat :=
  if (bitOf c 15 == 1) != bit then (c * 2 % 65536) ^^^ 0x8BB7 else c * 2 % 65536

/-- The bits of a number, most significant first. -/
def msbBits (n v : Nat) : List Bool := (List.range n).map fun i => bitOf v (n - 1 - i) == 1

/-- The first two bytes of a flit. -/
def flitHead (f : Flit) : Nat := f.kind.toNat * 16384 + f.vl.val * 4096 + f.ack.toNat

/-- R286: the CRC over the 12-bit sequence number and bytes 0–253. -/
def flitCrc (seq : BitVec 12) (f : Flit) : BitVec 16 :=
  let bytes := toLe 2 (flitHead f) ++ f.body
  BitVec.ofNat 16 ((bytes.map fun b => msbBits 8 b.toNat).flatten.foldl crcBit
    ((msbBits 12 seq.toNat).foldl crcBit 0xFFFF))

/-- A flit leaves under the next sequence number and stays in the replay buffer (R289). -/
def sendFlit (x : Port) (kind : BitVec 2) (vl : Fin 4) (body : Bytes) : Port :=
  let f : Flit := { kind := kind, vl := vl, ack := x.rxSeq - 1, body := sub body 0 252, crc := 0 }
  { x with replayBuf := x.replayBuf ++ [{ f with crc := flitCrc x.txSeq f }], txSeq := x.txSeq + 1 }

/-- A control flit's body (R288); the places of its fields are the model's (DESIGN CHOICE, log 40). -/
def controlBody (credits : List Nat) (replay : Option (BitVec 12)) (op logical physical : Nat) (sw : BitVec 12) : Bytes :=
  ((List.range 4).map fun v => toLe 2 (credits.getD v 0)).flatten ++
    toLe 2 ((replay.map fun n => 0x8000 + n.toNat).getD 0) ++ toLe 1 op ++ toLe 1 logical ++ toLe 1 physical ++
    toLe 2 sw.toNat

/-- R285, R288: what a control flit of a port at stage 5 carries from byte 16 on: home ID, port number, link session number; with a
plan applied the port's byte has its valid bit. A port that carries data flits is past stage 5 and sends none of it. -/
def stageIdent (s : State) (p : Nat) (x : Port) : Bytes :=
  if x.carries then []
  else toLe 3 s.fab.homeId.toNat ++ toLe 1 (p + if s.pln.plan.isSome then 0x80 else 0) ++ le32 x.sess

/-- A control flit's body with the identity part of stage 5. -/
def withIdent (idn body : Bytes) : Bytes := if idn.isEmpty then body else sub body 0 16 ++ idn

/-- R289: a control flit leaves at once while the replay buffer has room; else its body waits. -/
def sendBody (x : Port) (body : Bytes) : Port :=
  if x.replayBuf.length < 2048 ∧ x.ctlWait.isEmpty then sendFlit x 1 0 body else { x with ctlWait := x.ctlWait ++ [body] }

/-- A control flit of a port. -/
def sendControl (s : State) (p : Nat) (x : Port) (body : Bytes) : Port := sendBody x (withIdent (stageIdent s p x) body)

/-- The body of a control flit that carries an identity with a valid port number (R285, R288). -/
def identityBody (home : BitVec 18) (port : Nat) (sess : W32) : Bytes :=
  sub (controlBody [] none 0 0 0 0) 0 16 ++ toLe 3 home.toNat ++ toLe 1 (0x80 + port) ++ le32 sess

/-- R290: credits that a control flit returns for one virtual lane. -/
def creditBody (vl flits : Nat) : Bytes := controlBody ((List.range 4).map fun v => if v = vl then flits else 0) none 0 0 0 0

/-- The transactions that end inside the next `n` bytes of a virtual lane's stream, and the rest counted from there. -/
def splitEnds (n : Nat) (l : List (Nat × Nat × Nat)) : List (Nat × Nat) × List (Nat × Nat × Nat) :=
  ((l.filter fun e => decide (e.1 ≤ n)).map fun e => e.2,
   (l.filter fun e => decide (n < e.1)).map fun e => (e.1 - n, e.2.1, e.2.2))

/-- One data flit of a virtual lane. -/
def sendData (x : Port) (vl : Fin 4) : Port :=
  let str := smGet [] x.txStream vl.val
  let (done, rest) := splitEnds 252 (smGet [] x.txEnds vl.val)
  let y := sendFlit x 0 vl (str.take 252)
  let owe := smGet [] x.owed vl.val
  { y with owed := smSet [] x.owed vl.val ((owe.filter fun e => decide (252 < e.1)).map fun e => (e.1 - 252, e.2)),
           freed := x.freed ++ (owe.filter fun e => decide (e.1 ≤ 252)).map fun e => e.2,
           txStream := smSet [] x.txStream vl.val (str.drop 252), txEnds := smSet [] x.txEnds vl.val rest,
           flying := x.flying ++ done.map fun e => (x.txSeq, e.1, e.2),
           credit := smSet 0 x.credit vl.val (smGet 0 x.credit vl.val - 1) }

/-- The virtual lane that may send next: it has bytes and a credit. -/
def nextVl (x : Port) : Option (Fin 4) :=
  [0, 1, 2, 3].find? fun v => !(smGet [] x.txStream v.val).isEmpty && decide (0 < smGet 0 x.credit v.val)

/-- R287, R289, R290: flits leave while there is room in the replay buffer: control flits that wait, then data flits while
there are bytes and credits. `mute` holds data flits back, in a replay fed from a trace (R346). -/
def pumpPort (mute : Bool) : Nat → Port → Port
  | 0, x => x
  | n + 1, x =>
    if 2048 ≤ x.replayBuf.length then x
    else
      match x.ctlWait with
      | b :: rest =>
        if x.state = .up ∨ x.state = .cablingFault then pumpPort mute n (sendFlit { x with ctlWait := rest } 1 0 b) else x
      | [] =>
        if x.state = .up ∧ x.carries ∧ !mute then
          match nextVl x with
          | some v => pumpPort mute n (sendData x v)
          | none => x
        else x

/-- R290: the credits of an arrival go back to its peer in a control flit. -/
def returnCredit (s : State) (a : Arrived) : State :=
  let x := getPort s a.port
  if a.flits = 0 ∨ !x.linked then s else setPort s a.port (sendControl s a.port x (creditBody a.vl a.flits))

/-- R290: what a port has forwarded, or lost, holds its places in the receive buffers no longer. -/
def returnFreed (s : State) (p : Nat) : State :=
  (getPort s p).freed.foldl returnCredit (updPort s p fun x => { x with freed := [] })

/-- Flits leave a port, and the credits of what it forwarded go back. -/
def pumpPortAt (s : State) (p : Nat) : State := returnFreed (updPort s p (pumpPort (traceReplay s) 2048)) p

/-- An acknowledgement: every flit up to it leaves the replay buffer. -/
def takeAck (x : Port) (ack : BitVec 12) : Port :=
  let n := (ack + 1 - x.acked).toNat
  if n = 0 ∨ x.replayBuf.length < n then x
  else
    { x with replayBuf := x.replayBuf.drop n, acked := ack + 1, resends := 0,
             flying := x.flying.filter fun e => decide (n ≤ (e.1 - x.acked).toNat) }

/-- Flits resent in order from a sequence number; at the eighth time for the same flit the port retrains (R290). -/
def resend (x : Port) (from_ : BitVec 12) : Port :=
  let y := takeAck x (from_ - 1)
  if y.replayBuf.isEmpty then y
  else
    let z := { y with replay := satInc32 y.replay y.replayBuf.length, resends := y.resends + 1 }
    if z.resends < 8 then z else { z with resends := 0, state := .retraining }

/-! Losses (R293). -/

def isResponse (t : Txn) : Bool := t.type == .getRsp || t.type == .compl

/-- What names a request of its source; an answer, which bears its request's TAG, is named by no source. -/
def txnKey (t : Txn) : Nat × Nat := if isResponse t then (2 ^ 18, 0) else (t.src.toNat, t.tag.toNat)

/-- The transactions that a port's link holds unacknowledged: source and TAG. -/
def portHolds (x : Port) : List (Nat × Nat) :=
  (x.flying.map fun e => e.2) ++ ((x.txEnds.map fun e => e.2).flatten.map fun e => e.2)

/-- A sister copy fails (R319). -/
def failSister (s : State) (slot : Nat) : State :=
  match s.hold.drain with
  | some d =>
    if d.sister = .pending ∧ d.slot = slot then
      raise { s with hold := { s.hold with drain := some { d with sister := .failed } } } 0x7004 srcDevice []
    else s
  | none => s

def sisterSent : SentFor → Bool
  | .sisterPiece _ => true
  | .sisterHeader _ => true
  | .sisterLog _ => true
  | _ => false

/-- The slot whose copy a transaction carried. -/
def copySlot : SentFor → Option Nat
  | .sisterPiece k => some k
  | .sisterHeader k => some k
  | _ => none

/-- A record whose copy lost a part: the answers to its other parts acknowledge nothing (R326). -/
def voidRecord (s : State) (why : SentFor) : State :=
  match why with
  | .sisterLog _ =>
    { s with fab := { s.fab with outstanding := s.fab.outstanding.map fun o =>
        if o.2.2 = why then (o.1, o.2.1, SentFor.control) else o } }
  | _ => s

/-- Copies still on their way acknowledge nothing any more. -/
def voidCopies (s : State) (seqs : List W64) : State := seqs.foldl (fun s q => voidRecord s (.sisterLog q)) s

/-- Transactions of this device that will not be answered: they leave the outstanding list, and what they carried fails. -/
def forgetTxns (s : State) (lost : List (Nat × Nat)) : State :=
  let gone := s.fab.outstanding.filter fun o => lost.any fun l => l.1 == o.2.1.src.toNat && l.2 == o.1.toNat
  let s0 := { s with fab := { s.fab with outstanding := s.fab.outstanding.filter fun o => !gone.contains o } }
  let s1 := (gone.map fun o => o.2.2).foldl voidRecord s0
  let s2 := (gone.filterMap fun o => copySlot o.2.2).foldl failSister s1
  if gone.any fun o => sisterSent o.2.2 then { s2 with hold := { s2.hold with sisterUp := false } } else s2

/-- R293: the link's unacknowledged transactions are lost; transaction-lost is raised once, and the attempt aborts. Where there are
none, that follows only from a hold that `expired` while the attempt was suspended. -/
def loseLink (s : State) (p : Nat) (expired : Bool) : State :=
  let x := getPort s p
  let lost := portHolds x
  let y := { x with linked := false, replayBuf := [], ctlWait := [], txStream := [], rxStream := [], rxMarks := [],
                    txEnds := [], flying := [], narrowed := false,
                    owed := [], freed := x.freed ++ ((x.owed.map fun e => e.2).flatten.map fun e => e.2),
                    swapTx := none, swapRx := none, asked := false, lost := satInc32 x.lost lost.length }
  let s1 := forgetTxns (returnFreed (setPort s p y) p) lost
  if lost.isEmpty && !expired then s1
  else startAbort (raise s1 0x6105 (srcPort p) (toLe 1 p ++ toLe 3 x.peerId.toNat)) cFault

def losePort (s : State) (p : Nat) : State := loseLink s p false

/-! Ports up and down. -/

/-- Healthy lanes of a direction. -/
def healthy (bad : BitVec 9) : Nat := ((List.range 9).filter fun i => !bad.getLsbD i).length

/-- The same direction on the other rail. -/
def twin (p : Nat) : Nat := (p + 6) % 12

/-- Lanes that serve at a width: at eight, lanes 0–7 with the spare in place of a bad one; at four, the four lowest healthy
ones (R284, R292). -/
def servingLanes (bad : BitVec 9) (width : Nat) : List Nat :=
  ((List.range 9).filter fun i => !bad.getLsbD i).take width

/-- Whether a port cannot take traffic (R282): one that retrains without being down still can. -/
def portIsDown (s : State) (p : Nat) : Bool :=
  let x := getPort s p
  !((x.state == .up || x.state == .retraining) && x.carries)

/-- Whether a port is down for FAB_PSTAT. -/
def stateDown (s : State) (p : Nat) : Bool :=
  match (getPort s p).state with
  | .down => true
  | .held => true
  | .disabled => true
  | .training => true
  | _ => false

/-- R293: a port goes down; its replay buffer and sequence state are held. -/
def portGoesDown (s : State) (p : Nat) (st : PortState) : State :=
  let x := getPort s p
  let s1 := setPort s p { x with state := st, carries := false, swapTx := none, swapRx := none, resends := 0 }
  let s2 := raise s1 0x6103 (srcPort p) (toLe 1 p ++ toLe 3 x.peerId.toNat)
  if stateDown s2 (twin p) then raise s2 0x6104 (srcPort p) (toLe 1 p ++ toLe 3 x.peerId.toNat) else s2

/-- PORT_DOWN. -/
def portDown (s : State) (p : Nat) : State :=
  let x := getPort s p
  match x.state with
  | .up => portGoesDown s p (if x.linked then .held else .down)
  | .retraining => portGoesDown s p (if x.linked then .held else .down)
  | .cablingFault => portGoesDown s p (if x.linked then .held else .down)
  | .training => setPort s p { x with state := if x.linked then .held else .down }
  | _ => s

/-- PORT_HOLD_EXPIRY: the 10 s hold of a port that is not up ends; one that trains again meanwhile comes back to nothing. -/
def holdExpiry (s : State) (p : Nat) : State :=
  let x := getPort s p
  if x.state = .held then loseLink (setPort s p { x with state := .down }) p (suspended s)
  else if stateDown s p ∧ x.linked then loseLink s p (suspended s)
  else s

/-- R292: 4 lanes in both directions, or down where fewer than 4 are healthy. -/
def narrowPort (s : State) (p : Nat) (tell : Bool) : State :=
  let x := getPort s p
  if healthy x.laneBadRx < 4 ∨ healthy x.laneBadTx < 4 then
    let s1 := portGoesDown s p .down
    losePort s1 p
  else
    let y := if tell then sendControl s p x (controlBody [] none 2 0 0 0) else x
    setPort s p { y with state := .retraining, narrowed := true, widthOp := true, swapTx := none, swapRx := none }

/-! The peer check (R280, R285). -/

def axisStep (e c d : Nat) : Nat := if d % 2 = 0 then (c + 1) % e else (c + e - 1) % e

/-- The neighbour of an ID one step in a direction. -/
def neighbour (e : Nat × Nat × Nat) (i d : Nat) : Nat :=
  match d / 2 with
  | 0 => mkId (axisStep e.1 (idX i) d) (idY i) (idZ i)
  | 1 => mkId (idX i) (axisStep e.2.1 (idY i) d) (idZ i)
  | _ => mkId (idX i) (idY i) (axisStep e.2.2 (idZ i) d)

def axisExtent (e : Nat × Nat × Nat) (a : Nat) : Nat := if a = 0 then e.1 else if a = 1 then e.2.1 else e.2.2

def peerOk (s : State) (p : Nat) (x : Port) : Bool :=
  let e := extents s
  decide (1 < axisExtent e (p % 6 / 2)) && x.peerId.toNat == neighbour e s.fab.homeId.toNat (p % 6) &&
    x.peerPort.toNat == p ^^^ 1

/-- A port at stage 5 with a plan applied carries data flits, or meets a cabling fault. A replay fed from a trace carries
none (R346). -/
def checkPeer (s : State) (p : Nat) : State :=
  let x := getPort s p
  if (x.state != .up && x.state != .cablingFault) || s.pln.plan.isNone then s
  else if peerOk s p x then
    if x.carries && x.state == .up then pumpPortAt s p
    else pumpPortAt (raise (setPort s p { x with state := .up, carries := true }) 0x6003 (srcPort p)
      (toLe 1 p ++ toLe 3 x.peerId.toNat)) p
  else raise (setPort s p { x with state := .cablingFault, carries := false }) 0x6002 (srcPort p)
    (toLe 1 p ++ toLe 3 x.peerId.toNat)

/-- R280: a port of an axis of extent 1 stays down without an event. -/
def unusedPort (s : State) (p : Nat) : Bool := s.pln.plan.isSome && axisExtent (extents s) (p % 6 / 2) == 1

/-- R285: this end's identity goes to the peer, once a plan is applied. -/
def sendIdentity (s : State) (p : Nat) : State :=
  let x := getPort s p
  if s.pln.plan.isNone || (x.state != .up && x.state != .cablingFault) then s
  else setPort s p (sendBody x (identityBody s.fab.homeId p x.sess))

/-- R285, R399: with a plan applied, every port at stage 5 exchanges identities; one that the shape leaves unconnected goes
down. -/
def checkPeers (s : State) : State :=
  (List.range 12).foldl (fun s p =>
    if unusedPort s p then updPort s p fun x => if x.state = .disabled then x else { x with state := .down, carries := false }
    else checkPeer (sendIdentity s p) p) s

/-! Training (R284). -/

/-- R284, stage 5, and R290: the credits that an end gives its peer on a new link: its buffer of 256 flits for each virtual lane. -/
def freshCredits : List Nat := [256, 256, 256, 256]

/-- R284, stage 4: the lanes that training found bad join those known; the width follows, and the spare serves in a
direction whose lanes 0–7 are not all healthy. -/
def mapLanes (x : Port) (badTx badRx : BitVec 9) : Port :=
  let tx := x.laneBadTx ||| badTx
  let rx := x.laneBadRx ||| badRx
  let wide := !x.narrowed && decide (8 ≤ healthy tx) && decide (8 ≤ healthy rx)
  let sTx := (servingLanes tx (if wide then 8 else 4)).contains 8
  let sRx := (servingLanes rx (if wide then 8 else 4)).contains 8
  { x with laneBadTx := tx, laneBadRx := rx, width := if wide then 8 else 4, narrowed := !wide, spareTx := sTx, spareRx := sRx,
           toldTx := x.toldTx || sTx, toldRx := x.toldRx || sRx }

/-- R349, R363: training brought in a direction's spare lane, the last of its group, for the first time. -/
def tellSpares (old new : Port) (s : State) (p : Nat) : State :=
  let s1 := if new.spareTx && !old.toldTx then raise s 0xA104 (srcPort p) [] else s
  if new.spareRx && !old.toldRx then raise s1 0xA104 (srcPort p) [] else s1

/-- Stage 5 is reached, where each end gives its peer the credits of its buffers (R284): a link with the same peer and session goes on, another starts anew under a session of its own. -/
def portLinked (s : State) (p : Nat) (peer : BitVec 18) (peerPort : BitVec 4) (session : W32) (badTx badRx : BitVec 9) :
    State :=
  let x := getPort s p
  let same := x.linked && x.peerId == peer && x.peerPort == peerPort && x.session == session
  let s1 := if x.linked && !same then losePort s p else s
  let y := mapLanes (getPort s1 p) badTx badRx
  let width := y.width
  let base := { y with state := .up, peerId := peer, peerPort := peerPort, fails := 0, linked := true,
                       session := session, carries := same && y.carries }
  let z := if same then resend { base with resends := 0 } base.acked
    else
      let n := { base with sess := Config.linkSession s1.fresh, txSeq := 0, rxSeq := 0, acked := 0, asked := false, resends := 0,
                           credit := [] }
      sendControl s1 p n (controlBody freshCredits none 0 0 0 0)
  let s0 := bumpFresh (setPort s1 p { z with state := .up, widthOp := false })
  let s2 := tellSpares x y (if same then sendIdentity s0 p else s0) p
  let s3 :=
    if x.state = .retraining ∧ same then
      if x.widthOp ∨ width = 4 ∧ x.width = 8 then raise s2 0x6102 (srcPort p) (toLe 1 p ++ toLe 3 peer.toNat)
      else raise s2 0x6107 (srcPort p) (toLe 1 p ++ toLe 3 peer.toNat)
    else s2
  checkPeer s3 p

/-- A stage fails: the port returns to stage 1, and its sixteenth failure in succession is told as port-down; a link that was
retraining is then held (R293). -/
def stageFails (s : State) (p : Nat) : State :=
  let x := getPort s p
  let y := { x with fails := x.fails + 1 }
  if y.fails ≠ 16 then setPort s p y
  else if x.state = .retraining then portGoesDown (setPort s p y) p (if x.linked then .held else .down)
  else raise (setPort s p y) 0x6103 (srcPort p) (toLe 1 p ++ toLe 3 x.peerId.toNat)

/-- PORT_TRAINING_COMPLETE: a port trains while the reference is good and its island runs from it (R293, R451, R460). Fewer than four healthy lanes in a
direction fail the Map stage. -/
def trainPort (s : State) (p : Nat) (r : TrainResult) : State :=
  let x := getPort s p
  if s.clk.ref ≠ .good ∨ !onReference s (portIsland p) then s
  else
  match x.state with
  | .disabled => s
  | .up => s
  | .cablingFault => s
  | _ =>
    if unusedPort s p then setPort s p { x with state := .down }
    else
      match r with
      | .stageFailed => stageFails s p
      | .linked peer pp session badTx badRx =>
        if healthy (x.laneBadTx ||| badTx) < 4 ∨ healthy (x.laneBadRx ||| badRx) < 4 then stageFails s p
        else portLinked s p peer pp session badTx badRx

/-! Reception (R289, R290). -/

/-- Whether a port receives flits. -/
def receives (x : Port) : Bool := x.state == .up || x.state == .cablingFault

/-- The FEC counters of a port (R283, R309). -/
def noteFec (x : Port) (fec : Fec) : Port :=
  { x with corr := satInc32 x.corr fec.corrected.toNat, uncorr := satInc32 x.uncorr fec.lost.codewords.toNat }

/-- A flit that fails its CRC or its sequence number: discarded, and a replay request names the number expected. -/
def refuseFlit (s : State) (p : Nat) (x : Port) : Port :=
  if x.asked then x else sendControl s p { x with asked := true } (controlBody [] (some x.rxSeq) 0 0 0 0)

/-- R283, R289: a flit that a codeword left uncorrected overlaps counts as failing its CRC. -/
def flitOk (x : Port) (f : Flit) (fec : Fec) : Bool := !fec.lost.overlap && flitCrc x.rxSeq f == f.crc

/-- The next number is expected, and the acknowledgement is taken. -/
def acceptFlit (x : Port) (f : Flit) : Port := takeAck { x with rxSeq := x.rxSeq + 1, asked := false } f.ack

/-- The transactions at the front of a byte stream, each with the number of bytes that follow it, and what is left. Zero
words between transactions are filler; a reserved TYPE or a LEN above 4,096 is passed over and reported. -/
def parseStream : Nat → Bytes → List (Option Txn × Nat) × Bytes
  | 0, b => ([], b)
  | n + 1, b =>
    if b.length < 4 then ([], b)
    else if byteAt b 0 = 0 then parseStream n (b.drop 4)
    else
      let total := ceilDiv (48 + fld b 2 2) 4 * 4
      if b.length < total then ([], b)
      else
        let t := if fld b 2 2 ≤ 4096 then (txnParse b).map fun r => r.1 else none
        let r := parseStream n (b.drop total)
        ((t, b.length - total) :: r.1, r.2)

/-- The flits that items of a stream of `total` bytes complete: an item frees the flits that end inside it; those that end in
the filler after the last item are its own too. -/
def itemFlits (marks : List Nat) (total rest : Nat) : Nat → List (Option Txn × Nat) → List (Option Txn × Nat)
  | _, [] => []
  | lo, (t, left) :: more =>
    let hi := if more.isEmpty then total - rest else total - left
    (t, (marks.filter fun m => decide (lo < m) && decide (m ≤ hi)).length) :: itemFlits marks total rest (total - left) more

/-- A data flit is accepted: its bytes join the stream of its virtual lane. Whole transactions wait to be routed and hold
their flits' places in the receive buffer until then (R290); flits that end in no transaction are consumed at once. -/
def acceptData (s : State) (p : Nat) (x : Port) (f : Flit) : State :=
  let v := f.vl.val
  let str := smGet [] x.rxStream v ++ f.body
  let marks := smGet [] x.rxMarks v ++ [str.length]
  let (ts, rest) := parseStream (str.length / 4 + 1) str
  let gone := str.length - rest.length
  let items := itemFlits marks str.length rest.length 0 ts
  let idle := if ts.isEmpty then (marks.filter fun m => decide (m ≤ gone)).length else 0
  let free := idle + ((items.filter fun i => i.1.isNone).map fun i => i.2).foldl (· + ·) 0
  let y := { x with rxStream := smSet [] x.rxStream v rest,
                    rxMarks := smSet [] x.rxMarks v ((marks.filter fun m => decide (gone < m)).map (· - gone)) }
  let z := if free = 0 then y else sendControl s p y (creditBody v free)
  items.foldl (fun s i => match i.1 with
    | some t => { s with fab := { s.fab with outbox := s.fab.outbox ++
        [{ rail := p / 6, arr := some { port := p, vl := v, flits := i.2 }, txn := t }] } }
    | none => raise s 0x6001 (srcPort p) (toLe 1 p)) (pumpPortAt (setPort s p z) p)

/-- R290: a transaction that arrived is consumed: its flits' credits go back to the peer. -/
def returnCredits (s : State) (o : Outbound) : State :=
  match o.arr with
  | some a => returnCredit s a
  | none => s

/-- FLIT_RECEIVE: a data flit, or a null flit, which takes no number and of which only ACK counts (R286). -/
def receiveData (s : State) (p : Nat) (f : Flit) (fec : Fec) : State :=
  let x := noteFec (getPort s p) fec
  if !receives x then setPort s p x
  else if !flitOk x f fec then setPort s p (refuseFlit s p x)
  else if f.kind = 2 then pumpPortAt (setPort s p (takeAck x f.ack)) p
  else if !x.carries || traceReplay s then setPort s p x
  else acceptData s p (acceptFlit x f) f

/-- The credits that a control flit returns. -/
def takeCredits (x : Port) (b : Bytes) : Port :=
  { x with credit := [0, 1, 2, 3].foldl (fun m v => smSet 0 m v (Nat.min 256 (smGet 0 m v + fld b (2 * v) 2))) x.credit }

/-- A swap operation of the peer: this end moves the logical lane at flit S. -/
def takeLaneOp (s : State) (p : Nat) (b : Bytes) : State :=
  let x := getPort s p
  if byteAt b 10 = 1 then
    setPort s p { x with swapTx := some (byteAt b 11, byteAt b 12, BitVec.ofNat 12 (fld b 13 2)),
                         laneBadTx := x.laneBadTx ||| BitVec.ofNat 9 (2 ^ byteAt b 11) }
  else if byteAt b 10 = 2 then narrowPort s p false
  else s

/-- The identity that a control flit carries at stage 5. -/
def takeIdentity (s : State) (p : Nat) (b : Bytes) : State :=
  if byteAt b 19 < 0x80 then s
  else
    let x := getPort s p
    checkPeer (setPort s p { x with peerId := BitVec.ofNat 18 (fld b 16 3), peerPort := BitVec.ofNat 4 (byteAt b 19),
                                    session := fld32 b 20 }) p

/-- CONTROL_FLIT. -/
def receiveControl (s : State) (p : Nat) (f : Flit) (fec : Fec) : State :=
  let x := noteFec (getPort s p) fec
  if !receives x then setPort s p x
  else if !flitOk x f fec then setPort s p (refuseFlit s p x)
  else
    let y := takeCredits (acceptFlit x f) f.body
    let z := if 0x8000 ≤ fld f.body 8 2 then resend y (BitVec.ofNat 12 (fld f.body 8 2)) else y
    pumpPortAt (takeIdentity (takeLaneOp (setPort s p z) p f.body) p f.body) p

/-- REPLAY_TIMEOUT. -/
def replayTimeout (s : State) (p : Nat) : State :=
  let x := getPort s p
  if receives x then setPort s p (resend x x.acked) else s

/-! Lanes (R291, R292). -/

/-- The corrected-symbol threshold of the plan, if one is applied. -/
def laneThresh (s : State) : Option W32 := (curPlan s).map fun p => p.policy.laneThresh

def laneFails (s : State) : LaneFault → Bool
  | .lostLock => true
  | .corrected n => match laneThresh s with
    | some t => decide (t.toNat < n.toNat)
    | none => false

/-- Whether the spare of the receive direction can still serve; each direction has its own (R283, R291). -/
def spareFree (x : Port) : Bool := x.width == 8 && !x.spareRx && !x.laneBadRx.getLsbD 8

/-- LANE_FAIL: a lane of the direction that this end receives, or that its peer does. Fewer than four healthy lanes take the
port down; a lane that does not serve changes nothing more; the peer's end tells what its direction does. -/
def laneFail (s : State) (p : Nat) (lane : Nat) (rx : Bool) (why : LaneFault) : State :=
  let x := getPort s p
  if !laneFails s why || (x.state != .up && x.state != .retraining && x.state != .cablingFault) then s
  else
    let bit : BitVec 9 := BitVec.ofNat 9 (2 ^ lane)
    let y := if rx then { x with laneBadRx := x.laneBadRx ||| bit } else { x with laneBadTx := x.laneBadTx ||| bit }
    let s1 := setPort s p y
    if healthy y.laneBadRx < 4 ∨ healthy y.laneBadTx < 4 then narrowPort s1 p false
    else if !rx ∨ x.state = .retraining ∨ !(servingLanes x.laneBadRx x.width).contains lane ∨ x.swapRx.isSome then s1
    else if spareFree x then
      let sw := x.rxSeq - 1 + 32
      setPort s p (sendControl s p { y with swapRx := some (lane, 8, sw) } (controlBody [] none 1 lane 8 sw))
    else narrowPort s1 p true

/-- Whether a count has passed a switch flit. -/
def pastSwitch (now sw : BitVec 12) : Bool := decide ((now - sw).toNat < 2048)

/-- A swap completes, which uses the direction's one spare lane (R349, R363); a lane that failed meanwhile then narrows the
link. -/
def swapDone (s : State) (p : Nat) (y : Port) (bad : BitVec 9) : State :=
  let s0 := raise (setPort s p y) 0x6101 (srcPort p) (toLe 1 p ++ toLe 3 y.peerId.toNat)
  let s1 := raise s0 0xA104 (srcPort p) []
  if healthy bad < 8 then narrowPort s1 p true else s1

/-- LANE_SWAP: switch flit S has been reached. -/
def laneSwap (s : State) (p : Nat) (rx : Bool) : State :=
  let x := getPort s p
  if !receives x then s
  else if rx then
    match x.swapRx with
    | some w => if pastSwitch x.rxSeq w.2.2 then swapDone s p { x with swapRx := none, spareRx := true, toldRx := true } x.laneBadRx else s
    | none => s
  else
    match x.swapTx with
    | some w => if pastSwitch x.txSeq w.2.2 then swapDone s p { x with swapTx := none, spareTx := true, toldTx := true } x.laneBadTx else s
    | none => s

/-! Port commands (R309). -/

/-- The port a master selects; 12–15 are no ports. -/
def selPort (s : State) (m : Nat) : Option Nat :=
  let p := (smGet Master.init s.masters m).fabSel.toNat
  if p < 12 then some p else none

def retrainPort (s : State) (p : Nat) : State :=
  let x := getPort s p
  if x.state = .up ∨ x.state = .cablingFault then setPort s p { x with state := .retraining } else s

def disablePort (s : State) (p : Nat) : State :=
  let x := getPort s p
  if x.state = .disabled then s
  else if stateDown s p then setPort s p { x with state := .disabled }
  else portGoesDown s p .disabled

def enablePort (s : State) (p : Nat) : State :=
  let x := getPort s p
  if x.state = .disabled then setPort s p { x with state := .training } else s

def portCommand (s : State) (m : Nat) (f : State → Nat → State) : State :=
  match selPort s m with
  | some p => f s p
  | none => s

/-! Routing (R295, R296, R303–R306). -/

def idAxis (i a : Nat) : Nat := if a = 0 then idX i else if a = 1 then idY i else idZ i

/-- R306: the axis of a transaction's detour. The header (R298) does not hold it, and it is read from where the transaction is: the axis
that it came by, where that is not DAXIS; else the one axis beside DAXIS in which this device lies off the source, since nothing behind
DAXIS was corrected before the detour (DEDUCED, log 41). -/
def detourAxis (e : Nat × Nat × Nat) (here : Nat) (arr : Option Arrived) (t : Txn) : Option Nat :=
  let others := [0, 1, 2].filter (· != t.daxis.toNat)
  match (arr.map fun a => a.port % 6 / 2).filter others.contains with
  | some a => some a
  | none =>
    match others.filter fun a => idAxis here a % axisExtent e a != idAxis t.src.toNat a % axisExtent e a with
    | [a] => some a
    | _ => none

/-- R295, R306: the order in which axes are corrected: x, y, z; after a detour DAXIS, then the axis of the detour, then the rest. -/
def axisOrder (e : Nat × Nat × Nat) (here : Nat) (arr : Option Arrived) (t : Txn) : List Nat :=
  let l := if t.detour then t.daxis.toNat :: (detourAxis e here arr t).toList else []
  l ++ [0, 1, 2].filter fun a => !l.contains a

/-- R295: the next direction towards a destination; none where it is reached. -/
def nextDir (e : Nat × Nat × Nat) (here dst : Nat) (order : List Nat) : Option Nat :=
  (order.find? fun a => idAxis dst a % axisExtent e a != idAxis here a % axisExtent e a).map fun a =>
    let n := axisExtent e a
    let delta := (idAxis dst a + n - idAxis here a % n) % n
    2 * a + (if delta ≤ n - delta then 0 else 1)

/-- The link between coordinates E − 1 and 0. -/
def crossesDateline (e : Nat × Nat × Nat) (here d : Nat) : Bool :=
  let c := idAxis here (d / 2)
  if d % 2 = 0 then c + 1 == axisExtent e (d / 2) else c == 0

/-- R295, R296, R306: the virtual lane of the next hop. -/
def hopVl (e : Nat × Nat × Nat) (here d : Nat) (o : Outbound) : Fin 4 :=
  let stay := match o.arr with
    | some a => a.port % 6 / 2 == d / 2 && a.vl % 2 == 1
    | none => false
  let odd := o.txn.detour || o.txn.aliased || stay || crossesDateline e here d
  match isResponse o.txn, odd with
  | false, false => 0
  | false, true => 1
  | true, false => 2
  | true, true => 3

/-- R295, R306: the next direction of a transaction at this device. -/
def txnDir (s : State) (arr : Option Arrived) (t : Txn) : Option Nat :=
  let here := s.fab.homeId.toNat
  nextDir (extents s) here t.dst.toNat (axisOrder (extents s) here arr t)

/-- R305: a redirect entry for the destination whose position is here or one hop on. -/
def redirected (s : State) (arr : Option Arrived) (t : Txn) : Txn :=
  let here := s.fab.homeId.toNat
  let e := extents s
  let next := (txnDir s arr t).map (neighbour e here)
  match (aliasList s).find? fun a => aliasMode a == 1 && aliasId a == t.dst.toNat with
  | some a =>
    if next == some (aliasId a) || here == aliasId a then
      { t with dst := BitVec.ofNat 18 (aliasTarget a), aliased := true }
    else t
  | none => t

/-- R306: a hop that would enter a bypassed position is replaced. -/
def bypassed (s : State) (t : Txn) (d : Nat) : Txn × Nat :=
  let here := s.fab.homeId.toNat
  match (aliasList s).find? fun a => aliasMode a == 2 && aliasId a == neighbour (extents s) here d with
  | some a => ({ t with detour := true, daxis := BitVec.ofNat 2 (d / 2) }, aliasDetour a)
  | none => (t, d)

/-- The port of a direction, on the rail or on the other one (R282). -/
def portFor (s : State) (rail d : Nat) : Option Nat :=
  let p := d + 6 * (rail % 2)
  if !portIsDown s p then some p else if !portIsDown s (twin p) then some (twin p) else none

/-- A transaction joins its virtual lane's byte stream at a port. One that arrived here holds its places in the receive buffer until its
last byte has left (R290). -/
def enqueueTxn (s : State) (p : Nat) (v : Fin 4) (t : Txn) (arr : Option Arrived) : State :=
  let x := getPort s p
  let b := smGet [] x.txStream v.val ++ txnBytes t
  pumpPortAt (setPort s p { x with
    txStream := smSet [] x.txStream v.val b,
    owed := smSet [] x.owed v.val (smGet [] x.owed v.val ++ arr.toList.map fun a => (b.length, a)),
    txEnds := smSet [] x.txEnds v.val (smGet [] x.txEnds v.val ++ [(b.length, txnKey t)]) }) p

/-- Discarded where the link is lost or no route exists: transaction-lost, and the attempt aborts. -/
def discardTxn (s : State) (p : Nat) (t : Txn) : State :=
  let s1 := updPort (forgetTxns s [txnKey t]) (p % 12) fun x => { x with lost := satInc32 x.lost }
  startAbort (raise s1 0x6105 (srcPort (p % 12)) (toLe 1 p ++ toLe 3 t.dst.toNat)) cFault

/-- R345: a trace record of a transaction that lands. -/
def traceRec (s : State) (t : Txn) : Bytes :=
  padTo 64 (le64 (s.stp.c + 1) ++ le64 s.stp.a ++ txnHeader t ++ t.data)

def traceTypes (t : Txn) : Bool := !(t.type == .getReq || t.type == .compl)

/-- The oldest records leave a ring that is too small. -/
def trimRing : Nat → Nat → List Bytes → List Bytes
  | 0, _, l => l
  | n + 1, cap, l =>
    if (l.map fun r => r.length).foldl (· + ·) 0 ≤ cap then l else trimRing n cap (l.drop 1)

def traceBytes (s : State) : Nat := ((holdCfg s).map fun h => h.traceBytes).getD 0

/-- A transaction lands: its own command takes it. -/
def landTxn (s : State) (t : Txn) : State :=
  let s1 := { s with fab := { s.fab with landed := s.fab.landed ++ [t] } }
  if s.hold.trace && traceTypes t then
    let full := s.hold.ring ++ [traceRec s t]
    let ring := trimRing full.length (traceBytes s) full
    let lost := (full.take (full.length - ring.length)).map fun r => fld r 0 8 + 1
    bondProgram { s1 with hold := { s1.hold with ring := ring, traceFrom := lost.foldl Nat.max s1.hold.traceFrom } }
      (traceRec s t).length
  else s1

/-- R301: ALIASED without a matching accept entry. -/
def refuseAliased (s : State) (t : Txn) : State :=
  let s1 := raise s 0x6001 srcDevice (toLe 3 t.dst.toNat)
  if t.type = .getReq then sendAnswer s1 (answerRail s t) t .getRsp (txnFields [(16, sub t.fields 8 6), (22, [4])]) []
  else if isResponse t then s1
  else sendCompl s1 t 4

/-- Whether a transaction is for this device (R304). -/
def isForMe (s : State) (own : Bool) (t : Txn) : Bool :=
  t.dst == s.fab.homeId || (own && acceptId s == some t.dst.toNat)

/-- TRANSACTION_ROUTE: the transaction that has waited longest goes one hop, or lands. -/
def routeTxn (s : State) : State :=
  match s.fab.outbox with
  | [] => s
  | o :: rest =>
    let s0 := { s with fab := { s.fab with outbox := rest } }
    let s1 := returnCredits s0 o
    let own := o.arr.isNone
    let t := if own && acceptId s == some o.txn.dst.toNat then o.txn else redirected s o.arr o.txn
    if isForMe s own t then
      if t.aliased && (acceptId s).isNone then refuseAliased s1 t else landTxn s1 t
    else if !routable s t.dst.toNat then
      discardTxn (raise s1 0x6001 srcDevice (toLe 3 t.dst.toNat)) (6 * (o.rail % 2)) t
    else
      match txnDir s o.arr t with
      | none => landTxn s1 t
      | some d0 =>
        let (t1, d) := bypassed s t d0
        match portFor s o.rail d with
        | some p => enqueueTxn s0 p (hopVl (extents s) s.fab.homeId.toNat d { o with txn := t1 }) t1 o.arr
        | none => discardTxn s1 (d + 6 * (o.rail % 2)) t1

/-! Alias entries (R307). -/

def aliasLoOff (i : Nat) : Nat := 0x8040 + 8 * i

/-- R14, R307: the halves without their reserved bits. -/
def aliasOf (lo hi : W32) : Alias := { lo := lo &&& 0x3FFFF, hi := hi &&& 0xFC03FFFF }

/-- Whether an entry may be committed. -/
def aliasOk (s : State) (i : Nat) (a : Alias) : Bool :=
  routable s (aliasId a) && routable s (aliasTarget a) && aliasMode a != 3 &&
    !(aliasMode a == 2 && decide (6 ≤ aliasDetour a)) &&
    !((List.range 8).any fun j =>
      j != i && aliasValid (getAlias s j) && aliasId (getAlias s j) == aliasId a && aliasMode (getAlias s j) == aliasMode a)

/-- A write of FAB_ALIASi_HI: both halves at once. -/
def commitAlias (s : State) (i : Nat) (hi : W32) : State :=
  let lo := smGet none s.staged (aliasLoOff i)
  let a := aliasOf (lo.getD (getAlias s i).lo) hi
  let s1 := { s with staged := smDel s.staged (aliasLoOff i) }
  if aliasOk s i a then { s1 with fab := { s1.fab with aliases := smSet Alias.init s1.fab.aliases i a } }
  else raise s1 0x6001 srcDevice (toLe 3 (aliasId a))

/-- PORT_TRAINING_COMPLETE (R284, R285). -/
def execPortTrainingComplete (p : Fin 12) (result : TrainResult) (s : State) : Host.Outcome State Fault Refusal :=
  .next (trainPort s p.val result)
/-- FLIT_RECEIVE (R289). -/
def execFlitReceive (p : Fin 12) (flit : Flit) (corrected : W32) (uncorrectable : FecLoss) (s : State) :
    Host.Outcome State Fault Refusal :=
  .next (receiveData s p.val flit { corrected := corrected, lost := uncorrectable })
/-- CONTROL_FLIT (R288). -/
def execControlFlit (p : Fin 12) (flit : Flit) (corrected : W32) (uncorrectable : FecLoss) (s : State) :
    Host.Outcome State Fault Refusal :=
  .next (receiveControl s p.val flit { corrected := corrected, lost := uncorrectable })
/-- REPLAY_TIMEOUT (R289). -/
def execReplayTimeout (p : Fin 12) (s : State) : Host.Outcome State Fault Refusal := .next (replayTimeout s p.val)
/-- LANE_FAIL (R291, R292). -/
def execLaneFail (p : Fin 12) (lane : Fin 9) (rx : Bool) (why : LaneFault) (s : State) : Host.Outcome State Fault Refusal :=
  .next (laneFail s p.val lane.val rx why)
/-- LANE_SWAP (R291). -/
def execLaneSwap (p : Fin 12) (rx : Bool) (s : State) : Host.Outcome State Fault Refusal := .next (laneSwap s p.val rx)
/-- PORT_DOWN (R293). -/
def execPortDown (p : Fin 12) (s : State) : Host.Outcome State Fault Refusal := .next (portDown s p.val)
/-- PORT_HOLD_EXPIRY (R293). -/
def execPortHoldExpiry (p : Fin 12) (s : State) : Host.Outcome State Fault Refusal := .next (holdExpiry s p.val)
/-- RETRAIN (R290, R309). -/
def execRetrain (m : Fin 4) (s : State) : Host.Outcome State Fault Refusal :=
  .next (writeGate s m.val 0x8020 false fun s => portCommand s m.val retrainPort)
/-- DISABLE (R293, R309). -/
def execDisable (m : Fin 4) (s : State) : Host.Outcome State Fault Refusal :=
  .next (writeGate s m.val 0x8020 false fun s => portCommand s m.val disablePort)
/-- ENABLE (R309). -/
def execEnable (m : Fin 4) (s : State) : Host.Outcome State Fault Refusal :=
  .next (writeGate s m.val 0x8020 false fun s => portCommand s m.val enablePort)
/-- TRANSACTION_ROUTE (R295). -/
def execTransactionRoute (s : State) : Host.Outcome State Fault Refusal := .next (routeTxn s)
/-- ALIAS_COMMIT (R307). -/
def execAliasCommit (m : Fin 4) (entry : Fin 8) (hi : W32) (s : State) : Host.Outcome State Fault Refusal :=
  .next (writeGate s m.val (0x8044 + 8 * entry.val) false fun s => commitAlias s entry.val hi)

end Sys2Proof.Machine
end

