-- ==== Sys2Proof/Machine/Transactions.lean ====
section
/-! DEFINITION. Transactions at their destination and answers at their source (spec R298–R302, R320, R326). -/
namespace Sys2Proof.Machine
open Sys2Proof

/-! Sister slots (R318–R320). -/

/-- The bytes of a slot's window: the header, then the body. -/
def slotRead (x : Slot) (off n : Nat) : Bytes :=
  (List.range n).map fun i => if off + i < 256 then x.header.getD (off + i) 0 else smGet 0 x.body (off + i - 256)

/-- R317: the body's length by a header. -/
def hdrBody (h : Bytes) : Nat := fld h 40 8 + fld h 48 8

/-- R317: IMAGE_DIGEST of a header over a body. -/
def imageDigest (h : Bytes) (body : SMap Byte) : Bytes := digest32 (sub h 0 160 ++ rd body 0 (hdrBody h))

/-- R317: the last 16 bytes of a header. -/
def withHchk (h : Bytes) : Bytes := sub h 0 240 ++ digest16 (sub h 0 240)

/-- R318: MAGIC and HCHK. -/
def headerSealed (h : Bytes) : Bool := fld h 0 4 == 0x50534B4B && sub h 240 16 == digest16 (sub h 0 240)

/-- The header PUT of a sister copy: point 5 of R319. A digest that does not agree is a write that the slot does not take: status 0x02,
as R320 answers every PUT that a Hold window does not accept (DESIGN CHOICE, log 42). -/
def sisterHeader (s : State) (i : Nat) (h : Bytes) : State × Nat :=
  let x := getSlot s i
  if headerSealed h && imageDigest h x.body == sub h 160 32 then
    (setSlot (bondProgram s 256) i { x with st := .sealed, header := h, sisterOk := false, cover := false }, 0)
  else (raise s 0x4107 srcDevice [], 2)

/-- A body PUT of a sister copy; a sealed slot that is written anew is filling. -/
def sisterBody (s : State) (i off : Nat) (b : Bytes) : State :=
  let x := getSlot s i
  let y := if x.st = .filling then x else { Slot.init with st := .filling }
  setSlot (bondProgram s b.length) i { y with body := wr y.body off b }

/-! The sister log (R326). -/

def logRecOf (pos : Nat) (b : Bytes) : LogRec :=
  { seq := fld64 b 16, type := BitVec.ofNat 16 (fld b 4 2), pos := pos, bytes := b }

/-- R323: a whole record: MAGIC, LEN and RDIGEST. -/
def logRecOk (b : Bytes) : Bool :=
  fld b 0 4 == 0x424C4B4B && fld b 8 4 == b.length && decide (80 ≤ b.length) &&
    recTrailer b == digest16 (b.take (b.length - 16))

/-- The contiguous parts of a ring from a position, up to a length. -/
def joinParts (parts : List (Nat × Bytes)) (ring : Nat) : Nat → Nat → Nat → Bytes
  | 0, _, _ => []
  | n + 1, pos, need =>
    if need = 0 then []
    else
      match parts.find? fun p => p.1 == pos with
      | some p => p.2 ++ joinParts parts ring n ((pos + p.2.length) % ring) (need - p.2.length)
      | none => []

/-- R326: whether a record of this SEQ is the next of the sister log. SEQ 0 starts a new log, and every other follows the last. The
sister log of a stand-in (R337) begins in the middle of its sister's: the first that comes begins it, and earlier ones go in front
(DEDUCED, log 42). -/
def sisNext (s : State) (seq : W64) : Bool :=
  let standin := (acceptId s).isSome
  seq == 0 || match s.hold.sisLog.head?, s.hold.sisLog.getLast? with
    | some a, some z => seq == z.seq + 1 || (standin && seq + 1 == a.seq)
    | _, _ => standin

/-- The next record of the sister log, if its parts are all there: where it begins and its bytes. -/
def nextSisRec (s : State) : Option (Nat × Bytes) :=
  let want (b : Bytes) : Bool := fld b 0 4 == 0x424C4B4B && decide (80 ≤ fld b 8 4) && sisNext s (fld64 b 16)
  let parts := s.hold.sisParts.map fun p => (p.1, p.2.data)
  (parts.find? fun p => want p.2).bind fun p =>
    let len := fld p.2 8 4
    let b := joinParts parts (Nat.max 1 (logBytes s)) (len / 64 + 1) p.1 len
    if b.length = len then some (p.1, b) else none

/-- A log with its next record, at its end or in front; none where that would break the PREV chain. -/
def sisJoin (l : List LogRec) (r : LogRec) : Option (List LogRec) :=
  let links (a b : LogRec) : Bool := sub b.bytes 40 16 == recTrailer a.bytes
  if r.seq = 0 then (if zeros r.bytes 40 16 then some [r] else none)
  else
    match l.head?, l.getLast? with
    | some a, some z =>
      if r.seq = z.seq + 1 then (if links z r then some (l ++ [r]) else none)
      else if links r a then some (r :: l) else none
    | _, _ => some [r]

/-- R326, R327: a record joins the sister log where it keeps the PREV chain. The answer says whether it joined. -/
def appendSis (s : State) (pos : Nat) (b : Bytes) : State × Bool :=
  match if logRecOk b then sisJoin s.hold.sisLog (logRecOf pos b) else none with
  | none => (s, false)
  | some l =>
    (bondProgram { s with hold := { s.hold with sisLog := trimLog (l.length + 1) (logBytes s) l } } b.length, true)
where
  trimLog : Nat → Nat → List LogRec → List LogRec
    | 0, _, l => l
    | n + 1, cap, l =>
      if (l.map fun r => r.bytes.length).foldl (· + ·) 0 ≤ cap then l else trimLog n cap (l.drop 1)

/-- Whether a waiting part lies within the record that begins at a position. -/
def sisPartOf (s : State) (pos len : Nat) (q : Nat × Txn) : Bool :=
  decide ((q.1 + logBytes s - pos) % Nat.max 1 (logBytes s) < len)

/-- Every record whose parts are all there, in SEQ order; with the PUTs that brought them, each with its status: 0, or where the
record would break the chain 0x02, as for a write that a Hold window does not take (DESIGN CHOICE, log 42). -/
def drainSis : Nat → State → State × List (Txn × Nat)
  | 0, s => (s, [])
  | n + 1, s =>
    match nextSisRec s with
    | none => (s, [])
    | some (pos, b) =>
      let rest := s.hold.sisParts.filter fun q => !sisPartOf s pos b.length q
      let (s1, ok) := appendSis { s with hold := { s.hold with sisParts := rest } } pos b
      let done := (s.hold.sisParts.filter (sisPartOf s pos b.length)).map fun q => (q.2, if ok then 0 else 2)
      let (s2, more) := drainSis n (if ok then s1 else raise s1 0x4107 srcDevice [])
      (s2, done ++ more)

/-- Whether the sister log holds a part already: a copy that was sent again (R326). -/
def sisHolds (s : State) (off : Nat) (b : Bytes) : Bool :=
  let ring := Nat.max 1 (logBytes s)
  s.hold.sisLog.any fun r =>
    let k := (off + logBytes s - r.pos % ring) % ring
    decide (k + b.length ≤ r.bytes.length) && sub r.bytes k b.length == b

/-- A part of a sister record arrives: the PUTs that are answered now, each with its status. A record is acknowledged once it has
joined the log, in SEQ order (R326): a part behind a gap waits unanswered, and one that comes again takes its place. -/
def sisterLogPart (s : State) (off : Nat) (t : Txn) : State × List (Txn × Nat) :=
  if sisHolds s off t.data then (s, [(t, 0)])
  else
    let parts := (s.hold.sisParts.filter fun p => p.1 != off) ++ [(off, t)]
    drainSis (parts.length + 1) { s with hold := { s.hold with sisParts := parts } }

/-! PUT (R300, R320). -/

/-- What a PUT into a Hold window does, and its status. -/
def holdPut (s : State) (t : Txn) (a : Nat) : State × Nat :=
  let n := t.data.length
  let refuse := (raise s 0x4107 srcDevice [], 2)
  if (holdCfg s).isNone || t.src.toNat != sisterId s then refuse
  else if inside a n (slotAddr s 2) (2 * slotBytes s) then
    let i := 2 + (a - slotAddr s 2) / Nat.max 1 (slotBytes s)
    let off := (a - slotAddr s 2) % Nat.max 1 (slotBytes s)
    if slotBytes s < off + n then refuse
    else if off = 0 then (if n = 256 then sisterHeader s i t.data else refuse)
    else if off < 256 then refuse
    else (sisterBody s i (off - 256) t.data, 0)
  else refuse

/-- Whether a PUT brings a part of a sister record. -/
def isSisterLog (s : State) (t : Txn) (a : Nat) : Bool :=
  (holdCfg s).isSome && t.src.toNat == sisterId s && inside a t.data.length (sisLogAddr s) (logBytes s) &&
    !inside a t.data.length (slotAddr s 2) (2 * slotBytes s)

/-- R222, R274: whether a PUT may write where it does. A permute put writes an alternate bank during the lock. -/
def isPermute (s : State) (a n : Nat) : Bool :=
  s.lock.isSome && (touchesBank s 1 a n || touchesBank s 3 a n)

def inAlternate (s : State) (a n : Nat) : Bool :=
  inside a n (bankRange s 1).1 (bankRange s 1).2 || inside a n (bankRange s 3).1 (bankRange s 3).2

/-- The write of a PUT's data, and its status. -/
def putData (s : State) (t : Txn) (a : Nat) : State × Nat :=
  let n := t.data.length
  if !mapped s a n then (raise s 0x2001 srcDevice (memPay srcDevice a), 1)
  else if inHoldWindow a n then holdPut s t a
  else if isPermute s a n && t.epoch != s.stp.epoch && inAlternate s a n then
    let s1 := wrMem s a t.data
    (match s1.lock with
      | some l => setLock s1 { l with got := l.got + n }
      | none => s1, 0)
  else if (if s.lock.isSome then touchesAnyBank s a n else !bankWriteOk s a n) then
    (raise s 0x4107 srcDevice [], 2)
  else (wrMem s a t.data, 0)

/-- The end of a PUT: the token of REMOTE, then the COMPL (R300). -/
def endPut (s : State) (t : Txn) (st : Nat) : State :=
  sendCompl (if st == 0 && t.sig then signalRemote s (txnFld t 24 4) else s) t st

/-- R445, R457: what reaches a stack in self-refresh waits under credit back-pressure: the transaction stays as it landed until
its command comes again. -/
def txnHeld (s : State) (t : Txn) (a n : Nat) : Bool := epochOk s t.epoch && hbmHolds s a n

/-- PUT: the write, the token of REMOTE, the COMPL. A permute put waits while the bank it goes to drains; a part of a sister record
is answered when its record has joined the log. -/
def recvPut (s : State) (t : Txn) : State :=
  let a := txnFld t 16 6
  if isPermute s a t.data.length && targetDraining s && epochOk s t.epoch || txnHeld s t a t.data.length then s
  else
    let s := takeLanded s t
    if !epochOk s t.epoch then sendCompl (epochFault s) t 3
    else if isSisterLog s t a then
      let (s1, done) := sisterLogPart s (a - sisLogAddr s) t
      done.foldl (fun s d => endPut s d.1 d.2) s1
    else
      let (s1, st) := putData s t a
      endPut s1 t st

/-! GET (R300, R301). -/

/-- A byte of a log area: of the newest record that lies over it. -/
def logByte (l : List LogRec) (ring k : Nat) : Byte :=
  let off (r : LogRec) : Nat := (k + ring - r.pos % Nat.max 1 ring) % Nat.max 1 ring
  match l.reverse.find? fun r => decide (off r < r.bytes.length) with
  | some r => r.bytes.getD (off r) 0
  | none => 0

/-- A byte of the Hold windows: slots, both log areas, Ballast rows in their newest durable version. A slot whose image could not
be read is invalid and gives nothing of it, so that no restore takes it (R316): its bytes show as 0, without a sealed header (log
94). -/
def holdByte (s : State) (a : Nat) : Byte :=
  if inside a 1 bondBase (4 * slotBytes s) then
    let o := a - bondBase
    let x := getSlot s (o / Nat.max 1 (slotBytes s))
    if x.st = .invalid then 0 else (slotRead x (o % Nat.max 1 (slotBytes s)) 1).getD 0 0
  else if inside a 1 (ownLogAddr s) (logBytes s) then
    logByte s.hold.log (logBytes s) (a - ownLogAddr s)
  else if inside a 1 (sisLogAddr s) (logBytes s) then
    logByte s.hold.sisLog (logBytes s) (a - sisLogAddr s)
  else if ballastBase ≤ a ∧ a < regionEnd then
    let row := ((holdCfg s).map fun h => h.balRow).getD 0
    let k := (a - ballastBase) / Nat.max 1 row
    match ((s.hold.bal.filter fun v => v.row == k).getLast?) with
    | some v => v.bytes.getD ((a - ballastBase) % Nat.max 1 row) 0
    | none => 0
  else 0

/-- Device memory or a Hold window. -/
def readAny (s : State) (a n : Nat) : Bytes :=
  if inHoldWindow a n then (List.range n).map fun i => holdByte s (a + i) else rdMem s a n

/-- GET_REQ: the bytes as they stand go back in a GET_RSP. -/
def recvGetReq (s : State) (t : Txn) : State :=
  if txnHeld s t (txnFld t 16 6) (txnFld t 22 2) then s else
  let s := takeLanded s t
  let a := txnFld t 16 6
  let n := txnFld t 22 2
  let ret := sub t.fields 8 6
  let rsp (s : State) (st : Nat) (b : Bytes) : State :=
    sendAnswer s (answerRail s t) t .getRsp (txnFields [(16, ret), (22, toLe 1 st)]) b
  if !epochOk s t.epoch then rsp (epochFault s) 3 []
  else if n = 0 ∨ 4096 < n then rsp (raise s 0x6001 srcDevice (toLe 3 t.dst.toNat)) 1 []
  else if !mapped s a n || !mapped s (leNat ret) n then rsp (raise s 0x2001 srcDevice (memPay srcDevice a)) 1 []
  else rsp s 0 (readAny s a n)

/-- The outstanding transaction that an answer names. -/
def answered (s : State) (t : Txn) : Option (BitVec 16 × Txn × SentFor) :=
  s.fab.outstanding.find? fun o => o.1 == t.tag && ((o.2.1.type == .getReq) == (t.type == .getRsp))

def dropOutstanding (s : State) (tag : BitVec 16) : State :=
  { s with fab := { s.fab with outstanding := s.fab.outstanding.filter fun o => o.1 != tag } }

/-- R301: remote-reject, and the attempt aborts. -/
def remoteReject (s : State) (t : Txn) (st : Nat) : State :=
  if st = 1 ∨ st = 2 ∨ st = 4 then
    startAbort (raise s 0x6106 srcDevice (toLe 3 t.src.toNat)) cFault
  else s

/-- The data of a GET_RSP goes to RET_ADDR. -/
def landGetRsp (s : State) (t : Txn) : State :=
  let a := txnFld t 16 6
  let n := t.data.length
  if !mapped s a n || inHoldWindow a n then raise s 0x2001 srcDevice (memPay srcDevice a)
  else if !bankWriteOk s a n then stateWriteRejected s srcDevice
  else wrMem s a t.data

/-- R335: a part of the failed device's image or records arrives, or its read was answered with an error. -/
def takeStandin (s : State) (i : Nat) (st : Nat) (b : Bytes) : State :=
  match s.hold.fetch with
  | some f =>
    let g := if st = 0 then { f with got := i :: f.got, bytes := wr f.bytes (4096 * i) b } else { f with failed := true }
    { s with hold := { s.hold with fetch := some g } }
  | none => s

/-- GET_RSP: the bytes are written at RET_ADDR; those of a stand-in's reads are kept for its restore. A response that the
trace supplies answers no request of this replay (R346). -/
def recvGetRsp (s : State) (t : Txn) : State :=
  if txnHeld s t (txnFld t 16 6) t.data.length then s else
  let s := takeLanded s t
  let st := txnFld t 22 1
  match answered s t with
  | none => if traceReplay s && st == 0 then landGetRsp s t else s
  | some o =>
    let s1 := dropOutstanding s o.1
    if !epochOk s t.epoch then epochFault s1
    else
      match o.2.2 with
      | .standin i => remoteReject (takeStandin s1 i st t.data) t st
      | _ => if st ≠ 0 then remoteReject s1 t st else landGetRsp s1 t

/-! COMPL (R301, R319, R326). -/

/-- The sister acknowledges a record once every part of it is answered. HLD_SIS_SEQ shows the highest. -/
def ackRecord (s : State) (seq : W64) : State :=
  if s.fab.outstanding.any fun o => o.2.2 == .sisterLog seq then s
  else
    let top := if s.hold.sisAckedAny && decide (seq.toNat ≤ s.hold.sisAcked.toNat) then s.hold.sisAcked else seq
    { s with hold := { s.hold with sisAcked := top, sisAckedAny := true, sisAcks := seq :: s.hold.sisAcks } }

/-- What an answer means for what was sent. A piece counts as delivered by its answer, whatever the status (R301): the copy fails by
a non-zero answer to its header, a loss or a digest mismatch (R319). -/
def answerFor (s : State) (why : SentFor) (st : Nat) : State :=
  match why with
  | .sisterPiece _ => trySisterHeader s
  | .sisterHeader k => if st = 0 then sisterSealed s k else failSister s k
  | .sisterLog seq => if st = 0 then ackRecord s seq else voidRecord s (.sisterLog seq)
  | .collective k _ => pumpCore s (coreOfIdx k)
  | _ => s

/-- COMPL. -/
def recvCompl (s : State) (t : Txn) : State :=
  let s := takeLanded s t
  match answered s t with
  | none => s
  | some o =>
    let st := txnFld t 16 1
    let s1 := dropOutstanding s o.1
    let s2 := if sisterSent o.2.2 then { s1 with hold := { s1.hold with sisterUp := true } } else s1
    remoteReject (answerFor s2 o.2.2 st) t st

/-- PUT (R300). -/
def execPut (t : Txn) (s : State) : Host.Outcome State Fault Refusal := .next (recvPut s t)
/-- GET_REQ (R300). -/
def execGetReq (t : Txn) (s : State) : Host.Outcome State Fault Refusal := .next (recvGetReq s t)
/-- GET_RSP (R300). -/
def execGetRsp (t : Txn) (s : State) : Host.Outcome State Fault Refusal := .next (recvGetRsp s t)
/-- COMPL (R301). -/
def execCompl (t : Txn) (s : State) : Host.Outcome State Fault Refusal := .next (recvCompl s t)

end Sys2Proof.Machine
end

