-- ==== Sys2Proof/Machine/Secrets.lean ====
section
/-! DEFINITION. Digests, keys and the boot NOR (spec R366–R368, R377, R385), and the seal counter (R344). -/
namespace Sys2Proof.Machine
open Sys2Proof

/-- A derivation label. -/
def ascii (l : String) : Bytes := l.toList.map fun c => BitVec.ofNat 8 c.toNat

/-- R366: a signature field of 1,536 bytes, and the check of a signed object. -/
def sigFieldOk (b : Bytes) : Bool :=
  let n := fld b 0 2
  decide (1 ≤ n) && decide (n ≤ 1534) && zeros b (n + 2) (1534 - n)

def sigOk (key signed field : Bytes) : Bool := sigFieldOk field && Config.verifySig key (digest32 signed) field

/-! Keys (R377). -/

def signSeed (secret : Bytes) : Bytes := shake256 48 (secret ++ ascii "K12-SIGN")
def kemSeed (secret : Bytes) : Bytes := shake256 64 (secret ++ ascii "K12-KEM")
def recordKey (s : State) : Bytes := digest32 (s.sec.secret ++ ascii "K12-REC")
def wrapKey (s : State) : Bytes := digest32 (s.sec.secret ++ ascii "K12-WRAP")

/-- The signature field of a compressed signature (R366): SIG_LEN of 1 to 1,534, that many bytes, zeros. -/
def sigField (x : Bytes) : Bytes :=
  let n := Nat.min 1534 (Nat.max 1 x.length)
  toLe 2 n ++ sub x 0 n ++ zeroBytes (1534 - n)

/-- A signature of the device over bytes, as a signature field. -/
def deviceSign (s : State) (signed : Bytes) : Bytes :=
  sigField (Config.signWith (signSeed s.sec.secret) (digest32 signed))

/-- R385: the owner seal key of a seal secret. -/
def sealKeyOf (secret : Bytes) : Bytes := digest32 (secret ++ ascii "K12-SEAL")

/-- A seal secret opened from its wrapped form (R380). -/
def unwrapSeal (s : State) (w : Bytes) : Option Bytes :=
  Config.aesGcmOpen (wrapKey s) (sub w 0 12) [] (sub w 12 32) (sub w 44 16)

/-- The seal secret of a KEY_ID: the current or the previous one. -/
def sealSecret (s : State) (id : W32) : Option Bytes :=
  let o := s.sec.owner
  if id = 0 then none
  else if id = o.curId then unwrapSeal s o.curWrap
  else if id = o.prevId then unwrapSeal s o.prevWrap
  else none

/-! NOR (R368): the mirror first, then the primary. -/

def rdNor (s : State) (mirror : Bool) (a n : Nat) : Bytes := rdD 0xFF (if mirror then s.nor1 else s.nor0) a n
def wrNor1 (s : State) (a : Nat) (b : Bytes) : State := { s with nor1 := wrD 0xFF s.nor1 a b }
def wrNor0 (s : State) (a : Nat) (b : Bytes) : State := { s with nor0 := wrD 0xFF s.nor0 a b }
def wrNor (s : State) (a : Nat) (b : Bytes) : State := wrNor0 (wrNor1 s a b) a b

/-! The boot control record (R368). -/

structure BootCtl where
  active : Byte
  trial : Byte
  tries : Byte
  deriving DecidableEq, Repr

def bootCtlOff : Nat := 0x1000

def parseBootCtl (b : Bytes) : BootCtl :=
  if fld b 0 4 = 0x43424B4B ∧ sub b 8 16 = digest16 (sub b 0 8) then
    { active := b.getD 4 0, trial := b.getD 5 0, tries := b.getD 6 0 }
  else { active := 0, trial := 0xFF, tries := 0 }

def bootCtlBytes (r : BootCtl) : Bytes :=
  let b := toLe 4 0x43424B4B ++ [r.active, r.trial, r.tries, 0]
  b ++ digest16 b

def bootCtl (s : State) (mirror : Bool) : BootCtl := parseBootCtl (rdNor s mirror bootCtlOff 24)
def writeBootCtl (s : State) (r : BootCtl) : State := wrNor s bootCtlOff (bootCtlBytes r)

/-! The seal counter (R344). -/

def sealRecOff : Nat := 0x1800
def sealRecBytes (n : W32) : Bytes :=
  let b := le32 n ++ zeroBytes 4
  b ++ shake256 8 b

/-- A valid seal-counter record's count. -/
def sealRecOf (b : Bytes) : Nat := if zeros b 4 4 && sub b 8 8 == shake256 8 (sub b 0 8) then fld b 0 4 else 0

/-- The counter advances, durably, in all three places. -/
def bumpSeal (s : State) : State :=
  let n := s.hold.sealCount + 1
  wrNor { s with hold := { s.hold with sealCount := n } } sealRecOff (sealRecBytes n)

/-- R344: a sealed body: the seal block, the ciphertext and the tag, under the current secret. -/
def sealBody (s : State) (clear body : Bytes) : Option (State × Bytes) :=
  (sealSecret s s.sec.owner.curId).map fun secret =>
    let s1 := bumpSeal s
    let nonce := le64 s.sec.serial ++ le32 s1.hold.sealCount
    let block := nonce ++ le32 s.sec.owner.curId ++ toLe 8 body.length ++ zeroBytes 40
    let (ct, tag) := Config.aesGcmSeal (sealKeyOf secret) nonce (clear ++ block) body
    (s1, block ++ sub ct 0 body.length ++ sub tag 0 16)

/-- A sealed body opened, from its seal block on. -/
def openBody (s : State) (clear b : Bytes) : Option Bytes :=
  let n := fld b 16 8
  if b.length ≠ 64 + n + 16 ∨ !zeros b 24 40 then none
  else
    (sealSecret s (fld32 b 12)).bind fun secret =>
      Config.aesGcmOpen (sealKeyOf secret) (sub b 0 12) (clear ++ sub b 0 64) (sub b 64 n) (sub b (64 + n) 16)

/-- R385: whether sealing works: the device is claimed. -/
def claimed (s : State) : Bool := s.sec.owner.claimed

end Sys2Proof.Machine
end

