-- ==== Sys2Proof/WellFormed.lean ====
section
/-! DEFINITION. Which commands are well formed: operands inside the sizes and ranges that the spec gives what they carry. -/
namespace Sys2Proof

/-- R177: the number of requesters of each arbiter kind, 0-based row. -/
def arbRequesters : Nat → Nat
  | 0 => 7 | 1 => 5 | 2 => 8 | 3 => 8 | 4 => 9 | 5 => 72 | 6 => 15 | 7 => 12 | _ => 9

/-- How many arbiters of a kind a die has: slices 256 per die for each port, mailbox 1, engines 10, cluster banks 256,
pseudo-channels 64, hawser endpoints 3 on a quay die and 2 on a pier die (R24), fabric ports 6. -/
def arbUnits : Nat → Nat
  | 0 => 256 | 1 => 256 | 2 => 1 | 3 => 11 | 4 => 256 | 5 => 64 | 6 => 3 | 7 => 2 | _ => 6

/-- Kinds of the pier dies: their hawser ingress and fabric egress. Mailboxes stand on every die, the others on quay dies. -/
def arbWf (a : ArbId) : Bool :=
  decide (a.unit < arbUnits a.kind.val) &&
    (if a.kind.val = 2 then true else if a.kind.val < 7 then decide (a.die.val < 12) else decide (12 ≤ a.die.val))

/-- R299: 32 type-dependent bytes, and LEN as the type allows. -/
def txnWf (t : TxnType) (x : Txn) : Bool :=
  decide (x.type = t) && x.fields.length == 32 &&
    (match t with
      | .put => decide (1 ≤ x.data.length) && decide (x.data.length ≤ 4096)
      | .reduce => decide (1 ≤ x.data.length) && decide (x.data.length ≤ 4096)
      | .getRsp => decide (x.data.length ≤ 4096)
      | .tally => x.data.length == 16
      | _ => x.data.isEmpty)

/-- R286: a flit has 252 body bytes. -/
def flitWf (f : Flit) : Bool := f.body.length == 252 && f.kind != 3

/-- R231, R258, R260: a region's addresses are aligned, and its elements are as many as one collective takes. -/
def regionWf (r : GradRegion) : Bool :=
  r.acc.toNat % 16 == 0 && r.grad.toNat % 4 == 0 && r.resOff.toNat % 4 == 0 && decide (1 ≤ r.elems) &&
    decide (r.elems ≤ 16777216)

/-- R358: PUNIT by kind, with every bit that the table does not name 0; then the physical dies that have such units. -/
def punitOk (kind pdie p : Nat) : Bool :=
  let quay := decide (pdie < 12)
  let pier := decide (pdie = 12 ∨ pdie = 13)
  let berth := decide (p / 2 ^ 25 % 16 ≤ 8)
  match kind with
  | 0x01 => quay && berth && decide (p % 2 ^ 23 ≤ 65)
  | 0x02 => quay && berth && decide (p % 2 ^ 25 = 0)
  | 0x03 => quay && decide (p % 2 ^ 29 ≤ 33)
  | 0x04 => quay && decide (p % 2 ^ 29 = 0)
  | 0x05 => decide (p ≤ 2)
  | 0x06 => decide (p / 2 ^ 27 ≤ 19) && decide (p % 2 ^ 22 ≤ 67)
  | 0x07 => decide (p / 2 ^ 27 ≤ 19) && decide (p % 2 ^ 22 = 0)
  | 0x08 => pier && decide (p < 512) && decide (p / 16 % 16 ≤ 11) && decide (p % 16 ≤ 8)
  | 0x09 => quay && decide (p / 16 ≤ 3) && decide (p % 16 < [5, 5, 3, 2].getD (p / 16) 0)
  | 0x0A => quay && decide (p % 2 ^ 6 = 0)
  | 0x0B => quay && decide (p ≤ 1)
  | 0x0C => pier && decide (p ≤ 7)
  | 0x0D => decide (p = 0)
  | _ => false

/-- R357, R358: unit kinds and physical dies. -/
def unitWf (u : UnitLoc) : Bool := decide (u.pdie.toNat ≤ 13) && punitOk u.kind.toNat u.pdie.toNat u.punit.toNat
def factsWf (f : BootFacts) : Bool := f.failed.all unitWf

/-- R36: island kinds 1 to 10 on dies 0 to 13. -/
def islandWf (i : IslandId) : Bool := decide (1 ≤ i.kind.toNat) && decide (i.kind.toNat ≤ 10) && decide (i.die.toNat ≤ 13)

/-- R449: each of the fourteen dies' monitors gives the counts of 16 windows. -/
def windowsWf (w : List (List (BitVec 16))) : Bool := w.length == 14 && w.all fun c => c.length == 16

def trainWf : TrainResult → Bool
  | .stageFailed => true
  | .linked _ p _ _ _ => decide (p.toNat < 12)

/-- A well-formed command. -/
def Instr.wf : Instr → Bool
  | .descriptorIssue _ => true
  | .tile _ => true
  | .spill _ _ => true
  | .tileComplete _ _ => true
  | .add _ => true
  | .sub _ => true
  | .mul _ => true
  | .div _ => true
  | .sqrt _ => true
  | .fma _ => true
  | .min _ => true
  | .max _ => true
  | .cmp _ => true
  | .abs _ => true
  | .neg _ => true
  | .scale _ => true
  | .exp _ => true
  | .log _ => true
  | .tanh _ => true
  | .sigmoid _ => true
  | .rsqrt _ => true
  | .recip _ => true
  | .sin _ => true
  | .cos _ => true
  | .erf _ => true
  | .gelu _ => true
  | .sum _ => true
  | .sumsq _ => true
  | .maxReduction _ => true
  | .minReduction _ => true
  | .amax _ => true
  | .merge _ => true
  | .convert _ => true
  | .digest _ => true
  | .conv _ => true
  | .tconv _ => true
  | .maxpool _ => true
  | .avgpool _ => true
  | .patch _ => true
  | .argmax _ => true
  | .boxdec _ => true
  | .suppress _ => true
  | .vectorComplete _ => true
  | .copy _ => true
  | .gather _ => true
  | .scatter _ => true
  | .fill _ => true
  | .signal _ => true
  | .compare _ => true
  | .moverComplete _ _ => true
  | .tokenSignal _ _ => true
  | .fwdEnd _ => true
  | .passEnd _ => true
  | .reduceScatter _ => true
  | .allReduce _ => true
  | .reduce _ => true
  | .allGather _ => true
  | .broadcast _ => true
  | .ringStep _ => true
  | .ringCredit _ _ _ _ => true
  | .collectiveComplete _ _ => true
  | .arbiterGrant arb arrivals => arbWf arb && arrivals.all fun a => decide (a.req < arbRequesters arb.kind.val) && decide (0 < a.len)
  | .quotaWindow arb => arbWf arb
  | .islandMask arb req _ => arbWf arb && decide (req < arbRequesters arb.kind.val)
  | .parityReplay _ => true
  | .regenerated addr => addr.toNat % 16 == 0
  | .hbmRefresh _ => true
  | .scrubRead _ _ => true
  | .manifestValidation _ _ => true
  | .sampleAdmit _ _ => true
  | .engineGrant _ _ _ => true
  | .sampleReady _ _ _ _ => true
  | .release _ _ => true
  | .passRunStart _ => true
  | .ballastPageIn => true
  | .replicaReduction regions _ => regions.all regionWf
  | .updateStart => true
  | .updateComplete => true
  | .tally txn => txnWf .tally txn
  | .repairComplete shards _ => shards.all fun c => c.tag.length == 16
  | .snapshotLocalSeal => true
  | .snapshotRelease => true
  | .abortCause _ => true
  | .abortComplete => true
  | .commit txn => txnWf .cctl txn
  | .verdictUp txn => txnWf .cctl txn
  | .verdictDown txn => txnWf .cctl txn
  | .abort txn => txnWf .cctl txn
  | .reshard => true
  | .lockDrained => true
  | .drained txn => txnWf .cctl txn
  | .closed txn => txnWf .cctl txn
  | .permutePuts => true
  | .permuteComplete => true
  | .permuted txn => txnWf .cctl txn
  | .advance txn => txnWf .cctl txn
  | .abandon txn => txnWf .cctl txn
  | .advanced txn => txnWf .cctl txn
  | .abandonReq txn => txnWf .cctl txn
  | .portTrainingComplete _ result => trainWf result
  | .flitReceive _ flit _ _ => flitWf flit && flit.kind != 1
  | .controlFlit _ flit _ _ => flitWf flit && flit.kind == 1
  | .replayTimeout _ => true
  | .laneFail _ _ _ _ => true
  | .laneSwap _ _ => true
  | .portDown _ => true
  | .portHoldExpiry _ => true
  | .transactionRoute => true
  | .put txn => txnWf .put txn
  | .getReq txn => txnWf .getReq txn
  | .getRsp txn => txnWf .getRsp txn
  | .reduceTransaction _ txn => txnWf .reduce txn
  | .compl txn => txnWf .compl txn
  | .aliasCommit _ _ _ => true
  | .retrain _ => true
  | .disable _ => true
  | .enable _ => true
  | .snapshotDrainPiece => true
  | .logResend => true
  | .programFailed _ => true
  | .holdReadFailed _ => true
  | .restore => true
  | .standinRestore rows vers contents => rows.length == vers.length && rows.length == contents.length
  | .exportState => true
  | .sealOut => true
  | .sealIn => true
  | .capture => true
  | .balLoad => true
  | .traceOn _ => true
  | .traceOff _ => true
  | .cancel _ => true
  | .ballastWriteBack _ => true
  | .wearBucketRefill _ => true
  | .requestFullInspection _ => true
  | .withdrawFullInspection _ => true
  | .bootReady => true
  | .romWatchdog facts => factsWf facts
  | .harbourmasterWatchdog facts => factsWf facts
  | .load _ => true
  | .planApply => true
  | .fwStage _ => true
  | .clearTrial _ => true
  | .enrol _ _ => true
  | .attest _ nonce => nonce.length == 32
  | .planSeg _ _ data => decide (4 ≤ data.length) && decide (data.length ≤ 524288) && data.length % 4 == 0
  | .planLoad _ _ _ => true
  | .doeDiscovery _ _ => true
  | .doeAbort _ => true
  | .stpStop _ => true
  | .stpAbort _ => true
  | .stpResume _ => true
  | .jobDoorbell _ _ _ => true
  | .evqDoorbell _ _ _ => true
  | .jobFetch => true
  | .nop => true
  | .step => true
  | .evalOpen => true
  | .evalClose => true
  | .hold => true
  | .deal => true
  | .manifest => true
  | .fence => true
  | .evqModerationTimer _ => true
  | .queueEnable _ _ => true
  | .queueDisable _ _ => true
  | .claim _ _ => true
  | .releaseOwnership _ _ => true
  | .offer _ _ _ => true
  | .accept _ _ => true
  | .withdraw _ _ => true
  | .offerTimeout => true
  | .ownershipLapse => true
  | .reclaim _ token => decide (32 ≤ token.length)
  | .registerWrite _ _ _ size => decide (0 < size)
  | .loReadCapture _ _ => true
  | .bar2Read _ _ len => decide (0 < len)
  | .bar2Write _ _ data => !data.isEmpty
  | .slwConcealed _ => true
  | .slwOverbudget _ => true
  | .stpSkips _ => true
  | .fabCorr _ => true
  | .fabUncorr _ => true
  | .fabReplay _ => true
  | .fabLost _ => true
  | .hldProgFail _ => true
  | .evqLost _ => true
  | .clkForced _ => true
  | .clkRefFails _ => true
  | .pwrSlacks _ => true
  | .regRead _ _ count => decide (1 ≤ count.toNat) && decide (count.toNat ≤ 64)
  | .regWrite _ _ _ => true
  | .job _ entry => entry.length == 64
  | .eventRead _ count => decide (1 ≤ count.toNat) && decide (count.toNat ≤ 16)
  | .keepalive _ => true
  | .boardWrite _ _ data => data.length == 256
  | .recovery _ _ _ data facts => decide (data.length ≤ 4096) && factsWf facts
  | .entdaa _ _ => true
  | .getEndpointId _ => true
  | .setEndpointId _ _ => true
  | .getMctpVersionSupport _ => true
  | .getMessageTypeSupport _ => true
  | .getVendorMessageSupport _ => true
  | .linkUp _ speed width _ => decide (1 ≤ speed.toNat) && decide (speed.toNat ≤ 7) && [1, 2, 4, 8, 16].contains width.toNat
  | .linkDown _ => true
  | .flr _ => true
  | .hotReset _ => true
  | .perst _ _ => true
  | .dmaError _ _ => true
  | .monitorWindow _ _ _ => true
  | .generatorHoldover island => islandWf island
  | .referenceRestored windows => windowsWf windows
  | .clkResume _ => true
  | .discard _ => true
  | .sourceFb _ => true
  | .sourceGen _ => true
  | .switchWatchdog island => islandWf island
  | .governorTick => true
  | .coreIdle _ => true
  | .powerWindow _ => true
  | .slackEntered _ _ => true
  | .releaseLevelCrossed => true
  | .slackReleaseTimer => true
  | .resetLevel => true
  | .holdupCutoff => true
  | .inputHigh _ => true
  | .thermalTrip facts => factsWf facts
  | .reset _ facts => factsWf facts
  | .powerOn facts => factsWf facts
  | .referenceSettle windows => windowsWf windows
  | .inputBelowReleaseLevel => true
  | .slackTemperatureCleared _ => true
  | .tripCooldownComplete => true
  | .inputHighEnded => true
  | .misalignedBar0Read _ offset size => size != 4 || offset.toNat % 4 != 0

end Sys2Proof
end

