-- ==== Sys2Proof/Machine/Inspection.lean ====
section
/-! DEFINITION. The harbour inspection and the spare ledger's copies (spec R349–R360, R364). -/
namespace Sys2Proof.Machine
open Sys2Proof

/-! Ledger bytes (R354–R358). -/

def ledgerOff : Nat := 0x100000

def parseLedgerEnt (b : Bytes) : LedgerEnt :=
  { kind := b.getD 0 0, state := b.getD 1 0, cause := b.getD 2 0, pdie := b.getD 3 0, punit := fld32 b 4, aux := fld32 b 8,
    gen := fld32 b 12 }
def ledgerEntBytes (e : LedgerEnt) : Bytes := [e.kind, e.state, e.cause, e.pdie] ++ le32 e.punit ++ le32 e.aux ++ le32 e.gen

/-- A ledger as it is written: header, entries and the device's signature. -/
def ledgerBytes (s : State) (gen : W64) (es : List LedgerEnt) : Bytes :=
  let body := toLe 4 0x4C534B4B ++ toLe 2 1 ++ toLe 2 1536 ++ le64 gen ++ le64 s.sec.serial ++ le32 Config.stepping ++
    toLe 4 es.length ++ zeroBytes 32 ++ (es.map ledgerEntBytes).flatten
  body ++ deviceSign s body

def ledgerCount (b : Bytes) : Nat := fld b 28 4
def ledgerLen (b : Bytes) : Nat := 64 + 16 * ledgerCount b + 1536
def ledgerGen (b : Bytes) : W64 := fld64 b 8
def ledgerEnts (b : Bytes) : List LedgerEnt := (List.range (ledgerCount b)).map fun i => parseLedgerEnt (sub b (64 + 16 * i) 16)

/-- R357, R358: a well-formed entry: the values of its fields, PUNIT by its kind, and AUX 0 but for a NAND stack. -/
def ledgerEntOk (e : LedgerEnt) : Bool :=
  decide (1 ≤ e.state.toNat) && decide (e.state.toNat ≤ 2) && decide (1 ≤ e.cause.toNat) && decide (e.cause.toNat ≤ 7) &&
    decide (e.pdie.toNat ≤ 13) && punitOk e.kind.toNat e.pdie.toNat e.punit.toNat && (e.kind == 0x0C || e.aux == 0)

/-- R355: a valid copy. -/
def ledgerValid (s : State) (b : Bytes) : Bool :=
  let n := ledgerCount b
  fld b 0 4 == 0x4C534B4B && fld b 4 2 == 1 && fld b 6 2 == 1536 && fld64 b 16 == s.sec.serial && decide (n ≤ 65000) &&
    decide (b.length = ledgerLen b) &&
    sigOk (Config.publicKey (signSeed s.sec.secret)) (sub b 0 (64 + 16 * n)) (sub b (64 + 16 * n) 1536) &&
    (ledgerEnts b).all ledgerEntOk

/-- A copy in a boot NOR. -/
def norLedger (s : State) (mirror : Bool) : Bytes :=
  let h := rdNor s mirror ledgerOff 64
  if ledgerCount h ≤ 65000 then rdNor s mirror ledgerOff (ledgerLen h) else h

/-- R356: a ledger goes to the Bond copy, then the mirror, then the primary. -/
def writeLedger (s : State) (b : Bytes) : State := wrNor { s with spr := { s.spr with bondLedger := b } } ledgerOff b

/-- A ledger whose writing stops after `n` bytes of its three copies: the copy that was being written is part new, part old. -/
def writeLedgerUpTo (s : State) (b : Bytes) (n : Nat) : State :=
  let k := b.length
  let bond := b.take n ++ s.spr.bondLedger.drop n
  let s1 := { s with spr := { s.spr with bondLedger := if k ≤ n then b else bond } }
  wrNor0 (wrNor1 s1 ledgerOff (b.take (n - k))) ledgerOff (b.take (n - 2 * k))

/-- Of two copies, the one with the higher GEN; the first where they are equal. -/
def newerLedger (a : Option Bytes) (b : Bytes) : Option Bytes :=
  match a with
  | some x => if (ledgerGen x).toNat < (ledgerGen b).toNat then some b else some x
  | none => some b

/-! Failures and spares (R349, R357). -/

/-- Listed units of the group that a unit belongs to, with the group's spares; none for kinds without a common group. -/
def groupSpares (es : List LedgerEnt) (u : UnitLoc) : Option (Nat × Nat) :=
  let same (f : W32 → Nat) : Nat :=
    (es.filter fun e => e.kind == u.kind && e.pdie == u.pdie && f e.punit == f u.punit).length
  match u.kind.toNat with
  | 0x01 => some (same fun p => p.toNat / 2 ^ 23, 2)
  | 0x02 => some (same fun p => p.toNat / 2 ^ 29, 1)
  | 0x03 => some (same fun p => p.toNat / 2 ^ 29, 2)
  | 0x05 => some (same fun _ => 0, 1)
  | 0x06 => some (same fun p => p.toNat / 2 ^ 22, 4)
  | 0x08 => some (same fun p => p.toNat / 16, 1)
  | 0x09 => some (same fun p => p.toNat / 16, 1)
  | 0x0A => some (same fun p => p.toNat / 2 ^ 22, Config.rowRepairs u.pdie.toNat (u.punit.toNat / 2 ^ 22))
  | _ => none

/-- What leaves service with a unit that its group's spares do not cover. -/
def beyondUnit (u : UnitLoc) : Option UnitLoc :=
  let p := u.punit.toNat
  let up (kind punit : Nat) : UnitLoc :=
    { kind := BitVec.ofNat 8 kind, pdie := u.pdie, punit := BitVec.ofNat 32 punit, queued := u.queued }
  match u.kind.toNat with
  | 0x01 => some (up 0x02 (p / 2 ^ 25 * 2 ^ 25))
  | 0x03 => some (up 0x04 (p / 2 ^ 29 * 2 ^ 29))
  | 0x05 => some (up 0x0D 0)
  | 0x06 => some (up 0x07 (p / 2 ^ 22 * 2 ^ 22))
  | 0x0A => some (up 0x0B (p / 2 ^ 31))
  | _ => none

def ledgerHasUnit (es : List LedgerEnt) (u : UnitLoc) : Bool := es.any fun e => e.kind == u.kind && e.pdie == u.pdie && e.punit == u.punit

/-- One unit that is not listed joins the set as its group's spares say. The answer also says whether its group used its last
spare. -/
def listUnit (gen : W64) (cause : Byte) (es : List LedgerEnt) (u : UnitLoc) : List LedgerEnt × Bool :=
  let mk (st : Byte) : LedgerEnt :=
    { kind := u.kind, state := st, cause := cause, pdie := u.pdie, punit := u.punit, aux := 0, gen := gen.setWidth 32 }
  match groupSpares es u with
  | some (n, k) => if n < k then (es ++ [mk 1], n + 1 == k) else (es ++ [mk 2], false)
  | none => (es ++ [mk 2], false)

/-- Whether a unit's group has a spare left for it. -/
def spareLeft (es : List LedgerEnt) (u : UnitLoc) : Bool :=
  match groupSpares es u with
  | some (n, k) => decide (n < k)
  | none => false

/-- One failed unit joins the out-of-service set; beyond its group's spares the larger unit leaves in its place, with a spare of
its own group where that has one (the example of 12_spares_and_degraded_operation.md: a third row, and the berth alone is
listed, covered by the relief berth). -/
def addUnit (gen : W64) (cause : Byte) (es : List LedgerEnt) (u : UnitLoc) : List LedgerEnt × Bool :=
  if ledgerHasUnit es u then
    ((if u.kind = 0x0C then es.map fun e => if e.kind = 0x0C ∧ e.punit = u.punit then { e with state := 2 } else e else es), false)
  else
    match beyondUnit u with
    | some v => if ledgerHasUnit es v then (es, false) else listUnit gen cause es (if spareLeft es u then u else v)
    | none => listUnit gen cause es u

/-- R357: why a unit left service: what its queue entry says, or the test. -/
def unitCause (q : List QueuedLoc) (u : UnitLoc) : Byte := ((u.queued.bind fun i => q[i]?).map fun x => x.cause).getD 1

/-- Every failed unit, in order; the number of groups that used their last spare. A fabric lane's spare is used, and told, when its port
trains (R363). -/
def addUnits (gen : W64) (cause : UnitLoc → Byte) (es : List LedgerEnt) (us : List UnitLoc) : List LedgerEnt × Nat :=
  us.foldl (fun acc u =>
    let (l, last) := addUnit gen (cause u) acc.1 u
    (l, if last && !(u.kind == 0x08 && spareLeft acc.1 u) then acc.2 + 1 else acc.2)) (es, 0)

/-- R357, R358: the NAND stacks' entries hold the blocks retired so far; a stack with more of them than its spares stands beyond the
spares. The spares of a stack are an eighth of the Hold's (R315, R349). -/
def nandEntries (gen : W64) (retired : SMap Nat) (es : List LedgerEnt) : List LedgerEnt :=
  retired.foldl (fun es r =>
    let p : W32 := BitVec.ofNat 32 r.1
    let n : W32 := BitVec.ofNat 32 r.2
    let tooMany := decide (Config.spareTotal / 8 < r.2)
    if es.any fun e => e.kind == 0x0C && e.punit == p then
      es.map fun e => if e.kind = 0x0C ∧ e.punit = p then { e with aux := n, state := if tooMany then 2 else e.state } else e
    else
      es ++ [{ kind := 0x0C, state := if tooMany then 2 else 1, cause := 6, pdie := if r.1 < 4 then 12 else 13, punit := p, aux := n,
               gen := gen.setWidth 32 }]) es

/-! The inspection (R352, R353, R355, R359). -/

/-- Whether a slipway offers fewer engines of a kind. -/
def engineLost (before after : List LedgerEnt) : Bool :=
  (List.range 12).any fun d => (List.range 4).any fun k => decide (offeredEngines after d k < offeredEngines before d k)

/-- Whether an offered shape lost a unit against an earlier one. -/
def shapeLost (before after : List LedgerEnt) : Bool :=
  let a := offerDies before
  let b := offerDies after
  decide (b.length < a.length) || decide (offerRails after ≠ offerRails before) || engineLost before after ||
    decide (offerHold after < offerHold before) ||
    (List.range a.length).any fun i =>
      let x := a.getD i { hbmStacks := 0, cores := [] }
      let y := b.getD i { hbmStacks := 0, cores := [] }
      decide (y.hbmStacks < x.hbmStacks) || decide (y.cores.length < x.cores.length) ||
        (List.range x.cores.length).any fun c => decide (y.cores.getD c 0 < x.cores.getD c 0)

/-- R350: the fabric lanes that a set lists are out of service on their ports. -/
def listLanes (s : State) (es : List LedgerEnt) : State :=
  (es.filter fun e => e.kind == 0x08).foldl (fun s e =>
    let p := e.punit.toNat / 16 % 16
    let lane : BitVec 9 := 1#9 <<< (e.punit.toNat % 16)
    let x := smGet Port.init s.fab.ports p
    let y := if e.punit.getLsbD 8 then { x with laneBadRx := x.laneBadRx ||| lane } else { x with laneBadTx := x.laneBadTx ||| lane }
    { s with fab := { s.fab with ports := smSet Port.init s.fab.ports p y } }) s

/-- Points 1 to 3 of R353, from what the physical device shows: the copies are checked, and the new set is held beside the
ledger in force; the fabric lanes that it lists are out of service before any port trains. The answer also gives the digest of the
chosen ledger. -/
def inspect (s : State) (f : BootFacts) (lanes : List UnitLoc) : State × Bytes :=
  let n0 := norLedger s false
  let n1 := norLedger s true
  let bd := if f.holdMetaOk then s.spr.bondLedger else []
  let ok0 := ledgerValid s n0
  let ok1 := ledgerValid s n1
  let okb := ledgerValid s bd
  let best := ([(n0, ok0), (n1, ok1), (bd, okb)].filter fun c => c.2).foldl (fun a c => newerLedger a c.1) none
  let s1 := match best with
    | some b => if n0 = b ∧ n1 = b ∧ bd = b then s else raise (writeLedger s b) 0xA002 srcDevice []
    | none => raise s 0xA003 srcDevice []
  let gen : W64 := (best.map ledgerGen).getD 1
  let old := (best.map ledgerEnts).getD []
  let (e1, last) := addUnits (gen + 1) (unitCause s.spr.queue) old (f.failed.filter unitWf)
  let (e2, _) := addUnits (gen + 1) (fun _ => 5) e1 lanes
  let es := nandEntries (gen + 1) s.hold.retired e2
  let grown := decide (es ≠ old)
  let x : Inspection :=
    { full := s.spr.nextFull || best.isNone || !f.holdMetaOk || s.spr.overflow, entries := es,
      gen := if grown then gen + 1 else gen, grown := grown, exhausted := last, added := es.length - old.length, ok0 := ok0,
      ok1 := ok1, okb := okb, chosen := best.isSome, ms := f.ms }
  (listLanes { s1 with spr := { s1.spr with state := .inspecting, insp := some x } } es,
   (best.map digest32).getD (sub (Config.freeBytes s.fresh 32) 0 32))

/-- Points 4 and 5 of R353: the ledger is written where the set has changed, and the new set is in force. -/
def finishInspection (s : State) : State :=
  match s.spr.insp with
  | none => s
  | some x =>
    let prev := s.spr.entries
    let s2 := if x.grown then writeLedger s (ledgerBytes s x.gen x.entries) else s
    let s3 := (List.range x.exhausted).foldl (fun s _ => raise s 0xA104 srcDevice []) s2
    let none_ := offerRails x.entries == 0
    let ok (was : Bool) : Bool := was || x.grown || x.chosen
    let s4 := { s3 with spr := { s3.spr with
      state := if none_ then .noShape else .ready, lastKind := if x.full then 2 else 1, nextFull := false, nor0Ok := ok x.ok0,
      nor1Ok := ok x.ok1, bondOk := ok x.okb, added := x.added, gen := x.gen, entries := x.entries, queue := [],
      overflow := false, offered := true, lastMs := x.ms, insp := none } }
    let s5 := if shapeLost prev x.entries then raise s4 0xA004 srcDevice [] else s4
    let s6 := if none_ then raise s5 0xA103 srcDevice [] else s5
    raise s6 0xA001 srcDevice (toLe 1 (if x.full then 2 else 1) ++ toLe 2 x.added)

/-- R353, R356: a reset or a loss of power during point 4 leaves the copies as far as they were written, which is free; the
queue is unchanged. -/
def interruptInspection (s : State) : State :=
  match s.spr.insp with
  | some x =>
    if x.grown then
      let b := ledgerBytes s x.gen x.entries
      bumpFresh (writeLedgerUpTo s b (Config.ledgerWritten s.fresh % (3 * b.length + 1)))
    else s
  | none => s

/-! Requests (R364). -/

def requestFull (s : State) (want : Bool) : State := { s with spr := { s.spr with nextFull := want } }

/-- REQUEST_FULL_INSPECTION (R364). -/
def execRequestFullInspection (m : Fin 4) (s : State) : Host.Outcome State Fault Refusal :=
  .next (writeGate s m.val 0x9004 false fun s => requestFull s true)
/-- WITHDRAW_FULL_INSPECTION (R364). -/
def execWithdrawFullInspection (m : Fin 4) (s : State) : Host.Outcome State Fault Refusal :=
  .next (writeGate s m.val 0x9004 false fun s => requestFull s false)

end Sys2Proof.Machine
end

