-- ==== Sys2Proof/Machine/Boot.lean ====
section
/-! DEFINITION. Reset, boot and measurement, the board record, firmware packages, the owner record (spec R322, R344, R366–R381,
R443, R444, R458–R460). -/
namespace Sys2Proof.Machine
open Sys2Proof

/-! Measurements (R369). -/

def extend (m d : Bytes) : Bytes := digest32 (m ++ d)
def measureBoot (s : State) (d : Bytes) : State := { s with sec := { s.sec with mBoot := extend s.sec.mBoot d } }
def measureConf (s : State) (d : Bytes) : State := { s with sec := { s.sec with mConf := extend s.sec.mConf d } }

/-- The digest of an object that boot chose; where no copy is valid the spec names no bytes, so that it is free. -/
def measureConfOf (s : State) (b : Option Bytes) : State :=
  match b with
  | some x => measureConf s (digest32 x)
  | none => bumpFresh (measureConf s (sub (Config.freeBytes s.fresh 32) 0 32))

/-! The board record (R443, R444). -/

def boardOk (b : Bytes) : Bool :=
  fld b 0 4 == 0x52424B4B && fld b 4 2 == 1 && sub b 4080 16 == digest16 (sub b 0 4080) && decide (byteAt b 7 ≤ 1) &&
    decide (2000 ≤ fld b 8 2) && decide (fld b 8 2 ≤ 11000) && zeros b 10 6 && zeros b 32 4048

/-- The first valid copy: the primary, then the mirror. The digest is computed only for a copy with the marker. -/
def boardRecord (s : State) : Option Bytes :=
  [false, true].findSome? fun m =>
    if fld (rdNor s m 0 4) 0 4 = 0x52424B4B then
      (let b := rdNor s m 0 4096
       if boardOk b then some b else none)
    else none

/-- Event 3 of R460. -/
def readBoard (s : State) : State :=
  match boardRecord s with
  | some b =>
    { s with clk := { s.clk with settle := b.getD 6 0, settleDef := false },
             pwr := { s.pwr with linkMode := byteAt b 7 == 1, boardW := fld b 8 2 } }
  | none =>
    raise { s with clk := { s.clk with settle := 255, settleDef := true },
                   pwr := { s.pwr with linkMode := false, boardW := 11000 } } 0x8102 srcDevice []

/-! Reset (R458, R459). What survives: boot NOR, the Hold, the substitution queue, and what lies outside the device. -/

/-- R313, R318, R345, R357: the Hold's durable contents. -/
def holdAfter (h : Hold) : Hold :=
  { Hold.init with
    slots := h.slots, log := h.log, nextSeq := h.nextSeq, prevDigest := h.prevDigest, logPos := h.logPos, sisLog := h.sisLog, ring := h.ring,
    traceFrom := h.traceFrom, traceUpto := h.traceUpto, bal := h.bal, planHome := h.planHome, sealCount := h.sealCount,
    retired := h.retired, ownerCopy := h.ownerCopy, bondProg := h.bondProg, balProg := h.balProg }

/-- Every field of a reset device, with what survives. Lanes and units out of service stay so (R350). -/
def clearedDevice (s : State) : State :=
  { State.reset with
    hostA := s.hostA, hostB := s.hostB, nor0 := s.nor0, nor1 := s.nor1, hold := holdAfter s.hold,
    spr := { Spares.init with nextFull := s.spr.nextFull, bondLedger := s.spr.bondLedger, entries := s.spr.entries,
                              queue := s.spr.queue, overflow := s.spr.overflow },
    sec := { Sec.init with reclaimSeq := s.sec.reclaimSeq },
    fab := { Fabric.init with ports := smMapVal Port.init s.fab.ports fun x =>
      { Port.init with laneBadTx := x.laneBadTx, laneBadRx := x.laneBadRx, toldTx := x.toldTx, toldRx := x.toldRx } },
    fns := smMapVal Fn.init s.fns fun x => { Fn.init with perst := x.perst },
    pwr := { Pwr.init with phase := s.pwr.phase, lastReset := s.pwr.lastReset, high := s.pwr.high, vinOk := s.pwr.vinOk,
                           coolOk := s.pwr.coolOk, vin := s.pwr.vin, iin := s.pwr.iin, power := s.pwr.power,
                           temp := s.pwr.temp, supplyResets := s.pwr.supplyResets, powerLoss := s.pwr.powerLoss },
    bus := s.bus, fresh := s.fresh, pending := s.pending }

/-- A reset of the device: an inspection that runs is interrupted. -/
def clearDevice (s : State) : State := clearedDevice (interruptInspection s)

/-- Events 1 to 3 of R460: the boot ROMs start, and wait for the reference. -/
def powerUp (s : State) (f : BootFacts) : State :=
  readBoard { s with pwr := { s.pwr with phase := .powered, facts := some f } }

/-- A device-wide reset that runs the full boot. -/
def deviceReset (s : State) (kind : BitVec 4) (f : BootFacts) : State :=
  let s1 := clearDevice s
  powerUp { s1 with pwr := { s1.pwr with lastReset := kind } } f

/-- Whether the control island of a powered device runs. -/
def isPowered (s : State) : Bool := s.pwr.phase == .powered || s.pwr.phase == .booting || s.pwr.phase == .run

/-! The owner record (R380, R381). -/

def ownerOff : Nat := 0x30000
def ownerLen : Nat := 2080

def ownerBody (o : Owner) : Bytes :=
  let b := toLe 4 0x574F4B4B ++ toLe 2 1 ++ [if o.claimed then 1 else 0, 0] ++ le64 o.gen ++ le32 o.minSvn ++ zeroBytes 44 ++
    sub o.key 0 1793 ++ zeroBytes 63 ++ le32 o.curId ++ sub o.curWrap 0 60 ++ le32 o.prevId ++ sub o.prevWrap 0 60
  sub b 0 2048

def ownerBytes (s : State) (o : Owner) : Bytes := ownerBody o ++ digest32 (recordKey s ++ ownerBody o)

def parseOwner (b : Bytes) : Owner :=
  { claimed := byteAt b 6 == 1, gen := fld64 b 8, minSvn := fld32 b 16, key := sub b 64 1793, curId := fld32 b 1920,
    curWrap := sub b 1924 60, prevId := fld32 b 1984, prevWrap := sub b 1988 60 }

def ownerValid (s : State) (b : Bytes) : Bool :=
  fld b 0 4 == 0x574F4B4B && fld b 4 2 == 1 && sub b 2048 32 == digest32 (recordKey s ++ sub b 0 2048)

/-- A record is written to the Bond copy, then the mirror, then the primary. -/
def writeOwner (s : State) (b : Bytes) : State := wrNor { s with hold := { s.hold with ownerCopy := b } } ownerOff b

def newerOwner (a : Option Bytes) (b : Bytes) : Option Bytes :=
  match a with
  | some x => if (fld64 x 8).toNat < (fld64 b 8).toNat then some b else some x
  | none => some b

def ownerCopies (s : State) (metaOk : Bool) : List Bytes :=
  [rdNor s false ownerOff ownerLen, rdNor s true ownerOff ownerLen, if metaOk then sub s.hold.ownerCopy 0 ownerLen else []]

/-- The valid copy with the highest OWNER_GEN. -/
def ownerInUse (s : State) (metaOk : Bool) : Option Bytes :=
  ((ownerCopies s metaOk).filter (ownerValid s)).foldl newerOwner none

/-- The MIN_SVN of the owner record in use, before a boot has read it (R374). -/
def storedMinSvn (s : State) (metaOk : Bool) : W32 := ((ownerInUse s metaOk).map fun b => (parseOwner b).minSvn).getD 0

/-- Stage 4: the record in use, with which every copy is made equal. -/
def chooseOwner (s : State) (metaOk : Bool) : State × Option Bytes :=
  match ownerInUse s metaOk with
  | some b =>
    let s1 := if (ownerCopies s metaOk).all (· == b) then s else writeOwner s b
    ({ s1 with sec := { s1.sec with owner := parseOwner b } }, some b)
  | none => (s, none)

/-! Firmware packages (R367, R371–R374). -/

def slotOff (slot : Bool) : Nat := if slot then 0x09000000 else 0x01000000

def pkgSigned (b : Bytes) : Nat := fld b 24 8
def pkgSvn (b : Bytes) : W32 := fld32 b 8
def pkgKey (b : Bytes) : Bytes := sub b 64 1793
def pkgDigest (b : Bytes) : Bytes := digest32 (sub b 0 (pkgSigned b))

/-- The fields of R372 before the component table. -/
def pkgHeadOk (b : Bytes) : Bool :=
  fld b 0 4 == 0x57464B4B && fld b 4 2 == 1 && decide (5 ≤ fld b 6 2) && decide (fld b 6 2 ≤ 32) && pkgSigned b % 64 == 0 &&
    decide (pkgSigned b ≤ 134215680) && decide (1920 + 32 * fld b 6 2 ≤ pkgSigned b) && zeros b 32 32

/-- R373: the component table. -/
def pkgCompsOk (b : Bytes) : Bool :=
  let n := fld b 6 2
  let comps := (List.range n).map fun i => sub b (1920 + 32 * i) 32
  let rng (c : Bytes) : Nat × Nat := (fld c 8 8, fld c 16 8)
  (comps.all fun c => zeros c 1 7 && zeros c 24 8 && decide (1 ≤ byteAt c 0) && decide (byteAt c 0 ≤ 5) &&
    fld c 8 8 % 64 == 0 && decide (1920 + 32 * n ≤ fld c 8 8) && decide (fld c 8 8 + fld c 16 8 ≤ pkgSigned b)) &&
  ((List.range 5).all fun k => (comps.filter fun c => byteAt c 0 == k + 1).length == 1) &&
  (List.range n).all fun i => (List.range i).all fun j =>
    let x := rng (comps.getD i [])
    let y := rng (comps.getD j [])
    !overlap x.1 x.2 y.1 y.2

/-- R374: why a package is not valid under an owner record's MIN_SVN, as FWREASON codes it. -/
def pkgFault (minSvn : W32) (b : Bytes) : Option Nat :=
  let n := pkgSigned b
  if !(pkgHeadOk b && decide (b.length = n + 1536) && zeros b 1857 63 && pkgCompsOk b) then some 1
  else if !(Config.releaseDigests.contains (digest32 (pkgKey b))) then some 2
  else if !sigOk (pkgKey b) (sub b 0 n) (sub b n 1536) then some 3
  else if Config.stepping.toNat < fld b 16 4 ∨ fld b 20 4 < Config.stepping.toNat then some 4
  else if (pkgSvn b).toNat < minSvn.toNat then some 5
  else none

/-- R374: why a package is not valid. -/
def pkgRefusal (s : State) (b : Bytes) : Option Nat := pkgFault s.sec.owner.minSvn b

/-- A package where `read` reads it from: the whole of it, if its header holds. -/
def readPackage (read : Nat → Nat → Bytes) : Bytes :=
  let h := read 0 64
  if pkgHeadOk h then read 0 (pkgSigned h + 1536) else h

/-- The boot control record: the primary copy where it holds, then the mirror's (R368). -/
def ctlValid (b : Bytes) : Bool := fld b 0 4 == 0x43424B4B && sub b 8 16 == digest16 (sub b 0 8)
def chosenCtl (s : State) : BootCtl :=
  if ctlValid (rdNor s false bootCtlOff 24) then bootCtl s false else bootCtl s true

/-- A trial that the next boot tries. -/
def trialSlot (r : BootCtl) : Option Bool :=
  if r.tries = 0 then none else if r.trial = 0 then some false else if r.trial = 1 then some true else none

/-- A place where the ROM looks for a package: its slot, whether it is the mirror's copy, whether it is the trial. -/
abbrev PkgPlace := Bool × Bool × Bool

/-- R371: the places in order. -/
def pkgPlaces (r : BootCtl) : List PkgPlace :=
  let a := r.active == 1
  ((trialSlot r).toList.map fun t => (t, false, true)) ++
    [(a, false, false), (a, true, false), (!a, false, false), (!a, true, false)]

/-- Stage 3: the first valid package with its place. -/
def choosePackage (s : State) (r : BootCtl) (minSvn : W32) : Option (PkgPlace × Bytes) :=
  (pkgPlaces r).findSome? fun p =>
    let b := readPackage fun o n => rdNor s p.2.1 (slotOff p.1 + o) n
    if (pkgFault minSvn b).isNone then some (p, b) else none

/-! The device certificate (R378, R379). -/

def certOff : Nat := 0x20000
def certLen : Nat := 5056

def certMatches (s : State) (b : Bytes) : Bool :=
  sub b 64 1793 == Config.publicKey (signSeed s.sec.secret) && sub b 1920 1568 == Config.kemPublic (kemSeed s.sec.secret)

/-- The device's certificate: the primary's copy, then the mirror's. -/
def deviceCert (s : State) : Option Bytes :=
  [false, true].findSome? fun m =>
    let b := rdNor s m certOff certLen
    if certMatches s b then some b else none

/-! Stages of the boot (R370). -/

/-- The device stops at stage 3. -/
def failBoot (s : State) : State := { s with sec := { s.sec with boot := .failed } }

/-- R322: the records before the first whose RDIGEST does not match; the last `torn` of them were not programmed whole. -/
def goodRecords (l : List LogRec) (torn : Nat) : List LogRec := (l.take (l.length - torn)).takeWhile fun r => logRecOk r.bytes

/-- R322: the Hold after a loss of power. Unsealed slots go, log records from the first bad one on, and Ballast versions whose
program did not complete. -/
def recoverHold (s : State) (f : BootFacts) : State :=
  let slots := s.hold.slots.filter fun p => p.2.st != .filling
  if s.pwr.powerLoss then
    let log := goodRecords s.hold.log f.tornLog
    let sis := goodRecords s.hold.sisLog f.tornSister
    let bal := s.hold.bal.filter fun v => !f.torn.contains (v.row, v.ver)
    let first := s.hold.log[log.length]?
    let lostSlots := s.hold.slots.length - slots.length
    let lostRecs := s.hold.log.length - log.length + (s.hold.sisLog.length - sis.length)
    let lostRows := s.hold.bal.length - bal.length
    let h := { s.hold with slots := slots, log := log, sisLog := sis, bal := bal,
                           nextSeq := (first.map fun r => r.seq).getD s.hold.nextSeq,
                           prevDigest := (first.map fun r => sub r.bytes 40 16).getD s.hold.prevDigest,
                           logPos := (first.map fun r => r.pos).getD s.hold.logPos }
    let s1 := { s with hold := h, pwr := { s.pwr with powerLoss := false } }
    if lostSlots + lostRecs + lostRows = 0 then s1
    else raise s1 0x7105 srcDevice (toLe 4 lostSlots ++ toLe 4 lostRecs ++ toLe 4 lostRows)
  else { s with hold := { s.hold with slots := slots } }

/-- R344, R348: the seal counter and the wear that the Hold shows. -/
def readSeal (s : State) (metaOk : Bool) : State :=
  let n := Nat.max (if metaOk then s.hold.sealCount.toNat else 0)
    (Nat.max (sealRecOf (rdNor s false sealRecOff 16)) (sealRecOf (rdNor s true sealRecOff 16)))
  let used := (s.hold.retired.map fun p => p.2).foldl (· + ·) 0
  { s with hold := { s.hold with sealCount := BitVec.ofNat 32 n, bondWear := Config.bondWear, balWear := Config.ballastWear,
                                 spareBlocks := BitVec.ofNat 32 (Config.spareTotal - used) } }

/-- The running package's facts (R372, R374, R404). -/
def runPackage (s : State) (p : PkgPlace) (b : Bytes) : State :=
  { s with sec := { s.sec with
      slot := p.1, copy := p.2.1, trialBoot := p.2.2, svn := pkgSvn b, fwVersion := fld32 b 12, fwDigest := pkgDigest b,
      releaseKey := pkgKey b } }

/-- Stage 4: identity, and the configuration measured. -/
def identify (s : State) (owner : Option Bytes) : State :=
  let cert := deviceCert s
  let s1 := match cert with
    | some b => { s with sec := { s.sec with ident := true, serial := fld64 b 8 } }
    | none => raise s 0xB105 srcDevice []
  measureConfOf (measureConfOf (measureConfOf s1 cert) (boardRecord s1)) owner

/-- R291, R350: the fabric lanes that are out of service, as units of the ledger. -/
def badLanes (s : State) : List UnitLoc :=
  (s.fab.ports.map fun p =>
    let die : Byte := if p.1 < 6 then 12 else 13
    let lanes (rx : Bool) (bad : BitVec 9) : List UnitLoc :=
      ((List.range 9).filter fun i => bad.getLsbD i).map fun i =>
        { kind := 0x08, pdie := die, punit := BitVec.ofNat 32 (puFabLane rx p.1 i), queued := none }
    lanes false p.2.laneBadTx ++ lanes true p.2.laneBadRx).flatten

/-- Stages 1 to 5, from what the physical device shows. -/
def bootStages (s : State) (f : BootFacts) : State :=
  let s1 := measureBoot s Config.romDigest
  if !f.secretPrimary && !f.secretMirror then failBoot s1
  else
    let s2 := { s1 with sec := { s1.sec with secret := Config.deviceSecret, ctlRead := true } }
    let r := chosenCtl s2
    let s3 := if (trialSlot r).isSome then writeBootCtl s2 { r with tries := r.tries - 1 } else s2
    match choosePackage s3 r (storedMinSvn s3 f.holdMetaOk) with
    | none => failBoot s3
    | some (p, b) =>
      let (s4, owner) := chooseOwner (runPackage (measureBoot s3 (pkgDigest b)) p b) f.holdMetaOk
      let s5 := if p = (r.active == 1, false, false) ∧ f.secretPrimary then s4 else raise s4 0xB106 srcDevice []
      let s6 := recoverHold (readSeal (identify s5 owner) f.holdMetaOk) f
      let (s7, dg) := inspect s6 f (badLanes s6)
      bumpFresh (measureConf s7 dg)

/-- Stage 6 (R376), and event 8 of R460. -/
def settleTrial (s : State) : State :=
  let r := chosenCtl s
  if s.sec.trialBoot then
    raise (writeBootCtl s { r with active := if s.sec.slot then 1 else 0, trial := 0xFF }) 0xB003 srcDevice []
  else if r.trial ≠ 0xFF ∧ r.tries = 0 then raise (writeBootCtl s { r with trial := 0xFF }) 0xB103 srcDevice []
  else s

/-- The inspection reaches point 5, and the islands follow the set that is then in force. -/
def inspected (s : State) : State :=
  let s1 := finishInspection s
  if s1.spr.entries = s.spr.entries then s1 else settleIslands s1

/-- BOOT_READY: the inspection reaches point 5; with a shape to offer, the boot is ready. -/
def bootReady (s : State) : State :=
  if s.pwr.phase ≠ .booting ∨ s.sec.boot ≠ .booting then s
  else
    let s0 := inspected s
    if s0.spr.state ≠ .ready then s0
    else
      let s1 := settleTrial { s0 with sec := { s0.sec with boot := .ready }, pwr := { s0.pwr with phase := .run } }
      raise s1 0x9002 srcDevice (toLe 1 s1.pwr.lastReset.toNat ++ le32 s1.pwr.supplyResets)

/-! Watchdogs (R376, R459). The ROM watchdog counts from the end of the reference-settle delay. -/

def romWatchdog (s : State) (f : BootFacts) : State :=
  if s.pwr.phase = .booting ∧ s.sec.boot = .booting ∧ s.spr.state ≠ .noShape then deviceReset s 4 f else s

def hmWatchdog (s : State) (f : BootFacts) : State :=
  if s.pwr.phase = .booting ∨ s.pwr.phase = .run then deviceReset s 5 f else s

/-! Firmware update (R375, R376). -/

def rejectFw (s : State) (r : Nat) : State :=
  raise { s with sec := { s.sec with fwReason := BitVec.ofNat 8 r } } 0xB102 srcDevice []

def setStage (s : State) (x : Option FwStage) : State := { s with sec := { s.sec with stage := x } }

/-- FW_STAGE: point 1. What follows runs on as time passes. -/
def stageFirmware (s : State) : State :=
  if s.sec.boot ≠ .ready ∨ s.stp.state ≠ .stopped ∨ loadRuns s ∨ s.sec.stage.isSome then rejectFw s 7
  else
    setStage s (some { point := 2, slot := !((chosenCtl s).active == 1), addr := s.sec.fwAddr.toNat, bytes := [],
                       mirrorDone := false })

/-- Point 2: the package is read and checked. -/
def checkStaged (s : State) (x : FwStage) : State :=
  let h := rdMem s x.addr 64
  let n := if pkgHeadOk h then pkgSigned h + 1536 else 64
  if !inHbm s x.addr n then rejectFw (setStage s none) 1
  else
    match pkgRefusal s (rdMem s x.addr n) with
    | some r => rejectFw (setStage s none) r
    | none => setStage s (some { x with point := 3, bytes := rdMem s x.addr n })

/-- A copy that could not be written holds bytes that the spec does not give. -/
def norGarbage (s : State) (x : FwStage) : Bytes := sub (Config.freeBytes s.fresh x.bytes.length) 0 x.bytes.length

/-- Point 3: the mirror's copy, then the primary's (R368). A write that fails ends the update with FWREASON 0x06 and leaves its copy's
contents open (log 105). -/
def writeStaged (s : State) (x : FwStage) : State :=
  let fails := Config.norWriteFails s.fresh
  let b := if fails then norGarbage s x else x.bytes
  let s1 := bumpFresh (if x.mirrorDone then wrNor0 s (slotOff x.slot) b else wrNor1 s (slotOff x.slot) b)
  if fails then rejectFw (setStage s1 none) 6
  else setStage s1 (some (if x.mirrorDone then { x with point := 4 } else { x with mirrorDone := true }))

/-- Points 4 and 5: the trial is set, and fw-staged raised. -/
def endStaged (s : State) (x : FwStage) : State :=
  let r := chosenCtl s
  raise (writeBootCtl (setStage s none) { r with trial := if x.slot then 1 else 0, tries := 3 }) 0xB002 srcDevice []

/-- The next point of an update that runs. -/
def fwStep (s : State) : State :=
  match s.sec.stage with
  | none => s
  | some x =>
    if x.point = 2 then (if anyStackHolds s then s else checkStaged s x)
    else if x.point = 3 then writeStaged s x
    else endStaged s x

/-- CLEAR_TRIAL. -/
def clearTrial (s : State) : State := writeBootCtl s { chosenCtl s with trial := 0xFF }

/-- BOOT_READY (R376, R460). -/
def execBootReady (s : State) : Host.Outcome State Fault Refusal := .next (bootReady s)
/-- ROM_WATCHDOG (R376, R459). -/
def execRomWatchdog (f : BootFacts) (s : State) : Host.Outcome State Fault Refusal := .next (romWatchdog s f)
/-- HARBOURMASTER_WATCHDOG (R459). -/
def execHarbourmasterWatchdog (f : BootFacts) (s : State) : Host.Outcome State Fault Refusal := .next (hmWatchdog s f)
/-- FW_STAGE (R375). -/
def execFwStage (m : Fin 4) (s : State) : Host.Outcome State Fault Refusal :=
  .next (writeGate s m.val 0xC000 false stageFirmware)
/-- CLEAR_TRIAL (R376). -/
def execClearTrial (m : Fin 4) (s : State) : Host.Outcome State Fault Refusal :=
  .next (writeGate s m.val 0xC000 false clearTrial)

end Sys2Proof.Machine
end

