-- ==== Sys2Proof/Machine/Hold.lean ====
section
/-! DEFINITION. The Hold (spec R315–R348): the drain of a snapshot, log copies, failures, Hold commands, restore, replay,
stand-in, export, sealed images, captures, trace. -/
namespace Sys2Proof.Machine
open Sys2Proof

/-! The drain (R319). -/

def pieceBytes : Nat := 65536

def setDrain (s : State) (d : Drain) : State := { s with hold := { s.hold with drain := some d } }

/-- Device addresses of a drain's body: the state bank, then the residue bank. -/
def drainRead (sh : Shape) (s : State) (d : Drain) (off n : Nat) : Bytes :=
  let st := if d.bank then sh.state1 else sh.state0
  let re := if d.bank then sh.res1 else sh.res0
  let k := Nat.min n (sh.stateBytes - off)
  rdMem s (st + off) k ++ rdMem s (re + (off + k - sh.stateBytes)) (n - k)

/-- SNAPSHOT_DRAIN_PIECE: one piece goes to the slot and, as PUTs of the background class (R311), to the sister. -/
def drainPiece (s : State) : State :=
  match s.hold.drain, curPlan s with
  | some d, some p =>
    let total := p.shape.stateBytes + p.shape.resBytes
    if suspended s || anyStackHolds s || d.point != 2 then s
    else
      let n := Nat.min pieceBytes (total - d.next)
      let b := drainRead p.shape s d d.next n
      let x := getSlot s d.slot
      let s1 := setSlot (bondProgram s n) d.slot { x with body := wr x.body d.next b }
      let s2 := sendPuts s1 (sisterId s1) (.sisterPiece d.slot) 2
        ((ringParts 0 (n / 4096 + 1) (256 + d.next) b).map fun q => (slotAddr s1 (2 + d.slot) + q.1, q.2))
      setDrain s2 { d with next := d.next + n, point := if total ≤ d.next + n then 3 else 2 }
  | _, _ => s

/-- R327: whether every record after a snapshot's LOG_SEQ is present. -/
def logCovers (s : State) (header : Bytes) : Bool :=
  let from_ := (hdrLogSeq header).toNat
  (s.hold.log.filter fun r => decide (from_ < r.seq.toNat)).length == s.hold.nextSeq.toNat - 1 - from_

/-- SNAPSHOT_LOCAL_SEAL: point 4, once every relied-on Ballast version is durable. -/
def localSeal (s : State) : State :=
  match s.hold.drain with
  | none => s
  | some d =>
    if suspended s || d.point != 3 || !(snapDirty s (hdrStep d.header)).isEmpty then s
    else
      let x := getSlot s d.slot
      let front := sub d.header 0 160
      let h := withHchk (front ++ imageDigest front x.body ++ zeroBytes 48)
      let s1 := setSlot (bondProgram s 256) d.slot
        { x with st := .sealed, cover := logCovers s d.header, sisterOk := false, header := h }
      trySisterHeader (setDrain s1 { d with point := 4, header := h })

/-- SNAPSHOT_RELEASE: point 6. -/
def releaseSnap (s : State) : State :=
  match s.hold.drain with
  | none => s
  | some d =>
    if suspended s || decide (d.point < 4) || d.sister == .pending then s
    else
      let s1 := logAppend s 0x0002 s.stp.c d.header
      nextDrain (raise s1 0x7002 srcDevice (sub d.header 8 8 ++ toLe 1 (b2n (d.sister == .sealed))))

/-- R326: the records from the first that the sister has not acknowledged are sent again, all of them. -/
def resendLog (s : State) : State :=
  let again := s.hold.log.dropWhile fun r => s.hold.sisAcks.contains r.seq
  again.foldl sendLogCopy (voidCopies s (again.map fun r => r.seq))

/-! Failures (R315, R316, R351). -/

/-- PROGRAM_FAILED: the block is retired; the last spare block of a stack is told (R363). -/
def programFailed (s : State) (k : Nat) : State :=
  let spare := BitVec.ofNat 32 (s.hold.spareBlocks.toNat - 1)
  let h := { s.hold with retired := smUpd 0 s.hold.retired k (· + 1), progFail := satInc32 s.hold.progFail,
                         spareBlocks := spare }
  let s1 := raise { s with hold := h } 0x7103 (srcHold k) []
  let low (n : W32) : Bool := decide (100 * n.toNat < Config.spareTotal)
  let s2 := if low spare && !low s.hold.spareBlocks then raise s1 0x7106 srcDevice [] else s1
  if smGet 0 h.retired k = Config.spareTotal / 8 then raise s2 0xA104 (srcHold k) [] else s2

/-- HOLD_READ_FAILED: what was being read is lost, and its location is queued. -/
def holdReadFailed (s : State) (w : HoldRead) : State :=
  match w with
  | .slot i =>
    let a := slotAddr s i.val
    let s1 := raise s 0x7104 srcDevice []
    queueLocation (setSlot s1 i.val { getSlot s1 i.val with st := .invalid }) 0 a 7
  | .sisterRecord seq =>
    let s1 := raise s 0x7104 srcDevice []
    queueLocation { s1 with hold := { s1.hold with sisLog := s1.hold.sisLog.filter fun r => r.seq != seq } } 0
      (sisLogAddr s) 7
  | .logRecord seq =>
    let a := ownLogAddr s
    let s1 := raise s 0x7104 srcDevice []
    let uncover (s : State) (i : Nat) : State :=
      let x := getSlot s i
      if x.st = .sealed ∧ (hdrLogSeq x.header).toNat < seq.toNat then setSlot s i { x with cover := false } else s
    let s2 := loseReplay (uncover (uncover s1 0) 1) seq
    let s3 := queueLocation { s2 with hold := { s2.hold with log := s2.hold.log.filter fun r => r.seq != seq } } 0 a 7
    if s3.hold.replay.any fun r => r.lost then endReplay s3 3 else s3
  | .ballast row ver =>
    let a := ballastBase + row * balRow s
    let s1 := raise s 0x7104 srcDevice []
    let s2 := { s1 with hold := { s1.hold with bal := s1.hold.bal.filter fun v => !(v.row == row && v.ver == ver) } }
    dataLoss (queueLocation s2 0 a 7) 0 a

/-! The HOLD entry (R328, R430). -/

def hCmd (j : JobEnt) : Nat := jobByte j 8
def hSlot (j : JobEnt) : Nat := jobByte j 9
def hTrace (j : JobEnt) : Nat := jobByte j 10
def hHost (j : JobEnt) : Nat := jobByte j 11
def hPeer (j : JobEnt) : Nat := fld j.bytes 12 4
def hArgA (j : JobEnt) : W64 := fld64 j.bytes 16
def hArgB (j : JobEnt) : W64 := fld64 j.bytes 24
def hAddr (j : JobEnt) : Nat := fld j.bytes 32 8
def hBytes (j : JobEnt) : Nat := fld j.bytes 40 8

/-- The bytes that each command names. -/
def holdNamed : Nat → List (Nat × Nat)
  | 1 => [(8, 3), (16, 8)]
  | 2 => [(8, 1), (12, 4), (16, 16)]
  | 3 => [(8, 1), (11, 1), (32, 8)]
  | 4 => [(8, 2), (11, 1), (32, 8)]
  | 5 => [(8, 2), (11, 1), (32, 16)]
  | 6 => [(8, 2), (11, 1), (16, 8), (32, 8)]
  | 7 => [(8, 1), (16, 16), (32, 8)]
  | _ => []

/-- R328: the states that accept each command. -/
def holdState (s : State) (c : Nat) : Bool :=
  match s.stp.state with
  | .stopped => c != 7 || s.stp.c == 0
  | .idle => [1, 3, 4, 6].contains c
  | .evaluation => [3, 4, 6].contains c
  | _ => false

/-- Bytes in the padded elements of an exported shard. -/
def exportTag (s : State) (x : Shard) : Tag :=
  (parseTag (sub (Config.workingTag (planDigest s) x.shard.toNat) 0 8)).getD { fmt := .fp32, ovf := false, scale := 0x3F800000 }
def shardElems (l : Layout) (x : Shard) : Nat := x.bytes / (if l.adamW then 12 else 8)

/-- R343: one shard's record. -/
def exportRecord (s : State) (l : Layout) (x : Shard) : Bytes :=
  let base := (bankRange s 0).1
  let t := exportTag s x
  let n := shardElems l x
  let tag := rdMem s (base + x.tagOff) 16
  let elems := (List.range n).map fun i =>
    let q := rdElem s (base + x.offset + 4 * i) 4
    let v := decode .fp32 q
    toLe (fmtBytes t.fmt) (finishElem t (!fmtShort t.fmt) v false (isInf v) (isSnan .fp32 q) 0).1
  toLe 4 0x58454B4B ++ le32 x.shard ++ sub (Config.workingTag (planDigest s) x.shard.toNat) 0 8 ++ toLe 8 n ++
    sub tag 0 12 ++ zeroBytes 28 ++ padTo 64 elems.flatten

def exportEnd : Bytes := toLe 4 0x58454B4B ++ toLe 4 0xFFFFFFFF ++ zeroBytes 56

def exportRecords (s : State) : Bytes :=
  match curLayout s with
  | some l => ((sortKey (fun (x : Shard) => x.shard.toNat) l.shards).map (exportRecord s l)).flatten
  | none => []

/-! Captures (R345). -/

/-- The log records after a snapshot up to the last ATTEMPT record of a step. -/
def captureLog (s : State) (seq : W64) (last : W64) : List LogRec :=
  let l := s.hold.log.filter fun r => decide (seq.toNat < r.seq.toNat)
  let isLast (r : LogRec) : Bool := r.type == 1 && fld64 r.bytes 24 == last
  (l.reverse.dropWhile fun r => !isLast r).reverse

/-- The trace records of a step range. -/
def traceSteps (s : State) (lo hi : Nat) : List Bytes :=
  s.hold.ring.filter fun r => decide (lo ≤ fld r 0 8) && decide (fld r 0 8 ≤ hi)

/-- Whether the trace covers every step from `lo` to `hi`. -/
def traceCovers (s : State) (lo hi : Nat) : Bool :=
  decide (0 < traceBytes s) && decide (s.hold.traceFrom ≤ lo) && (s.hold.trace || decide (hi ≤ s.hold.traceUpto))

/-- A slot's image: its header and its body. -/
def slotBody (x : Slot) : Bytes := rd x.body 0 (hdrBody x.header)

/-- Bytes that a sealed body adds. -/
def sealExtra : Nat := 80

/-- The length of a command's output. -/
def outLen (s : State) (j : JobEnt) : Nat :=
  let x := getSlot s (hSlot j)
  match hCmd j with
  | 3 => (exportRecords s).length + 64
  | 4 => 256 + sealExtra + hdrBody x.header
  | 6 =>
    let recs := captureLog s (hdrLogSeq x.header) (hArgA j)
    let lo := (hdrStep x.header).toNat + 1
    let tr := if traceCovers s lo (hArgA j).toNat then traceSteps s lo (hArgA j).toNat else []
    128 + 256 + 2 * sealExtra + hdrBody x.header + ((recs.map fun r => r.bytes.length) ++ (tr.map fun r => r.length)).foldl (· + ·) 0
  | _ => 0

/-- Whether output may go where a command says: anywhere on link A, or in HBM outside the banks. -/
def outOk (s : State) (j : JobEnt) : Bool :=
  decide (hHost j ≤ 1) && (hHost j == 1 || (inHbm s (hAddr j) (outLen s j) && !touchesAnyBank s (hAddr j) (outLen s j)))

/-- R328, R336, R344, R385: the parameters' rules. -/
def holdParams (s : State) (j : JobEnt) : Bool :=
  let slot := decide (hSlot j ≤ 1)
  let sealed := decide ((getSlot s (hSlot j)).st = .sealed)
  let sealing (n : Nat) : Bool := claimed s && decide (s.hold.sealCount.toNat + n ≤ 0xFFFFFFFF)
  match hCmd j with
  | 1 => slot && decide (hTrace j ≤ 1)
  | 2 =>
    decide (hPeer j < 2 ^ 18) && (hPeer j == 0x3FFFF || routable s (hPeer j)) &&
      !(hPeer j == 0x3FFFF && ((holdCfg s).map fun h => decide (0 < h.balBytes)).getD false)
  | 3 => outOk s j
  | 4 => slot && sealed && sealing 1 && outOk s j
  | 5 => slot && claimed s && decide (hHost j ≤ 1) && (hHost j == 1 || inHbm s (hAddr j) (hBytes j))
  | 6 =>
    slot && sealed && sealing 2 && outOk s j &&
      !(captureLog s (hdrLogSeq (getSlot s (hSlot j)).header) (hArgA j)).isEmpty
  | 7 =>
    ((holdCfg s).map fun h =>
      decide ((hArgA j).toNat + (hArgB j).toNat ≤ h.balRows) && inHbm s (hAddr j) ((hArgB j).toNat * h.balRow)).getD false
  | _ => false

def holdOk (s : State) (j : JobEnt) : Bool :=
  decide (1 ≤ hCmd j) && decide (hCmd j ≤ 7) && entryForm j (holdNamed (hCmd j)) && (curPlan s).isSome &&
    holdState s (hCmd j) && holdParams s j

/-- R319, R329: a restore abandons a drain before point 4, and every snapshot that waits. -/
def abandonDrain (s : State) : State :=
  let s1 := { s with hold := { s.hold with snapQueue := [] } }
  match s1.hold.drain with
  | some d =>
    if d.point < 4 then
      let s2 := setSlot s1 d.slot Slot.init
      { s2 with hold := { s2.hold with drain := none } }
    else s1
  | none => s1

/-- HOLD: the entry at the head is tested; its command is accepted, or rejected by hold-command-invalid. -/
def startHold (s : State) : State :=
  match headEntry s 5 with
  | none => s
  | some j =>
    if loadRuns s then s
    else if !holdOk s j then
      let s1 := { s with ctl := { s.ctl with waiting := s.ctl.waiting.drop 1 } }
      jobDone (raise s1 0x7008 srcDevice []) j 1 0x7008
    else
      let s1 := takeHead s j
      let s2 := { s1 with hold := { s1.hold with cmd := some { code := hCmd j, job := j, cancel := false } } }
      if hCmd j ≤ 2 then
        let s3 := endReplay (abandonDrain s2) 4
        { s3 with stp := { s3.stp with state := .stopped } }
      else s2

/-- Whether a command's data lie in host memory: SEAL_IN and what writes an output. -/
def onHost (c : HoldCmd) : Bool := [3, 4, 5, 6].contains c.code && hHost c.job == 1

/-- The running command, if it has a code and the device is not suspended; one whose data lie in host memory waits while its link's
function is in D3hot (R407), any other while a stack of the device memory holds requests (R445). -/
def running (s : State) (code : Nat) : Option HoldCmd :=
  s.hold.cmd.bind fun c => if c.code = code ∧ !suspended s ∧ !(if onHost c then (getFn s 0).cfg.d3hot else anyStackHolds s) then some c else none

def endCmd (s : State) (c : HoldCmd) (code : Nat) : State :=
  endControl { s with hold := { s.hold with cmd := none } } c.job 0 code

/-- R328: export-complete, with FAIL. -/
def endExport (s : State) (c : HoldCmd) (fail : Bool) : State :=
  endCmd (raise s 0x7006 srcDevice (toLe 1 (b2n fail))) c 0x7006

/-- R409: the transfer of a command to or from host memory fails: dma-error, and export-complete with FAIL. -/
def failHostCmd (s : State) (c : HoldCmd) : State :=
  endExport (raiseDma s 0 .hold (BitVec.ofNat 64 (hAddr c.job))) c true

/-- Whether a command's transfer finds its link down. -/
def hostLost (s : State) (c : HoldCmd) : Bool := onHost c && !(getFn s 0).up

def snapInvalid (s : State) : State := raise s 0x7101 srcDevice (toLe 1 2)

/-! Restore (R330, R331). -/

/-- R330, but for what differs between RESTORE and STANDIN_RESTORE. -/
def imageFits (s : State) (h : Bytes) (replayTo : W64) : Bool :=
  match curPlan s with
  | none => false
  | some p =>
    headerSealed h && sub h 72 32 == planDigest s && sub h 104 32 == s.sec.fwDigest && fld32 h 36 == Config.stepping &&
      sub h 56 16 == shapeId s && decide (byteAt h 28 < p.layouts.length) && fld h 40 8 == p.shape.stateBytes &&
      fld h 48 8 == p.shape.resBytes &&
      (fld h 32 4 == s.fab.homeId.toNat || (acceptIds s).contains (fld h 32 4)) && decide ((hdrStep h).toNat ≤ replayTo.toNat)

/-- Point 3: the body goes into banks 0. -/
def writeBanks (s : State) (body : Bytes) : State :=
  match curPlan s with
  | none => s
  | some p =>
    wrMem (wrMem s p.shape.state0 (sub body 0 p.shape.stateBytes)) p.shape.res0
      (sub body p.shape.stateBytes p.shape.resBytes)

/-- A failure at point 4 leaves the banks undefined: their bytes are free. -/
def spoilBanks (s : State) : State :=
  match curPlan s with
  | none => s
  | some p =>
    let n := p.shape.stateBytes + p.shape.resBytes
    bumpFresh (writeBanks s (sub (Config.freeBytes s.fresh n) 0 n))

/-- Point 5: one control write; where the layout changes, the images of the restored one are loaded. -/
def restoreControl (s : State) (h : Bytes) : State :=
  let s1 := mirrored { s with stp := { s.stp with bank := false, c := hdrStep h, a := hdrAttempt h, epoch := fld32 h 24,
                                                  layout := byteAt h 28, commits := [], advances := [] } }
  if s.stp.layout = s1.stp.layout then s1 else loadImages s1

/-- R341: versions above the restored step are discarded, and nothing is resident. -/
def restoreBallast (s : State) (step : W64) : State :=
  { s with hold := { s.hold with bal := s.hold.bal.filter (fun v => decide (v.ver.toNat ≤ step.toNat)), cache := [],
                                 slotTable := [] } }

/-- R346: the traced transactions after the snapshot land again, in recorded order. -/
def feedTrace (s : State) (step : Nat) : State :=
  let ts := (s.hold.ring.filter fun r => decide (step < fld r 0 8)).filterMap fun r => (txnParse (r.drop 16)).map fun p => p.1
  { s with fab := { s.fab with landed := s.fab.landed ++ ts } }

/-- Point 6: the record, replay mode, the event; the device is stopped. Records of the own log area stay in the replay's reach
while they stay there (R334): replay mode is armed before the RESTORE record is written, which may remove one that it needs. -/
def restoreEnd (s : State) (c : HoldCmd) (h : Bytes) (source : Nat) (recs : List LogRec) : State :=
  let upto := hArgA c.job
  let trace := hTrace c.job == 1
  let body := sub h 8 8 ++ le64 upto ++ sub h 32 4 ++ toLe 1 source ++ toLe 1 (b2n trace)
  let armed := decide ((hdrStep h).toNat < upto.toNat)
  let r : Option Replay := if armed then some { upto := upto, log := recs, own := source != 2, lost := false, trace := trace } else none
  let s1 := logAppend { s with hold := { s.hold with replay := r } } 0x0006 s.stp.c body
  let s2 := { s1 with hold := { s1.hold with replayTo := upto, restoreFailed := false },
                      stp := { s1.stp with state := .stopped } }
  let s3 := if armed && trace then feedTrace s2 (hdrStep h).toNat else s2
  endCmd (raise s3 0x7003 srcDevice []) c 0x7003

/-- Points 2 to 6 of R331 for an image. -/
def restoreImage (s : State) (c : HoldCmd) (h body : Bytes) (ok : Bool) (source : Nat) (recs : List LogRec) : State :=
  if !ok then endCmd (snapInvalid s) c 0x7101
  else if digest32 (sub h 0 160 ++ sub body 0 (hdrBody h)) != sub h 160 32 then
    let s1 := spoilBanks s
    endCmd (snapInvalid { s1 with hold := { s1.hold with restoreFailed := true } }) c 0x7101
  else
    restoreEnd (restoreBallast (restoreControl (writeBanks s body) h) (hdrStep h)) c h source recs

/-- The records that a replay matches: those after the snapshot, while the slot's coverage holds. -/
def coverLog (s : State) (x : Slot) : List LogRec :=
  if x.cover then s.hold.log.filter fun r => decide ((hdrLogSeq x.header).toNat < r.seq.toNat) else []

/-- RESTORE. -/
def runRestore (s : State) : State :=
  match running s 1 with
  | none => s
  | some c =>
    let x := getSlot s (hSlot c.job)
    let ok := decide (x.st = .sealed) && imageFits s x.header (hArgA c.job)
    restoreImage s c x.header (slotBody x) ok (if x.imported then 3 else 1) (coverLog s x)

/-- The versions that a peer's Hold gives: row numbers, VERs and contents, version by version. -/
def peerVersions (rows : List Nat) (vers : List W64) (contents : List Bytes) : List BallastRow :=
  ((rows.zip vers).zip contents).map fun v => { row := v.1.1, ver := v.1.2, bytes := v.2 }

/-- R336: of every row the version with the greatest VER not above the step, as version 0. -/
def peerRows (rows : List BallastRow) (step : Nat) : List BallastRow :=
  let l := rows.filter fun v => decide (v.ver.toNat ≤ step)
  (l.filter fun v => newestOf l v.row == some v).map fun v => { v with ver := 0 }

/-! Stand-in (R335). The failed device's image and records come from the sister in reads of up to 4,096 bytes: first both
headers, then the body of the slot whose STEP is asked for and the sister log. -/

def freshFetch : StandinFetch := { header := none, slot := 0, got := [], bytes := [], failed := false }

/-- Parts of a body. -/
def bodyParts (h : Bytes) : Nat := ceilDiv (hdrBody h) 4096

/-- How many parts a fetch reads: the two headers, then the body and the sister log area. -/
def fetchParts (s : State) (f : StandinFetch) : Nat :=
  match f.header with
  | none => 2
  | some h => bodyParts h + logBytes s / 4096

/-- The address at the sister, and the length, of a part. -/
def fetchPart (s : State) (f : StandinFetch) (i : Nat) : Nat × Nat :=
  match f.header with
  | none => (slotAddr s (2 + i), 256)
  | some h =>
    if i < bodyParts h then (slotAddr s (2 + f.slot) + 256 + 4096 * i, Nat.min 4096 (hdrBody h - 4096 * i))
    else (sisLogAddr s + 4096 * (i - bodyParts h), 4096)

/-- Reads in flight at a time. -/
def fetchDepth : Nat := 256

/-- Every part that neither has arrived nor is on its way is asked for, at most `fetchDepth` at a time. -/
def sendFetch (s : State) (f : StandinFetch) : State :=
  (List.range (fetchParts s f)).foldl (fun s i =>
    let flying := s.fab.outstanding.filter fun o =>
      match o.2.2 with
      | .standin _ => true
      | _ => false
    if f.got.contains i || (flying.any fun o => o.2.2 == .standin i) || decide (fetchDepth ≤ flying.length) then s
    else
      let p := fetchPart s f i
      (sendTxn s (hmRail s) (mkTxn s .getReq 1 (sisterId s)
        (txnFields [(16, toLe 6 p.1), (22, toLe 2 p.2), (24, toLe 6 (slotAddr s 0))]) []) (.standin i)).1) s

def fetchDone (s : State) (f : StandinFetch) : Bool := (List.range (fetchParts s f)).all fun i => f.got.contains i

/-- The slot, with its header, whose STEP is asked for, of the two headers that arrived. -/
def pickHeader (f : StandinFetch) (step : W64) : Option (Nat × Bytes) :=
  ((List.range 2).map fun i => (i, rd f.bytes (4096 * i) 256)).find? fun p => headerSealed p.2 && hdrStep p.2 == step

/-- The records of a log area that follow one another from a number and a position on. -/
def chainRecs (area : Bytes) (seq : W64) : Nat → Nat → Bytes → List LogRec
  | 0, _, _ => []
  | n + 1, pos, prev =>
    let ring := area.length
    let p := pos % Nat.max 1 ring
    let at_ (k : Nat) : Bytes := sub (area.drop p ++ area.take p) 0 k
    let b := at_ (fld (at_ 64) 8 4)
    if logRecOk b && fld64 b 16 == seq && (prev.isEmpty || sub b 40 16 == prev) then
      logRecOf pos b :: chainRecs area (seq + 1) n (pos + b.length) (recTrailer b)
    else []

/-- The records after a snapshot in a log area: the chain that begins with the record after its LOG_SEQ. -/
def recordsAfter (area : Bytes) (h : Bytes) : List LogRec :=
  let n := area.length / 64
  let seq := hdrLogSeq h + 1
  match (List.range n).find? fun k => fld (sub area (64 * k) 4) 0 4 == 0x424C4B4B && fld64 (sub area (64 * k) 24) 16 == seq with
  | some k => chainRecs area seq n (64 * k) []
  | none => []

/-- R337: the slots of a stand-in start empty. -/
def emptySlots (s : State) : State := { s with hold := { s.hold with slots := [], drain := none, snapQueue := [] } }

/-- The end of a stand-in's fetch: points 2 to 6 of R331, then the Ballast of R336. -/
def finishStandin (s : State) (c : HoldCmd) (f : StandinFetch) (h : Bytes) (rows : List BallastRow) : State :=
  let ok := (acceptId s).isSome && imageFits s h (hArgA c.job)
  let body := rd f.bytes 0 (hdrBody h)
  let area := rd f.bytes (4096 * bodyParts h) (logBytes s)
  let s1 := restoreImage { s with hold := { s.hold with fetch := none } } c h body ok 2 (recordsAfter area h)
  if !ok || s1.hold.restoreFailed then s1
  else
    let s2 := emptySlots s1
    if hPeer c.job = 0x3FFFF then s2
    else (peerRows rows (hdrStep h).toNat).foldl addVersion { s2 with hold := { s2.hold with bal := [] } }

/-- A stand-in without a usable image ends with snapshot-invalid. -/
def failStandin (s : State) (c : HoldCmd) : State :=
  endCmd (snapInvalid { s with hold := { s.hold with fetch := none } }) c 0x7101

/-- STANDIN_RESTORE: reads go out until the sister's copy is here; then the restore runs, with the Ballast rows that the peer
gave. -/
def runStandin (s : State) (rows : List BallastRow) : State :=
  match running s 2 with
  | none => s
  | some c =>
    let f := s.hold.fetch.getD freshFetch
    if f.failed then failStandin s c
    else if !fetchDone s f then sendFetch { s with hold := { s.hold with fetch := some f } } f
    else
      match f.header with
      | some h => finishStandin s c f h rows
      | none =>
        match pickHeader f (hArgB c.job) with
        | none => failStandin s c
        | some (k, h) =>
          let g := { freshFetch with header := some h, slot := k }
          sendFetch { s with hold := { s.hold with fetch := some g } } g

/-! Output (R343–R345). -/

def writeOut (s : State) (j : JobEnt) (b : Bytes) : State :=
  if hHost j = 1 then wrHost s false (hAddr j) b else wrMem s (hAddr j) b

/-- The output of a command that ends; one that is cancelled ends after the piece that was current, which the model leaves
free, with FAIL. -/
def finishOut (s : State) (c : HoldCmd) (b : Bytes) : State :=
  if hostLost s c then failHostCmd s c
  else if c.cancel then
    let k := 1 + Config.cancelPiece s.fresh % Nat.max 1 (ceilDiv b.length pieceBytes)
    endExport (bumpFresh (writeOut s c.job (b.take (k * pieceBytes)))) c true
  else endExport (writeOut s c.job b) c false

/-- EXPORT. -/
def runExport (s : State) : State :=
  match running s 3 with
  | none => s
  | some c => finishOut s c (exportRecords s ++ (if c.cancel then [] else exportEnd))

/-- SEAL_OUT. -/
def runSealOut (s : State) : State :=
  match running s 4 with
  | none => s
  | some c =>
    let x := getSlot s (hSlot c.job)
    match sealBody s x.header (slotBody x) with
    | some (s1, b) => finishOut s1 c (sub x.header 0 256 ++ b)
    | none => endExport s c true

/-- R345: the capture header. -/
def captureHeader (h : Bytes) (last : W64) (l2 l3 l4 : Nat) (trace : Bool) : Bytes :=
  toLe 4 0x50434B4B ++ toLe 2 1 ++ toLe 1 (b2n trace) ++ [0] ++ sub h 32 4 ++ zeroBytes 4 ++ sub h 8 8 ++ le64 last ++
    toLe 8 l2 ++ toLe 8 l3 ++ toLe 8 l4 ++ zeroBytes 72

/-- CAPTURE. -/
def runCapture (s : State) : State :=
  match running s 6 with
  | none => s
  | some c =>
    let x := getSlot s (hSlot c.job)
    let last := hArgA c.job
    let recs := (captureLog s (hdrLogSeq x.header) last).map fun r => r.bytes
    let lo := (hdrStep x.header).toNat + 1
    let covers := traceCovers s lo last.toNat
    let part3 := recs.flatten
    let part4 := if covers then (traceSteps s lo last.toNat).flatten else []
    match sealBody s x.header (slotBody x) with
    | none => endExport s c true
    | some (s1, b2) =>
      let part2 := sub x.header 0 256 ++ b2
      let ch := captureHeader x.header last part2.length part3.length part4.length covers
      match sealBody s1 ch (part3 ++ part4) with
      | none => endExport s1 c true
      | some (s2, b34) => finishOut s2 c (ch ++ part2 ++ b34)

/-! SEAL_IN (R344, R346). -/

def readIn (s : State) (j : JobEnt) : Bytes :=
  if hHost j = 1 then rdHost s false (hAddr j) (hBytes j) else rdMem s (hAddr j) (hBytes j)

/-- A sealed image opened: its header and body. -/
def openImage (s : State) (b : Bytes) : Option (Bytes × Bytes) :=
  let h := sub b 0 256
  if b.length < 256 + sealExtra ∨ !headerSealed h then none
  else
    match openBody s h (b.drop 256) with
    | some body =>
      if body.length = hdrBody h ∧ 256 + body.length ≤ slotBytes s ∧ digest32 (sub h 0 160 ++ body) = sub h 160 32 then
        some (h, body)
      else none
    | none => none

def writeImage (s : State) (slot : Nat) (h body : Bytes) (cover : Bool) : State :=
  setSlot (bondProgram s (256 + body.length)) slot { st := .sealed, sisterOk := false, cover := cover, imported := true, header := h, body := wr [] 0 body }

/-- The records of a byte string, by their LEN. -/
def splitLog : Nat → Bytes → List Bytes
  | 0, _ => []
  | n + 1, b =>
    let len := fld b 8 4
    if b.isEmpty ∨ len < 80 ∨ b.length < len then (if b.isEmpty then [] else [b]) else b.take len :: splitLog n (b.drop len)

/-- R346, step 4: digests, chain, and the first number. -/
def logChainOk (first : W64) : List Bytes → Bool
  | [] => true
  | [r] => logRecOk r && fld64 r 16 == first
  | r :: q :: rest => logRecOk r && fld64 r 16 == first && sub q 40 16 == recTrailer r && logChainOk (first + 1) (q :: rest)

/-- The records of a trace, by the LEN of their transaction headers. -/
def splitTrace : Nat → Bytes → List Bytes
  | 0, _ => []
  | n + 1, b =>
    let len := ceilDiv (64 + fld b 18 2) 64 * 64
    if b.isEmpty then [] else b.take len :: splitTrace n (b.drop len)

/-- What a capture holds, once every check of R346 has passed. -/
structure CaptureIn where
  header : Bytes
  body : Bytes
  recs : List Bytes
  trace : Option (List Bytes)
  last : W64
  deriving DecidableEq, Repr

def openCapture (s : State) (b : Bytes) : Option CaptureIn :=
  let ch := sub b 0 128
  let l2 := fld ch 32 8
  let l3 := fld ch 40 8
  let l4 := fld ch 48 8
  let hasTrace := bitOf (byteAt ch 6) 0 == 1
  if fld ch 4 2 ≠ 1 ∨ b.length ≠ 128 + l2 + sealExtra + l3 + l4 ∨ (!hasTrace && l4 != 0) then none
  else
    match openImage s (sub b 128 l2) with
    | none => none
    | some (h, body) =>
      if fld ch 8 4 ≠ fld h 32 4 ∨ sub h 72 32 ≠ planDigest s ∨ sub h 104 32 ≠ s.sec.fwDigest then none
      else
        match openBody s ch (b.drop (128 + l2)) with
        | none => none
        | some p =>
          let recs := splitLog (l3 / 64 + 1) (sub p 0 l3)
          if p.length ≠ l3 + l4 ∨ !logChainOk (hdrLogSeq h + 1) recs then none
          else
            some { header := h, body := body, recs := recs,
                   trace := if hasTrace then some (splitTrace (l4 / 64 + 1) (sub p l3 l4)) else none, last := fld64 ch 24 }

/-- Records laid one after another from a position on. -/
def placeRecs : Nat → List Bytes → List LogRec
  | _, [] => []
  | pos, b :: rest => logRecOf pos b :: placeRecs (pos + b.length) rest

/-- R346, steps 5 to 7. No copy of the records that enter has been acknowledged (R326). -/
def takeCapture (s : State) (slot : Nat) (x : CaptureIn) : State :=
  let s1 := writeImage s slot x.header x.body true
  let s2 := setSlot s1 (1 - slot) { getSlot s1 (1 - slot) with cover := false }
  let recs := placeRecs 0 x.recs
  let next := match recs.getLast? with
    | some r => r.seq + 1
    | none => hdrLogSeq x.header + 1
  let len := (x.recs.map fun r => r.length).foldl (· + ·) 0
  let prev := match x.recs.getLast? with
    | some b => recTrailer b
    | none => []
  let s3 := voidCopies s2 (s2.hold.log.map fun r => r.seq)
  let h := { s3.hold with log := recs, nextSeq := next, prevDigest := prev, logPos := len, sisAcks := [] }
  let h1 := match x.trace with
    | some t => { h with ring := t, traceFrom := (hdrStep x.header).toNat + 1, traceUpto := x.last.toNat }
    | none => h
  { s3 with hold := h1 }

/-- SEAL_IN. -/
def runSealIn (s : State) : State :=
  match running s 5 with
  | none => s
  | some c =>
    let b := readIn s c.job
    if hostLost s c then failHostCmd s c
    else if fld b 0 4 = 0x50434B4B then
      match openCapture s b with
      | some x => endExport (takeCapture s (hSlot c.job) x) c false
      | none => endExport (snapInvalid s) c true
    else
      match openImage s b with
      | some (h, body) => endExport (writeImage s (hSlot c.job) h body false) c false
      | none => endExport (snapInvalid s) c true

/-! BAL_LOAD (R328). -/

/-- BAL_LOAD: rows from HBM become durable versions 0. -/
def runBalLoad (s : State) : State :=
  match running s 7 with
  | none => s
  | some c =>
    let j := c.job
    let first := (hArgA j).toNat
    let s1 := (List.range (hArgB j).toNat).foldl (fun s i =>
      addVersion s { row := first + i, ver := 0, bytes := rdMem s (hAddr j + i * balRow s) (balRow s) }) s
    endExport s1 c false

/-! HLD_CTRL (R348). -/

/-- TRACE_ON: the trace covers steps from the next one that begins. -/
def traceOn (s : State) : State :=
  if s.hold.trace then s
  else
    let from_ := s.stp.c.toNat + (if s.stp.att.isSome then 2 else 1)
    { s with hold := { s.hold with trace := true, traceFrom := from_ } }

def traceOff (s : State) : State :=
  if s.hold.trace then { s with hold := { s.hold with trace := false, traceUpto := s.stp.c.toNat } } else s

/-- CANCEL: for a running EXPORT, SEAL_OUT or CAPTURE. -/
def cancelCmd (s : State) : State :=
  match s.hold.cmd with
  | some c =>
    if [3, 4, 6].contains c.code then { s with hold := { s.hold with cmd := some { c with cancel := true } } } else s
  | none => s

/-- SNAPSHOT_DRAIN_PIECE (R319). -/
def execSnapshotDrainPiece (s : State) : Host.Outcome State Fault Refusal := .next (drainPiece s)
/-- SNAPSHOT_LOCAL_SEAL (R319). -/
def execSnapshotLocalSeal (s : State) : Host.Outcome State Fault Refusal := .next (localSeal s)
/-- SNAPSHOT_RELEASE (R319). -/
def execSnapshotRelease (s : State) : Host.Outcome State Fault Refusal := .next (releaseSnap s)
/-- LOG_RESEND (R326). -/
def execLogResend (s : State) : Host.Outcome State Fault Refusal := .next (resendLog s)
/-- PROGRAM_FAILED (R315). -/
def execProgramFailed (stack : Fin 8) (s : State) : Host.Outcome State Fault Refusal := .next (programFailed s stack.val)
/-- HOLD_READ_FAILED (R316). -/
def execHoldReadFailed (what : HoldRead) (s : State) : Host.Outcome State Fault Refusal := .next (holdReadFailed s what)
/-- HOLD (R427, R430). -/
def execHold (s : State) : Host.Outcome State Fault Refusal := .next (startHold s)
/-- RESTORE (R331). -/
def execRestore (s : State) : Host.Outcome State Fault Refusal := .next (runRestore s)
/-- STANDIN_RESTORE (R335). -/
def execStandinRestore (rows : List Nat) (vers : List W64) (contents : List Bytes) (s : State) :
    Host.Outcome State Fault Refusal :=
  .next (runStandin s (peerVersions rows vers contents))
/-- EXPORT (R343). -/
def execExportState (s : State) : Host.Outcome State Fault Refusal := .next (runExport s)
/-- SEAL_OUT (R344). -/
def execSealOut (s : State) : Host.Outcome State Fault Refusal := .next (runSealOut s)
/-- SEAL_IN (R346). -/
def execSealIn (s : State) : Host.Outcome State Fault Refusal := .next (runSealIn s)
/-- CAPTURE (R345). -/
def execCapture (s : State) : Host.Outcome State Fault Refusal := .next (runCapture s)
/-- BAL_LOAD (R328). -/
def execBalLoad (s : State) : Host.Outcome State Fault Refusal := .next (runBalLoad s)
/-- TRACE_ON (R345). -/
def execTraceOn (m : Fin 4) (s : State) : Host.Outcome State Fault Refusal := .next (writeGate s m.val 0x7044 false traceOn)
/-- TRACE_OFF (R348). -/
def execTraceOff (m : Fin 4) (s : State) : Host.Outcome State Fault Refusal := .next (writeGate s m.val 0x7044 false traceOff)
/-- CANCEL (R329). -/
def execCancel (m : Fin 4) (s : State) : Host.Outcome State Fault Refusal := .next (writeGate s m.val 0x7044 false cancelCmd)

end Sys2Proof.Machine
end

