-- ==== Sys2Proof/Machine/Ownership.lean ====
section
/-! DEFINITION. Control ownership of the device (spec R415–R421). -/
namespace Sys2Proof.Machine
open Sys2Proof

def ownCode : OwnState → Nat
  | .vacant => 0
  | .held => 1
  | .offered => 2
  | .lapsing => 3

/-- What ownership-moved carries: the old and the new STATE, OWNER and GEN, and the cause. -/
def ownPayload (old new : Own) (cause : Nat) : Bytes :=
  toLe 1 (ownCode old.state) ++ toLe 1 old.owner.val ++ toLe 2 old.gen.toNat ++ toLe 1 (ownCode new.state) ++
    toLe 1 new.owner.val ++ toLe 2 new.gen.toNat ++ toLe 1 cause

/-- R416: a change of STATE or OWNER raises GEN and ownership-moved. -/
def moveOwn (s : State) (st : OwnState) (owner : Fin 4) (cause : Nat) : State :=
  if s.own.state = st ∧ s.own.owner = owner then s
  else
    let o := { s.own with state := st, owner := owner, gen := s.own.gen + 1 }
    raise { s with own := o } 0x0002 srcDevice (ownPayload s.own o cause)

/-- R417: ownership is lost: ownership-lapsed, then the move. -/
def lapseOwn (s : State) (cause : Nat) : State :=
  moveOwn (raise s 0xC009 srcDevice (toLe 1 s.own.owner.val ++ toLe 1 cause)) .vacant s.own.owner cause

/-- R416: a command of OWN_REQ takes effect only while its GEN is the current one. -/
def ownCommand (s : State) (m : Nat) (gen : BitVec 16) (f : State → State) : State :=
  if !masterExists s m || decide (s.sec.boot ≠ .ready) || gen != s.own.gen then s else f s

def claimOwn (s : State) (m : Fin 4) : State := if s.own.state = .vacant then moveOwn s .held m 1 else s

def releaseOwn (s : State) (m : Fin 4) : State :=
  if (s.own.state = .held ∨ s.own.state = .offered) ∧ s.own.owner = m then moveOwn s .vacant m 1 else s

def offerOwn (s : State) (m target : Fin 4) : State :=
  if s.own.state = .held ∧ s.own.owner = m ∧ target ≠ m then
    moveOwn { s with own := { s.own with target := target } } .offered m 1
  else s

def acceptOwn (s : State) (m : Fin 4) : State :=
  if s.own.state = .offered ∧ s.own.target = m then moveOwn s .held m 1 else s

def withdrawOwn (s : State) (m : Fin 4) : State :=
  if s.own.state = .offered ∧ s.own.owner = m then moveOwn s .held m 1 else s

/-- The commands by their code; 0 and 6–15 are ignored. -/
def ownRequest (s : State) (m : Fin 4) (cmd : Nat) (target : Fin 4) : State :=
  match cmd with
  | 1 => claimOwn s m
  | 2 => releaseOwn s m
  | 3 => offerOwn s m target
  | 4 => acceptOwn s m
  | 5 => withdrawOwn s m
  | _ => s

/-- A write of OWN_REQ (R421). -/
def writeOwnReq (s : State) (m : Fin 4) (v : W32) : State :=
  ownCommand s m.val (v.setWidth 16) fun s => ownRequest s m (v.toNat / 2 ^ 28) ⟨v.toNat / 2 ^ 20 % 4, Nat.mod_lt _ (by decide)⟩

/-- R416: an offer that is not accepted in time. -/
def offerTimeout (s : State) : State := if s.own.state = .offered then moveOwn s .held s.own.owner 2 else s

/-- R417: a lapsing owner, or a silent owner behind a management port, reaches OWN_TIMEOUT. -/
def ownershipLapse (s : State) : State :=
  match s.own.state with
  | .vacant => s
  | .lapsing => lapseOwn s 2
  | _ => if 2 ≤ s.own.owner.val then lapseOwn s 2 else s

/-! Reclaim (R420). -/

/-- What is wrong with a token, as the model's own index of the reasons. -/
def reclaimFault (s : State) (b : Bytes) : Option Nat :=
  if fld b 0 4 ≠ 0x43524B4B ∨ fld b 4 2 ≠ 1 ∨ byteAt b 7 ≠ 0 ∨ !zeros b 32 32 ∨ 4 ≤ byteAt b 6 then some 1
  else if fld64 b 8 ≠ s.sec.serial then some 2
  else if fld64 b 16 ≠ s.sec.owner.gen then some 3
  else if (fld64 b 24).toNat ≤ s.sec.reclaimSeq.toNat then some 4
  else if claimed s && !(decide (b.length = 1600) && sigOk s.sec.owner.key (sub b 0 64) (sub b 64 1536)) then some 5
  else if !claimed s && b.length != 64 && b.length != 1600 then some 1
  else none

/-- RECLAIM: the answer says whether the token is valid. -/
def reclaim (s : State) (port : Nat) (b : Bytes) : State × Bool :=
  match reclaimFault s b with
  | some r => (raise s 0xC00A (srcMgmt port) (toLe 1 port ++ [Config.reasonCode r]), false)
  | none =>
    let s1 := { s with sec := { s.sec with reclaimSeq := fld64 b 24 } }
    (moveOwn s1 .held ⟨byteAt b 6 % 4, Nat.mod_lt _ (by decide)⟩ 3, true)

/-- CLAIM (R416). -/
def execClaim (m : Fin 4) (gen : BitVec 16) (s : State) : Host.Outcome State Fault Refusal :=
  .next (ownCommand s m.val gen fun s => claimOwn s m)
/-- RELEASE of OWN_REQ (R416). -/
def execReleaseOwnership (m : Fin 4) (gen : BitVec 16) (s : State) : Host.Outcome State Fault Refusal :=
  .next (ownCommand s m.val gen fun s => releaseOwn s m)
/-- OFFER (R416). -/
def execOffer (m : Fin 4) (gen : BitVec 16) (target : Fin 4) (s : State) : Host.Outcome State Fault Refusal :=
  .next (ownCommand s m.val gen fun s => offerOwn s m target)
/-- ACCEPT (R416). -/
def execAccept (m : Fin 4) (gen : BitVec 16) (s : State) : Host.Outcome State Fault Refusal :=
  .next (ownCommand s m.val gen fun s => acceptOwn s m)
/-- WITHDRAW (R416). -/
def execWithdraw (m : Fin 4) (gen : BitVec 16) (s : State) : Host.Outcome State Fault Refusal :=
  .next (ownCommand s m.val gen fun s => withdrawOwn s m)
/-- OFFER_TIMEOUT (R416). -/
def execOfferTimeout (s : State) : Host.Outcome State Fault Refusal := .next (offerTimeout s)
/-- OWNERSHIP_LAPSE (R417). -/
def execOwnershipLapse (s : State) : Host.Outcome State Fault Refusal := .next (ownershipLapse s)

end Sys2Proof.Machine
end

