-- ==== Sys2Proof/Machine/Queues.lean ====
section
/-! DEFINITION. Queues in host memory (spec R418, R422–R427, R433, R434) and the entries outside the control order, with
the manifest dealer (R245, R246). -/
namespace Sys2Proof.Machine
open Sys2Proof

/-! Queue state. -/

def getMaster (s : State) (m : Nat) : Master := smGet Master.init s.masters m
def setMaster (s : State) (m : Nat) (x : Master) : State := { s with masters := smSet Master.init s.masters m x }
/-- The queue that a master selects. -/
def selQueue (s : State) (m : Nat) : Nat := (getMaster s m).jqSel.toNat

/-- R418: a job queue is parked unless its link's master holds ownership. -/
def parked (s : State) (x : Queue) : Bool := !x.event && !isOwner s (b2n x.link)

/-- R423: a queue enters error and stays there. -/
def queueError (s : State) (q code : Nat) : State :=
  let x := getQueue s q
  if x.error ≠ 0 then s
  else
    raiseEvent (setQueue s q { x with error := BitVec.ofNat 8 code }) (queueEvent q code)

/-- R408: every enabled queue bound to a link goes to error. -/
def linkQueueErrors (s : State) (link : Nat) : State :=
  ((s.queues.filter fun p => p.2.enabled && b2n p.2.link == link).map fun p => p.1).foldl (fun s q => queueError s q 4) s

/-! Configuration (R423, R434). -/

def cfgSize (v : W32) : Nat := v.toNat % 32
def sizeOk (n : Nat) : Bool := decide (6 ≤ n) && decide (n ≤ 16)

/-- A write of JQ_CFG to a queue that is not enabled; a reserved size leaves the field as it was (R15). -/
def writeCfg (x : Queue) (v : W32) : Queue :=
  { x with event := v.getLsbD 30, link := v.getLsbD 29, vector := (v >>> 16).setWidth 8,
           sizeLog2 := if sizeOk (cfgSize v) then cfgSize v else x.sizeLog2 }

/-- Enabling: the pointers go to 0, or queue-error is raised. The entries that still run from before keep their places before the new
ones (R426). -/
def enableQueue (s : State) (q : Nat) (v : W32) : State :=
  let x := getQueue s q
  if x.enabled then setQueue s q { x with vector := (v >>> 16).setWidth 8 }
  else
    let y := writeCfg x v
    if !sizeOk (cfgSize v) || (y.link && !s.pwr.linkMode) then
      raise (setQueue s q y) 0xC004 (srcQueue q) (toLe 2 q ++ toLe 1 0)
    else
      setQueue s q { y with enabled := true, head := 0, tail := 0, phase := true, error := 0, unsignalled := 0,
                            lostMark := false, lostTold := false }

/-- Disabling a job queue takes its unstarted control entries out of the control order. -/
def dropWaiting (s : State) (q : Nat) : State :=
  let gone := s.ctl.waiting.filter fun j => j.queue == q
  let s1 := { s with ctl := { s.ctl with waiting := s.ctl.waiting.filter fun j => j.queue != q } }
  gone.foldl (fun s j => jobDone s j 2 0) s1

/-- R423: the pending interrupt of a disabled event queue is cancelled, unless another enabled event queue of its function shares the
vector, whose interrupt it may be (DESIGN CHOICE, log 107). -/
def cancelPending (s : State) (l vec : Nat) : State :=
  if s.queues.any fun p => p.2.enabled && p.2.event && b2n p.2.link == l && p.2.vector.toNat == vec then s
  else setFn s l { getFn s l with pba := smSet false (getFn s l).pba vec false }

/-- A write of JQ_CFG with ENABLE 0. -/
def disableQueue (s : State) (q : Nat) (v : W32) : State :=
  let x := getQueue s q
  if !x.enabled then setQueue s q (writeCfg x v)
  else
    let s1 := setQueue s q { x with enabled := false, error := 0, unsignalled := 0, vector := (v >>> 16).setWidth 8 }
    if x.event then cancelPending s1 (b2n x.link) x.vector.toNat else dropWaiting s1 q

def configQueue (s : State) (q : Nat) (v : W32) : State := if v.getLsbD 31 then enableQueue s q v else disableQueue s q v

/-! Doorbells (R424). -/

/-- The offset of a queue's doorbell. -/
def doorbellOff (q : Nat) : Nat := 0x10000 + q * 0x1000

/-- A doorbell through the function of a queue's link: the new TAIL of a job queue, the new HEAD of an event queue. -/
def ringDoorbell (s : State) (m q : Nat) (v : W32) : State :=
  let x := getQueue s q
  let i := v.toNat % 65536
  if !x.enabled || b2n x.link != m then s
  else if ringSize x ≤ i then queueError s q 1
  else setQueue s q (if x.event then { x with head := i } else { x with tail := i })

/-- A doorbell write by a master: the doorbell of an event queue of its own link is exempt; a management port reaches none. -/
def doorbell (s : State) (m q : Nat) (v : W32) : State :=
  let x := getQueue s q
  if 2 ≤ m then s
  else writeGate s m (doorbellOff q) (x.event && b2n x.link == m) fun s => ringDoorbell s m q v

/-! Fetching (R425). -/

def mayFetch (s : State) (q : Nat) : Bool :=
  let x := getQueue s q
  x.enabled && !x.event && x.error == 0 && !parked s x && x.head != x.tail && !(getFn s (b2n x.link)).cfg.d3hot

/-- A fetched entry joins the control order, stands outside it, or ends at once when its opcode is reserved. -/
def acceptEntry (s : State) (j : JobEnt) : State :=
  let o := jobOpc j
  if 1 ≤ o ∧ o ≤ 5 then { s with ctl := { s.ctl with waiting := s.ctl.waiting ++ [j] } }
  else if o ≤ 8 then { s with ctl := { s.ctl with free := s.ctl.free ++ [j] } }
  else jobDone (raiseJobInvalid s j) j 1 0xC003

/-- The entry at the head of a job queue's ring. -/
def nextEntry (s : State) (q : Nat) : JobEnt :=
  let x := getQueue s q
  { queue := q, index := x.head, num := x.fetched, bytes := rdHost s x.link (x.base.toNat + 64 * x.head) 64, sub := false }

/-- JOB_FETCH: the next entry of the next queue in turn; with the queue's link down its fetch fails (R409). -/
def fetchJob (s : State) : State :=
  if s.sec.boot ≠ .ready then s
  else
    match ((List.range 256).map fun i => (s.ctl.turn + i) % 256).find? (mayFetch s) with
    | none => s
    | some q =>
      let x := getQueue s q
      let s0 := { s with ctl := { s.ctl with turn := (q + 1) % 256 } }
      if !(getFn s (b2n x.link)).up then
        queueError (raiseEvent s0 (dmaEvent (b2n x.link) 1 (BitVec.ofNat 64 (x.base.toNat + 64 * x.head)))) q 2
      else
        acceptEntry (setQueue s0 q { x with head := (x.head + 1) % ringSize x, fetched := x.fetched + 1 }) (nextEntry s q)

/-! Entries outside the control order (R426). -/

/-- NOP: it ends when fetched. -/
def runNop (s : State) : State :=
  match freeEntry s 0 with
  | none => s
  | some j => if entryForm j [] then endFree s j 0 0 else rejectFree s j

/-- Whether every earlier entry of an entry's queue has ended. -/
def earlierEnded (s : State) (j : JobEnt) : Bool :=
  (s.ctl.running.toList ++ s.ctl.waiting ++ s.ctl.free).all fun e => !(e.queue == j.queue && decide (e.num < j.num))

/-- FENCE. -/
def runFence (s : State) : State :=
  match s.ctl.free.find? fun j => jobOpc j == 8 && (!entryForm j [] || earlierEnded s j) with
  | none => s
  | some j => if entryForm j [] then endFree s j 0 0 else rejectFree s j

/-- The stream that a MANIFEST entry names, if its form holds and that is an evaluation stream. -/
def manifestStream (s : State) (j : JobEnt) : Option Nat :=
  let addr := fld j.bytes 8 8
  let h := rdMem s addr 128
  let k := streamIdx (byteAt h 7) (byteAt h 6)
  if !entryForm j [(8, 8)] || addr % 128 != 0 || !inHbm s addr 128 || decide (12 ≤ byteAt h 7) || decide (8 ≤ byteAt h 6) ||
      !isEvalStream s k then none
  else some k

/-- MANIFEST: the first entry that can go on hands its manifest to an evaluation stream that has a place; one whose stream is full
holds up no other. -/
def runManifest (s : State) : State :=
  let goes (j : JobEnt) : Bool := match manifestStream s j with
    | none => true
    | some k => decide (streamHolds (getStream s k) < 4)
  match s.ctl.free.find? fun j => jobOpc j == 7 && !j.sub && goes j with
  | none => s
  | some j =>
    match manifestStream s j with
    | none => rejectFree s j
    | some k =>
      let x := getStream s k
      let s1 := setStream s k { x with subs := x.subs ++ [(fld j.bytes 8 8, none)] }
      { s1 with ctl := { s1.ctl with free := s1.ctl.free.map fun e => if e = j then { j with sub := true } else e } }

/-! The dealer (R245, R246). -/

def dBudget (r : Bytes) : Nat := fld r 8 4
def dPasses (r : Bytes) : Nat := byteAt r 6
def dSrc (r : Bytes) : Nat := fld r 16 8
def dTokens (r : Bytes) : Nat := fld r 24 8
def dDst (r : Bytes) : Nat := fld r 32 8
def dStride (r : Bytes) : Nat := fld r 40 4
def dOut (r : Bytes) : Nat := fld r 48 8
def dOutStride (r : Bytes) : Nat := fld r 56 4
def dPassStride (r : Bytes) : Nat := fld r 60 4
def dDefer (r : Bytes) : Nat := fld r 64 8
def dResult (r : Bytes) : Nat := fld r 72 8

/-- A pass while dealing: its total, whether it is closed, its entries. -/
abbrev Deal := List (Nat × Bool × List Nat)

/-- One entry dealt. -/
def dealOne (budget maxPasses : Nat) (tok : Nat → Nat) (acc : Deal × List Nat) (e : Nat) : Deal × List Nat :=
  match findIdx? (fun (p : Nat × Bool × List Nat) => decide (p.1 + tok e ≤ budget) && !p.2.1) acc.1 with
  | some p => (acc.1.mapIdx fun i x => if i = p then (x.1 + tok e, x.2.1, x.2.2 ++ [e]) else x, acc.2)
  | none =>
    if acc.1.length < maxPasses then (acc.1 ++ [(tok e, decide (budget < tok e), [e])], acc.2) else (acc.1, acc.2 ++ [e])

/-- The passes and the deferred entries, entries rising in each. -/
def deal (budget maxPasses n : Nat) (tok : Nat → Nat) : List (List Nat) × List Nat :=
  let order := sortKey (fun e => (2 ^ 32 - tok e) * 2 ^ 20 + e) (List.range n)
  let r := order.foldl (dealOne budget maxPasses tok) ([], [])
  (r.1.map fun p => sortKey id p.2.2, sortKey id r.2)

/-- The request's fields and ranges; `n` is the candidate's entry count. -/
def dealOk (s : State) (addr : Nat) (r : Bytes) : Bool :=
  let h := rdMem s (dSrc r) 128
  let n := mhCount h
  addr % 64 == 0 && inHbm s addr 128 && fld r 0 4 == 0x3150444B && fld r 4 2 == 1 && decide (1 ≤ dPasses r) &&
    decide (dPasses r ≤ 64) && byteAt r 7 == 0 && decide (1 ≤ dBudget r) && zeros r 12 4 &&
    manifestOk s (dSrc r) (byteAt h 7) (byteAt h 6) none && dTokens r % 4 == 0 && inHbm s (dTokens r) (4 * n) &&
    dDst r % 128 == 0 && inHbm s (dDst r) 128 && dStride r % 128 == 0 && decide (128 * (n + 1) ≤ dStride r) && zeros r 44 4 &&
    dOut r % 64 == 0 && decide (dOut r < 2 ^ 48) && dOutStride r % 64 == 0 && dPassStride r % 64 == 0 && dDefer r % 4 == 0 &&
    inHbm s (dDefer r) 4 && dResult r % 16 == 0 && inHbm s (dResult r) 16 && zeros r 80 48

/-- A pass manifest. -/
def dealManifest (s : State) (r : Bytes) (p : Nat) (es : List Nat) : Bytes :=
  let h := rdMem s (dSrc r) 128
  let n := mhCount h
  let h1 := patch h 16 (toLe 4 es.length ++ toLe 4 (mhPass h + p) ++ toLe 6 (mhConc h + p * (ceilDiv n 512 * 64)))
  let h2 := patch h1 32 (toLe 6 (mhOutc h + p * n * 32))
  h2 ++ (es.mapIdx fun slot e =>
    let b := rdMem s (dSrc r + 128 * (e + 1)) 128
    patch (patch b 12 (toLe 2 slot)) 32 (toLe 6 (dOut r + p * dPassStride r + slot * dOutStride r))).flatten

/-- DEAL. -/
def runDeal (s : State) : State :=
  match freeEntry s 6 with
  | none => s
  | some j =>
    if anyStackHolds s then s else
    let addr := fld j.bytes 8 8
    let r := rdMem s addr 128
    if !entryForm j [(8, 8)] || !inHbm s addr 128 then rejectFree s j
    else
      let toks := rdMem s (dTokens r) (4 * mhCount (rdMem s (dSrc r) 128))
      let (ps, def_) := deal (dBudget r) (dPasses r) (toks.length / 4) fun e => fld toks (4 * e) 4
      let room := (inHbm s (dDefer r) (4 * def_.length)) &&
        (List.range ps.length).all fun p => inHbm s (dDst r + p * dStride r) (128 * ((ps.getD p []).length + 1))
      if !dealOk s addr r || !room then endFree (raise s 0x4108 srcDevice []) j 1 0x4108
      else
        let ms := ps.mapIdx fun p es => (dDst r + p * dStride r, dealManifest s r p es)
        let s1 := wrUnit s srcDevice (ms ++ [(dDefer r, (def_.map fun e => toLe 4 e).flatten),
          (dResult r, toLe 4 ps.length ++ toLe 4 def_.length ++ zeroBytes 8)])
        endFree (raise s1 0x4004 srcDevice []) j 0 0x4004

/-- JOB_DOORBELL (R424). -/
def execJobDoorbell (m : Fin 4) (q : Fin 256) (v : W32) (s : State) : Host.Outcome State Fault Refusal :=
  .next (if (getQueue s q.val).event then s else doorbell s m.val q.val v)
/-- EVQ_DOORBELL (R424). -/
def execEvqDoorbell (m : Fin 4) (q : Fin 256) (v : W32) (s : State) : Host.Outcome State Fault Refusal :=
  .next (if (getQueue s q.val).event then doorbell s m.val q.val v else s)
/-- JOB_FETCH (R425). -/
def execJobFetch (s : State) : Host.Outcome State Fault Refusal := .next (fetchJob s)
/-- NOP (R426). -/
def execNop (s : State) : Host.Outcome State Fault Refusal := .next (runNop s)
/-- DEAL (R246). -/
def execDeal (s : State) : Host.Outcome State Fault Refusal := .next (runDeal s)
/-- MANIFEST (R426). -/
def execManifest (s : State) : Host.Outcome State Fault Refusal := .next (runManifest s)
/-- FENCE (R426). -/
def execFence (s : State) : Host.Outcome State Fault Refusal := .next (runFence s)
/-- EVQ_MODERATION_TIMER (R433): the timer runs only where TIME_US is not 0. -/
def execEvqModerationTimer (q : Fin 256) (s : State) : Host.Outcome State Fault Refusal :=
  .next (if (getQueue s q.val).timeUs = 0 then s else evqSignal s q.val)
/-- QUEUE_ENABLE (R423): a write of JQ_CFG with ENABLE 1. -/
def execQueueEnable (m : Fin 4) (cfg : W32) (s : State) : Host.Outcome State Fault Refusal :=
  .next (writeGate s m.val 0x2004 false fun s => enableQueue s (selQueue s m.val) cfg)
/-- QUEUE_DISABLE (R423): a write of JQ_CFG with ENABLE 0. -/
def execQueueDisable (m : Fin 4) (cfg : W32) (s : State) : Host.Outcome State Fault Refusal :=
  .next (writeGate s m.val 0x2004 false fun s => disableQueue s (selQueue s m.val) cfg)

end Sys2Proof.Machine
end

