-- ==== Sys2Proof/Machine/Links.lean ====
section
/-! DEFINITION. The PCIe links and functions, host-memory transfer failures, and the BAR2 window (spec R40, R222, R312,
R405–R413, R417, R472). -/
namespace Sys2Proof.Machine
open Sys2Proof

/-! Links (R405, R406, R408, R417). -/

def linkExists (s : State) (l : Nat) : Bool := l == 0 || s.pwr.linkMode
def fullWidth (s : State) : Nat := if s.pwr.linkMode then 8 else 16

def linkPayload (l : Nat) (speed : BitVec 4) (width : Byte) : Bytes := toLe 1 l ++ toLe 1 speed.toNat ++ [width]

/-! Configuration space (R407, R408, R411). -/

/-- The capability structures of a function by their offsets (R407): the headers, and the dwords whose values the spec gives. PCI
Express gives the layout of each; their places are the model's (PRESUMED, log 102). -/
def cfgCaps (s : State) (l : Nat) : List (Nat × Nat) :=
  let f := getFn s l
  let c := f.cfg
  let serial := s.sec.serial.toNat
  [-- Power Management: D0 and D3hot, which keeps the function's state.
   (0x40, 0x00035001), (0x44, 0b1000 + (if c.d3hot then 3 else 0)),
   -- PCI Express: 512-byte payload, function-level reset; what the host set; the link.
   (0x50, 0x00029010), (0x54, 2 ^ 28 + 2 ^ 15 + 2 ^ 5 + 2),
   (0x58, c.maxRead.toNat * 2 ^ 12 + 2 ^ 8 + c.maxPayload.toNat * 2 ^ 5), (0x5C, fullWidth s * 2 ^ 4 + 7),
   (0x60, (f.width.toNat * 2 ^ 4 + f.speed.toNat) * 2 ^ 16), (0x7C, 0xFE),
   -- MSI-X: 256 vectors, their table and PBA in BAR0.
   (0x90, b2n c.msixEnable * 2 ^ 31 + b2n c.msixMask * 2 ^ 30 + 255 * 2 ^ 16 + 0x11), (0x94, 0xE000), (0x98, 0xF000),
   -- Extended: AER, Device Serial Number, Data Link Feature, Physical Layer 16, 32 and 64 GT/s, DOE, Flit Logging, Device 3.
   (0x100, extHead 0x0001 2 0x150), (0x150, extHead 0x0003 1 0x160), (0x154, serial % 2 ^ 32), (0x158, serial / 2 ^ 32),
   (0x160, extHead 0x0025 1 0x170), (0x170, extHead 0x0026 1 0x1A0), (0x1A0, extHead 0x002A 1 0x1D0),
   (0x1D0, extHead 0x0031 1 0x200), (0x200, extHead 0x002E 2 0x220), (0x220, extHead 0x0032 1 0x280),
   (0x280, extHead 0x002F 1 0), (0x284, 0b110)]
where
  extHead (id ver next : Nat) : Nat := next * 2 ^ 20 + ver * 2 ^ 16 + id

/-- A dword of a function's type 0 header, as PCI lays it out (PRESUMED, log 102): IDs, class and revision, the two 64-bit
BARs, of 16 MiB and of 64 GiB, the second prefetchable, and the capabilities. -/
def cfgWord (s : State) (l off : Nat) : W32 :=
  let c := (getFn s l).cfg
  BitVec.ofNat 32 (match off with
  | 0x00 => 0x0C12 * 2 ^ 16 + Config.vendorId.toNat
  | 0x04 => 2 ^ 20
  | 0x08 => 0x120000 * 2 ^ 8 + Config.baseStepping.toNat
  | 0x10 => c.bar0.toNat % 2 ^ 32 / 2 ^ 24 * 2 ^ 24 + 0b0100
  | 0x14 => c.bar0.toNat / 2 ^ 32
  | 0x18 => 0b1100
  | 0x1C => c.bar2.toNat / 2 ^ 36 * 2 ^ 4
  | 0x34 => 0x40
  | _ => ((cfgCaps s l).find? fun w => w.1 == off).elim 0 fun w => w.2)

/-- R407: a payload of at most 512 and a read request of at most 4,096 bytes, whatever the host asks for. -/
def legalCfg (c : FnCfg) : FnCfg :=
  { c with maxPayload := if c.maxPayload.toNat ≤ 2 then c.maxPayload else 2, maxRead := if c.maxRead.toNat ≤ 5 then c.maxRead else 5 }

/-- The host's configuration writes, which always take effect (R419). No row of the table carries them: what they leave is a free
value, taken once the function can be configured again (log 102). -/
def hostConfigures (s : State) (l : Nat) : State :=
  bumpFresh (setFn s l { getFn s l with cfg := legalCfg (Config.hostCfg s.fresh), unset := false })

/-- As time passes, the host configures each function whose link is up and whose configuration space a reset left as it is (DESIGN
CHOICE, log 102). -/
def configureFns (s : State) : State :=
  [0, 1].foldl (fun s l => if (getFn s l).up && (getFn s l).unset then hostConfigures s l else s) s

/-- R405, R406: a speed and a width that the link has; flit mode is mandatory at 64 and 128 GT/s. -/
def linkFits (s : State) (speed : BitVec 4) (width : Byte) (flit : Bool) : Bool :=
  decide (1 ≤ speed.toNat) && decide (speed.toNat ≤ 7) && [1, 2, 4, 8, 16].contains width.toNat &&
    decide (width.toNat ≤ fullWidth s) && (flit || decide (speed.toNat < 6))

/-- LINK_UP: a link whose reset input is deasserted reaches DL_Up, once the PCIe island runs from the reference (R451, R460). -/
def linkUp (s : State) (l : Nat) (speed : BitVec 4) (width : Byte) (flit : Bool) : State :=
  let f := getFn s l
  if !linkExists s l || f.up || f.perst || decide (s.clk.ref ≠ .good) || !onReference s pcieIsland ||
      !linkFits s speed width flit then s
  else
    let s1 := setFn s l { f with up := true, speed := speed, width := width, flit := flit }
    let s2 := raise s1 0x0003 (srcHost l) (linkPayload l speed width)
    let s3 := if width.toNat < fullWidth s ∨ speed.toNat < 7 then raise s2 0xC007 (srcHost l) (linkPayload l speed width)
      else s2
    if s3.own.state = .lapsing ∧ s3.own.owner.val = l then moveOwn s3 .held s3.own.owner 2 else s3

/-- Every engine of every slipway. -/
def allEngines : List (Fin 12 × EngineKind × Fin 4) :=
  (List.finRange 12).flatMap fun d => [EngineKind.image, .audio, .text].flatMap fun k => (List.finRange 4).map fun e => (d, k, e)

/-- R409: link A goes down: the Hold command and the samples whose data come over it end, each with dma-error. -/
def endTransfers (s : State) : State :=
  let s1 := match s.hold.cmd with
    | some c => if onHost c then failHostCmd s c else s
    | none => s
  allEngines.foldl (fun s x =>
    match hostSample s x.1.val x.2.1 x.2.2.val with
    | some _ => endDecode (raiseSampleDma s x.1 x.2.1 x.2.2) x.1.val x.2.1 x.2.2.val false
    | none => s) s1

/-- R408: the function's configuration space, its MSI-X table and PBA and its DOE mailbox are reset, and its queues go to error. -/
def resetFn (s : State) (l : Nat) : State :=
  let s1 := setFn s l { getFn s l with msix := [], pba := [], doe := none, cfg := FnCfg.init, unset := true }
  linkQueueErrors s1 l

/-- A link enters DL_Down. -/
def linkDown (s : State) (l : Nat) : State :=
  let f := getFn s l
  if !f.up then s
  else
    let s1 := setFn s l { f with up := false, speed := 0, width := 0, flit := false }
    let s2 := raise (resetFn (if l = 0 then endTransfers s1 else s1) l) 0xC008 (srcHost l) (toLe 1 l)
    if (s2.own.state = .held ∨ s2.own.state = .offered) ∧ s2.own.owner.val = l then moveOwn s2 .lapsing s2.own.owner 2
    else s2

/-- FLR and hot reset. -/
def functionReset (s : State) (l : Nat) : State :=
  if !linkExists s l then s
  else
    let s1 := resetFn s l
    if s1.own.state ≠ .vacant ∧ s1.own.owner.val = l then lapseOwn s1 4 else s1

/-- PERST_N or PERSTB_N (R472): asserted, it resets its link's function, and takes a link that is up down. While there is one link
the second resets nothing; its level is there when a board record with two links is read. -/
def perstInput (s : State) (l : Nat) (asserted : Bool) : State :=
  let s1 := if asserted && linkExists s l then (if (getFn s l).up then linkDown s l else resetFn s l) else s
  setFn s1 l { getFn s1 l with perst := asserted }

/-! Host-memory transfers that fail (R409). -/

/-- DMA_ERROR. -/
def dmaError (s : State) (t : DmaPurpose) (addr : W64) : State :=
  match t with
  | .jobFetch q =>
    let x := getQueue s q.val
    if x.enabled && !x.event && x.error == 0 then queueError (raiseDma s (b2n x.link) t addr) q.val 2 else s
  | .eventWrite q =>
    let x := getQueue s q.val
    if x.enabled && x.event && x.error == 0 then
      let s1 := setQueue s q.val { x with lost := satInc32 x.lost, error := 3 }
      deliverRounds 4 [dmaEvent (b2n x.link) 2 addr, queueEvent q.val 3] s1
    else s
  | .sample die k e =>
    if (hostSample s die.val k e.val).isSome && !suspended s then endDecode (raiseDma s 0 t addr) die.val k e.val false else s
  | .hold =>
    match s.hold.cmd with
    | some c =>
      if onHost c then endExport (raiseDma s 0 t addr) c true else s
    | none => s

/-! BAR2 (R40, R222, R410, R412, R413, R419). -/

def bar2Addr (s : State) (fn : Nat) (off : Nat) : Nat := (getFn s fn).win.toNat + off

/-- The address range of the Ballast cache: two rows a slot (R338). -/
def cacheRange (s : State) : Nat × Nat :=
  match holdCfg s with
  | some h => (h.balCache, h.balSlots * (2 * h.balRow))
  | none => (0, 0)

/-- R40, R312: what a host access reaches. -/
def hostMapped (s : State) (a n : Nat) : Bool := n == 0 || inHbm s a n || inSram s a n

def bytesFF (n : Nat) : Bytes := List.replicate n 0xFF

/-- R413: what the host may not read while a plan is applied. -/
def readRefused (s : State) (a n : Nat) : Bool :=
  (curPlan s).isSome &&
    (touchesAnyBank s a n || overlap a n (cacheRange s).1 (cacheRange s).2 || (decide (sramBase ≤ a) && inSram s a n))

def putBar2 (s : State) (b : Bytes) : State := { s with bus := { s.bus with bar2 := s.bus.bar2 ++ [b] } }

/-- A BAR2 access joins those that wait for a stack in self-refresh; those of a function stay in order (R445, R457). -/
def waitHost (s : State) (w : HostWait) : State := { s with bus := { s.bus with bar2Wait := s.bus.bar2Wait ++ [w] } }
def hostHeld (s : State) (fn a n : Nat) : Bool := hbmHolds s a n || s.bus.bar2Wait.any fun w => w.fn == fn

/-- A read: the bytes and the events of its refusal. -/
def bar2Read (s : State) (fn off n : Nat) : State :=
  let a := bar2Addr s fn off
  if !masterExists s fn then s
  else if s.sec.boot ≠ .ready then putBar2 s (bytesFF n)
  else if !hostMapped s a n then raise (putBar2 s (bytesFF n)) 0x2001 (srcHost fn) (memPay (srcHost fn) a)
  else if readRefused s a n then raise (putBar2 s (bytesFF n)) 0xC00C (srcHost fn) (toLe 1 fn ++ toLe 8 a)
  else if hostHeld s fn a n then waitHost s { fn := fn, addr := a, len := n, data := none }
  else putBar2 s (rdMem s a n)

/-- The bytes of a host write to device addresses, under R40 and R222. -/
def hostWrite (s : State) (fn a : Nat) (b : Bytes) : State :=
  if !hostMapped s a b.length then raise s 0x2001 (srcHost fn) (memPay (srcHost fn) a)
  else if !hostBankOk s a b.length then raise s 0x4107 (srcHost fn) []
  else if hostHeld s fn a b.length then waitHost s { fn := fn, addr := a, len := 0, data := some b }
  else wrMem s a b

/-- The accesses whose stacks run again take effect, in the order in which they came. -/
def drainHost : List HostWait → State → State
  | [], s => s
  | w :: rest, s =>
    if hbmHolds s w.addr (match w.data with | some b => b.length | none => w.len) then
      { s with bus := { s.bus with bar2Wait := w :: rest } }
    else
      drainHost rest (match w.data with
        | some b => wrMem s w.addr b
        | none => putBar2 s (rdMem s w.addr w.len))

/-- The waiting accesses are tried again. -/
def retryHost (s : State) : State := drainHost s.bus.bar2Wait { s with bus := { s.bus with bar2Wait := [] } }

def bar2Write (s : State) (fn off : Nat) (b : Bytes) : State :=
  if !masterExists s fn || decide (s.sec.boot ≠ .ready) then s
  else if !isOwner s fn then nonOwnerWrite s fn off
  else hostWrite s fn (bar2Addr s fn off) b

/-- LINK_UP (R406). -/
def execLinkUp (l : Fin 2) (speed : BitVec 4) (width : Byte) (flit : Bool) (s : State) : Host.Outcome State Fault Refusal :=
  .next (linkUp s l.val speed width flit)
/-- LINK_DOWN (R408, R417). -/
def execLinkDown (l : Fin 2) (s : State) : Host.Outcome State Fault Refusal := .next (linkDown s l.val)
/-- FLR (R408). -/
def execFlr (l : Fin 2) (s : State) : Host.Outcome State Fault Refusal := .next (functionReset s l.val)
/-- HOT_RESET (R408). -/
def execHotReset (l : Fin 2) (s : State) : Host.Outcome State Fault Refusal := .next (functionReset s l.val)
/-- PERST (R472). -/
def execPerst (l : Fin 2) (asserted : Bool) (s : State) : Host.Outcome State Fault Refusal :=
  .next (perstInput s l.val asserted)
/-- DMA_ERROR (R409). -/
def execDmaError (t : DmaPurpose) (addr : W64) (s : State) : Host.Outcome State Fault Refusal := .next (dmaError s t addr)
/-- BAR2_READ (R413). -/
def execBar2Read (fn : Fin 2) (off : BitVec 36) (n : Nat) (s : State) : Host.Outcome State Fault Refusal :=
  .next (bar2Read s fn.val off.toNat n)
/-- BAR2_WRITE (R412). -/
def execBar2Write (fn : Fin 2) (off : BitVec 36) (b : Bytes) (s : State) : Host.Outcome State Fault Refusal :=
  .next (bar2Write s fn.val off.toNat b)

end Sys2Proof.Machine
end

