-- ==== Sys2Proof/Machine/Arbiter.lean ====
section
/-! DEFINITION. Arbitration (spec R176–R181): small arbiters, large arbiters, urgent quotas, sideband masks. -/
namespace Sys2Proof.Machine
open Sys2Proof

def arbKey (a : ArbId) : Nat := (a.kind.val * 14 + a.die.val) * 256 + a.unit
def arbOfKey (k : Nat) : ArbId :=
  { kind := ⟨k / 256 / 14 % 9, Nat.mod_lt _ (by decide)⟩, die := ⟨k / 256 % 14, Nat.mod_lt _ (by decide)⟩, unit := k % 256 }
def getArb (s : State) (a : ArbId) : Arb := smGet Arb.init s.arbs (arbKey a)
def setArb (s : State) (a : ArbId) (x : Arb) : State := { s with arbs := smSet Arb.init s.arbs (arbKey a) x }

/-- R177: an arbiter with 8 requesters or fewer is small. -/
def arbLarge (kind : Nat) : Bool := decide (8 < arbRequesters kind)

/-- R390: the quota of a requester that no record names, requesters in the order of R177. -/
def defaultQuota (kind req : Nat) : Nat :=
  match kind with
  | 0 => if req = 6 then 16 else if 4 ≤ req then 1 else 0
  | 1 => if 3 ≤ req then 1 else 0
  | 2 => if req < 2 then 16 else 1
  | 3 => 0
  | 4 => 1
  | 5 => if req < 64 then 1 else if req = 64 then 0 else if req < 67 then 16 else if req < 70 then 1 else 0
  | 6 => if req < 8 then 1 else if req = 8 then 0 else if req < 11 then 16 else 1
  | 7 => if req < 6 then 1 else if req < 9 then 0 else if req < 11 then 16 else 1
  | _ => if req < 7 then 1 else 16

/-- R390: the quota Qu of a requester, by the last record that names it. -/
def quotaFrom (recs : List QuotaRec) (kind die req : Nat) : Nat :=
  match (recs.filter fun q => q.arb == kind + 1 && (q.die == die || q.die == 0xFF) &&
      (q.req == req || q.req == 0xFF)).getLast? with
  | some q => q.qu
  | none => defaultQuota kind req

def quotaOf (s : State) (a : ArbId) (req : Nat) : Nat :=
  quotaFrom (((curPlan s).map fun p => p.quotas).getD []) a.kind.val a.die.val req

/-- R180, R390: an arbiter's quota window W, and whether its quota total stays within half of it. -/
def windowFrom (recs : List QuotaRec) (kind die : Nat) : Nat :=
  match (recs.filter fun q => q.arb == kind + 1 && (q.die == die || q.die == 0xFF)).getLast? with
  | some q => 2 ^ q.wLog2
  | none => 256

def quotasFit (recs : List QuotaRec) (kind die : Nat) : Bool :=
  decide (((List.range (arbRequesters kind)).map (quotaFrom recs kind die)).foldl (· + ·) 0 ≤ windowFrom recs kind die / 2)

/-! Requests (R158, R160, R176, R177). -/

/-- The class codes of R166 and R298. -/
def classOf (code : Nat) : ReqClass := if code = 1 then .urgent else if code = 2 then .background else .normal

/-- The class of what makes a request (R176): a mover's PRI, while it is in flight; the class a transaction carries (R298);
else the fixed class of the table. -/
def originClass (s : State) : Origin → Option ReqClass
  | .engine => some .normal
  | .sequencer => some .urgent
  | .vector => some .normal
  | .slipway => some .normal
  | .harbourmaster => some .urgent
  | .scrubber => some .background
  | .drain => some .background
  | .mover c slot => ((getCore s c).movs[slot.val]?).map fun m => classOf (byteAt m.desc 2 % 4)
  | .fabric cls => some (classOf cls.toNat)

/-- Whether a requester of an arbiter, by its place in the row of R177, can present what an origin makes. Links, routers,
endpoints and ports forward the requests of others (R390). -/
def presents (a : ArbId) (req : Nat) (o : Origin) : Bool :=
  let isMover := match o with
    | .mover _ _ => true
    | _ => false
  let mine (core : Nat) : Bool := match o with
    | .mover c _ => coreIdx c == a.die.val * 64 + core
    | _ => false
  match a.kind.val with
  | 0 => if req < 3 then o == .engine else if req = 3 then o == .vector else if req = 4 then mine (a.unit / 4)
         else if req = 5 then true else o == .sequencer
  | 1 => if req < 2 then o == .engine else if req = 2 then o == .vector else if req = 3 then mine (a.unit / 4) else true
  | 2 => if req < 2 then o == .harbourmaster else true
  | 3 => o == .slipway
  | 4 => true
  | 5 => if req < 64 then mine req else if req = 64 then o == .slipway else if req < 67 then o == .harbourmaster
         else if req < 70 then true else if req = 70 then o == .scrubber else o == .drain
  | 6 => if req < 8 then true else if req = 8 then o == .slipway else if req < 11 then o == .harbourmaster else true
  | 7 => if req < 9 then !isMover || decide (req < 6) else if req < 11 then o == .harbourmaster else true
  | _ => if req < 7 then true else o == .harbourmaster

/-- A transfer cut at multiples of g. -/
def cutAt (g a n : Nat) : List (Nat × Nat) :=
  (List.range (ceilDiv (a % g + n) g)).map fun i =>
    let lo := Nat.max a (a / g * g + i * g)
    (lo, Nat.min (a + n) (a / g * g + (i + 1) * g) - lo)

/-- R160: the HBM requests of a transfer: whole 32 B units, none across a 512 B granule of R41. -/
def hbmRequests (a n : Nat) : List (Nat × Nat) := cutAt 512 (a / 32 * 32) (ceilDiv (a % 32 + n) 32 * 32)

/-- A transfer cut into grant units counted from its first byte. -/
def unitsOf (g a n : Nat) : List (Nat × Nat) :=
  (List.range (Nat.max 1 (ceilDiv n g))).map fun i => (a + g * i, Nat.min g (n - g * i))

/-- The requests that a transfer makes at an arbiter of a kind, by its grant unit (R177). Memories are cut at their own lines;
messages, bursts and flits are counted from the transfer's first byte (DESIGN CHOICE, log 103); a decoder engine is granted one
whole sample. -/
def requestsOf (kind a n : Nat) : List (Nat × Nat) :=
  match kind with
  | 0 => cutAt 256 a n
  | 1 => cutAt 128 a n
  | 2 => unitsOf 64 a n
  | 3 => [(a, n)]
  | 4 => cutAt 64 a n
  | 5 => hbmRequests a n
  | 6 => unitsOf 1024 a n
  | 7 => unitsOf 1024 a n
  | _ => unitsOf 256 a n

/-- The die and the unit on it whose arbiter serves an address, for the arbiters of memories: the slice (R39), the bank by
bits [10:6] of the cluster offset (R158), the pseudo-channel (R41). -/
def memUnit (s : State) (kind a : Nat) : Option (Nat × Nat) :=
  if kind = 5 then (if a < hbmEnd s then pseudoChannel s a else none)
  else if !inSram s a 1 then none
  else
    let die := (a - sramBase) / 2 ^ 32
    let cl := (a - sramBase) % 2 ^ 32 / 2 ^ 29
    let off := (a - sramBase) % 2 ^ 29
    if kind = 4 then (if off < clusterBytes then some (die, cl * 32 + off / 64 % 32) else none)
    else if off < 2 ^ 28 then none
    else some (die, (cl * 8 + (off - 2 ^ 28) / 2 ^ 24) * 4 + off / 2 ^ 22 % 4)

/-- Whether a request comes to an arbiter: at a memory's arbiter, only what that unit holds. -/
def served (s : State) (a : ArbId) (addr : Nat) : Bool :=
  let k := a.kind.val
  !(k == 0 || k == 1 || k == 4 || k == 5) || memUnit s k addr == some (a.die.val, a.unit)

/-- The requests that an arrival brings to an arbiter, in ascending address, with the class R176 gives them. -/
def arrivalReqs (s : State) (a : ArbId) (q : Arrival) : List ArbReq :=
  match originClass s q.origin with
  | none => []
  | some c =>
    if presents a q.req q.origin then
      ((requestsOf a.kind.val q.addr.toNat q.len).filter fun p => served s a p.1).map fun p =>
        { req := q.req, cls := c, age := 0, addr := p.1, len := p.2 }
    else []

/-! The islands of requesters (R181). -/

/-- The dies at the other ends of a die's hawser links, in ascending order of the links (R24). -/
def hawserPeers (s : State) (die : Nat) : List Nat :=
  ((hawserIslands s.spr.entries (curDies s).length (curRails s)).filter fun i => i.die.toNat == die).map fun i => i.unit.toNat

/-- The island of a requester of an arbiter. The snapshot drain reader is a part of its HBM interface, like the scrubber. -/
def reqIsland (s : State) (a : ArbId) (req : Nat) : Option IslandId :=
  let d := a.die.val
  let core (k : Nat) : Option IslandId := some (islandId 1 d (k / 8 * 16 + k % 8))
  let peers := hawserPeers s d
  let others := dropAt peers a.unit
  let haw (l : List Nat) (k : Nat) : Option IslandId := (l[k]?).map fun p => islandId 6 d p
  match a.kind.val with
  | 0 => core (a.unit / 4)
  | 1 => core (a.unit / 4)
  | 2 => some (if req < 2 then islandId 10 d 0 else islandId 3 d 0)
  | 3 => some (islandId 4 d 0)
  | 4 => if req < 8 then core (a.unit / 32 * 8 + req) else some (islandId 3 d 0)
  | 5 => if req < 64 then core req else if req = 64 then some (islandId 4 d 0) else if req < 67 then some (islandId 10 d 0)
         else if req < 70 then haw peers (req - 67) else some (islandId 5 d (a.unit / 32))
  | 6 => if req < 8 then some (islandId 2 d req) else if req = 8 then some (islandId 4 d 0)
         else if req < 11 then some (islandId 10 d 0) else if req < 13 then some (islandId 5 d (req - 11))
         else haw others (req - 13)
  | 7 => if req < 6 then some (islandId 7 d (if d = 12 then req else req + 6)) else if req = 6 then some (islandId 8 12 0)
         else if req < 9 then some (islandId 9 d 0) else if req < 11 then some (islandId 10 d 0) else haw others 0
  | _ => if req < 2 then haw peers req
         else if req < 7 then
           some (islandId 7 d ((dropAt (List.range 6) a.unit).getD (req - 2) 0 + (if d = 12 then 0 else 6)))
         else some (islandId 10 d 0)

/-- R181: a requester's island sleeps deeply, as its controller's sideband tells. -/
def reqAsleep (s : State) (a : ArbId) (req : Nat) : Bool :=
  match reqIsland s a req with
  | some i => (getIsland s i).mode == modeDeep
  | none => false

/-- The request that stands for each requester: its first one. Later ones are held by the requester (R178, R179). -/
def standing (x : Arb) : List ArbReq :=
  x.reqs.foldl (fun acc r => if acc.any fun q => q.req == r.req then acc else acc ++ [r]) []

/-- R180, R181: whether a request is masked, by the sideband or by its urgent quota. -/
def reqMasked (s : State) (a : ArbId) (x : Arb) (r : ArbReq) : Bool :=
  x.masked.contains r.req || reqAsleep s a r.req || (r.cls == .urgent && decide (quotaOf s a r.req ≤ smGet 0 x.urgent r.req))

/-- The place of a requester in round-robin order from the pointer. -/
def rrRank (n ptr req : Nat) : Nat := (req + n - ptr % n) % n

/-- The first request in round-robin order. -/
def rrFirst (n ptr : Nat) (l : List ArbReq) : Option ArbReq :=
  l.foldl (fun best r =>
    match best with
    | none => some r
    | some b => if rrRank n ptr r.req < rrRank n ptr b.req then some r else some b) none

def classBase : ReqClass → Nat
  | .urgent => 8
  | .normal => 4
  | .background => 0

/-- R179: the effective priority. -/
def effPriority (r : ArbReq) : Nat := Nat.min 15 (classBase r.cls + r.age)

/-- The request that a slot grants among those that compete. -/
def arbPick (kind ptr : Nat) (l : List ArbReq) : Option ArbReq :=
  let n := arbRequesters kind
  if arbLarge kind then
    let top := l.foldl (fun m r => Nat.max m (effPriority r)) 0
    rrFirst n ptr (l.filter fun r => effPriority r == top)
  else
    let urgent := l.filter fun r => r.cls == .urgent
    if urgent.isEmpty then rrFirst n ptr l else rrFirst n ptr urgent

/-- The list without the first request of a requester. -/
def dropReq : List ArbReq → Nat → List ArbReq
  | [], _ => []
  | r :: rs, q => if r.req = q then rs else r :: dropReq rs q

/-- R179: every standing request that lost the slot and is not masked ages, up to priority 15. -/
def ageReqs (lost : List ArbReq) : List ArbReq → List Nat → List ArbReq
  | [], _ => []
  | r :: rs, seen =>
    (if !seen.contains r.req && lost.any fun q => q.req == r.req then
      { r with age := if classBase r.cls + r.age < 15 then r.age + 1 else r.age }
     else r) :: ageReqs lost rs (r.req :: seen)

/-- One service slot: the requests that arrive join, and at most one request is granted. -/
def arbSlot (s : State) (a : ArbId) (arrivals : List Arrival) : Arb :=
  let kind := a.kind.val
  let x0 := getArb s a
  let x := { x0 with reqs := x0.reqs ++ arrivals.flatMap (arrivalReqs s a) }
  let pool := (standing x).filter fun r => !reqMasked s a x r
  match arbPick kind x.ptr pool with
  | none => { x with last := none }
  | some g =>
    let rest := dropReq x.reqs g.req
    let lost := pool.filter fun r => r.req != g.req
    { x with reqs := if arbLarge kind then ageReqs lost rest [] else rest,
             ptr := (g.req + 1) % arbRequesters kind, last := some g.req,
             urgent := if g.cls = .urgent then smUpd 0 x.urgent g.req (· + 1) else x.urgent }

/-- R181: a requester's island tells the arbiter that it runs, sleeps deeply or is in reset. A requester with a request
parked or presented enters deep-sleep under one cause only, the disconnection at the reset level. -/
def arbMask (a : ArbId) (x : Arb) (req : Nat) (cond : MaskCond) : Arb :=
  let on := if x.masked.contains req then x.masked else x.masked ++ [req]
  let gone := x.reqs.filter fun r => r.req != req
  match cond with
  | .running => { x with masked := x.masked.filter (· != req) }
  | .deepSleep => if x.reqs.any fun r => r.req == req then x else { x with masked := on }
  | .resetLevelSleep => { x with masked := on, reqs := gone }
  | .inReset =>
    { x with masked := on,
             reqs := if arbLarge a.kind.val then x.reqs.map fun r => if r.req = req then { r with age := 0 } else r
                     else gone }

/-- ARBITER_GRANT (R178, R179). -/
def execArbiterGrant (a : ArbId) (arrivals : List Arrival) (s : State) : Host.Outcome State Fault Refusal :=
  .next (setArb s a (arbSlot s a arrivals))

/-- QUOTA_WINDOW (R180): the urgent grant counts restart, so that quota masks lift. -/
def execQuotaWindow (a : ArbId) (s : State) : Host.Outcome State Fault Refusal :=
  .next (setArb s a { getArb s a with urgent := [] })

/-- ISLAND_MASK (R181). -/
def execIslandMask (a : ArbId) (req : Nat) (cond : MaskCond) (s : State) : Host.Outcome State Fault Refusal :=
  .next (setArb s a (arbMask a (getArb s a) req cond))

end Sys2Proof.Machine
end

