-- ==== Sys2Proof/Machine/PlanForm.lean ====
section
/-! DEFINITION. The stowage plan: its object, its sections, and what makes each of them valid (spec R387–R397, with R195,
R196, R252, R266–R268, R273, R314, R360). -/
namespace Sys2Proof.Machine
open Sys2Proof

/-! The object and its section table (R387, R388). -/

structure SectEnt where
  type : Nat
  layout : Nat
  off : Nat
  len : Nat
  deriving DecidableEq, Repr

def planSects (b : Bytes) : Nat := byteAt b 6
def planLayouts (b : Bytes) : Nat := byteAt b 7
def planBytes (b : Bytes) : Nat := fld b 8 8

def sectEnt (b : Bytes) (i : Nat) : SectEnt :=
  let o := 128 + 32 * i
  { type := fld b o 2, layout := byteAt b (o + 2), off := fld b (o + 8) 8, len := fld b (o + 16) 8 }
def sectTable (b : Bytes) : List SectEnt := (List.range (planSects b)).map (sectEnt b)

/-- Whether a type has one section for each layout. -/
def perLayout (type : Nat) : Bool := type == 5 || type == 9

/-- How often a table lists a type for a layout code. -/
def sectCount (t : List SectEnt) (type layout : Nat) : Nat := (t.filter fun e => e.type == type && e.layout == layout).length

/-- R387, R388: the header and the table of an object. -/
def planFramed (b : Bytes) : Bool :=
  let t := sectTable b
  let n := planBytes b
  fld b 0 4 == 0x4C504B4B && fld b 4 2 == 1 && decide (9 ≤ planSects b) && decide (planSects b ≤ 64) &&
    decide (1 ≤ planLayouts b) && decide (planLayouts b ≤ 16) && n % 64 == 0 && decide (256 ≤ n) && decide (n ≤ 2 ^ 30) &&
    zeros b 64 64 && decide (128 + 32 * planSects b ≤ n) &&
    ((List.range (planSects b)).all fun i => zeros b (128 + 32 * i + 3) 5 && zeros b (128 + 32 * i + 24) 8) &&
    (t.all fun e => decide (1 ≤ e.type) && decide (e.type ≤ 9) && e.off % 64 == 0 && decide (e.off + e.len ≤ n) &&
      decide (128 + 32 * planSects b ≤ e.off) &&
      (if perLayout e.type then decide (e.layout < planLayouts b) else e.layout == 0xFF)) &&
    ((List.range 9).all fun k =>
      if perLayout (k + 1) then (List.range (planLayouts b)).all fun l => sectCount t (k + 1) l == 1
      else sectCount t (k + 1) 0xFF == 1) &&
    disjointRanges (t.map fun e => (e.off, e.len))

/-- The bytes of a section. -/
def section_ (b : Bytes) (type layout : Nat) : Bytes :=
  match (sectTable b).find? fun e => e.type == type && e.layout == layout with
  | some e => sub b e.off e.len
  | none => []

/-! Reading the sections. A malformed section reads as something; its validation refuses it. -/

def recsAt {α : Type} (b : Bytes) (first size n : Nat) (f : Bytes → α) : List α :=
  (List.range n).map fun i => f (sub b (first + size * i) size)

def parseDie (r : Bytes) : DieShape :=
  { hbmStacks := byteAt r 0, cores := (List.range (byteAt r 1)).map fun c => byteAt r (2 + c) }

def parseShape (b : Bytes) : Shape :=
  { ex := byteAt b 0, ey := byteAt b 1, ez := byteAt b 2, rails := byteAt b 4, holdStacks := byteAt b 5,
    state0 := fld b 8 8, state1 := fld b 16 8, res0 := fld b 24 8, res1 := fld b 32 8, stateBytes := fld b 40 8,
    resBytes := fld b 48 8, dies := recsAt b 64 16 (byteAt b 3) parseDie }

def parseClock (r : Bytes) : ClockRec :=
  { kind := byteAt r 0, die := byteAt r 1, unit := fld r 2 2, mhz := fld r 4 2, sleepDiv := byteAt r 6 }
def parseQuota (r : Bytes) : QuotaRec :=
  { arb := byteAt r 0, die := byteAt r 1, wLog2 := byteAt r 2, req := byteAt r 3, qu := byteAt r 4 }
def parseClocks (b : Bytes) : List ClockRec := recsAt b 8 8 (fld b 0 2) parseClock
def parseQuotas (b : Bytes) : List QuotaRec := recsAt b (8 + 8 * fld b 0 2) 8 (fld b 2 2) parseQuota

def parsePart (r : Bytes) : Part :=
  { part := fld r 0 2, mem := byteAt r 2, attr := r.getD 3 0, slices := byteAt r 4, offset := fld r 8 4,
    length := fld r 12 4, rebuild := fld32 r 16 }
def parseParts (b : Bytes) : List Part := recsAt b 8 24 (fld b 0 2) parsePart

def parseGroup (r : Bytes) : Group :=
  { group := fld r 0 2, n := (byteAt r 2, byteAt r 3, byteAt r 4), s := (byteAt r 5, byteAt r 6, byteAt r 7) }
def parseSched (r : Bytes) : Sched :=
  { sched := fld r 0 2, cop := byteAt r 2, rotate := byteAt r 3 % 4, explicit := bitOf (byteAt r 3) 2 == 1,
    group := fld r 4 2, treeFirst := fld r 8 4, recvOff := fld r 12 4, recvBytes := fld r 16 4 }
def parsePermute (r : Bytes) : Permute :=
  { src := fld r 0 4, dst := fld r 4 4, residue := byteAt r 8 == 1, srcOff := fld r 16 8, dstOff := fld r 24 8,
    len := fld r 32 8 }

def treeGroups (b : Bytes) : Nat := fld b 2 2
def treeScheds (b : Bytes) : Nat := fld b 4 2
def treeNodes (b : Bytes) : Nat := fld b 8 4
def treeMaps (b : Bytes) : Nat := fld b 12 4
def schedAt (b : Bytes) : Nat := 32 + 16 * treeGroups b
def nodeAt (b : Bytes) : Nat := schedAt b + 32 * treeScheds b
def mapAt (b : Bytes) : Nat := nodeAt b + 8 * treeNodes b

/-- R396: where the record arrays of a program-image section start, each on a 64-byte boundary. -/
def align64 (n : Nat) : Nat := ceilDiv n 64 * 64
def imgAt (b : Bytes) : Nat := align64 (128 + 16 * fld b 84 4)
def shardAt (b : Bytes) : Nat := align64 (imgAt b + 32 * fld b 4 4)
def rangeAt (b : Bytes) : Nat := align64 (shardAt b + 32 * fld b 8 4)
def relocAt (b : Bytes) : Nat := align64 (rangeAt b + 24 * fld b 12 4)
def progAt (b : Bytes) : Nat := align64 (relocAt b + 16 * fld b 16 4)
/-- The end of the record arrays, after which image and program bytes stand. -/
def imgDataAt (b : Bytes) : Nat := progAt b + 24 * fld b 20 4

/-- A core named by DIE, CLUSTER, CORE bytes; names that no core can have stand beyond every shape. -/
def coreField (r : Bytes) (o : Nat) : Nat :=
  if byteAt r o < 12 ∧ byteAt r (o + 1) < 8 ∧ byteAt r (o + 2) < 8 then
    byteAt r o * 64 + byteAt r (o + 1) * 8 + byteAt r (o + 2)
  else 768

def parseImage (b r : Bytes) : Image :=
  { core := coreField r 0, loadOff := fld r 4 4, entryOff := fld r 20 4, bytes := sub b (fld r 8 8) (fld r 16 4) }
def parseShard (r : Bytes) : Shard :=
  { shard := fld32 r 0, expOff := fld r 4 4, offset := fld r 8 8, bytes := fld r 16 8, tagOff := fld r 24 8 }
def parseRange (r : Bytes) : Range := { core := coreField r 0, offset := fld r 8 8, bytes := fld r 16 8 }
def parseReloc (r : Bytes) : Reloc :=
  { core := coreField r 0, role := byteAt r 3, fieldOff := fld r 4 4, bankOff := fld r 8 8 }
def parseProg (b r : Bytes) : Prog :=
  { prog := fld32 r 0, core := coreField r 4, loadOff := fld r 20 4, bytes := sub b (fld r 8 8) (fld r 16 4) }

/-- One layout, from its trees section and its program-image section. -/
def parseLayout (t b : Bytes) : Layout :=
  { runahead := byteAt t 1, groups := recsAt t 32 16 (treeGroups t) parseGroup,
    scheds := recsAt t (schedAt t) 32 (treeScheds t) parseSched,
    nodes := recsAt t (nodeAt t) 8 (treeNodes t) fun r => (fld r 0 4, fld r 4 4),
    maps := recsAt t (mapAt t) 40 (treeMaps t) parsePermute,
    jobGroup := fld t 16 2, shardGroup := fld t 18 2, replicaGroup := fld t 20 2, normSched := fld t 22 2,
    adamW := byteAt b 64 == 1, beta1 := fld32 b 68, beta2 := fld32 b 72, eps := fld32 b 76, wd := fld32 b 80,
    lrs := recsAt b 128 16 (fld b 84 4) fun r => (fld64 r 0, fld32 r 8),
    images := recsAt b (imgAt b) 32 (fld b 4 4) (parseImage b), shards := recsAt b (shardAt b) 32 (fld b 8 4) parseShard,
    ranges := recsAt b (rangeAt b) 24 (fld b 12 4) parseRange, relocs := recsAt b (relocAt b) 16 (fld b 16 4) parseReloc,
    progs := recsAt b (progAt b) 24 (fld b 20 4) (parseProg b) }

/-- R393: the stream records, each followed by its profiles, from an offset on. -/
def parseStreams (b : Bytes) : Nat → Nat → List StreamCfg × Nat
  | 0, off => ([], off)
  | n + 1, off =>
    let r := sub b off 16
    let k := byteAt r 3
    let x : StreamCfg :=
      { die := byteAt r 0, stream := byteAt r 1, eval := bitOf (byteAt r 2) 0 == 1, clusters := r.getD 4 0,
        profiles := recsAt b (off + 16) 64 k fun p => { bytes := p, ok := true } }
    let (xs, e) := parseStreams b n (off + 16 + 64 * k)
    (x :: xs, e)

def parseHold (b : Bytes) : HoldCfg :=
  { sisterXor := BitVec.ofNat 18 (fld b 0 4), balRow := fld b 4 4, slotBytes := fld b 8 8, logBytes := fld b 16 8,
    traceBytes := fld b 24 8, balBytes := fld b 32 8, balRows := fld b 40 8, balCache := fld b 48 8,
    balSlots := fld b 56 4, balLife := byteAt b 60, balList := fld b 64 8, balLStride := fld b 72 8 }

def parsePolicy (b : Bytes) (cores : Nat) : Policy :=
  { skip := byteAt b 0 == 1, snapEvery := fld b 2 2, normLimit := fld32 b 4, statsAddr := fld b 8 8,
    laneThresh := fld32 b 16, suppress := (List.range (byteAt b 20)).map fun i => BitVec.ofNat 16 (fld b (32 + 2 * i) 2),
    loss := (List.range cores).map fun i => fld32 b (128 + 4 * i) }

/-- The logical cores of a shape, as indices in die, cluster, core order. -/
def shapeCores (dies : List DieShape) : List Nat :=
  (List.range 768).filter fun k =>
    decide (k % 8 < (((dies.getD (k / 64) { hbmStacks := 0, cores := [] }).cores).getD (k / 8 % 8) 0))

def parsePlan (b : Bytes) : Plan :=
  let sh := parseShape (section_ b 1 0xFF)
  { digest := digest32 (sub b 0 (planBytes b)), shapeId := digest16 (section_ b 1 0xFF), shape := sh,
    clocks := parseClocks (section_ b 2 0xFF), quotas := parseQuotas (section_ b 2 0xFF),
    parts := parseParts (section_ b 3 0xFF), modes := section_ b 4 0xFF,
    streams := (parseStreams (section_ b 6 0xFF) (fld (section_ b 6 0xFF) 0 2) 8).1,
    hold := parseHold (section_ b 7 0xFF), policy := parsePolicy (section_ b 8 0xFF) (shapeCores sh.dies).length,
    layouts := (List.range (planLayouts b)).map fun l => parseLayout (section_ b 5 l) (section_ b 9 l) }

/-! Shape (R389). -/

def hbmEndOf (sh : Shape) : Nat := (sh.dies.map fun d => d.hbmStacks).foldl (· + ·) 0 * stackBytes

def dieRecOk (r : Bytes) : Bool :=
  let n := byteAt r 1
  decide (1 ≤ byteAt r 0) && decide (byteAt r 0 ≤ 2) && decide (1 ≤ n) && decide (n ≤ 8) &&
    ((List.range n).all fun c => decide (1 ≤ byteAt r (2 + c)) && decide (byteAt r (2 + c) ≤ 8)) && zeros r (2 + n) (14 - n)

def bankOk (sh : Shape) (base size : Nat) : Bool :=
  decide (0 < size) && base % 65536 == 0 && size % 65536 == 0 && decide (base + size ≤ hbmEndOf sh)

def shapeOk (b : Bytes) : Bool :=
  let sh := parseShape b
  let n := byteAt b 3
  b.length == 64 + 16 * n && ([sh.ex, sh.ey, sh.ez].all fun e => decide (1 ≤ e) && decide (e ≤ 64)) &&
    decide (1 ≤ n) && decide (n ≤ 12) && (sh.rails == 1 || sh.rails == 3) &&
    (sh.holdStacks == 4 || (sh.holdStacks == 8 && sh.rails == 3)) && zeros b 6 2 && zeros b 56 8 &&
    ((List.range n).all fun i => dieRecOk (sub b (64 + 16 * i) 16)) &&
    bankOk sh sh.state0 sh.stateBytes && bankOk sh sh.state1 sh.stateBytes && bankOk sh sh.res0 sh.resBytes &&
    bankOk sh sh.res1 sh.resBytes &&
    disjointRanges [(sh.state0, sh.stateBytes), (sh.state1, sh.stateBytes), (sh.res0, sh.resBytes), (sh.res1, sh.resBytes)]

/-! Islands (R390). -/

def dieCode (d : Nat) : Bool := decide (d ≤ 13) || d == 0xFF

def clockOk (isl : List IslandId) (b : Bytes) (i : Nat) : Bool :=
  let r := sub b (8 + 8 * i) 8
  let c := parseClock r
  decide (1 ≤ c.kind) && decide (c.kind ≤ 10) && dieCode c.die && (isl.any (clockCovers c)) && mhzOk c.kind c.mhz &&
    decide (1 ≤ c.sleepDiv) && byteAt r 7 == 0

def quotaRecOk (b : Bytes) (first i : Nat) : Bool :=
  let r := sub b (first + 8 * i) 8
  let q := parseQuota r
  decide (1 ≤ q.arb) && decide (q.arb ≤ 9) && dieCode q.die && decide (6 ≤ q.wLog2) && decide (q.wLog2 ≤ 16) &&
    (q.req == 0xFF || decide (q.req < arbRequesters (q.arb - 1))) && zeros r 5 3

def islandsOk (es : List LedgerEnt) (sh : Shape) (b : Bytes) : Bool :=
  let nc := fld b 0 2
  let nq := fld b 2 2
  let isl := islandsOf es sh.dies sh.rails sh.holdStacks
  b.length == 8 + 8 * (nc + nq) && zeros b 4 4 && ((List.range nc).all (clockOk isl b)) &&
    ((List.range nq).all (quotaRecOk b (8 + 8 * nc))) &&
    (List.range 9).all fun k => (List.range 14).all fun d => quotasFit (parseQuotas b) k d

/-! SRAM partitions (R391) and array modes (R392). -/

def sliceBytes : Nat := 2 ^ 22

def partOk (b : Bytes) (i : Nat) : Bool :=
  let r := sub b (8 + 24 * i) 24
  let p := parsePart r
  decide (p.part ≤ 255) && (p.mem == 1 || p.mem == 2) && decide (p.attr.toNat < 8) && zeros r 5 3 && zeros r 20 4 &&
    (if p.mem = 1 then decide (1 ≤ p.slices) && decide (p.slices < 16) else p.slices == 0) && p.offset % 64 == 0 &&
    p.length % 64 == 0 && decide (0 < p.length) && decide (p.offset + p.length ≤ (if p.mem = 1 then sliceBytes else clusterBytes)) &&
    (partHas p 0 == (p.rebuild != 0xFFFFFFFF#32))

/-- The ranges of one memory and slice. -/
def sliceRanges (ps : List Part) (mem e : Nat) : List (Nat × Nat) :=
  (ps.filter fun p => p.mem == mem && (mem == 2 || bitOf p.slices e == 1)).map fun p => (p.offset, p.length)

def partsOk (layouts : List Layout) (b : Bytes) : Bool :=
  let n := fld b 0 2
  let ps := parseParts b
  b.length == 8 + 24 * n && decide (1 ≤ n) && decide (n ≤ 256) && zeros b 2 6 && ((List.range n).all (partOk b)) &&
    distinct (ps.map fun p => p.part) && ((List.range 4).all fun e => disjointRanges (sliceRanges ps 1 e)) &&
    disjointRanges (sliceRanges ps 2 0) &&
    (match ps.filter fun p => partHas p 2 with
      | [p] => p.mem == 1 && p.slices == 15 && p.length == 262144
      | _ => false) &&
    (match ps.filter fun p => partHas p 1 with
      | [p] => p.mem == 1
      | _ => false) &&
    ps.all fun p => !partHas p 0 || layouts.all fun l => l.progs.any fun q => q.prog == p.rebuild

def modesOk (sh : Shape) (b : Bytes) : Bool :=
  b.length == 64 * sh.dies.length &&
    (List.range b.length).all fun k => byteAt b k == 0 || (byteAt b k == 1 && (shapeCores sh.dies).contains k)

/-! Trees and schedules (R252, R261, R267, R268, R273). -/

def axisOk (extent n s : Nat) : Bool :=
  decide (1 ≤ n) && decide (n ≤ 64) && decide (1 ≤ s) && decide (s ≤ 64) && extent % (n * s) == 0
def groupOk (sh : Shape) (r : Bytes) : Bool :=
  let g := parseGroup r
  axisOk sh.ex g.n.1 g.s.1 && axisOk sh.ey g.n.2.1 g.s.2.1 && axisOk sh.ez g.n.2.2 g.s.2.2 && zeros r 8 8

/-- The leaves below each reference of an explicit tree, as (lowest, highest), the leaves first; none where the tree breaks
R117 or R267. `used` lists the references that have appeared. -/
def treeSpans (size : Nat) : List (Nat × Nat) → List Nat → List (Nat × Nat) → Option (List (Nat × Nat))
  | [], _, spans => some spans
  | (l, r) :: ns, used, spans =>
    match spans[l]?, spans[r]? with
    | some a, some b =>
      if l = r ∨ used.contains l ∨ used.contains r ∨ b.1 ≤ a.2 then none
      else treeSpans size ns (l :: r :: used) (spans ++ [(a.1, b.2)])
    | _, _ => none

/-- Whether S − 1 nodes form one tree over S leaves: every reference but the root is used once. -/
def treeOk (nodes : List (Nat × Nat)) (size : Nat) : Bool :=
  nodes.length == size - 1 && (treeSpans size nodes [] ((List.range size).map fun j => (j, j))).isSome

def rotateOk (cop rotate : Nat) : Bool :=
  if cop = 1 ∨ cop = 2 ∨ cop = 4 then rotate == 1 || rotate == 2 else rotate == 0

/-- The bytes of the receive partition of a core (R391). -/
def recvBytes (ps : List Part) : Nat :=
  match ps.find? fun p => partHas p 1 with
  | some p => p.length * ((List.range 4).filter fun e => bitOf p.slices e == 1).length
  | none => 0

def schedOk (l : Layout) (recv : Nat) (r : Bytes) : Bool :=
  let x := parseSched r
  decide (x.sched ≤ 4095) && decide (1 ≤ x.cop) && decide (x.cop ≤ 6) && rotateOk x.cop x.rotate &&
    byteAt r 3 / 8 == 0 && zeros r 6 2 && zeros r 20 12 && decide (x.recvOff + x.recvBytes ≤ recv) &&
    (match groupRec l x.group with
      | some g =>
        if x.explicit then
          decide (x.treeFirst + (groupSize g - 1) ≤ l.nodes.length) &&
            treeOk ((l.nodes.drop x.treeFirst).take (groupSize g - 1)) (groupSize g)
        else x.treeFirst == 0
      | none => false)

/-- Ranges joined into rising, separate ones. -/
def joinRanges (l : List (Nat × Nat)) : List (Nat × Nat) :=
  (sortKey (fun r => r.1) (l.filter fun r => decide (0 < r.2))).foldl (fun acc r =>
    match acc.getLast? with
    | some q => if r.1 ≤ q.1 + q.2 then acc.dropLast ++ [(q.1, Nat.max (q.1 + q.2) (r.1 + r.2) - q.1)] else acc ++ [r]
    | none => [r]) []
def covered (l : List (Nat × Nat)) (r : Nat × Nat) : Bool := r.2 == 0 || (joinRanges l).any fun q => inside r.1 r.2 q.1 q.2

def permuteOk (sh : Shape) (jobSize : Nat) (r : Bytes) : Bool :=
  let p := parsePermute r
  let bank := if p.residue then sh.resBytes else sh.stateBytes
  decide (p.src < jobSize) && decide (p.dst < jobSize) && decide (byteAt r 8 ≤ 1) && zeros r 9 7 && p.srcOff % 64 == 0 &&
    p.dstOff % 64 == 0 && p.len % 64 == 0 && decide (p.srcOff + p.len ≤ bank) && decide (p.dstOff + p.len ≤ bank)

/-- R273: what one device receives. -/
def permuteDevOk (sh : Shape) (l : Layout) (d : Nat) : Bool :=
  let st := (l.maps.filter fun p => p.dst == d && !p.residue).map fun p => (p.dstOff, p.len)
  let re := (l.maps.filter fun p => p.dst == d && p.residue).map fun p => (p.dstOff, p.len)
  let tags := l.shards.map fun x => (x.tagOff, 16)
  disjointRanges st && disjointRanges re && (st.all fun r => tags.all fun t => !overlap r.1 r.2 t.1 t.2) &&
    (l.shards.all fun x => covered (st ++ tags) (x.offset, x.bytes)) && covered re (0, sh.resBytes)

def mapsOk (sh : Shape) (l : Layout) (b : Bytes) : Bool :=
  let size := ((groupRec l l.jobGroup).map groupSize).getD 0
  l.maps.isEmpty || (((List.range (treeMaps b)).all fun i => permuteOk sh size (sub b (mapAt b + 40 * i) 40)) &&
    (List.range size).all (permuteDevOk sh l))

def treesOk (sh : Shape) (ps : List Part) (l : Layout) (k : Nat) (b : Bytes) : Bool :=
  byteAt b 0 == k && decide (l.runahead ≤ 7) && decide (1 ≤ treeGroups b) && decide (treeGroups b ≤ 1024) &&
    decide (1 ≤ treeScheds b) && decide (treeScheds b ≤ 4096) && zeros b 6 2 && decide (treeNodes b ≤ 1048576) &&
    decide (treeMaps b ≤ 16777216) && zeros b 24 8 && b.length == mapAt b + 40 * treeMaps b &&
    ((List.range (treeGroups b)).all fun i => groupOk sh (sub b (32 + 16 * i) 16)) &&
    distinct (l.groups.map fun g => g.group) && distinct (l.scheds.map fun x => x.sched) &&
    ([l.jobGroup, l.shardGroup, l.replicaGroup].all fun g => (groupRec l g).isSome) &&
    ((List.range (treeScheds b)).all fun i => schedOk l (recvBytes ps) (sub b (schedAt b + 32 * i) 32)) &&
    disjointRanges (l.scheds.map fun x => (x.recvOff, x.recvBytes)) &&
    ((schedRec l l.normSched).map fun x => x.cop) == some 2 && mapsOk sh l b

/-! Slipway set-up (R195, R196, R393). -/

def vocabOf (s : State) (t : Nat) : Nat := fld (rdMem s t 8) 4 4

/-- R195: a merge table in HBM, which ends at `hbm` in the shape of the plan that names it. -/
def mergeTableOk (s : State) (hbm t : Nat) : Bool :=
  let h := rdMem s t 1088
  let v := fld h 4 4
  let n := fld h 8 4
  let m := rdMem s (t + 1088) (16 * n)
  let key (i : Nat) : Nat := fld m (16 * i) 4 * 2 ^ 32 + fld m (16 * i + 4) 4
  t % 64 == 0 && decide (t + (1088 + 16 * n) ≤ hbm) && fld h 0 4 == 0x42544B4B && decide (256 ≤ v) && decide (v ≤ 262144) &&
    decide (n ≤ v - 256) && zeros h 12 52 && ((List.range 256).all fun i => decide (fld h (64 + 4 * i) 4 < v)) &&
    ((List.range n).all fun i =>
      decide (fld m (16 * i) 4 < v) && decide (fld m (16 * i + 4) 4 < v) && decide (fld m (16 * i + 8) 4 < v) &&
        (i == 0 || decide (key (i - 1) < key i))) &&
    distinct ((List.range n).map fun i => fld m (16 * i + 12) 4)

/-- A positive normal FP32 encoding. -/
def posNormal (v : Nat) : Bool := decide (0x00800000 ≤ v) && decide (v ≤ 0x7F7FFFFF)

def imageProfileOk (p : Bytes) : Bool :=
  [1, 3, 4].contains (pChannels p) && decide (pFilter p ≤ 1) && decide (1 ≤ pLevels p) && decide (pLevels p ≤ 6)

def audioProfileOk (hbm : Nat) (p : Bytes) : Bool :=
  decide (1 ≤ pChannels p) && decide (pChannels p ≤ 8) && decide (pDownmix p ≤ 1) && decide (8000 ≤ pRate p) &&
    decide (pRate p ≤ 48000) && [256, 512, 1024, 2048].contains (pFft p) && decide (1 ≤ pWin p) && decide (pWin p ≤ pFft p) &&
    decide (1 ≤ pHop p) && decide (pHop p ≤ pFft p) && decide (1 ≤ pBins p) && decide (pBins p ≤ 256) &&
    decide (pMel p + 4 * pBins p * (pFft p / 2 + 1) ≤ hbm) && posNormal (pFloor p) && decide (1 ≤ pFrames p)

def textProfileOk (s : State) (hbm : Nat) (p : Bytes) : Bool :=
  let v := vocabOf s (pTok p)
  decide (pPresplit p ≤ 1) && mergeTableOk s hbm (pTok p) && (pBos p == noId || decide (pBos p < v)) &&
    (pEos p == noId || decide (pEos p < v)) && decide (pPad p < v)

/-- R196, R393: a profile of a plan whose HBM ends at `hbm`; a field that none of its kinds uses is 0. -/
def profileValid (s : State) (hbm : Nat) (p : Bytes) : Bool :=
  let im := decide (pKinds p % 4 ≠ 0)
  let au := decide (pKinds p / 4 % 8 ≠ 0)
  let tx := bitOf (pKinds p) 5 == 1
  decide (byteAt p 0 ≤ 63) && decide (pKinds p < 64) && decide (1 ≤ pBudget p) && zeros p 30 2 &&
    (if im || au then
      (match pTag p with
        | some t => t.fmt != .fp64
        | none => false)
     else zeros p 1 1 && zeros p 8 8) &&
    (if im then imageProfileOk p else zeros p 2 2) &&
    (if au then audioProfileOk hbm p else zeros p 5 1 && zeros p 16 14 && zeros p 32 4 && zeros p 48 8) &&
    (if tx then textProfileOk s hbm p else zeros p 6 1 && zeros p 36 12 && zeros p 56 8)

def streamRecOk (b : Bytes) : Nat → Nat → Bool
  | 0, off => off == b.length
  | n + 1, off =>
    let r := sub b off 16
    decide (byteAt r 0 < 12) && decide (byteAt r 1 < 8) && decide (byteAt r 2 ≤ 1) && decide (1 ≤ byteAt r 3) &&
      decide (byteAt r 3 ≤ 64) && zeros r 5 11 && streamRecOk b n (off + 16 + 64 * byteAt r 3)

def slipwayOk (xs : List StreamCfg) (b : Bytes) : Bool :=
  decide (fld b 0 2 ≤ 96) && zeros b 2 6 && streamRecOk b (fld b 0 2) 8 && distinct (xs.map fun x => x.die * 8 + x.stream) &&
    xs.all fun x => distinct (x.profiles.map fun p => byteAt p.bytes 0)

/-! Hold regions (R314, R394). -/

def gib : Nat := 2 ^ 30
def sisterAxis (e x : Nat) : Bool := (List.range e).all fun c => decide (c ^^^ x < e)

def holdRegionsOk (sh : Shape) (b : Bytes) : Bool :=
  let h := parseHold b
  let m := fld b 0 4
  b.length == 128 && decide (0 < m) && decide (m < 2 ^ 18) && zeros b 61 3 && zeros b 80 48 &&
    sisterAxis sh.ex (idX m) && sisterAxis sh.ey (idY m) && sisterAxis sh.ez (idZ m) &&
    h.slotBytes % 65536 == 0 && decide (sh.stateBytes + sh.resBytes + 256 ≤ h.slotBytes) &&
    h.logBytes % gib == 0 && decide (gib ≤ h.logBytes) && decide (h.logBytes ≤ 256 * gib) &&
    h.traceBytes % gib == 0 && decide (h.traceBytes ≤ 512 * gib) && h.balBytes % gib == 0 &&
    decide (h.balBytes ≤ 8192 * gib) && h.balRow % 64 == 0 && decide (64 ≤ h.balRow) && decide (h.balRow ≤ 2 ^ 20) &&
    decide (h.balRows * h.balRow ≤ h.balBytes / 2) && h.balCache % 4096 == 0 && decide (h.balCache < hbmEndOf sh) &&
    decide (1 ≤ h.balSlots) && decide (h.balSlots ≤ 16777216) && decide (h.balList < hbmEndOf sh) &&
    h.balLStride % 64 == 0 && decide (1 ≤ h.balLife) && decide (h.balLife ≤ 10) &&
    decide (4 * h.slotBytes + 2 * h.logBytes + h.traceBytes + 16 * gib ≤ 2048 * gib)

/-! Fault policies (R395). -/

/-- The events that their chapters let a plan suppress. -/
def suppressible : List Nat :=
  [0x0001, 0x0003, 0x1103, 0x1104, 0x2101, 0x2104, 0x3101, 0x3102, 0x3103, 0x3104, 0x4001, 0x4004, 0x4005, 0x5003, 0x5004,
   0x6003, 0x6101, 0x6107, 0x7002, 0x7005, 0x7103, 0x8001, 0x8102, 0x9001, 0x9101, 0x9102, 0xA001, 0xA005, 0xB001, 0xC002,
   0xC007]

def policyOk (sh : Shape) (b : Bytes) : Bool :=
  let n := (shapeCores sh.dies).length
  let p := parsePolicy b n
  let l := p.normLimit.toNat
  b.length == 128 + 4 * n && decide (byteAt b 0 ≤ 1) && byteAt b 1 == 0 && (posNormal l || l == 0x7F800000) &&
    p.statsAddr % 64 == 0 && decide (p.statsAddr + 128 ≤ hbmEndOf sh) && decide (1 ≤ p.laneThresh.toNat) &&
    decide (byteAt b 20 ≤ 32) && zeros b 21 11 && zeros b (32 + 2 * byteAt b 20) (64 - 2 * byteAt b 20) && zeros b 96 32 &&
    (p.suppress.all fun c => suppressible.contains c.toNat) && distinct (p.suppress.map fun c => c.toNat) &&
    p.loss.all fun w => w == 0xFFFFFFFF#32 || (decide (w.toNat < coreBytes) && w.toNat % 4 == 0)

/-! Program images (R396, R397). -/

/-- The core-relative ranges that hold no image: every SAVE, RECV and REGEN partition of core SRAM. -/
def keptRanges (ps : List Part) : List (Nat × Nat) :=
  ((ps.filter fun p => p.mem == 1 && p.attr != 0).map fun p =>
    ((List.range 4).filter fun e => bitOf p.slices e == 1).map fun e => (e * sliceBytes + p.offset, p.length)).flatten

def clearOf (l : List (Nat × Nat)) (a n : Nat) : Bool := l.all fun r => !overlap a n r.1 r.2

def imageOk (kept : List (Nat × Nat)) (b r : Bytes) : Bool :=
  let i := parseImage b r
  let n := fld r 16 4
  i.loadOff % 64 == 0 && i.entryOff % 64 == 0 && decide (imgDataAt b ≤ fld r 8 8) && decide (fld r 8 8 + n ≤ b.length) && decide (i.loadOff + n ≤ coreBytes) &&
    decide (i.loadOff ≤ i.entryOff) && decide (i.entryOff < i.loadOff + n) && clearOf kept i.loadOff n

def shardRecOk (sh : Shape) (l : Layout) (kept : List (Nat × Nat)) (x : Shard) : Bool :=
  x.offset % 64 == 0 && x.bytes % 64 == 0 && x.bytes % (if l.adamW then 12 else 8) == 0 && decide (0 < x.bytes) &&
    x.tagOff % 16 == 0 && decide (x.offset + x.bytes ≤ sh.stateBytes) && decide (x.tagOff + 16 ≤ sh.stateBytes) &&
    x.expOff % 16 == 0 && decide (x.expOff + 16 ≤ coreBytes) && clearOf kept x.expOff 16 &&
    clearOf (l.images.map fun i => (i.loadOff, i.bytes.length)) x.expOff 16

/-- Whether ranges rise and do not share a byte. -/
def rising : List Range → Bool
  | [] => true
  | [_] => true
  | a :: b :: l => decide (a.offset + a.bytes ≤ b.offset) && rising (b :: l)

def optimiserOk (l : Layout) (b : Bytes) : Bool :=
  let n := fld b 84 4
  (byteAt b 64 == 1 || byteAt b 64 == 2) && zeros b 65 3 && zeros b 88 40 && (l.adamW || l.beta2 == 0) &&
    decide (1 ≤ n) && decide (n ≤ 256) && ((l.lrs.map fun e => e.1).head? == some 1) &&
    (List.range (n - 1)).all fun i => decide ((fld64 b (128 + 16 * i)).toNat < (fld64 b (128 + 16 * (i + 1))).toNat)

def imagesOk (sh : Shape) (ps : List Part) (l : Layout) (k : Nat) (b : Bytes) : Bool :=
  let kept := keptRanges ps
  let cores := shapeCores sh.dies
  byteAt b 0 == k && zeros b 1 3 && zeros b 24 40 && decide (imgDataAt b ≤ b.length) && optimiserOk l b &&
    ((List.range (fld b 4 4)).all fun i => imageOk kept b (sub b (imgAt b + 32 * i) 32)) &&
    sortKey id (l.images.map fun i => i.core) == cores &&
    distinct (l.shards.map fun x => x.shard.toNat) && (l.shards.all (shardRecOk sh l kept)) &&
    disjointRanges ((l.shards.map fun x => (x.offset, x.bytes)) ++ l.shards.map fun x => (x.tagOff, 16)) &&
    (l.ranges.all fun r => cores.contains r.core && r.offset % 64 == 0 && r.bytes % 64 == 0 && decide (0 < r.bytes) &&
      decide (r.offset + r.bytes ≤ sh.stateBytes)) && rising l.ranges &&
    (l.shards.all fun x =>
      covered (l.ranges.map fun r => (r.offset, r.bytes)) (x.offset, x.bytes) &&
        covered (l.ranges.map fun r => (r.offset, r.bytes)) (x.tagOff / 64 * 64, 64)) &&
    (l.relocs.all fun r => decide (r.role ≤ 3) && r.fieldOff % 8 == 0 &&
      decide (r.bankOff < (if r.role < 2 then sh.stateBytes else sh.resBytes)) &&
      match l.images.find? fun i => i.core == r.core with
      | some i => decide (r.fieldOff + 6 ≤ i.bytes.length)
      | none => false) &&
    ((List.range (fld b 20 4)).all fun i =>
      let r := sub b (progAt b + 24 * i) 24
      decide (imgDataAt b ≤ fld r 8 8) && decide (fld r 8 8 + fld r 16 4 ≤ b.length) && decide (fld r 20 4 + fld r 16 4 ≤ coreBytes)) &&
    (l.progs.all fun q => cores.contains q.core) &&
    distinct (l.progs.map fun q => q.prog.toNat * 1024 + q.core)

end Sys2Proof.Machine
end

