-- ==== Sys2Proof/Machine/Plan.lean ====
section
/-! DEFINITION. Loading and applying a stowage plan (spec R398–R401). -/
namespace Sys2Proof.Machine
open Sys2Proof

/-! Rejection (R398, R402, R403). -/

/-- A load is rejected: the reason and the section stand in PLN_STATUS, and plan-rejected is raised. -/
def rejectPlan (s : State) (reason section_ : Nat) : State :=
  raise { s with pln := { s.pln with reason := BitVec.ofNat 8 reason, section_ := section_ } } 0xB101 srcDevice
    (toLe 1 reason ++ toLe 1 section_)

/-- Point 1: the reason for which a LOAD is not accepted. -/
def loadRefusal (s : State) : Option Nat :=
  if s.spr.state ≠ .ready ∨ s.stp.state ≠ .stopped ∨ s.hold.cmd.isSome ∨ loadRuns s ∨ s.sec.stage.isSome then some 8
  else if !s.sec.ident then some 9
  else if !claimed s then some 3
  else none

/-- Point 2: header, table, signature, owner generation, stepping and security version. -/
def objectRefusal (s : State) (a : Nat) (b : Bytes) : Option Nat :=
  let n := planBytes b
  if !(inHbm s a (n + 1536) && planFramed b) then some 1
  else if !sigOk s.sec.owner.key (sub b 0 n) (rdMem s (a + n) 1536) then some 2
  else if fld64 b 24 ≠ s.sec.owner.gen then some 3
  else if fld32 b 16 ≠ Config.stepping then some 4
  else if s.sec.svn.toNat < fld b 20 4 then some 5
  else none

/-- Point 3 for one section: the reason it fails for, and its owning chapter's event. -/
def sectionRefusal (s : State) (b : Bytes) (p : Plan) (home : BitVec 18) (e : SectEnt) : Option (Nat × Option Nat) :=
  let x := sub b e.off e.len
  let lay (f : Layout → Bool) : Bool := (p.layouts[e.layout]?).any f
  match e.type with
  | 1 =>
    if !shapeOk x || !routableIn (p.shape.ex, p.shape.ey, p.shape.ez) home.toNat then some (6, none)
    else if !offersShape s.spr.entries p.shape then some (7, some 0xA102)
    else none
  | 2 => if islandsOk s.spr.entries p.shape x then none else some (6, none)
  | 3 => if partsOk p.layouts x then none else some (6, none)
  | 4 => if modesOk p.shape x then none else some (6, none)
  | 5 => if lay fun l => treesOk p.shape p.parts l e.layout x then none else some (6, some 0x5002)
  | 6 => if slipwayOk p.streams x then none else some (6, none)
  | 7 => if holdRegionsOk p.shape x then none else some (6, some 0x7001)
  | 8 => if policyOk p.shape x then none else some (6, none)
  | _ => if lay fun l => imagesOk p.shape p.parts l e.layout x then none else some (6, none)

/-- The first failing section in table order: its entry, its reason and its event. -/
def firstRefusal (s : State) (b : Bytes) (p : Plan) (home : BitVec 18) : Option (Nat × Nat × Option Nat) :=
  (List.range (planSects b)).findSome? fun i =>
    (sectionRefusal s b p home (sectEnt b i)).map fun r => (i, r.1, r.2)

/-- R195: every profile checked; a failing one raises profile-invalid, and stays in the plan as one that no entry may name. -/
def checkProfiles (s : State) (p : Plan) : State × Plan :=
  let q := { p with streams := p.streams.map fun x =>
    { x with profiles := x.profiles.map fun f => { f with ok := profileValid s (hbmEndOf p.shape) f.bytes } } }
  (q.streams.foldl (fun s x => x.profiles.foldl (fun s f =>
    if f.ok then s
    else raise s 0x3002 (srcStream x.die x.stream) []) s) s, q)

/-- LOAD: point 1. An accepted load latches PLN_ADDR and PLN_HOME; its checks follow as time passes. -/
def loadPlan (s : State) : State :=
  match loadRefusal s with
  | some r => rejectPlan s r 0
  | none =>
    { s with pln := { s.pln with
        state := .checking, job := some { addr := s.pln.addr.toNat, home := BitVec.ofNat 18 s.pln.home.toNat, bytes := [] } } }

/-- A load that fails at point 2 or 3 ends: the previous plan stays in force, and a PLAN_LOAD that waits is answered. -/
def failLoad (s : State) (reason section_ : Nat) : State :=
  answerLoads (rejectPlan { s with pln := { s.pln with
    state := if s.pln.plan.isSome then .applied else .none, job := none } } reason section_) 3 0xB101

/-- Point 2: the object is read and checked. -/
def checkObject (s : State) (j : LoadJob) : State :=
  let head := rdMem s j.addr 128
  let b := if planBytes head ≤ 2 ^ 30 then rdMem s j.addr (planBytes head) else head
  match objectRefusal s j.addr b with
  | some r => failLoad s r 0
  | none => { s with pln := { s.pln with state := .validating, job := some { j with bytes := b } } }

/-- Point 3: the sections of what point 2 read; then the plan waits for point 4. -/
def validatePlan (s : State) (j : LoadJob) : State :=
  let p := parsePlan j.bytes
  match firstRefusal s j.bytes p j.home with
  | some (i, r, ev) =>
    failLoad (match ev with
      | some c => raise s c srcDevice []
      | none => s) r i
  | none =>
    let (s1, q) := checkProfiles s p
    { s1 with pln := { s1.pln with state := .applying, job := none, loading := some (q, j.home) } }

/-- The next point of a load that runs; a suspension holds it (R401), and so does a stack in self-refresh. -/
def loadStep (s : State) : State :=
  match s.pln.job with
  | none => s
  | some j =>
    if suspended s || anyStackHolds s then s
    else if s.pln.state = .checking then checkObject s j else validatePlan s j

/-! Points 4 and 5 (R399, R400). -/

/-- R400: whether an application continues the log: the newest PLAN record in the own log area has this digest and home. -/
def continues (s : State) (p : Plan) (home : BitVec 18) : Bool :=
  match (s.hold.log.filter fun r => r.type == 5).getLast? with
  | some r => sub r.bytes 64 32 == p.digest && s.hold.planHome == home
  | none => false

/-- A new application restarts the log, whose copies still on their way acknowledge nothing (R326), and no slot is covered by it. -/
def freshLog (s : State) : State :=
  let s := voidCopies s (s.hold.log.map fun r => r.seq)
  let h := { s.hold with log := [], nextSeq := 0, prevDigest := [], logPos := 0, sisAcked := 0, sisAckedAny := false, sisAcks := [] }
  let s1 := { s with hold := h }
  (List.range 4).foldl (fun s i =>
    let x := getSlot s i
    if x.cover then setSlot s i { x with cover := false } else s) s1

/-- R413: zeros over core and cluster SRAM. Then every core of the shape with its program image, held at its entry. -/
def startCores (s : State) : State :=
  let modes : Bytes := ((curPlan s).map fun p => p.modes).getD []
  loadImages ((((curLayout s).map fun l => l.images).getD []).foldl (fun s i =>
    setCoreAt s i.core { Core.init with pc := coreBase (coreOfIdx i.core) + i.entryOff,
                                        pairWired := modes.getD i.core 0 == 1 })
    { zeroMem s sramBase (bondBase - sramBase) with cores := [] })

/-- The step machine after an application. -/
def freshStp (x : Stp) : Stp :=
  { x with state := .stopped, stopPend := false, bank := false, pass := 0, phase := false, c := 0, a := 0, epoch := 0, layout := 0, att := none, lastTag := 0,
           curTag := 0, commits := [], advances := [], ended := EndedAtt.init, kept := [], abortsSeen := [] }

/-- The effects of R399 on the plan in force. -/
def applyPlan (s : State) (p : Plan) (home : BitVec 18) : State :=
  let cont := continues s p home
  let s1 := mirrored { s with
    pln := { s.pln with state := .applied, cont := cont, plan := some p, loading := none, everApplied := true },
    stp := freshStp s.stp, lock := none,
    streams := smMapVal Stream.init s.streams fun x =>
      { x with subs := [], queue := [], window := [], invalid := false, raised := 0 }, slips := [],
    fab := { s.fab with homeId := home,
                        ports := smMapVal Port.init s.fab.ports fun x => { x with carries := false } } }
  let s2 := startCores (if cont then s1 else freshLog s1)
  let s3 := { s2 with
    hold := { s2.hold with cache := [], slotTable := [], useOrd := 0, bucket := bucketMax s2, bucketRem := 0, batch := 0,
                           planHome := home, fetch := none },
    sec := { s2.sec with mPlan := digest32 (s2.sec.mPlan ++ p.digest ++ toLe 4 home.toNat) } }
  let s4 := checkPeers (settleIslands s3)
  let s5 := logAppend s4 0x0005 s4.stp.c (p.digest ++ sub s4.sec.fwDigest 0 32 ++ sub p.shapeId 0 16)
  answerLoads (raise s5 0xB001 srcDevice (toLe 1 (b2n cont))) 0 0

/-- PLAN_APPLY: the plan that waits is applied once no snapshot drain is running. -/
def planApply (s : State) : State :=
  match s.pln.loading with
  | none => s
  | some (p, home) =>
    if suspended s || s.hold.drain.isSome || !s.hold.snapQueue.isEmpty then s else applyPlan s p home

/-- LOAD (R398, R401). -/
def execLoad (m : Fin 4) (s : State) : Host.Outcome State Fault Refusal := .next (writeGate s m.val 0x4000 false loadPlan)
/-- PLAN_APPLY (R399, R400). -/
def execPlanApply (s : State) : Host.Outcome State Fault Refusal := .next (planApply s)

end Sys2Proof.Machine
end

