-- ==== Sys2Proof/Machine/Clocks.lean ====
section
/-! DEFINITION. The reference, its monitor and its failures, and the end of the reference-settle delay (spec R441–R451, R460). -/
namespace Sys2Proof.Machine
open Sys2Proof

/-! Generators and islands together. -/

def updIsland (s : State) (i : IslandId) (f : Island → Island) : State := setIsland s i (f (getIsland s i))
def eachIsland (s : State) (f : Island → Island) : State := (shapeIslands s).foldl (fun s i => updIsland s i f) s

/-- Point 3 of R451: every island on its generator is forced to the fallback, and the staged switches to a generator are void. -/
def forceFallback (s : State) : State :=
  let n := ((shapeIslands s).filter fun i => (getIsland s i).generator).length
  let s1 := eachIsland s fun x =>
    if x.generator then { x with generator := false, last := 2, lock := false, holdover := true, target := none }
    else { x with lock := false, holdover := true, target := none }
  { s1 with clk := { s1.clk with forced := satInc32 s1.clk.forced n, gov := s1.clk.gov.filter fun r => r.clock.isNone } }

/-- Fabric ports start training, each once its island has come back to its generator since `s0` (event 7 of R460, point 5 of R451). -/
def trainPorts (s0 s : State) : State :=
  (List.range (if curRails s = 3 then 12 else 6)).foldl (fun s p =>
    let x := getPort s p
    if x.state = .down ∧ onReference s (portIsland p) ∧ !onReference s0 (portIsland p) ∧ !unconnected s (portIsland p) then
      setPort s p { x with state := .training }
    else s) s

/-! The monitor (R449). -/

/-- R449: a count below 0.95 × N0 or above 1.05 × N0. -/
def outOfRange (n0 count : Nat) : Bool := decide (100 * count < 95 * n0) || decide (105 * n0 < 100 * count)

/-- Points 1 to 3 of R451. -/
def refFailure (s : State) (cause : Nat) (count : BitVec 16) (stops : List TileStop) : State :=
  let s1 := { s with clk := { s.clk with ref := .failed, refFails := satInc32 s.clk.refFails, needResume := true,
                                         resumePend := false, bad := [] } }
  let s2 := suspendWork (raise s1 0x8801 srcDevice (toLe 1 cause ++ toLe 2 count.toNat)) (slackOnly s) stops
  let s3 := (stackIslands s2).foldl (fun s i => askMode s i modeSleep) s2
  let s4 := (List.range 12).foldl portDown (forceFallback s3)
  [0, 1].foldl linkDown s4

/-- Event 4 of R460: the reference is present after four consecutive windows of 480 to 800. -/
def seekReference (s : State) (count : Nat) : State :=
  let n := if 480 ≤ count ∧ count ≤ 800 then smGet 0 s.clk.bad 12 + 1 else 0
  if 4 ≤ n then { s with clk := { s.clk with ref := .settling, bad := [] } }
  else { s with clk := { s.clk with bad := smSet 0 s.clk.bad 12 n } }

/-- The edges of a die's generators are back: they leave holdover, and one that had lost its lock locks again, whether its island runs
on it or on the fallback (R441). -/
def endHoldover (s : State) (die : Nat) : State :=
  { s with clk := { s.clk with islands := s.clk.islands.map fun p =>
      if p.1 / 2 ^ 16 % 16 = die then (p.1, { p.2 with lock := true, holdover := false }) else p } }

/-- The expected count of a die's monitor. -/
def expectedCount (s : State) (die : Nat) : Nat := if die = 12 then s.clk.n0.toNat else smGet 0 s.clk.dieN0 die

/-- MONITOR_WINDOW. -/
def monitorWindow (s : State) (die : Nat) (count : BitVec 16) (stops : List TileStop) : State :=
  if !isPowered s then s
  else
    match s.clk.ref with
    | .absent => if die = 12 then seekReference s count.toNat else s
    | .good =>
      if count = 0 then refFailure s 1 count stops
      else if outOfRange (expectedCount s die) count.toNat then
        if smGet 0 s.clk.bad die = 1 then refFailure s 2 count stops
        else { s with clk := { s.clk with bad := smSet 0 s.clk.bad die 1 } }
      else endHoldover { s with clk := { s.clk with bad := smSet 0 s.clk.bad die 0 } } die
    | _ => s

/-- GENERATOR_HOLDOVER: a generator whose reference edges stop. It keeps its frequency for 100 µs at least; one that is still without
edges when it is told again has lost its lock, and its output stops low (R448; that it stops then is log 104). -/
def generatorHoldover (s : State) (i : IslandId) : State :=
  if (shapeIslands s).contains i && (getIsland s i).lock then
    updIsland s i fun x => if x.holdover then { x with lock := false, holdover := false } else { x with holdover := true }
  else s

/-! The reference is good (R451, R460). -/

/-- R449: the rounded mean of 16 windows; a half rounds up (DESIGN CHOICE, log 100). -/
def meanCount (counts : List (BitVec 16)) : Nat := (((counts.take 16).map fun c => c.toNat).foldl (· + ·) 0 + 8) / 16

/-- Every die's monitor sets its N0; P0's shows in CLK_STATUS and in reference-restored (DESIGN CHOICE, log 100). -/
def calibrate (s : State) (windows : List (List (BitVec 16))) : State :=
  let n (d : Nat) : Nat := meanCount ((windows[d]?).getD [])
  let others := ((List.range 14).filter (· != 12)).foldl (fun m d => smSet 0 m d (n d)) []
  raise { s with clk := { s.clk with ref := .good, n0 := BitVec.ofNat 16 (n 12), dieN0 := others, bad := [] } } 0x8001 srcDevice
    (toLe 2 (n 12))

/-- REFERENCE_SETTLE: events 5 to 7 of R460, and the boot stages up to the inspection. -/
def referenceSettle (s : State) (windows : List (List (BitVec 16))) : State :=
  if s.pwr.phase ≠ .powered ∨ s.clk.ref ≠ .settling then s
  else
    let f := s.pwr.facts.getD default
    let s1 := calibrate { s with pwr := { s.pwr with phase := .booting, facts := none } } windows
    lockGenerators (askRun (applyClocks (bootStages s1 f)))

/-- REFERENCE_RESTORED: point 5 of R451. The islands come back at the run clocks that hold by now (R456). -/
def referenceRestored (s : State) (windows : List (List (BitVec 16))) : State :=
  if s.clk.ref ≠ .failed then s
  else
    let s1 := lockGenerators (applyClocks (calibrate s windows))
    if s1.pwr.slack && !s1.pwr.releasing then s1 else (stackIslands s1).foldl (fun s i => askMode s i modeRun) s1

/-! Owner commands (R447, R451). -/

/-- A RESUME that is held takes effect once slack state has ended and every stack has left self-refresh, as point 5 of R451 has it
before point 6 (DEDUCED, log 53). -/
def takeResume (s : State) : State :=
  if s.clk.resumePend && s.clk.needResume && !s.pwr.slack && s.clk.ref == .good && !anyStackHolds s then
    resumeStep { s with clk := { s.clk with needResume := false, resumePend := false } }
  else s

/-- RESUME: ignored before the reference is good, and else held until it may take effect. -/
def clkResume (s : State) : State :=
  if s.clk.ref ≠ .good ∨ !s.clk.needResume then s else takeResume { s with clk := { s.clk with resumePend := true } }

/-- The control entry that a suspension holds ends as dropped. -/
def dropRunning (s : State) : State :=
  match s.ctl.running with
  | some j => if s.hold.cmd.isSome then s else endControl s j 2 0
  | none => s

/-- DISCARD: the suspended attempt, window or lock is gone and the device is stopped. -/
def clkDiscard (s : State) : State :=
  if s.clk.ref ≠ .good ∨ !s.clk.needResume then s
  else
    let s1 := dropRunning (discardAttempt { s with lock := none })
    let s2 := { s1 with clk := { s1.clk with needResume := false, resumePend := false },
                        stp := { s1.stp with stopPend := false, prior := .stopped } }
    if s2.pwr.slack then s2 else { s2 with stp := { s2.stp with state := .stopped } }

/-- MONITOR_WINDOW (R449, R451). -/
def execMonitorWindow (die : Fin 14) (count : BitVec 16) (stops : List TileStop) (s : State) : Host.Outcome State Fault Refusal :=
  .next (monitorWindow s die.val count stops)
/-- GENERATOR_HOLDOVER (R450). -/
def execGeneratorHoldover (i : IslandId) (s : State) : Host.Outcome State Fault Refusal := .next (generatorHoldover s i)
/-- REFERENCE_SETTLE (R460). -/
def execReferenceSettle (windows : List (List (BitVec 16))) (s : State) : Host.Outcome State Fault Refusal :=
  .next (referenceSettle s windows)
/-- REFERENCE_RESTORED (R451). -/
def execReferenceRestored (windows : List (List (BitVec 16))) (s : State) : Host.Outcome State Fault Refusal :=
  .next (referenceRestored s windows)
/-- RESUME of CLK_CTRL (R451). -/
def execClkResume (m : Fin 4) (s : State) : Host.Outcome State Fault Refusal := .next (writeGate s m.val 0x5004 false clkResume)
/-- DISCARD of CLK_CTRL (R451). -/
def execDiscard (m : Fin 4) (s : State) : Host.Outcome State Fault Refusal := .next (writeGate s m.val 0x5004 false clkDiscard)
/-- SOURCE_FB of CLK_CTRL (R447). -/
def execSourceFb (m : Fin 4) (s : State) : Host.Outcome State Fault Refusal :=
  .next (writeGate s m.val 0x5004 false fun s => askSource s (getMaster s m.val).clkSel false)
/-- SOURCE_GEN of CLK_CTRL (R447). -/
def execSourceGen (m : Fin 4) (s : State) : Host.Outcome State Fault Refusal :=
  .next (writeGate s m.val 0x5004 false fun s => askSource s (getMaster s m.val).clkSel true)

end Sys2Proof.Machine
end

