-- ==== Sys2Proof/Machine/Power.lean ====
section
/-! DEFINITION. The power input: the power limit, slack state, the reset level, power-on, the reset kinds of the supply and the
temperature (spec R453, R456–R461, R477, R478). -/
namespace Sys2Proof.Machine
open Sys2Proof

/-! The power limit (R456). -/

def effLimit (s : State) : Nat := Nat.min s.pwr.limit.toNat s.pwr.boardW

/-- The highest run clock that the plan gives a core island. -/
def planCoreMhz (s : State) : Nat :=
  ((activeIslands s).filter fun i => i.kind == 1).foldl (fun m i => Nat.max m (planMhz s i)) 0

/-- A change of the cap: every core island's switch is staged (R447, R454). -/
def setCap (s : State) (n : Nat) : State := applyClocks { s with pwr := { s.pwr with cap := n } }

/-- The first lowering in a step raises power-limited. -/
def tellLimited (s : State) : State :=
  if s.stp.att.isSome && !s.pwr.limitedTold then
    raise { s with pwr := { s.pwr with limitedTold := true } } 0x9101 srcDevice (toLe 2 (effLimit s) ++ toLe 2 s.pwr.cap)
  else s

/-- POWER_WINDOW. The cap stays in the range of a core island. -/
def powerWindow (s : State) (watts : BitVec 16) : State :=
  if !isPowered s then s
  else
    let s1 := { s with pwr := { s.pwr with power := watts } }
    let w := watts.toNat
    if effLimit s < w then
      (if s.pwr.cap < 425 then s1 else tellLimited (setCap s1 (s.pwr.cap - 25)))
    else if 100 * w < 98 * effLimit s ∧ s.pwr.cap + 25 ≤ planCoreMhz s then setCap s1 (s.pwr.cap + 25)
    else s1

/-! Slack state (R457, R458). -/

/-- SLACK_ENTERED: point 1, or a warning during slack state, which takes a release back to point 2. -/
def enterSlack (s : State) (thermal : Bool) (stops : List TileStop) : State :=
  if !isPowered s then s
  else
    let p := s.pwr
    let p1 := { p with timer := false, vinOk := p.vinOk && thermal, coolOk := p.coolOk && !thermal,
                       causeSupply := p.causeSupply || !thermal, causeThermal := p.causeThermal || thermal }
    if p.slack then
      (if p.releasing then askSleep { s with pwr := { p1 with releasing := false } } else { s with pwr := p1 })
    else
      let s1 := raise { s with pwr := { p1 with slack := true, slacks := satInc32 p.slacks } } 0x9801 srcDevice
        (toLe 1 (if thermal then 2 else 1))
      askSleep (suspendStep s1 stops)

/-- What the supply and the temperature show. Point 3: the release timer runs while its conditions hold. -/
def setTimer (s : State) (p : Pwr) : State :=
  { s with pwr := { p with timer := p.slack && !p.releasing && p.vinOk && (!p.causeThermal || p.coolOk) } }

def supplyBack (s : State) (ok : Bool) : State := setTimer s { s.pwr with vinOk := ok }
def coolBack (s : State) (ok : Bool) : State := setTimer s { s.pwr with coolOk := ok }

/-- Every island that may run is asked for run: a stack stays in self-refresh while the reference is failed. -/
def askRelease (s : State) : State :=
  ((activeIslands s).filter fun i => !(i.kind == 5 && decide (s.clk.ref = .failed))).foldl (fun s i => askMode s i modeRun) s

/-- SLACK_RELEASE_TIMER: point 4, the ramp back to run. -/
def releaseSlack (s : State) : State :=
  if !(s.pwr.slack && s.pwr.timer) then s
  else askRelease { s with pwr := { s.pwr with timer := false, releasing := true } }

/-- Whether the ramp of point 4 is over: no island waits for a step towards run. -/
def rampDone (s : State) : Bool := !s.clk.gov.any fun r => r.mode == some modeRun || r.mode == some modeSleep

/-- Point 5, at the end of the ramp; after a reference failure the step waits for RESUME, or goes on with one that was held. -/
def finishRelease (s : State) : State :=
  if !(s.pwr.releasing && rampDone s) then s
  else
    let s1 := { s with pwr := { s.pwr with slack := false, releasing := false, causeSupply := false, causeThermal := false } }
    let s2 := bumpFresh (raise s1 0x9001 srcDevice (toLe 4 (Config.slackMicros s.fresh)))
    if s2.clk.needResume then takeResume s2 else resumeStep s2

/-! Loss and return of the supply (R458–R460). -/

/-- R453: the islands of the hold-up domain: the Hold controllers and the control islands of the pier dies. -/
def inHoldup (i : IslandId) : Bool := (i.kind == 9 || i.kind == 10) && (i.die == 12 || i.die == 13)

/-- R181, R458: below the reset level the islands of the hold-up domain stay on, with the requests that they have parked or
presented; every other island goes to deep-sleep at once and its requests are discarded. -/
def keepHoldup (s t : State) : State :=
  { t with
    clk := { t.clk with islands := s.clk.islands.filter fun p => inHoldup (islandOfKey p.1) },
    arbs := smMapVal Arb.init (s.arbs.map fun p => (p.1, { Arb.init with
      reqs := p.2.reqs.filter fun r => (reqIsland s (arbOfKey p.1) r.req).any inHoldup })) id }

/-- RESET_LEVEL: everything outside the hold-up domain is lost. -/
def resetLevel (s : State) : State :=
  if !(isPowered s || s.pwr.phase == .cooling) then s
  else
    let s1 := keepHoldup s (clearDevice s)
    { s1 with pwr := { s1.pwr with phase := .holdUp, powerLoss := true, vinOk := false } }

/-- HOLDUP_CUTOFF. -/
def holdupCutoff (s : State) : State :=
  if s.pwr.phase = .holdUp then { s with pwr := { s.pwr with phase := .off } } else s

/-- POWER_ON: a power-on reset from off, a supply reset from hold-up. -/
def powerOn (s : State) (f : BootFacts) : State :=
  let on (kind : BitVec 4) (n : W32) : State :=
    powerUp { s with arbs := [], clk := Clk.init, pwr := { s.pwr with lastReset := kind, supplyResets := n, vinOk := true } } f
  match s.pwr.phase with
  | .off => on 1 0
  | .waiting => on 1 0
  | .holdUp => on 2 (satInc32 s.pwr.supplyResets)
  | _ => s

/-- THERMAL_TRIP: the sequence of R458, then the wait for cooling. -/
def thermalTrip (s : State) (f : BootFacts) : State :=
  if !isPowered s then s
  else
    let s1 := keepHoldup s (clearDevice s)
    { s1 with pwr := { s1.pwr with phase := .cooling, lastReset := 6, facts := some f, coolOk := false } }

/-- TRIP_COOLDOWN_COMPLETE. -/
def cooldownComplete (s : State) : State :=
  if s.pwr.phase = .cooling then
    powerUp { s with arbs := [], clk := Clk.init, pwr := { s.pwr with coolOk := true } } (s.pwr.facts.getD default)
  else s

/-! Input above 56 V (R461). -/

def inputHigh (s : State) (v : BitVec 16) : State :=
  if !isPowered s || s.pwr.high then s
  else raise { s with pwr := { s.pwr with high := true, vin := v } } 0x9102 srcDevice (toLe 2 v.toNat)

def inputHighEnded (s : State) : State := { s with pwr := { s.pwr with high := false } }

/-- POWER_WINDOW (R456). -/
def execPowerWindow (watts : BitVec 16) (s : State) : Host.Outcome State Fault Refusal := .next (powerWindow s watts)
/-- SLACK_ENTERED (R457). -/
def execSlackEntered (thermal : Bool) (stops : List TileStop) (s : State) : Host.Outcome State Fault Refusal :=
  .next (enterSlack s thermal stops)
/-- RELEASE_LEVEL_CROSSED (R457). -/
def execReleaseLevelCrossed (s : State) : Host.Outcome State Fault Refusal := .next (supplyBack s true)
/-- INPUT_BELOW_RELEASE_LEVEL (R457). -/
def execInputBelowReleaseLevel (s : State) : Host.Outcome State Fault Refusal := .next (supplyBack s false)
/-- SLACK_TEMPERATURE_CLEARED (R457). -/
def execSlackTemperatureCleared (cleared : Bool) (s : State) : Host.Outcome State Fault Refusal := .next (coolBack s cleared)
/-- SLACK_RELEASE_TIMER (R457). -/
def execSlackReleaseTimer (s : State) : Host.Outcome State Fault Refusal := .next (releaseSlack s)
/-- RESET_LEVEL (R458). -/
def execResetLevel (s : State) : Host.Outcome State Fault Refusal := .next (resetLevel s)
/-- HOLDUP_CUTOFF (R458). -/
def execHoldupCutoff (s : State) : Host.Outcome State Fault Refusal := .next (holdupCutoff s)
/-- POWER_ON (R460). -/
def execPowerOn (f : BootFacts) (s : State) : Host.Outcome State Fault Refusal := .next (powerOn s f)
/-- THERMAL_TRIP (R478). -/
def execThermalTrip (f : BootFacts) (s : State) : Host.Outcome State Fault Refusal := .next (thermalTrip s f)
/-- TRIP_COOLDOWN_COMPLETE (R478). -/
def execTripCooldownComplete (s : State) : Host.Outcome State Fault Refusal := .next (cooldownComplete s)
/-- RESET of PWR_CTRL (R459). -/
def execReset (m : Fin 4) (f : BootFacts) (s : State) : Host.Outcome State Fault Refusal :=
  .next (writeGate s m.val 0x6004 false fun s => deviceReset s 3 f)
/-- INPUT_HIGH (R461). -/
def execInputHigh (v : BitVec 16) (s : State) : Host.Outcome State Fault Refusal := .next (inputHigh s v)
/-- INPUT_HIGH_ENDED (R461). -/
def execInputHighEnded (s : State) : Host.Outcome State Fault Refusal := .next (inputHighEnded s)

end Sys2Proof.Machine
end

