-- ==== Sys2Proof/Machine/Registers.lean ====
section
/-! DEFINITION. The BAR0 registers: what each reads as, and what a write of each does (spec R12–R17, R213, R251, R309, R348,
R364, R403, R404, R410, R411, R414, R419, R421, R434, R462, R463). -/
namespace Sys2Proof.Machine
open Sys2Proof

/-! Fields. A register is put together from fields, each at its lowest bit. -/

/-- A register from pairs of a lowest bit and a value. -/
def mkReg (fs : List (Nat × Nat)) : W32 := BitVec.ofNat 32 ((fs.map fun f => f.2 * 2 ^ f.1).foldl (· + ·) 0)
def lo32 (v : W64) : W32 := v.setWidth 32
def hi32 (v : W64) : W32 := (v >>> 32).setWidth 32
def join64 (hi lo : W32) : W64 := hi ++ lo
/-- Word i of a digest: byte 4i + j in bits [8j + 7:8j]. -/
def digestWord (b : Bytes) (i : Nat) : W32 := fld32 b (4 * i)

/-! Codes of states. -/

def stepCode : StepState → Nat
  | .idle => 0 | .passes => 1 | .normCheck => 2 | .update => 3 | .tally => 4 | .updateWait => 5 | .evaluation => 6
  | .stopped => 7 | .aborting => 8 | .suspended => 9 | .reshardLock => 10
def portCode : PortState → Nat
  | .down => 0 | .training => 1 | .up => 2 | .retraining => 3 | .held => 4 | .cablingFault => 5 | .disabled => 6
def slotCode : SlotState → Nat
  | .empty => 0 | .filling => 1 | .sealed => 2 | .invalid => 3
def sprCode : SprState → Nat
  | .ready => 0 | .inspecting => 1 | .noShape => 2
def plnCode : PlnState → Nat
  | .none => 0 | .checking => 1 | .validating => 2 | .applying => 3 | .applied => 4
def bootCode : BootState → Nat
  | .ready => 0 | .booting => 1 | .failed => 2
def refCode : RefState → Nat
  | .absent => 0 | .settling => 1 | .good => 2 | .failed => 3

/-! ID_ (R414) and OWN_ (R421). -/

def idLink (s : State) (m : Nat) : W32 :=
  if 2 ≤ m then 0
  else
    let f := getFn s m
    mkReg [(20, f.speed.toNat), (8, f.width.toNat), (1, b2n f.flit), (0, b2n s.pwr.linkMode)]

def ownStatus (s : State) : W32 :=
  let o := s.own
  mkReg [(28, ownCode o.state), (24, o.owner.val), (20, if o.state = .offered then o.target.val else 0), (0, o.gen.toNat)]

def readId (s : State) (m r : Nat) : W32 :=
  match r with
  | 0x000 => 0x0C120001
  | 0x004 => Config.stepping
  | 0x008 => mkReg [(2, b2n (isOwner s m)), (0, m)]
  | 0x00C => idLink s m
  | _ => 0

def winOf (s : State) (m : Nat) : W64 := if m < 2 then (getFn s m).win else 0

def readOwn (s : State) (m r : Nat) : W32 :=
  match r with
  | 0x000 => ownStatus s
  | 0x008 => mkReg [(0, s.own.timeout.toNat)]
  | 0x00C => lo32 (winOf s m)
  | 0x010 => hi32 (winOf s m)
  | _ => 0

/-! JQ_ and EVQ_ (R434). -/

def queueState (s : State) (x : Queue) : Nat :=
  if !x.enabled then 0 else if x.error ≠ 0 then 3 else if parked s x then 2 else 1

def readJq (s : State) (m r : Nat) : W32 :=
  let x := getQueue s (selQueue s m)
  match r with
  | 0x000 => mkReg [(0, selQueue s m)]
  | 0x004 => mkReg [(31, b2n x.enabled), (30, b2n x.event), (29, b2n x.link), (16, x.vector.toNat), (0, x.sizeLog2)]
  | 0x008 => lo32 x.base
  | 0x00C => hi32 x.base
  | 0x010 => mkReg [(16, x.head), (0, x.tail)]
  | 0x014 => mkReg [(28, queueState s x), (0, x.error.toNat)]
  | 0x018 => mkReg [(0, x.mask.toNat)]
  | 0x01C => mkReg [(16, x.timeUs.toNat), (0, x.count.toNat)]
  | 0x020 => x.lost
  | _ => 0

/-! PLN_ (R403) and SEC_ (R404). -/

def plnStatus (s : State) : W32 :=
  let n := ((curPlan s).map fun p => p.layouts.length - 1).getD 0
  mkReg [(28, plnCode s.pln.state), (27, b2n s.pln.cont), (20, s.stp.layout), (16, n), (8, s.pln.reason.toNat),
    (0, s.pln.section_ % 64)]

def readPln (s : State) (r : Nat) : W32 :=
  if 0x020 ≤ r ∧ r < 0x040 then digestWord (planDigest s) ((r - 0x020) / 4)
  else if 0x040 ≤ r ∧ r < 0x050 then digestWord (shapeId s) ((r - 0x040) / 4)
  else
    match r with
    | 0x004 => plnStatus s
    | 0x008 => lo32 s.pln.addr
    | 0x00C => hi32 s.pln.addr
    | 0x010 => s.pln.home
    | _ => 0

def secStatus (s : State) : W32 :=
  let x := s.sec
  let c := if x.ctlRead then chosenCtl s else { active := 0, trial := 0xFF, tries := 0 }
  mkReg [(28, bootCode x.boot), (27, b2n x.ident), (26, b2n x.owner.claimed), (25, b2n x.slot), (24, b2n x.copy),
    (23, b2n x.trialBoot), (22, b2n (trialSlot c).isSome), (20, b2n x.stage.isSome), (16, c.tries.toNat % 16), (0, x.fwReason.toNat)]

def readSec (s : State) (r : Nat) : W32 :=
  if 0x040 ≤ r ∧ r < 0x060 then digestWord s.sec.fwDigest ((r - 0x040) / 4)
  else if 0x060 ≤ r ∧ r < 0x080 then digestWord s.sec.mBoot ((r - 0x060) / 4)
  else if 0x080 ≤ r ∧ r < 0x0A0 then digestWord s.sec.mConf ((r - 0x080) / 4)
  else if 0x0A0 ≤ r ∧ r < 0x0C0 then digestWord s.sec.mPlan ((r - 0x0A0) / 4)
  else
    match r with
    | 0x004 => secStatus s
    | 0x008 => lo32 s.sec.fwAddr
    | 0x00C => hi32 s.sec.fwAddr
    | 0x010 => s.sec.svn
    | 0x014 => s.sec.fwVersion
    | 0x018 => s.sec.owner.minSvn
    | 0x01C => lo32 s.sec.owner.gen
    | 0x020 => hi32 s.sec.owner.gen
    | 0x024 => lo32 s.sec.serial
    | 0x028 => hi32 s.sec.serial
    | _ => 0

/-! CLK_ (R462) and PWR_ (R463). -/

def clkStatus (s : State) : W32 :=
  let x := s.clk
  mkReg [(28, refCode x.ref), (27, b2n x.resumePend), (26, b2n x.settleDef), (16, x.settle.toNat), (0, x.n0.toNat)]

def clkIsl (s : State) (i : IslandId) : W32 :=
  if (namedIslands s).contains i then
    (let x := getIsland s i
     mkReg [(30, x.mode.toNat), (29, b2n x.generator), (28, b2n x.lock), (26, x.last.toNat), (0, x.mhz)])
  else 0

def readClk (s : State) (m r : Nat) : W32 :=
  let sel := (getMaster s m).clkSel
  match r with
  | 0x000 => clkStatus s
  | 0x008 => mkReg [(24, sel.kind.toNat), (16, sel.die.toNat), (0, sel.unit.toNat)]
  | 0x00C => clkIsl s sel
  | 0x010 => s.clk.forced
  | 0x014 => s.clk.refFails
  | _ => 0

/-- Whether the cap lies below the plan's RUN_MHZ of some core island. -/
def capLimits (s : State) : Bool := (activeIslands s).any fun i => i.kind == 1 && decide (s.pwr.cap < planMhz s i)

def pwrStatus (s : State) : W32 :=
  let x := s.pwr
  mkReg [(28, if x.slack then (if x.timer || x.releasing then 2 else 1) else 0), (24, x.lastReset.toNat), (23, b2n (capLimits s)),
    (22, b2n x.high), (21, b2n x.causeThermal), (20, b2n x.causeSupply), (0, x.cap)]

def readPwr (s : State) (r : Nat) : W32 :=
  match r with
  | 0x000 => pwrStatus s
  | 0x008 => mkReg [(0, s.pwr.vin.toNat)]
  | 0x00C => mkReg [(0, s.pwr.iin.toNat)]
  | 0x010 => mkReg [(0, s.pwr.power.toNat)]
  | 0x014 => mkReg [(0, s.pwr.limit.toNat)]
  | 0x018 => s.pwr.slacks
  | 0x01C => mkReg [(0, s.pwr.temp.toNat)]
  | _ => 0

/-- A read of a sensor samples it: the value is the world's. -/
def sample (s : State) (off : Nat) : State :=
  match off with
  | 0x6008 => bumpFresh { s with pwr := { s.pwr with vin := BitVec.ofNat 16 (Config.sensor 0 s.fresh) } }
  | 0x600C => bumpFresh { s with pwr := { s.pwr with iin := BitVec.ofNat 16 (Config.sensor 1 s.fresh) } }
  | 0x601C => bumpFresh { s with pwr := { s.pwr with temp := BitVec.ofNat 8 (Config.sensor 2 s.fresh) } }
  | 0x7000 => bumpFresh s
  | _ => s

/-! HLD_ (R348). -/

def selSlot (s : State) (m : Nat) : Slot := getSlot s (getMaster s m).slotSel.toNat

def hldStatus (s : State) : W32 :=
  let h := s.hold
  let local_ := h.drain.any fun d => decide (d.point < 4)
  let sister := h.drain.any fun d => d.sister == .pending
  mkReg [(28, (h.cmd.map fun c => c.code).getD 0), (27, b2n local_), (26, b2n sister), (25, b2n h.replay.isSome),
    (24, b2n h.trace), (23, b2n h.sisterUp), (22, b2n h.restoreFailed),
    (8, if h.cmd.isSome then Config.sensor 3 s.fresh % 101 else 0)]

/-- Own log space not yet used since the oldest record that a sealed slot's coverage needs. -/
def logFree (s : State) : Nat :=
  let seqs := [0, 1].filterMap fun i =>
    let x := getSlot s i
    if x.st = .sealed ∧ x.cover then some (hdrLogSeq x.header).toNat else none
  match seqs with
  | [] => logBytes s
  | q :: qs =>
    let from_ := qs.foldl Nat.min q
    let used := ((s.hold.log.filter fun r => decide (from_ < r.seq.toNat)).map fun r => r.bytes.length).foldl (· + ·) 0
    logBytes s - used

/-- HLD_BOND_WEAR and HLD_BAL_WEAR: the mean P/E count rises by one per region's worth of bytes programmed, and the highest
stands a free distance above it. -/
def wearReg (base : W32) (region prog capacity : Nat) : W32 :=
  let mean := base.toNat % 2 ^ 16 + prog / capacity
  let top := Nat.max (base.toNat / 2 ^ 16) (mean + Config.wearSpread region prog)
  mkReg [(16, Nat.min top 0xFFFF), (0, Nat.min mean 0xFFFF)]

def readHld (s : State) (m r : Nat) : W32 :=
  let x := selSlot s m
  match r with
  | 0x000 => hldStatus s
  | 0x004 => mkReg [(0, (getMaster s m).slotSel.toNat)]
  | 0x008 => mkReg [(28, slotCode x.st), (27, b2n x.sisterOk), (26, b2n x.cover)]
  | 0x00C => lo32 (hdrStep x.header)
  | 0x010 => hi32 (hdrStep x.header)
  | 0x014 => lo32 s.hold.replayTo
  | 0x018 => hi32 s.hold.replayTo
  | 0x01C => lo32 s.hold.nextSeq
  | 0x020 => hi32 s.hold.nextSeq
  | 0x024 => lo32 s.hold.sisAcked
  | 0x028 => hi32 s.hold.sisAcked
  | 0x02C => BitVec.ofNat 32 (logFree s / 2 ^ 20)
  | 0x030 => wearReg s.hold.bondWear 0 s.hold.bondProg (2 ^ 41)
  | 0x034 => wearReg s.hold.balWear 1 s.hold.balProg (2 ^ 43)
  | 0x038 => mkReg [(0, s.hold.bucket / 2 ^ 20 % 2 ^ 20)]
  | 0x03C => BitVec.ofNat 32 (dirtyRows s)
  | 0x040 => s.hold.spareBlocks
  | 0x048 => s.hold.progFail
  | _ => 0

/-! FAB_ (R309). -/

def fabPstat (x : Port) : W32 :=
  mkReg [(28, portCode x.state), (24, if x.state = .up then x.width else 0), (16, b2n (x.spareTx || x.spareRx)),
    (0, (x.laneBadTx ||| x.laneBadRx).toNat)]

def fabShape (s : State) : W32 :=
  match curPlan s with
  | some p => mkReg [(12, p.shape.ez - 1), (6, p.shape.ey - 1), (0, p.shape.ex - 1)]
  | none => 0

/-- The port that a master selects: a reserved encoding never stands in FAB_SEL (R15). -/
def fabPort (s : State) (m : Nat) : Nat := (getMaster s m).fabSel.toNat

def readFab (s : State) (m r : Nat) : W32 :=
  let x := getPort s (fabPort s m)
  if 0x040 ≤ r ∧ r < 0x080 then
    (let a := getAlias s ((r - 0x040) / 8)
     if r % 8 = 0 then a.lo else a.hi)
  else
    match r with
    | 0x000 => if (curPlan s).isSome then mkReg [(0, s.fab.homeId.toNat)] else 0
    | 0x004 => fabShape s
    | 0x008 => mkReg [(0, fabPort s m)]
    | 0x00C => fabPstat x
    | 0x010 => mkReg [(18, x.peerPort.toNat), (0, x.peerId.toNat)]
    | 0x014 => x.corr
    | 0x018 => x.uncorr
    | 0x01C => x.replay
    | 0x024 => x.lost
    | _ => 0

/-! SPR_ (R364). -/

/-- How many groups have at least `n` units of a kind listed; a group is named by its die and by PUNIT over 2^`shift`. -/
def groupsUsed (es : List LedgerEnt) (kind n shift : Nat) : Nat :=
  let keys := (es.filter fun e => e.kind.toNat == kind).map fun e => (e.pdie.toNat, e.punit.toNat / 2 ^ shift)
  (keys.eraseDups.filter fun k => decide (n ≤ (keys.filter (· == k)).length)).length

def sprExhaust (s : State) : W32 :=
  let es := s.spr.entries
  mkReg [(20, groupsUsed es 0x01 2 23 % 4096), (13, groupsUsed es 0x02 1 29 % 128), (6, groupsUsed es 0x03 2 29 % 128),
    (2, groupsUsed es 0x05 1 32 % 16)]

def offerCore (s : State) : W32 :=
  let d := offerDies s.spr.entries
  let cl := (d.map fun x => x.cores.length).foldl (· + ·) 0
  let co := (d.map fun x => x.cores.foldl (· + ·) 0).foldl (· + ·) 0
  mkReg [(24, d.length), (16, cl), (0, co)]

/-- Whether a physical quay die has a pyramid unit in service. -/
def hasPyramid (es : List LedgerEnt) (die : Nat) : Bool := !(inService es 0x09 die 2 fun i => 3 * 16 + i).isEmpty

def offerIo (s : State) : W32 :=
  let es := s.spr.entries
  let st := ((offerDies es).map fun x => x.hbmStacks).foldl (· + ·) 0
  mkReg [(30, offerRails es), (16, st), (8, offerHold es), (0, ((quaysUp es).filter (hasPyramid es)).length)]

def sprStatus (s : State) : W32 :=
  let x := s.spr
  mkReg [(28, sprCode x.state), (26, x.lastKind.toNat), (25, b2n x.nextFull), (24, b2n x.nor0Ok), (23, b2n x.nor1Ok),
    (22, b2n x.bondOk), (0, x.added % 65536)]

def readSpr (s : State) (r : Nat) : W32 :=
  match r with
  | 0x000 => sprStatus s
  | 0x008 => lo32 s.spr.gen
  | 0x00C => hi32 s.spr.gen
  | 0x010 => if s.spr.offered then offerCore s else 0
  | 0x014 => if s.spr.offered then offerIo s else 0
  | 0x018 => sprExhaust s
  | 0x01C => mkReg [(0, s.spr.queue.length % 8192)]
  | 0x020 => s.spr.lastMs
  | _ => 0

/-! SLW_ (R213). -/

def selStreamIdx (s : State) (m : Nat) : Nat := streamIdx (getMaster s m).slwDie.toNat (getMaster s m).slwStream.toNat

def slwStateCode (s : State) (x : Stream) : Nat :=
  if x.invalid then 4
  else if suspended s then 3
  else if 64 ≤ x.window.length then 2
  else if (takeEntry x.queue).isSome || !x.window.isEmpty then 1
  else 0

def slwPos (x : Stream) : W32 :=
  let oldest := (x.queue.head?.map fun q => q.released).getD 0
  let next := match x.queue.find? fun q => decide (q.next < q.ents.length) with
    | some q => q.next
    | none => (x.queue.getLast?.map fun q => q.next).getD 0
  mkReg [(16, oldest % 65536), (0, next % 65536)]

def slwEngines (s : State) (die : Nat) : W32 :=
  let bits (k : Nat) : Nat := 2 ^ enginesUp s die k - 1
  mkReg [(10, bits 3), (8, bits 2), (4, bits 1), (0, bits 0)]

def readSlw (s : State) (m r : Nat) : W32 :=
  let x := getStream s (selStreamIdx s m)
  if 0x040 ≤ r ∧ r < 0x060 then digestWord x.mdigest ((r - 0x040) / 4)
  else
    match r with
    | 0x000 => mkReg [(4, (getMaster s m).slwDie.toNat), (0, (getMaster s m).slwStream.toNat)]
    | 0x004 => mkReg [(16, x.window.length % 256), (8, x.queue.length % 8), (0, slwStateCode s x)]
    | 0x008 => slwPos x
    | 0x00C => slwEngines s (getMaster s m).slwDie.toNat
    | 0x010 => lo32 x.samples
    | 0x014 => hi32 x.samples
    | 0x018 => x.concealed
    | 0x01C => x.overBudget
    | 0x020 => lo32 x.units
    | 0x024 => hi32 x.units
    | _ => 0

/-! STP_ (R251). -/

def stpStatus (s : State) : W32 :=
  let x := s.stp
  mkReg [(28, stepCode x.state), (27, b2n x.stopPend), (26, b2n s.hold.drain.isSome),
    (25, b2n (s.hold.drain.any fun d => d.bank)), (24, b2n x.bank), (12, b2n x.phase), (0, x.pass % 4096)]

def stpPolicy (s : State) : W32 :=
  match curPlan s with
  | some p => mkReg [(8, p.policy.snapEvery % 65536), (1, ((curLayout s).map fun l => l.runahead).getD 0 % 8), (0, b2n p.policy.skip)]
  | none => 0

def readStp (s : State) (r : Nat) : W32 :=
  if 0x030 ≤ r ∧ r < 0x040 then digestWord s.stp.tally ((r - 0x030) / 4)
  else
    match r with
    | 0x004 => stpStatus s
    | 0x008 => lo32 s.stp.c
    | 0x00C => hi32 s.stp.c
    | 0x010 => lo32 s.stp.a
    | 0x014 => hi32 s.stp.a
    | 0x018 => s.stp.last
    | 0x01C => s.stp.epoch
    | 0x020 => stpPolicy s
    | 0x024 => ((curPlan s).map fun p => p.policy.normLimit).getD 0
    | 0x028 => lo32 s.stp.normHi
    | 0x02C => hi32 s.stp.normHi
    | 0x040 => s.stp.skips
    | _ => 0

/-! MSI-X (R411). -/

def readMsix (s : State) (m r : Nat) : W32 := if m < 2 then msixDword (getFn s m) (r / 4) else 0

def readPba (s : State) (m r : Nat) : W32 :=
  if m < 2 ∧ r < 32 then
    mkReg ((List.range 32).map fun i => (i, b2n (smGet false (getFn s m).pba (8 * r + i))))
  else 0

/-! Reads (R12, R13, R410, R411). -/

/-- The current value of the register at an offset. Write-only registers, reserved ranges and offsets without a register
read as 0. -/
def regValue (s : State) (m off : Nat) : W32 :=
  let r := off % 4096
  match off / 4096 with
  | 0x0 => readId s m r
  | 0x1 => readOwn s m r
  | 0x2 => readJq s m r
  | 0x4 => readPln s r
  | 0x5 => readClk s m r
  | 0x6 => readPwr s r
  | 0x7 => readHld s m r
  | 0x8 => readFab s m r
  | 0x9 => readSpr s r
  | 0xA => readSlw s m r
  | 0xB => readStp s r
  | 0xC => readSec s r
  | 0xE => readMsix s m r
  | 0xF => readPba s m r
  | _ => 0

/-- The low halves of the pairs of R13. -/
def isLo (off : Nat) : Bool :=
  [0x100C, 0x2008, 0x4008, 0x700C, 0x7014, 0x701C, 0x7024, 0x9008, 0xA010, 0xA020, 0xB008, 0xB010, 0xB028, 0xC008, 0xC01C,
    0xC024].contains off || (decide (0x8040 ≤ off) && decide (off < 0x8080) && off % 8 == 0)

def setCapture (s : State) (m off : Nat) (v : W32) : State :=
  let x := getMaster s m
  setMaster s m { x with captured := (x.captured.filter fun p => p.1 != off) ++ [(off, v)] }
def popCapture (s : State) (m off : Nat) : State :=
  let x := getMaster s m
  setMaster s m { x with captured := x.captured.filter fun p => p.1 != off }
def captured (s : State) (m off : Nat) : Option W32 :=
  ((getMaster s m).captured.find? fun p => p.1 == off).map fun p => p.2

def updStream (s : State) (k : Nat) (f : Stream → Stream) : State := setStream s k (f (getStream s k))

/-- What an RC read by the owner clears. -/
def rcClear (s : State) (m off : Nat) : State :=
  match off with
  | 0x2020 => setQueue s (selQueue s m) { getQueue s (selQueue s m) with lost := 0 }
  | 0x5010 => { s with clk := { s.clk with forced := 0 } }
  | 0x5014 => { s with clk := { s.clk with refFails := 0 } }
  | 0x6018 => { s with pwr := { s.pwr with slacks := 0 } }
  | 0x7048 => { s with hold := { s.hold with progFail := 0 } }
  | 0x8014 => updPort s (fabPort s m) fun x => { x with corr := 0 }
  | 0x8018 => updPort s (fabPort s m) fun x => { x with uncorr := 0 }
  | 0x801C => updPort s (fabPort s m) fun x => { x with replay := 0 }
  | 0x8024 => updPort s (fabPort s m) fun x => { x with lost := 0 }
  | 0xA018 => updStream s (selStreamIdx s m) fun x => { x with concealed := 0 }
  | 0xA01C => updStream s (selStreamIdx s m) fun x => { x with overBudget := 0 }
  | 0xB040 => { s with stp := { s.stp with skips := 0 } }
  | _ => s

/-- A read of a register that answers: the value, and what the read changes. -/
def readCore (s : State) (m off : Nat) : State × W32 :=
  if isLo (off - 4) && (captured s m off).isSome then (popCapture s m off, (captured s m off).getD 0)
  else
    let s1 := sample s off
    let v := regValue (if off = 0x7000 then s else s1) m off
    let s2 := if isOwner s m then rcClear s1 m off else s1
    (if isLo off then setCapture s2 m (off + 4) (regValue s m (off + 4)) else s2, v)

/-- Whether an access reaches no register, without an event (R410, R415). Without a shape, and after a boot that failed, only
management ports are answered (R359, R371). -/
def accessDead (s : State) (m off : Nat) : Bool :=
  !masterExists s m ||
    (decide (s.sec.boot ≠ .ready) && (decide (s.spr.state = .noShape) || decide (s.sec.boot = .failed) || !earlyBlock off))

/-- An aligned read of BAR0. -/
def bar0Read (s : State) (m off : Nat) : State × W32 := if accessDead s m off then (s, 0xFFFFFFFF) else readCore s m off

def putRead (s : State) (m : Nat) (v : W32) : State := { s with bus := { s.bus with reads := s.bus.reads ++ [(m, v)] } }

/-- A PCIe read of a register: its value goes to the reader. A management port reads by messages. -/
def readReg (s : State) (m off : Nat) : State :=
  let r := bar0Read s m off
  putRead r.1 m r.2

/-- R12: an access that is no naturally aligned 32-bit access. -/
def misaligned (s : State) (m off : Nat) : State := raise s 0xC001 (masterSrc m) (toLe 1 m ++ toLe 4 off)
def alignedAccess (off size : Nat) : Bool := off % 4 == 0 && size == 4

/-- A PCIe read of BAR0: an aligned one reads its register. -/
def busRead (s : State) (m off size : Nat) : State :=
  let s1 := putRead s m 0xFFFFFFFF
  if alignedAccess off size then readReg s m off else if accessDead s m off then s1 else misaligned s1 m off

/-! Writes (R13–R15, R17, R419). -/

/-- Where a staged low half stands: the registers that are held per function or show a selected queue have one each. -/
def stageKey (s : State) (m off : Nat) : Nat :=
  if off = 0x100C then off + 2 ^ 24 * (m + 1)
  else if off = 0x2008 then off + 2 ^ 24 * (selQueue s m + 8)
  else off

def stageLo (s : State) (m off : Nat) (v : W32) : State :=
  { s with staged := smSet none s.staged (stageKey s m off) (some v) }

/-- R13: a write of a high half commits both; `cur` is the pair's current value. -/
def commitPair (s : State) (m loOff : Nat) (hi : W32) (cur : W64) (f : State → W64 → State) : State :=
  let k := stageKey s m loOff
  let lo := (smGet none s.staged k).getD (lo32 cur)
  f { s with staged := smDel s.staged k } (join64 hi lo)

def updMaster (s : State) (m : Nat) (f : Master → Master) : State := setMaster s m (f (getMaster s m))

/-- CMD in [3:0] of a control register; every other bit is ignored. -/
def cmdOf (v : W32) : Nat := v.toNat % 16

def writeOwn (s : State) (m : Fin 4) (r : Nat) (v : W32) : State :=
  match r with
  | 0x004 => writeOwnReq s m v
  | 0x008 => if v.toNat % 256 = 0 then s else { s with own := { s.own with timeout := v.setWidth 8 } }
  | 0x00C => if m.val < 2 then stageLo s m 0x100C v else s
  | 0x010 =>
    if m.val < 2 then
      commitPair s m 0x100C v (winOf s m) fun s w =>
        setFn s m { getFn s m with win := w &&& 0x0000FFFFC0000000 }
    else s
  | _ => s

def writeJq (s : State) (m r : Nat) (v : W32) : State :=
  let q := selQueue s m
  let x := getQueue s q
  match r with
  | 0x000 => updMaster s m fun y => { y with jqSel := v.setWidth 8 }
  | 0x004 => configQueue s q v
  | 0x008 => stageLo s m 0x2008 v
  | 0x00C =>
    commitPair s m 0x2008 v x.base fun s b =>
      if x.enabled then s else setQueue s q { x with base := b &&& 0xFFFFFFFFFFFFF000 }
  | 0x018 => if x.enabled then s else setQueue s q { x with mask := v.setWidth 16 }
  | 0x01C =>
    let y := { x with timeUs := (v >>> 16).setWidth 16, count := if v.toNat % 256 = 0 then x.count else v.setWidth 8 }
    let s1 := setQueue s q y
    if y.enabled && y.event && decide (y.count.toNat ≤ y.unsignalled) then evqSignal s1 q else s1
  | _ => s

def writePln (s : State) (m r : Nat) (v : W32) : State :=
  match r with
  | 0x000 => if cmdOf v = 1 then loadPlan s else s
  | 0x008 => stageLo s m 0x4008 v
  | 0x00C => commitPair s m 0x4008 v s.pln.addr fun s a => { s with pln := { s.pln with addr := a &&& 0x0000FFFFFFFFFFFF } }
  | 0x010 => { s with pln := { s.pln with home := v &&& 0x3FFFF } }
  | _ => s

/-- R15: a selector keeps the field that a reserved encoding names. -/
def writeClkSel (x : IslandId) (v : W32) : IslandId :=
  let k := v.toNat / 2 ^ 24 % 16
  let d := v.toNat / 2 ^ 16 % 16
  { kind := if 1 ≤ k ∧ k ≤ 10 then BitVec.ofNat 4 k else x.kind, die := if d ≤ 13 then BitVec.ofNat 4 d else x.die,
    unit := v.setWidth 16 }

def writeClk (s : State) (m r : Nat) (v : W32) : State :=
  match r with
  | 0x004 =>
    (match cmdOf v with
      | 1 => askSource s (getMaster s m).clkSel false
      | 2 => askSource s (getMaster s m).clkSel true
      | 3 => clkResume s
      | 4 => clkDiscard s
      | _ => s)
  | 0x008 => updMaster s m fun y => { y with clkSel := writeClkSel y.clkSel v }
  | _ => s

/-- PWR_CTRL RESET by a register write: what the device then shows to its boot is free. -/
def writePwr (s : State) (r : Nat) (v : W32) : State :=
  match r with
  | 0x004 => if cmdOf v = 1 then bumpFresh (deviceReset s 3 (Config.bootFacts s.fresh)) else s
  | 0x014 =>
    let w := v.toNat % 65536
    if 2000 ≤ w ∧ w ≤ 11000 then { s with pwr := { s.pwr with limit := v.setWidth 16 } } else s
  | _ => s

def writeHld (s : State) (m r : Nat) (v : W32) : State :=
  match r with
  | 0x004 => updMaster s m fun y => { y with slotSel := v.setWidth 2 }
  | 0x044 =>
    (match cmdOf v with
      | 1 => traceOn s
      | 2 => traceOff s
      | 3 => cancelCmd s
      | _ => s)
  | _ => s

def writeFab (s : State) (m r : Nat) (v : W32) : State :=
  if 0x040 ≤ r ∧ r < 0x080 then
    (if r % 8 = 0 then stageLo s m (0x8000 + r) v else commitAlias s ((r - 0x040) / 8) v)
  else
    match r with
    | 0x008 => updMaster s m fun y => { y with fabSel := if v.toNat % 16 < 12 then v.setWidth 4 else y.fabSel }
    | 0x020 =>
      (match cmdOf v with
        | 1 => portCommand s m retrainPort
        | 2 => portCommand s m disablePort
        | 3 => portCommand s m enablePort
        | _ => s)
    | _ => s

def writeSpr (s : State) (r : Nat) (v : W32) : State :=
  match r with
  | 0x004 => if cmdOf v = 1 then requestFull s true else if cmdOf v = 2 then requestFull s false else s
  | _ => s

def writeSlw (s : State) (m r : Nat) (v : W32) : State :=
  match r with
  | 0x000 =>
    let d := v.toNat / 16 % 16
    updMaster s m fun y => { y with slwDie := if d < 12 then BitVec.ofNat 4 d else y.slwDie, slwStream := v.setWidth 3 }
  | _ => s

def writeStp (s : State) (r : Nat) (v : W32) : State :=
  match r with
  | 0x000 =>
    (match cmdOf v with
      | 1 => stepStop s
      | 2 => startAbort s cHost
      | 3 => stepResume s
      | _ => s)
  | _ => s

def writeSec (s : State) (m r : Nat) (v : W32) : State :=
  match r with
  | 0x000 => if cmdOf v = 1 then stageFirmware s else if cmdOf v = 2 then clearTrial s else s
  | 0x008 => stageLo s m 0xC008 v
  | 0x00C => commitPair s m 0xC008 v s.sec.fwAddr fun s a => { s with sec := { s.sec with fwAddr := a &&& 0x0000FFFFFFFFFFFF } }
  | _ => s

/-- A write of the MSI-X table. A vector that is unmasked while its pending bit is set sends its message. -/
def writeMsix (s : State) (m r : Nat) (v : W32) : State :=
  if 2 ≤ m then s
  else
    let f := setMsixDword (getFn s m) (r / 4) (if r / 4 % 4 = 3 then v &&& 1 else v)
    let vec := r / 16
    if smGet false f.pba vec && !msixMasked f vec then msixSend (setFn s m { f with pba := smSet false f.pba vec false }) m vec
    else setFn s m f

/-- Registers that a master may write without ownership (R419). -/
def exemptOff (s : State) (m off : Nat) : Bool :=
  [0x1004, 0x2000, 0xA000, 0x8008, 0x7004, 0x5008].contains off ||
    (decide (m < 2) && ([0x100C, 0x1010].contains off || (decide (0xE000 ≤ off) && decide (off < 0x10000)))) ||
    (decide (0x10000 ≤ off) && decide (off < 0x110000) && off % 4096 == 0 && decide (m < 2) &&
      (let x := getQueue s ((off - 0x10000) / 4096)
       x.event && b2n x.link == m))

/-- The effect of an aligned write that is not refused. -/
def regStore (s : State) (m : Fin 4) (off : Nat) (v : W32) : State :=
  let r := off % 4096
  if 0x10000 ≤ off ∧ off < 0x110000 then
    (if r = 0 ∧ m.val < 2 then ringDoorbell s m ((off - 0x10000) / 4096) v else s)
  else
    match off / 4096 with
    | 0x1 => writeOwn s m r v
    | 0x2 => writeJq s m r v
    | 0x4 => writePln s m r v
    | 0x5 => writeClk s m r v
    | 0x6 => writePwr s r v
    | 0x7 => writeHld s m r v
    | 0x8 => writeFab s m r v
    | 0x9 => writeSpr s r v
    | 0xA => writeSlw s m r v
    | 0xB => writeStp s r v
    | 0xC => writeSec s m r v
    | 0xE => writeMsix s m r v
    | _ => s

/-- A write of BAR0 (R12, R410, R419). A misaligned one is told as misaligned-access alone, whoever sends it: which of R12 and R419
comes first the spec does not say (DESIGN CHOICE, log 99). -/
def bar0Write (s : State) (m : Fin 4) (off : Nat) (v : W32) (size : Nat) : State :=
  if accessDead s m off then s
  else if !alignedAccess off size then misaligned s m off
  else writeGate s m off (exemptOff s m off) fun s => regStore s m off v

/-- REGISTER_WRITE (R12, R17). -/
def execRegisterWrite (m : Fin 4) (off : BitVec 24) (v : W32) (size : Nat) (s : State) : Host.Outcome State Fault Refusal :=
  .next (bar0Write s m off.toNat v size)
/-- LO_READ_CAPTURE (R13): a 32-bit read; of a low half it captures the high half. -/
def execLoReadCapture (m : Fin 4) (off : BitVec 24) (s : State) : Host.Outcome State Fault Refusal :=
  .next (busRead s m.val off.toNat 4)
/-- MISALIGNED_BAR0_READ (R12). -/
def execMisalignedBar0Read (m : Fin 4) (off : BitVec 24) (size : Nat) (s : State) : Host.Outcome State Fault Refusal :=
  .next (busRead s m.val off.toNat size)
/-- SLW_CONCEALED (R213). -/
def execSlwConcealed (m : Fin 4) (s : State) : Host.Outcome State Fault Refusal := .next (readReg s m.val 0xA018)
/-- SLW_OVERBUDGET (R213). -/
def execSlwOverbudget (m : Fin 4) (s : State) : Host.Outcome State Fault Refusal := .next (readReg s m.val 0xA01C)
/-- STP_SKIPS (R251). -/
def execStpSkips (m : Fin 4) (s : State) : Host.Outcome State Fault Refusal := .next (readReg s m.val 0xB040)
/-- FAB_CORR (R309). -/
def execFabCorr (m : Fin 4) (s : State) : Host.Outcome State Fault Refusal := .next (readReg s m.val 0x8014)
/-- FAB_UNCORR (R309). -/
def execFabUncorr (m : Fin 4) (s : State) : Host.Outcome State Fault Refusal := .next (readReg s m.val 0x8018)
/-- FAB_REPLAY (R309). -/
def execFabReplay (m : Fin 4) (s : State) : Host.Outcome State Fault Refusal := .next (readReg s m.val 0x801C)
/-- FAB_LOST (R309). -/
def execFabLost (m : Fin 4) (s : State) : Host.Outcome State Fault Refusal := .next (readReg s m.val 0x8024)
/-- HLD_PROG_FAIL (R348). -/
def execHldProgFail (m : Fin 4) (s : State) : Host.Outcome State Fault Refusal := .next (readReg s m.val 0x7048)
/-- EVQ_LOST (R434). -/
def execEvqLost (m : Fin 4) (s : State) : Host.Outcome State Fault Refusal := .next (readReg s m.val 0x2020)
/-- CLK_FORCED (R462). -/
def execClkForced (m : Fin 4) (s : State) : Host.Outcome State Fault Refusal := .next (readReg s m.val 0x5010)
/-- CLK_REF_FAILS (R462). -/
def execClkRefFails (m : Fin 4) (s : State) : Host.Outcome State Fault Refusal := .next (readReg s m.val 0x5014)
/-- PWR_SLACKS (R463). -/
def execPwrSlacks (m : Fin 4) (s : State) : Host.Outcome State Fault Refusal := .next (readReg s m.val 0x6018)

end Sys2Proof.Machine
end

