-- ==== Sys2Proof/Machine/Messages.lean ====
section
/-! DEFINITION. Data objects over DOE, enrolment and attestation (spec R382–R386, R435), and the messages of the management
ports (spec R371, R420, R436–R438). -/
namespace Sys2Proof.Machine
open Sys2Proof

/-! Attestation (R386). -/

def reportBody (s : State) (nonce : Bytes) : Bytes :=
  let flags := b2n (curPlan s).isSome + 2 * b2n (claimed s) + 4 * b2n s.sec.trialBoot + 8 * b2n s.pln.cont
  let home := if (curPlan s).isSome then s.fab.homeId.toNat else 0
  sub (toLe 4 0x52414B4B ++ toLe 2 1 ++ toLe 2 flags ++ le64 s.sec.serial ++ le32 Config.stepping ++ le32 s.sec.svn ++
    sub nonce 0 32 ++ s.sec.mBoot ++ s.sec.mConf ++ s.sec.mPlan ++ s.sec.fwDigest ++ sub (planDigest s) 0 32 ++
    le64 s.spr.gen ++ le64 s.sec.owner.gen ++ toLe 4 home) 0 256

/-- The report, then the certificate. -/
def attestation (s : State) (nonce : Bytes) : Bytes :=
  let b := reportBody s nonce
  b ++ deviceSign s b ++ (deviceCert s).getD []

/-! Enrolment (R382–R384). -/

def enKind (b : Bytes) : Nat := byteAt b 6
def enNewSeal (b : Bytes) : Bool := byteAt b 7 == 1
def enGen (b : Bytes) : W64 := fld64 b 16
def enKey (b : Bytes) : Bytes := sub b 64 1793

/-- The fields that R382 fixes. -/
def enFormOk (b : Bytes) : Bool :=
  fld b 0 4 == 0x4E454B4B && fld b 4 2 == 1 && decide (byteAt b 7 ≤ 1) && zeros b 28 36 && zeros b 1857 63 && zeros b 3536 48 &&
    (enNewSeal b || (zeros b 1920 1568 && zeros b 3488 48)) && (enKind b != 3 || zeros b 64 1793)

/-- The seal secret that an enrolment delivers. -/
def enSecret (s : State) (b : Bytes) : Option Bytes :=
  (Config.decapsulate (kemSeed s.sec.secret) (sub b 1920 1568)).bind fun k =>
    Config.aesGcmOpen k (zeroBytes 12) [] (sub b 3488 32) (sub b 3520 16)

def enSigned (b key : Bytes) : Bool := sigOk key (sub b 0 3584) (sub b 3584 1536)

/-- The row of R383 for each kind. -/
def enKindOk (s : State) (b : Bytes) : Bool :=
  match enKind b with
  | 1 => !claimed s && !s.pln.everApplied && enNewSeal b && enSigned b (enKey b)
  | 2 => claimed s && decide (s.stp.state = .stopped) && enSigned b s.sec.owner.key
  | 3 => claimed s && !s.pln.everApplied && !enNewSeal b && enSigned b s.sec.releaseKey
  | _ => false

/-- R383; without an established identity every enrolment is refused (R379). -/
def enrolOk (s : State) (b : Bytes) : Bool :=
  let svn := fld b 24 4
  s.sec.ident && enFormOk b && fld64 b 8 == s.sec.serial && enGen b == s.sec.owner.gen + 1 &&
    decide (s.sec.owner.minSvn.toNat ≤ svn) && decide (svn ≤ s.sec.svn.toNat) && enKindOk s b &&
    (!enNewSeal b || (enSecret s b).isSome)

/-- A seal secret under the wrap key: the nonce is the device's own choice. -/
def wrapSeal (s : State) (secret : Bytes) : Bytes :=
  let nonce := sub (Config.freeBytes s.fresh 12) 0 12
  let (ct, tag) := Config.aesGcmSeal (wrapKey s) nonce [] secret
  nonce ++ sub ct 0 32 ++ sub tag 0 16

/-- The record after an enrolment. -/
def enrolled (s : State) (b : Bytes) : Owner :=
  let o := s.sec.owner
  let base : Owner := { o with claimed := true, gen := enGen b, minSvn := fld32 b 24, key := enKey b }
  match enKind b with
  | 3 => { Owner.init with gen := enGen b, minSvn := o.minSvn }
  | k =>
    match (if enNewSeal b then enSecret s b else none) with
    | some x =>
      { base with curId := (enGen b).setWidth 32, curWrap := wrapSeal s x,
                  prevId := if k = 1 then 0 else o.curId, prevWrap := if k = 1 then [] else o.curWrap }
    | none => base

/-- Point 2 of R384: slots, both logs, trace and Ballast. -/
def eraseHold (s : State) : State :=
  { s with hold := { s.hold with slots := [], log := [], nextSeq := 0, prevDigest := [], logPos := 0, sisLog := [], sisParts := [], sisAcks := [], ring := [],
                                 traceFrom := 0, traceUpto := 0, bal := [], planHome := 0 } }

/-- Points 2 to 4 of an accepted enrolment. -/
def enrolDevice (s : State) (b : Bytes) : State :=
  let o := enrolled s b
  let s1 := bumpFresh (if enKind b = 2 then s else eraseHold s)
  let s2 := writeOwner { s1 with sec := { s1.sec with owner := o } } (ownerBytes s o)
  raise s2 0xB004 srcDevice (toLe 1 (enKind b) ++ le64 o.gen)

/-! DOE (R435). -/

/-- An object arrives in a mailbox: busy while a PLAN_LOAD waits there, refused for a master that must own the device. -/
def doeObject (s : State) (fn type : Nat) (owner wellFormed : Bool) (f : State → State) : State :=
  if !masterExists s fn || decide (s.sec.boot ≠ .ready) then s
  else if (getFn s fn).doe.isSome then answerDoe s fn type 4 0 []
  else if !wellFormed then answerDoe s fn type 1 0 []
  else if owner && !isOwner s fn then answerDoe s fn type 2 0 []
  else f s

def doeEnrol (s : State) (fn : Nat) (b : Bytes) : State :=
  doeObject s fn 2 true (b.length == 5120) fun s =>
    if enrolOk s b then answerDoe (enrolDevice s b) fn 2 0 0 []
    else answerDoe (raise s 0xB104 srcDevice []) fn 2 3 0xB104 []

def doeAttest (s : State) (fn : Nat) (nonce : Bytes) : State :=
  doeObject s fn 1 false (nonce.length == 32) fun s =>
    if s.sec.ident then answerDoe s fn 1 0 0 (attestation s nonce) else answerDoe s fn 1 3 0 []

def segOk (b : Bytes) : Bool := decide (4 ≤ b.length) && decide (b.length ≤ 524288) && b.length % 4 == 0

/-- PLAN_SEG: as a BAR2 write of the same bytes. -/
def doePlanSeg (s : State) (fn : Nat) (a : W64) (b : Bytes) : State :=
  doeObject s fn 3 true (segOk b) fun s =>
    let s1 := hostWrite s fn a.toNat b
    if !hostMapped s a.toNat b.length then answerDoe s1 fn 3 3 0x2001 []
    else if !hostBankOk s a.toNat b.length then answerDoe s1 fn 3 3 0x4107 []
    else answerDoe s1 fn 3 0 0 []

/-- PLAN_LOAD: it is answered when the load ends. -/
def doePlanLoad (s : State) (fn : Nat) (a : W64) (home : W32) : State :=
  doeObject s fn 4 true true fun s =>
    let s1 := { s with pln := { s.pln with addr := a &&& 0x0000FFFFFFFFFFFF, home := home &&& 0x3FFFF } }
    let s2 := loadPlan s1
    if !loadRuns s1 && loadRuns s2 then setFn s2 fn { getFn s2 fn with doe := some [] }
    else answerDoe s2 fn 4 3 0xB101 []

/-- The objects that a mailbox supports, by their index of DOE Discovery: vendor and type. -/
def doeTypes : List (BitVec 16 × Nat) :=
  [(1, 0), (Config.vendorId, 1), (Config.vendorId, 2), (Config.vendorId, 3), (Config.vendorId, 4)]

/-- R359, R371: a device that failed to boot, or that offers no shape, answers nothing but reads of its management ports. -/
def talks (s : State) : Bool := decide (s.sec.boot ≠ .failed) && decide (s.spr.state ≠ .noShape)

/-- DOE Discovery: vendor ID, type, and the next index or 0. -/
def doeDiscover (s : State) (fn i : Nat) : State :=
  if !masterExists s fn || !isPowered s || !talks s then s
  else
    let b := match doeTypes[i]? with
      | some (v, t) => toLe 2 v.toNat ++ toLe 1 t ++ toLe 1 (if i < 4 then i + 1 else 0)
      | none => toLe 2 0xFFFF ++ [0, 0]
    { s with bus := { s.bus with doe := s.bus.doe ++ [(fn, b)] } }

/-- DOE Abort: the response that waits is discarded, and nothing else stops. -/
def abortDoe (s : State) (fn : Nat) : State := if masterExists s fn then setFn s fn { getFn s fn with doe := none } else s

/-! Management ports (R436–R438). -/

def putMctp (s : State) (p : Nat) (b : Bytes) : State := { s with bus := { s.bus with mctp := s.bus.mctp ++ [(p, b)] } }
/-- The response to a request: until it has been sent, the request is outstanding (R436). -/
def answerMsg (s : State) (p status : Nat) (body : Bytes) : State :=
  putMctp (setMgmt s p { getMgmt s p with busy := true }) p (toLe 1 status ++ body)

/-- R436: a request to a port that takes it in; while another is outstanding it is answered busy at once, and does nothing. -/
def takeMsg (s : State) (p : Nat) (takes : Bool) (f : State → State) : State :=
  if !takes then s else if (getMgmt s p).busy then putMctp s p [4] else f s

/-- A port that has its dynamic address on a powered device. -/
def portLive (s : State) (p : Nat) : Bool := isPowered s && (getMgmt s p).addr.isSome

/-- R359, R371, R438, R460: whether a port answers messages other than REG_READ and RECOVERY. -/
def portServes (s : State) (p : Nat) : Bool := portLive s p && decide (s.sec.boot = .ready)

/-- R359, R371, R460: whether a port answers MCTP control commands: not before the reference is good, as it then answers REG_READ
only, nor after a failed boot or without a shape. -/
def portTalks (s : State) (p : Nat) : Bool := portLive s p && talks s && decide (s.pwr.phase ≠ .powered)

/-- Blocks that a port's REG_READ reaches before boot is ready; `none` where every block is answered as R410 says. -/
def readBlocks (s : State) : Option (List Nat) :=
  if s.sec.boot = .failed then some [0x0, 0xC]
  else if s.spr.state = .noShape then some [0x0, 0x9]
  else if s.pwr.phase = .powered then some [0x0, 0xC, 0x5, 0x6]
  else none

/-- R438: offsets that a port never reaches. -/
def portBarred (off : Nat) : Bool := decide (0xE000 ≤ off) && decide (off < 0x110000)

/-- One register of a REG_READ. -/
def portReadOne (s : State) (p off : Nat) (direct : Bool) : State × W32 :=
  if off % 4 ≠ 0 then (misaligned s (2 + p) off, 0xFFFFFFFF)
  else if direct then readCore s (2 + p) off else bar0Read s (2 + p) off

def portReads : Nat → State → Nat → Nat → Bool → State × Bytes
  | 0, s, _, _, _ => (s, [])
  | n + 1, s, p, off, d =>
    let r := portReadOne s p off d
    let rest := portReads n r.1 p (off + 4) d
    (rest.1, le32 r.2 ++ rest.2)

/-- REG_READ. -/
def mgmtRead (s : State) (p off n : Nat) : State :=
  let offs := (List.range n).map fun i => off + 4 * i
  let takes := match readBlocks s with
    | some bs => offs.all fun o => bs.contains (o / 4096)
    | none => true
  takeMsg s p (portLive s p && takes) fun s =>
    if (readBlocks s).isSome then
      if n = 0 ∨ 64 < n then answerMsg s p 1 []
      else
        let r := portReads n s p off true
        answerMsg r.1 p 0 r.2
    else
      if n = 0 ∨ 64 < n ∨ 2 ^ 24 < off + 4 * n then answerMsg s p 1 []
      else if offs.any portBarred then answerMsg s p 3 []
      else
        let r := portReads n s p off false
        answerMsg r.1 p 0 r.2

def mgmtMaster (p : Fin 2) : Fin 4 := ⟨2 + p.val, by omega⟩

/-- REG_WRITE. -/
def mgmtWrite (s : State) (p : Fin 2) (off : Nat) (v : W32) : State :=
  takeMsg s p.val (portServes s p.val) fun s =>
    if portBarred off then answerMsg s p.val 3 []
    else
      let m := mgmtMaster p
      let ok := exemptOff s m.val off || isOwner s m.val
      answerMsg (bar0Write s m off v 4) p.val (if ok then 0 else 2) []

/-- JOB: an entry as if from queue 256 or 257. -/
def mgmtJob (s : State) (p : Nat) (b : Bytes) : State :=
  takeMsg s p (portServes s p) fun s =>
    if b.length ≠ 64 then answerMsg s p 1 []
    else if !isOwner s (2 + p) then answerMsg s p 2 []
    else
      let q := 256 + p
      let x := getQueue s q
      let j : JobEnt := { queue := q, index := 0, num := x.fetched, bytes := b, sub := false }
      answerMsg (acceptEntry (setQueue s q { x with fetched := x.fetched + 1 }) j) p 0 []

/-- EVENT_READ. -/
def mgmtEvents (s : State) (p n : Nat) : State :=
  takeMsg s p (portServes s p) fun s =>
    if n = 0 ∨ 16 < n then answerMsg s p 1 []
    else
      let x := getMgmt s p
      answerMsg (setMgmt s p { x with buf := x.buf.drop n }) p 0 (x.buf.take n).flatten

def mgmtKeepalive (s : State) (p : Nat) : State :=
  takeMsg s p (portServes s p) fun s => answerMsg s p 0 (le32 (ownStatus s))

def mgmtAttest (s : State) (p : Nat) (nonce : Bytes) : State :=
  takeMsg s p (portServes s p) fun s =>
    if nonce.length ≠ 32 then answerMsg s p 1 []
    else if s.sec.ident then answerMsg s p 0 (attestation s nonce)
    else answerMsg s p 3 []

def mgmtReclaim (s : State) (p : Nat) (b : Bytes) : State :=
  takeMsg s p (portServes s p) fun s =>
    let r := reclaim s p b
    answerMsg r.1 p (if r.2 then 0 else 3) []

/-- BOARD_WRITE: 256 bytes of the board record in both NOR copies. -/
def mgmtBoard (s : State) (p off : Nat) (b : Bytes) : State :=
  takeMsg s p (portServes s p) fun s =>
    if off % 256 ≠ 0 ∨ 3840 < off ∨ b.length ≠ 256 then answerMsg s p 1 []
    else if !(isOwner s (2 + p) || s.own.state == .vacant) then answerMsg s p 2 []
    else if (curPlan s).isSome then answerMsg s p 3 []
    else answerMsg (wrNor s off b) p 0 []

/-- RECOVERY: a package in pieces; the last piece checks it, against the MIN_SVN of the stored owner record, writes a valid one into slot A of both copies, and resets. While the
boot has not failed it is rejected. -/
def mgmtRecovery (s : State) (p off : Nat) (last : Bool) (b : Bytes) (f : BootFacts) : State :=
  takeMsg s p (portLive s p && (decide (s.sec.boot = .failed) || portServes s p)) fun s =>
    if s.sec.boot ≠ .failed then answerMsg s p 3 []
    else if 4096 < b.length ∨ 0x08000000 < off + b.length then answerMsg s p 1 []
    else
      let s1 := { s with sec := { s.sec with package := wr s.sec.package off b } }
      if !last then answerMsg s1 p 0 []
      else
        let pkg := readPackage fun o n => rd s1.sec.package o n
        if (pkgFault (storedMinSvn s1 f.holdMetaOk) pkg).isSome then deviceReset (answerMsg s1 p 3 []) 3 f
        else deviceReset (answerMsg (wrNor s1 (slotOff false) pkg) p 0 []) 3 f

/-- As time passes, the responses of the management ports have been sent (DESIGN CHOICE, log 115). -/
def sendResponses (s : State) : State :=
  if s.ports.any fun p => p.2.busy then { s with ports := smMapVal Mgmt.init s.ports fun x => { x with busy := false } } else s

/-! I3C and MCTP control (R436). Responses begin with the completion code of DSP0236. -/

def assignAddr (s : State) (p : Nat) (a : BitVec 7) : State :=
  if isPowered s then setMgmt s p { getMgmt s p with addr := some a } else s

def control (s : State) (p : Nat) (b : Bytes) : State := if portTalks s p then putMctp s p b else s

/-- SET_ENDPOINT_ID: 0x00 and 0xFF are no endpoint IDs. -/
def setEid (s : State) (p : Nat) (e : Byte) : State :=
  if !portTalks s p then s
  else if e = 0 ∨ e = 0xFF then putMctp s p [2]
  else putMctp (setMgmt s p { getMgmt s p with eid := e }) p [0, 0, e, 0]

/-- ENROL (R382–R384). -/
def execEnrol (fn : Fin 2) (b : Bytes) (s : State) : Host.Outcome State Fault Refusal := .next (doeEnrol s fn.val b)
/-- ATTEST (R386): masters 0 and 1 by DOE, 2 and 3 by message. -/
def execAttest (m : Fin 4) (nonce : Bytes) (s : State) : Host.Outcome State Fault Refusal :=
  .next (if m.val < 2 then doeAttest s m.val nonce else mgmtAttest s (m.val - 2) nonce)
/-- PLAN_SEG (R435). -/
def execPlanSeg (fn : Fin 2) (a : W64) (b : Bytes) (s : State) : Host.Outcome State Fault Refusal :=
  .next (doePlanSeg s fn.val a b)
/-- PLAN_LOAD (R435). -/
def execPlanLoad (fn : Fin 2) (a : W64) (home : W32) (s : State) : Host.Outcome State Fault Refusal :=
  .next (doePlanLoad s fn.val a home)
/-- DOE Discovery (R435). -/
def execDoeDiscovery (fn : Fin 2) (i : Byte) (s : State) : Host.Outcome State Fault Refusal :=
  .next (doeDiscover s fn.val i.toNat)
/-- DOE Abort (R435). -/
def execDoeAbort (fn : Fin 2) (s : State) : Host.Outcome State Fault Refusal := .next (abortDoe s fn.val)
/-- RECLAIM (R420). -/
def execReclaim (p : Fin 2) (b : Bytes) (s : State) : Host.Outcome State Fault Refusal := .next (mgmtReclaim s p.val b)
/-- REG_READ (R437). -/
def execRegRead (p : Fin 2) (off : BitVec 24) (n : Byte) (s : State) : Host.Outcome State Fault Refusal :=
  .next (mgmtRead s p.val off.toNat n.toNat)
/-- REG_WRITE (R437). -/
def execRegWrite (p : Fin 2) (off : BitVec 24) (v : W32) (s : State) : Host.Outcome State Fault Refusal :=
  .next (mgmtWrite s p off.toNat v)
/-- JOB (R437). -/
def execJob (p : Fin 2) (b : Bytes) (s : State) : Host.Outcome State Fault Refusal := .next (mgmtJob s p.val b)
/-- EVENT_READ (R437). -/
def execEventRead (p : Fin 2) (n : Byte) (s : State) : Host.Outcome State Fault Refusal := .next (mgmtEvents s p.val n.toNat)
/-- KEEPALIVE (R437). -/
def execKeepalive (p : Fin 2) (s : State) : Host.Outcome State Fault Refusal := .next (mgmtKeepalive s p.val)
/-- BOARD_WRITE (R437). -/
def execBoardWrite (p : Fin 2) (off : BitVec 16) (b : Bytes) (s : State) : Host.Outcome State Fault Refusal :=
  .next (mgmtBoard s p.val off.toNat b)
/-- RECOVERY (R371, R437). -/
def execRecovery (p : Fin 2) (off : W32) (last : Bool) (b : Bytes) (f : BootFacts) (s : State) :
    Host.Outcome State Fault Refusal :=
  .next (mgmtRecovery s p.val off.toNat last b f)
/-- ENTDAA (R436). -/
def execEntdaa (p : Fin 2) (a : BitVec 7) (s : State) : Host.Outcome State Fault Refusal := .next (assignAddr s p.val a)
/-- Get Endpoint ID (R436). -/
def execGetEndpointId (p : Fin 2) (s : State) : Host.Outcome State Fault Refusal :=
  .next (control s p.val [0, (getMgmt s p.val).eid, 0, 0])
/-- Set Endpoint ID (R436). -/
def execSetEndpointId (p : Fin 2) (e : Byte) (s : State) : Host.Outcome State Fault Refusal := .next (setEid s p.val e)
/-- Get MCTP Version Support (R436). -/
def execGetMctpVersionSupport (p : Fin 2) (s : State) : Host.Outcome State Fault Refusal :=
  .next (control s p.val ([0] ++ toLe 1 (Config.mctpVersions.length / 4) ++ Config.mctpVersions))
/-- Get Message Type Support (R436): the vendor-defined PCI type. -/
def execGetMessageTypeSupport (p : Fin 2) (s : State) : Host.Outcome State Fault Refusal := .next (control s p.val [0, 1, 0x7E])
/-- Get Vendor Defined Message Support (R436): one set, of Chofoun's PCI vendor ID. -/
def execGetVendorMessageSupport (p : Fin 2) (s : State) : Host.Outcome State Fault Refusal :=
  .next (control s p.val ([0, 0xFF, 0] ++ (toLe 2 Config.vendorId.toNat).reverse ++ [0, 0]))

end Sys2Proof.Machine
end

