-- ==== Sys2Proof/Machine/Background.lean ====
section
/-! DEFINITION. What goes on while no command waits: the operations that the spec runs over a time of their own (R375, R398). -/
namespace Sys2Proof.Machine
open Sys2Proof

/-- One passage of time: a plan load and a firmware update each go on by one point, the host configures what a reset
left, and the responses of the management ports have been sent (DESIGN CHOICE, log 106). -/
def background (s : State) : State := sendResponses (configureFns (fwStep (loadStep s)))

end Sys2Proof.Machine
end

