-- ==== Sys2Proof/Machine/Governor.lean ====
section
/-! DEFINITION. The tick of the breakwater governor (spec R454), and how an island enters deep-sleep (R181). -/
namespace Sys2Proof.Machine
open Sys2Proof

/-- An admitted transition takes effect. -/
def takeReq (s : State) (r : GovReq) : State :=
  let s1 := match r.mode with
    | some m => setIsland s r.island { getIsland s r.island with mode := m }
    | none => s
  let s2 := match r.clock with
    | some a => admitClock s1 r.island a
    | none => s1
  match r.startCore with
  | some c => updCore s2 c fun x => { x with idle := false, startAsked := false }
  | none => s2

/-- R181: whether no requester of an island has anything parked or presented at an arbiter. -/
def islandQuiet (s : State) (i : IslandId) : Bool :=
  s.arbs.all fun p => p.2.reqs.all fun r => reqIsland s (arbOfKey p.1) r.req != some i

/-- R181: the requests that wait: a step into deep-sleep while its island is not quiet, and what follows it on that island. -/
def heldReqs (s : State) (l : List GovReq) : List GovReq :=
  l.foldl (fun held r =>
    if (r.mode == some modeDeep && !islandQuiet s r.island) || held.any fun h => h.island == r.island then held ++ [r]
    else held) []

/-- The tick's admissions: the requests that take effect now, and those that wait. -/
def tickSplit (s : State) : List GovReq × List GovReq :=
  let held := heldReqs s s.clk.gov
  let r := admitReqs govBudget (s.clk.gov.filter fun r => !held.contains r)
  (r.1, r.2 ++ held)

/-- A tick: the switches that were admitted before complete, the ports whose islands are back train, the next requests are admitted, accesses that waited for a stack go on
(R445), a release of slack state whose ramp is over ends it (R457), and a RESUME that was held takes effect (R451). -/
def governorTick (s : State) : State :=
  let s1 := trainPorts s (finishSwitches s)
  takeResume (finishRelease (retryHost ((tickSplit s1).1.foldl takeReq { s1 with clk := { s1.clk with gov := (tickSplit s1).2 } })))

/-- GOVERNOR_TICK (R454). -/
def execGovernorTick (s : State) : Host.Outcome State Fault Refusal := .next (governorTick s)

end Sys2Proof.Machine
end

