-- ==== Sys2Proof/Machine/Mover.lean ====
section
/-! DEFINITION. Movers (spec R164–R168): validation, holds against movers in flight, the six operations, completion. -/
namespace Sys2Proof.Machine
open Sys2Proof

/-! Fields (R166). -/

def mOp (d : Bytes) : Nat := byteAt d 1
def mSigRemote (d : Bytes) : Bool := bitOf (byteAt d 2) 2 == 1
def mStop (d : Bytes) : Bool := bitOf (byteAt d 2) 3 == 1
def mBytes (d : Bytes) : Nat := fld d 4 4
def mRows (d : Bytes) : Nat := fld d 8 4
def mSrc (d : Bytes) : Nat := fld d 16 6
def mDst (d : Bytes) : Nat := fld d 24 6
def mSs (d : Bytes) : Nat := fld d 32 4
def mDs (d : Bytes) : Nat := fld d 36 4
def mAux (d : Bytes) : Nat := fld d 40 6
def mRemote (d : Bytes) : Nat := fld d 48 4
def mSig (d : Bytes) : Nat := byteAt d 57

def mIndexed (d : Bytes) : Bool := mOp d == 2 || mOp d == 3

/-- The bytes at AUX_ADDR: index list, pattern or result byte. -/
def mAuxLen (d : Bytes) : Nat :=
  match mOp d with
  | 2 => 4 * mRows d
  | 3 => 4 * mRows d
  | 4 => 16
  | 6 => 1
  | _ => 0

def readIdx (s : State) (d : Bytes) : List Nat := if mIndexed d then elems 4 (rdMem s (mAux d) (4 * mRows d)) (mRows d) else []

def idxRanges (base stride len : Nat) (idx : List Nat) : List (Nat × Nat) := idx.map fun i => (base + i * stride, len)

/-- R167: the rows that an operation reads at SRC and addresses at DST. -/
def mSrcRows (d : Bytes) (idx : List Nat) : List (Nat × Nat) :=
  match mOp d with
  | 1 => rowRanges (mSrc d) (mSs d) (mRows d) (mBytes d)
  | 2 => idxRanges (mSrc d) (mSs d) (mBytes d) idx
  | 3 => rowRanges (mSrc d) (mSs d) (mRows d) (mBytes d)
  | 6 => rowRanges (mSrc d) (mSs d) (mRows d) (mBytes d)
  | _ => []
def mDstRows (d : Bytes) (idx : List Nat) : List (Nat × Nat) :=
  match mOp d with
  | 1 => rowRanges (mDst d) (mDs d) (mRows d) (mBytes d)
  | 2 => rowRanges (mDst d) (mDs d) (mRows d) (mBytes d)
  | 3 => idxRanges (mDst d) (mDs d) (mBytes d) idx
  | 4 => rowRanges (mDst d) (mDs d) (mRows d) (mBytes d)
  | 6 => rowRanges (mDst d) (mDs d) (mRows d) (mBytes d)
  | _ => []

/-- R168, R483: the base address of an indexed operation, which is named and so tested though no row need lie there. -/
def mBases (d : Bytes) : List (Nat × Nat) :=
  match mOp d with
  | 2 => [(mSrc d, 1)]
  | 3 => [(mDst d, 1)]
  | _ => []

/-- What is written, by rows. COMPARE writes its result byte. -/
def mWrites (d : Bytes) (idx : List Nat) : List (Nat × Nat) := if mOp d = 6 then [(mAux d, 1)] else mDstRows d idx

/-- R168, R166: the form of a mover descriptor. -/
def mForm (d : Bytes) : Bool :=
  byteAt d 0 == 3 && decide (1 ≤ mOp d) && decide (mOp d ≤ 6) && decide (byteAt d 2 % 4 ≤ 2) && byteAt d 2 / 16 == 0 &&
    byteAt d 3 == 0 && decide (1 ≤ mBytes d) && decide (mBytes d ≤ 16777216) && decide (1 ≤ mRows d) &&
    decide (mRows d ≤ (if mIndexed d then 65536 else 16777216)) && zeros d 12 4 && addrOk d 16 && addrOk d 24 &&
    addrOk d 40 && mRemote d / 2 ^ 15 == 0 && decide (mRemote d / 2048 % 16 ≤ 11) && zeros d 52 4 &&
    ctrOk (byteAt d 56) && ctrOk (mSig d) && zeros d 60 4 &&
    (if mOp d = 4 then mAux d % 16 == 0 else mAuxLen d == 0 || mAux d % 4 == 0) &&
    (mOp d != 5 || (mBytes d == 1 && mRows d == 1))

/-- The placement conditions of R168. -/
def mPlace (s : State) (c : CoreId) (d : Bytes) (idx : List Nat) : Bool :=
  (!mStop d || mOp d == 6) &&
    (mOp d != 5 || (mSrc d == 0 && mDst d == 0 && mAux d == 0 && (mSig d != 0xFF || mSigRemote d))) &&
    ((mBases d ++ mSrcRows d idx ++ mDstRows d idx).all fun r => !inHoldWindow r.1 r.2) &&
    (mOp d != 4 || (mSrc d == 0 && mSs d == 0)) && (mOp d != 1 || mAux d == 0) &&
    (mAuxLen d == 0 || inCoreSram c (mAux d) (mAuxLen d)) &&
    (mOp d == 5 || decide (mBytes d ≤ mDs d) || mRows d == 1) &&
    !anyOverlap (mDstRows d idx) (mSrcRows d idx) &&
    (mOp d == 6 || mAuxLen d == 0 || !anyOverlap (mDstRows d idx) [(mAux d, mAuxLen d)]) &&
    (!mSigRemote d || remoteOk s (mRemote d))

def movCheck (s : State) (c : CoreId) (d : Bytes) (idx : List Nat) : Check :=
  let aux := if mAuxLen d = 0 then [] else [(mAux d, mAuxLen d)]
  check s (mForm d) (aux ++ mBases d ++ mSrcRows d idx ++ mDstRows d idx) (mPlace s c d idx) (mWrites d idx)

/-! Holds (R164). -/

/-- The bounding range of a descriptor's source, and those of its destination: the rows at DST_ADDR, also of a COMPARE, whose
result byte is a destination too (DEDUCED, log 76). -/
def mSrcBounds (d : Bytes) (idx : List Nat) : List (Nat × Nat) :=
  if (mSrcRows d idx).isEmpty then [] else [boundOf (mSrcRows d idx)]
def mDstBounds (d : Bytes) (idx : List Nat) : List (Nat × Nat) :=
  (if mOp d = 6 then [(mAux d, 1)] else []) ++ (if (mDstRows d idx).isEmpty then [] else [boundOf (mDstRows d idx)])

/-- Whether a descriptor must wait for a mover in flight. -/
def movHeld (x : Core) (d : Bytes) (idx : List Nat) : Bool :=
  x.movs.any fun m =>
    let dst := mDstBounds m.desc m.idx
    anyOverlap (mSrcBounds d idx ++ mDstBounds d idx) dst || anyOverlap (mDstBounds d idx) (mSrcBounds m.desc m.idx)

/-- Whether the index list itself must wait before it is read. -/
def listHeld (x : Core) (d : Bytes) : Bool :=
  mIndexed d && x.movs.any fun m => anyOverlap [(mAux d, mAuxLen d)] (mDstBounds m.desc m.idx)

/-- R445: whether a stack that a mover reads or writes holds new requests. -/
def movStackHeld (s : State) (d : Bytes) (idx : List Nat) : Bool := (mSrcRows d idx ++ mDstRows d idx).any fun r => hbmHolds s r.1 r.2

/-! The operations (R167). -/

/-- Byte j of a fill row is byte j mod 16 of the pattern. -/
def fillRow (pat : Bytes) (n : Nat) : Bytes := (List.range n).map fun j => pat.getD (j % 16) 0

/-- Rows copied in ascending i, every row read before any byte is written. -/
def copyRows (s : State) (src dst : List (Nat × Nat)) : State :=
  ((src.map fun r => rdMem s r.1 r.2).zip dst).foldl (fun s p => wrMem s p.2.1 p.1) s

/-- COMPARE: whether all bytes are equal. -/
def rowsEqual (s : State) (src dst : List (Nat × Nat)) : Bool :=
  (src.map fun r => rdMem s r.1 r.2) == (dst.map fun r => rdMem s r.1 r.2)

/-- The operation's writes, and whether a COMPARE found a difference. -/
def movEffect (s : State) (d : Bytes) (idx : List Nat) : State × Bool :=
  match mOp d with
  | 4 => ((mDstRows d idx).foldl (fun t r => wrMem t r.1 (fillRow (rdMem s (mAux d) 16) (mBytes d))) s, false)
  | 5 => (s, false)
  | 6 =>
    let eq := rowsEqual s (mSrcRows d idx) (mDstRows d idx)
    (wrMem s (mAux d) [if eq then 0 else 1], !eq)
  | _ => (copyRows s (mSrcRows d idx) (mDstRows d idx), false)

/-- The next mover of a core starts and writes all its rows; which writer's data a contested 16-byte unit keeps, R42 leaves open:
here the mover that starts later wins every unit (DESIGN CHOICE, log 98). It runs for the command of its operation code; an undefined code fails under any of them. A
COMPARE with STOP that finds a difference stops the program and aborts the attempt (R226). -/
def startMov (mop : Nat) (s : State) (c : CoreId) : State :=
  let x := getCore s c
  match x.movQ with
  | [] => s
  | e :: rest =>
    if suspended s || x.stopped || decide (4 ≤ x.movs.length) || !ready s x e then s
    else
      let d := desc64 s e
      if mOp d ≠ mop ∧ 1 ≤ mOp d ∧ mOp d ≤ 6 then s
      else if mForm d && listHeld x d then s
      else
        let idx := if mForm d then readIdx s d else []
        match movCheck s c d idx with
        | .ok =>
          if movHeld x d idx || movStackHeld s d idx then s
          else
            let (s1, diff) := movEffect s d idx
            let stop := diff && mStop d
            let run : MovRun := { desc := d, stop := stop, idx := idx, ord := e.ord }
            let s2 := setCore s1 c { consume x e with movQ := rest, movs := x.movs ++ [run], stopped := x.stopped || stop }
            if stop then
              startAbort (raise s2 0x4104 (srcCore c) []) cStale
            else s2
        | k => failCheck (setCore s c { x with movQ := rest }) c 0x2002 k

/-- R165: a mover in flight completes: SIG_CTR first, then the remote signal; a stopped COMPARE signals neither. -/
def completeMov (s : State) (c : CoreId) (slot : Nat) : State :=
  let x := getCore s c
  match x.movs[slot]? with
  | none => s
  | some m =>
    if suspended s || opStalled s c m.ord then s
    else
      let s1 := setCore s c { x with movs := dropAt x.movs slot }
      if m.stop then s1
      else
        let s2 := signalField s1 c (mSig m.desc)
        if mSigRemote m.desc then signalRemote s2 (mRemote m.desc) else s2

/-- COPY (R167). -/
def execCopy (c : CoreId) (s : State) : Host.Outcome State Fault Refusal := .next (startMov 1 s c)
/-- GATHER (R167). -/
def execGather (c : CoreId) (s : State) : Host.Outcome State Fault Refusal := .next (startMov 2 s c)
/-- SCATTER (R167). -/
def execScatter (c : CoreId) (s : State) : Host.Outcome State Fault Refusal := .next (startMov 3 s c)
/-- FILL (R167). -/
def execFill (c : CoreId) (s : State) : Host.Outcome State Fault Refusal := .next (startMov 4 s c)
/-- SIGNAL (R167). -/
def execSignal (c : CoreId) (s : State) : Host.Outcome State Fault Refusal := .next (startMov 5 s c)
/-- COMPARE (R167). -/
def execCompare (c : CoreId) (s : State) : Host.Outcome State Fault Refusal := .next (startMov 6 s c)
/-- MOVER_COMPLETE (R165). -/
def execMoverComplete (c : CoreId) (slot : Fin 4) (s : State) : Host.Outcome State Fault Refusal :=
  .next (completeMov s c slot.val)

end Sys2Proof.Machine
end

