-- ==== Sys2Proof/Machine/ParityOps.lean ====
section
/-! DEFINITION. Parity checks, replays and second failures (spec R172–R175, R351), refresh and scrubbing (R162). -/
namespace Sys2Proof.Machine
open Sys2Proof

/-- The program-order number of an operation in flight; of two tiles of one mode, the newer one makes the accesses. -/
def opOrd (s : State) (c : CoreId) : UnitOp → Option Nat
  | .tile m => ((getCore s c).tiles.filter fun t => t.mode == m).getLast?.map fun t => t.ord
  | .vector => (getCore s c).vec.map fun v => v.ord
  | .mover k => ((getCore s c).movs[k.val]?).map fun m => m.ord
  | .collective k => ((getCore s c).cols[k.val]?).map fun r => r.ord

def stallKey (s : State) (o : Option (CoreId × UnitOp)) : Option (Nat × Nat) :=
  o.bind fun p => (opOrd s p.1 p.2).map fun n => (coreIdx p.1, n)

/-- R173, R351: a replay that passes counts; the unit tells it once per step, and past 64 the location is queued. -/
def replayPassed (s : State) (p : ParityCase) : State :=
  let n := smGet 0 s.par.replays p.unit.toNat + 1
  let first := !s.par.raised.contains p.unit
  let s1 := { s with par := { s.par with replays := smSet 0 s.par.replays p.unit.toNat n,
                                         raised := if first then s.par.raised ++ [p.unit] else s.par.raised } }
  let s2 := if first then raise s1 0x2101 p.unit.toNat (memPay p.unit.toNat p.src.toNat) else s1
  if n = 65 then queueLocation s2 p.unit p.src.toNat 3 else s2

/-- R174: whether the failing unit's source or destination lies in a REGEN partition. -/
def workingCopy (s : State) (p : ParityCase) : Bool :=
  (regenPart s p.src.toNat).isSome || (regenPart s p.dst.toNat).isSome

/-- R175: the access stalls and the location is queued; a working copy waits for its rebuilding program, anything else is
lost, and so is a copy whose rebuilding program fails the same way. -/
def secondFailure (s : State) (p : ParityCase) : State :=
  let regen := workingCopy s p && !p.rebuilding
  let st : Stall := { unit := p.unit, addr := p.src.toNat, regen := regen, op := stallKey s p.op }
  let s1 := queueLocation { s with par := { s.par with stalls := s.par.stalls ++ [st] } } p.unit p.src.toNat 2
  if regen then s1 else dataLoss s1 p.unit p.src.toNat

/-- The rebuilding program ends: the copy has the bits it had (R71), and the stalled access goes on. -/
def regenDone (s : State) (addr : Nat) : State :=
  if suspended s then s
  else
    match s.par.stalls.find? fun p => p.regen && p.addr == addr with
    | none => s
    | some p =>
      raise { s with par := { s.par with stalls := s.par.stalls.erase p } } 0x2102 p.unit.toNat (memPay p.unit.toNat addr)

/-- The granules of a stack (R41): 512 bytes each. -/
def granules : Nat := stackBytes / 512

/-- R162: the scrubber's next granule; an uncorrectable error is a latent fault, and changes no data. -/
def scrub (s : State) (k : Nat) (bad : Bool) : State :=
  match stackPlace (curDies s) 0 k with
  | none => s
  | some (die, i) =>
    let pos := smGet 0 s.par.scrub k
    let addr := k * stackBytes + 512 * pos
    let unit := srcStack die i
    let s1 := { s with par := { s.par with scrub := smSet 0 s.par.scrub k ((pos + 1) % granules) } }
    if bad then
      queueLocation (raise s1 0x2104 unit (memPay unit addr)) (BitVec.ofNat 32 unit) addr 4
    else s1

/-- PARITY_REPLAY (R172–R175). -/
def execParityReplay (p : ParityCase) (s : State) : Host.Outcome State Fault Refusal :=
  .next (if p.second then secondFailure s p else replayPassed s p)

/-- REGENERATED (R175). -/
def execRegenerated (addr : BitVec 48) (s : State) : Host.Outcome State Fault Refusal := .next (regenDone s addr.toNat)

/-- HBM_REFRESH (R162): one per-bank refresh of a stack of the shape; no data changes. -/
def execHbmRefresh (stack : Fin 24) (s : State) : Host.Outcome State Fault Refusal :=
  .next (if stack.val < stackCount s then { s with par := { s.par with refresh := smUpd 0 s.par.refresh stack.val (· + 1) } }
         else s)

/-- SCRUB_READ (R162). -/
def execScrubRead (stack : Fin 24) (uncorrectable : Bool) (s : State) : Host.Outcome State Fault Refusal :=
  .next (scrub s stack.val uncorrectable)

end Sys2Proof.Machine
end

