-- ==== Sys2Proof/Machine/Window.lean ====
section
/-! DEFINITION. Window operators and post-processing (spec R146–R155). -/
namespace Sys2Proof.Machine
open Sys2Proof

/-! Fields of the window group (R135, R146). -/

def wIh (d : Bytes) : Nat := fld d 92 2
def wIw (d : Bytes) : Nat := fld d 94 2
def wC (d : Bytes) : Nat := fld d 96 2
def wFh (d : Bytes) : Nat := byteAt d 98
def wFw (d : Bytes) : Nat := byteAt d 99
def wSh (d : Bytes) : Nat := byteAt d 100
def wSw (d : Bytes) : Nat := byteAt d 101
def wDh (d : Bytes) : Nat := byteAt d 102
def wDw (d : Bytes) : Nat := byteAt d 103
def wPt (d : Bytes) : Nat := byteAt d 104
def wPb (d : Bytes) : Nat := byteAt d 105
def wPl (d : Bytes) : Nat := byteAt d 106
def wPr (d : Bytes) : Nat := byteAt d 107
def wPad (d : Bytes) : Nat := vCtrl d % 4
def wExcl (d : Bytes) : Bool := vCtrl d / 4 % 2 == 1
def wConst (d : Bytes) : Nat := fld d 112 4
def wLdx (d : Bytes) : Nat := fld d 116 4
def wLdo (d : Bytes) : Nat := fld d 120 4

/-- R147, R151: the output extent of an axis. -/
def wExtent (tconv : Bool) (i f st dil lo hi : Nat) : Nat :=
  if tconv then (i - 1) * st + dil * (f - 1) + 1 - lo - hi
  else
    let full := i + lo + hi
    let need := dil * (f - 1) + 1
    if full < need then 0 else (full - need) / st + 1

def wTconv (d : Bytes) : Bool := vOp d == 0x41
def wOh (d : Bytes) : Nat := wExtent (wTconv d) (wIh d) (wFh d) (wSh d) (wDh d) (wPt d) (wPb d)
def wOw (d : Bytes) : Nat := wExtent (wTconv d) (wIw d) (wFw d) (wSw d) (wDw d) (wPl d) (wPr d)

/-- R150: the input index that a coordinate on an axis of extent n reads, with whether the tap is padding; none for a
filled tap. -/
def wAxis (mode n : Nat) (p : Int) : Option Nat × Bool :=
  if 0 ≤ p ∧ p < (n : Int) then (some p.toNat, false)
  else
    match mode with
    | 2 =>
      if n = 1 then (some 0, true)
      else
        let q := (p % (2 * ((n : Int) - 1))).toNat
        (some (if q ≤ n - 1 then q else 2 * (n - 1) - q), true)
    | 3 => (some (if p < 0 then 0 else n - 1), true)
    | _ => (none, true)

/-- One tap of a window: filter position, the input it reads (none for a fill value), whether it is padding. -/
structure Tap where
  fy : Nat
  fx : Nat
  src : Option (Nat × Nat)
  pad : Bool
  deriving DecidableEq, Repr

/-- R147: the taps of an output in ascending fy, then fx. -/
def wTaps (d : Bytes) (oy ox : Nat) : List Tap :=
  (List.range (wFh d)).flatMap fun fy => (List.range (wFw d)).map fun fx =>
    let (y, py) := wAxis (wPad d) (wIh d) ((oy * wSh d + fy * wDh d : Nat) - (wPt d : Int))
    let (x, px) := wAxis (wPad d) (wIw d) ((ox * wSw d + fx * wDw d : Nat) - (wPl d : Int))
    { fy := fy, fx := fx, src := match y, x with
        | some a, some b => some (a, b)
        | _, _ => none,
      pad := py || px }

/-- R151: the pairs of a transposed convolution's output. -/
def wTtaps (d : Bytes) (oy ox : Nat) : List Tap :=
  (List.range (wFh d)).flatMap fun fy => (List.range (wFw d)).filterMap fun fx =>
    let ny := oy + wPt d
    let nx := ox + wPl d
    let ty := fy * wDh d
    let tx := fx * wDw d
    if ty ≤ ny ∧ tx ≤ nx ∧ (ny - ty) % wSh d = 0 ∧ (nx - tx) % wSw d = 0 ∧ (ny - ty) / wSh d < wIh d ∧
        (nx - tx) / wSw d < wIw d then
      some { fy := fy, fx := fx, src := some ((ny - ty) / wSh d, (nx - tx) / wSw d), pad := false }
    else none

/-- The address of input element (y, x, c). -/
def wInAddr (d : Bytes) (y x c : Nat) : Nat := vX d + y * wLdx d + (x * wC d + c) * vEx d

/-- The unscaled value of a tap (R150). -/
def wTapVal (s : State) (d : Bytes) (c : Nat) (t : Tap) : Num :=
  match t.src with
  | some (y, x) => decode (vTag (vTagX d)).fmt (rdElem s (wInAddr d y x c) (vEx d))
  | none => if wPad d = 1 then decode .fp32 (wConst d) else numZero

/-- The filter value at (fy, fx, c). -/
def wFilter (s : State) (d : Bytes) (fy fx c : Nat) : Num :=
  decode (vTag (vTagY d)).fmt (rdElem s (vY d + ((fy * wFw d + fx) * wC d + c) * vEy d) (vEy d))

/-- R62: of the flags that the products and additions of one element raised, those that stand: where the element is a NaN, NaN-in
if an operand was one, else invalid, and no other. -/
def elemFlags (nan : Bool) (fs : List Flags) : List Flags :=
  if nan then
    let keep := if fs.any fun f => f &&& flNanIn != 0 then flNanIn else flInv
    fs.map fun f => f &&& keep
  else fs

/-- CONV and TCONV of one output: the accumulator over its products, flags at the output index. -/
def convElem (s : State) (d : Bytes) (c idx : Nat) (taps : List Tap) (exc : ExcRec) : Acc × ExcRec :=
  let fp64 := (vTag (vTagX d)).fmt == .fp64 || (vTag (vTagY d)).fmt == .fp64
  let r := taps.foldl (fun (acc : Acc × List Flags) t =>
    let (p, f) := cellProduct fp64 (wTapVal s d c t) (wFilter s d t.fy t.fx c)
    let (a, g) := accAdd fp64 acc.1 p
    (a, acc.2 ++ [f ||| g])) (.empty, [])
  (r.1, (elemFlags (r.1 != .empty && isNan (accVal r.1)) r.2).foldl (fun e f => excNote e f idx) exc)

/-- The value of an accumulator that took no term is +0. -/
def accOr0 (a : Acc) : Num := if a = .empty then numZero else accVal a

/-- One output element of CONV, TCONV, MAXPOOL or AVGPOOL: its bits, its term count, the record. A pooled element whose result
is a NaN sets NaN-in, or invalid where its sum made the NaN, and no other flag (R62). -/
def winElem (s : State) (d : Bytes) (oy ox c : Nat) (exc : ExcRec) : Nat × Nat × ExcRec :=
  let idx := (oy * wOw d + ox) * wC d + c
  let tx := vTag (vTagX d)
  let ot := vTag (vTagO d)
  let sx := tagScale tx
  if vOp d = 0x40 ∨ vOp d = 0x41 then
    let taps := if wTconv d then wTtaps d oy ox else wTaps d oy ox
    let (a, e) := convElem s d c idx taps exc
    let (q, f) := writeVal ot (numMul (numMul (accOr0 a) sx).1 (tagScale (vTag (vTagY d)))).1
    (q, taps.length, excNote e f idx)
  else
    let taps := (wTaps d oy ox).filter fun t => !(wExcl d && t.pad)
    let vals := taps.map (wTapVal s d c)
    let nan := vals.any isNan
    let e1 := excNote exc (if nan then flNanIn else flIf (vals.any isInf) flInfIn) idx
    if vOp d = 0x42 then
      let v := match vals with
        | [] => numZero
        | x :: xs => xs.foldl numMax x
      let (q, f) := writeVal ot (numMul v sx).1
      (q, 0, excNote e1 f idx)
    else
      let fp64 := tx.fmt == .fp64
      let r := vals.foldl (fun (acc : Acc × ExcRec) v =>
        let (a, g) := accAdd fp64 acc.1 v
        (a, excNote acc.2 g idx)) (.empty, e1)
      let t := if wExcl d then taps.length else wFh d * wFw d
      let v := if t = 0 then numZero
        else (numDiv (numMul (accOr0 r.1) sx).1 (numMul (numOfNat t) (tagScale ot)).1).1
      let (q, f) := encodeOut ot.fmt ot.ovf v
      let e2 := if nan then e1 else if isNan v then excNote exc flInv idx else r.2
      (q, taps.length, excNote e2 f idx)

/-- R148: an empty output. -/
def wEmpty (d : Bytes) : Bool := wOh d == 0 || wOw d == 0

/-- R141: RES of a window operation: OW, OH and EMPTY. -/
def wRes (d : Bytes) : Nat := wOw d * 2 ^ 32 + wOh d * 2 ^ 16 + (if wEmpty d then 32 else 0)

/-- CONV, TCONV, MAXPOOL and AVGPOOL. -/
def winOut (s : State) (d : Bytes) : VOut :=
  let eo := tagSize (vTag (vTagO d))
  let r := (List.range (if wEmpty d then 0 else wOh d)).foldl (fun (acc : List (Nat × Bytes) × ExcRec) oy =>
    let row := (List.range (wOw d * wC d)).foldl (fun (a : List Nat × ExcRec) i =>
      let (q, n, e) := winElem s d oy (i / wC d) (i % wC d) a.2
      (a.1 ++ [q], { e with terms := Nat.max e.terms n })) ([], acc.2)
    (acc.1 ++ [(vOut d + oy * wLdo d, packRow eo row.1)], row.2)) ([], excFresh 2)
  { writes := r.1, exc := r.2, res := wRes d, scale := none }

/-- PATCH: the bits of each tap, or of the fill value, in row oy × OW + ox. -/
def patchOut (s : State) (d : Bytes) : VOut :=
  let ex := vEx d
  let f := (vTag (vTagX d)).fmt
  let width := wFh d * wFw d * wC d
  let r := (List.range (if wEmpty d then 0 else wOh d * wOw d)).foldl (fun (acc : List (Nat × Bytes) × ExcRec) k =>
    let taps := wTaps d (k / wOw d) (k % wOw d)
    let row := (List.range width).foldl (fun (a : List Nat × ExcRec) j =>
      let t := taps.getD (j / wC d) { fy := 0, fx := 0, src := none, pad := true }
      let c := j % wC d
      let q := match t.src with
        | some (y, x) => rdElem s (wInAddr d y x c) ex
        | none => if wPad d = 1 then (encodeOut f false (decode .fp32 (wConst d))).1 else 0
      let v := decode f q
      (a.1 ++ [q], excNote a.2 (flIf (isNan v) flNanIn ||| flIf (isInf v) flInfIn) (k * width + j))) ([], acc.2)
    (acc.1 ++ [(vOut d + k * wLdo d, packRow ex row.1)], row.2)) ([], excFresh 2)
  { writes := r.1, exc := r.2, res := wRes d, scale := none }

/-- R149: the indices of an input axis that a tap of some output reads; taps that are left out as padding read nothing. -/
def wAxisReads (d : Bytes) (n o f st dil lo : Nat) : List Nat :=
  let hits := (List.range o).flatMap fun k => (List.range f).filterMap fun t =>
    let (i, pad) := wAxis (wPad d) n ((k * st + t * dil : Nat) - (lo : Int))
    if wExcl d && pad then none else i
  (List.range n).filter hits.contains

/-- R151, R149: the indices of an input axis that some pair of a transposed convolution reads. -/
def wAxisTreads (n o f st dil lo : Nat) : List Nat :=
  (List.range n).filter fun i => (List.range f).any fun t => decide (lo ≤ i * st + t * dil ∧ i * st + t * dil < o + lo)

/-- R149: the input elements that a window operation reads, pixel by pixel; none where the output is empty. The mapping and region
tests of R483 and R136 look at these alone, and not at the whole extent of IH, IW, C and LDX (DESIGN CHOICE, log 112). -/
def wReads (d : Bytes) : VRange :=
  let ys := if wTconv d then wAxisTreads (wIh d) (wOh d) (wFh d) (wSh d) (wDh d) (wPt d)
    else wAxisReads d (wIh d) (wOh d) (wFh d) (wSh d) (wDh d) (wPt d)
  let xs := if wTconv d then wAxisTreads (wIw d) (wOw d) (wFw d) (wSw d) (wDw d) (wPl d)
    else wAxisReads d (wIw d) (wOw d) (wFw d) (wSw d) (wDw d) (wPl d)
  { addr := vX d, ctl := false, al := 1,
    rows := if wEmpty d then [] else ys.flatMap fun y => xs.map fun x => (wInAddr d y x 0, wC d * vEx d) }

/-- R146, R137: the window group's validation. COUNT has no meaning for this group and the spec gives it no range: any value
passes (DESIGN CHOICE, log 71). The computed OH and OW, and the conditions of R146 that tie PADMODE, EXCL_PAD and PAD_CONST to the
operation or the tag, are tested at placement (DESIGN CHOICE, log 77). PAD_CONST must be finite under every PADMODE, and exactly
representable for PATCH only where PADMODE 1 uses it (DESIGN CHOICE, log 112). -/
def winCheck (s : State) (c : CoreId) (d : Bytes) : Check :=
  let pos (v hi : Nat) : Bool := decide (1 ≤ v) && decide (v ≤ hi)
  let form := pos (wIh d) 65535 && pos (wIw d) 65535 && pos (wC d) 65535 && pos (wFh d) 31 &&
    pos (wFw d) (if wFh d = 1 then 255 else 31) && pos (wSh d) 16 && pos (wSw d) 16 && pos (wDh d) 16 && pos (wDw d) 16 &&
    vCtrl d / 8 == 0 && isFin (decode .fp32 (wConst d)) && zeros d 124 4 && !vConc d
  let isPatch := vOp d == 0x44
  let conv := vOp d == 0x40 || vOp d == 0x41
  let x := wReads d
  let y := vBlock (vY d) (if wEmpty d then 0 else wFh d * wFw d * wC d * vEy d) false 1
  let eo := tagSize (vTag (vTagO d))
  let rows := if isPatch then wOh d * wOw d else wOh d
  let len := if isPatch then wFh d * wFw d * wC d else wOw d * wC d
  let out := spanOf (vOut d) (wLdo d) (if wEmpty d then 0 else rows) len eo
  let repr := match encodeOut (vTag (vTagX d)).fmt false (decode .fp32 (wConst d)) with
    | (q, _) => numEq (decode (vTag (vTagX d)).fmt q) (decode .fp32 (wConst d))
  let place := strideOk (wLdx d) (wIw d * wC d) (vEx d) && strideOk (wLdo d) len eo &&
    (vOp d != 0x41 || wPad d == 0) && (!wExcl d || vOp d == 0x42 || vOp d == 0x43) &&
    decide (wOh d ≤ 65535) && decide (wOw d ≤ 65535) &&
    (!isPatch || (sub d 8 8 == sub d 24 8 && (wPad d != 1 || repr)))
  vCheck1 s c d form ([(x, false)] ++ (if conv then [(y, false)] else [])) out place

/-! ARGMAX (R153). -/

/-- The winning channel among values: a NaN ranks above every number, the lowest index wins among equals. -/
def argmaxGo : List Num → Nat → Nat → Num → Nat
  | [], _, best, _ => best
  | v :: vs, i, best, bv =>
    if !isNan bv && (isNan v || numLt bv v) then argmaxGo vs (i + 1) i v else argmaxGo vs (i + 1) best bv

def argmaxOut (s : State) (d : Bytes) : VOut :=
  let t := vTag (vTagX d)
  let r := (List.range (wIh d)).foldl (fun (acc : List (Nat × Bytes) × ExcRec) y =>
    let row := (List.range (wIw d)).foldl (fun (a : List Nat × ExcRec) x =>
      let vals := (List.range (wC d)).map fun c => valueOf t (rdElem s (wInAddr d y x c) (vEx d))
      let base := (y * wIw d + x) * wC d
      let best := argmaxGo (vals.drop 1) 1 0 (vals.getD 0 numZero)
      let e1 := match findIdx? isNan vals with
        | some i => excNote a.2 flNanIn (base + i)
        | none => a.2
      let e2 := (List.range (wC d)).foldl (fun e c => excNote e (flIf (isInf (vals.getD c numZero)) flInfIn) (base + c)) e1
      (a.1 ++ [best], e2)) ([], acc.2)
    (acc.1 ++ [(vOut d + y * wLdo d, packRow 2 row.1)], row.2)) ([], excFresh 2)
  { writes := r.1, exc := r.2, res := 0, scale := none }

/-- R153, R137: ARGMAX's validation. COUNT has no meaning for it and the spec gives it no range: any value passes (DESIGN
CHOICE, log 71). -/
def argmaxCheck (s : State) (c : CoreId) (d : Bytes) : Check :=
  let form := decide (1 ≤ wIh d) && decide (1 ≤ wIw d) && decide (1 ≤ wC d) && vCtrl d == 0 && zeros d 98 10 &&
    zeros d 112 4 && zeros d 124 4 && !vConc d
  let place := strideOk (wLdx d) (wIw d * wC d) (vEx d) && strideOk (wLdo d) (wIw d) 2
  vCheck1 s c d form [(spanOf (vX d) (wLdx d) (wIh d) (wIw d * wC d) (vEx d), false)]
    (spanOf (vOut d) (wLdo d) (wIh d) (wIw d) 2) place

/-! BOXDEC (R154) and SUPPRESS (R155). -/

/-- One FP32 step: a value rounded to FP32, with whether the step made a NaN. -/
def step32 (r : Num × Bool) : Num × Bool := (decode .fp32 (toFp32 r.1), r.2)
def add32 (a b : Num) : Num × Bool := step32 (numAdd a b)
def sub32 (a b : Num) : Num × Bool := step32 (numSub a b)
def mul32 (a b : Num) : Num × Bool := step32 (numMul a b)

/-- The exponential in FP32 (R144). -/
def exp32 (x : Num) : Num := (trValue 0x10 false x).1

/-- R154's parameters VXY, VWH and DWMAX. -/
def boxParams (d : Bytes) : List Num := (List.range 3).map fun k => decode .fp32 (fld d (92 + 4 * k) 4)

/-- R154 along one axis: anchor centre and size, offset, size offset; the two corners, unclamped and unrounded. -/
def boxAxis (d : Bytes) (ac as_ dx dw : Num) : Num × Num :=
  let p (k : Nat) : Num := (boxParams d).getD k numZero
  let cx := (add32 ac (mul32 (mul32 dx (p 0)).1 as_).1).1
  let w := (mul32 as_ (exp32 (numMin (mul32 dw (p 1)).1 (p 2)))).1
  let h := (mul32 (.fin false 1 (-1)) w).1
  ((numSub cx h).1, (numAdd cx h).1)

/-- A corner rounded to FP32 and clamped; the bits and the output flags. `past` marks an infinity that finite operands made. -/
def boxCorner (d : Bytes) (lim : Nat) (v : Num) (past : Bool) : Nat × Flags :=
  let (q, f0) := encodeOut .fp32 false v
  let f := flIf past flOovf ||| f0
  if vCtrl d % 2 = 1 then
    let x := decode .fp32 q
    let y := if isNan x then x else numMin (numMax x numZero) (numOfNat lim)
    (toFp32 y, if numEq x y then f else 0)
  else (q, f)

/-- One corner from its axis's operands as they were read: its bits and its flags under R62, each corner an element of its own and the
parameters among its operands (DESIGN CHOICE, log 70). A corner whose finite operands pass FP32's range in a step of R154 overflows. -/
def boxElem (d : Bytes) (lim : Nat) (v : Num) (ins : List Num) : Nat × Flags :=
  let ops := ins ++ boxParams d
  let (q, f) := boxCorner d lim v (isInf v && !ops.any isInf)
  (q, if isNan v then (if ops.any isNan then flNanIn else flInv) else flIf (ops.any isInf) flInfIn ||| f)

/-- BOXDEC of one candidate: four corners, and their flags at the candidate's index, each class once. -/
def boxOne (s : State) (d : Bytes) (i : Nat) (exc : ExcRec) : List Nat × ExcRec :=
  let t := vTag (vTagX d)
  let e := vEx d
  let raw := (List.range 4).map fun k => valueOf t (rdElem s (vX d + (4 * i + k) * e) e)
  let off := raw.map fun v => (step32 (v, false)).1
  let anc := (List.range 4).map fun k => decode .fp32 (rdElem s (vY d + 16 * i + 4 * k) 4)
  let g (l : List Num) (k : Nat) : Num := l.getD k numZero
  let (x1, x2) := boxAxis d (g anc 0) (g anc 2) (g off 0) (g off 2)
  let (y1, y2) := boxAxis d (g anc 1) (g anc 3) (g off 1) (g off 3)
  let xs := [g anc 0, g anc 2, g raw 0, g raw 2]
  let ys := [g anc 1, g anc 3, g raw 1, g raw 3]
  let cs := [boxElem d (fld d 104 2) x1 xs, boxElem d (fld d 106 2) y1 ys, boxElem d (fld d 104 2) x2 xs,
    boxElem d (fld d 106 2) y2 ys]
  (cs.map fun k => k.1, excNote exc (cs.foldl (fun f k => f ||| k.2) 0) i)

def boxdecOut (s : State) (d : Bytes) : VOut :=
  let r := (List.range (vCount d)).foldl (fun (acc : List Nat × ExcRec) i =>
    let (l, e) := boxOne s d i acc.2
    (acc.1 ++ l, e)) ([], excFresh 2)
  { writes := [(vOut d, packRow 4 r.1)], exc := r.2, res := 0, scale := none }

/-- BOXDEC's validation. That it writes FP32 is tested at placement (DESIGN CHOICE, log 77). -/
def boxdecCheck (s : State) (c : CoreId) (d : Bytes) : Check :=
  let n := vCount d
  let form := decide (1 ≤ n) && decide (n ≤ 65536) && decide (vCtrl d ≤ 1) && zeros d 112 16 && !vConc d
  let r (a len : Nat) : VRange × Bool := (vBlock a len false 1, false)
  vCheck1 s c d form [r (vX d) (4 * n * vEx d), r (vY d) (16 * n)] (vBlock (vOut d) (16 * n) false 1)
    ((vTag (vTagO d)).fmt == .fp32)

/-- The box of a candidate. -/
def boxAt (s : State) (d : Bytes) (i : Nat) : List Num :=
  (List.range 4).map fun k => decode .fp32 (rdElem s (vX d + 16 * i + 4 * k) 4)

def area32 (b : List Num) : Num :=
  let g (k : Nat) : Num := b.getD k numZero
  (mul32 (numMax numZero (sub32 (g 2) (g 0)).1) (numMax numZero (sub32 (g 3) (g 1)).1)).1

/-- R155: whether two boxes overlap beyond IOU_T. -/
def boxesOverlap (iou : Num) (a b : List Num) : Bool :=
  let g (l : List Num) (k : Nat) : Num := l.getD k numZero
  let side (lo hi : Nat) : Num :=
    numMax numZero (sub32 (numMin (g a hi) (g b hi)) (numMax (g a lo) (g b lo))).1
  let inter := (mul32 (side 0 2) (side 1 3)).1
  let union := (sub32 (add32 (area32 a) (area32 b)).1 inter).1
  numLt (mul32 iou union).1 inter

/-- A candidate's rank: NaN scores first, then descending scores, ties by index. -/
def scoreBefore (a b : Nat × Num) : Bool :=
  if isNan a.2 then !isNan b.2 || decide (a.1 < b.1)
  else if isNan b.2 then false
  else numLt b.2 a.2 || (numEq a.2 b.2 && decide (a.1 < b.1))

def insRank (x : Nat × Num) : List (Nat × Num) → List (Nat × Num)
  | [] => [x]
  | y :: ys => if scoreBefore x y then x :: y :: ys else y :: insRank x ys

/-- The kept candidates, in rank order, at most `topk`. -/
def keepGo (s : State) (d : Bytes) (iou : Num) (topk : Nat) : List (Nat × Num) → List Nat → List Nat
  | [], kept => kept
  | (i, _) :: rest, kept =>
    if kept.length = topk then kept
    else if kept.any fun j => boxesOverlap iou (boxAt s d i) (boxAt s d j) then keepGo s d iou topk rest kept
    else keepGo s d iou topk rest (kept ++ [i])

def suppressOut (s : State) (d : Bytes) : VOut :=
  let n := vCount d
  let topk := fld d 92 2
  let ty := vTag (vTagY d)
  let score (i : Nat) : Num := valueOf ty (rdElem s (vY d + i * vEy d) (vEy d))
  let thr := decode .fp32 (fld d 100 4)
  let cand := (List.range n).filterMap fun i =>
    let v := score i
    if isNan v || numLt thr v || numEq thr v then some (i, v) else none
  let kept := keepGo s d (decode .fp32 (fld d 96 4)) topk (cand.foldl (fun l x => insRank x l) []) []
  let out := kept ++ List.replicate (topk - kept.length) 0xFFFFFFFF
  let exc := (List.range n).foldl (fun e i =>
    let vs := score i :: boxAt s d i
    excNote e (flIf (vs.any isNan) flNanIn ||| flIf (vs.any isInf) flInfIn) i) (excFresh 2)
  { writes := [(vOut d, packRow 4 out)], exc := exc, res := kept.length * 2 ^ 16, scale := none }

def suppressCheck (s : State) (c : CoreId) (d : Bytes) : Check :=
  let n := vCount d
  let topk := fld d 92 2
  let form := decide (1 ≤ n) && decide (n ≤ 65536) && decide (1 ≤ topk) && decide (topk ≤ 4096) && zeros d 94 2 &&
    zeros d 104 4 && vCtrl d == 0 && zeros d 112 16 && !vConc d
  let r (a len : Nat) : VRange × Bool := (vBlock a len false 1, false)
  vCheck1 s c d form [r (vX d) (16 * n), r (vY d) (n * vEy d)] (vBlock (vOut d) (4 * topk) false 1) true

end Sys2Proof.Machine
end

