-- ==== Sys2Proof/Machine/Vector.lean ====
section
/-! DEFINITION. Vector operations (spec R129–R155): each starts at the head of its core's vector queue, writes its outputs,
and its completion writes its records and signals. -/
namespace Sys2Proof.Machine
open Sys2Proof

/-- The validation of a descriptor by its group. An undefined VOP fails in form. -/
def vecCheck (s : State) (c : CoreId) (d : Bytes) : Check :=
  match vGroup (vOp d) with
  | some .elementwise => ewCheck s c d
  | some .transcendental => ewCheck s c d
  | some .reduction => redCheck s c d
  | some .merge => mergeCheck s c d
  | some .convert => cvCheck s c d
  | some .digest => digestCheck s c d
  | some .window => winCheck s c d
  | some .argmax => argmaxCheck s c d
  | some .boxdec => boxdecCheck s c d
  | some .suppress => suppressCheck s c d
  | none => .invalid

/-- What the operation computes from the state it starts in. -/
def vecOut (s : State) (d : Bytes) : VOut :=
  match vGroup (vOp d) with
  | some .elementwise => ewOut s d
  | some .transcendental => trOut s d
  | some .reduction => redOut s d
  | some .merge => mergeOut s d
  | some .convert => cvOut s d
  | some .digest => digestOut s d
  | some .window => if vOp d = 0x44 then patchOut s d else winOut s d
  | some .argmax => argmaxOut s d
  | some .boxdec => boxdecOut s d
  | some .suppress => suppressOut s d
  | none => { writes := [], exc := excFresh 2, res := 0, scale := none }

/-- R126: whether the record is a final one. -/
def vecFinal (d : Bytes) : Bool :=
  match vGroup (vOp d) with
  | some .reduction => !vDeepOut d
  | some .merge => vCtrl d % 2 == 1
  | _ => true

/-- R142: the output tag: TAG_OUT, with the scale that was used. -/
def vecOtag (d : Bytes) (scale : Option Nat) : W64 :=
  match scale with
  | some sc => BitVec.ofNat 64 (fld d 24 4 + sc * 2 ^ 32)
  | none => fld64 d 24

def writeAll (s : State) (ws : List (Nat × Bytes)) : State := ws.foldl (fun s w => wrMem s w.1 w.2) s

/-- The head of a core's vector queue starts, for the command of its operation code; a code that no operation has fails
under any of them. -/
def startVec (vop : Nat) (s : State) (c : CoreId) : State :=
  let x := getCore s c
  match x.vecQ with
  | [] => s
  | e :: rest =>
    if suspended s || computeStopped s (coreIsland c) || x.idle || x.stopped || x.vec.isSome || !ready s x e then s
    else
      let d := desc128 s e
      if vOp d ≠ vop ∧ (vGroup (vOp d)).isSome then s
      else
        match vecCheck s c d with
        | .ok =>
          let o := vecOut s d
          let run : VecRun := { desc := d, exc := o.exc, res := BitVec.ofNat 64 o.res, otag := vecOtag d o.scale,
                                final := vecFinal d, ord := e.ord }
          writeAll (setCore s c { consume x e with vecQ := rest, vec := some run }) o.writes
        | k => failCheck (setCore s c { x with vecQ := rest }) c 0x1002 k

/-- R140: the record, the RES word and the output tag are written, then SIG_CTR is signalled. -/
def completeVec (s : State) (c : CoreId) : State :=
  let x := getCore s c
  match x.vec with
  | none => s
  | some v =>
    if opStalled s c v.ord then s
    else
      let d := v.desc
      let s1 := setCore s c { x with vec := none }
      let s2 := wrMem s1 (vExc d) (excBytes v.exc)
      let s3 := if vRes d = 0 then s2 else wrMem s2 (vRes d) (le64 v.res)
      let s4 := if vOtag d = 0 then s3 else wrMem s3 (vOtag d) (le64 v.otag)
      let s5 := if v.final then finalRecord s4 c v.exc (vExc d) else s4
      signalField s5 c (vSig d)

/-- ADD (R130). -/
def execAdd (c : CoreId) (s : State) : Host.Outcome State Fault Refusal := .next (startVec 0x01 s c)

/-- SUB (R130). -/
def execSub (c : CoreId) (s : State) : Host.Outcome State Fault Refusal := .next (startVec 0x02 s c)

/-- MUL (R130). -/
def execMul (c : CoreId) (s : State) : Host.Outcome State Fault Refusal := .next (startVec 0x03 s c)

/-- DIV (R130). -/
def execDiv (c : CoreId) (s : State) : Host.Outcome State Fault Refusal := .next (startVec 0x04 s c)

/-- SQRT (R130). -/
def execSqrt (c : CoreId) (s : State) : Host.Outcome State Fault Refusal := .next (startVec 0x05 s c)

/-- FMA (R134). -/
def execFma (c : CoreId) (s : State) : Host.Outcome State Fault Refusal := .next (startVec 0x06 s c)

/-- MIN (R131). -/
def execMin (c : CoreId) (s : State) : Host.Outcome State Fault Refusal := .next (startVec 0x07 s c)

/-- MAX (R131). -/
def execMax (c : CoreId) (s : State) : Host.Outcome State Fault Refusal := .next (startVec 0x08 s c)

/-- CMP (R134). -/
def execCmp (c : CoreId) (s : State) : Host.Outcome State Fault Refusal := .next (startVec 0x09 s c)

/-- ABS (R134). -/
def execAbs (c : CoreId) (s : State) : Host.Outcome State Fault Refusal := .next (startVec 0x0A s c)

/-- NEG (R134). -/
def execNeg (c : CoreId) (s : State) : Host.Outcome State Fault Refusal := .next (startVec 0x0B s c)

/-- SCALE (R134). -/
def execScale (c : CoreId) (s : State) : Host.Outcome State Fault Refusal := .next (startVec 0x0C s c)

/-- EXP (R144). -/
def execExp (c : CoreId) (s : State) : Host.Outcome State Fault Refusal := .next (startVec 0x10 s c)

/-- LOG (R144). -/
def execLog (c : CoreId) (s : State) : Host.Outcome State Fault Refusal := .next (startVec 0x11 s c)

/-- TANH (R144). -/
def execTanh (c : CoreId) (s : State) : Host.Outcome State Fault Refusal := .next (startVec 0x12 s c)

/-- SIGMOID (R144). -/
def execSigmoid (c : CoreId) (s : State) : Host.Outcome State Fault Refusal := .next (startVec 0x13 s c)

/-- RSQRT (R144). -/
def execRsqrt (c : CoreId) (s : State) : Host.Outcome State Fault Refusal := .next (startVec 0x14 s c)

/-- RECIP (R144). -/
def execRecip (c : CoreId) (s : State) : Host.Outcome State Fault Refusal := .next (startVec 0x15 s c)

/-- SIN (R144). -/
def execSin (c : CoreId) (s : State) : Host.Outcome State Fault Refusal := .next (startVec 0x16 s c)

/-- COS (R144). -/
def execCos (c : CoreId) (s : State) : Host.Outcome State Fault Refusal := .next (startVec 0x17 s c)

/-- ERF (R144). -/
def execErf (c : CoreId) (s : State) : Host.Outcome State Fault Refusal := .next (startVec 0x18 s c)

/-- GELU (R144). -/
def execGelu (c : CoreId) (s : State) : Host.Outcome State Fault Refusal := .next (startVec 0x19 s c)

/-- SUM (R145). -/
def execSum (c : CoreId) (s : State) : Host.Outcome State Fault Refusal := .next (startVec 0x20 s c)

/-- SUMSQ (R145). -/
def execSumsq (c : CoreId) (s : State) : Host.Outcome State Fault Refusal := .next (startVec 0x21 s c)

/-- MAX reduction (R145). -/
def execMaxReduction (c : CoreId) (s : State) : Host.Outcome State Fault Refusal := .next (startVec 0x22 s c)

/-- MIN reduction (R145). -/
def execMinReduction (c : CoreId) (s : State) : Host.Outcome State Fault Refusal := .next (startVec 0x23 s c)

/-- AMAX (R145). -/
def execAmax (c : CoreId) (s : State) : Host.Outcome State Fault Refusal := .next (startVec 0x24 s c)

/-- MERGE (R116, R145). -/
def execMerge (c : CoreId) (s : State) : Host.Outcome State Fault Refusal := .next (startVec 0x25 s c)

/-- CONVERT (R64). -/
def execConvert (c : CoreId) (s : State) : Host.Outcome State Fault Refusal := .next (startVec 0x30 s c)

/-- DIGEST (R237). -/
def execDigest (c : CoreId) (s : State) : Host.Outcome State Fault Refusal := .next (startVec 0x31 s c)

/-- CONV (R150). -/
def execConv (c : CoreId) (s : State) : Host.Outcome State Fault Refusal := .next (startVec 0x40 s c)

/-- TCONV (R151). -/
def execTconv (c : CoreId) (s : State) : Host.Outcome State Fault Refusal := .next (startVec 0x41 s c)

/-- MAXPOOL (R150). -/
def execMaxpool (c : CoreId) (s : State) : Host.Outcome State Fault Refusal := .next (startVec 0x42 s c)

/-- AVGPOOL (R150). -/
def execAvgpool (c : CoreId) (s : State) : Host.Outcome State Fault Refusal := .next (startVec 0x43 s c)

/-- PATCH (R150). -/
def execPatch (c : CoreId) (s : State) : Host.Outcome State Fault Refusal := .next (startVec 0x44 s c)

/-- ARGMAX (R153). -/
def execArgmax (c : CoreId) (s : State) : Host.Outcome State Fault Refusal := .next (startVec 0x50 s c)

/-- BOXDEC (R154). -/
def execBoxdec (c : CoreId) (s : State) : Host.Outcome State Fault Refusal := .next (startVec 0x51 s c)

/-- SUPPRESS (R155). -/
def execSuppress (c : CoreId) (s : State) : Host.Outcome State Fault Refusal := .next (startVec 0x52 s c)

/-- VECTOR_COMPLETE (R140). -/
def execVectorComplete (c : CoreId) (s : State) : Host.Outcome State Fault Refusal := .next (completeVec s c)

end Sys2Proof.Machine
end

