-- ==== Sys2Proof/Machine/Dispatch.lean ====
section
/-! DEFINITION. The dispatcher: one arm per command, each a direct call of its meaning. -/
namespace Sys2Proof.Machine
open Sys2Proof

def exec (i : Instr) (s : State) : Host.Outcome State Fault Refusal :=
  match i with
  | .descriptorIssue core => Sys2Proof.Machine.execDescriptorIssue core s
  | .tile core => Sys2Proof.Machine.execTile core s
  | .spill core mode => Sys2Proof.Machine.execSpill core mode s
  | .tileComplete core mode => Sys2Proof.Machine.execTileComplete core mode s
  | .add core => Sys2Proof.Machine.execAdd core s
  | .sub core => Sys2Proof.Machine.execSub core s
  | .mul core => Sys2Proof.Machine.execMul core s
  | .div core => Sys2Proof.Machine.execDiv core s
  | .sqrt core => Sys2Proof.Machine.execSqrt core s
  | .fma core => Sys2Proof.Machine.execFma core s
  | .min core => Sys2Proof.Machine.execMin core s
  | .max core => Sys2Proof.Machine.execMax core s
  | .cmp core => Sys2Proof.Machine.execCmp core s
  | .abs core => Sys2Proof.Machine.execAbs core s
  | .neg core => Sys2Proof.Machine.execNeg core s
  | .scale core => Sys2Proof.Machine.execScale core s
  | .exp core => Sys2Proof.Machine.execExp core s
  | .log core => Sys2Proof.Machine.execLog core s
  | .tanh core => Sys2Proof.Machine.execTanh core s
  | .sigmoid core => Sys2Proof.Machine.execSigmoid core s
  | .rsqrt core => Sys2Proof.Machine.execRsqrt core s
  | .recip core => Sys2Proof.Machine.execRecip core s
  | .sin core => Sys2Proof.Machine.execSin core s
  | .cos core => Sys2Proof.Machine.execCos core s
  | .erf core => Sys2Proof.Machine.execErf core s
  | .gelu core => Sys2Proof.Machine.execGelu core s
  | .sum core => Sys2Proof.Machine.execSum core s
  | .sumsq core => Sys2Proof.Machine.execSumsq core s
  | .maxReduction core => Sys2Proof.Machine.execMaxReduction core s
  | .minReduction core => Sys2Proof.Machine.execMinReduction core s
  | .amax core => Sys2Proof.Machine.execAmax core s
  | .merge core => Sys2Proof.Machine.execMerge core s
  | .convert core => Sys2Proof.Machine.execConvert core s
  | .digest core => Sys2Proof.Machine.execDigest core s
  | .conv core => Sys2Proof.Machine.execConv core s
  | .tconv core => Sys2Proof.Machine.execTconv core s
  | .maxpool core => Sys2Proof.Machine.execMaxpool core s
  | .avgpool core => Sys2Proof.Machine.execAvgpool core s
  | .patch core => Sys2Proof.Machine.execPatch core s
  | .argmax core => Sys2Proof.Machine.execArgmax core s
  | .boxdec core => Sys2Proof.Machine.execBoxdec core s
  | .suppress core => Sys2Proof.Machine.execSuppress core s
  | .vectorComplete core => Sys2Proof.Machine.execVectorComplete core s
  | .copy core => Sys2Proof.Machine.execCopy core s
  | .gather core => Sys2Proof.Machine.execGather core s
  | .scatter core => Sys2Proof.Machine.execScatter core s
  | .fill core => Sys2Proof.Machine.execFill core s
  | .signal core => Sys2Proof.Machine.execSignal core s
  | .compare core => Sys2Proof.Machine.execCompare core s
  | .moverComplete core slot => Sys2Proof.Machine.execMoverComplete core slot s
  | .tokenSignal core ctr => Sys2Proof.Machine.execTokenSignal core ctr s
  | .fwdEnd core => Sys2Proof.Machine.execFwdEnd core s
  | .passEnd core => Sys2Proof.Machine.execPassEnd core s
  | .reduceScatter core => Sys2Proof.Machine.execReduceScatter core s
  | .allReduce core => Sys2Proof.Machine.execAllReduce core s
  | .reduce core => Sys2Proof.Machine.execReduce core s
  | .allGather core => Sys2Proof.Machine.execAllGather core s
  | .broadcast core => Sys2Proof.Machine.execBroadcast core s
  | .ringStep core => Sys2Proof.Machine.execRingStep core s
  | .ringCredit core sched round seq => Sys2Proof.Machine.execRingCredit core sched round seq s
  | .collectiveComplete core slot => Sys2Proof.Machine.execCollectiveComplete core slot s
  | .arbiterGrant arb arrivals => Sys2Proof.Machine.execArbiterGrant arb arrivals s
  | .quotaWindow arb => Sys2Proof.Machine.execQuotaWindow arb s
  | .islandMask arb req cond => Sys2Proof.Machine.execIslandMask arb req cond s
  | .parityReplay p => Sys2Proof.Machine.execParityReplay p s
  | .regenerated addr => Sys2Proof.Machine.execRegenerated addr s
  | .hbmRefresh stack => Sys2Proof.Machine.execHbmRefresh stack s
  | .scrubRead stack uncorrectable => Sys2Proof.Machine.execScrubRead stack uncorrectable s
  | .manifestValidation die stream => Sys2Proof.Machine.execManifestValidation die stream s
  | .sampleAdmit die stream => Sys2Proof.Machine.execSampleAdmit die stream s
  | .engineGrant die kind engine => Sys2Proof.Machine.execEngineGrant die kind engine s
  | .sampleReady die kind engine fetched => Sys2Proof.Machine.execSampleReady die kind engine fetched s
  | .release die stream => Sys2Proof.Machine.execRelease die stream s
  | .passRunStart core => Sys2Proof.Machine.execPassRunStart core s
  | .ballastPageIn => Sys2Proof.Machine.execBallastPageIn s
  | .replicaReduction regions normSeq => Sys2Proof.Machine.execReplicaReduction regions normSeq s
  | .updateStart => Sys2Proof.Machine.execUpdateStart s
  | .updateComplete => Sys2Proof.Machine.execUpdateComplete s
  | .tally txn => Sys2Proof.Machine.execTally txn s
  | .repairComplete shards dataLoss => Sys2Proof.Machine.execRepairComplete shards dataLoss s
  | .snapshotLocalSeal => Sys2Proof.Machine.execSnapshotLocalSeal s
  | .snapshotRelease => Sys2Proof.Machine.execSnapshotRelease s
  | .abortCause cause => Sys2Proof.Machine.execAbortCause cause s
  | .abortComplete => Sys2Proof.Machine.execAbortComplete s
  | .commit txn => Sys2Proof.Machine.execCommit txn s
  | .verdictUp txn => Sys2Proof.Machine.execVerdictUp txn s
  | .verdictDown txn => Sys2Proof.Machine.execVerdictDown txn s
  | .abort txn => Sys2Proof.Machine.execAbort txn s
  | .reshard => Sys2Proof.Machine.execReshard s
  | .lockDrained => Sys2Proof.Machine.execLockDrained s
  | .drained txn => Sys2Proof.Machine.execDrained txn s
  | .closed txn => Sys2Proof.Machine.execClosed txn s
  | .permutePuts => Sys2Proof.Machine.execPermutePuts s
  | .permuteComplete => Sys2Proof.Machine.execPermuteComplete s
  | .permuted txn => Sys2Proof.Machine.execPermuted txn s
  | .advance txn => Sys2Proof.Machine.execAdvance txn s
  | .abandon txn => Sys2Proof.Machine.execAbandon txn s
  | .advanced txn => Sys2Proof.Machine.execAdvanced txn s
  | .abandonReq txn => Sys2Proof.Machine.execAbandonReq txn s
  | .portTrainingComplete port result => Sys2Proof.Machine.execPortTrainingComplete port result s
  | .flitReceive port flit corrected uncorrectable => Sys2Proof.Machine.execFlitReceive port flit corrected uncorrectable s
  | .controlFlit port flit corrected uncorrectable => Sys2Proof.Machine.execControlFlit port flit corrected uncorrectable s
  | .replayTimeout port => Sys2Proof.Machine.execReplayTimeout port s
  | .laneFail port lane rx why => Sys2Proof.Machine.execLaneFail port lane rx why s
  | .laneSwap port rx => Sys2Proof.Machine.execLaneSwap port rx s
  | .portDown port => Sys2Proof.Machine.execPortDown port s
  | .portHoldExpiry port => Sys2Proof.Machine.execPortHoldExpiry port s
  | .transactionRoute => Sys2Proof.Machine.execTransactionRoute s
  | .put txn => Sys2Proof.Machine.execPut txn s
  | .getReq txn => Sys2Proof.Machine.execGetReq txn s
  | .getRsp txn => Sys2Proof.Machine.execGetRsp txn s
  | .reduceTransaction core txn => Sys2Proof.Machine.execReduceTransaction core txn s
  | .compl txn => Sys2Proof.Machine.execCompl txn s
  | .aliasCommit master entry hi => Sys2Proof.Machine.execAliasCommit master entry hi s
  | .retrain master => Sys2Proof.Machine.execRetrain master s
  | .disable master => Sys2Proof.Machine.execDisable master s
  | .enable master => Sys2Proof.Machine.execEnable master s
  | .snapshotDrainPiece => Sys2Proof.Machine.execSnapshotDrainPiece s
  | .logResend => Sys2Proof.Machine.execLogResend s
  | .programFailed stack => Sys2Proof.Machine.execProgramFailed stack s
  | .holdReadFailed what => Sys2Proof.Machine.execHoldReadFailed what s
  | .restore => Sys2Proof.Machine.execRestore s
  | .standinRestore rows vers contents => Sys2Proof.Machine.execStandinRestore rows vers contents s
  | .exportState => Sys2Proof.Machine.execExportState s
  | .sealOut => Sys2Proof.Machine.execSealOut s
  | .sealIn => Sys2Proof.Machine.execSealIn s
  | .capture => Sys2Proof.Machine.execCapture s
  | .balLoad => Sys2Proof.Machine.execBalLoad s
  | .traceOn master => Sys2Proof.Machine.execTraceOn master s
  | .traceOff master => Sys2Proof.Machine.execTraceOff master s
  | .cancel master => Sys2Proof.Machine.execCancel master s
  | .ballastWriteBack row => Sys2Proof.Machine.execBallastWriteBack row s
  | .wearBucketRefill ms => Sys2Proof.Machine.execWearBucketRefill ms s
  | .requestFullInspection master => Sys2Proof.Machine.execRequestFullInspection master s
  | .withdrawFullInspection master => Sys2Proof.Machine.execWithdrawFullInspection master s
  | .bootReady => Sys2Proof.Machine.execBootReady s
  | .romWatchdog facts => Sys2Proof.Machine.execRomWatchdog facts s
  | .harbourmasterWatchdog facts => Sys2Proof.Machine.execHarbourmasterWatchdog facts s
  | .load master => Sys2Proof.Machine.execLoad master s
  | .planApply => Sys2Proof.Machine.execPlanApply s
  | .fwStage master => Sys2Proof.Machine.execFwStage master s
  | .clearTrial master => Sys2Proof.Machine.execClearTrial master s
  | .enrol fn object => Sys2Proof.Machine.execEnrol fn object s
  | .attest requester nonce => Sys2Proof.Machine.execAttest requester nonce s
  | .planSeg fn addr data => Sys2Proof.Machine.execPlanSeg fn addr data s
  | .planLoad fn addr home => Sys2Proof.Machine.execPlanLoad fn addr home s
  | .doeDiscovery fn index => Sys2Proof.Machine.execDoeDiscovery fn index s
  | .doeAbort fn => Sys2Proof.Machine.execDoeAbort fn s
  | .stpStop master => Sys2Proof.Machine.execStpStop master s
  | .stpAbort master => Sys2Proof.Machine.execStpAbort master s
  | .stpResume master => Sys2Proof.Machine.execStpResume master s
  | .jobDoorbell master queue value => Sys2Proof.Machine.execJobDoorbell master queue value s
  | .evqDoorbell master queue value => Sys2Proof.Machine.execEvqDoorbell master queue value s
  | .jobFetch => Sys2Proof.Machine.execJobFetch s
  | .nop => Sys2Proof.Machine.execNop s
  | .step => Sys2Proof.Machine.execStep s
  | .evalOpen => Sys2Proof.Machine.execEvalOpen s
  | .evalClose => Sys2Proof.Machine.execEvalClose s
  | .hold => Sys2Proof.Machine.execHold s
  | .deal => Sys2Proof.Machine.execDeal s
  | .manifest => Sys2Proof.Machine.execManifest s
  | .fence => Sys2Proof.Machine.execFence s
  | .evqModerationTimer queue => Sys2Proof.Machine.execEvqModerationTimer queue s
  | .queueEnable master cfg => Sys2Proof.Machine.execQueueEnable master cfg s
  | .queueDisable master cfg => Sys2Proof.Machine.execQueueDisable master cfg s
  | .claim master gen => Sys2Proof.Machine.execClaim master gen s
  | .releaseOwnership master gen => Sys2Proof.Machine.execReleaseOwnership master gen s
  | .offer master gen target => Sys2Proof.Machine.execOffer master gen target s
  | .accept master gen => Sys2Proof.Machine.execAccept master gen s
  | .withdraw master gen => Sys2Proof.Machine.execWithdraw master gen s
  | .offerTimeout => Sys2Proof.Machine.execOfferTimeout s
  | .ownershipLapse => Sys2Proof.Machine.execOwnershipLapse s
  | .reclaim port token => Sys2Proof.Machine.execReclaim port token s
  | .registerWrite master offset value size => Sys2Proof.Machine.execRegisterWrite master offset value size s
  | .loReadCapture master offset => Sys2Proof.Machine.execLoReadCapture master offset s
  | .bar2Read fn offset len => Sys2Proof.Machine.execBar2Read fn offset len s
  | .bar2Write fn offset data => Sys2Proof.Machine.execBar2Write fn offset data s
  | .slwConcealed master => Sys2Proof.Machine.execSlwConcealed master s
  | .slwOverbudget master => Sys2Proof.Machine.execSlwOverbudget master s
  | .stpSkips master => Sys2Proof.Machine.execStpSkips master s
  | .fabCorr master => Sys2Proof.Machine.execFabCorr master s
  | .fabUncorr master => Sys2Proof.Machine.execFabUncorr master s
  | .fabReplay master => Sys2Proof.Machine.execFabReplay master s
  | .fabLost master => Sys2Proof.Machine.execFabLost master s
  | .hldProgFail master => Sys2Proof.Machine.execHldProgFail master s
  | .evqLost master => Sys2Proof.Machine.execEvqLost master s
  | .clkForced master => Sys2Proof.Machine.execClkForced master s
  | .clkRefFails master => Sys2Proof.Machine.execClkRefFails master s
  | .pwrSlacks master => Sys2Proof.Machine.execPwrSlacks master s
  | .regRead port offset count => Sys2Proof.Machine.execRegRead port offset count s
  | .regWrite port offset value => Sys2Proof.Machine.execRegWrite port offset value s
  | .job port entry => Sys2Proof.Machine.execJob port entry s
  | .eventRead port count => Sys2Proof.Machine.execEventRead port count s
  | .keepalive port => Sys2Proof.Machine.execKeepalive port s
  | .boardWrite port offset data => Sys2Proof.Machine.execBoardWrite port offset data s
  | .recovery port offset last data facts => Sys2Proof.Machine.execRecovery port offset last data facts s
  | .entdaa port addr => Sys2Proof.Machine.execEntdaa port addr s
  | .getEndpointId port => Sys2Proof.Machine.execGetEndpointId port s
  | .setEndpointId port eid => Sys2Proof.Machine.execSetEndpointId port eid s
  | .getMctpVersionSupport port => Sys2Proof.Machine.execGetMctpVersionSupport port s
  | .getMessageTypeSupport port => Sys2Proof.Machine.execGetMessageTypeSupport port s
  | .getVendorMessageSupport port => Sys2Proof.Machine.execGetVendorMessageSupport port s
  | .linkUp link speed width flit => Sys2Proof.Machine.execLinkUp link speed width flit s
  | .linkDown link => Sys2Proof.Machine.execLinkDown link s
  | .flr link => Sys2Proof.Machine.execFlr link s
  | .hotReset link => Sys2Proof.Machine.execHotReset link s
  | .perst link asserted => Sys2Proof.Machine.execPerst link asserted s
  | .dmaError transfer addr => Sys2Proof.Machine.execDmaError transfer addr s
  | .monitorWindow die count stops => Sys2Proof.Machine.execMonitorWindow die count stops s
  | .generatorHoldover island => Sys2Proof.Machine.execGeneratorHoldover island s
  | .referenceRestored windows => Sys2Proof.Machine.execReferenceRestored windows s
  | .clkResume master => Sys2Proof.Machine.execClkResume master s
  | .discard master => Sys2Proof.Machine.execDiscard master s
  | .sourceFb master => Sys2Proof.Machine.execSourceFb master s
  | .sourceGen master => Sys2Proof.Machine.execSourceGen master s
  | .switchWatchdog island => Sys2Proof.Machine.execSwitchWatchdog island s
  | .governorTick => Sys2Proof.Machine.execGovernorTick s
  | .coreIdle core => Sys2Proof.Machine.execCoreIdle core s
  | .powerWindow watts => Sys2Proof.Machine.execPowerWindow watts s
  | .slackEntered thermal stops => Sys2Proof.Machine.execSlackEntered thermal stops s
  | .releaseLevelCrossed => Sys2Proof.Machine.execReleaseLevelCrossed s
  | .slackReleaseTimer => Sys2Proof.Machine.execSlackReleaseTimer s
  | .resetLevel => Sys2Proof.Machine.execResetLevel s
  | .holdupCutoff => Sys2Proof.Machine.execHoldupCutoff s
  | .inputHigh tenMillivolts => Sys2Proof.Machine.execInputHigh tenMillivolts s
  | .thermalTrip facts => Sys2Proof.Machine.execThermalTrip facts s
  | .reset master facts => Sys2Proof.Machine.execReset master facts s
  | .powerOn facts => Sys2Proof.Machine.execPowerOn facts s
  | .referenceSettle windows => Sys2Proof.Machine.execReferenceSettle windows s
  | .inputBelowReleaseLevel => Sys2Proof.Machine.execInputBelowReleaseLevel s
  | .slackTemperatureCleared cleared => Sys2Proof.Machine.execSlackTemperatureCleared cleared s
  | .tripCooldownComplete => Sys2Proof.Machine.execTripCooldownComplete s
  | .inputHighEnded => Sys2Proof.Machine.execInputHighEnded s
  | .misalignedBar0Read master offset size => Sys2Proof.Machine.execMisalignedBar0Read master offset size s

end Sys2Proof.Machine
end

