-- ==== Sys2Proof/Safety.lean ====
section
/-! DEFINITION. The terms that statements about the block use: a safe step, states that differ only where events are delivered,
states whose memory agrees outside ranges, and the fields that every step keeps legal. -/
namespace Sys2Proof.Safety
open Sys2Proof Sys2Proof.Machine

/-- The step from a state answers a next state. -/
def progresses (s : State) : Prop := ∃ t, step s = .next t

/-- `t` is `s` but for where events are delivered (the event queues with the host memory behind them, the MSI-X state, the
management buffers, the messages and in-band interrupts sent); host memories stay canonical. -/
def eventsOnly (s t : State) : Prop :=
  ∃ a b q f p u, t = { s with hostA := a, hostB := b, queues := q, fns := f, ports := p, bus := u } ∧
    (Memory.wf s.hostA = true → Memory.wf a = true) ∧ (Memory.wf s.hostB = true → Memory.wf b = true) ∧
    u.reads = s.bus.reads ∧ u.bar2 = s.bus.bar2 ∧ u.doe = s.bus.doe ∧ u.mctp = s.bus.mctp ∧ u.ring = s.bus.ring ∧
    u.bar2Wait = s.bus.bar2Wait

/-- Every byte of device memory outside the ranges (start, length) reads after as it did before. -/
def sameOutside (s t : State) (rs : List (Nat × Nat)) : Prop :=
  ∀ a, (∀ r ∈ rs, a < r.1 ∨ r.1 + r.2 ≤ a) → rdMem t a 1 = rdMem s a 1

/-- `t` is `s` but for the cores, device memory and where events are delivered. -/
def computeOnly (s t : State) : Prop :=
  ∃ m k u, u = { s with mem := m, cores := k } ∧ eventsOnly u t

/-- The fields that keep their value when a write is out of range (R15): every master's FAB_SEL names one of 12 ports, its
SLW_SEL one of 12 dies, its CLK_SEL an island kind and die of R390; OWN_TIMEOUT is 1 to 255 s; PWR_LIMIT is 2,000 to 11,000 W; a queue's SIZE_LOG2 is 6 to 16 and its EVQ_MOD.COUNT not 0 (R434). -/
def legalMaster (m : Master) : Bool :=
  decide (m.fabSel.toNat < 12) && decide (m.slwDie.toNat < 12) && decide (1 ≤ m.clkSel.kind.toNat) &&
    decide (m.clkSel.kind.toNat ≤ 10) && decide (m.clkSel.die.toNat ≤ 13)

def legalFields (s : State) : Prop :=
  (∀ p ∈ s.masters, legalMaster p.2 = true) ∧ s.own.timeout ≠ 0 ∧ 2000 ≤ s.pwr.limit.toNat ∧ s.pwr.limit.toNat ≤ 11000 ∧
    ∀ p ∈ s.queues, 6 ≤ p.2.sizeLog2 ∧ p.2.sizeLog2 ≤ 16 ∧ p.2.count ≠ 0

/-- Nothing of what the model does while no command waits is due: no management port's response is still outstanding (log 115) and
no function that is up waits for the host's configuration (log 102). -/
def atRest (s : State) : Prop :=
  (∀ p ∈ s.ports, p.2.busy = false) ∧ ∀ l < 2, (getFn s l).up = true → (getFn s l).unset = false

/-- The memories and the tables of the state in their canonical form: keys strictly rising, no entry equal to what an unlisted
key reads as. -/
def canonical (s : State) : Prop :=
  Memory.wf s.mem = true ∧ Memory.wf s.hostA = true ∧ Memory.wf s.hostB = true ∧ smWf 0xFF#8 s.nor0 = true ∧
    smWf 0xFF#8 s.nor1 = true ∧ smWf Core.init s.cores = true ∧ smWf Stream.init s.streams = true ∧
    smWf Queue.init s.queues = true ∧ smWf Master.init s.masters = true ∧ smWf Fn.init s.fns = true ∧
    smWf Mgmt.init s.ports = true ∧ smWf Port.init s.fab.ports = true ∧ smWf BalSlot.init s.hold.cache = true ∧
    smWf Slot.init s.hold.slots = true

/-- R458, R459: `t` holds no more of `s` than a reset keeps: device memory, cores, the step state, ownership and the plan are as
right after reset; the Hold's durable contents, the substitution queue and the waiting commands are those of `s`, and so are the
NORs, but for a ledger whose writing the reset interrupts (R356). -/
def resetKeeping (s t : State) : Prop :=
  t.mem = [] ∧ t.cores = [] ∧ t.stp = State.reset.stp ∧ t.own = State.reset.own ∧ t.pln = State.reset.pln ∧
    t.ctl = State.reset.ctl ∧ t.hold = holdAfter s.hold ∧ t.nor0 = (interruptInspection s).nor0 ∧ t.nor1 = (interruptInspection s).nor1 ∧
    (s.spr.insp = none → t.nor0 = s.nor0 ∧ t.nor1 = s.nor1) ∧ t.spr.queue = s.spr.queue ∧ t.pending = s.pending

/-- R218, R293, R451, R457: a suspended state without collectives goes on in `t`: the device that was stopped or idle, the re-shard
lock, and an attempt with nothing due are as before the suspension (a pending STOP in idle takes effect); an attempt before point 4
for which an abort cause came meanwhile aborts. -/
def resumed (s t : State) : Prop :=
  (∀ p ∈ s.cores, p.2.cols = []) →
  (s.stp.att = none → s.lock = none → s.stp.prior = .stopped → t.stp = { s.stp with state := .stopped } ∧ t.mem = s.mem) ∧
  (s.stp.att = none → s.lock = none → s.stp.prior = .idle → t.stp.state = (if s.stp.stopPend then .stopped else .idle) ∧
    t.stp.stopPend = false ∧ t.stp.bank = s.stp.bank ∧ t.stp.c = s.stp.c ∧ t.stp.a = s.stp.a ∧ t.mem = s.mem) ∧
  (∀ l, s.stp.att = none → s.lock = some l → s.stp.prior = .reshardLock → s.stp.kept = [] →
    t.stp = { s.stp with state := .reshardLock } ∧ t.lock = some l ∧ t.mem = s.mem) ∧
  ∀ a, s.stp.att = some a → s.stp.prior ∈ [.passes, .normCheck, .updateWait, .update, .tally] →
    (a.lostWhileSuspended = false → a.reduced = false ∨ a.upSent = true → a.verdict ≠ none ∨ a.norm = none ∨ a.jobLoss = none →
      (s.stp.prior = .tally → 4 ≤ a.point ∨ a.digests.length < replicaSize s) →
      t.stp = { s.stp with state := s.stp.prior } ∧ t.mem = s.mem) ∧
    (a.lostWhileSuspended = true → a.point < 4 → t.stp.state = .aborting ∧ t.stp.bank = s.stp.bank ∧ t.stp.c = s.stp.c ∧
      t.stp.a = s.stp.a ∧ t.mem = s.mem)

/-! What the vector operations write, element by element. -/

/-- R53: the scaled value of an element of a tagged tensor. -/
def elemAt (s : State) (t : Option Tag) (a : Nat) : Machine.Num := valueOf (vTag t) (rdElem s a (tagSize (vTag t)))

/-- R55: `t` holds at an address the output rounding of a value under the output tag of a vector descriptor. -/
def writesValue (t : State) (d : Bytes) (a : Nat) (v : Machine.Num) : Prop := rdElem t a (vEo d) = (writeVal (vTag (vTagO d)) v).1

/-- R130–R134, R144: the outputs of an elementwise operation or a transcendental from the operands that `s` holds. -/
def ewWritten (s t : State) (d : Bytes) : Prop :=
  ∀ r < vRows d, ∀ i < vCount d, ∀ x y z k : Machine.Num, elemAt s (vTagX d) (vX d + r * vLdx d + i * vEx d) = x →
    elemAt s (vTagY d) (vY d + r * vLdy d + i * vEy d) = y → elemAt s (vTagO d) (vAux d + r * vLdo d + i * vEo d) = z →
    decode .fp32 (vCtrl d) = k →
    (vGroup (vOp d) = some .elementwise → vOp d ≠ 9 → ¬(vClassC d = true ∧ (vOp d = 10 ∨ vOp d = 11)) →
      writesValue t d (vOut d + r * vLdo d + i * vEo d) (ewValue (vOp d) x y z k).1) ∧
    (vOp d = 9 → rdElem t (vOut d + r * vLdo d + i) 1 =
      if isNan x || isNan y then (if vCtrl d % 8 = 1 then 1 else 0) else if cmpPred (vCtrl d % 8) x y then 1 else 0) ∧
    (vGroup (vOp d) = some .transcendental → writesValue t d (vOut d + r * vLdo d + i * vEo d)
      (trValue (vOp d) ((vTag (vTagX d)).fmt == .fp64 || (vTag (vTagO d)).fmt == .fp64) x).1)

/-- R64, R69: the outputs and the residues of a convert with the scale of its own tag, but for an infinity of an exact pair (R66). -/
def cvWritten (s t : State) (d : Bytes) : Prop :=
  ∀ r < vRows d, ∀ i < vCount d, ∀ x w : Machine.Num, elemAt s (vTagX d) (vX d + r * vLdx d + i * vEx d) = x →
    (isInf x = true → exactPair (vTag (vTagX d)).fmt (vTag (vTagO d)).fmt = false) →
    writesValue t d (vOut d + r * vLdo d + i * vEo d) x ∧
    (elemAt t (vTagO d) (vOut d + r * vLdo d + i * vEo d) = w → cvResidue d = true →
      rdElem t (vY d + r * vLdy d + i * 4) 4 = if isFin x && isFin w then toFp32 (numSub x w).1 else fmtNan .fp32)

/-- R131, R145: the outputs of a reduction from the decoded elements of each row. -/
def redWritten (s t : State) (d : Bytes) : Prop :=
  ∀ r < vRows d, ∀ (l : List Machine.Num) (f : Fmt) (x root : Machine.Num), (vTag (vTagX d)).fmt = f →
    tagScale (vTag (vTagX d)) = x →
    ((List.range (vCount d)).map fun i => decode f (rdElem s (vX d + r * vLdx d + i * vEx d) (vEx d))) = l →
    (rowSum (vOp d == 0x21) (f == .fp64) (fmtLanes f) 0 l (excFresh 2)).1 = root →
    (vDeepOut d = true → rdMem t (vOut d + r * vLdo d) 16 = deepBytes (storeDword root).1) ∧
    (vOp d = 0x20 → vDeepOut d = false → writesValue t d (vOut d + r * vLdo d) (numMul root x).1) ∧
    (vOp d = 0x21 → vDeepOut d = false → writesValue t d (vOut d + r * vLdo d) (numMul (numMul root x).1 x).1) ∧
    (vOp d ∈ [0x22, 0x23, 0x24] → writesValue t d (vOut d + r * vLdo d) (numMul (rowExtreme (vOp d) l) x).1)

/-- R147–R151: the outputs of a window operation whose output is not empty, from the taps of each output element. -/
def winWritten (s t : State) (d : Bytes) : Prop :=
  ∀ oy < wOh d, ∀ ox < wOw d, ∀ c < wC d, ∀ (a : Nat) (x y : Machine.Num) (l : List Tap) (v : List Machine.Num),
    vOut d + oy * wLdo d + (ox * wC d + c) * vEo d = a → tagScale (vTag (vTagX d)) = x → tagScale (vTag (vTagY d)) = y →
    (if wTconv d then wTtaps d oy ox else wTaps d oy ox) = l → (l.filter fun k => !(wExcl d && k.pad)).map (wTapVal s d c) = v →
    (vOp d = 0x40 ∨ vOp d = 0x41 →
      writesValue t d a (numMul (numMul (accOr0 (convElem s d c 0 l (excFresh 2)).1) x).1 y).1) ∧
    (vOp d = 0x42 → writesValue t d a (numMul (match v with | [] => numZero | h :: r => r.foldl numMax h) x).1) ∧
    (vOp d = 0x43 → ∀ n, (if wExcl d then v.length else wFh d * wFw d) = n → n ≠ 0 → rdElem t a (vEo d) =
      (encodeOut (vTag (vTagO d)).fmt (vTag (vTagO d)).ovf (numDiv
        (numMul (accOr0 (v.foldl (fun b z => (accAdd ((vTag (vTagX d)).fmt == .fp64) b z).1) .empty)) x).1
        (numMul (numOfNat n) (tagScale (vTag (vTagO d)))).1).1).1) ∧
    (vOp d = 0x43 → v = [] → wExcl d = true → writesValue t d a numZero) ∧
    (vOp d = 0x44 → ∀ k : Tap, k ∈ l → ∀ q,
      (match k.src with
        | some p => rdElem s (wInAddr d p.1 p.2 c) (vEx d)
        | none => if wPad d = 1 then (encodeOut (vTag (vTagX d)).fmt false (decode .fp32 (wConst d))).1 else 0) = q →
      rdElem t (vOut d + (oy * wOw d + ox) * wLdo d + ((k.fy * wFw d + k.fx) * wC d + c) * vEx d) (vEx d) = q)

/-- What a valid vector operation without concealed samples leaves in `t`, from the operands that `s` held before it. -/
def vecWritten (s t : State) (d : Bytes) : Prop :=
  (vGroup (vOp d) = some .elementwise ∨ vGroup (vOp d) = some .transcendental → ewWritten s t d) ∧
  (vOp d = 0x30 → cvAmax d = false → cvWritten s t d) ∧
  (vGroup (vOp d) = some .reduction → redWritten s t d) ∧
  (vGroup (vOp d) = some .window → wEmpty d = false → winWritten s t d) ∧
  (vOp d = 0x25 → ∀ i < vCount d, rdMem t (vOut d + 16 * i) 16 =
    deepBytes (deepMerge (deepOf (rdMem s (vX d + 16 * i) 16)) (deepOf (rdMem s (vY d + 16 * i) 16))).1) ∧
  (vOp d = 0x31 → rdMem t (vOut d) 16 = digest16 (rdMem s (vAux d) 16 ++ rdMem s (vX d) (vCount d)))

/-- The rational value of a finite exact value. -/
def ratOf (neg : Bool) (m : Nat) (e : Int) : ℚ := (if neg then -1 else 1) * (m : ℚ) * (2 : ℚ) ^ e

end Sys2Proof.Safety
end

