-- ==== Sys2Proof/Certificates/Slice0/Obligations.lean ====
section
/-! DEFINITION. The statements for the provers, from the numbered rules of the spec. Every statement about a next state names
the conditions on the state and the operands under which the command has its own effect. -/
open Sys2Proof Sys2Proof.Machine Sys2Proof.Safety

/-! The machine as a whole. -/

/-- The command at the front of the queue takes effect on the state with the queue's rest. With no command waiting, time passes:
a load and a firmware update go on by one point (R398, R375); where neither runs and the block is at rest nothing changes. The
whole first-in first-out rule and what an empty queue does (the host's configuration and the sent responses too) are the model's,
log entries 17, 102, 106 and 115 (DESIGN CHOICES). -/
def Obligations.StepRunsFrontCommand : Prop :=
  (∀ (s : State) (c : Instr) (rest : List Instr), s.pending = c :: rest → step s = exec c { s with pending := rest }) ∧
    ∀ s : State, s.pending = [] → step s = .next (background s) ∧ (s.pln.job = none → s.sec.stage = none → atRest s → step s = .next s)

/-- Every command answers a next state in every state and leaves the queue of waiting commands as it is. That a command which is
not enabled in a state leaves it as it is and is no fault, and that no command touches the queue, is the model's: log entries 17
and 19 (DESIGN CHOICES). -/
def Obligations.CommandsAnswerAndKeepQueue : Prop :=
  ∀ (i : Instr) (s : State), ∃ t, exec i s = .next t ∧ t.pending = s.pending

/-- Right after reset the legal fields are legal, every memory has its canonical form, and the fields hold the values that the
register tables give: STP_STATE stopped, OWN_STATUS vacant with GEN 0, OWN_TIMEOUT 10 s, PWR_LIMIT 11,000 W, CAP_MHZ 1,750,
LAST_RESET 1, CLK_STATUS SETTLE 0xFF, no plan, spares inspecting, boot booting, and of a queue SIZE_LOG2 6, EVQ_MASK 0x1FFF,
EVQ_MOD COUNT 1 and ENABLE 0. The committed step C has no reset column: its 0 is the model's, log entry 8 (DESIGN CHOICE). -/
def Obligations.ResetHoldsSpecValues : Prop :=
  (legalFields State.reset ∧ canonical State.reset) ∧
  (State.reset.stp.state = .stopped ∧ State.reset.stp.c = 0 ∧ State.reset.own.state = .vacant ∧ State.reset.own.gen = 0 ∧
      State.reset.own.timeout = 10 ∧ State.reset.pwr.limit = 11000 ∧ State.reset.pwr.cap = 1750 ∧ State.reset.pwr.lastReset = 1 ∧
      State.reset.clk.settle = 0xFF ∧ State.reset.pln.state = .none ∧ State.reset.spr.state = .inspecting ∧
      State.reset.sec.boot = .booting ∧
      (∀ m : Fin 4, (getMaster State.reset m.val).clkSel.kind = 1) ∧
      ∀ q : Fin 256, (getQueue State.reset q.val).sizeLog2 = 6 ∧ (getQueue State.reset q.val).mask = 0x1FFF ∧
        (getQueue State.reset q.val).count = 1 ∧ (getQueue State.reset q.val).enabled = false)

/-- R15: no command leaves a legal field illegal, in any state that holds legal fields: among them a queue's SIZE_LOG2 and
EVQ_MOD.COUNT (R434). -/
def Obligations.StepKeepsLegalFields : Prop :=
  ∀ s t : State, legalFields s → step s = .next t → legalFields t

/-- Every command keeps every memory and table of the state in its canonical form, so that equal memories are equal data. -/
def Obligations.StepKeepsCanonical : Prop := ∀ s t : State, canonical s → step s = .next t → canonical t


/-! Numbers. -/

/-- R53, R58, R130: the sum, the difference and the product of finite values are exact, and make no NaN. R130, R131: the
special cases of division, root, difference, minimum and maximum. -/
def Obligations.ValueArithmetic : Prop :=
  (∀ (n1 n2 : Bool) (m1 m2 : Nat) (e1 e2 : Int),
      (∃ n m e, numAdd (.fin n1 m1 e1) (.fin n2 m2 e2) = (.fin n m e, false) ∧
        ratOf n m e = ratOf n1 m1 e1 + ratOf n2 m2 e2) ∧
      (∃ n m e, numSub (.fin n1 m1 e1) (.fin n2 m2 e2) = (.fin n m e, false) ∧
        ratOf n m e = ratOf n1 m1 e1 - ratOf n2 m2 e2) ∧
      ∃ n m e, numMul (.fin n1 m1 e1) (.fin n2 m2 e2) = (.fin n m e, false) ∧
        ratOf n m e = ratOf n1 m1 e1 * ratOf n2 m2 e2) ∧
  ((∀ (n1 n2 : Bool) (m : Nat) (e1 e2 : Int), 1 ≤ m →
      ewValue 4 (.fin n1 m e1) (.fin n2 0 e2) numZero numZero = (.inf (n1 != n2), false)) ∧
    (∀ (n1 n2 : Bool) (e1 e2 : Int), ewValue 4 (.fin n1 0 e1) (.fin n2 0 e2) numZero numZero = (.nan, true)) ∧
    (∀ n1 n2 : Bool, ewValue 4 (.inf n1) (.inf n2) numZero numZero = (.nan, true)) ∧
    (∀ n : Bool, ewValue 2 (.inf n) (.inf n) numZero numZero = (.nan, true)) ∧
    (∀ (m : Nat) (e : Int), 1 ≤ m → ewValue 5 (.fin true m e) numZero numZero numZero = (.nan, true)) ∧
    (∀ x : Machine.Num, (ewValue 7 .nan x numZero numZero).1 = .nan ∧ (ewValue 8 x .nan numZero numZero).1 = .nan) ∧
    ewValue 7 numZero numNegZero numZero numZero = (numNegZero, false) ∧
    ewValue 8 numNegZero numZero numZero numZero = (numZero, false))

/-- R58: one rounding to nearest, ties to even, to `p` significant bits with a last place not below 2^lo: the result is
within half a last place, a tie goes to the even significand, and the flag says whether anything was lost. An element of every
format holds that one rounding of the exact value to the format's significand width, whose last place has no lower bound for a value
that is not tiny; a rounded value beyond the largest finite one is written as an infinity is. -/
def Obligations.RoundsToNearestEven : Prop :=
  (∀ (p : Nat) (lo : Int) (m : Nat) (e : Int), 1 ≤ p → 1 ≤ m →
    ∃ q u lost, roundDy p lo m e = (q, u, lost) ∧ lo ≤ u ∧ q ≤ 2 ^ p ∧
      (u = lo ∨ 2 ^ (p - 1) ≤ q) ∧
      |(m : ℚ) * 2 ^ e - (q : ℚ) * 2 ^ u| ≤ 2 ^ u / 2 ∧
      (|(m : ℚ) * 2 ^ e - (q : ℚ) * 2 ^ u| = 2 ^ u / 2 → q % 2 = 0) ∧
      (lost = false ↔ (m : ℚ) * 2 ^ e = (q : ℚ) * 2 ^ u)) ∧
  ∀ (f : Fmt) (ovf n lost : Bool) (m q k : Nat) (e u j : Int), 1 ≤ m →
    roundDy ((fmtSpec f).fb + 1) (specLo (fmtSpec f)) m e = (q, u, lost) → decode f (fmtMax f) = .fin false k j →
      ((q : ℚ) * 2 ^ u ≤ (k : ℚ) * 2 ^ j → ∃ m' e', decode f (encodeOut f ovf (.fin n m e)).1 = .fin n m' e' ∧
        ratOf n m' e' = ratOf n q u) ∧
      ((k : ℚ) * 2 ^ j < (q : ℚ) * 2 ^ u → (encodeOut f ovf (.fin n m e)).1 = (encodeOut f ovf (.inf n)).1) ∧
      ((2 : ℚ) ^ (1 - ((fmtSpec f).bias : Int)) ≤ (m : ℚ) * 2 ^ e → ∀ lo ≤ specLo (fmtSpec f),
        roundDy ((fmtSpec f).fb + 1) lo m e = (q, u, lost))

/-- R47, R51, R58, R61: every finite encoding of a format is its own rounding, with no flag; a NaN encoding becomes the
canonical NaN; and a valid format tag is read back from its bytes. -/
def Obligations.FormatEncodingsRoundTrip : Prop :=
  (∀ (f : Fmt) (ovf : Bool) (q : Nat), q < 256 ^ fmtBytes f →
    (isFin (decode f q) = true → encodeOut f ovf (decode f q) = (q, 0)) ∧
      (isNan (decode f q) = true → encodeOut f ovf (decode f q) = (fmtNan f, 0))) ∧
  ∀ t : Tag, (t.ovf = true → fmtShort t.fmt = true ∧ t.fmt ≠ .e4m3) →
    (if fmtShort t.fmt then 0x00800000 ≤ t.scale ∧ t.scale ≤ 0x7F7FFFFF else t.scale = 0x3F800000) →
    parseTag (tagBytes t) = some t

/-- R61: a result that rounds to zero keeps the sign of the exact value, and a convert of ±0 writes ±0. -/
def Obligations.ZeroKeepsSign : Prop :=
  (∀ (f : Fmt) (ovf n : Bool) (m : Nat) (e : Int), isZero (decode f (encodeOut f ovf (.fin n m e)).1) = true →
    numNeg (decode f (encodeOut f ovf (.fin n m e)).1) = n) ∧
  ∀ (d : Bytes) (o : Tag) (q : Nat) (n : Bool) (e : Int), parseTag (tagBytes o) = some o →
    parseTag (tagBytes (vTag (vTagX d))) = some (vTag (vTagX d)) → decode (vTag (vTagX d)).fmt q = .fin n 0 e →
      ∃ k, decode o.fmt (cvElem d o q).1 = .fin n 0 k

/-! Token counters, the sequencer, tiles. -/

/-- R171: a signal adds one token to its counter and changes nothing else; a counter that holds 1,048,575 stays there and
the core raises counter-overflow, with its logical unit as the payload (R185). (The four SOURCE bytes of
the payload are log entry 28.) -/
def Obligations.TokenSignal : Prop :=
  ∀ (s : State) (c : CoreId) (ctr : Fin 32),
    (smGet 0 (getCore s c).ctr ctr.val ≠ 1048575 →
      exec (.tokenSignal c ctr) s = .next (setCore s c { getCore s c with
        ctr := smSet 0 (getCore s c).ctr ctr.val (smGet 0 (getCore s c).ctr ctr.val + 1) })) ∧
    (smGet 0 (getCore s c).ctr ctr.val = 1048575 →
      exec (.tokenSignal c ctr) s = .next (raise s 0x2003 (srcCore c) (toLe 4 (srcCore c))) ∧
        eventsOnly s (raise s 0x2003 (srcCore c) (toLe 4 (srcCore c))))

/-- R163, R138: the next descriptor of a running program enters the queue of its unit, with the WAIT fields as they stand;
while that queue is full nothing is issued. (The core has started or has asked for its start, and no mark follows.) R484: a mark
that stands next is reached; the mark that the sequencer has reached takes effect: FWD_END ends the forward phase of the run,
PASS_END ends the run and counts it, and both signal their counter; device memory stays as it is. -/
def Obligations.SequencerIssuesAndMarks : Prop :=
  (∀ (s : State) (c : CoreId) (x : Core) (k : Nat), getCore s c = x →
      k ∈ [1, 2, 3, 4] → rdElem s x.pc 1 = k → x.runActive = true → x.stopped = false → x.mark = none →
      (x.idle = false ∨ x.startAsked = true ∨ k = 3 ∨ k = 4) →
      s.stp.state ≠ .suspended → rdElem s (x.pc + descBytes k) 1 ≠ 5 →
        (queueRoom x k = true →
          exec (.descriptorIssue c) s = .next (setCore s c
            { (pushEntry x k (QEntry.mk x.pc (byteAt (rdMem s (x.pc + waitByte k) 4) 0)
                (fld (rdMem s (x.pc + waitByte k) 4) 2 2) x.nextOrd)) with
              pc := x.pc + descBytes k, nextOrd := x.nextOrd + 1 })) ∧
        (queueRoom x k = false → exec (.descriptorIssue c) s = .next s)) ∧
  (∀ (s : State) (c : CoreId) (x : Core), getCore s c = x → rdElem s x.pc 1 = 5 → x.runActive = true → x.stopped = false →
      x.mark = none → s.stp.state ≠ .suspended →
        exec (.descriptorIssue c) s = .next (setCore s c
          { x with mark := some (QEntry.mk x.pc (byteAt (rdMem s (x.pc + 56) 4) 0) (fld (rdMem s (x.pc + 56) 4) 2 2) x.nextOrd),
                   pc := x.pc + 64, nextOrd := x.nextOrd + 1 })) ∧
  (∀ (s : State) (c : CoreId) (x : Core) (e : QEntry) (d : Bytes), getCore s c = x → desc64 s e = d →
      x.mark = some e → markReady s x e = true → markOk d = true →
        (byteAt d 1 = 1 → ∃ t, exec (.fwdEnd c) s = .next t ∧ (getCore t c).fwdEnded = true ∧ (getCore t c).run = x.run ∧
          (getCore t c).runActive = true ∧
          (getCore t c).ctr = (getCore (signalField (setCore s c (consume x e)) c (byteAt d 57)) c).ctr ∧ t.mem = s.mem) ∧
        (byteAt d 1 = 2 → ∃ t, exec (.passEnd c) s = .next t ∧ (getCore t c).fwdEnded = false ∧
          (getCore t c).run = x.run + 1 ∧ (getCore t c).runActive = false ∧ (getCore t c).mark = none ∧
          (getCore t c).ctr = (getCore (signalField (setCore s c (consume x e)) c (byteAt d 57)) c).ctr ∧ t.mem = s.mem))

/-- R88, R170, R82: the first tile of the queue whose tokens are there (behind a pair tile also the first of the other pair), if
it passes validation and no tile that it waits for is stalled, starts: the array work of those tiles is done first, it takes its
tokens, leaves the queue and joins the tiles in flight with its fed rows and no block done, and the arrays are wired to its mode
(R392); the compute group's island runs (R446). Memory changes only in the deep entries of tiles in flight, and not at all where none shares its arrays. One that breaks
its form raises tile-invalid, whose payload is the logical core (log entry 28), and takes no token. -/
def Obligations.TileStartTakesTokens : Prop :=
  ∀ (s : State) (c : CoreId) (x : Core) (e : QEntry) (d : Bytes), getCore s c = x →
    desc128 s e = d → (tileHeads s x.tileQ).find? (tileLeaves s c) = some e → s.stp.state ≠ .suspended → x.idle = false →
    x.stopped = false → computeStopped s (coreIsland c) = false → canonical s →
      (tileCheck s c d = .ok → ∃ (u v : State) (t : TileRun), finishArrays s c (modeOf (tMode d)) = u ∧
          t.desc = d ∧ t.mode = modeOf (tMode d) ∧ t.fed = tFed u d ∧ t.block = 0 ∧ t.accs = [] ∧ t.ord = e.ord ∧
          exec (.tile c) s = .next v ∧ v = { s with mem := v.mem, cores := v.cores } ∧ v.mem = u.mem ∧
          (getCore v c).tileQ = x.tileQ.erase e ∧ (getCore v c).tiles = (getCore u c).tiles ++ [t] ∧
          (getCore v c).ctr = (consume x e).ctr ∧ (getCore v c).pairWired = (modeOf (tMode d) != .quad) ∧
          sameOutside s v (x.tiles.flatMap fun t => t.fed.flatMap fun m =>
            (List.range (tN t.desc)).map fun n => (tDeepAddr t.desc m n, 16)) ∧
          ((∀ y ∈ x.tiles, modesClash (modeOf (tMode d)) y.mode = false) →
            v.mem = s.mem ∧ (getCore v c).tiles = x.tiles ++ [t])) ∧
      (tileCheck s c d = .invalid → ∃ t, exec (.tile c) s = .next t ∧
        eventsOnly (setCore s c { x with tileQ := x.tileQ.erase e }) t ∧
        t = raise (setCore s c { x with tileQ := x.tileQ.erase e }) 0x1001 (srcCore c) (toLe 4 (srcCore c))) ∧
      (∀ a, tileCheck s c d = .unmapped a → exec (.tile c) s =
        .next (raise (setCore s c { x with tileQ := x.tileQ.erase e }) 0x2001 (srcCore c) (memPay (srcCore c) a)))

/-- R89, R106: the next fed row of a tile spills the segment: only its own deep entries change in memory, the pairs of the
row restart empty, and the tile goes on to the next fed row or past the segment. Tiles stand still in a suspension by a reference
failure; in slack state alone they go on (DEDUCED, log entry 114). -/
def Obligations.SpillWritesDeepEntries : Prop :=
  ∀ (s : State) (c : CoreId) (x : Core) (b : BroadcastMode) (t : TileRun) (m e : Nat), getCore s c = x →
    tSegEnd t.desc t.block = e → x.tiles.find? (fun t => isMode b t && working t) = some t → frozen s = false →
    opStalled s c t.ord = false → canonical s →
    t.fed[t.ahead]? = some m → tSpillsAt t.desc e = true →
      ∃ u t', exec (.spill c b) s = .next u ∧ u = { s with mem := u.mem, cores := u.cores } ∧
        (getCore u c).tiles = x.tiles.map (fun y => if y.ord = t.ord then t' else y) ∧ t'.desc = t.desc ∧
        (∀ n, getAcc t'.accs m n = .empty) ∧
        (if t.ahead + 1 < t.fed.length then t'.ahead = t.ahead + 1 ∧ t'.block = t.block else t'.ahead = 0 ∧ t'.block = e) ∧
        sameOutside s u ((List.range (tN t.desc)).map fun n => (tDeepAddr t.desc m n, 16))

/-- R88, R91, R95: the oldest tile of a mode completes: its k-blocks are finished, then its outputs (or its deep entries), the amax
word and the record at EXC_ADDR are written; it leaves the core, memory changes nowhere else, and SIG_CTR, where there is one,
gains one token. R54: each output element is the one rounding of (deep value + running pair) × sA × sB ÷ sOut; a masked row is
zero under MASK_FILL. (In slack state tiles complete: DEDUCED, log entry 114.) -/
def Obligations.TileCompleteWritesRecord : Prop :=
  ∀ (s u v w : State) (c : CoreId) (x : Core) (b : BroadcastMode) (t t1 t2 : TileRun) (am : Machine.Num) (r : ExcRec),
    getCore s c = x → oldestOf b x.tiles = some t → frozen s = false → opStalled s c t.ord = false → canonical s →
    finishBlocks (setCore s c { x with tiles := x.tiles.erase t }) t = (u, t1) →
    (if tAccOut t.desc then (u, t1, numZero) else writeOutputs u t1) = (v, t2, am) → tileRecord t2 (tBlocks t.desc) = r →
    wrMem (if tGrad t.desc then wrMem v (tAux t.desc) (toLe 4 (toFp32 am)) else v) (tExc t.desc) (excBytes r) = w →
      exec (.tileComplete c b) s =
        .next (signalField (if tAccOut t.desc then w else finalRecord w c r (tExc t.desc)) c (tSig t.desc)) ∧
      ∃ z, exec (.tileComplete c b) s = .next z ∧ z.mem = w.mem ∧ (getCore z c).tiles = x.tiles.erase t ∧
        rdMem z (tExc t.desc) (excBytes r).length = excBytes r ∧
        (tSig t.desc = 0xFF → (getCore z c).ctr = x.ctr) ∧
        (tSig t.desc ≠ 0xFF → smGet 0 x.ctr (tSig t.desc) < 1048575 →
          smGet 0 (getCore z c).ctr (tSig t.desc) = smGet 0 x.ctr (tSig t.desc) + 1) ∧
        (tAccOut t.desc = false → tN t.desc * tEo t.desc ≤ tLdo t.desc → t.fed.Nodup → (∀ m ∈ t.fed, m < tM t.desc) →
          (∀ m < tM t.desc, ∀ k ∈ (tExc t.desc, (excBytes r).length) :: (if tGrad t.desc then [(tAux t.desc, 4)] else []),
            k.1 + k.2 ≤ tOut t.desc + m * tLdo t.desc ∨ tOut t.desc + m * tLdo t.desc + tN t.desc * tEo t.desc ≤ k.1) →
          (∀ o, tagOr (tTagO t.desc) = o → ∀ m ∈ t.fed, ∀ n < tN t.desc,
            rdElem z (tOut t.desc + m * tLdo t.desc + n * tEo t.desc) (tEo t.desc) = (encodeOut o.fmt o.ovf
              (numDiv (numMul (numMul (numAdd (deepValue t1 m n) (accVal (getAcc t1.accs m n))).1
                (tagScale (tagOr (tTagA t.desc)))).1 (tagScale (tagOr (tTagB t.desc)))).1 (tagScale o)).1).1) ∧
          (tMaskFill t.desc = true → ∀ m < tM t.desc, m ∉ t.fed →
            rdMem z (tOut t.desc + m * tLdo t.desc) (tN t.desc * tEo t.desc) = zeroBytes (tN t.desc * tEo t.desc))) ∧
        sameOutside s z ([(tExc t.desc, (excBytes r).length), (tAux t.desc, 4)] ++
          ((List.range (tM t.desc) ++ t.fed).map fun m => (tOut t.desc + m * tLdo t.desc, tN t.desc * tEo t.desc)) ++
          (t.fed.flatMap fun m => (List.range (tN t.desc)).map fun n => (tDeepAddr t.desc m n, 16)))

/-! Vector operations, movers, collectives. -/

/-- R138, R139, R170: a vector operation at the head of its queue starts under the command of its code (R134), while the core's island runs (R446): it takes its
tokens, becomes the operation in flight, and its outputs are written; memory changes nowhere else and nothing but memory and
the core changes. R130, R131, R55, R64, R145, R150: what it writes is, element by element, the output rounding of the operation's
value on the elements that its operands held (no concealed samples; a transcendental's value: log entry 22). A descriptor that breaks its form raises vector-invalid, whose payload is the logical core (log entry 28), and
takes no token; one that fails a later step of R483 raises the event of that step. -/
def Obligations.VectorStartWritesOutputs : Prop :=
  ∀ (s : State) (c : CoreId) (x : Core) (e : QEntry) (rest : List QEntry) (d : Bytes) (i : Instr),
    (i, vOp d) ∈ ([(.add c, 0x01), (.sub c, 0x02), (.mul c, 0x03), (.div c, 0x04), (.sqrt c, 0x05), (.fma c, 0x06), (.min c, 0x07),
      (.max c, 0x08), (.cmp c, 0x09), (.abs c, 0x0A), (.neg c, 0x0B), (.scale c, 0x0C), (.exp c, 0x10), (.log c, 0x11),
      (.tanh c, 0x12), (.sigmoid c, 0x13), (.rsqrt c, 0x14), (.recip c, 0x15), (.sin c, 0x16), (.cos c, 0x17), (.erf c, 0x18),
      (.gelu c, 0x19), (.sum c, 0x20), (.sumsq c, 0x21), (.maxReduction c, 0x22), (.minReduction c, 0x23), (.amax c, 0x24),
      (.merge c, 0x25), (.convert c, 0x30), (.digest c, 0x31), (.conv c, 0x40), (.tconv c, 0x41), (.maxpool c, 0x42),
      (.avgpool c, 0x43), (.patch c, 0x44), (.argmax c, 0x50), (.boxdec c, 0x51), (.suppress c, 0x52)] : List (Instr × Nat)) →
    getCore s c = x → desc128 s e = d → x.vecQ = e :: rest → s.stp.state ≠ .suspended → x.idle = false → x.stopped = false →
    x.vec = none → ready s x e = true → computeStopped s (coreIsland c) = false → canonical s →
      (vecCheck s c d = .ok → ∃ v t, v.desc = d ∧ v.exc = (vecOut s d).exc ∧ v.ord = e.ord ∧
        v.res = BitVec.ofNat 64 (vecOut s d).res ∧ v.otag = vecOtag d (vecOut s d).scale ∧ v.final = vecFinal d ∧
        exec i s = .next t ∧ t = { s with mem := t.mem, cores := t.cores } ∧ Memory.wf t.mem = true ∧
        getCore t c = { consume x e with vecQ := rest, vec := some v } ∧
        (∀ b, b ≠ c → getCore t b = getCore s b) ∧ t.mem = (writeAll s (vecOut s d).writes).mem ∧
        sameOutside s t ((vecOut s d).writes.map fun w => (w.1, w.2.length)) ∧ (vConc d = false → vecWritten s t d)) ∧
      (vecCheck s c d = .invalid → ∃ t, exec i s = .next t ∧ eventsOnly (setCore s c { x with vecQ := rest }) t ∧
        t = raise (setCore s c { x with vecQ := rest }) 0x1002 (srcCore c) (toLe 4 (srcCore c))) ∧
      (∀ k, vecCheck s c d = k → k ≠ .ok → exec i s = .next (failCheck (setCore s c { x with vecQ := rest }) c 0x1002 k))

/-- R140: the vector operation in flight completes: the record is written at EXC_ADDR, then the RES word and the output tag where
the descriptor asks for them, memory changes nowhere else, and SIG_CTR, where there is one, gains one token. -/
def Obligations.VectorCompleteWritesRecords : Prop :=
  ∀ (s u : State) (c : CoreId) (x : Core) (v : VecRun) (a b o : Nat), getCore s c = x → x.vec = some v →
    opStalled s c v.ord = false → canonical s → vExc v.desc = a → vRes v.desc = b → vOtag v.desc = o →
    wrMem (setCore s c { x with vec := none }) a (excBytes v.exc) = u →
    ∃ w t, w = (if o = 0 then (if b = 0 then u else wrMem u b (le64 v.res))
        else wrMem (if b = 0 then u else wrMem u b (le64 v.res)) o (le64 v.otag)) ∧
      exec (.vectorComplete c) s = .next t ∧
      t = signalField (if v.final then finalRecord w c v.exc a else w) c (vSig v.desc) ∧ t.mem = w.mem ∧
      (getCore t c).vec = none ∧ (getCore t c).vecQ = x.vecQ ∧
      sameOutside s t [(a, (excBytes v.exc).length), (b, 8), (o, 8)] ∧
      (o ≠ 0 → rdMem t o 8 = le64 v.otag) ∧ (o = 0 → b ≠ 0 → rdMem t b 8 = le64 v.res) ∧
      (o = 0 → b = 0 → rdMem t a (excBytes v.exc).length = excBytes v.exc) ∧
      (vSig v.desc = 0xFF → (getCore t c).ctr = x.ctr) ∧
      (vSig v.desc ≠ 0xFF → smGet 0 x.ctr (vSig v.desc) < 1048575 →
        smGet 0 (getCore t c).ctr (vSig v.desc) = smGet 0 x.ctr (vSig v.desc) + 1)

/-- R164, R167, R168: a valid mover that no earlier mover in flight holds back starts under the command of its code: its
writes are its own rows (for COMPARE its result byte), it takes its tokens and joins the movers in flight. COPY leaves at each
destination row what its source row held, GATHER what the row of its index held, SCATTER (with no index twice) each source row at
the row of its index, FILL the pattern; SIGNAL changes no memory; COMPARE writes 0x00 for equal rows, else 0x01. R226: a COMPARE
with STOP that finds a difference stops the program, raises 0x4104 and aborts the attempt. R445: a mover waits while a stack that it
reads or writes is in self-refresh. -/
def Obligations.MoverStartWritesRows : Prop :=
  ∀ (s : State) (c : CoreId) (x : Core) (e : QEntry) (rest : List QEntry) (d : Bytes) (idx : List Nat) (i : Instr),
    (i, mOp d) ∈ ([(.copy c, 1), (.gather c, 2), (.scatter c, 3), (.fill c, 4), (.signal c, 5), (.compare c, 6)] :
      List (Instr × Nat)) →
    getCore s c = x → desc64 s e = d → readIdx s d = idx → x.movQ = e :: rest → s.stp.state ≠ .suspended → x.stopped = false →
    x.movs.length < 4 → ready s x e = true → mForm d = true → listHeld x d = false →
    movCheck s c d idx = .ok → movHeld x d idx = false → canonical s →
    (movStackHeld s d idx = true → exec i s = .next s) ∧ (movStackHeld s d idx = false →
    (mStop d = false ∨ rowsEqual s (mSrcRows d idx) (mDstRows d idx) = true →
      ∃ t, exec i s = .next t ∧ t = { s with mem := t.mem, cores := t.cores } ∧
        getCore t c = { consume x e with movQ := rest, movs := x.movs ++ [MovRun.mk d false idx e.ord] } ∧
        t.mem = (movEffect s d idx).1.mem ∧ sameOutside s t (mWrites d idx) ∧
        (mOp d = 1 → ∀ r < mRows d, rdMem t (mDst d + r * mDs d) (mBytes d) = rdMem s (mSrc d + r * mSs d) (mBytes d)) ∧
        (mOp d = 2 → ∀ r < mRows d,
          rdMem t (mDst d + r * mDs d) (mBytes d) = rdMem s (mSrc d + idx.getD r 0 * mSs d) (mBytes d)) ∧
        (mOp d = 3 → idx.Nodup → ∀ r < mRows d,
          rdMem t (mDst d + idx.getD r 0 * mDs d) (mBytes d) = rdMem s (mSrc d + r * mSs d) (mBytes d)) ∧
        (mOp d = 4 → ∀ r < mRows d,
          rdMem t (mDst d + r * mDs d) (mBytes d) = fillRow (rdMem s (mAux d) 16) (mBytes d)) ∧
        (mOp d = 5 → t.mem = s.mem) ∧
        (mOp d = 6 → rdMem t (mAux d) 1 = [if rowsEqual s (mSrcRows d idx) (mDstRows d idx) then 0 else 1])) ∧
    (mStop d = true → rowsEqual s (mSrcRows d idx) (mDstRows d idx) = false →
      exec i s = .next (startAbort (raise (setCore (wrMem s (mAux d) [1]) c
        { consume x e with movQ := rest, movs := x.movs ++ [MovRun.mk d true idx e.ord], stopped := true })
        0x4104 (srcCore c) []) cStale)))

/-- R165: a mover in flight completes: it frees its entry, and where SIG_CTR names a counter below its largest value that counter
gains one token; then the counter of another core that REMOTE names gains one where a remote signal is asked. A mover that
stopped its program signals nothing. -/
def Obligations.MoverCompleteSignals : Prop :=
  ∀ (s u : State) (c : CoreId) (x : Core) (k : Fin 4) (m : MovRun), getCore s c = x → x.movs[k.val]? = some m →
    s.stp.state ≠ .suspended → opStalled s c m.ord = false → canonical s →
    setCore s c { x with movs := dropAt x.movs k.val } = u →
      (m.stop = true → exec (.moverComplete c k) s = .next u) ∧
      (m.stop = false → mSigRemote m.desc = false → mSig m.desc = 0xFF → exec (.moverComplete c k) s = .next u) ∧
      (m.stop = false → mSigRemote m.desc = false → mSig m.desc ≠ 0xFF → smGet 0 x.ctr (mSig m.desc) < 1048575 →
        ∃ t, exec (.moverComplete c k) s = .next t ∧ t = { s with cores := t.cores } ∧
          (getCore t c).movs = dropAt x.movs k.val ∧
          smGet 0 (getCore t c).ctr (mSig m.desc) = smGet 0 x.ctr (mSig m.desc) + 1) ∧
      (m.stop = false → mSigRemote m.desc = true →
        exec (.moverComplete c k) s = .next (signalRemote (signalField u c (mSig m.desc)) (mRemote m.desc)) ∧
        ∀ (b : CoreId) (i n l j : Nat), remoteOf (mRemote m.desc) = (i, n, l, j) → remoteOk s (mRemote m.desc) = true →
          coreOfIdx (j * 64 + l * 8 + n) = b → mSig m.desc = 0xFF → smGet 0 (getCore s b).ctr i < 1048575 →
            ∃ t, exec (.moverComplete c k) s = .next t ∧ t = { s with cores := t.cores } ∧
              (getCore t c).movs = dropAt x.movs k.val ∧
              smGet 0 (getCore t b).ctr i = smGet 0 (getCore s b).ctr i + 1)

/-- R260, R261, R271: a valid collective whose receive slot is free starts under the command of its code: it takes its tokens,
joins the collectives in progress and goes as far as its messages allow; a ring round also sends its credit to the ring
predecessor. R264: one that breaks the order of the exchange raises sequence-fault and aborts; R262: one that fails validation
raises the event of the step it fails. -/
def Obligations.CollectiveStartJoins : Prop :=
  ∀ (s : State) (c : CoreId) (x : Core) (e : QEntry) (rest : List QEntry) (d : Bytes) (i : Instr),
    (i, kCop d) ∈ ([(.reduceScatter c, 1), (.allReduce c, 2), (.reduce c, 3), (.allGather c, 4), (.broadcast c, 5),
      (.ringStep c, 6)] : List (Instr × Nat)) →
    getCore s c = x → desc128 s e = d → x.colQ = e :: rest → s.stp.state ≠ .suspended → x.stopped = false →
    ready s x e = true → canonical s →
      (∀ k, colCheck s c d = .ok → kCtx s (kSched d) = some k →
        (strangers s x d k = [] → slotClash s x d k = false →
          exec i s = .next (launchCol (setCore s c { consume x e with colQ := rest }) c (newRun s d none e.ord) k) ∧
          ∃ t r, exec i s = .next t ∧ r ∈ (getCore t c).cols ∧ r.desc = d ∧ r.ord = e.ord ∧ r.job = none ∧
            (getCore t c).ctr = (consume x e).ctr ∧
            (kCop d = 6 → t.bus.ring = s.bus.ring ++ [(memberId k.group (myId s) ((k.me + k.size - 1) % k.size), coreIdx c,
              kSched d, kRound d, kSeq d)])) ∧
        ((strangers s x d k ≠ [] ∨ slotClash s x d k = true) →
          exec i s = .next (breakOrder (setCore s c { x with colQ := rest }) c (strangers s x d k)))) ∧
      (∀ k, colCheck s c d = k → k ≠ .ok → exec i s = .next (failCol (setCore s c { x with colQ := rest }) c k))

/-- R263, R271: a collective whose chunks are done, with the messages at hand taken, and whose messages are all delivered
completes: it leaves the collectives in progress, its instance counts as completed, its messages leave their receive slots, its
record stands at EXC_ADDR, memory changes nowhere else and SIG_CTR gains one token. A norm's own run leaves the root instead (R232); in the norm check the stages after the runs go on. A credit from the ring successor is kept for its round. -/
def Obligations.CollectiveCompleteLeaves : Prop :=
  (∀ (s u : State) (c : CoreId) (k : Fin 8) (r : ColRun) (m : ExcRec), pumpCore s c = u → (getCore u c).cols[k.val]? = some r →
      kDone u r = true → kDelivered u r = true → u.stp.state ≠ .suspended → u.stp.state ≠ .aborting →
      opStalled u c r.ord = false → canonical s →
      { r.exc with terms := kTerms u r, leaf := List.replicate 8 0xFFFF } = m →
        ∃ t, exec (.collectiveComplete c k) s = .next (stageNext t) ∧
          (u.stp.state ≠ .normCheck → exec (.collectiveComplete c k) s = .next t) ∧ (getCore t c).cols = dropAt (getCore u c).cols k.val ∧
          (kSched r.desc, kSeq r.desc) ∈ (getCore t c).doneCols ∧
          (∀ g ∈ (getCore t c).recv, ¬(g.attempt = u.stp.curTag ∧ g.sched = kSched r.desc ∧ g.seq = kSeq r.desc)) ∧
          (r.job = none → t.stp = u.stp ∧ sameOutside u t [(kExc r.desc, (excBytes m).length)] ∧
            rdMem t (kExc r.desc) (excBytes m).length = excBytes m ∧
            (kSig r.desc = 0xFF → (getCore t c).ctr = (getCore u c).ctr) ∧
            (kSig r.desc ≠ 0xFF → smGet 0 (getCore u c).ctr (kSig r.desc) < 1048575 →
              smGet 0 (getCore t c).ctr (kSig r.desc) = smGet 0 (getCore u c).ctr (kSig r.desc) + 1)) ∧
          (∀ own out a, r.job = some (.norm own out) → u.stp.att = some a → t.mem = u.mem ∧
            t.stp.att = some { a with norm := some (storeDword (deepOf out)).1 } ∧
            t.stp.normHi = (storeDword (deepOf out)).1.1)) ∧
  (∀ (s : State) (c : CoreId) (x : Core) (sched round : BitVec 16) (seq : W32), getCore s c = x →
      exec (.ringCredit c sched round seq) s = .next (pumpCore
          (setCore s c { x with credits := x.credits ++ [(sched.toNat, round.toNat, seq.toNat)] }) c) ∧
      (x.cols = [] → exec (.ringCredit c sched round seq) s =
        .next (setCore s c { x with credits := x.credits ++ [(sched.toNat, round.toNat, seq.toNat)] })))

/-- R264, R276: a part of a collective message of an earlier attempt is answered as delivered and changes no core and no
memory; one of a wrong epoch raises epoch-fault and is answered with status 3; one that breaks the order of its exchange raises
sequence-fault; any other joins the message of its instance, and the core's collectives go on. A message of E + 1 inside the
re-shard lock is judged by the target layout. That an epoch-fault is answered with status 3 and what was only dropped or delivered
with status 0 rests on R300 and R301 as log entry 42 reads them (DESIGN CHOICE); that the message spoils the slot of an earlier one
is log entry 45. -/
def Obligations.ReduceArrivalByAttempt : Prop :=
  ∀ (s u : State) (c : CoreId) (x : Core) (txn : Txn) (tag : W32) (sched seq : Nat), getCore s c = x → takeLanded s txn = u →
    fld32 txn.fields 12 = tag → txnFld txn 16 2 = sched → txnFld txn 24 4 = seq →
    (tag.toNat < s.stp.curTag.toNat → ∃ t, exec (.reduceTransaction c txn) s = .next t ∧
      t.cores = s.cores ∧ t.mem = s.mem ∧ t = sendComplOn u (railOfDie c.die.val) txn 0) ∧
    (s.stp.curTag.toNat ≤ tag.toNat → epochOk s txn.epoch = false →
      exec (.reduceTransaction c txn) s = .next (sendComplOn (epochFault u) (railOfDie c.die.val) txn 3)) ∧
    (s.stp.curTag.toNat ≤ tag.toNat → epochOk s txn.epoch = true → kCtxAt s txn.epoch sched = none →
      exec (.reduceTransaction c txn) s = .next (sendComplOn (sequenceFault u) (railOfDie c.die.val) txn 0)) ∧
    (s.stp.curTag.toNat ≤ tag.toNat → epochOk s txn.epoch = true → ∀ k, kCtxAt s txn.epoch sched = some k →
      (arrivalOk k x sched seq (txnFld txn 18 3) (txnFld txn 21 3) = false ∨ slotTaken s x k.runahead sched seq tag = true ∨
          tag = s.stp.curTag ∧ x.doneCols.contains (sched, seq) = true ∨ txnFld txn 34 2 ≤ txnFld txn 32 2 ∨
          addPart x.recv txn = none →
        exec (.reduceTransaction c txn) s = .next (sendComplOn (sequenceFault u) (railOfDie c.die.val) txn 0)) ∧
      (∀ l, arrivalOk k x sched seq (txnFld txn 18 3) (txnFld txn 21 3) = true → slotTaken s x k.runahead sched seq tag = false →
        (tag = s.stp.curTag → x.doneCols.contains (sched, seq) = false) → txnFld txn 32 2 < txnFld txn 34 2 →
        addPart x.recv txn = some l →
        exec (.reduceTransaction c txn) s = .next (pumpCore (sendComplOn (setCore (spoilSlot u c k seq) c { x with recv := l })
          (railOfDie c.die.val) txn 0) c) ∧
        (x.cols = [] → ∃ t, exec (.reduceTransaction c txn) s = .next t ∧ (getCore t c).recv = l)) ∧
      (x.recv = [] → ∃ g, addPart x.recv txn = some [g] ∧ isMsg txn g = true ∧ g.got = [partOf txn] ∧ g.parts = txnFld txn 34 2))

/-! Arbiters, parity, HBM. -/

/-- R160: the HBM requests of a transfer are of 32 to 512 bytes, aligned to 32 bytes, none crosses a 512-byte granule, and
together they hold every byte of the transfer. R176, R177: what arrives at an arbiter are the requests of the transfers, cut to its
grant unit, with their own class. R178, R179, R180, R181: one slot of an arbiter. Among the requests that stand and are masked
neither by a sideband nor by a spent urgent quota, exactly one is granted when there is any; at a large arbiter its effective
priority is the highest, at a small one it is urgent whenever any of them is; the round-robin pointer moves past the requester that
was granted. A new quota window counts every requester's urgent grants from 0; a sideband that masks a requester keeps every later
slot from granting it, until its island runs again. A requester with a request parked does not enter deep-sleep. -/
def Obligations.ArbiterGrantsByPriority : Prop :=
  (∀ addr n : Nat, 1 ≤ n →
    (∀ p ∈ hbmRequests addr n, p.1 % 32 = 0 ∧ p.2 % 32 = 0 ∧ 32 ≤ p.2 ∧ p.2 ≤ 512 ∧ p.1 / 512 = (p.1 + p.2 - 1) / 512) ∧
      ∀ b, addr ≤ b → b < addr + n → ∃ p ∈ hbmRequests addr n, p.1 ≤ b ∧ b < p.1 + p.2) ∧
  (∀ (s : State) (a : ArbId) (arrivals : List Arrival) (x : Arb) (pool : List ArbReq),
      x = { getArb s a with reqs := (getArb s a).reqs ++ arrivals.flatMap (arrivalReqs s a) } →
      pool = ((standing x).filter fun r => !reqMasked s a x r) →
        ∃ y, exec (.arbiterGrant a arrivals) s = .next (setArb s a y) ∧ y.masked = x.masked ∧
          (pool = [] → y.last = none ∧ y.reqs = x.reqs ∧ y.ptr = x.ptr) ∧
          (pool ≠ [] → ∃ g ∈ pool, y.last = some g.req ∧ g.req ∉ x.masked ∧ reqAsleep s a g.req = false ∧
            y.ptr = (g.req + 1) % arbRequesters a.kind.val ∧ y.reqs.length + 1 = x.reqs.length ∧
            (g.cls = .urgent → smGet 0 x.urgent g.req < quotaOf s a g.req) ∧
            (arbLarge a.kind.val = true → ∀ r ∈ pool, effPriority r ≤ effPriority g) ∧
            (arbLarge a.kind.val = false → (∃ r ∈ pool, r.cls = .urgent) → g.cls = .urgent))) ∧
  ((∀ (s : State) (a : ArbId) (x : Arb), getArb s a = x →
      exec (.quotaWindow a) s = .next (setArb s a { x with urgent := [] })) ∧
    (∀ (s : State) (a : ArbId) (req : Nat) (cond : MaskCond),
      cond = .inReset ∨ cond = .resetLevelSleep ∨ cond = .deepSleep ∧ (∀ r ∈ (getArb s a).reqs, r.req ≠ req) →
      ∃ y, exec (.islandMask a req cond) s = .next (setArb s a y) ∧ req ∈ y.masked ∧
        ∀ arrivals, (arbSlot (setArb s a y) a arrivals).last ≠ some req) ∧
    (∀ (s : State) (a : ArbId) (x : Arb) (req : Nat), getArb s a = x →
      exec (.islandMask a req .running) s = .next (setArb s a { x with masked := x.masked.filter (· != req) }) ∧
      ((∃ r ∈ x.reqs, r.req = req) → exec (.islandMask a req .deepSleep) s = .next (setArb s a x)) ∧
      exec (.islandMask a req .resetLevelSleep) s = .next (setArb s a { x with
        masked := if x.masked.contains req then x.masked else x.masked ++ [req], reqs := x.reqs.filter fun r => r.req != req })))

/-- R172, R173: a replay that passes counts at its unit and changes no memory, no core and no step state. R174, R175: a second
failure stalls its operation. For a working copy that nothing is rebuilding the step goes on; for any other datum the running
attempt aborts, and neither memory nor the committed step and bank change. The rebuilding program's end lets the stalled access
go on. -/
def Obligations.ParityReplayOrAbort : Prop :=
  (∀ (s : State) (p : ParityCase), p.second = false → ∃ t, exec (.parityReplay p) s = .next t ∧
      smGet 0 t.par.replays p.unit.toNat = smGet 0 s.par.replays p.unit.toNat + 1 ∧ p.unit ∈ t.par.raised ∧
      t.par.stalls = s.par.stalls ∧ t.mem = s.mem ∧ t.cores = s.cores ∧ t.stp = s.stp) ∧
  ((∀ (s : State) (p : ParityCase), p.second = true → ∃ t st, exec (.parityReplay p) s = .next t ∧
      t.par.stalls = s.par.stalls ++ [st] ∧ st.unit = p.unit ∧ st.addr = p.src.toNat ∧
      st.regen = (workingCopy s p && !p.rebuilding) ∧ t.mem = s.mem ∧ t.stp.bank = s.stp.bank ∧ t.stp.c = s.stp.c ∧
      (st.regen = true → t.stp = s.stp) ∧
      (st.regen = false → ∀ a, s.stp.att = some a → a.point < 4 → s.stp.state ≠ .suspended → t.stp.state = .aborting)) ∧
    ∀ (s : State) (addr : BitVec 48) (p : Stall), s.stp.state ≠ .suspended →
      s.par.stalls.find? (fun p => p.regen && p.addr == addr.toNat) = some p →
      ∃ t, exec (.regenerated addr) s = .next t ∧ t.par.stalls = s.par.stalls.erase p ∧ t.mem = s.mem ∧ t.stp = s.stp ∧
        t.cores = s.cores)

/-- R162: refresh and scrubbing of a stack of the shape change no data; a scrub read moves on to the next granule, and an
uncorrectable error queues the granule for the next inspection. -/
def Obligations.RefreshAndScrubKeepData : Prop :=
  (∀ (s : State) (k : Fin 24), k.val < stackCount s →
    exec (.hbmRefresh k) s = .next { s with par := { s.par with refresh := smUpd 0 s.par.refresh k.val (· + 1) } }) ∧
  ∀ (s : State) (k : Fin 24) (bad : Bool) (die i : Nat), stackPlace (curDies s) 0 k.val = some (die, i) →
    ∃ t, exec (.scrubRead k bad) s = .next t ∧ t.mem = s.mem ∧ t.cores = s.cores ∧ t.stp = s.stp ∧
      t.par.scrub = smSet 0 s.par.scrub k.val ((smGet 0 s.par.scrub k.val + 1) % 50331648) ∧
      (bad = false → t.spr = s.spr) ∧
      (bad = true → s.spr.queue.length < 4096 → t.spr.queue = s.spr.queue ++
        [QueuedLoc.mk (BitVec.ofNat 32 (srcStack die i)) (k.val * 25769803776 + 512 * smGet 0 s.par.scrub k.val) 4])

/-! Sample intake. -/

/-- R199, R200: a manifest at the head of a stream's submissions. A valid one joins the stream's queue with its entries, its
digest is taken, and its concealed-bit array is zeroed (no part of a bank, R222), which is all that changes in memory; an invalid one leaves the
submissions, marks the stream and changes no memory, and the running attempt aborts. (Of a manifest of an attempt, outside
replay.) R445: while a stack is in self-refresh the validation waits. -/
def Obligations.ManifestQueuedOrInvalid : Prop :=
  ∀ (s : State) (die : Fin 12) (st : Fin 8) (x : Stream) (addr p n : Nat) (rest : List (Nat × Option Nat)) (h : Bytes),
    getStream s (streamIdx die.val st.val) = x → x.subs = (addr, some p) :: rest → s.stp.state ≠ .suspended →
    x.queue.length < 4 → replayRec s = none → manHeader s addr = h → mhCount h = n → canonical s →
      (anyStackHolds s = true → exec (.manifestValidation die st) s = .next s) ∧ (anyStackHolds s = false →
      (manifestOk s addr die.val st.val (some p) = true → ∃ t, exec (.manifestValidation die st) s = .next t ∧
        (getStream t (streamIdx die.val st.val)).subs = rest ∧
        (getStream t (streamIdx die.val st.val)).queue = x.queue ++ [Man.mk x.nextNum h (manEntries s addr h)
          (digest32 (rdMem s addr (128 * (n + 1)))) 0 0] ∧
        (touchesAnyBank s (mhConc h) (ceilDiv n 8) = false →
          rdMem t (mhConc h) (ceilDiv n 8) = List.replicate (ceilDiv n 8) 0) ∧
        sameOutside s t [(mhConc h, ceilDiv n 8)]) ∧
      (manifestOk s addr die.val st.val (some p) = false → ∃ t, exec (.manifestValidation die st) s = .next t ∧
        (getStream t (streamIdx die.val st.val)).invalid = true ∧ t.mem = s.mem ∧
        ∀ a, s.stp.att = some a → a.point < 4 → t.stp.state = .aborting))

/-- R201, R202: a stream admits the next entry of its first manifest that has any left, while its window of 64 has room; a free engine of a slipway whose island runs takes the first waiting sample
of its kind (one whose input lies in host memory waits while the link's function is in D3hot, R407), round-robin over the streams from its pointer. -/
def Obligations.SamplesAdmittedAndGranted : Prop :=
  (∀ (s : State) (die : Fin 12) (st : Fin 8) (x : Stream) (p : List Man) (m : Man) (ms : List Man),
    getStream s (streamIdx die.val st.val) = x → s.stp.state ≠ .suspended → x.queue = p ++ m :: ms →
    (∀ y ∈ p, y.ents.length ≤ y.next) → m.next < m.ents.length →
      (x.window.length < 64 → exec (.sampleAdmit die st) s = .next (setStream s (streamIdx die.val st.val)
        { x with queue := p ++ { m with next := m.next + 1 } :: ms,
                 window := x.window ++ [Sample.mk m.num m.next (m.ents.getD m.next []) .waiting] })) ∧
      (64 ≤ x.window.length → exec (.sampleAdmit die st) s = .next s)) ∧
  ∀ (s : State) (die : Fin 12) (k : EngineKind) (e : Fin 4) (sl : Slipway) (ptr n : Nat) (m : Sample),
    getSlip s die.val = sl → s.stp.state ≠ .suspended → computeStopped s (islandId 4 die.val 0) = false →
    smGet none sl.busy (engineKey k e.val) = none → e.val < enginesUp s die.val (kindIndex k) → smGet 0 sl.ptr (engineKey k e.val) = ptr → n < 8 →
    (∀ j < n, firstWaiting s k (getStream s (streamIdx die.val ((ptr + j) % 8))).window = none) →
    firstWaiting s k (getStream s (streamIdx die.val ((ptr + n) % 8))).window = some m →
      ∃ t, exec (.engineGrant die k e) s = .next t ∧
        getSlip t die.val = { sl with
          busy := smSet none sl.busy (engineKey k e.val) (some (Decoding.mk ((ptr + n) % 8) m.man m.idx)),
          ptr := smSet 0 sl.ptr (engineKey k e.val) (((ptr + n) % 8 + 1) % 8) } ∧
        (getStream t (streamIdx die.val ((ptr + n) % 8))).window =
          markSample (getStream s (streamIdx die.val ((ptr + n) % 8))).window m.man m.idx .decoding ∧
        t.mem = s.mem ∧ t.cores = s.cores

/-- R203, R212: the decode of an engine ends: the engine is free and its sample is ready with the output and the outcome record of
its decoder, which say fetch failure when the bytes could not be fetched (or a replay repeats that failure, R332); no memory
changes before the release. R409: an input in host memory that does not come, or whose link is down, raises dma-error and ends the
decode as a fetch failure (log entry 113). R204: the oldest
sample of a stream's window, once ready, leaves it: its output, its concealed bit (set only when its outcome is not 0, the other
bits of the byte kept) and its outcome record are written, and nothing else in memory, and the REMOTE counter gains one token
(outputs that overlap nothing else that the release writes, outside the banks, R222). -/
def Obligations.SamplesReadyThenReleased : Prop :=
  (∀ (s : State) (die : Fin 12) (k : EngineKind) (e : Fin 4) (fetched : Bool) (sl : Slipway) (d : Decoding) (x : Stream)
      (m : Sample) (reach : Bool) (w : List (Nat × Bytes)) (r : Bytes) (u : Nat), getSlip s die.val = sl → smGet none sl.busy (engineKey k e.val) = some d → s.stp.state ≠ .suspended →
      getStream s (streamIdx die.val d.stream) = x → x.window.find? (fun m => m.man == d.man && m.idx == d.idx) = some m →
      (fetched && (isEvalStream s (streamIdx die.val d.stream) ||
        !replayFetchFailed s (((x.queue.find? fun q => q.num == m.man).map fun q => mhPass q.hdr).getD 0) die.val d.stream
          m.idx)) = reach →
      (hostReadFails s die.val k e.val fetched = true → ∃ t w r, exec (.sampleReady die k e fetched) s = .next t ∧
        t = endDecode (raiseSampleDma s die k e) die.val k e.val false ∧ eventsOnly s (raiseSampleDma s die k e) ∧ t.mem = s.mem ∧
        (getSlip t die.val).busy = smSet none sl.busy (engineKey k e.val) none ∧ outcomeOf r = 4 ∧
        (getStream t (streamIdx die.val d.stream)).window = markSample x.window d.man d.idx (.ready w r)) ∧
      (hostReadFails s die.val k e.val fetched = false → finishDecode s m.ent ((profileOf s die.val d.stream (eProfile m.ent)).getD []) reach = (w, r, u) →
        exec (.sampleReady die k e fetched) s = .next
          (setStream (setSlip s die.val { sl with busy := smSet none sl.busy (engineKey k e.val) none })
            (streamIdx die.val d.stream)
            { x with window := markSample x.window d.man d.idx (.ready w r), units := satAdd64 x.units u }) ∧
          (fetched = false → outcomeOf r = 4 ∧ u = 0) ∧ (s.hold.replay = none → reach = fetched))) ∧
  (∀ (s : State) (die : Fin 12) (st : Fin 8) (x : Stream) (m : Sample) (ms : List Sample) (w : List (Nat × Bytes)) (r : Bytes)
      (q : Man), getStream s (streamIdx die.val st.val) = x → s.stp.state ≠ .suspended → anyStackHolds s = false → x.window = m :: ms →
      m.st = .ready w r → x.queue.find? (fun q => q.num == m.man) = some q → canonical s →
        ∃ t, exec (.release die st) s = .next t ∧ (getStream t (streamIdx die.val st.val)).window = ms ∧
          (getStream t (streamIdx die.val st.val)).samples = x.samples + 1 ∧
          (touchesAnyBank s (mhOutc q.hdr + 32 * m.idx) r.length = false →
            rdMem t (mhOutc q.hdr + 32 * m.idx) r.length = r) ∧
          (disjointRanges (w.map (fun y => (y.1, y.2.length)) ++
              [(mhConc q.hdr + eSlot m.ent / 8, 1), (mhOutc q.hdr + 32 * m.idx, r.length)]) = true →
            (∀ y ∈ w, touchesAnyBank s y.1 y.2.length = false → rdMem t y.1 y.2.length = y.2) ∧
            (touchesAnyBank s (mhConc q.hdr + eSlot m.ent / 8) 1 = false →
              rdMem t (mhConc q.hdr + eSlot m.ent / 8) 1 =
                [BitVec.ofNat 8 (rdElem s (mhConc q.hdr + eSlot m.ent / 8) 1) |||
                  (if outcomeOf r = 0 then 0 else BitVec.ofNat 8 (2 ^ (eSlot m.ent % 8)))])) ∧
          (∀ (b : CoreId) (i n l j : Nat), remoteOf (mhRemote q.hdr) = (i, n, l, j) → remoteOk s (mhRemote q.hdr) = true →
            coreOfIdx (j * 64 + l * 8 + n) = b → smGet 0 (getCore s b).ctr i < 1048575 →
              smGet 0 (getCore t b).ctr i = smGet 0 (getCore s b).ctr i + 1) ∧
          sameOutside s t (w.map (fun y => (y.1, y.2.length)) ++ [(mhOutc q.hdr + 32 * m.idx, r.length)] ++
            if outcomeOf r = 0 then [] else [(mhConc q.hdr + eSlot m.ent / 8, 1)]))
/-! The training step: from the step entry to the flip. -/

/-- R215, R427, R428: a STEP entry at the head of the control order. In idle a valid one starts attempt C + 1: the committed
bank and C stay, the entry runs, and every core of the shape starts with its counters empty and no run done. In stopped, in
evaluation, and when it breaks R215, it leaves the order with no change to the step machine or to memory. In suspended and
aborting it waits at the head. (The start outside replay, with no message of a later attempt kept.) -/
def Obligations.StepEntryStartsAttempt : Prop :=
  ∀ (s : State) (j : JobEnt), headEntry s 1 = some j →
    (s.stp.state = .idle → stepOk s j = true → s.hold.replay = none → s.stp.kept = [] → canonical s →
      ∃ t a, exec .step s = .next t ∧ t.stp.state = .passes ∧ t.stp.att = some a ∧ a.step = s.stp.c + 1 ∧ a.np = seNp j ∧
        a.tag = seTag j ∧ a.point = 0 ∧ a.verdict = none ∧ t.stp.c = s.stp.c ∧ t.stp.a = s.stp.a ∧ t.stp.bank = s.stp.bank ∧
        t.stp.lastTag = seTag j ∧ t.ctl.running = some j ∧ t.ctl.waiting = s.ctl.waiting.drop 1 ∧
        ∀ c ∈ allCores s, (getCore t c).ctr = [] ∧ (getCore t c).run = 0 ∧ (getCore t c).runActive = false) ∧
    (s.stp.state = .idle → stepOk s j = false → ∃ t, exec .step s = .next t ∧ t.stp = s.stp ∧ t.mem = s.mem ∧
      t.cores = s.cores ∧ t.ctl.waiting = s.ctl.waiting.drop 1) ∧
    (s.stp.state = .stopped ∨ s.stp.state = .evaluation → ∃ t, exec .step s = .next t ∧ t.stp = s.stp ∧ t.mem = s.mem ∧
      t.cores = s.cores ∧ t.ctl.waiting = s.ctl.waiting.drop 1) ∧
    (s.stp.state = .suspended ∨ s.stp.state = .aborting → exec .step s = .next s)

/-- R484, R429: a run of a core's image starts at its entry, with its number in bytes 60 to 63 of the image, which are all
that changes in memory. -/
def Obligations.RunStartWritesNumber : Prop :=
  ∀ (s : State) (c : CoreId) (x : Core) (i : Image), getCore s c = x → imageOf s (coreIdx c) = some i → runReady s x = true →
    canonical s → ∃ t, exec (.passRunStart c) s = .next t ∧ (getCore t c).runActive = true ∧ (getCore t c).run = x.run ∧
      (getCore t c).fwdEnded = false ∧ (getCore t c).runStarts = x.runStarts ++ [x.nextOrd] ∧
      rdMem t (coreBase c + i.loadOff + 60) 4 = toLe 4 x.run ∧ sameOutside s t [(coreBase c + i.loadOff + 60, 4)] ∧
      (rdElem t (coreBase c + i.entryOff) 1 ≠ 5 → (getCore t c).pc = coreBase c + i.entryOff)

/-- R339, R340: the next pass is paged in once the run of the pass before has ended on every core (a reading: log entry 37). Where its rows are all resident it counts as
paged, and no memory and no durable version changes. A listed row that is not resident comes from its newest durable version into
half 0 of a free slot, half 1 is emptied, memory changes nowhere else, and the slot table names each listed row's current and
other half. R445: it waits while a stack is in self-refresh. -/
def Obligations.BallastPassPagedIn : Prop :=
  ∀ (s : State) (a : Attempt) (p : Nat), s.stp.att = some a → s.stp.state = .passes → hasBallast s = true →
    nextPaged a = some p → (p ≠ 0 → passEnded s (p - 1) = true) → canonical s →
      (anyStackHolds s = true → exec .ballastPageIn s = .next s) ∧ (anyStackHolds s = false →
      ((∀ r ∈ balRowsOf s p, slotOfRow s r ≠ none) →
        ∃ t, exec .ballastPageIn s = .next t ∧ t.stp = { s.stp with att := some { a with paged := a.paged ++ [p] } } ∧
          t.mem = s.mem ∧ t.hold.bal = s.hold.bal ∧ t.hold.useOrd = s.hold.useOrd + 1) ∧
      ∀ (l1 l2 : List Nat) (r k : Nat) (v : BallastRow), balRowsOf s p = l1 ++ r :: l2 → slotOfRow s r = none →
        (∀ y ∈ l1 ++ l2, slotOfRow s y ≠ none) → freeSlot (s.hold.cache.map fun q => q.1) (s.hold.cache.length + 1) 0 = k →
        k < balSlots s → newestOf s.hold.bal r = some v →
          ∃ t, exec .ballastPageIn s = .next t ∧ t.stp = { s.stp with att := some { a with paged := a.paged ++ [p] } } ∧
            getSlotB t k = { row := some r, ver0 := v.ver, ver1 := emptyVer, lastUse := s.hold.useOrd + 1 } ∧
            rdMem t (halfAddr s k 0) (sub v.bytes 0 (balRow s)).length = sub v.bytes 0 (balRow s) ∧
            sameOutside s t [(halfAddr s k 0, balRow s)] ∧ t.hold.bal = s.hold.bal ∧
            t.hold.slotTable = slotTableOf t (balRowsOf s p))

/-- R231, R232, R228: after the last run, stage 2 starts on the regions that the finalise program names: each region with a schedule
begins its replica ALL_REDUCE, the member's own latch goes up the job tree, and the norm follows once every reduction is done. A
region of a device alone in its replica group needs none: its gradient is written as the single rounding of its entries, nothing
else changes in memory, and NORMSQ of a norm group of one shows in STP_NORMSQ. (The verdict still waits for the job tree: for a child's
latch, or for the parent's answer.) That a region may name no schedule and is then finalised alone is the model's, log entry 81
(DESIGN CHOICE); the root of a norm group of one is log entry 47. -/
def Obligations.ReplicaReductionFinalises : Prop :=
  ∀ (s : State) (a : Attempt) (rs : List GradRegion) (q : W32), s.stp.att = some a → s.stp.state = .passes → runsDone s a = true →
    regionsOk s rs = true → canonical s →
      exec (.replicaReduction rs q) s = .next (stageNext (tryVerdictUp (setAtt { s with stp := { s.stp with state := .normCheck } }
        { a with reduced := true, grads := rs, todo := rs.filter fun r => r.sched.isSome, normSeq := q }))) ∧
      ∀ r : GradRegion, rs = [r] → r.sched = none → a.jobLoss = none → a.finalised = false →
        (∀ k, kCtx s (((curLayout s).map fun l => l.normSched).getD 0) = some k → k.size = 1) →
        ((jobKids s).all a.upFrom.contains = false ∨
          ∃ p, jobParent s = some p ∧ routable s (BitVec.ofNat 18 (jobMemberId s p)).toNat = true) →
          ∃ t b n, exec (.replicaReduction [r] q) s = .next t ∧ t.stp.state = .normCheck ∧ t.stp.bank = s.stp.bank ∧
            t.stp.c = s.stp.c ∧ t.stp.a = s.stp.a ∧
            rdMem t r.grad.toNat (4 * r.elems) = ((List.range r.elems).map fun i =>
              toLe 4 (toFp32 (op32 (deepOf (rdMem s (r.acc.toNat + 16 * i) 16), false)
                [deepOf (rdMem s (r.acc.toNat + 16 * i) 16)]).1)).flatten ∧
            sameOutside s t [(r.grad.toNat, 4 * r.elems)] ∧ t.stp.att = some b ∧ b.norm = some n ∧ t.stp.normHi = n.1 ∧
            n = (storeDword (deepOf (deepBytes (storeDword (deviceNorm t [r]).1).1))).1

/-- R236, R243, R225: after a commit verdict the update waits while its target bank drains, and else runs: it writes the shards
and version tags of the alternate bank and nothing else, and the flip has not happened. Each element's master and moments are
what R485's operations (optElem) make of the committed bank's words and the gradient, and each shard carries the tag
(C + 1, E, k). (A plan without a Ballast; shards that overlap neither each other nor what the update reads.) R237,
R238, R239, R223: when the update's writes are visible on a device that is its own replica group, its digest is its own
majority: the bank pointer toggles, C and A rise by one, and the attempt and its entry end. R445: both wait while a stack is in
self-refresh. -/
def Obligations.UpdateWritesThenFlips : Prop :=
  (∀ (s : State) (a : Attempt) (l : Layout) (b : Nat), s.stp.att = some a → s.stp.state = .normCheck →
      a.verdict = some .commit → curLayout s = some l → hasBallast s = false → (bankRange s 1).1 = b → canonical s →
        (anyStackHolds s = true → exec .updateStart s = .next s) ∧ (anyStackHolds s = false →
        (targetDraining s = true → ∃ t, exec .updateStart s = .next t ∧ t.stp = { s.stp with state := .updateWait } ∧
          t.mem = s.mem) ∧
        (targetDraining s = false → ∃ t, exec .updateStart s = .next t ∧ t.stp = { s.stp with state := .update } ∧
          sameOutside s t (l.shards.flatMap fun x =>
            [(b + x.offset, x.bytes / (if l.adamW then 12 else 8) * (if l.adamW then 12 else 8)), (b + x.tagOff, 16)]) ∧
          ∀ (n : Shard → Nat) (o : OptVals), optVals l a.step.toNat = o → (∀ x, n x = x.bytes / (if l.adamW then 12 else 8)) →
            disjointRanges (l.shards.flatMap fun x => [(b + x.offset, n x * (if l.adamW then 12 else 8)), (b + x.tagOff, 16)]) = true →
            anyOverlap ((l.shards.map fun x => ((bankRange s 0).1 + x.offset, n x * (if l.adamW then 12 else 8))) ++
                a.grads.map fun r => (r.grad.toNat, 4 * r.elems))
              (l.shards.flatMap fun x => [(b + x.offset, n x * (if l.adamW then 12 else 8)), (b + x.tagOff, 16)]) = false →
            ∀ x ∈ l.shards, rdMem t (b + x.tagOff) 16 = versionTag (s.stp.c + 1) s.stp.epoch x.shard ∧
              ∀ i < n x, ∀ e : OptOut,
                e = optElem o (decode .fp32 (rdElem s ((bankRange s 0).1 + x.offset + 4 * i) 4))
                  (decode .fp32 (rdElem s ((bankRange s 0).1 + x.offset + 4 * (n x + i)) 4))
                  (if l.adamW then decode .fp32 (rdElem s ((bankRange s 0).1 + x.offset + 4 * (2 * n x + i)) 4) else numZero)
                  (decode .fp32 ((shardGrads s a x.shard).getD i 0)) →
                rdMem t (b + x.offset + 4 * i) 4 = toLe 4 (toFp32 e.w) ∧
                  rdMem t (b + x.offset + 4 * (n x + i)) 4 = toLe 4 (toFp32 e.m) ∧
                  (l.adamW = true → rdMem t (b + x.offset + 4 * (2 * n x + i)) 4 = toLe 4 (toFp32 e.v))))) ∧
  (∀ (s : State) (a : Attempt) (l : Layout), s.stp.att = some a → s.stp.state = .update → curLayout s = some l →
      a.digests = [] → replicaSize s = 1 → groupPeers s (replicaGroup s) = [] → s.hold.replay = none →
        (anyStackHolds s = true → exec .updateComplete s = .next s) ∧ (anyStackHolds s = false →
        ∃ t, exec .updateComplete s = .next t ∧ t.stp.bank = !s.stp.bank ∧ t.stp.c = s.stp.c + 1 ∧ t.stp.a = s.stp.a + 1 ∧
          t.stp.att = none ∧ t.ctl.running = none ∧ t.stp.state = (if s.stp.stopPend then .stopped else .idle)))

/-- R269, R272, R276: a tally of an earlier attempt is answered and dropped, one of a later attempt is kept, and one of the
running attempt in the tally holds its digest by member while others are missing. R239, R240: with the last digest the member flips
where its own is the one of more than half of the members; where another is, it begins the repair with 0x4105 and nothing else
changes; where none is, it stops with its bank and C unchanged (outside replay). R240: a repair that meets a data loss stops
the member with its bank and C unchanged; one whose recomputed digest is the majority's flips; it waits while a stack is in
self-refresh (R445). -/
def Obligations.TallyHoldsOrRepairs : Prop :=
  (∀ (s : State) (txn : Txn),
      ((fld32 txn.data 0).toNat < s.stp.curTag.toNat →
        exec (.tally txn) s = .next (sendCompl (takeLanded s txn) txn 0)) ∧
      (s.stp.curTag.toNat < (fld32 txn.data 0).toNat →
        exec (.tally txn) s = .next (sendCompl (keepTxn (takeLanded s txn) txn) txn 0)) ∧
      ∀ (a : Attempt) (g : Group) (m : Nat), fld32 txn.data 0 = s.stp.curTag → epochOk s txn.epoch = true →
        s.stp.att = some a → replicaGroup s = some g → txnFld txn 28 3 = m → m < groupSize g →
        txn.src.toNat = memberId g (myId s) m → m ≠ replicaIndex s → fld64 txn.fields 0 = a.step → txn.epoch = s.stp.epoch →
        (∀ p ∈ a.digests, p.1 ≠ m) → a.digests.length + 1 < groupSize g →
          ∃ t, exec (.tally txn) s = .next t ∧ t.mem = s.mem ∧
            t.stp = { s.stp with att := some { a with digests := a.digests ++ [(m, sub txn.fields 16 16)] } }) ∧
  (∀ (s : State) (txn : Txn) (a : Attempt) (g : Group) (m : Nat) (mine : Bytes) (l : List (Nat × Bytes)),
      fld32 txn.data 0 = s.stp.curTag → epochOk s txn.epoch = true → s.stp.att = some a → replicaGroup s = some g →
      txnFld txn 28 3 = m → m < groupSize g → txn.src.toNat = memberId g (myId s) m → m ≠ replicaIndex s →
      fld64 txn.fields 0 = a.step → txn.epoch = s.stp.epoch → (∀ p ∈ a.digests, p.1 ≠ m) → s.stp.state = .tally → a.point < 4 →
      s.hold.replay = none → a.digests.length + 1 = groupSize g →
      a.digests.find? (fun p => p.1 == replicaIndex s) = some (replicaIndex s, mine) →
      a.digests ++ [(m, sub txn.fields 16 16)] = l →
        (groupSize g < 2 * votes l mine → ∃ t, exec (.tally txn) s = .next t ∧ t.stp.bank = !s.stp.bank ∧
          t.stp.c = s.stp.c + 1 ∧ t.stp.a = s.stp.a + 1 ∧ t.stp.att = none) ∧
        (∀ v, v ≠ mine → groupSize g < 2 * votes l v → exec (.tally txn) s = .next (sendCompl (raise
          (setAtt (takeLanded s txn) { a with digests := l, point := 5, repairing := true }) 0x4105 srcDevice []) txn 0)) ∧
        ((∀ v, 2 * votes l v ≤ groupSize g) → ∃ t, exec (.tally txn) s = .next t ∧ t.stp.state = .stopped ∧
          t.stp.bank = s.stp.bank ∧ t.stp.c = s.stp.c ∧ t.stp.a = s.stp.a + 1 ∧ t.stp.att = none)) ∧
  (∀ (s : State) (a : Attempt) (l : Layout) (copies : List ShardCopy), s.stp.att = some a → s.stp.state = .tally →
      a.repairing = true → curLayout s = some l → s.hold.replay = none →
        (anyStackHolds s = true → ∀ b, exec (.repairComplete copies b) s = .next s) ∧
        (anyStackHolds s = false → ∃ t, exec (.repairComplete copies true) s = .next t ∧ t.stp.state = .stopped ∧ t.stp.bank = s.stp.bank ∧
          t.stp.c = s.stp.c ∧ t.stp.a = s.stp.a + 1 ∧ t.stp.att = none) ∧
        (anyStackHolds s = false → majority a.digests (replicaSize s) = some (deviceDigest (repairWrites s copies) l) →
          ∃ t, exec (.repairComplete copies false) s = .next t ∧ t.stp.bank = !s.stp.bank ∧ t.stp.c = s.stp.c + 1 ∧
            t.stp.a = s.stp.a + 1 ∧ t.stp.att = none))

/-- R241, R270, R251: before point 4 every abort cause, a STP_CTRL ABORT of the owner and an ABORT message of the running attempt
put the attempt into aborting with the bank pointer, C, A and memory as they were; from point 4 on the cause is only held. -/
def Obligations.AbortCausesKeepCommitted : Prop :=
  ∀ (s : State) (a : Attempt), s.stp.att = some a → s.stp.state ≠ .suspended →
    (a.point < 4 →
      (∀ k, ∃ t, exec (.abortCause k) s = .next t ∧ t.stp.state = .aborting ∧ t.stp.bank = s.stp.bank ∧
        t.stp.c = s.stp.c ∧ t.stp.a = s.stp.a ∧ t.mem = s.mem) ∧
      (∀ m : Fin 4, isOwner s m.val = true → masterExists s m.val = true → s.sec.boot = .ready →
        ∃ t, exec (.stpAbort m) s = .next t ∧ t.stp.state = .aborting ∧ t.stp.bank = s.stp.bank ∧ t.stp.c = s.stp.c ∧
          t.stp.a = s.stp.a ∧ t.mem = s.mem) ∧
      (∀ txn : Txn, ccTag txn = s.stp.curTag → epochOk s txn.epoch = true → s.stp.abortsSeen.contains (ccTag txn) = false →
        ∃ t, exec (.abort txn) s = .next t ∧ t.stp.state = .aborting ∧ t.stp.bank = s.stp.bank ∧ t.stp.c = s.stp.c ∧
          t.stp.a = s.stp.a ∧ t.mem = s.mem)) ∧
    (4 ≤ a.point → s.stp.state ≠ .aborting → ∀ k, exec (.abortCause k) s =
      .next { s with stp := { s.stp with att := some { a with held := a.held ||| causeBit k } } })

/-- R241: once every unit is quiet the abort completes: A rises by one, the device is stopped with C and the bank unchanged, no
core holds a tile, a vector operation, a mover or a collective, and the entry has ended. (Outside replay.) -/
def Obligations.AbortCompleteStops : Prop :=
  ∀ (s : State) (a : Attempt), s.stp.att = some a → s.stp.state = .aborting → unitsQuiet s = true → s.hold.replay = none →
    ∃ t, exec .abortComplete s = .next t ∧ t.stp.state = .stopped ∧ t.stp.a = s.stp.a + 1 ∧ t.stp.c = s.stp.c ∧
      t.stp.bank = s.stp.bank ∧ t.stp.att = none ∧ t.ctl.running = none ∧ t.par.stalls = [] ∧
      ∀ p ∈ t.cores, p.2.tiles = [] ∧ p.2.vec = none ∧ p.2.movs = [] ∧ p.2.cols = []

/-- R251: the owner's STP_CTRL: STOP stops at once in idle; in passes, norm check, update wait, update, tally, evaluation and
re-shard lock, and in suspended from any of these or from idle, it is noted; in stopped and aborting it has no further effect.
RESUME leads from stopped to idle, except after a failed restore (R331); that it is ignored while a restore or a plan load runs is
the model's reading of R331 and R399, log entry 83. A master that does not own the device changes no step state (the payload's
widths are log entry 28). R247: an EVAL_OPEN entry opens an evaluation window in idle, and EVAL_CLOSE ends it, in idle or with a
STOP pending in stopped; neither changes the bank, C or A. -/
def Obligations.OwnerStepCommands : Prop :=
  (∀ (s : State) (m : Fin 4), masterExists s m.val = true → s.sec.boot = .ready →
      (isOwner s m.val = true →
        (s.stp.state = .idle → exec (.stpStop m) s = .next { s with stp := { s.stp with state := .stopped } }) ∧
        (effState s ∈ ([.passes, .normCheck, .updateWait, .update, .tally, .evaluation, .reshardLock] : List StepState) ∨
            s.stp.state = .suspended ∧ s.stp.prior = .idle →
          exec (.stpStop m) s = .next { s with stp := { s.stp with stopPend := true } }) ∧
        (effState s = .stopped ∨ effState s = .aborting → exec (.stpStop m) s = .next s) ∧
        (s.stp.state = .stopped → s.hold.restoreFailed = false → restoreRuns s = false → loadRuns s = false →
          exec (.stpResume m) s = .next { s with stp := { s.stp with state := .idle } }) ∧
        (s.stp.state = .stopped → s.hold.restoreFailed = true ∨ restoreRuns s = true ∨ loadRuns s = true →
          exec (.stpResume m) s = .next s)) ∧
      (isOwner s m.val = false → ∀ i ∈ [Instr.stpStop m, Instr.stpResume m, Instr.stpAbort m],
        ∃ t, exec i s = .next t ∧ eventsOnly s t ∧ t = raise s 0xC002 (masterSrc m.val) (toLe 1 m.val ++ toLe 8 0xB000))) ∧
  ((∀ (s : State) (j : JobEnt), headEntry s 2 = some j → s.stp.state = .idle → evalOk s j = true → s.stp.kept = [] →
      ∃ t, exec .evalOpen s = .next t ∧ t.stp.state = .evaluation ∧ t.stp.lastTag = seTag j ∧ t.stp.bank = s.stp.bank ∧
        t.stp.c = s.stp.c ∧ t.stp.a = s.stp.a ∧ t.ctl.running = none ∧ t.ctl.waiting = s.ctl.waiting.drop 1) ∧
    ∀ (s : State) (j : JobEnt), headEntry s 3 = some j → s.stp.state = .evaluation → entryForm j [] = true →
      ∃ t, exec .evalClose s = .next t ∧ t.stp.state = (if s.stp.stopPend then .stopped else .idle) ∧
        t.stp.stopPend = false ∧ t.stp.bank = s.stp.bank ∧ t.stp.c = s.stp.c ∧ t.stp.a = s.stp.a ∧ t.ctl.running = none ∧ ∀ p ∈ t.cores, p.2.runActive = false)

/-- R227, R234, R269: messages of an attempt. A commit notice of the current epoch sets its sender's step; a verdict of an earlier
attempt is dropped and one of a later attempt kept; with the norm at hand the parent's VERDICT_DOWN decides: a bad loss, a G² that
is no finite value or one above L² ends the attempt under the plan's policy, with the bank and C as they were, A and STP_SKIPS one
higher, STP_LAST as R251 lays it out and only the statistics record written, and any other makes the verdict a commit (outside
replay; a device without children). For the running attempt, a child's VERDICT_UP is ORed into the latch and
recorded, and the parent's VERDICT_DOWN makes the job's latch known. That a second copy raises sequence-fault also once the attempt has
ended is the model's reading of R269, log entry 89 (DEDUCED). -/
def Obligations.VerdictMessagesByAttempt : Prop :=
  (∀ (s : State) (txn : Txn), epochOk s txn.epoch = true → ∃ t, exec (.commit txn) s = .next t ∧
    t.stp.commits = smSet 0 s.stp.commits txn.src.toNat (ccStep txn)) ∧
  (∀ (s : State) (txn : Txn), (ccTag txn).toNat < s.stp.curTag.toNat →
    exec (.verdictUp txn) s = .next (sendCompl (takeLanded s txn) txn 0) ∧
      exec (.verdictDown txn) s = .next (sendCompl (takeLanded s txn) txn 0)) ∧
  (∀ (s : State) (txn : Txn), ccTag txn = s.stp.curTag → txn.type = .cctl → epochOk s txn.epoch = true → s.stp.att = none →
    (s.stp.ended.upFrom.contains (ccMember txn) = true →
      exec (.verdictUp txn) s = .next (sendCompl (sequenceFault (takeLanded s txn)) txn 0)) ∧
    (s.stp.ended.down = true → exec (.verdictDown txn) s = .next (sendCompl (sequenceFault (takeLanded s txn)) txn 0))) ∧
  (∀ (s : State) (txn : Txn), s.stp.curTag.toNat < (ccTag txn).toNat →
    exec (.verdictUp txn) s = .next (sendCompl (keepTxn (takeLanded s txn) txn) txn 0) ∧
      exec (.verdictDown txn) s = .next (sendCompl (keepTxn (takeLanded s txn) txn) txn 0)) ∧
  ∀ (s : State) (txn : Txn) (a : Attempt), ccTag txn = s.stp.curTag → epochOk s txn.epoch = true → s.stp.att = some a →
    (a.upFrom.contains (ccMember txn) = false → (jobKids s).contains (ccMember txn) = true → a.reduced = false →
      exec (.verdictUp txn) s = .next (sendCompl (setAtt (takeLanded s txn) { a with
        upFrom := a.upFrom ++ [ccMember txn], lossOr := a.lossOr || bitOf (ccData txn) 0 == 1 }) txn 0)) ∧
    (∀ (n : W64 × W64) (p : Plan) (g l : Machine.Num) (v : Verdict), jobParent s = some (ccMember txn) → a.jobLoss = none →
      jobKids s = [] → s.stp.state = .normCheck → a.norm = some n → a.verdict = none → s.hold.replay = none → curPlan s = some p →
      dwordVal n.1 n.2 = g → decode .fp32 p.policy.normLimit.toNat = l →
      (if bitOf (ccData txn) 0 = 1 then .noCommit 1 else if isNan g || isInf g then .noCommit 2
        else if numLt (numMul l l).1 g then .noCommit 4 else .commit) = v →
        (v = .commit → exec (.verdictDown txn) s = .next (sendCompl (setAtt (takeLanded s txn) { a with
          jobLoss := some (bitOf (ccData txn) 0 == 1), verdict := some .commit }) txn 0)) ∧
        ∀ k, v = .noCommit k → ∃ t, exec (.verdictDown txn) s = .next t ∧ t.stp.bank = s.stp.bank ∧ t.stp.c = s.stp.c ∧
          t.stp.a = s.stp.a + 1 ∧ t.stp.att = none ∧ t.stp.skips = satInc32 s.stp.skips ∧ t.ctl.running = none ∧
          t.stp.last = BitVec.ofNat 32 ((if p.policy.skip then 2 else 3) * 2 ^ 24 + (k ||| a.held).toNat) ∧
          t.stp.state = (if p.policy.skip && !s.stp.stopPend then .idle else .stopped) ∧
          sameOutside s t [(p.policy.statsAddr, 128)]) ∧
    (jobParent s = some (ccMember txn) → a.jobLoss = none → jobKids s = [] → s.stp.state = .passes →
      exec (.verdictDown txn) s = .next (sendCompl (setAtt (takeLanded s txn) { a with
        jobLoss := some (bitOf (ccData txn) 0 == 1) }) txn 0))

/-! The re-shard lock. -/

/-- R275: a RESHARD entry at the head of the control order in idle takes the lock towards its target layout at point 1; memory,
the bank pointer, C, the epoch and the layout stay. (Outside replay, with no message kept.) -/
def Obligations.ReshardEntryTakesLock : Prop :=
  ∀ (s : State) (j : JobEnt), headEntry s 4 = some j → s.stp.state = .idle → reshardOk s j = true → s.hold.replay = none →
    s.stp.kept = [] → ∃ t, exec .reshard s = .next t ∧ t.stp = { s.stp with state := .reshardLock } ∧ t.mem = s.mem ∧
      t.ctl.running = some j ∧ t.lock = some (Lock.mk j (rsLayout j) 1 [] [] false false false [] 0 false false)

/-- R275: the drain of the old epoch. A device with nothing outstanding has drained itself; once its children have too it tells
its parent and is at point 2; a child's DRAINED is recorded; the parent's CLOSED leads a member without children from point 2
to point 3. R277: the advance write. On a member without children, ADVANCE from its parent at point 5 switches the bank pointer,
the epoch and the layout in one write, leaves C as it was, and ends the lock and its entry; an ADVANCED notice sets its sender's
epoch. ABANDON from the parent, and at member 0 an ABANDON_REQ before the decision, end the lock in stopped with the epoch, the
bank pointer and the layout unchanged. -/
def Obligations.LockMessagesDriveLock : Prop :=
  (∀ (s : State) (l : Lock), s.lock = some l → s.stp.state ≠ .suspended →
      (l.point = 1 → nothingOutstanding s = true → kidsIn s l.drainedFrom = false →
        exec .lockDrained s = .next (setLock s { l with selfDrained := true })) ∧
      (∀ p, l.point = 1 → nothingOutstanding s = true → kidsIn s l.drainedFrom = true → jobParent s = some p →
        routable s (BitVec.ofNat 18 (jobMemberId s p)).toNat = true →
        ∃ t, exec .lockDrained s = .next t ∧ t.lock = some { l with selfDrained := true, point := 2 } ∧ t.mem = s.mem) ∧
      (∀ txn : Txn, ccKind txn = 5 → txn.epoch = s.stp.epoch → epochOk s txn.epoch = true → (jobKids s).contains (ccMember txn) = true →
        l.drainedFrom.contains (ccMember txn) = false → l.selfDrained = false →
          exec (.drained txn) s =
            .next (sendCompl (setLock (takeLanded s txn) { l with drainedFrom := l.drainedFrom ++ [ccMember txn] }) txn 0)) ∧
      (∀ txn : Txn, ccKind txn = 6 → epochOk s txn.epoch = true → jobParent s = some (ccMember txn) → l.point = 2 → jobKids s = [] →
        exec (.closed txn) s = .next (sendCompl (setLock (takeLanded s txn) { l with point := 3 }) txn 0))) ∧
  (((∀ (s : State) (l : Lock) (txn : Txn), s.lock = some l → s.stp.state ≠ .suspended → ccKind txn = 8 →
        epochOk s txn.epoch = true → jobParent s = some (ccMember txn) → l.point = 5 → jobKids s = [] →
          ∃ t, exec (.advance txn) s = .next t ∧ t.stp.bank = !s.stp.bank ∧ t.stp.epoch = s.stp.epoch + 1 ∧
            t.stp.layout = l.target ∧ t.stp.c = s.stp.c ∧ t.stp.a = s.stp.a ∧ t.lock = none ∧ t.ctl.running = none) ∧
      ∀ (s : State) (txn : Txn), epochOk s txn.epoch = true → ∃ t, exec (.advanced txn) s = .next t ∧
        t.stp.advances = smSet 0 s.stp.advances txn.src.toNat txn.epoch) ∧
    (∀ (s : State) (l : Lock) (txn : Txn), s.lock = some l → s.stp.state = .reshardLock → epochOk s txn.epoch = true →
        (ccKind txn = 9 → jobParent s = some (ccMember txn) → ∃ t, exec (.abandon txn) s = .next t ∧ t.lock = none ∧
          t.stp.state = .stopped ∧ t.stp.epoch = s.stp.epoch ∧ t.stp.bank = s.stp.bank ∧ t.stp.layout = s.stp.layout) ∧
        (ccKind txn = 11 → jobIndex s = 0 → l.decided = false → ∃ t, exec (.abandonReq txn) s = .next t ∧ t.lock = none ∧
          t.stp.state = .stopped ∧ t.stp.epoch = s.stp.epoch ∧ t.stp.bank = s.stp.bank ∧ t.stp.layout = s.stp.layout)))

/-- R274, R275: at point 4 the permute waits while the alternate bank drains; else a member that only moves its own
range copies it from the committed bank to the alternate bank and writes nothing else, and one whose range goes to another member
writes nothing. When its puts are delivered and its bytes received, the device writes the tag (C, E + 1, k) of each of the new
layout's shards k into the alternate state bank and nothing else, and once its children have permuted too it tells its parent;
a child's PERMUTED is recorded. R445: nothing is put while a stack is in self-refresh. -/
def Obligations.PermuteMovesOwnRange : Prop :=
  ∀ (s : State) (l : Lock), s.lock = some l → s.stp.state ≠ .suspended → canonical s →
    (anyStackHolds s = true → exec .permutePuts s = .next s) ∧
    (anyStackHolds s = false → l.point = 3 → targetDraining s = true → ∃ t, exec .permutePuts s = .next t ∧ t.lock = some { l with waited := true } ∧
      t.mem = s.mem) ∧
    (∀ p : Permute, anyStackHolds s = false → l.point = 3 → targetDraining s = false →
      (permutes s l).filter (fun p => p.src == jobIndex s) = [p] → p.dst = jobIndex s → ∃ t, exec .permutePuts s = .next t ∧ t.lock = some { l with point := 4 } ∧
        rdMem t (permuteDst s p) p.len = rdMem s (permuteSrc s p) p.len ∧ sameOutside s t [(permuteDst s p, p.len)]) ∧
    (∀ p : Permute, anyStackHolds s = false → l.point = 3 → targetDraining s = false →
      (permutes s l).filter (fun p => p.src == jobIndex s) = [p] → p.dst ≠ jobIndex s → routable s (BitVec.ofNat 18 (jobMemberId s p.dst)).toNat = true →
        ∃ t, exec .permutePuts s = .next t ∧ t.lock = some { l with point := 4 } ∧ t.mem = s.mem ∧ t.stp = s.stp) ∧
    (∀ y : Layout, targetLayout s l = some y → l.point = 4 → l.selfPermuted = false → putsDelivered s = true →
      permuteDue s l ≤ l.got → (kidsIn s l.permutedFrom = false ∨
        ∃ p, jobParent s = some p ∧ routable s (BitVec.ofNat 18 (jobMemberId s p)).toNat = true) →
        ∃ t, exec .permuteComplete s = .next t ∧ t.stp = s.stp ∧
          t.lock = some { l with selfPermuted := true, point := if kidsIn s l.permutedFrom then 5 else 4 } ∧
          sameOutside s t (y.shards.map fun x => ((bankRange s 1).1 + x.tagOff, 16)) ∧
          (disjointRanges (y.shards.map fun x => ((bankRange s 1).1 + x.tagOff, 16)) = true →
            ∀ x ∈ y.shards, rdMem t ((bankRange s 1).1 + x.tagOff) 16 = versionTag s.stp.c (s.stp.epoch + 1) x.shard)) ∧
    (∀ txn : Txn, ccKind txn = 7 → epochOk s txn.epoch = true → (jobKids s).contains (ccMember txn) = true →
      l.permutedFrom.contains (ccMember txn) = false → l.selfPermuted = false →
        exec (.permuted txn) s =
          .next (sendCompl (setLock (takeLanded s txn) { l with permutedFrom := l.permutedFrom ++ [ccMember txn] }) txn 0))


/-! The fabric: links, routing, transactions. -/

/-- R284, R291, R292, R293, R309: a port trains while the reference is good and its island runs from it (R451; log entry 53): a stage that fails counts, the sixteenth
raises port-down, and a link that was not linked comes up with its peer, at 8 lanes where 8 are healthy in both directions and
nothing narrowed it, else at 4 (lanes that training finds bad join the known ones, log entry 82), carrying nothing before a plan
(log entry 40). It holds no credits until its peer grants some, and its first flit, a control flit, grants the peer its own 256 of
each virtual lane. R280: a port of an axis of extent 1 stays down. A serving lane that loses lock is replaced by its direction's free spare from flit S = the last
number received + 32 on, or narrows the link where no spare is left; a swap past its switch flit ends and uses the spare. The owner's
FAB_CTRL retrains, disables and enables the port it selected. Payload widths are log entry 28. -/
def Obligations.PortsTrainAndRepair : Prop :=
  ∀ (s : State) (p : Fin 12) (x : Port), getPort s p.val = x → canonical s →
    (∀ r, s.clk.ref ≠ .good ∨ onReference s (portIsland p.val) = false → exec (.portTrainingComplete p r) s = .next s) ∧
    (s.clk.ref = .good → onReference s (portIsland p.val) = true → x.state ∈ [PortState.training, .down, .held, .retraining] →
      (∀ r, unusedPort s p.val = true →
        exec (.portTrainingComplete p r) s = .next (setPort s p.val { x with state := .down })) ∧
      (unusedPort s p.val = false → x.fails + 1 ≠ 16 →
        exec (.portTrainingComplete p .stageFailed) s = .next (setPort s p.val { x with fails := x.fails + 1 })) ∧
      (unusedPort s p.val = false → x.fails + 1 = 16 → x.state ≠ .retraining →
        exec (.portTrainingComplete p .stageFailed) s = .next
          (raise (setPort s p.val { x with fails := 16 }) 0x6103 (srcPort p.val) (toLe 1 p.val ++ toLe 3 x.peerId.toNat))) ∧
      (x.linked = false → s.pln.plan = none → x.replayBuf = [] → x.ctlWait = [] → ∀ peer pp session badTx badRx,
        4 ≤ healthy (x.laneBadTx ||| badTx) → 4 ≤ healthy (x.laneBadRx ||| badRx) → ∃ y t f,
        exec (.portTrainingComplete p (.linked peer pp session badTx badRx)) s = .next t ∧
        eventsOnly (bumpFresh (setPort s p.val y)) t ∧
        (x.toldTx = true → x.toldRx = true → t = bumpFresh (setPort s p.val y)) ∧
        y.state = .up ∧ y.laneBadTx = x.laneBadTx ||| badTx ∧ y.laneBadRx = x.laneBadRx ||| badRx ∧
        y.width = (if x.narrowed = false ∧ 8 ≤ healthy y.laneBadTx ∧ 8 ≤ healthy y.laneBadRx then 8 else 4) ∧
        y.peerId = peer ∧ y.peerPort = pp ∧ y.session = session ∧ y.linked = true ∧
        y.txSeq = 1 ∧ y.rxSeq = 0 ∧ y.carries = false ∧ y.credit = [] ∧ y.replayBuf = [f] ∧ f.kind = 1 ∧
        (∀ v < 4, fld f.body (2 * v) 2 = 256) ∧ y.spareTx = (servingLanes y.laneBadTx y.width).contains 8 ∧
        y.spareRx = (servingLanes y.laneBadRx y.width).contains 8)) ∧
    (x.state = .up → ∀ lane : Fin 9,
      (4 ≤ healthy (x.laneBadTx ||| BitVec.ofNat 9 (2 ^ lane.val)) → 4 ≤ healthy x.laneBadRx →
        exec (.laneFail p lane false .lostLock) s =
          .next (setPort s p.val { x with laneBadTx := x.laneBadTx ||| BitVec.ofNat 9 (2 ^ lane.val) })) ∧
      (4 ≤ healthy (x.laneBadRx ||| BitVec.ofNat 9 (2 ^ lane.val)) → 4 ≤ healthy x.laneBadTx →
        (servingLanes x.laneBadRx x.width).contains lane.val = true → x.swapRx = none → ∃ y,
        exec (.laneFail p lane true .lostLock) s = .next (setPort s p.val y) ∧
        y.laneBadRx = x.laneBadRx ||| BitVec.ofNat 9 (2 ^ lane.val) ∧
        (spareFree x = true → y.state = .up ∧ y.swapRx = some (lane.val, 8, x.rxSeq - 1 + 32) ∧
          (x.replayBuf.length < 2048 → x.ctlWait = [] → y.txSeq = x.txSeq + 1)) ∧
        (spareFree x = false → y.state = .retraining ∧ y.narrowed = true))) ∧
    (x.state = .up → ∀ w,
      (x.swapRx = some w → pastSwitch x.rxSeq w.2.2 = true → 8 ≤ healthy x.laneBadRx →
        exec (.laneSwap p true) s = .next (raise (raise (setPort s p.val { x with swapRx := none, spareRx := true, toldRx := true }) 0x6101
          (srcPort p.val) (toLe 1 p.val ++ toLe 3 x.peerId.toNat)) 0xA104 (srcPort p.val) [])) ∧
      (x.swapTx = some w → pastSwitch x.txSeq w.2.2 = true → 8 ≤ healthy x.laneBadTx →
        exec (.laneSwap p false) s = .next (raise (raise (setPort s p.val { x with swapTx := none, spareTx := true, toldTx := true }) 0x6101
          (srcPort p.val) (toLe 1 p.val ++ toLe 3 x.peerId.toNat)) 0xA104 (srcPort p.val) []))) ∧
    ∀ m : Fin 4, isOwner s m.val = true → masterExists s m.val = true → s.sec.boot = .ready → selPort s m.val = some p.val →
      (x.state = .up ∨ x.state = .cablingFault → exec (.retrain m) s = .next (setPort s p.val { x with state := .retraining })) ∧
      (x.state = .up → ∃ t, exec (.disable m) s = .next t ∧ eventsOnly (setPort s p.val
        { x with state := .disabled, carries := false, swapTx := none, swapRx := none, resends := 0 }) t) ∧
      (x.state = .disabled → exec (.enable m) s = .next (setPort s p.val { x with state := .training }))

/-- R286, R288, R289, R290, R293, R285: reception and replay. A flit that fails its CRC or its number is discarded, with a request
for the number expected; a data flit that passes advances that number, and the whole transactions of its lane's stream wait to be
routed, each with the places of its flits in the receive buffer; of a null flit only ACK counts; a control flit's credits join the
port's, at most 256 each, and an identity that it carries is checked. A replay timeout resends the unacknowledged flits, and at
the eighth time retrains the port. The places of the credits, the request, the operation and the identity in a control flit's body
are the model's, log entry 40 (DESIGN CHOICE). A linked port that goes down is held with its replay buffer; when the hold expires its
transactions are lost and the running attempt aborts; an attempt that is suspended then aborts at its resumption, even where nothing
was lost (R293, R451). -/
def Obligations.PortFlitsInOrder : Prop :=
  ∀ (s : State) (p : Fin 12) (x : Port), getPort s p.val = x → canonical s →
    (∀ f c y, y = noteFec x c → receives x = true →
      (flitOk y f c = false → ∃ z,
        exec (.flitReceive p f c.corrected c.lost) s = .next (setPort s p.val z) ∧ exec (.controlFlit p f c.corrected c.lost) s = .next (setPort s p.val z) ∧
        z.rxSeq = x.rxSeq ∧ z.asked = true ∧ z.rxStream = x.rxStream ∧ z.credit = x.credit) ∧
      (flitOk y f c = true → f.kind = 2 →
        exec (.flitReceive p f c.corrected c.lost) s = .next (pumpPortAt (setPort s p.val (takeAck y f.ack)) p.val)) ∧
      (x.carries = true → traceReplay s = false → flitOk y f c = true → f.kind ≠ 2 → ∀ str ts rest marks,
        smGet [] x.rxStream f.vl.val ++ f.body = str → parseStream (str.length / 4 + 1) str = (ts, rest) →
        smGet [] x.rxMarks f.vl.val ++ [str.length] = marks →
        ∃ t, exec (.flitReceive p f c.corrected c.lost) s = .next t ∧ (getPort t p.val).rxSeq = x.rxSeq + 1 ∧
        (getPort t p.val).asked = false ∧ (getPort t p.val).rxStream = smSet [] x.rxStream f.vl.val rest ∧ t.mem = s.mem ∧ t.stp = s.stp ∧
        t.fab.outbox = s.fab.outbox ++ (itemFlits marks str.length rest.length 0 ts).filterMap fun i => i.1.map fun q =>
          Outbound.mk (p.val / 6) (some (Arrived.mk p.val f.vl.val i.2)) q) ∧
      (flitOk y f c = true → byteAt f.body 10 = 0 → fld f.body 8 2 < 0x8000 → ∀ z, takeCredits (acceptFlit y f) f.body = z →
        (smWf 0 x.credit = true → ∀ v < 4, smGet 0 z.credit v = min 256 (smGet 0 x.credit v + fld f.body (2 * v) 2)) ∧
        (byteAt f.body 19 < 0x80 → exec (.controlFlit p f c.corrected c.lost) s = .next (pumpPortAt (setPort s p.val z) p.val)) ∧
        (0x80 ≤ byteAt f.body 19 → exec (.controlFlit p f c.corrected c.lost) s = .next (pumpPortAt (checkPeer (setPort s p.val { z with
          peerId := BitVec.ofNat 18 (fld f.body 16 3), peerPort := BitVec.ofNat 4 (byteAt f.body 19),
          session := fld32 f.body 20 }) p.val) p.val)))) ∧
    (receives x = true → x.replayBuf ≠ [] →
      (x.resends < 7 → exec (.replayTimeout p) s = .next (setPort s p.val
        { x with replay := satInc32 x.replay x.replayBuf.length, resends := x.resends + 1 })) ∧
      (7 ≤ x.resends → exec (.replayTimeout p) s = .next (setPort s p.val
        { x with replay := satInc32 x.replay x.replayBuf.length, resends := 0, state := .retraining }))) ∧
    (x.state ∈ [PortState.up, .retraining, .cablingFault] → ∃ t, exec (.portDown p) s = .next t ∧
      eventsOnly (setPort s p.val { x with
        state := if x.linked then .held else .down, carries := false, swapTx := none, swapRx := none, resends := 0 }) t) ∧
    (x.state = .training → exec (.portDown p) s = .next (setPort s p.val
      { x with state := if x.linked then .held else .down })) ∧
    (x.state = .held ∨ x.linked = true ∧ x.state ∈ [PortState.down, .disabled, .training] →
      ∃ t, exec (.portHoldExpiry p) s = .next t ∧
      (s.stp.state = .suspended → ∀ a, s.stp.att = some a → a.point < 4 → t.mem = s.mem ∧ t.stp.state = .suspended ∧
        t.stp.prior = s.stp.prior ∧ t.stp.bank = s.stp.bank ∧ (getPort t p.val).linked = false ∧
        t.stp.att = some { a with cause := a.cause ||| 0x400, lostWhileSuspended := true }) ∧
      (portHolds x = [] → s.stp.state ≠ .suspended → t.stp = s.stp ∧ t.mem = s.mem ∧ (getPort t p.val).linked = false ∧ (getPort t p.val).replayBuf = [] ∧
        (getPort t p.val).txStream = [] ∧ (getPort t p.val).rxStream = [] ∧ (getPort t p.val).lost = x.lost ∧
        (getPort t p.val).state = (if x.state = .held then .down else x.state)) ∧
      (portHolds x ≠ [] → ∀ a, s.stp.att = some a → a.point < 4 → s.stp.state ≠ .suspended →
        t.stp.state = .aborting ∧ t.stp.bank = s.stp.bank ∧ t.mem = s.mem ∧ (getPort t p.val).linked = false ∧
        (getPort t p.val).replayBuf = [] ∧ (getPort t p.val).lost = satInc32 x.lost (portHolds x).length))

/-- R295: dimension-order routing by the shorter way: where an ID is reached there is no next direction; else the neighbour in
the next direction is a routable ID one hop nearer, by the sum over the axes of the shorter ring distances. R304, R307: the
transaction that has waited longest, with the destination that a redirect entry gives it (R305), lands where it is for this device;
else it joins the byte stream of its virtual lane at the port of the next direction, past a bypassed position by its detour (R306);
with no alias entry both are its own; the order of axes after a detour is log entry 41. The owner's write of FAB_ALIASi_HI commits both halves of an entry that may be
committed, and no other. -/
def Obligations.RoutingNearsDestination : Prop :=
  (∀ (e : Nat × Nat × Nat) (here dst : Nat) (dist : Nat → Nat), e.1 ≤ 64 → e.2.1 ≤ 64 → e.2.2 ≤ 64 → routableIn e here = true →
      routableIn e dst = true →
      (∀ i, dist i = (([0, 1, 2] : List Nat).map fun a => min ((idAxis dst a + axisExtent e a - idAxis i a) % axisExtent e a)
        ((idAxis i a + axisExtent e a - idAxis dst a) % axisExtent e a)).sum) →
      (here = dst → nextDir e here dst [0, 1, 2] = none) ∧
      (here ≠ dst → ∃ d, nextDir e here dst [0, 1, 2] = some d ∧ d < 6 ∧ routableIn e (neighbour e here d) = true ∧
        dist (neighbour e here d) + 1 = dist here)) ∧
  ((∀ (s : State) (o : Outbound) (rest : List Outbound) (txn : Txn), s.fab.outbox = o :: rest →
      (if o.arr.isNone && acceptId s == some o.txn.dst.toNat then o.txn else redirected s o.arr o.txn) = txn →
      (isForMe s o.arr.isNone txn = true → (txn.aliased && (acceptId s).isNone) = false →
        ∃ t, exec .transactionRoute s = .next t ∧ t.fab.outbox = rest ∧ t.fab.landed = s.fab.landed ++ [txn] ∧
          t.mem = s.mem ∧ t.stp = s.stp) ∧
      (∀ d0 d p u, isForMe s o.arr.isNone txn = false → routable s txn.dst.toNat = true →
        txnDir s o.arr txn = some d0 → bypassed s txn d0 = (u, d) →
        portFor s o.rail d = some p →
        exec .transactionRoute s = .next (enqueueTxn { s with fab := { s.fab with outbox := rest } } p
          (hopVl (extents s) s.fab.homeId.toNat d { o with txn := u }) u o.arr)) ∧
      (aliasList s = [] → txn = o.txn ∧ ∀ d, bypassed s txn d = (txn, d))) ∧
    ∀ (s : State) (m : Fin 4) (i : Fin 8) (lo hi : W32), isOwner s m.val = true → masterExists s m.val = true →
      s.sec.boot = .ready → smGet none s.staged (aliasLoOff i.val) = some lo →
      (aliasOk s i.val (aliasOf lo hi) = true → exec (.aliasCommit m i hi) s = .next { s with
        staged := smDel s.staged (aliasLoOff i.val),
        fab := { s.fab with aliases := smSet Alias.init s.fab.aliases i.val (aliasOf lo hi) } }) ∧
      (aliasOk s i.val (aliasOf lo hi) = false → ∃ t, exec (.aliasCommit m i hi) s = .next t ∧
        t.fab = s.fab ∧ eventsOnly { s with staged := smDel s.staged (aliasLoOff i.val) } t))

/-- R300, R301, R276: transactions at their destination (of an HBM stack that is not in self-refresh, R445, where they wait; the
answer that a wrong epoch gets is log entry 42, what a stand-in reads log entry 86, the payload widths log entry 28). A PUT of the current epoch into mapped memory that no bank rule
protects writes its bytes, and nothing else, and signals the counter of REMOTE where it asks for a token; one into a bank that it may not write, or of a wrong epoch, writes nothing, and a
wrong epoch aborts the running attempt. A GET_REQ answers the bytes as they stand; a GET_RSP writes them at RET_ADDR, and
nothing else, or keeps them for the stand-in restore that asked (R335); a PUT of epoch E + 1 into the alternate banks inside the
re-shard lock waits while they drain, else writes its bytes and counts them (R274); one of a wrong epoch is dropped; a COMPL of status 0 ends its transaction, and one of status 1, 2 or 4 aborts the attempt. -/
def Obligations.TransactionsTakeEffect : Prop :=
  ∀ (s : State) (txn : Txn) (a n : Nat), txnFld txn 16 6 = a → canonical s →
    (txn.data.length = n → s.lock = none → hbmHolds s a n = false → isSisterLog s txn a = false →
      (epochOk s txn.epoch = true → mapped s a n = true → inHoldWindow a n = false → bankWriteOk s a n = true →
        ∃ t, exec (.put txn) s = .next t ∧ rdMem t a n = txn.data ∧ sameOutside s t [(a, n)] ∧
          t = sendCompl (if txn.sig then signalRemote (wrMem (takeLanded s txn) a txn.data) (txnFld txn 24 4)
            else wrMem (takeLanded s txn) a txn.data) txn 0) ∧
      (epochOk s txn.epoch = true → mapped s a n = true → inHoldWindow a n = false → bankWriteOk s a n = false →
        ∃ t, exec (.put txn) s = .next t ∧ t.mem = s.mem ∧ t.cores = s.cores ∧ t.stp = s.stp) ∧
      (epochOk s txn.epoch = false → ∃ t, exec (.put txn) s = .next t ∧ t.mem = s.mem ∧
        ∀ b, s.stp.att = some b → b.point < 4 → s.stp.state ≠ .suspended → t.stp.state = .aborting)) ∧
    (∀ l, txn.data.length = n → s.lock = some l → isPermute s a n = true → inAlternate s a n = true → hbmHolds s a n = false →
      isSisterLog s txn a = false → epochOk s txn.epoch = true → txn.epoch ≠ s.stp.epoch → mapped s a n = true →
      inHoldWindow a n = false →
        (targetDraining s = true → exec (.put txn) s = .next s) ∧
        (targetDraining s = false → ∃ t, exec (.put txn) s = .next t ∧ t.lock = some { l with got := l.got + n } ∧
          rdMem t a n = txn.data ∧ sameOutside s t [(a, n)] ∧ t.stp = s.stp)) ∧
    (txnFld txn 22 2 = n → 1 ≤ n → n ≤ 4096 → epochOk s txn.epoch = true → mapped s a n = true →
      mapped s (leNat (sub txn.fields 8 6)) n = true → traceReplay s = false → hbmHolds s a n = false →
      ∃ t o, exec (.getReq txn) s = .next t ∧ t.mem = s.mem ∧ t.stp = s.stp ∧ t.fab.outbox = s.fab.outbox ++ [o] ∧
        o.txn.type = .getRsp ∧ o.txn.data = readAny s a n ∧ o.txn.dst = txn.src ∧ o.txn.tag = txn.tag) ∧
    ∀ q, answered s txn = some q → hbmHolds s a txn.data.length = false →
      (epochOk s txn.epoch = false →
        exec (.getRsp txn) s = .next (epochFault (dropOutstanding (takeLanded s txn) q.1))) ∧
      (∀ i f, epochOk s txn.epoch = true → q.2.2 = .standin i → s.hold.fetch = some f → txnFld txn 22 1 = 0 →
        ∃ t, exec (.getRsp txn) s = .next t ∧ t.mem = s.mem ∧ t.hold = { s.hold with
          fetch := some { f with got := i :: f.got, bytes := wr f.bytes (4096 * i) txn.data } }) ∧
      (epochOk s txn.epoch = true → (∀ i, q.2.2 ≠ .standin i) → txnFld txn 22 1 = 0 → mapped s a txn.data.length = true → inHoldWindow a txn.data.length = false →
        bankWriteOk s a txn.data.length = true → ∃ t, exec (.getRsp txn) s = .next t ∧
          rdMem t a txn.data.length = txn.data ∧ sameOutside s t [(a, txn.data.length)] ∧
          t.fab.outstanding = s.fab.outstanding.filter fun o => o.1 != q.1) ∧
      (q.2.2 = .control → txnFld txn 16 1 = 0 →
        exec (.compl txn) s = .next (dropOutstanding (takeLanded s txn) q.1)) ∧
      (q.2.2 = .control → txnFld txn 16 1 ∈ [1, 2, 4] → ∀ b, s.stp.att = some b → b.point < 4 →
        s.stp.state ≠ .suspended → ∃ t, exec (.compl txn) s = .next t ∧ t.stp.state = .aborting ∧
          t.stp.bank = s.stp.bank ∧ t.mem = s.mem)

/-! The Hold. -/

/-- R319, R326, R342: a drain copies the frozen banks to its slot a piece at a time, touching neither memory nor the step state;
with every relied-on Ballast version durable its slot is sealed with its digests, its coverage set where every record after its
LOG_SEQ is present; once the sister copy has ended the snapshot is released with its record and event, and the next queued one
starts. Also without a drain a voluntary write-back programs the lowest dirty row while the bucket is at least half full; a forced one
programs what the draining snapshot relies on, within the open batch of 8 MiB or a new one while the bucket holds it (else
write-back-throttled); the wear bucket refills at BAL_BYTES ×
3,000 ÷ BAL_LIFE, up to its size; the records from the first that the sister has not acknowledged are sent again, each as a PUT to its place
in the sister's log, and no other is. R445: the drain and a write-back wait while a stack is in self-refresh. (What the Hold relocates beside a write-back is free: log
entry 85; the payload's widths: log entry 28; when the sister has acknowledged: log entry 42.) -/
def Obligations.SnapshotDrainSeals : Prop :=
  (∀ (s : State) (d : Drain), s.hold.drain = some d → s.stp.state ≠ .suspended → canonical s →
    (∀ p n, curPlan s = some p → d.point = 2 → anyStackHolds s = false → n = min 65536 (p.shape.stateBytes + p.shape.resBytes - d.next) →
      ∃ t, exec .snapshotDrainPiece s = .next t ∧ t.mem = s.mem ∧ t.stp = s.stp ∧
        (getSlot t d.slot).body = wr (getSlot s d.slot).body d.next (drainRead p.shape s d d.next n) ∧
        t.hold.drain = some { d with next := d.next + n, point := if p.shape.stateBytes + p.shape.resBytes ≤ d.next + n then 3 else 2 }) ∧
    (∀ b, (getSlot s d.slot).body = b → d.point = 3 → snapDirty s (hdrStep d.header) = [] →
      ∃ t, exec .snapshotLocalSeal s = .next t ∧ t.mem = s.mem ∧ t.stp = s.stp ∧ (getSlot t d.slot).st = .sealed ∧
        (getSlot t d.slot).body = b ∧ (getSlot t d.slot).header =
          withHchk (sub d.header 0 160 ++ imageDigest (sub d.header 0 160) b ++ zeroBytes 48) ∧
        (getSlot t d.slot).cover = logCovers s d.header) ∧
    (4 ≤ d.point → d.sister ≠ .pending → exec .snapshotRelease s =
      .next (nextDrain (raise (logAppend s 0x0002 s.stp.c d.header) 0x7002 srcDevice
        (sub d.header 8 8 ++ toLe 1 (b2n (d.sister == .sealed)))))) ∧
    (4 ≤ d.point → d.sister ≠ .pending → s.hold.snapQueue = [] →
      ∃ t, exec .snapshotRelease s = .next t ∧ t.hold.drain = none ∧ t.mem = s.mem ∧ t.stp = s.stp ∧
        ∀ i, (getSlot t i).st = (getSlot s i).st) ∧
    (∀ row i h u w, anyStackHolds s = false → slotOfRow s row = some i → d.point = 3 → snapNeeds s (getSlotB s i) (hdrStep d.header).toNat = some h →
      u = (if s.hold.batch = 0 then { s with hold := { s.hold with batch := batchBytes } } else s) → w = writeBackHalf u i h →
      (s.hold.batch ≠ 0 ∨ batchBytes ≤ s.hold.bucket → exec (.ballastWriteBack row) s = .next { w with hold := { w.hold with
        batch := if snapDirty w (hdrStep d.header) = [] then 0 else w.hold.batch - balRow s } }) ∧
      (s.hold.batch = 0 → s.hold.bucket < batchBytes → exec (.ballastWriteBack row) s = .next (raise s 0x7005 srcDevice [])))) ∧
  (∀ s : State, s.stp.state ≠ .suspended → canonical s →
    ((∀ r ∈ s.hold.log, s.hold.sisAcks.contains r.seq = true) → exec .logResend s = .next s) ∧
    (∀ again, s.hold.log.dropWhile (fun r => s.hold.sisAcks.contains r.seq) = again →
      (holdCfg s).isSome = true → routable s (BitVec.ofNat 18 (sisterId s)).toNat = true → traceReplay s = false →
      (∀ r ∈ again, 0 < r.bytes.length ∧ r.bytes.length ≤ 4096 ∧ r.pos % logBytes s + r.bytes.length ≤ logBytes s) →
      ∃ t os, exec .logResend s = .next t ∧ t.fab.outbox = s.fab.outbox ++ os ∧
        os.map (fun o => (o.txn.type, o.txn.dst, o.txn.data, o.txn.fields)) = again.map (fun r =>
          (TxnType.put, BitVec.ofNat 18 (sisterId s), r.bytes, txnFields [(16, toLe 6 (sisLogAddr s + r.pos % logBytes s))])) ∧
        t.mem = s.mem ∧ t.stp = s.stp ∧ t.hold = s.hold) ∧
    (∀ row, anyStackHolds s = true → exec (.ballastWriteBack row) s = .next s) ∧
    (∀ row i v, anyStackHolds s = false → slotOfRow s row = some i → (getSlotB s i).row = some row → slotDirty s (getSlotB s i) = true →
      nextDirty s = some row → (∀ d, s.hold.drain = some d → d.point ≠ 3) → bucketMax s ≤ 2 * s.hold.bucket → v = BallastRow.mk row (curVer s (getSlotB s i))
        (rdMem s (halfAddr s i (curHalf s (getSlotB s i))) (balRow s)) →
      ∃ t, exec (.ballastWriteBack row) s = .next t ∧ v ∈ t.hold.bal ∧ t.mem = s.mem ∧ t.stp = s.stp ∧
        t.hold.bucket = s.hold.bucket - (balRow s + Config.relocation s.hold.balProg))) ∧
    ∀ (s : State) (ms : Nat) (cfg : HoldCfg) (n : Nat), holdCfg s = some cfg → n = cfg.balBytes * 3000 * ms + s.hold.bucketRem →
      exec (.wearBucketRefill ms) s = .next { s with hold := { s.hold with
        bucket := min (s.hold.bucket + n / lifeMs s) (bucketMax s), bucketRem := n % lifeMs s } }


/-- R328, R329, R348: a HOLD entry at the head that keeps the rules becomes the running command; one that breaks them leaves the
order and the Hold as it was. The owner turns the trace on and off and cancels a running output. R315, R316: a failed program
retires its block and takes a spare; a failed read makes its slot invalid, or takes its log record or its Ballast version out of
what the Hold keeps. R364: the owner requests and withdraws a full inspection. (How a HOLD
entry that breaks the rules ends is log entry 61, what a failed read takes along log entry 62.) -/
def Obligations.HoldCommandsAccepted : Prop :=
  ((∀ (s : State) (j : JobEnt), headEntry s 5 = some j → loadRuns s = false →
      (holdOk s j = true → ∃ t, exec .hold s = .next t ∧ t.ctl.running = some j ∧ t.hold.cmd = some (HoldCmd.mk (hCmd j) j false) ∧
        t.mem = s.mem ∧ t.stp.c = s.stp.c ∧ t.stp.bank = s.stp.bank) ∧
      (holdOk s j = false → ∃ t, exec .hold s = .next t ∧ t.hold = s.hold ∧ t.mem = s.mem ∧ t.stp = s.stp ∧
        t.ctl.running = none ∧ t.ctl.waiting = s.ctl.waiting.drop 1)) ∧
    ∀ (s : State) (m : Fin 4), isOwner s m.val = true → masterExists s m.val = true → s.sec.boot = .ready →
      (s.hold.trace = false → exec (.traceOn m) s = .next { s with hold := { s.hold with
        trace := true, traceFrom := s.stp.c.toNat + (if s.stp.att.isSome then 2 else 1) } }) ∧
      (s.hold.trace = true → exec (.traceOff m) s = .next { s with hold := { s.hold with
        trace := false, traceUpto := s.stp.c.toNat } }) ∧
      ∀ c, s.hold.cmd = some c → c.code ∈ [3, 4, 6] → exec (.cancel m) s = .next { s with hold := { s.hold with
        cmd := some (HoldCmd.mk c.code c.job true) } }) ∧
  ((∀ (s : State) (k : Fin 8), ∃ t, exec (.programFailed k) s = .next t ∧ t.mem = s.mem ∧ t.stp = s.stp ∧
      t.hold = { s.hold with
        retired := smUpd 0 s.hold.retired k.val (· + 1), progFail := satInc32 s.hold.progFail,
        spareBlocks := BitVec.ofNat 32 (s.hold.spareBlocks.toNat - 1) }) ∧
    (∀ (s : State), canonical s →
      (∀ i : Fin 4, ∃ t, exec (.holdReadFailed (.slot i)) s = .next t ∧ (getSlot t i.val).st = .invalid ∧ t.mem = s.mem ∧
        t.hold.log = s.hold.log ∧ t.stp = s.stp) ∧
      (∀ q, s.hold.replay = none → ∃ t, exec (.holdReadFailed (.logRecord q)) s = .next t ∧
        t.hold.log = s.hold.log.filter (fun r => r.seq != q) ∧ t.mem = s.mem ∧ t.stp = s.stp) ∧
      (∀ q, ∃ t, exec (.holdReadFailed (.logRecord q)) s = .next t ∧ t.mem = s.mem ∧ t.stp.bank = s.stp.bank ∧
        t.stp.c = s.stp.c) ∧
      (∀ q, ∃ t, exec (.holdReadFailed (.sisterRecord q)) s = .next t ∧
        t.hold.sisLog = s.hold.sisLog.filter (fun r => r.seq != q) ∧ t.hold.log = s.hold.log ∧ t.mem = s.mem ∧
        t.stp = s.stp) ∧
      (∀ row ver, ∃ t, exec (.holdReadFailed (.ballast row ver)) s = .next t ∧
        t.hold.bal = s.hold.bal.filter (fun v => !(v.row == row && v.ver == ver)) ∧ t.stp.bank = s.stp.bank ∧
        t.stp.c = s.stp.c ∧ ∀ a, s.stp.att = some a → a.point < 4 → s.stp.state ≠ .suspended → t.stp.state = .aborting)) ∧
    ∀ (s : State) (m : Fin 4), isOwner s m.val = true → masterExists s m.val = true → s.sec.boot = .ready →
      (∃ t, exec (.requestFullInspection m) s = .next t ∧ t.spr.nextFull = true ∧ t.mem = s.mem ∧ t.stp = s.stp) ∧
      ∃ t, exec (.withdrawFullInspection m) s = .next t ∧ t.spr.nextFull = false ∧ t.mem = s.mem ∧ t.stp = s.stp)

/-- R330, R331, R335: a RESTORE of a sealed slot whose image fits sets the step state to the header's and the banks to the body,
and writes nowhere else; an image that does not fit changes neither; one whose digest fails leaves the step state and marks the
restore failed. A stand-in restore reads its sister's copy: while parts are missing it asks for them; a part that cannot be read,
or no header of the step asked for, ends it by snapshot-invalid; with all there, it restores the image as RESTORE does, empties
the slots (R337) and, where a Ballast peer is named, takes the peer's rows as versions 0 (R336). (With the layout unchanged; the state bank's bytes where the plan's banks do not overlap; how the sister is read is log entry 86, how the command ends and what else a restore
empties log entry 61.) R445: it waits while a stack is in self-refresh. -/
def Obligations.RestoreSetsStepState : Prop :=
  ∀ (s : State) (c : HoldCmd) (p : Plan) (h body : Bytes), s.hold.cmd = some c → s.stp.state ≠ .suspended → curPlan s = some p →
    canonical s → (anyStackHolds s = true → c.code = 1 → exec .restore s = .next s) ∧ (anyStackHolds s = false →
    (∀ x ok, getSlot s (hSlot c.job) = x → c.code = 1 → x.header = h → slotBody x = body →
      ok = (decide (x.st = .sealed) && imageFits s h (hArgA c.job)) →
      (ok = false → ∃ t, exec .restore s = .next t ∧ t.mem = s.mem ∧ t.stp = s.stp ∧ t.hold.cmd = none ∧ t.ctl.running = none) ∧
      (ok = true → digest32 (sub h 0 160 ++ sub body 0 (hdrBody h)) ≠ sub h 160 32 → ∃ t, exec .restore s = .next t ∧
        t.stp = s.stp ∧ t.hold.restoreFailed = true ∧ t.hold.cmd = none ∧
        sameOutside s t [(p.shape.state0, p.shape.stateBytes), (p.shape.res0, p.shape.resBytes)]) ∧
      (ok = true → digest32 (sub h 0 160 ++ sub body 0 (hdrBody h)) = sub h 160 32 → byteAt h 28 = s.stp.layout →
        ∃ t, exec .restore s = .next t ∧ t.stp.bank = false ∧ t.stp.c = hdrStep h ∧ t.stp.a = hdrAttempt h ∧
          t.stp.epoch = fld32 h 24 ∧ t.stp.state = .stopped ∧ t.hold.restoreFailed = false ∧ t.hold.cmd = none ∧
          rdMem t p.shape.res0 p.shape.resBytes = sub body p.shape.stateBytes p.shape.resBytes ∧
          (disjointRanges [(p.shape.state0, p.shape.stateBytes), (p.shape.res0, p.shape.resBytes)] = true →
            rdMem t p.shape.state0 p.shape.stateBytes = sub body 0 p.shape.stateBytes) ∧
          sameOutside s t [(p.shape.state0, p.shape.stateBytes), (p.shape.res0, p.shape.resBytes)])) ∧
    ∀ rows vers bytes, c.code = 2 →
      (∀ f, s.hold.fetch.getD freshFetch = f → f.failed = false → fetchDone s f = false →
        exec (.standinRestore rows vers bytes) s = .next (sendFetch { s with hold := { s.hold with fetch := some f } } f)) ∧
      (∀ f, s.hold.fetch = some f →
        (f.failed = true ∨ (fetchDone s f = true ∧ f.header = none ∧ pickHeader f (hArgB c.job) = none)) →
        ∃ t, exec (.standinRestore rows vers bytes) s = .next t ∧ t.hold.cmd = none ∧ t.hold.fetch = none ∧ t.ctl.running = none ∧
          t.mem = s.mem ∧ t.stp = s.stp) ∧
      (∀ f k g x, s.hold.fetch = some f → f.failed = false → fetchDone s f = true → f.header = none →
        pickHeader f (hArgB c.job) = some (k, x) → g = { freshFetch with header := some x, slot := k } →
        exec (.standinRestore rows vers bytes) s = .next (sendFetch { s with hold := { s.hold with fetch := some g } } g)) ∧
      ∀ f, s.hold.fetch = some f → f.failed = false → fetchDone s f = true → f.header = some h →
        rd f.bytes 0 (hdrBody h) = body → (acceptId s).isSome = true → imageFits s h (hArgA c.job) = true →
        digest32 (sub h 0 160 ++ sub body 0 (hdrBody h)) = sub h 160 32 → byteAt h 28 = s.stp.layout →
        ∃ t, exec (.standinRestore rows vers bytes) s = .next t ∧ t.stp.bank = false ∧ t.stp.c = hdrStep h ∧
          t.stp.a = hdrAttempt h ∧ t.stp.epoch = fld32 h 24 ∧ t.stp.state = .stopped ∧ t.hold.restoreFailed = false ∧
          t.hold.cmd = none ∧ t.hold.slots = [] ∧ (hPeer c.job ≠ 0x3FFFF → ∀ v, v ∈ t.hold.bal ↔ v ∈ peerRows (peerVersions rows vers bytes) (hdrStep h).toNat) ∧
          rdMem t p.shape.res0 p.shape.resBytes = sub body p.shape.stateBytes p.shape.resBytes ∧
          (disjointRanges [(p.shape.state0, p.shape.stateBytes), (p.shape.res0, p.shape.resBytes)] = true →
            rdMem t p.shape.state0 p.shape.stateBytes = sub body 0 p.shape.stateBytes) ∧
          sameOutside s t [(p.shape.state0, p.shape.stateBytes), (p.shape.res0, p.shape.resBytes)])

/-- R343, R344, R345, R346, R328: the outputs and inputs of the Hold. An export, a sealed slot and a capture are written where
the command says and nowhere else in device memory; a sealed image that opens fills its slot; a capture that opens also restores
its log; BAL_LOAD makes rows of HBM durable versions 0. Each ends its command. (Outputs that go to HBM, not cancelled.) (The rejection of an image
and what a capture spends are log entry 61.) -/
def Obligations.HoldImagesInAndOut : Prop :=
  ∀ (s : State) (c : HoldCmd) (x : Slot) (out : Bytes), s.hold.cmd = some c → s.stp.state ≠ .suspended → canonical s →
    getSlot s (hSlot c.job) = x → anyStackHolds s = false →
    (c.code = 3 → c.cancel = false → hHost c.job = 0 → out = exportRecords s ++ exportEnd →
      ∃ t, exec .exportState s = .next t ∧ rdMem t (hAddr c.job) out.length = out ∧
        sameOutside s t [(hAddr c.job, out.length)] ∧ t.hold.cmd = none ∧ t.stp = s.stp) ∧
    (∀ s1 b, c.code = 4 → c.cancel = false → hHost c.job = 0 → sealBody s x.header (slotBody x) = some (s1, b) →
      out = sub x.header 0 256 ++ b → ∃ t, exec .sealOut s = .next t ∧ rdMem t (hAddr c.job) out.length = out ∧
        sameOutside s t [(hAddr c.job, out.length)] ∧ t.hold.cmd = none ∧ t.hold.sealCount = s.hold.sealCount + 1 ∧
        t.stp = s.stp) ∧
    (∀ s1 s2 b2 b34 p3 p4 cv lo ch, c.code = 6 → c.cancel = false → hHost c.job = 0 → lo = (hdrStep x.header).toNat + 1 →
      cv = traceCovers s lo (hArgA c.job).toNat →
      p3 = ((captureLog s (hdrLogSeq x.header) (hArgA c.job)).map fun r => r.bytes).flatten →
      p4 = (if cv then (traceSteps s lo (hArgA c.job).toNat).flatten else []) →
      sealBody s x.header (slotBody x) = some (s1, b2) →
      ch = captureHeader x.header (hArgA c.job) (sub x.header 0 256 ++ b2).length p3.length p4.length cv →
      sealBody s1 ch (p3 ++ p4) = some (s2, b34) → out = ch ++ (sub x.header 0 256 ++ b2) ++ b34 →
        ∃ t, exec .capture s = .next t ∧ rdMem t (hAddr c.job) out.length = out ∧
          sameOutside s t [(hAddr c.job, out.length)] ∧ t.hold.cmd = none ∧ t.hold.sealCount = s.hold.sealCount + 2 ∧
          t.stp = s.stp) ∧
    (c.code = 5 → (hHost c.job = 1 → (getFn s 0).up = true ∧ (getFn s 0).cfg.d3hot = false) → out = readIn s c.job →
      (∀ h body, fld out 0 4 ≠ 0x50434B4B → openImage s out = some (h, body) → ∃ t, exec .sealIn s = .next t ∧
        getSlot t (hSlot c.job) = Slot.mk .sealed false false true h (wr [] 0 body) ∧ t.mem = s.mem ∧ t.stp = s.stp ∧
        t.hold.cmd = none) ∧
      (∀ y, fld out 0 4 = 0x50434B4B → openCapture s out = some y → hSlot c.job ≤ 1 → ∃ t, exec .sealIn s = .next t ∧
        getSlot t (hSlot c.job) = Slot.mk .sealed false true true y.header (wr [] 0 y.body) ∧ t.mem = s.mem ∧
        t.stp = s.stp ∧ t.hold.log = placeRecs 0 y.recs ∧ t.hold.cmd = none)) ∧
    (c.code = 7 → (∀ v ∈ s.hold.bal, v.ver = 0) → ∃ t, exec .balLoad s = .next t ∧ t.mem = s.mem ∧ t.stp = s.stp ∧
      t.hold.cmd = none ∧ ∀ i < (hArgB c.job).toNat, BallastRow.mk ((hArgA c.job).toNat + i) 0
        (rdMem s (hAddr c.job + i * balRow s) (balRow s)) ∈ t.hold.bal)

/-! Boot, firmware, plans, data objects, resets. -/

/-- R353, R371, R375, R376, R459, R460: boot ends ready when the harbour is ready: an inspection that runs first puts its set in
force and empties the substitution queue, and where that set offers no rail the boot stays at no-shape; a watchdog that expires resets the device; the owner
starts a firmware update, and clears a trial. With no command waiting, the update runs on point by point: a package that fails
its checks ends it and leaves the NOR; a valid one is written to the inactive slot, the mirror's copy first, unless a NOR write
fails (reason 0x06); then the trial stands with three tries. R398, R399: a LOAD that may not be accepted leaves the plan in force
with its reason; an accepted one checks its object and then its sections in the same way; one that fails ends the load with its
reason and leaves the plan in force, and one that passes waits to be applied; applied, it is the plan in force, with C, A, the
epoch and the layout at 0 and the device stopped. (That an idle step of the queue is one point is log entry 106, what else it does in
the model 102 and 115, and which NOR write fails 105; that a refused LOAD keeps STATE and the loader's reading of a plan are log entry
59; that CLEAR_TRIAL keeps TRIES and which boot record is chosen 49; that the ROM watchdog runs only with a shape 51.) -/
def Obligations.BootLoadAndApplyPlans : Prop :=
  ∀ s : State, canonical s →
    (s.pwr.phase = .booting → s.sec.boot = .booting → s.spr.insp = none → s.spr.state = .ready → ∃ t, exec .bootReady s = .next t ∧
      t.sec.boot = .ready ∧ t.pwr.phase = .run ∧ t.mem = s.mem ∧ t.hold = s.hold) ∧
    (∀ x, s.pwr.phase = .booting → s.sec.boot = .booting → s.spr.insp = some x → ∃ t, exec .bootReady s = .next t ∧
      t.spr.insp = none ∧ t.spr.entries = x.entries ∧ t.spr.queue = [] ∧ t.mem = s.mem ∧
      (offerRails x.entries ≠ 0 → t.spr.state = .ready ∧ t.sec.boot = .ready ∧ t.pwr.phase = .run) ∧
      (offerRails x.entries = 0 → t.spr.state = .noShape ∧ t.sec.boot = .booting ∧ t.pwr.phase = .booting)) ∧
    (∀ f, s.pwr.phase = .booting → s.sec.boot = .booting → s.spr.state ≠ .noShape → ∃ t, exec (.romWatchdog f) s = .next t ∧
      resetKeeping s t ∧ t.pwr.phase = .powered ∧ t.pwr.lastReset = 4) ∧
    (∀ f, s.pwr.phase = .booting ∨ s.pwr.phase = .run → ∃ t, exec (.harbourmasterWatchdog f) s = .next t ∧
      resetKeeping s t ∧ t.pwr.phase = .powered ∧ t.pwr.lastReset = 5) ∧
    (∀ m : Fin 4, isOwner s m.val = true → masterExists s m.val = true → s.sec.boot = .ready →
      ((s.stp.state = .stopped ∧ loadRuns s = false ∧ s.sec.stage = none → exec (.fwStage m) s = .next { s with sec :=
          { s.sec with stage := some (FwStage.mk 2 (!((chosenCtl s).active == 1)) s.sec.fwAddr.toNat [] false) } }) ∧
        (¬(s.stp.state = .stopped ∧ loadRuns s = false ∧ s.sec.stage = none) → ∃ t, exec (.fwStage m) s = .next t ∧
          t.sec.stage = s.sec.stage ∧ t.nor0 = s.nor0 ∧ t.nor1 = s.nor1 ∧ t.sec.fwReason = 7)) ∧
      (∀ r c, chosenCtl s = r → c = bootCtlBytes (BootCtl.mk r.active 0xFF r.tries) → ∃ t, exec (.clearTrial m) s = .next t ∧
        rdNor t false bootCtlOff c.length = c ∧ rdNor t true bootCtlOff c.length = c ∧ t.mem = s.mem ∧ t.sec = s.sec) ∧
      (∀ k, loadRefusal s = some k → ∃ t, exec (.load m) s = .next t ∧ t.pln.plan = s.pln.plan ∧
        t.pln.state = s.pln.state ∧ t.pln.loading = s.pln.loading ∧ t.pln.reason = BitVec.ofNat 8 k) ∧
      (loadRefusal s = none → exec (.load m) s = .next { s with pln := { s.pln with
        state := .checking, job := some (LoadJob.mk s.pln.addr.toNat (BitVec.ofNat 18 s.pln.home.toNat) []) } })) ∧
    (∀ x, s.pending = [] → s.pln.job = none → s.sec.stage = some x →
      (∀ h n b, x.point = 2 → anyStackHolds s = false → rdMem s x.addr 64 = h → pkgHeadOk h = true → n = pkgSigned h + 1536 →
        inHbm s x.addr n = true → rdMem s x.addr n = b →
        (pkgRefusal s b = none → atRest s → step s = .next { s with sec := { s.sec with stage := some { x with point := 3, bytes := b } } }) ∧
        (∀ k, pkgRefusal s b = some k → ∃ t, step s = .next t ∧ t.nor0 = s.nor0 ∧ t.nor1 = s.nor1 ∧ t.sec.stage = none ∧
          t.sec.fwReason = BitVec.ofNat 8 k ∧ t.mem = s.mem)) ∧
      (x.point = 3 → ∃ t, step s = .next t ∧ t.mem = s.mem ∧ (if x.mirrorDone then t.nor1 = s.nor1 else t.nor0 = s.nor0) ∧
        if Config.norWriteFails s.fresh then t.sec.fwReason = 6 ∧ t.sec.stage = none
        else rdNor t (!x.mirrorDone) (slotOff x.slot) x.bytes.length = x.bytes ∧ t.sec.fwReason = s.sec.fwReason ∧
          t.sec.stage = some (if x.mirrorDone then { x with point := 4 } else { x with mirrorDone := true })) ∧
      (∀ c, x.point = 4 → c = bootCtlBytes (BootCtl.mk (chosenCtl s).active (if x.slot then 1 else 0) 3) → ∃ t, step s = .next t ∧
        t.sec.stage = none ∧ rdNor t false bootCtlOff c.length = c ∧ rdNor t true bootCtlOff c.length = c ∧ t.mem = s.mem)) ∧
    (∀ j, s.pending = [] → s.sec.stage = none → s.pln.job = some j → s.stp.state ≠ .suspended → anyStackHolds s = false →
      (∀ head b, s.pln.state = .checking → rdMem s j.addr 128 = head → planBytes head ≤ 2 ^ 30 →
        rdMem s j.addr (planBytes head) = b →
        (objectRefusal s j.addr b = none → atRest s → step s = .next { s with pln := { s.pln with
          state := .validating, job := some { j with bytes := b } } }) ∧
        (∀ k, objectRefusal s j.addr b = some k → ∃ t, step s = .next t ∧ t.pln.plan = s.pln.plan ∧ t.pln.job = none ∧
          t.pln.state = (if s.pln.plan.isSome then .applied else .none) ∧ t.pln.reason = BitVec.ofNat 8 k ∧ t.mem = s.mem)) ∧
      (s.pln.state = .validating →
        (firstRefusal s j.bytes (parsePlan j.bytes) j.home = none → ∃ t q, step s = .next t ∧ t.pln.state = .applying ∧
          t.pln.job = none ∧ t.pln.loading = some (q, j.home) ∧ q.shape = (parsePlan j.bytes).shape ∧
          q.layouts = (parsePlan j.bytes).layouts ∧ t.pln.plan = s.pln.plan ∧ t.mem = s.mem) ∧
        ∀ i k ev, firstRefusal s j.bytes (parsePlan j.bytes) j.home = some (i, k, ev) → ∃ t, step s = .next t ∧
          t.pln.plan = s.pln.plan ∧ t.pln.job = none ∧ t.pln.loading = s.pln.loading ∧
          t.pln.reason = BitVec.ofNat 8 k ∧ t.pln.section_ = i ∧ t.mem = s.mem)) ∧
    ∀ p home, s.pln.loading = some (p, home) → s.stp.state ≠ .suspended → s.hold.drain = none → s.hold.snapQueue = [] →
      ∃ t, exec .planApply s = .next t ∧ t.pln.state = .applied ∧ t.pln.plan = some p ∧ t.pln.loading = none ∧
        t.fab.homeId = home ∧ t.stp.c = 0 ∧ t.stp.a = 0 ∧ t.stp.epoch = 0 ∧ t.stp.layout = 0 ∧ t.stp.bank = false ∧
        t.stp.state = .stopped

/-- R382, R383, R386, R435: data objects. An enrolment of the owner that keeps the rules becomes the owner record, and one that
breaks them changes neither it nor the Hold; a report is answered to the asker; a plan segment is written as a BAR2 write, and
nowhere else; a plan load sets the plan registers and runs LOAD: one that is accepted waits in its mailbox, another is answered at
once with its reason; DOE Discovery is answered, but not by a device that failed to boot or offers no shape; DOE Abort empties the
mailbox. (The layout of DOE Discovery is the model's, log 43.) -/
def Obligations.DataObjectsAnswered : Prop :=
  ∀ (s : State) (fn : Fin 2) (b : Bytes), masterExists s fn.val = true → canonical s →
    (s.sec.boot = .ready → (getFn s fn.val).doe = none →
      (isOwner s fn.val = true → b.length = 5120 →
        (enrolOk s b = true → ∃ t, exec (.enrol fn b) s = .next t ∧ t.sec.owner = enrolled s b ∧ t.mem = s.mem ∧
          (enKind b = 2 → t.hold.slots = s.hold.slots ∧ t.hold.log = s.hold.log) ∧
          (enKind b ≠ 2 → t.hold.slots = [] ∧ t.hold.log = [] ∧ t.hold.bal = [])) ∧
        (enrolOk s b = false → ∃ t, exec (.enrol fn b) s = .next t ∧ t.sec = s.sec ∧ t.hold = s.hold ∧ t.mem = s.mem)) ∧
      (∀ m : Fin 4, m.val = fn.val → s.sec.ident = true → b.length = 32 →
        exec (.attest m b) s = .next (answerDoe s fn.val 1 0 0 (attestation s b))) ∧
      (∀ a : W64, isOwner s fn.val = true → segOk b = true → hostMapped s a.toNat b.length = true →
        (hostBankOk s a.toNat b.length = true → hostHeld s fn.val a.toNat b.length = false → ∃ t, exec (.planSeg fn a b) s = .next t ∧ rdMem t a.toNat b.length = b ∧
          sameOutside s t [(a.toNat, b.length)] ∧ t.stp = s.stp) ∧
        (hostBankOk s a.toNat b.length = false → ∃ t, exec (.planSeg fn a b) s = .next t ∧ t.mem = s.mem)) ∧
      (∀ (a : W64) (home : W32), isOwner s fn.val = true → ∃ t, exec (.planLoad fn a home) s = .next t ∧
        t.pln.addr = a &&& 0x0000FFFFFFFFFFFF ∧ t.pln.home = home &&& 0x3FFFF ∧ t.pln.plan = s.pln.plan ∧
        (loadRuns s = false → loadRuns t = true → (getFn t fn.val).doe = some [])) ∧
      (∀ (a : W64) (home : W32) u, isOwner s fn.val = true → u = loadPlan { s with pln := { s.pln with
          addr := a &&& 0x0000FFFFFFFFFFFF, home := home &&& 0x3FFFF } } →
        (loadRuns s = false → loadRuns u = true → exec (.planLoad fn a home) s =
          .next (setFn u fn.val { getFn u fn.val with doe := some [] })) ∧
        ((loadRuns s = true ∨ loadRuns u = false) → exec (.planLoad fn a home) s =
          .next (answerDoe u fn.val 4 3 0xB101 [])))) ∧
    (∀ (i : Byte), isPowered s = true → talks s = false → exec (.doeDiscovery fn i) s = .next s) ∧
    (∀ (i : Byte) x, isPowered s = true → talks s = true →
      x = (match doeTypes[i.toNat]? with
        | some (v, ty) => toLe 2 v.toNat ++ toLe 1 ty ++ toLe 1 (if i.toNat < 4 then i.toNat + 1 else 0)
        | none => [0xFF, 0xFF, 0, 0]) →
      exec (.doeDiscovery fn i) s = .next { s with bus := { s.bus with doe := s.bus.doe ++ [(fn.val, x)] } }) ∧
    exec (.doeAbort fn) s = .next (setFn s fn.val { getFn s fn.val with doe := none })

/-- R458, R459, R460, R478: resets. The owner's PWR_CTRL RESET, a supply below the reset level and a thermal trip leave only what
a reset keeps; power-on shows its kind and counts the supply resets; the reference settles into the boot; the hold-up ends in
off, and a cooled device powers up again. (A ledger that was being written is left written in part, as R353 and R356 say; what a
power-on finds is log entries 52 and 88, what a reset keeps with the waiting commands 51 and 17, the kind shown after the cooling 55,
N0's rounding 100.) -/
def Obligations.ResetsKeepOnlyDurable : Prop :=
  ∀ s : State,
    (∀ (m : Fin 4) f, isOwner s m.val = true → masterExists s m.val = true → s.sec.boot = .ready →
      ∃ t, exec (.reset m f) s = .next t ∧ resetKeeping s t ∧ t.pwr.phase = .powered ∧ t.pwr.lastReset = 3) ∧
    (isPowered s = true ∨ s.pwr.phase = .cooling → ∃ t, exec .resetLevel s = .next t ∧ resetKeeping s t ∧ t.pwr.phase = .holdUp) ∧
    (∀ f, isPowered s = true → ∃ t, exec (.thermalTrip f) s = .next t ∧ resetKeeping s t ∧ t.pwr.phase = .cooling ∧
      t.pwr.lastReset = 6) ∧
    (s.pwr.phase = .holdUp → exec .holdupCutoff s = .next { s with pwr := { s.pwr with phase := .off } }) ∧
    (∀ f, (s.pwr.phase = .off ∨ s.pwr.phase = .waiting → ∃ t, exec (.powerOn f) s = .next t ∧ t.pwr.phase = .powered ∧ t.pwr.lastReset = 1 ∧
        t.pwr.supplyResets = 0 ∧ t.mem = s.mem ∧ t.hold = s.hold) ∧
      (s.pwr.phase = .holdUp → ∃ t, exec (.powerOn f) s = .next t ∧ t.pwr.phase = .powered ∧ t.pwr.lastReset = 2 ∧
        t.pwr.supplyResets = satInc32 s.pwr.supplyResets ∧ t.mem = s.mem ∧ t.hold = s.hold)) ∧
    (∀ windows, s.pwr.phase = .powered → s.clk.ref = .settling → ∃ t, exec (.referenceSettle windows) s = .next t ∧
      t.pwr.phase = .booting ∧ t.clk.ref = .good ∧ t.clk.n0 = BitVec.ofNat 16 (meanCount ((windows[12]?).getD [])) ∧
      t.clk.bad = [] ∧ t.mem = s.mem ∧ t.stp = s.stp ∧ t.pln = s.pln) ∧
    (s.pwr.phase = .cooling → ∃ t, exec .tripCooldownComplete s = .next t ∧ t.pwr.phase = .powered ∧
      t.pwr.lastReset = s.pwr.lastReset ∧ t.mem = s.mem ∧ t.hold = s.hold)

/-! Links, queues, job entries, ownership. -/

/-- R405, R406, R408, R409, R417, R472: a link that comes up shows its speed and width, and a lapsing owner behind it holds
again; a link that goes down, a function-level reset and a hot reset put every enabled queue of the link into error, and the owner
behind it lapses, or loses ownership; they reset the function's configuration space, interrupt state and mailbox, and so does the reset input, which takes its link
down too and whose level a link that is not there remembers. R451, R460: a link comes up once the PCIe island runs from the reference
(log entry 53). A failed host transfer puts its queue into error, or ends what it served. With no command waiting a function that is
up and was reset is configured by the host anew, a free value within what R407 allows (log entry 102). -/
def Obligations.LinkChangesReachQueues : Prop :=
  ∀ (s : State) (l : Fin 2) (x : Fn), getFn s l.val = x → canonical s →
    (∀ speed width flit, linkFits s speed width flit = true → linkExists s l.val = true → x.up = false → x.perst = false →
        s.clk.ref = .good → onReference s pcieIsland = true →
      ∃ t, exec (.linkUp l speed width flit) s = .next t ∧ (getFn t l.val).up = true ∧ (getFn t l.val).speed = speed ∧
        (getFn t l.val).width = width ∧ t.mem = s.mem ∧
        (s.own.state = .lapsing → s.own.owner.val = l.val → t.own.state = .held) ∧
        (s.own.state ≠ .lapsing → t.own = s.own)) ∧
    (x.up = true → ∃ t, exec (.linkDown l) s = .next t ∧ (getFn t l.val).up = false ∧ t.mem = s.mem ∧
      (getFn t l.val).cfg = FnCfg.init ∧ (l = 0 → ∀ c, s.hold.cmd = some c → onHost c = true → t.hold.cmd = none) ∧
      (∀ q, (getQueue s q).enabled = true → b2n (getQueue s q).link = l.val → (getQueue t q).error ≠ 0) ∧
      (s.own.state = .held → s.own.owner.val = l.val → t.own.state = .lapsing)) ∧
    (linkExists s l.val = true → ∃ t, exec (.flr l) s = .next t ∧ exec (.hotReset l) s = .next t ∧ t.mem = s.mem ∧
      (getFn t l.val).cfg = FnCfg.init ∧ (getFn t l.val).unset = true ∧ (getFn t l.val).doe = none ∧
      (∀ q, (getQueue s q).enabled = true → b2n (getQueue s q).link = l.val → (getQueue t q).error ≠ 0) ∧
      (s.own.state ≠ .vacant → s.own.owner.val = l.val → t.own.state = .vacant) ∧ (s.own.owner.val ≠ l.val → t.own = s.own)) ∧
    (x.up = true → x.unset = true → s.pending = [] → s.pln.job = none → s.sec.stage = none → ∃ t n, step s = .next t ∧
      (getFn t l.val).cfg = legalCfg (Config.hostCfg n) ∧ (getFn t l.val).unset = false ∧ (getFn t l.val).up = true ∧
      (getFn t l.val).cfg.maxPayload.toNat ≤ 2 ∧ (getFn t l.val).cfg.maxRead.toNat ≤ 5 ∧ t.mem = s.mem ∧ t.stp = s.stp) ∧
    (linkExists s l.val = true →
      ∃ t, exec (.perst l true) s = .next t ∧ (getFn t l.val).up = false ∧ (getFn t l.val).perst = true ∧ t.mem = s.mem ∧
        (getFn t l.val).cfg = FnCfg.init ∧ (getFn t l.val).msix = [] ∧ (getFn t l.val).doe = none ∧
        ∀ q, (getQueue s q).enabled = true → b2n (getQueue s q).link = l.val → (getQueue t q).error ≠ 0) ∧
    exec (.perst l false) s = .next (setFn s l.val { x with perst := false }) ∧
    (linkExists s l.val = false → exec (.perst l true) s = .next (setFn s l.val { x with perst := true })) ∧
    (∀ c addr, s.hold.cmd = some c → hHost c.job = 1 → c.code ∈ [3, 4, 5, 6] → ∃ t, exec (.dmaError .hold addr) s = .next t ∧
      t.hold.cmd = none ∧ t.mem = s.mem ∧ t.stp = s.stp) ∧
    (∀ die k e addr, (hostSample s die.val k e.val).isSome = true →
      (s.stp.state = .suspended → exec (.dmaError (.sample die k e) addr) s = .next s) ∧
      (s.stp.state ≠ .suspended → ∃ t, eventsOnly s t ∧ t = raiseDma s 0 (.sample die k e) addr ∧
        exec (.dmaError (.sample die k e) addr) s = .next (endDecode t die.val k e.val false))) ∧
    ∀ (q : Fin 256) (addr : W64), (getQueue s q.val).enabled = true → (getQueue s q.val).error = 0 →
      ((getQueue s q.val).event = false → ∃ t, exec (.dmaError (.jobFetch q) addr) s = .next t ∧
        (getQueue t q.val).error = 2 ∧ t.mem = s.mem) ∧
      ((getQueue s q.val).event = true → ∃ t, exec (.dmaError (.eventWrite q) addr) s = .next t ∧
        (getQueue t q.val).error = 3 ∧ t.mem = s.mem)

/-- R418, R423, R424, R433: a queue is enabled with its pointers at 0, or keeps its enable with queue-error; disabling a job queue
takes its waiting entries out of the control order. A doorbell inside the ring moves the TAIL of a job queue for its owner and the
HEAD of an event queue for the master behind its link; one outside puts the queue into error with queue-error. The moderation timer
signals the entries that were not signalled yet. R431, R432, R433, R439: an event that the plan in force suppresses changes nothing;
any other is written as an entry of 32 bytes at the TAIL of each enabled event queue whose mask lets its code pass, which moves TAIL
and the phase, and behind the buffer of each management port that takes its class; a queue where at most 4 entries are free (for a gale
event none) drops it, counts it as lost and marks its next entry. (Events with room in every queue that takes them, whose links are up
and whose next entries lie apart, or with every queue's link up; the payload's widths are log entry 28, the order of what follows a
drop 91.) -/
def Obligations.QueuesEnableAndRing : Prop :=
  (∀ (s : State) (m : Fin 4) (cfg : W32) (x : Queue), getQueue s (selQueue s m.val) = x → isOwner s m.val = true →
    masterExists s m.val = true → s.sec.boot = .ready → canonical s →
    (x.enabled = false → sizeOk (cfgSize cfg) = true → (cfg.getLsbD 29 = true → s.pwr.linkMode = true) →
      exec (.queueEnable m cfg) s = .next (setQueue s (selQueue s m.val) { writeCfg x cfg with
        enabled := true, head := 0, tail := 0, phase := true, error := 0, unsignalled := 0, lostMark := false,
        lostTold := false })) ∧
    (x.enabled = false → sizeOk (cfgSize cfg) = false ∨ cfg.getLsbD 29 = true ∧ s.pwr.linkMode = false →
      ∃ t, exec (.queueEnable m cfg) s = .next t ∧ eventsOnly (setQueue s (selQueue s m.val) (writeCfg x cfg)) t ∧
        t = raise (setQueue s (selQueue s m.val) (writeCfg x cfg)) 0xC004 (srcQueue (selQueue s m.val))
          (toLe 2 (selQueue s m.val) ++ toLe 1 0) ∧ (getQueue t (selQueue s m.val)).enabled = false) ∧
    (x.enabled = true → ∃ t, exec (.queueDisable m cfg) s = .next t ∧ (getQueue t (selQueue s m.val)).enabled = false ∧
      t.mem = s.mem ∧ (x.event = true → (getQueue t (selQueue s m.val)).unsignalled = 0) ∧ (x.event = false →
        t.ctl.waiting = s.ctl.waiting.filter (fun j => j.queue != selQueue s m.val) ∧ t.ctl.running = s.ctl.running))) ∧
  (∀ (s : State) (m : Fin 4) (q : Fin 256) (v : W32) (x : Queue), getQueue s q.val = x → m.val < 2 → masterExists s m.val = true →
    s.sec.boot = .ready → x.enabled = true → b2n x.link = m.val →
    (x.event = false → isOwner s m.val = true →
      (v.toNat % 65536 < ringSize x → exec (.jobDoorbell m q v) s = .next (setQueue s q.val { x with tail := v.toNat % 65536 })) ∧
      (ringSize x ≤ v.toNat % 65536 → exec (.jobDoorbell m q v) s = .next (if x.error = 0 then
        raise (setQueue s q.val { x with error := 1 }) 0xC004 (srcQueue q.val) (toLe 2 q.val ++ toLe 1 1) else s))) ∧
    (x.event = true →
      (v.toNat % 65536 < ringSize x →
        exec (.evqDoorbell m q v) s = .next (setQueue s q.val { x with head := v.toNat % 65536 })) ∧
      (ringSize x ≤ v.toNat % 65536 → exec (.evqDoorbell m q v) s = .next (if x.error = 0 then
        raise (setQueue s q.val { x with error := 1 }) 0xC004 (srcQueue q.val) (toLe 2 q.val ++ toLe 1 1) else s)))) ∧
  (∀ (s t : State) (code src : Nat) (payload : Bytes), t = raise s code src payload → canonical s →
    (suppressed s code = true → t = s) ∧
    (suppressed s code = false →
      (∀ q x, getQueue s q = x → takesEvent x code = true → evqDrops s x code = false ∧ (getFn s (b2n x.link)).up = true) →
      (mgmtClass (evClass code) = true → ∀ p < 2, (getMgmt s p).buf.length < 60) →
      (∀ q r x y, getQueue s q = x → getQueue s r = y → q ≠ r → takesEvent x code = true → takesEvent y code = true →
        x.link = y.link → x.base.toNat + 32 * x.tail + 32 ≤ y.base.toNat + 32 * y.tail ∨
          y.base.toNat + 32 * y.tail + 32 ≤ x.base.toNat + 32 * x.tail) →
      (∀ q x, getQueue s q = x →
        (takesEvent x code = false → getQueue t q = x) ∧
        (takesEvent x code = true →
          rdHost t x.link (x.base.toNat + 32 * x.tail) 32 = evEntry code x.phase x.lostMark src s.stp.c payload ∧
          (getQueue t q).tail = (x.tail + 1) % ringSize x ∧
          (getQueue t q).phase = (if (x.tail + 1) % ringSize x = 0 then !x.phase else x.phase) ∧
          (getQueue t q).lostMark = false ∧ (getQueue t q).lost = x.lost ∧ (getQueue t q).head = x.head ∧
          (getQueue t q).unsignalled =
            if isGale code || decide (x.count.toNat ≤ x.unsignalled + 1) then 0 else x.unsignalled + 1)) ∧
      ∀ p < 2, (getMgmt t p).buf = (getMgmt s p).buf ++ if mgmtClass (evClass code) then
        [evEntry code false (getMgmt s p).lostMark src s.stp.c payload] else []) ∧
    (suppressed s code = false → (∀ q, (getQueue s q).enabled = true → (getFn s (b2n (getQueue s q).link)).up = true) →
      ∀ q x, getQueue s q = x → takesEvent x code = true → evqDrops s x code = true →
        (getQueue t q).lost = satInc32 x.lost ∧ (getQueue t q).lostMark = true ∧ (getQueue t q).tail = x.tail ∧
        (getQueue t q).error = 0)) ∧
  ∀ (s : State) (q : Fin 256), (getQueue s q.val).timeUs ≠ 0 → canonical s → ∃ t, exec (.evqModerationTimer q) s = .next t ∧
    (getQueue t q.val).unsignalled = 0 ∧ ((getQueue s q.val).unsignalled = 0 → t = s) ∧
    ((getQueue s q.val).unsignalled ≠ 0 → t = msixSend (setQueue s q.val { getQueue s q.val with unsignalled := 0 })
      (b2n (getQueue s q.val).link) (getQueue s q.val).vector.toNat) ∧ eventsOnly s t

/-- R425, R426, R246: the next entry of the next queue in turn is fetched into the control order or outside it, or puts its queue into
error 0x02 while the queue's link is down (R409); NOP and FENCE end,
a FENCE once every earlier entry of its queue has ended; a MANIFEST hands its manifest to an evaluation stream with a place; a
DEAL writes its pass manifests, its deferred entries and its result, and nothing else; one whose request or tables break the
rules, or whose result has no place, writes nothing and ends with deal-invalid. (A bank is not written: log 80; how the rejected entries end is
log entry 65.) -/
def Obligations.JobEntriesFetchAndEnd : Prop :=
  (∀ (s : State) (n : Nat) (x : Queue) (j : JobEnt), s.sec.boot = .ready → n < 256 →
    (∀ i < n, mayFetch s ((s.ctl.turn + i) % 256) = false) → mayFetch s ((s.ctl.turn + n) % 256) = true →
    getQueue s ((s.ctl.turn + n) % 256) = x →
    j = JobEnt.mk ((s.ctl.turn + n) % 256) x.head x.fetched (rdHost s x.link (x.base.toNat + 64 * x.head) 64) false →
    canonical s → ((getFn s (b2n x.link)).up = false → ∃ t, exec .jobFetch s = .next t ∧ t.mem = s.mem ∧
      (getQueue t ((s.ctl.turn + n) % 256)).error = 2 ∧ (getQueue t ((s.ctl.turn + n) % 256)).head = x.head ∧
      t.ctl.waiting = s.ctl.waiting ∧ t.ctl.free = s.ctl.free) ∧
    ((getFn s (b2n x.link)).up = true → ∃ t, exec .jobFetch s = .next t ∧ t.mem = s.mem ∧
      t.ctl.turn = ((s.ctl.turn + n) % 256 + 1) % 256 ∧ t.ctl.running = s.ctl.running ∧
      (1 ≤ jobOpc j → jobOpc j ≤ 5 → t.ctl.waiting = s.ctl.waiting ++ [j] ∧ t.ctl.free = s.ctl.free) ∧
      (jobOpc j ∈ [0, 6, 7, 8] → t.ctl.free = s.ctl.free ++ [j] ∧ t.ctl.waiting = s.ctl.waiting) ∧
      (8 < jobOpc j → t.ctl.free = s.ctl.free ∧ t.ctl.waiting = s.ctl.waiting))) ∧
  (∀ (s : State) (j : JobEnt), entryForm j [] = true →
    (freeEntry s 0 = some j → ∃ t, exec .nop s = .next t ∧
      eventsOnly { s with ctl := { s.ctl with free := s.ctl.free.filter (· != j) } } t) ∧
    (s.ctl.free.filter (fun j => jobOpc j == 8) = [j] → earlierEnded s j = true → ∃ t, exec .fence s = .next t ∧
      eventsOnly { s with ctl := { s.ctl with free := s.ctl.free.filter (· != j) } } t) ∧
    (s.ctl.free.filter (fun j => jobOpc j == 8) = [j] → earlierEnded s j = false → exec .fence s = .next s)) ∧
  (∀ (s : State) (j : JobEnt) (addr k : Nat) (h : Bytes) (x : Stream), s.ctl.free = [j] → fld j.bytes 8 8 = addr →
    rdMem s addr 128 = h → streamIdx (byteAt h 7) (byteAt h 6) = k → getStream s k = x → jobOpc j = 7 → j.sub = false →
    entryForm j [(8, 8)] = true → addr % 128 = 0 → inHbm s addr 128 = true → byteAt h 7 < 12 → byteAt h 6 < 8 →
    isEvalStream s k = true → streamHolds x < 4 → canonical s → ∃ t, exec .manifest s = .next t ∧
      (getStream t k).subs = x.subs ++ [(addr, none)] ∧ t.mem = s.mem ∧
      t.ctl.free = [JobEnt.mk j.queue j.index j.num j.bytes true]) ∧
  (∀ (s : State) (j : JobEnt) (addr : Nat) (r : Bytes), freeEntry s 6 = some j → fld j.bytes 8 8 = addr → anyStackHolds s = false →
    rdMem s addr 128 = r → entryForm j [(8, 8)] = true → inHbm s addr 128 = true → dealOk s addr r = false →
    exec .deal s = .next (endFree (raise s 0x4108 srcDevice []) j 1 0x4108)) ∧
  ∀ (s : State) (j : JobEnt) (addr : Nat) (r : Bytes) (ps : List (List Nat)) (late : List Nat) (n : Nat), freeEntry s 6 = some j →
    fld j.bytes 8 8 = addr → anyStackHolds s = false → rdMem s addr 128 = r → entryForm j [(8, 8)] = true → addr % 64 = 0 → inHbm s addr 128 = true →
    dealOk s addr r = true → n = mhCount (rdMem s (dSrc r) 128) →
    deal (dBudget r) (dPasses r) n (fun e => fld (rdMem s (dTokens r) (4 * n)) (4 * e) 4) = (ps, late) →
    inHbm s (dDefer r) (4 * late.length) = true →
    (∀ p < ps.length, inHbm s (dDst r + p * dStride r) (128 * ((ps.getD p []).length + 1)) = true) → canonical s →
      ∃ t, exec .deal s = .next t ∧ (touchesAnyBank s (dResult r) 16 = false →
          rdMem t (dResult r) 16 = toLe 4 ps.length ++ toLe 4 late.length ++ zeroBytes 8) ∧
        t.ctl.free = s.ctl.free.filter (· != j) ∧
        sameOutside s t (((List.range ps.length).map fun p =>
          (dDst r + p * dStride r, (dealManifest s r p (ps.getD p [])).length)) ++
          [(dDefer r, 4 * late.length), (dResult r, 16)])

/-- R416, R417, R420: ownership. Each command takes effect only with the current GEN, only from its writer and its state, and then
raises GEN by one and ownership-moved; with another GEN, from another writer or from another state it changes nothing (CLAIM of a
device that is not vacant; RELEASE, OFFER and WITHDRAW by another master than the owner; ACCEPT by another than the target; OFFER to the
writer itself); so a second command with the same GEN, after one that took effect, is ignored too. An offer that times out returns to
held; a lapse leaves the device vacant; a valid reclaim makes its target the owner. (The payload's widths are log entry 28.) -/
def Obligations.OwnershipMovesByCommand : Prop :=
  ∀ (s : State) (m : Fin 4) (g : BitVec 16) (o : Own), s.own = o → masterExists s m.val = true → s.sec.boot = .ready →
    (g ≠ o.gen → ∀ k : Fin 4, ∀ i ∈ [Instr.claim m g, Instr.releaseOwnership m g, Instr.offer m g k, Instr.accept m g,
      Instr.withdraw m g], exec i s = .next s) ∧
    (g = o.gen →
      (o.state = .vacant → ∃ t, exec (.claim m g) s = .next t ∧ t.own = Own.mk .held m o.target (g + 1) o.timeout ∧
        t = raise { s with own := t.own } 0x0002 srcDevice (ownPayload o t.own 1) ∧
        eventsOnly { s with own := t.own } t ∧ ∀ k : Fin 4, exec (.claim k g) t = .next t) ∧
      (o.state ≠ .vacant → exec (.claim m g) s = .next s) ∧
      (o.state = .held ∨ o.state = .offered → o.owner = m → ∃ t, exec (.releaseOwnership m g) s = .next t ∧
        t.own = Own.mk .vacant m o.target (g + 1) o.timeout ∧ eventsOnly { s with own := t.own } t ∧
        t = raise { s with own := t.own } 0x0002 srcDevice (ownPayload o t.own 1)) ∧
      (o.owner ≠ m ∨ o.state = .vacant ∨ o.state = .lapsing → exec (.releaseOwnership m g) s = .next s) ∧
      (∀ k, o.state = .held → o.owner = m → k ≠ m → ∃ t, exec (.offer m g k) s = .next t ∧
        t.own = Own.mk .offered m k (g + 1) o.timeout ∧ eventsOnly { s with own := t.own } t ∧
        t = raise { s with own := t.own } 0x0002 srcDevice (ownPayload { o with target := k } t.own 1)) ∧
      (∀ k, o.owner ≠ m ∨ k = m ∨ o.state ≠ .held → exec (.offer m g k) s = .next s) ∧
      (o.state = .offered → o.target = m → ∃ t, exec (.accept m g) s = .next t ∧
        t.own = Own.mk .held m m (g + 1) o.timeout ∧ eventsOnly { s with own := t.own } t ∧
        t = raise { s with own := t.own } 0x0002 srcDevice (ownPayload o t.own 1)) ∧
      (o.target ≠ m ∨ o.state ≠ .offered → exec (.accept m g) s = .next s) ∧
      (o.state = .offered → o.owner = m → ∃ t, exec (.withdraw m g) s = .next t ∧
        t.own = Own.mk .held m o.target (g + 1) o.timeout ∧ eventsOnly { s with own := t.own } t ∧
        t = raise { s with own := t.own } 0x0002 srcDevice (ownPayload o t.own 1)) ∧
      (o.owner ≠ m ∨ o.state ≠ .offered → exec (.withdraw m g) s = .next s)) ∧
    (o.state ≠ .offered → exec .offerTimeout s = .next s) ∧
    (o.state = .offered → ∃ t, exec .offerTimeout s = .next t ∧
      t.own = Own.mk .held o.owner o.target (o.gen + 1) o.timeout ∧ eventsOnly { s with own := t.own } t) ∧
    (o.state = .lapsing ∨ o.state ≠ .vacant ∧ 2 ≤ o.owner.val → ∃ t, exec .ownershipLapse s = .next t ∧
      t.own = Own.mk .vacant o.owner o.target (o.gen + 1) o.timeout ∧ eventsOnly { s with own := t.own } t) ∧
    (o.state = .vacant ∨ o.state ≠ .lapsing ∧ o.owner.val < 2 → exec .ownershipLapse s = .next s) ∧
    ∀ (p : Fin 2) (b : Bytes), portServes s p.val = true → (getMgmt s p.val).busy = false →
      (reclaimFault s b = none → o.state ≠ .held ∨ o.owner.val ≠ byteAt b 6 % 4 → ∃ t, exec (.reclaim p b) s = .next t ∧
        t.own.state = .held ∧ t.own.owner.val = byteAt b 6 % 4 ∧ t.own.gen = o.gen + 1 ∧
        t.sec.reclaimSeq = fld64 b 24 ∧ t.mem = s.mem) ∧
      (reclaimFault s b ≠ none → ∃ t, exec (.reclaim p b) s = .next t ∧ t.own = s.own ∧ t.sec = s.sec ∧ t.mem = s.mem)

/-! Registers and the management ports. -/

/-- R12, R17: a BAR0 access that is not a naturally aligned 32-bit one raises misaligned-access; a read of that kind returns
0xFFFF_FFFF and a write is discarded. A register write by a master that does not own the device is discarded, but for the exempt
registers. (Before boot is ready, and for a master that does not exist, R410 and R415 leave the access dead. That a misaligned write
of another master raises nothing more is log entry 99; the events' payload widths are log entry 28.) -/
def Obligations.BadRegisterAccessDiscarded : Prop :=
  ∀ (s : State) (m : Fin 4) (off : BitVec 24),
    (accessDead s m.val off.toNat = true → ∀ size v, exec (.registerWrite m off v size) s = .next s ∧
      exec (.misalignedBar0Read m off size) s = .next (putRead s m.val 0xFFFFFFFF)) ∧
    (accessDead s m.val off.toNat = false → ∀ size, off.toNat % 4 ≠ 0 ∨ size ≠ 4 →
      exec (.misalignedBar0Read m off size) s = .next (raise { s with bus := { s.bus with
        reads := s.bus.reads ++ [(m.val, 0xFFFFFFFF)] } } 0xC001 (masterSrc m.val) (toLe 1 m.val ++ toLe 4 off.toNat)) ∧
      ∀ v, ∃ t, exec (.registerWrite m off v size) s = .next t ∧ eventsOnly s t ∧
        t = raise s 0xC001 (masterSrc m.val) (toLe 1 m.val ++ toLe 4 off.toNat)) ∧
    (accessDead s m.val off.toNat = false → off.toNat % 4 = 0 → isOwner s m.val = false → exemptOff s m.val off.toNat = false →
      ∀ v, ∃ t, exec (.registerWrite m off v 4) s = .next t ∧ eventsOnly s t)

/-- R13, R15, R40, R222, R410, R413: registers. An RC register answers its value, and the owner's read leaves it at 0; a low half
answers with its high half captured for the same master; OWN_TIMEOUT and PWR_LIMIT take a legal value and keep theirs at a
reserved one; PLN_ADDR takes both halves at the write of the high one. BAR2 reads and writes device memory where the host may, and
a read that may not is answered with ones; one whose stack holds new requests waits for it (R445). (A BAR2 access of which any byte is unmapped, and the cache rows the
host may not read, are log entry 63; the staged low halves log entry 56.) -/
def Obligations.RegistersReadAndTakeValues : Prop :=
  ∀ (s : State) (m : Fin 4), masterExists s m.val = true → s.sec.boot = .ready → canonical s →
    (∀ i off, (i, off) ∈ ([(.slwConcealed m, 0xA018), (.slwOverbudget m, 0xA01C), (.stpSkips m, 0xB040), (.fabCorr m, 0x8014),
        (.fabUncorr m, 0x8018), (.fabReplay m, 0x801C), (.fabLost m, 0x8024), (.hldProgFail m, 0x7048), (.evqLost m, 0x2020),
        (.clkForced m, 0x5010), (.clkRefFails m, 0x5014), (.pwrSlacks m, 0x6018)] : List (Instr × Nat)) →
      captured s m.val off = none →
      (isOwner s m.val = false → exec i s = .next (putRead s m.val (regValue s m.val off))) ∧
      (isOwner s m.val = true → ∃ t, exec i s = .next (putRead t m.val (regValue s m.val off)) ∧ t = rcClear s m.val off ∧
        regValue t m.val off = 0 ∧ t.mem = s.mem)) ∧
    (∀ off : BitVec 24, isLo off.toNat = true → ∃ t, exec (.loReadCapture m off) s = .next t ∧
      t.bus.reads = s.bus.reads ++ [(m.val, regValue s m.val off.toNat)] ∧
      captured t m.val (off.toNat + 4) = some (regValue s m.val (off.toNat + 4)) ∧ t.mem = s.mem) ∧
    (∀ (off : BitVec 24) (v : W32), 4 ≤ off.toNat → isLo (off.toNat - 4) = true → captured s m.val off.toNat = some v →
      ∃ t, exec (.loReadCapture m off) s = .next t ∧ t.bus.reads = s.bus.reads ++ [(m.val, v)] ∧
        captured t m.val off.toNat = none) ∧
    (isOwner s m.val = true → ∀ v : W32,
      exec (.registerWrite m 0x1008 v 4) s = .next (if v.toNat % 256 = 0 then s else
        { s with own := { s.own with timeout := v.setWidth 8 } }) ∧
      exec (.registerWrite m 0x6014 v 4) s = .next (if 2000 ≤ v.toNat % 65536 ∧ v.toNat % 65536 ≤ 11000 then
        { s with pwr := { s.pwr with limit := v.setWidth 16 } } else s) ∧
      ∀ hi, ∃ t u, exec (.registerWrite m 0x4008 v 4) s = .next t ∧ t.pln = s.pln ∧
        exec (.registerWrite m 0x400C hi 4) t = .next u ∧ u.pln.addr = (hi ++ v) &&& 0x0000FFFFFFFFFFFF ∧ u.mem = s.mem) ∧
    ∀ (fn : Fin 2) (off : BitVec 36) (a : Nat), fn.val = m.val → bar2Addr s fn.val off.toNat = a →
      (∀ n, hostMapped s a n = true →
        (readRefused s a n = false → hostHeld s fn.val a n = false → exec (.bar2Read fn off n) s = .next (putBar2 s (rdMem s a n))) ∧
        (readRefused s a n = false → hostHeld s fn.val a n = true → exec (.bar2Read fn off n) s = .next { s with bus :=
          { s.bus with bar2Wait := s.bus.bar2Wait ++ [HostWait.mk fn.val a n none] } }) ∧
        (readRefused s a n = true → ∃ t, exec (.bar2Read fn off n) s = .next t ∧ t.bus.bar2 = s.bus.bar2 ++ [bytesFF n] ∧
          t.mem = s.mem)) ∧
      (∀ n, hostMapped s a n = false → ∃ t, exec (.bar2Read fn off n) s = .next t ∧ t.bus.bar2 = s.bus.bar2 ++ [bytesFF n] ∧
        t.mem = s.mem) ∧
      ∀ b : Bytes, isOwner s m.val = true → hostMapped s a b.length = true →
        (hostBankOk s a b.length = true → hostHeld s fn.val a b.length = true → exec (.bar2Write fn off b) s = .next { s with bus :=
          { s.bus with bar2Wait := s.bus.bar2Wait ++ [HostWait.mk fn.val a 0 (some b)] } }) ∧
        (hostBankOk s a b.length = true → hostHeld s fn.val a b.length = false → ∃ t, exec (.bar2Write fn off b) s = .next t ∧ rdMem t a b.length = b ∧
          sameOutside s t [(a, b.length)] ∧ t.stp = s.stp) ∧
        (hostBankOk s a b.length = false → ∃ t, exec (.bar2Write fn off b) s = .next t ∧ eventsOnly s t)

/-- R371, R420, R436, R437: the messages of a management port. A served port without an outstanding request answers each with its
status: REG_READ with the registers' values, REG_WRITE as a write of its master, JOB takes an entry as if from its own queue,
EVENT_READ the oldest events of its buffer, KEEPALIVE the ownership status, ATTEST the report; BOARD_WRITE writes the board record;
RECOVERY collects a package after a failed boot and is rejected at any other time; its last piece has the package checked: a
valid one is in slot A of both copies as the reset follows, a refused one changes no NOR (R374). While a request is outstanding,
every other is answered busy and does nothing (that it stays so until no command waits: log entry 115). The control messages are
answered, but not before the reference is good, nor by a device that failed to boot or offers no shape (R359, R371, R460). (The
layouts of the MCTP control responses are the model's, log 44; what a port needs, and the statuses, log entry 57; the stored
MIN_SVN that a recovery checks, log entry 52.) -/
def Obligations.ManagementMessagesAnswered : Prop :=
  ∀ (s : State) (p : Fin 2) (m : Fin 4), m.val = 2 + p.val → canonical s →
    (portServes s p.val = true → (getMgmt s p.val).busy = false →
      (∀ (off : BitVec 24), readBlocks s = none → off.toNat % 4 = 0 → off.toNat + 4 ≤ 0xE000 → off.toNat / 4096 ≠ 7 →
        isLo off.toNat = false → captured s m.val off.toNat = none → off.toNat ∉ [0x6008, 0x600C, 0x601C] →
        isOwner s m.val = false →
        exec (.regRead p off 1) s = .next (answerMsg s p.val 0 (le32 (regValue s m.val off.toNat)))) ∧
      (∀ (off : BitVec 24) (v : W32), portBarred off.toNat = false → isOwner s m.val = true ∨ exemptOff s m.val off.toNat = true →
        ∃ u t, exec (.registerWrite m off v 4) s = .next u ∧ exec (.regWrite p off v) s = .next t ∧ t = answerMsg u p.val 0 []) ∧
      (∀ b : Bytes, b.length = 64 → isOwner s m.val = true → ∀ j, j = JobEnt.mk (256 + p.val) 0
          (getQueue s (256 + p.val)).fetched b false → ∃ t, exec (.job p b) s = .next t ∧ t.mem = s.mem ∧
        (1 ≤ jobOpc j → jobOpc j ≤ 5 → t.ctl.waiting = s.ctl.waiting ++ [j]) ∧
        (jobOpc j ∈ [0, 6, 7, 8] → t.ctl.free = s.ctl.free ++ [j])) ∧
      (∀ n : Byte, 1 ≤ n.toNat → n.toNat ≤ 16 → ∃ t, exec (.eventRead p n) s = .next t ∧
        (getMgmt t p.val).buf = (getMgmt s p.val).buf.drop n.toNat ∧
        t.bus.mctp = s.bus.mctp ++ [(p.val, toLe 1 0 ++ ((getMgmt s p.val).buf.take n.toNat).flatten)]) ∧
      exec (.keepalive p) s = .next (answerMsg s p.val 0 (le32 (ownStatus s))) ∧
      (∀ b : Bytes, b.length = 32 → s.sec.ident = true →
        exec (.attest m b) s = .next (answerMsg s p.val 0 (attestation s b))) ∧
      (∀ (off : BitVec 16) (b : Bytes), off.toNat % 256 = 0 → off.toNat ≤ 3840 → b.length = 256 → isOwner s m.val = true →
        curPlan s = none → ∃ t, exec (.boardWrite p off b) s = .next t ∧ rdNor t false off.toNat 256 = b ∧
          rdNor t true off.toNat 256 = b ∧ t.mem = s.mem)) ∧
    (portServes s p.val = true → (getMgmt s p.val).busy = true → ∀ off n v b f o a last,
      (readBlocks s = none → exec (.regRead p off n) s = .next (putMctp s p.val [4])) ∧
      ∀ i ∈ [Instr.regWrite p off v, .job p b, .eventRead p n, .keepalive p, .attest m b, .boardWrite p o b, .reclaim p b,
        .recovery p a last b f], exec i s = .next (putMctp s p.val [4])) ∧
    (portLive s p.val = true → (getMgmt s p.val).busy = false → s.sec.boot = .failed → ∀ (off : W32) (b : Bytes) f,
      b.length ≤ 4096 → off.toNat + b.length ≤ 0x08000000 →
      exec (.recovery p off false b f) s =
        .next (answerMsg { s with sec := { s.sec with package := wr s.sec.package off.toNat b } } p.val 0 []) ∧
      ∀ pkg, readPackage (fun o n => rd (wr s.sec.package off.toNat b) o n) = pkg → s.spr.insp = none →
        ∃ t, exec (.recovery p off true b f) s = .next t ∧ t.pwr.phase = .powered ∧ t.pwr.lastReset = 3 ∧
          t.sec.boot = State.reset.sec.boot ∧ t.mem = [] ∧
          (pkgFault (storedMinSvn s f.holdMetaOk) pkg = none → rdNor t false (slotOff false) pkg.length = pkg ∧
            rdNor t true (slotOff false) pkg.length = pkg ∧ t.bus.mctp = s.bus.mctp ++ [(p.val, [0])]) ∧
          (pkgFault (storedMinSvn s f.holdMetaOk) pkg ≠ none → t.nor0 = s.nor0 ∧ t.nor1 = s.nor1 ∧
            t.bus.mctp = s.bus.mctp ++ [(p.val, [3])])) ∧
    (portServes s p.val = true → (getMgmt s p.val).busy = false → ∀ off last b f,
      exec (.recovery p off last b f) s = .next (answerMsg s p.val 3 [])) ∧
    (isPowered s = true → ∀ a, exec (.entdaa p a) s = .next (setMgmt s p.val { getMgmt s p.val with addr := some a })) ∧
    (portTalks s p.val = false → ∀ e, ∀ i ∈ [Instr.setEndpointId p e, .getEndpointId p, .getMctpVersionSupport p,
      .getMessageTypeSupport p, .getVendorMessageSupport p], exec i s = .next s) ∧
    (portTalks s p.val = true →
      (∀ e : Byte, e ≠ 0 → e ≠ 0xFF → ∃ t, exec (.setEndpointId p e) s = .next t ∧ (getMgmt t p.val).eid = e ∧ t.mem = s.mem) ∧
      exec (.getEndpointId p) s = .next (putMctp s p.val [0, (getMgmt s p.val).eid, 0, 0]) ∧
      exec (.getMctpVersionSupport p) s = .next (putMctp s p.val
        ([0] ++ toLe 1 (Config.mctpVersions.length / 4) ++ Config.mctpVersions)) ∧
      exec (.getMessageTypeSupport p) s = .next (putMctp s p.val [0, 1, 0x7E]) ∧
      exec (.getVendorMessageSupport p) s = .next (putMctp s p.val
        ([0, 0xFF, 0] ++ (toLe 2 Config.vendorId.toNat).reverse ++ [0, 0])))

/-! Clocks and power. -/

/-- R447, R448, R449, R450, R451: the reference. A window without edges, or a second one out of its die's range, fails a good
reference and suspends the step; a window in range counts none out of range; a restored reference is good with its new count; the
owner's RESUME leads a suspended step on (an attempt, the lock or the idle state goes on as it was, and one with an abort cause
meanwhile aborts, R218, R293), but waits for the end of slack state and for the stacks; DISCARD drops its attempt; a source switch
is staged for the governor, refused for a generator that is not locked, and forced by the watchdog, which never elapses for a target
clock that has stopped. (N0's rounding is log entry 100; that a generator told of missing edges a second time loses its lock is log
entry 104; that RESUME waits for the stacks, DEDUCED, is log entry 53; the staging of a source switch is log entry 101.) -/
def Obligations.ReferenceFailsAndRecovers : Prop :=
  ∀ s : State,
    (∀ (die : Fin 14) (count : BitVec 16) stops, isPowered s = true → s.clk.ref = .good →
      (count = 0 ∨ outOfRange (expectedCount s die.val) count.toNat = true ∧ smGet 0 s.clk.bad die.val = 1 →
        ∃ t, exec (.monitorWindow die count stops) s = .next t ∧ t.clk.ref = .failed ∧
          t.clk.refFails = satInc32 s.clk.refFails ∧ t.clk.needResume = true ∧ t.stp.state = .suspended ∧
          (s.stp.state ≠ .suspended → t.stp.prior = s.stp.state) ∧ t.stp.bank = s.stp.bank ∧ t.stp.c = s.stp.c) ∧
      (count ≠ 0 → outOfRange (expectedCount s die.val) count.toNat = false → ∃ t, exec (.monitorWindow die count stops) s = .next t ∧
        t.clk.bad = smSet 0 s.clk.bad die.val 0 ∧ t.clk.ref = .good ∧ t.stp = s.stp ∧ t.mem = s.mem)) ∧
    (∀ i, (shapeIslands s).contains i = true → (getIsland s i).lock = true → exec (.generatorHoldover i) s =
      .next (updIsland s i fun x =>
        if x.holdover then { x with lock := false, holdover := false } else { x with holdover := true })) ∧
    (∀ windows, s.clk.ref = .failed → ∃ t, exec (.referenceRestored windows) s = .next t ∧ t.clk.ref = .good ∧
      t.clk.n0 = BitVec.ofNat 16 (meanCount ((windows[12]?).getD [])) ∧
      (∀ d, d < 12 → expectedCount t d = meanCount ((windows[d]?).getD [])) ∧ t.stp = s.stp ∧ t.mem = s.mem ∧ t.clk.needResume = s.clk.needResume) ∧
    (∀ m : Fin 4, isOwner s m.val = true → masterExists s m.val = true → s.sec.boot = .ready →
      (s.clk.ref = .good → s.clk.needResume = true →
        (s.pwr.slack = true ∨ anyStackHolds s = true →
          exec (.clkResume m) s = .next { s with clk := { s.clk with resumePend := true } }) ∧
        (s.pwr.slack = false → anyStackHolds s = false → s.stp.state = .suspended →
          ∃ t, exec (.clkResume m) s = .next t ∧ t.clk.needResume = false ∧ t.clk.resumePend = false ∧ resumed s t) ∧
        (s.pwr.slack = false → ∃ t, exec (.discard m) s = .next t ∧ t.stp.state = .stopped ∧ t.stp.att = none ∧ t.lock = none ∧
          t.clk.needResume = false ∧ t.stp.bank = s.stp.bank ∧ t.stp.c = s.stp.c ∧ t.stp.a = s.stp.a ∧ t.mem = s.mem)) ∧
      (∀ i, (getMaster s m.val).clkSel = i → (namedIslands s).contains i = true →
        exec (.sourceFb m) s = .next (askClock s i .toFallback) ∧
        ((getIsland s i).lock = true → exec (.sourceGen m) s = .next (askClock s i .toGenerator)) ∧
        (∀ a, lastAsk s i ≠ some a → ∃ r : GovReq, (askClock s i a).clk.gov = s.clk.gov ++ [r] ∧ r.island = i ∧
          r.clock = some a ∧ r.mode = none ∧ (askClock s i a).clk.islands = s.clk.islands) ∧
        ((getIsland s i).lock = false →
          exec (.sourceGen m) s = .next (setIsland s i { getIsland s i with last := 3 })))) ∧
    (∀ i x, getIsland s i = x → x.target = some true → x.lock = false → exec (.switchWatchdog i) s = .next s) ∧
    ∀ i g x, getIsland s i = x → x.target = some g → g = false ∨ x.lock = true → ∃ t, exec (.switchWatchdog i) s = .next t ∧
      eventsOnly (setIsland { s with clk := { s.clk with forced := satInc32 s.clk.forced } } i
        { x with generator := g, last := 2, target := none }) t

/-- R218, R447, R454–R458, R460, R461: power. The governor admits requests in order within its budget, but for those that enter
deep-sleep while a requester of their island waits (R181); an admitted mode change and an admitted switch of a clock's source take
hold, and the next tick completes that switch where both clocks run, with which a fabric port of the island starts training; a core whose
work has ended asks for that, and for its next start where descriptors wait; a window above the limit lowers the core clock by 25 MHz;
slack state suspends the step; its release timer follows the supply and the temperature and starts the ramp, and the tick at which
no island waits any more ends slack state and, with no reference failure to wait for, leads the step on as a resumption does; a
high input is told once. (The weight of a staged clock switch is log entry 101; the admission by the longest part that fits log entry
54, the range of the cap log entry 55.) -/
def Obligations.PowerGovernorAndSlack : Prop :=
  ∀ s : State,
    (s.clk.resumePend = false → s.pwr.releasing = false → ∀ u held q now later, trainPorts s (finishSwitches s) = u → heldReqs u u.clk.gov = held → q = u.clk.gov.filter (fun r => !held.contains r) →
      admitReqs govBudget q = (now, later) → now ++ later = q ∧
      (now.map fun r => r.weight).sum ≤ govBudget ∧ (∀ r rs, later = r :: rs → govBudget < (now.map fun r => r.weight).sum + r.weight) ∧
      ∃ t, exec .governorTick s = .next t ∧ t.clk.gov = later ++ held ∧ (s.bus.bar2Wait = [] → t.mem = s.mem) ∧ t.stp = s.stp ∧
        ∀ r, now = [r] → (∀ m, r.mode = some m → (getIsland t r.island).mode = m) ∧ (r.mode = none → ∀ x, getIsland u r.island = x →
          (r.clock = some .toFallback → getIsland t r.island = { x with target := some false }) ∧
          (r.clock = some .toGenerator →
            getIsland t r.island = if x.lock then { x with target := some true } else { x with last := 3 }) ∧
          (r.clock = some .retune → (getIsland t r.island).mhz = runMhz u r.island ∧ (x.generator = true → x.lock = true →
            (getIsland t r.island).generator = false ∧ (x.holdover = false → (getIsland t r.island).target = some true))))) ∧
    (smWf Island.init s.clk.islands = true → s.clk.gov = [] → s.clk.resumePend = false → s.pwr.releasing = false →
      ∃ t, exec .governorTick s = .next t ∧ ∀ i x g, getIsland s i = x → x.target = some g →
        (clockRuns x = true → g = false ∨ x.lock = true →
          getIsland t i = { x with generator := g, last := 1, target := none } ∧
          ∀ p < 6, portIsland p = i → (getPort s p).state = .down → unconnected s i = false → g = true → x.generator = false →
            (getPort t p).state = .training) ∧
        (clockRuns x = false ∨ g = true ∧ x.lock = false → getIsland t i = x)) ∧
    (∀ c, (getCore s c).idle = false → coreExists s c.die.val c.cluster.val c.core.val = true → canonical s →
      ∃ t, exec (.coreIdle c) s = .next t ∧ (getCore t c).idle = true ∧ t.clk.gov.length = s.clk.gov.length +
        (if (getCore s c).tileQ.isEmpty && (getCore s c).vecQ.isEmpty then 1 else 2) ∧ t.mem = s.mem) ∧
    (∀ w : BitVec 16, isPowered s = true → effLimit s < w.toNat → 425 ≤ s.pwr.cap → ∃ t, exec (.powerWindow w) s = .next t ∧
      t.pwr.cap = s.pwr.cap - 25 ∧ t.pwr.power = w ∧ t.stp = s.stp ∧ t.mem = s.mem) ∧
    (∀ thermal stops, isPowered s = true →
      (s.pwr.slack = false → ∃ t, exec (.slackEntered thermal stops) s = .next t ∧ t.pwr.slack = true ∧
        t.pwr.slacks = satInc32 s.pwr.slacks ∧ t.stp.state = .suspended ∧ t.stp.bank = s.stp.bank ∧ t.stp.c = s.stp.c) ∧
      (s.pwr.slack = true → ∃ t, exec (.slackEntered thermal stops) s = .next t ∧ t.pwr.timer = false ∧
        t.pwr.slack = true ∧ t.pwr.slacks = s.pwr.slacks ∧ (s.pwr.releasing = true → t.pwr.releasing = false) ∧ t.stp = s.stp ∧ t.mem = s.mem)) ∧
    (s.pwr.slack = true →
      (exec .releaseLevelCrossed s = .next { s with pwr := { s.pwr with
        vinOk := true, timer := !s.pwr.releasing && (!s.pwr.causeThermal || s.pwr.coolOk) } }) ∧
      (exec .inputBelowReleaseLevel s = .next { s with pwr := { s.pwr with vinOk := false, timer := false } }) ∧
      (∀ b, exec (.slackTemperatureCleared b) s = .next { s with pwr := { s.pwr with
        coolOk := b, timer := !s.pwr.releasing && s.pwr.vinOk && (!s.pwr.causeThermal || b) } }) ∧
      (s.pwr.timer = true → ∃ t, exec .slackReleaseTimer s = .next t ∧ t.pwr = { s.pwr with timer := false, releasing := true } ∧
        t.stp = s.stp ∧ t.mem = s.mem) ∧
      (s.pwr.releasing = true → s.clk.gov = [] → s.bus.bar2Wait = [] → s.clk.needResume = false → s.stp.state = .suspended →
        ∃ t, exec .governorTick s = .next t ∧ t.pwr.slack = false ∧ t.pwr.releasing = false ∧ resumed s t)) ∧
    (s.pwr.slack = false →
      exec .releaseLevelCrossed s = .next { s with pwr := { s.pwr with vinOk := true, timer := false } } ∧
      exec .inputBelowReleaseLevel s = .next { s with pwr := { s.pwr with vinOk := false, timer := false } } ∧
      ∀ b, exec (.slackTemperatureCleared b) s = .next { s with pwr := { s.pwr with coolOk := b, timer := false } }) ∧
    (∀ v, isPowered s = true → s.pwr.high = false → ∃ t, exec (.inputHigh v) s = .next t ∧ t.pwr.high = true ∧ t.pwr.vin = v ∧
      t.mem = s.mem ∧ t.stp = s.stp) ∧
    exec .inputHighEnded s = .next { s with pwr := { s.pwr with high := false } }
end

