-- ==== Sys2Proof/Laws/Memory.lean ====
section
/-! SUPPORT. Laws of the sparse maps and of the byte memories built on them: what a read after a write gives, and that
every memory operation keeps the canonical form. -/
namespace Sys2Proof.Machine
open Sys2Proof

variable {α : Type}

/-- The canonical form as a proposition. -/
theorem smWf_iff [DecidableEq α] (d : α) (m : SMap α) :
    smWf d m = true ↔ m.Pairwise (fun p q => p.1 < q.1) ∧ ∀ p ∈ m, p.2 ≠ d := by
  simp [smWf]

theorem smWf_nil [DecidableEq α] (d : α) : smWf d ([] : SMap α) = true := by simp [smWf_iff]

/-- The keys after a removal were keys before it. -/
theorem mem_smDel {m : SMap α} {k : Nat} {p : Nat × α} : p ∈ smDel m k → p ∈ m := by
  induction m with
  | nil => simp [smDel]
  | cons q m ih =>
    obtain ⟨j, v⟩ := q
    simp only [smDel]
    split
    · exact fun h => List.mem_cons_of_mem _ h
    · intro h
      rcases List.mem_cons.1 h with rfl | h
      · exact List.mem_cons_self
      · exact List.mem_cons_of_mem _ (ih h)

theorem mem_smIns {m : SMap α} {k : Nat} {v : α} {p : Nat × α} : p ∈ smIns m k v → p = (k, v) ∨ p ∈ m := by
  induction m with
  | nil => simp [smIns]
  | cons q m ih =>
    obtain ⟨j, w⟩ := q
    simp only [smIns]
    split
    · intro h; simpa using h
    · split
      · intro h
        rcases List.mem_cons.1 h with rfl | h
        · exact .inl rfl
        · exact .inr (List.mem_cons_of_mem _ h)
      · intro h
        rcases List.mem_cons.1 h with rfl | h
        · exact .inr List.mem_cons_self
        · exact (ih h).imp id (List.mem_cons_of_mem _)

theorem smDel_rising {m : SMap α} (k : Nat) (h : m.Pairwise fun p q => p.1 < q.1) :
    (smDel m k).Pairwise fun p q => p.1 < q.1 := by
  induction m with
  | nil => simp [smDel]
  | cons q m ih =>
    obtain ⟨j, v⟩ := q
    rw [List.pairwise_cons] at h
    simp only [smDel]
    split
    · exact h.2
    · exact List.pairwise_cons.2 ⟨fun p hp => h.1 p (mem_smDel hp), ih h.2⟩

theorem smIns_rising {m : SMap α} (k : Nat) (v : α) (h : m.Pairwise fun p q => p.1 < q.1) :
    (smIns m k v).Pairwise fun p q => p.1 < q.1 := by
  induction m with
  | nil => simp [smIns]
  | cons q m ih =>
    obtain ⟨j, w⟩ := q
    rw [List.pairwise_cons] at h
    simp only [smIns]
    split
    · rename_i hk
      refine List.pairwise_cons.2 ⟨fun p hp => ?_, List.pairwise_cons.2 h⟩
      rcases List.mem_cons.1 hp with rfl | hp
      · exact hk
      · exact lt_trans hk (h.1 p hp)
    · split
      · rename_i he
        subst he
        exact List.pairwise_cons.2 ⟨fun p hp => h.1 p hp, h.2⟩
      · rename_i h1 h2
        refine List.pairwise_cons.2 ⟨fun p hp => ?_, ih h.2⟩
        rcases mem_smIns hp with rfl | hp
        · simp only; omega
        · exact h.1 p hp

/-- A write keeps the canonical form. -/
theorem smSet_wf [DecidableEq α] {d : α} {m : SMap α} (k : Nat) (v : α) (h : smWf d m = true) :
    smWf d (smSet d m k v) = true := by
  rw [smWf_iff] at *
  unfold smSet
  split
  · exact ⟨smDel_rising k h.1, fun p hp => h.2 p (mem_smDel hp)⟩
  · rename_i hv
    refine ⟨smIns_rising k v h.1, fun p hp => ?_⟩
    rcases mem_smIns hp with rfl | hp
    · exact hv
    · exact h.2 p hp

/-- The removal of a range keeps the canonical form. -/
theorem smDelRange_wf [DecidableEq α] {d : α} {m : SMap α} (lo len : Nat) (h : smWf d m = true) :
    smWf d (smDelRange m lo len) = true := by
  rw [smWf_iff] at *
  exact ⟨h.1.filter _, fun p hp => h.2 p (List.mem_of_mem_filter hp)⟩

/-- A byte string written keeps the canonical form. -/
theorem wrD_wf {d : Byte} {m : SMap Byte} (a : Nat) (bs : Bytes) (h : smWf d m = true) :
    smWf d (wrD d m a bs) = true := by
  induction bs generalizing m a with
  | nil => exact h
  | cons b bs ih => exact ih (a + 1) (smSet_wf a b h)

/-- `Memory.wf` through a write of bytes. -/
theorem Memory.wf_wr {m : SMap Byte} (a : Nat) (bs : Bytes) (h : Memory.wf m = true) : Memory.wf (wr m a bs) = true :=
  wrD_wf a bs h

theorem Memory.wf_delRange {m : SMap Byte} (a n : Nat) (h : Memory.wf m = true) :
    Memory.wf (smDelRange m a n) = true := smDelRange_wf a n h

/-- The memories of the reset state have the canonical form. -/
theorem Memory.wf_reset :
    Memory.wf State.reset.mem = true ∧ Memory.wf State.reset.hostA = true ∧ Memory.wf State.reset.hostB = true ∧
      smWf 0xFF#8 State.reset.nor0 = true ∧ smWf 0xFF#8 State.reset.nor1 = true := by decide

/-! Reads after writes. -/

theorem smGet_smIns (d : α) (m : SMap α) (k j : Nat) (v : α) :
    smGet d (smIns m k v) j = if j = k then v else smGet d m j := by
  induction m with
  | nil => simp [smIns, smGet, eq_comm]
  | cons q m ih =>
    obtain ⟨i, w⟩ := q
    simp only [smIns]
    split
    · simp [smGet, eq_comm]
    · split
      · rename_i he
        subst he
        simp only [smGet]
        by_cases hj : j = k
        · simp [hj]
        · have : ¬ k = j := fun h => hj h.symm
          simp [hj, this]
      · simp only [smGet, ih]
        by_cases h1 : i = j
        · subst h1
          have : ¬ i = k := by rintro rfl; simp_all
          simp [this]
        · simp [h1]

theorem smGet_absent (d : α) (m : SMap α) (k : Nat) (h : ∀ p ∈ m, p.1 ≠ k) : smGet d m k = d := by
  induction m with
  | nil => rfl
  | cons q m ih =>
    obtain ⟨j, v⟩ := q
    have hj : j ≠ k := h (j, v) List.mem_cons_self
    simp only [smGet, hj, if_false]
    exact ih fun p hp => h p (List.mem_cons_of_mem _ hp)

theorem smGet_smDel (d : α) (m : SMap α) (k j : Nat) (h : m.Pairwise fun p q => p.1 < q.1) :
    smGet d (smDel m k) j = if j = k then d else smGet d m j := by
  induction m with
  | nil => simp [smDel, smGet]
  | cons q m ih =>
    obtain ⟨i, w⟩ := q
    rw [List.pairwise_cons] at h
    simp only [smDel]
    split
    · rename_i he
      subst he
      by_cases hj : j = i
      · subst hj
        simp only [if_true]
        exact smGet_absent d m j fun p hp => Nat.ne_of_gt (h.1 p hp)
      · have : ¬ i = j := fun e => hj e.symm
        simp [smGet, hj, this]
    · simp only [smGet, ih h.2]
      by_cases h1 : i = j
      · subst h1
        have : ¬ i = k := by assumption
        simp [this]
      · simp [h1]

/-- A read after a write of one entry, in a canonical map. -/
theorem smGet_smSet [DecidableEq α] {d : α} {m : SMap α} (k j : Nat) (v : α) (h : smWf d m = true) :
    smGet d (smSet d m k v) j = if j = k then v else smGet d m j := by
  rw [smWf_iff] at h
  unfold smSet
  split
  · rename_i hv
    rw [smGet_smDel d m k j h.1, hv]
  · exact smGet_smIns d m k j v

/-- A read at the key of a write that is not the default gives the value, in every map. -/
theorem smGet_smSet_ne [DecidableEq α] {d : α} (m : SMap α) (k j : Nat) {v : α} (h : v ≠ d) :
    smGet d (smSet d m k v) j = if j = k then v else smGet d m j := by
  simp only [smSet, h, if_false]
  exact smGet_smIns d m k j v

theorem smGet_smDelRange [DecidableEq α] (d : α) (m : SMap α) (lo len j : Nat) :
    smGet d (smDelRange m lo len) j = if lo ≤ j ∧ j < lo + len then d else smGet d m j := by
  induction m with
  | nil => simp [smDelRange, smGet]
  | cons q m ih =>
    obtain ⟨i, w⟩ := q
    unfold smDelRange at *
    rw [List.filter_cons]
    split
    · rename_i hc
      simp only [decide_eq_true_eq] at hc
      simp only [smGet, ih]
      by_cases h1 : i = j
      · subst h1
        have : ¬ (lo ≤ i ∧ i < lo + len) := by omega
        simp [this]
      · simp [h1]
    · rename_i hc
      simp only [decide_eq_true_eq] at hc
      rw [ih]
      by_cases h1 : i = j
      · subst h1
        have : lo ≤ i ∧ i < lo + len := by omega
        simp [this]
      · simp [smGet, h1]

/-- A byte outside a written range reads as before. -/
theorem smGet_wrD_outside {d : Byte} {m : SMap Byte} (a j : Nat) (bs : Bytes) (h : smWf d m = true)
    (hj : j < a ∨ a + bs.length ≤ j) : smGet d (wrD d m a bs) j = smGet d m j := by
  induction bs generalizing m a with
  | nil => rfl
  | cons b bs ih =>
    simp only [List.length_cons] at hj
    simp only [wrD]
    rw [ih (a + 1) (smSet_wf a b h) (by omega), smGet_smSet a j b h]
    have : j ≠ a := by omega
    simp [this]

/-- A byte inside a written range reads as the byte written. -/
theorem smGet_wrD_inside {d : Byte} {m : SMap Byte} (a i : Nat) (bs : Bytes) (h : smWf d m = true)
    (hi : i < bs.length) : smGet d (wrD d m a bs) (a + i) = bs.getD i 0 := by
  induction bs generalizing m a i with
  | nil => simp at hi
  | cons b bs ih =>
    simp only [wrD]
    cases i with
    | zero =>
      rw [smGet_wrD_outside (a + 1) (a + 0) bs (smSet_wf a b h) (.inl (by omega)), smGet_smSet a (a + 0) b h]
      simp
    | succ n =>
      have := ih (m := smSet d m a b) (a + 1) n (smSet_wf a b h) (by simpa using hi)
      rw [show a + (n + 1) = a + 1 + n by omega, this]
      simp

/-- The bytes just written read back. -/
theorem rdD_wrD {d : Byte} {m : SMap Byte} (a : Nat) (bs : Bytes) (h : smWf d m = true) :
    rdD d (wrD d m a bs) a bs.length = bs := by
  apply List.ext_getElem
  · simp [rdD]
  · intro i h1 h2
    simp only [rdD, List.getElem_map, List.getElem_range]
    rw [smGet_wrD_inside a i bs h h2]
    simp [h2]

/-- A range that a write does not meet reads as before. -/
theorem rdD_wrD_disjoint {d : Byte} {m : SMap Byte} (a b n : Nat) (bs : Bytes) (h : smWf d m = true)
    (hd : b + n ≤ a ∨ a + bs.length ≤ b) : rdD d (wrD d m a bs) b n = rdD d m b n := by
  unfold rdD
  apply List.map_congr_left
  intro i hi
  rw [List.mem_range] at hi
  exact smGet_wrD_outside a (b + i) bs h (by omega)

@[simp] theorem rdD_length (d : Byte) (m : SMap Byte) (a n : Nat) : (rdD d m a n).length = n := by simp [rdD]
@[simp] theorem rd_length (m : SMap Byte) (a n : Nat) : (rd m a n).length = n := by simp [rd]

/-! Little-endian fields (R11). -/

@[simp] theorem toLe_length (n v : Nat) : (toLe n v).length = n := by
  induction n generalizing v with
  | zero => rfl
  | succ n ih => simp [toLe, ih]

/-- A field of `n` bytes reads back the value it was written with, taken modulo its size. -/
theorem leNat_toLe (n v : Nat) : leNat (toLe n v) = v % 256 ^ n := by
  induction n generalizing v with
  | zero => simp [toLe, leNat, Nat.mod_one]
  | succ n ih =>
    simp only [toLe, leNat, ih, BitVec.toNat_ofNat]
    have h : (256 : Nat) ^ (n + 1) = 256 * 256 ^ n := by rw [pow_succ, Nat.mul_comm]
    rw [h, Nat.mod_mul]

theorem leNat_lt (bs : Bytes) : leNat bs < 256 ^ bs.length := by
  induction bs with
  | nil => simp [leNat]
  | cons b bs ih =>
    have hb := b.isLt
    simp only [leNat, List.length_cons, pow_succ]
    omega

/-- A byte string is the little-endian form of its value. -/
theorem toLe_leNat (bs : Bytes) : toLe bs.length (leNat bs) = bs := by
  induction bs with
  | nil => rfl
  | cons b bs ih =>
    have hb := b.isLt
    simp only [List.length_cons, toLe, leNat]
    have h1 : (b.toNat + 256 * leNat bs) / 256 = leNat bs := by omega
    have h2 : BitVec.ofNat 8 (b.toNat + 256 * leNat bs) = b := by
      apply BitVec.eq_of_toNat_eq
      simp only [BitVec.toNat_ofNat]
      omega
    rw [h1, h2, ih]

end Sys2Proof.Machine
end

