-- ==== Sys2Proof/Laws/Bytes.lean ====
section
/-! SUPPORT. Lengths of digests and pieces of byte strings. -/
namespace Sys2Proof.Machine
open Sys2Proof

theorem keccakRound_length (a : List W64) (rc : W64) : (keccakRound a rc).length = 25 := by
  simp only [keccakRound]
  split
  · rename_i l0 ls h
    have := congrArg List.length h
    simpa using this.symm
  · rename_i h
    have := congrArg List.length h
    simp at this

theorem keccakF_length (a : List W64) (h : a.length = 25) : (keccakF a).length = 25 := by
  unfold keccakF
  generalize keccakRc = l
  induction l generalizing a with
  | nil => exact h
  | cons x xs ih => exact ih _ (keccakRound_length a x)

theorem keccakAbsorb_length (n : Nat) (a : List W64) (bs : Bytes) (h : a.length = 25) : (keccakAbsorb n a bs).length = 25 := by
  induction n generalizing a bs with
  | zero => exact h
  | succ n ih => exact ih _ _ (keccakF_length _ (by simp [keccakXor]))

theorem keccakSqueeze_length (n : Nat) (a : List W64) (h : a.length = 25) : (keccakSqueeze n a).length = 136 * n := by
  induction n generalizing a with
  | zero => rfl
  | succ n ih =>
    have e : ∀ l : List W64, (l.flatMap fun w => toLe 8 w.toNat).length = 8 * l.length := by
      intro l
      induction l with
      | nil => rfl
      | cons x xs hx => simp [List.flatMap_cons, hx]; omega
    rw [keccakSqueeze, List.length_append, ih _ (keccakF_length _ h), e, List.length_take, h]
    omega

/-- A digest has the length asked for. -/
@[simp] theorem shake256_length (n : Nat) (bs : Bytes) : (shake256 n bs).length = n := by
  simp only [shake256, List.length_take]
  rw [keccakSqueeze_length _ _ (keccakAbsorb_length _ _ _ (by simp))]
  have : n ≤ 136 * ceilDiv n 136 := by unfold ceilDiv; omega
  omega

@[simp] theorem digest16_length (b : Bytes) : (digest16 b).length = 16 := shake256_length 16 b
@[simp] theorem digest32_length (b : Bytes) : (digest32 b).length = 32 := shake256_length 32 b

@[simp] theorem zeroBytes_length (n : Nat) : (zeroBytes n).length = n := List.length_replicate
@[simp] theorem sub_length (b : Bytes) (off n : Nat) : (sub b off n).length = n := by simp [sub]

/-- A piece that lies in the first part of a string. -/
theorem sub_append_left (x y : Bytes) (a n : Nat) (h : a + n ≤ x.length) : sub (x ++ y) a n = sub x a n := by
  refine List.map_congr_left fun i hi => ?_
  rw [List.getD_append x y 0 (a + i) (by have := List.mem_range.1 hi; omega)]

/-- A piece that begins where the second part does. -/
theorem sub_append_right (x y : Bytes) (n : Nat) : sub (x ++ y) x.length n = sub y 0 n := by
  refine List.map_congr_left fun i _ => ?_
  rw [List.getD_append_right x y 0 _ (Nat.le_add_right _ _), Nat.add_sub_cancel_left, Nat.zero_add]

/-- A piece that lies past the first part. -/
theorem sub_append_past (x y : Bytes) (a k n : Nat) (h : a = x.length + k) : sub (x ++ y) a n = sub y k n := by
  refine List.map_congr_left fun i _ => ?_
  rw [h, Nat.add_assoc, List.getD_append_right x y 0 _ (Nat.le_add_right _ _), Nat.add_sub_cancel_left]

theorem sub_self (x : Bytes) : sub x 0 x.length = x := by
  apply List.ext_getElem (by simp)
  intro i h1 h2
  simp only [sub, List.getElem_map, List.getElem_range, Nat.zero_add]
  exact List.getD_eq_getElem x 0 h2

theorem sub_prefix (x y : Bytes) (n : Nat) (h : x.length = n) : sub (x ++ y) 0 n = x := by
  rw [← h, sub_append_left x y 0 _ (by omega), sub_self]

/-- A run of zero bytes reads as zeros. -/
theorem zeros_mid (x y : Bytes) (m a n : Nat) (h1 : x.length ≤ a) (h2 : a + n ≤ x.length + m) :
    zeros (x ++ (zeroBytes m ++ y)) a n = true := by
  simp only [zeros, sub, List.all_map, List.all_eq_true, List.mem_range, Function.comp, beq_iff_eq]
  intro i hi
  rw [List.getD_append_right _ _ _ _ (by omega), List.getD_append _ _ _ _ (by simp [zeroBytes]; omega),
    List.getD_eq_getElem _ _ (by simp [zeroBytes]; omega)]
  simp [zeroBytes]

end Sys2Proof.Machine
end

