-- ==== Sys2Proof/Laws/State.lean ====
section
/-! SUPPORT. What each named update of the state leaves in each field: one lemma per field per update, so that a proof
rewrites and never unfolds a record update. -/
namespace Sys2Proof.Machine
open Sys2Proof

/-! `setCoreAt` changes `cores`. -/
@[simp] theorem setCoreAt_mem (s : State) (k : Nat) (x : Core) : (setCoreAt s k x).mem = s.mem := rfl
@[simp] theorem setCoreAt_hostA (s : State) (k : Nat) (x : Core) : (setCoreAt s k x).hostA = s.hostA := rfl
@[simp] theorem setCoreAt_hostB (s : State) (k : Nat) (x : Core) : (setCoreAt s k x).hostB = s.hostB := rfl
@[simp] theorem setCoreAt_nor0 (s : State) (k : Nat) (x : Core) : (setCoreAt s k x).nor0 = s.nor0 := rfl
@[simp] theorem setCoreAt_nor1 (s : State) (k : Nat) (x : Core) : (setCoreAt s k x).nor1 = s.nor1 := rfl
@[simp] theorem setCoreAt_cores (s : State) (k : Nat) (x : Core) : (setCoreAt s k x).cores = smSet Core.init s.cores k x := rfl
@[simp] theorem setCoreAt_par (s : State) (k : Nat) (x : Core) : (setCoreAt s k x).par = s.par := rfl
@[simp] theorem setCoreAt_arbs (s : State) (k : Nat) (x : Core) : (setCoreAt s k x).arbs = s.arbs := rfl
@[simp] theorem setCoreAt_stp (s : State) (k : Nat) (x : Core) : (setCoreAt s k x).stp = s.stp := rfl
@[simp] theorem setCoreAt_lock (s : State) (k : Nat) (x : Core) : (setCoreAt s k x).lock = s.lock := rfl
@[simp] theorem setCoreAt_streams (s : State) (k : Nat) (x : Core) : (setCoreAt s k x).streams = s.streams := rfl
@[simp] theorem setCoreAt_slips (s : State) (k : Nat) (x : Core) : (setCoreAt s k x).slips = s.slips := rfl
@[simp] theorem setCoreAt_fab (s : State) (k : Nat) (x : Core) : (setCoreAt s k x).fab = s.fab := rfl
@[simp] theorem setCoreAt_hold (s : State) (k : Nat) (x : Core) : (setCoreAt s k x).hold = s.hold := rfl
@[simp] theorem setCoreAt_spr (s : State) (k : Nat) (x : Core) : (setCoreAt s k x).spr = s.spr := rfl
@[simp] theorem setCoreAt_pln (s : State) (k : Nat) (x : Core) : (setCoreAt s k x).pln = s.pln := rfl
@[simp] theorem setCoreAt_sec (s : State) (k : Nat) (x : Core) : (setCoreAt s k x).sec = s.sec := rfl
@[simp] theorem setCoreAt_own (s : State) (k : Nat) (x : Core) : (setCoreAt s k x).own = s.own := rfl
@[simp] theorem setCoreAt_queues (s : State) (k : Nat) (x : Core) : (setCoreAt s k x).queues = s.queues := rfl
@[simp] theorem setCoreAt_ctl (s : State) (k : Nat) (x : Core) : (setCoreAt s k x).ctl = s.ctl := rfl
@[simp] theorem setCoreAt_masters (s : State) (k : Nat) (x : Core) : (setCoreAt s k x).masters = s.masters := rfl
@[simp] theorem setCoreAt_staged (s : State) (k : Nat) (x : Core) : (setCoreAt s k x).staged = s.staged := rfl
@[simp] theorem setCoreAt_fns (s : State) (k : Nat) (x : Core) : (setCoreAt s k x).fns = s.fns := rfl
@[simp] theorem setCoreAt_ports (s : State) (k : Nat) (x : Core) : (setCoreAt s k x).ports = s.ports := rfl
@[simp] theorem setCoreAt_bus (s : State) (k : Nat) (x : Core) : (setCoreAt s k x).bus = s.bus := rfl
@[simp] theorem setCoreAt_clk (s : State) (k : Nat) (x : Core) : (setCoreAt s k x).clk = s.clk := rfl
@[simp] theorem setCoreAt_pwr (s : State) (k : Nat) (x : Core) : (setCoreAt s k x).pwr = s.pwr := rfl
@[simp] theorem setCoreAt_fresh (s : State) (k : Nat) (x : Core) : (setCoreAt s k x).fresh = s.fresh := rfl
@[simp] theorem setCoreAt_pending (s : State) (k : Nat) (x : Core) : (setCoreAt s k x).pending = s.pending := rfl

/-! `setCore` changes `cores`. -/
@[simp] theorem setCore_mem (s : State) (c : CoreId) (x : Core) : (setCore s c x).mem = s.mem := rfl
@[simp] theorem setCore_hostA (s : State) (c : CoreId) (x : Core) : (setCore s c x).hostA = s.hostA := rfl
@[simp] theorem setCore_hostB (s : State) (c : CoreId) (x : Core) : (setCore s c x).hostB = s.hostB := rfl
@[simp] theorem setCore_nor0 (s : State) (c : CoreId) (x : Core) : (setCore s c x).nor0 = s.nor0 := rfl
@[simp] theorem setCore_nor1 (s : State) (c : CoreId) (x : Core) : (setCore s c x).nor1 = s.nor1 := rfl
@[simp] theorem setCore_cores (s : State) (c : CoreId) (x : Core) : (setCore s c x).cores = smSet Core.init s.cores (coreIdx c) x := rfl
@[simp] theorem setCore_par (s : State) (c : CoreId) (x : Core) : (setCore s c x).par = s.par := rfl
@[simp] theorem setCore_arbs (s : State) (c : CoreId) (x : Core) : (setCore s c x).arbs = s.arbs := rfl
@[simp] theorem setCore_stp (s : State) (c : CoreId) (x : Core) : (setCore s c x).stp = s.stp := rfl
@[simp] theorem setCore_lock (s : State) (c : CoreId) (x : Core) : (setCore s c x).lock = s.lock := rfl
@[simp] theorem setCore_streams (s : State) (c : CoreId) (x : Core) : (setCore s c x).streams = s.streams := rfl
@[simp] theorem setCore_slips (s : State) (c : CoreId) (x : Core) : (setCore s c x).slips = s.slips := rfl
@[simp] theorem setCore_fab (s : State) (c : CoreId) (x : Core) : (setCore s c x).fab = s.fab := rfl
@[simp] theorem setCore_hold (s : State) (c : CoreId) (x : Core) : (setCore s c x).hold = s.hold := rfl
@[simp] theorem setCore_spr (s : State) (c : CoreId) (x : Core) : (setCore s c x).spr = s.spr := rfl
@[simp] theorem setCore_pln (s : State) (c : CoreId) (x : Core) : (setCore s c x).pln = s.pln := rfl
@[simp] theorem setCore_sec (s : State) (c : CoreId) (x : Core) : (setCore s c x).sec = s.sec := rfl
@[simp] theorem setCore_own (s : State) (c : CoreId) (x : Core) : (setCore s c x).own = s.own := rfl
@[simp] theorem setCore_queues (s : State) (c : CoreId) (x : Core) : (setCore s c x).queues = s.queues := rfl
@[simp] theorem setCore_ctl (s : State) (c : CoreId) (x : Core) : (setCore s c x).ctl = s.ctl := rfl
@[simp] theorem setCore_masters (s : State) (c : CoreId) (x : Core) : (setCore s c x).masters = s.masters := rfl
@[simp] theorem setCore_staged (s : State) (c : CoreId) (x : Core) : (setCore s c x).staged = s.staged := rfl
@[simp] theorem setCore_fns (s : State) (c : CoreId) (x : Core) : (setCore s c x).fns = s.fns := rfl
@[simp] theorem setCore_ports (s : State) (c : CoreId) (x : Core) : (setCore s c x).ports = s.ports := rfl
@[simp] theorem setCore_bus (s : State) (c : CoreId) (x : Core) : (setCore s c x).bus = s.bus := rfl
@[simp] theorem setCore_clk (s : State) (c : CoreId) (x : Core) : (setCore s c x).clk = s.clk := rfl
@[simp] theorem setCore_pwr (s : State) (c : CoreId) (x : Core) : (setCore s c x).pwr = s.pwr := rfl
@[simp] theorem setCore_fresh (s : State) (c : CoreId) (x : Core) : (setCore s c x).fresh = s.fresh := rfl
@[simp] theorem setCore_pending (s : State) (c : CoreId) (x : Core) : (setCore s c x).pending = s.pending := rfl

/-! `wrMem` changes `mem`. -/
@[simp] theorem wrMem_mem (s : State) (a : Nat) (b : Bytes) : (wrMem s a b).mem = wr s.mem a b := rfl
@[simp] theorem wrMem_hostA (s : State) (a : Nat) (b : Bytes) : (wrMem s a b).hostA = s.hostA := rfl
@[simp] theorem wrMem_hostB (s : State) (a : Nat) (b : Bytes) : (wrMem s a b).hostB = s.hostB := rfl
@[simp] theorem wrMem_nor0 (s : State) (a : Nat) (b : Bytes) : (wrMem s a b).nor0 = s.nor0 := rfl
@[simp] theorem wrMem_nor1 (s : State) (a : Nat) (b : Bytes) : (wrMem s a b).nor1 = s.nor1 := rfl
@[simp] theorem wrMem_cores (s : State) (a : Nat) (b : Bytes) : (wrMem s a b).cores = s.cores := rfl
@[simp] theorem wrMem_par (s : State) (a : Nat) (b : Bytes) : (wrMem s a b).par = s.par := rfl
@[simp] theorem wrMem_arbs (s : State) (a : Nat) (b : Bytes) : (wrMem s a b).arbs = s.arbs := rfl
@[simp] theorem wrMem_stp (s : State) (a : Nat) (b : Bytes) : (wrMem s a b).stp = s.stp := rfl
@[simp] theorem wrMem_lock (s : State) (a : Nat) (b : Bytes) : (wrMem s a b).lock = s.lock := rfl
@[simp] theorem wrMem_streams (s : State) (a : Nat) (b : Bytes) : (wrMem s a b).streams = s.streams := rfl
@[simp] theorem wrMem_slips (s : State) (a : Nat) (b : Bytes) : (wrMem s a b).slips = s.slips := rfl
@[simp] theorem wrMem_fab (s : State) (a : Nat) (b : Bytes) : (wrMem s a b).fab = s.fab := rfl
@[simp] theorem wrMem_hold (s : State) (a : Nat) (b : Bytes) : (wrMem s a b).hold = s.hold := rfl
@[simp] theorem wrMem_spr (s : State) (a : Nat) (b : Bytes) : (wrMem s a b).spr = s.spr := rfl
@[simp] theorem wrMem_pln (s : State) (a : Nat) (b : Bytes) : (wrMem s a b).pln = s.pln := rfl
@[simp] theorem wrMem_sec (s : State) (a : Nat) (b : Bytes) : (wrMem s a b).sec = s.sec := rfl
@[simp] theorem wrMem_own (s : State) (a : Nat) (b : Bytes) : (wrMem s a b).own = s.own := rfl
@[simp] theorem wrMem_queues (s : State) (a : Nat) (b : Bytes) : (wrMem s a b).queues = s.queues := rfl
@[simp] theorem wrMem_ctl (s : State) (a : Nat) (b : Bytes) : (wrMem s a b).ctl = s.ctl := rfl
@[simp] theorem wrMem_masters (s : State) (a : Nat) (b : Bytes) : (wrMem s a b).masters = s.masters := rfl
@[simp] theorem wrMem_staged (s : State) (a : Nat) (b : Bytes) : (wrMem s a b).staged = s.staged := rfl
@[simp] theorem wrMem_fns (s : State) (a : Nat) (b : Bytes) : (wrMem s a b).fns = s.fns := rfl
@[simp] theorem wrMem_ports (s : State) (a : Nat) (b : Bytes) : (wrMem s a b).ports = s.ports := rfl
@[simp] theorem wrMem_bus (s : State) (a : Nat) (b : Bytes) : (wrMem s a b).bus = s.bus := rfl
@[simp] theorem wrMem_clk (s : State) (a : Nat) (b : Bytes) : (wrMem s a b).clk = s.clk := rfl
@[simp] theorem wrMem_pwr (s : State) (a : Nat) (b : Bytes) : (wrMem s a b).pwr = s.pwr := rfl
@[simp] theorem wrMem_fresh (s : State) (a : Nat) (b : Bytes) : (wrMem s a b).fresh = s.fresh := rfl
@[simp] theorem wrMem_pending (s : State) (a : Nat) (b : Bytes) : (wrMem s a b).pending = s.pending := rfl

/-! `zeroMem` changes `mem`. -/
@[simp] theorem zeroMem_mem (s : State) (a n : Nat) : (zeroMem s a n).mem = smDelRange s.mem a n := rfl
@[simp] theorem zeroMem_hostA (s : State) (a n : Nat) : (zeroMem s a n).hostA = s.hostA := rfl
@[simp] theorem zeroMem_hostB (s : State) (a n : Nat) : (zeroMem s a n).hostB = s.hostB := rfl
@[simp] theorem zeroMem_nor0 (s : State) (a n : Nat) : (zeroMem s a n).nor0 = s.nor0 := rfl
@[simp] theorem zeroMem_nor1 (s : State) (a n : Nat) : (zeroMem s a n).nor1 = s.nor1 := rfl
@[simp] theorem zeroMem_cores (s : State) (a n : Nat) : (zeroMem s a n).cores = s.cores := rfl
@[simp] theorem zeroMem_par (s : State) (a n : Nat) : (zeroMem s a n).par = s.par := rfl
@[simp] theorem zeroMem_arbs (s : State) (a n : Nat) : (zeroMem s a n).arbs = s.arbs := rfl
@[simp] theorem zeroMem_stp (s : State) (a n : Nat) : (zeroMem s a n).stp = s.stp := rfl
@[simp] theorem zeroMem_lock (s : State) (a n : Nat) : (zeroMem s a n).lock = s.lock := rfl
@[simp] theorem zeroMem_streams (s : State) (a n : Nat) : (zeroMem s a n).streams = s.streams := rfl
@[simp] theorem zeroMem_slips (s : State) (a n : Nat) : (zeroMem s a n).slips = s.slips := rfl
@[simp] theorem zeroMem_fab (s : State) (a n : Nat) : (zeroMem s a n).fab = s.fab := rfl
@[simp] theorem zeroMem_hold (s : State) (a n : Nat) : (zeroMem s a n).hold = s.hold := rfl
@[simp] theorem zeroMem_spr (s : State) (a n : Nat) : (zeroMem s a n).spr = s.spr := rfl
@[simp] theorem zeroMem_pln (s : State) (a n : Nat) : (zeroMem s a n).pln = s.pln := rfl
@[simp] theorem zeroMem_sec (s : State) (a n : Nat) : (zeroMem s a n).sec = s.sec := rfl
@[simp] theorem zeroMem_own (s : State) (a n : Nat) : (zeroMem s a n).own = s.own := rfl
@[simp] theorem zeroMem_queues (s : State) (a n : Nat) : (zeroMem s a n).queues = s.queues := rfl
@[simp] theorem zeroMem_ctl (s : State) (a n : Nat) : (zeroMem s a n).ctl = s.ctl := rfl
@[simp] theorem zeroMem_masters (s : State) (a n : Nat) : (zeroMem s a n).masters = s.masters := rfl
@[simp] theorem zeroMem_staged (s : State) (a n : Nat) : (zeroMem s a n).staged = s.staged := rfl
@[simp] theorem zeroMem_fns (s : State) (a n : Nat) : (zeroMem s a n).fns = s.fns := rfl
@[simp] theorem zeroMem_ports (s : State) (a n : Nat) : (zeroMem s a n).ports = s.ports := rfl
@[simp] theorem zeroMem_bus (s : State) (a n : Nat) : (zeroMem s a n).bus = s.bus := rfl
@[simp] theorem zeroMem_clk (s : State) (a n : Nat) : (zeroMem s a n).clk = s.clk := rfl
@[simp] theorem zeroMem_pwr (s : State) (a n : Nat) : (zeroMem s a n).pwr = s.pwr := rfl
@[simp] theorem zeroMem_fresh (s : State) (a n : Nat) : (zeroMem s a n).fresh = s.fresh := rfl
@[simp] theorem zeroMem_pending (s : State) (a n : Nat) : (zeroMem s a n).pending = s.pending := rfl

/-! `setQueue` changes `queues`. -/
@[simp] theorem setQueue_mem (s : State) (q : Nat) (x : Queue) : (setQueue s q x).mem = s.mem := rfl
@[simp] theorem setQueue_hostA (s : State) (q : Nat) (x : Queue) : (setQueue s q x).hostA = s.hostA := rfl
@[simp] theorem setQueue_hostB (s : State) (q : Nat) (x : Queue) : (setQueue s q x).hostB = s.hostB := rfl
@[simp] theorem setQueue_nor0 (s : State) (q : Nat) (x : Queue) : (setQueue s q x).nor0 = s.nor0 := rfl
@[simp] theorem setQueue_nor1 (s : State) (q : Nat) (x : Queue) : (setQueue s q x).nor1 = s.nor1 := rfl
@[simp] theorem setQueue_cores (s : State) (q : Nat) (x : Queue) : (setQueue s q x).cores = s.cores := rfl
@[simp] theorem setQueue_par (s : State) (q : Nat) (x : Queue) : (setQueue s q x).par = s.par := rfl
@[simp] theorem setQueue_arbs (s : State) (q : Nat) (x : Queue) : (setQueue s q x).arbs = s.arbs := rfl
@[simp] theorem setQueue_stp (s : State) (q : Nat) (x : Queue) : (setQueue s q x).stp = s.stp := rfl
@[simp] theorem setQueue_lock (s : State) (q : Nat) (x : Queue) : (setQueue s q x).lock = s.lock := rfl
@[simp] theorem setQueue_streams (s : State) (q : Nat) (x : Queue) : (setQueue s q x).streams = s.streams := rfl
@[simp] theorem setQueue_slips (s : State) (q : Nat) (x : Queue) : (setQueue s q x).slips = s.slips := rfl
@[simp] theorem setQueue_fab (s : State) (q : Nat) (x : Queue) : (setQueue s q x).fab = s.fab := rfl
@[simp] theorem setQueue_hold (s : State) (q : Nat) (x : Queue) : (setQueue s q x).hold = s.hold := rfl
@[simp] theorem setQueue_spr (s : State) (q : Nat) (x : Queue) : (setQueue s q x).spr = s.spr := rfl
@[simp] theorem setQueue_pln (s : State) (q : Nat) (x : Queue) : (setQueue s q x).pln = s.pln := rfl
@[simp] theorem setQueue_sec (s : State) (q : Nat) (x : Queue) : (setQueue s q x).sec = s.sec := rfl
@[simp] theorem setQueue_own (s : State) (q : Nat) (x : Queue) : (setQueue s q x).own = s.own := rfl
@[simp] theorem setQueue_queues (s : State) (q : Nat) (x : Queue) : (setQueue s q x).queues = smSet Queue.init s.queues q x := rfl
@[simp] theorem setQueue_ctl (s : State) (q : Nat) (x : Queue) : (setQueue s q x).ctl = s.ctl := rfl
@[simp] theorem setQueue_masters (s : State) (q : Nat) (x : Queue) : (setQueue s q x).masters = s.masters := rfl
@[simp] theorem setQueue_staged (s : State) (q : Nat) (x : Queue) : (setQueue s q x).staged = s.staged := rfl
@[simp] theorem setQueue_fns (s : State) (q : Nat) (x : Queue) : (setQueue s q x).fns = s.fns := rfl
@[simp] theorem setQueue_ports (s : State) (q : Nat) (x : Queue) : (setQueue s q x).ports = s.ports := rfl
@[simp] theorem setQueue_bus (s : State) (q : Nat) (x : Queue) : (setQueue s q x).bus = s.bus := rfl
@[simp] theorem setQueue_clk (s : State) (q : Nat) (x : Queue) : (setQueue s q x).clk = s.clk := rfl
@[simp] theorem setQueue_pwr (s : State) (q : Nat) (x : Queue) : (setQueue s q x).pwr = s.pwr := rfl
@[simp] theorem setQueue_fresh (s : State) (q : Nat) (x : Queue) : (setQueue s q x).fresh = s.fresh := rfl
@[simp] theorem setQueue_pending (s : State) (q : Nat) (x : Queue) : (setQueue s q x).pending = s.pending := rfl

/-! `setFn` changes `fns`. -/
@[simp] theorem setFn_mem (s : State) (l : Nat) (x : Fn) : (setFn s l x).mem = s.mem := rfl
@[simp] theorem setFn_hostA (s : State) (l : Nat) (x : Fn) : (setFn s l x).hostA = s.hostA := rfl
@[simp] theorem setFn_hostB (s : State) (l : Nat) (x : Fn) : (setFn s l x).hostB = s.hostB := rfl
@[simp] theorem setFn_nor0 (s : State) (l : Nat) (x : Fn) : (setFn s l x).nor0 = s.nor0 := rfl
@[simp] theorem setFn_nor1 (s : State) (l : Nat) (x : Fn) : (setFn s l x).nor1 = s.nor1 := rfl
@[simp] theorem setFn_cores (s : State) (l : Nat) (x : Fn) : (setFn s l x).cores = s.cores := rfl
@[simp] theorem setFn_par (s : State) (l : Nat) (x : Fn) : (setFn s l x).par = s.par := rfl
@[simp] theorem setFn_arbs (s : State) (l : Nat) (x : Fn) : (setFn s l x).arbs = s.arbs := rfl
@[simp] theorem setFn_stp (s : State) (l : Nat) (x : Fn) : (setFn s l x).stp = s.stp := rfl
@[simp] theorem setFn_lock (s : State) (l : Nat) (x : Fn) : (setFn s l x).lock = s.lock := rfl
@[simp] theorem setFn_streams (s : State) (l : Nat) (x : Fn) : (setFn s l x).streams = s.streams := rfl
@[simp] theorem setFn_slips (s : State) (l : Nat) (x : Fn) : (setFn s l x).slips = s.slips := rfl
@[simp] theorem setFn_fab (s : State) (l : Nat) (x : Fn) : (setFn s l x).fab = s.fab := rfl
@[simp] theorem setFn_hold (s : State) (l : Nat) (x : Fn) : (setFn s l x).hold = s.hold := rfl
@[simp] theorem setFn_spr (s : State) (l : Nat) (x : Fn) : (setFn s l x).spr = s.spr := rfl
@[simp] theorem setFn_pln (s : State) (l : Nat) (x : Fn) : (setFn s l x).pln = s.pln := rfl
@[simp] theorem setFn_sec (s : State) (l : Nat) (x : Fn) : (setFn s l x).sec = s.sec := rfl
@[simp] theorem setFn_own (s : State) (l : Nat) (x : Fn) : (setFn s l x).own = s.own := rfl
@[simp] theorem setFn_queues (s : State) (l : Nat) (x : Fn) : (setFn s l x).queues = s.queues := rfl
@[simp] theorem setFn_ctl (s : State) (l : Nat) (x : Fn) : (setFn s l x).ctl = s.ctl := rfl
@[simp] theorem setFn_masters (s : State) (l : Nat) (x : Fn) : (setFn s l x).masters = s.masters := rfl
@[simp] theorem setFn_staged (s : State) (l : Nat) (x : Fn) : (setFn s l x).staged = s.staged := rfl
@[simp] theorem setFn_fns (s : State) (l : Nat) (x : Fn) : (setFn s l x).fns = smSet Fn.init s.fns l x := rfl
@[simp] theorem setFn_ports (s : State) (l : Nat) (x : Fn) : (setFn s l x).ports = s.ports := rfl
@[simp] theorem setFn_bus (s : State) (l : Nat) (x : Fn) : (setFn s l x).bus = s.bus := rfl
@[simp] theorem setFn_clk (s : State) (l : Nat) (x : Fn) : (setFn s l x).clk = s.clk := rfl
@[simp] theorem setFn_pwr (s : State) (l : Nat) (x : Fn) : (setFn s l x).pwr = s.pwr := rfl
@[simp] theorem setFn_fresh (s : State) (l : Nat) (x : Fn) : (setFn s l x).fresh = s.fresh := rfl
@[simp] theorem setFn_pending (s : State) (l : Nat) (x : Fn) : (setFn s l x).pending = s.pending := rfl

/-! `setMgmt` changes `ports`. -/
@[simp] theorem setMgmt_mem (s : State) (p : Nat) (x : Mgmt) : (setMgmt s p x).mem = s.mem := rfl
@[simp] theorem setMgmt_hostA (s : State) (p : Nat) (x : Mgmt) : (setMgmt s p x).hostA = s.hostA := rfl
@[simp] theorem setMgmt_hostB (s : State) (p : Nat) (x : Mgmt) : (setMgmt s p x).hostB = s.hostB := rfl
@[simp] theorem setMgmt_nor0 (s : State) (p : Nat) (x : Mgmt) : (setMgmt s p x).nor0 = s.nor0 := rfl
@[simp] theorem setMgmt_nor1 (s : State) (p : Nat) (x : Mgmt) : (setMgmt s p x).nor1 = s.nor1 := rfl
@[simp] theorem setMgmt_cores (s : State) (p : Nat) (x : Mgmt) : (setMgmt s p x).cores = s.cores := rfl
@[simp] theorem setMgmt_par (s : State) (p : Nat) (x : Mgmt) : (setMgmt s p x).par = s.par := rfl
@[simp] theorem setMgmt_arbs (s : State) (p : Nat) (x : Mgmt) : (setMgmt s p x).arbs = s.arbs := rfl
@[simp] theorem setMgmt_stp (s : State) (p : Nat) (x : Mgmt) : (setMgmt s p x).stp = s.stp := rfl
@[simp] theorem setMgmt_lock (s : State) (p : Nat) (x : Mgmt) : (setMgmt s p x).lock = s.lock := rfl
@[simp] theorem setMgmt_streams (s : State) (p : Nat) (x : Mgmt) : (setMgmt s p x).streams = s.streams := rfl
@[simp] theorem setMgmt_slips (s : State) (p : Nat) (x : Mgmt) : (setMgmt s p x).slips = s.slips := rfl
@[simp] theorem setMgmt_fab (s : State) (p : Nat) (x : Mgmt) : (setMgmt s p x).fab = s.fab := rfl
@[simp] theorem setMgmt_hold (s : State) (p : Nat) (x : Mgmt) : (setMgmt s p x).hold = s.hold := rfl
@[simp] theorem setMgmt_spr (s : State) (p : Nat) (x : Mgmt) : (setMgmt s p x).spr = s.spr := rfl
@[simp] theorem setMgmt_pln (s : State) (p : Nat) (x : Mgmt) : (setMgmt s p x).pln = s.pln := rfl
@[simp] theorem setMgmt_sec (s : State) (p : Nat) (x : Mgmt) : (setMgmt s p x).sec = s.sec := rfl
@[simp] theorem setMgmt_own (s : State) (p : Nat) (x : Mgmt) : (setMgmt s p x).own = s.own := rfl
@[simp] theorem setMgmt_queues (s : State) (p : Nat) (x : Mgmt) : (setMgmt s p x).queues = s.queues := rfl
@[simp] theorem setMgmt_ctl (s : State) (p : Nat) (x : Mgmt) : (setMgmt s p x).ctl = s.ctl := rfl
@[simp] theorem setMgmt_masters (s : State) (p : Nat) (x : Mgmt) : (setMgmt s p x).masters = s.masters := rfl
@[simp] theorem setMgmt_staged (s : State) (p : Nat) (x : Mgmt) : (setMgmt s p x).staged = s.staged := rfl
@[simp] theorem setMgmt_fns (s : State) (p : Nat) (x : Mgmt) : (setMgmt s p x).fns = s.fns := rfl
@[simp] theorem setMgmt_ports (s : State) (p : Nat) (x : Mgmt) : (setMgmt s p x).ports = smSet Mgmt.init s.ports p x := rfl
@[simp] theorem setMgmt_bus (s : State) (p : Nat) (x : Mgmt) : (setMgmt s p x).bus = s.bus := rfl
@[simp] theorem setMgmt_clk (s : State) (p : Nat) (x : Mgmt) : (setMgmt s p x).clk = s.clk := rfl
@[simp] theorem setMgmt_pwr (s : State) (p : Nat) (x : Mgmt) : (setMgmt s p x).pwr = s.pwr := rfl
@[simp] theorem setMgmt_fresh (s : State) (p : Nat) (x : Mgmt) : (setMgmt s p x).fresh = s.fresh := rfl
@[simp] theorem setMgmt_pending (s : State) (p : Nat) (x : Mgmt) : (setMgmt s p x).pending = s.pending := rfl

/-! `bumpFresh` changes `fresh`. -/
@[simp] theorem bumpFresh_mem (s : State) : (bumpFresh s).mem = s.mem := rfl
@[simp] theorem bumpFresh_hostA (s : State) : (bumpFresh s).hostA = s.hostA := rfl
@[simp] theorem bumpFresh_hostB (s : State) : (bumpFresh s).hostB = s.hostB := rfl
@[simp] theorem bumpFresh_nor0 (s : State) : (bumpFresh s).nor0 = s.nor0 := rfl
@[simp] theorem bumpFresh_nor1 (s : State) : (bumpFresh s).nor1 = s.nor1 := rfl
@[simp] theorem bumpFresh_cores (s : State) : (bumpFresh s).cores = s.cores := rfl
@[simp] theorem bumpFresh_par (s : State) : (bumpFresh s).par = s.par := rfl
@[simp] theorem bumpFresh_arbs (s : State) : (bumpFresh s).arbs = s.arbs := rfl
@[simp] theorem bumpFresh_stp (s : State) : (bumpFresh s).stp = s.stp := rfl
@[simp] theorem bumpFresh_lock (s : State) : (bumpFresh s).lock = s.lock := rfl
@[simp] theorem bumpFresh_streams (s : State) : (bumpFresh s).streams = s.streams := rfl
@[simp] theorem bumpFresh_slips (s : State) : (bumpFresh s).slips = s.slips := rfl
@[simp] theorem bumpFresh_fab (s : State) : (bumpFresh s).fab = s.fab := rfl
@[simp] theorem bumpFresh_hold (s : State) : (bumpFresh s).hold = s.hold := rfl
@[simp] theorem bumpFresh_spr (s : State) : (bumpFresh s).spr = s.spr := rfl
@[simp] theorem bumpFresh_pln (s : State) : (bumpFresh s).pln = s.pln := rfl
@[simp] theorem bumpFresh_sec (s : State) : (bumpFresh s).sec = s.sec := rfl
@[simp] theorem bumpFresh_own (s : State) : (bumpFresh s).own = s.own := rfl
@[simp] theorem bumpFresh_queues (s : State) : (bumpFresh s).queues = s.queues := rfl
@[simp] theorem bumpFresh_ctl (s : State) : (bumpFresh s).ctl = s.ctl := rfl
@[simp] theorem bumpFresh_masters (s : State) : (bumpFresh s).masters = s.masters := rfl
@[simp] theorem bumpFresh_staged (s : State) : (bumpFresh s).staged = s.staged := rfl
@[simp] theorem bumpFresh_fns (s : State) : (bumpFresh s).fns = s.fns := rfl
@[simp] theorem bumpFresh_ports (s : State) : (bumpFresh s).ports = s.ports := rfl
@[simp] theorem bumpFresh_bus (s : State) : (bumpFresh s).bus = s.bus := rfl
@[simp] theorem bumpFresh_clk (s : State) : (bumpFresh s).clk = s.clk := rfl
@[simp] theorem bumpFresh_pwr (s : State) : (bumpFresh s).pwr = s.pwr := rfl
@[simp] theorem bumpFresh_fresh (s : State) : (bumpFresh s).fresh = s.fresh + 1 := rfl
@[simp] theorem bumpFresh_pending (s : State) : (bumpFresh s).pending = s.pending := rfl

/-! `setArb` changes `arbs`. -/
@[simp] theorem setArb_mem (s : State) (a : ArbId) (x : Arb) : (setArb s a x).mem = s.mem := rfl
@[simp] theorem setArb_hostA (s : State) (a : ArbId) (x : Arb) : (setArb s a x).hostA = s.hostA := rfl
@[simp] theorem setArb_hostB (s : State) (a : ArbId) (x : Arb) : (setArb s a x).hostB = s.hostB := rfl
@[simp] theorem setArb_nor0 (s : State) (a : ArbId) (x : Arb) : (setArb s a x).nor0 = s.nor0 := rfl
@[simp] theorem setArb_nor1 (s : State) (a : ArbId) (x : Arb) : (setArb s a x).nor1 = s.nor1 := rfl
@[simp] theorem setArb_cores (s : State) (a : ArbId) (x : Arb) : (setArb s a x).cores = s.cores := rfl
@[simp] theorem setArb_par (s : State) (a : ArbId) (x : Arb) : (setArb s a x).par = s.par := rfl
@[simp] theorem setArb_arbs (s : State) (a : ArbId) (x : Arb) : (setArb s a x).arbs = smSet Arb.init s.arbs (arbKey a) x := rfl
@[simp] theorem setArb_stp (s : State) (a : ArbId) (x : Arb) : (setArb s a x).stp = s.stp := rfl
@[simp] theorem setArb_lock (s : State) (a : ArbId) (x : Arb) : (setArb s a x).lock = s.lock := rfl
@[simp] theorem setArb_streams (s : State) (a : ArbId) (x : Arb) : (setArb s a x).streams = s.streams := rfl
@[simp] theorem setArb_slips (s : State) (a : ArbId) (x : Arb) : (setArb s a x).slips = s.slips := rfl
@[simp] theorem setArb_fab (s : State) (a : ArbId) (x : Arb) : (setArb s a x).fab = s.fab := rfl
@[simp] theorem setArb_hold (s : State) (a : ArbId) (x : Arb) : (setArb s a x).hold = s.hold := rfl
@[simp] theorem setArb_spr (s : State) (a : ArbId) (x : Arb) : (setArb s a x).spr = s.spr := rfl
@[simp] theorem setArb_pln (s : State) (a : ArbId) (x : Arb) : (setArb s a x).pln = s.pln := rfl
@[simp] theorem setArb_sec (s : State) (a : ArbId) (x : Arb) : (setArb s a x).sec = s.sec := rfl
@[simp] theorem setArb_own (s : State) (a : ArbId) (x : Arb) : (setArb s a x).own = s.own := rfl
@[simp] theorem setArb_queues (s : State) (a : ArbId) (x : Arb) : (setArb s a x).queues = s.queues := rfl
@[simp] theorem setArb_ctl (s : State) (a : ArbId) (x : Arb) : (setArb s a x).ctl = s.ctl := rfl
@[simp] theorem setArb_masters (s : State) (a : ArbId) (x : Arb) : (setArb s a x).masters = s.masters := rfl
@[simp] theorem setArb_staged (s : State) (a : ArbId) (x : Arb) : (setArb s a x).staged = s.staged := rfl
@[simp] theorem setArb_fns (s : State) (a : ArbId) (x : Arb) : (setArb s a x).fns = s.fns := rfl
@[simp] theorem setArb_ports (s : State) (a : ArbId) (x : Arb) : (setArb s a x).ports = s.ports := rfl
@[simp] theorem setArb_bus (s : State) (a : ArbId) (x : Arb) : (setArb s a x).bus = s.bus := rfl
@[simp] theorem setArb_clk (s : State) (a : ArbId) (x : Arb) : (setArb s a x).clk = s.clk := rfl
@[simp] theorem setArb_pwr (s : State) (a : ArbId) (x : Arb) : (setArb s a x).pwr = s.pwr := rfl
@[simp] theorem setArb_fresh (s : State) (a : ArbId) (x : Arb) : (setArb s a x).fresh = s.fresh := rfl
@[simp] theorem setArb_pending (s : State) (a : ArbId) (x : Arb) : (setArb s a x).pending = s.pending := rfl

/-! `setAtt` changes `stp`. -/
@[simp] theorem setAtt_mem (s : State) (a : Attempt) : (setAtt s a).mem = s.mem := rfl
@[simp] theorem setAtt_hostA (s : State) (a : Attempt) : (setAtt s a).hostA = s.hostA := rfl
@[simp] theorem setAtt_hostB (s : State) (a : Attempt) : (setAtt s a).hostB = s.hostB := rfl
@[simp] theorem setAtt_nor0 (s : State) (a : Attempt) : (setAtt s a).nor0 = s.nor0 := rfl
@[simp] theorem setAtt_nor1 (s : State) (a : Attempt) : (setAtt s a).nor1 = s.nor1 := rfl
@[simp] theorem setAtt_cores (s : State) (a : Attempt) : (setAtt s a).cores = s.cores := rfl
@[simp] theorem setAtt_par (s : State) (a : Attempt) : (setAtt s a).par = s.par := rfl
@[simp] theorem setAtt_arbs (s : State) (a : Attempt) : (setAtt s a).arbs = s.arbs := rfl
@[simp] theorem setAtt_stp (s : State) (a : Attempt) : (setAtt s a).stp = { s.stp with att := some a } := rfl
@[simp] theorem setAtt_lock (s : State) (a : Attempt) : (setAtt s a).lock = s.lock := rfl
@[simp] theorem setAtt_streams (s : State) (a : Attempt) : (setAtt s a).streams = s.streams := rfl
@[simp] theorem setAtt_slips (s : State) (a : Attempt) : (setAtt s a).slips = s.slips := rfl
@[simp] theorem setAtt_fab (s : State) (a : Attempt) : (setAtt s a).fab = s.fab := rfl
@[simp] theorem setAtt_hold (s : State) (a : Attempt) : (setAtt s a).hold = s.hold := rfl
@[simp] theorem setAtt_spr (s : State) (a : Attempt) : (setAtt s a).spr = s.spr := rfl
@[simp] theorem setAtt_pln (s : State) (a : Attempt) : (setAtt s a).pln = s.pln := rfl
@[simp] theorem setAtt_sec (s : State) (a : Attempt) : (setAtt s a).sec = s.sec := rfl
@[simp] theorem setAtt_own (s : State) (a : Attempt) : (setAtt s a).own = s.own := rfl
@[simp] theorem setAtt_queues (s : State) (a : Attempt) : (setAtt s a).queues = s.queues := rfl
@[simp] theorem setAtt_ctl (s : State) (a : Attempt) : (setAtt s a).ctl = s.ctl := rfl
@[simp] theorem setAtt_masters (s : State) (a : Attempt) : (setAtt s a).masters = s.masters := rfl
@[simp] theorem setAtt_staged (s : State) (a : Attempt) : (setAtt s a).staged = s.staged := rfl
@[simp] theorem setAtt_fns (s : State) (a : Attempt) : (setAtt s a).fns = s.fns := rfl
@[simp] theorem setAtt_ports (s : State) (a : Attempt) : (setAtt s a).ports = s.ports := rfl
@[simp] theorem setAtt_bus (s : State) (a : Attempt) : (setAtt s a).bus = s.bus := rfl
@[simp] theorem setAtt_clk (s : State) (a : Attempt) : (setAtt s a).clk = s.clk := rfl
@[simp] theorem setAtt_pwr (s : State) (a : Attempt) : (setAtt s a).pwr = s.pwr := rfl
@[simp] theorem setAtt_fresh (s : State) (a : Attempt) : (setAtt s a).fresh = s.fresh := rfl
@[simp] theorem setAtt_pending (s : State) (a : Attempt) : (setAtt s a).pending = s.pending := rfl

/-! `keepTxn` changes `stp`. -/
@[simp] theorem keepTxn_mem (s : State) (t : Txn) : (keepTxn s t).mem = s.mem := rfl
@[simp] theorem keepTxn_hostA (s : State) (t : Txn) : (keepTxn s t).hostA = s.hostA := rfl
@[simp] theorem keepTxn_hostB (s : State) (t : Txn) : (keepTxn s t).hostB = s.hostB := rfl
@[simp] theorem keepTxn_nor0 (s : State) (t : Txn) : (keepTxn s t).nor0 = s.nor0 := rfl
@[simp] theorem keepTxn_nor1 (s : State) (t : Txn) : (keepTxn s t).nor1 = s.nor1 := rfl
@[simp] theorem keepTxn_cores (s : State) (t : Txn) : (keepTxn s t).cores = s.cores := rfl
@[simp] theorem keepTxn_par (s : State) (t : Txn) : (keepTxn s t).par = s.par := rfl
@[simp] theorem keepTxn_arbs (s : State) (t : Txn) : (keepTxn s t).arbs = s.arbs := rfl
@[simp] theorem keepTxn_stp (s : State) (t : Txn) : (keepTxn s t).stp = { s.stp with kept := s.stp.kept ++ [t] } := rfl
@[simp] theorem keepTxn_lock (s : State) (t : Txn) : (keepTxn s t).lock = s.lock := rfl
@[simp] theorem keepTxn_streams (s : State) (t : Txn) : (keepTxn s t).streams = s.streams := rfl
@[simp] theorem keepTxn_slips (s : State) (t : Txn) : (keepTxn s t).slips = s.slips := rfl
@[simp] theorem keepTxn_fab (s : State) (t : Txn) : (keepTxn s t).fab = s.fab := rfl
@[simp] theorem keepTxn_hold (s : State) (t : Txn) : (keepTxn s t).hold = s.hold := rfl
@[simp] theorem keepTxn_spr (s : State) (t : Txn) : (keepTxn s t).spr = s.spr := rfl
@[simp] theorem keepTxn_pln (s : State) (t : Txn) : (keepTxn s t).pln = s.pln := rfl
@[simp] theorem keepTxn_sec (s : State) (t : Txn) : (keepTxn s t).sec = s.sec := rfl
@[simp] theorem keepTxn_own (s : State) (t : Txn) : (keepTxn s t).own = s.own := rfl
@[simp] theorem keepTxn_queues (s : State) (t : Txn) : (keepTxn s t).queues = s.queues := rfl
@[simp] theorem keepTxn_ctl (s : State) (t : Txn) : (keepTxn s t).ctl = s.ctl := rfl
@[simp] theorem keepTxn_masters (s : State) (t : Txn) : (keepTxn s t).masters = s.masters := rfl
@[simp] theorem keepTxn_staged (s : State) (t : Txn) : (keepTxn s t).staged = s.staged := rfl
@[simp] theorem keepTxn_fns (s : State) (t : Txn) : (keepTxn s t).fns = s.fns := rfl
@[simp] theorem keepTxn_ports (s : State) (t : Txn) : (keepTxn s t).ports = s.ports := rfl
@[simp] theorem keepTxn_bus (s : State) (t : Txn) : (keepTxn s t).bus = s.bus := rfl
@[simp] theorem keepTxn_clk (s : State) (t : Txn) : (keepTxn s t).clk = s.clk := rfl
@[simp] theorem keepTxn_pwr (s : State) (t : Txn) : (keepTxn s t).pwr = s.pwr := rfl
@[simp] theorem keepTxn_fresh (s : State) (t : Txn) : (keepTxn s t).fresh = s.fresh := rfl
@[simp] theorem keepTxn_pending (s : State) (t : Txn) : (keepTxn s t).pending = s.pending := rfl

/-! `setPort` changes `fab`. -/
@[simp] theorem setPort_mem (s : State) (p : Nat) (x : Port) : (setPort s p x).mem = s.mem := rfl
@[simp] theorem setPort_hostA (s : State) (p : Nat) (x : Port) : (setPort s p x).hostA = s.hostA := rfl
@[simp] theorem setPort_hostB (s : State) (p : Nat) (x : Port) : (setPort s p x).hostB = s.hostB := rfl
@[simp] theorem setPort_nor0 (s : State) (p : Nat) (x : Port) : (setPort s p x).nor0 = s.nor0 := rfl
@[simp] theorem setPort_nor1 (s : State) (p : Nat) (x : Port) : (setPort s p x).nor1 = s.nor1 := rfl
@[simp] theorem setPort_cores (s : State) (p : Nat) (x : Port) : (setPort s p x).cores = s.cores := rfl
@[simp] theorem setPort_par (s : State) (p : Nat) (x : Port) : (setPort s p x).par = s.par := rfl
@[simp] theorem setPort_arbs (s : State) (p : Nat) (x : Port) : (setPort s p x).arbs = s.arbs := rfl
@[simp] theorem setPort_stp (s : State) (p : Nat) (x : Port) : (setPort s p x).stp = s.stp := rfl
@[simp] theorem setPort_lock (s : State) (p : Nat) (x : Port) : (setPort s p x).lock = s.lock := rfl
@[simp] theorem setPort_streams (s : State) (p : Nat) (x : Port) : (setPort s p x).streams = s.streams := rfl
@[simp] theorem setPort_slips (s : State) (p : Nat) (x : Port) : (setPort s p x).slips = s.slips := rfl
@[simp] theorem setPort_fab (s : State) (p : Nat) (x : Port) : (setPort s p x).fab = { s.fab with ports := smSet Port.init s.fab.ports p x } := rfl
@[simp] theorem setPort_hold (s : State) (p : Nat) (x : Port) : (setPort s p x).hold = s.hold := rfl
@[simp] theorem setPort_spr (s : State) (p : Nat) (x : Port) : (setPort s p x).spr = s.spr := rfl
@[simp] theorem setPort_pln (s : State) (p : Nat) (x : Port) : (setPort s p x).pln = s.pln := rfl
@[simp] theorem setPort_sec (s : State) (p : Nat) (x : Port) : (setPort s p x).sec = s.sec := rfl
@[simp] theorem setPort_own (s : State) (p : Nat) (x : Port) : (setPort s p x).own = s.own := rfl
@[simp] theorem setPort_queues (s : State) (p : Nat) (x : Port) : (setPort s p x).queues = s.queues := rfl
@[simp] theorem setPort_ctl (s : State) (p : Nat) (x : Port) : (setPort s p x).ctl = s.ctl := rfl
@[simp] theorem setPort_masters (s : State) (p : Nat) (x : Port) : (setPort s p x).masters = s.masters := rfl
@[simp] theorem setPort_staged (s : State) (p : Nat) (x : Port) : (setPort s p x).staged = s.staged := rfl
@[simp] theorem setPort_fns (s : State) (p : Nat) (x : Port) : (setPort s p x).fns = s.fns := rfl
@[simp] theorem setPort_ports (s : State) (p : Nat) (x : Port) : (setPort s p x).ports = s.ports := rfl
@[simp] theorem setPort_bus (s : State) (p : Nat) (x : Port) : (setPort s p x).bus = s.bus := rfl
@[simp] theorem setPort_clk (s : State) (p : Nat) (x : Port) : (setPort s p x).clk = s.clk := rfl
@[simp] theorem setPort_pwr (s : State) (p : Nat) (x : Port) : (setPort s p x).pwr = s.pwr := rfl
@[simp] theorem setPort_fresh (s : State) (p : Nat) (x : Port) : (setPort s p x).fresh = s.fresh := rfl
@[simp] theorem setPort_pending (s : State) (p : Nat) (x : Port) : (setPort s p x).pending = s.pending := rfl

/-! `setDrain` changes `hold`. -/
@[simp] theorem setDrain_mem (s : State) (d : Drain) : (setDrain s d).mem = s.mem := rfl
@[simp] theorem setDrain_hostA (s : State) (d : Drain) : (setDrain s d).hostA = s.hostA := rfl
@[simp] theorem setDrain_hostB (s : State) (d : Drain) : (setDrain s d).hostB = s.hostB := rfl
@[simp] theorem setDrain_nor0 (s : State) (d : Drain) : (setDrain s d).nor0 = s.nor0 := rfl
@[simp] theorem setDrain_nor1 (s : State) (d : Drain) : (setDrain s d).nor1 = s.nor1 := rfl
@[simp] theorem setDrain_cores (s : State) (d : Drain) : (setDrain s d).cores = s.cores := rfl
@[simp] theorem setDrain_par (s : State) (d : Drain) : (setDrain s d).par = s.par := rfl
@[simp] theorem setDrain_arbs (s : State) (d : Drain) : (setDrain s d).arbs = s.arbs := rfl
@[simp] theorem setDrain_stp (s : State) (d : Drain) : (setDrain s d).stp = s.stp := rfl
@[simp] theorem setDrain_lock (s : State) (d : Drain) : (setDrain s d).lock = s.lock := rfl
@[simp] theorem setDrain_streams (s : State) (d : Drain) : (setDrain s d).streams = s.streams := rfl
@[simp] theorem setDrain_slips (s : State) (d : Drain) : (setDrain s d).slips = s.slips := rfl
@[simp] theorem setDrain_fab (s : State) (d : Drain) : (setDrain s d).fab = s.fab := rfl
@[simp] theorem setDrain_hold (s : State) (d : Drain) : (setDrain s d).hold = { s.hold with drain := some d } := rfl
@[simp] theorem setDrain_spr (s : State) (d : Drain) : (setDrain s d).spr = s.spr := rfl
@[simp] theorem setDrain_pln (s : State) (d : Drain) : (setDrain s d).pln = s.pln := rfl
@[simp] theorem setDrain_sec (s : State) (d : Drain) : (setDrain s d).sec = s.sec := rfl
@[simp] theorem setDrain_own (s : State) (d : Drain) : (setDrain s d).own = s.own := rfl
@[simp] theorem setDrain_queues (s : State) (d : Drain) : (setDrain s d).queues = s.queues := rfl
@[simp] theorem setDrain_ctl (s : State) (d : Drain) : (setDrain s d).ctl = s.ctl := rfl
@[simp] theorem setDrain_masters (s : State) (d : Drain) : (setDrain s d).masters = s.masters := rfl
@[simp] theorem setDrain_staged (s : State) (d : Drain) : (setDrain s d).staged = s.staged := rfl
@[simp] theorem setDrain_fns (s : State) (d : Drain) : (setDrain s d).fns = s.fns := rfl
@[simp] theorem setDrain_ports (s : State) (d : Drain) : (setDrain s d).ports = s.ports := rfl
@[simp] theorem setDrain_bus (s : State) (d : Drain) : (setDrain s d).bus = s.bus := rfl
@[simp] theorem setDrain_clk (s : State) (d : Drain) : (setDrain s d).clk = s.clk := rfl
@[simp] theorem setDrain_pwr (s : State) (d : Drain) : (setDrain s d).pwr = s.pwr := rfl
@[simp] theorem setDrain_fresh (s : State) (d : Drain) : (setDrain s d).fresh = s.fresh := rfl
@[simp] theorem setDrain_pending (s : State) (d : Drain) : (setDrain s d).pending = s.pending := rfl

/-! `requestFull` changes `spr`. -/
@[simp] theorem requestFull_mem (s : State) (w : Bool) : (requestFull s w).mem = s.mem := rfl
@[simp] theorem requestFull_hostA (s : State) (w : Bool) : (requestFull s w).hostA = s.hostA := rfl
@[simp] theorem requestFull_hostB (s : State) (w : Bool) : (requestFull s w).hostB = s.hostB := rfl
@[simp] theorem requestFull_nor0 (s : State) (w : Bool) : (requestFull s w).nor0 = s.nor0 := rfl
@[simp] theorem requestFull_nor1 (s : State) (w : Bool) : (requestFull s w).nor1 = s.nor1 := rfl
@[simp] theorem requestFull_cores (s : State) (w : Bool) : (requestFull s w).cores = s.cores := rfl
@[simp] theorem requestFull_par (s : State) (w : Bool) : (requestFull s w).par = s.par := rfl
@[simp] theorem requestFull_arbs (s : State) (w : Bool) : (requestFull s w).arbs = s.arbs := rfl
@[simp] theorem requestFull_stp (s : State) (w : Bool) : (requestFull s w).stp = s.stp := rfl
@[simp] theorem requestFull_lock (s : State) (w : Bool) : (requestFull s w).lock = s.lock := rfl
@[simp] theorem requestFull_streams (s : State) (w : Bool) : (requestFull s w).streams = s.streams := rfl
@[simp] theorem requestFull_slips (s : State) (w : Bool) : (requestFull s w).slips = s.slips := rfl
@[simp] theorem requestFull_fab (s : State) (w : Bool) : (requestFull s w).fab = s.fab := rfl
@[simp] theorem requestFull_hold (s : State) (w : Bool) : (requestFull s w).hold = s.hold := rfl
@[simp] theorem requestFull_spr (s : State) (w : Bool) : (requestFull s w).spr = { s.spr with nextFull := w } := rfl
@[simp] theorem requestFull_pln (s : State) (w : Bool) : (requestFull s w).pln = s.pln := rfl
@[simp] theorem requestFull_sec (s : State) (w : Bool) : (requestFull s w).sec = s.sec := rfl
@[simp] theorem requestFull_own (s : State) (w : Bool) : (requestFull s w).own = s.own := rfl
@[simp] theorem requestFull_queues (s : State) (w : Bool) : (requestFull s w).queues = s.queues := rfl
@[simp] theorem requestFull_ctl (s : State) (w : Bool) : (requestFull s w).ctl = s.ctl := rfl
@[simp] theorem requestFull_masters (s : State) (w : Bool) : (requestFull s w).masters = s.masters := rfl
@[simp] theorem requestFull_staged (s : State) (w : Bool) : (requestFull s w).staged = s.staged := rfl
@[simp] theorem requestFull_fns (s : State) (w : Bool) : (requestFull s w).fns = s.fns := rfl
@[simp] theorem requestFull_ports (s : State) (w : Bool) : (requestFull s w).ports = s.ports := rfl
@[simp] theorem requestFull_bus (s : State) (w : Bool) : (requestFull s w).bus = s.bus := rfl
@[simp] theorem requestFull_clk (s : State) (w : Bool) : (requestFull s w).clk = s.clk := rfl
@[simp] theorem requestFull_pwr (s : State) (w : Bool) : (requestFull s w).pwr = s.pwr := rfl
@[simp] theorem requestFull_fresh (s : State) (w : Bool) : (requestFull s w).fresh = s.fresh := rfl
@[simp] theorem requestFull_pending (s : State) (w : Bool) : (requestFull s w).pending = s.pending := rfl

/-! `setStream` changes `streams`. -/
@[simp] theorem setStream_mem (s : State) (k : Nat) (x : Stream) : (setStream s k x).mem = s.mem := rfl
@[simp] theorem setStream_hostA (s : State) (k : Nat) (x : Stream) : (setStream s k x).hostA = s.hostA := rfl
@[simp] theorem setStream_hostB (s : State) (k : Nat) (x : Stream) : (setStream s k x).hostB = s.hostB := rfl
@[simp] theorem setStream_nor0 (s : State) (k : Nat) (x : Stream) : (setStream s k x).nor0 = s.nor0 := rfl
@[simp] theorem setStream_nor1 (s : State) (k : Nat) (x : Stream) : (setStream s k x).nor1 = s.nor1 := rfl
@[simp] theorem setStream_cores (s : State) (k : Nat) (x : Stream) : (setStream s k x).cores = s.cores := rfl
@[simp] theorem setStream_par (s : State) (k : Nat) (x : Stream) : (setStream s k x).par = s.par := rfl
@[simp] theorem setStream_arbs (s : State) (k : Nat) (x : Stream) : (setStream s k x).arbs = s.arbs := rfl
@[simp] theorem setStream_stp (s : State) (k : Nat) (x : Stream) : (setStream s k x).stp = s.stp := rfl
@[simp] theorem setStream_lock (s : State) (k : Nat) (x : Stream) : (setStream s k x).lock = s.lock := rfl
@[simp] theorem setStream_streams (s : State) (k : Nat) (x : Stream) : (setStream s k x).streams = smSet Stream.init s.streams k x := rfl
@[simp] theorem setStream_slips (s : State) (k : Nat) (x : Stream) : (setStream s k x).slips = s.slips := rfl
@[simp] theorem setStream_fab (s : State) (k : Nat) (x : Stream) : (setStream s k x).fab = s.fab := rfl
@[simp] theorem setStream_hold (s : State) (k : Nat) (x : Stream) : (setStream s k x).hold = s.hold := rfl
@[simp] theorem setStream_spr (s : State) (k : Nat) (x : Stream) : (setStream s k x).spr = s.spr := rfl
@[simp] theorem setStream_pln (s : State) (k : Nat) (x : Stream) : (setStream s k x).pln = s.pln := rfl
@[simp] theorem setStream_sec (s : State) (k : Nat) (x : Stream) : (setStream s k x).sec = s.sec := rfl
@[simp] theorem setStream_own (s : State) (k : Nat) (x : Stream) : (setStream s k x).own = s.own := rfl
@[simp] theorem setStream_queues (s : State) (k : Nat) (x : Stream) : (setStream s k x).queues = s.queues := rfl
@[simp] theorem setStream_ctl (s : State) (k : Nat) (x : Stream) : (setStream s k x).ctl = s.ctl := rfl
@[simp] theorem setStream_masters (s : State) (k : Nat) (x : Stream) : (setStream s k x).masters = s.masters := rfl
@[simp] theorem setStream_staged (s : State) (k : Nat) (x : Stream) : (setStream s k x).staged = s.staged := rfl
@[simp] theorem setStream_fns (s : State) (k : Nat) (x : Stream) : (setStream s k x).fns = s.fns := rfl
@[simp] theorem setStream_ports (s : State) (k : Nat) (x : Stream) : (setStream s k x).ports = s.ports := rfl
@[simp] theorem setStream_bus (s : State) (k : Nat) (x : Stream) : (setStream s k x).bus = s.bus := rfl
@[simp] theorem setStream_clk (s : State) (k : Nat) (x : Stream) : (setStream s k x).clk = s.clk := rfl
@[simp] theorem setStream_pwr (s : State) (k : Nat) (x : Stream) : (setStream s k x).pwr = s.pwr := rfl
@[simp] theorem setStream_fresh (s : State) (k : Nat) (x : Stream) : (setStream s k x).fresh = s.fresh := rfl
@[simp] theorem setStream_pending (s : State) (k : Nat) (x : Stream) : (setStream s k x).pending = s.pending := rfl

/-! `setSlip` changes `slips`. -/
@[simp] theorem setSlip_mem (s : State) (d : Nat) (x : Slipway) : (setSlip s d x).mem = s.mem := rfl
@[simp] theorem setSlip_hostA (s : State) (d : Nat) (x : Slipway) : (setSlip s d x).hostA = s.hostA := rfl
@[simp] theorem setSlip_hostB (s : State) (d : Nat) (x : Slipway) : (setSlip s d x).hostB = s.hostB := rfl
@[simp] theorem setSlip_nor0 (s : State) (d : Nat) (x : Slipway) : (setSlip s d x).nor0 = s.nor0 := rfl
@[simp] theorem setSlip_nor1 (s : State) (d : Nat) (x : Slipway) : (setSlip s d x).nor1 = s.nor1 := rfl
@[simp] theorem setSlip_cores (s : State) (d : Nat) (x : Slipway) : (setSlip s d x).cores = s.cores := rfl
@[simp] theorem setSlip_par (s : State) (d : Nat) (x : Slipway) : (setSlip s d x).par = s.par := rfl
@[simp] theorem setSlip_arbs (s : State) (d : Nat) (x : Slipway) : (setSlip s d x).arbs = s.arbs := rfl
@[simp] theorem setSlip_stp (s : State) (d : Nat) (x : Slipway) : (setSlip s d x).stp = s.stp := rfl
@[simp] theorem setSlip_lock (s : State) (d : Nat) (x : Slipway) : (setSlip s d x).lock = s.lock := rfl
@[simp] theorem setSlip_streams (s : State) (d : Nat) (x : Slipway) : (setSlip s d x).streams = s.streams := rfl
@[simp] theorem setSlip_slips (s : State) (d : Nat) (x : Slipway) : (setSlip s d x).slips = smSet Slipway.init s.slips d x := rfl
@[simp] theorem setSlip_fab (s : State) (d : Nat) (x : Slipway) : (setSlip s d x).fab = s.fab := rfl
@[simp] theorem setSlip_hold (s : State) (d : Nat) (x : Slipway) : (setSlip s d x).hold = s.hold := rfl
@[simp] theorem setSlip_spr (s : State) (d : Nat) (x : Slipway) : (setSlip s d x).spr = s.spr := rfl
@[simp] theorem setSlip_pln (s : State) (d : Nat) (x : Slipway) : (setSlip s d x).pln = s.pln := rfl
@[simp] theorem setSlip_sec (s : State) (d : Nat) (x : Slipway) : (setSlip s d x).sec = s.sec := rfl
@[simp] theorem setSlip_own (s : State) (d : Nat) (x : Slipway) : (setSlip s d x).own = s.own := rfl
@[simp] theorem setSlip_queues (s : State) (d : Nat) (x : Slipway) : (setSlip s d x).queues = s.queues := rfl
@[simp] theorem setSlip_ctl (s : State) (d : Nat) (x : Slipway) : (setSlip s d x).ctl = s.ctl := rfl
@[simp] theorem setSlip_masters (s : State) (d : Nat) (x : Slipway) : (setSlip s d x).masters = s.masters := rfl
@[simp] theorem setSlip_staged (s : State) (d : Nat) (x : Slipway) : (setSlip s d x).staged = s.staged := rfl
@[simp] theorem setSlip_fns (s : State) (d : Nat) (x : Slipway) : (setSlip s d x).fns = s.fns := rfl
@[simp] theorem setSlip_ports (s : State) (d : Nat) (x : Slipway) : (setSlip s d x).ports = s.ports := rfl
@[simp] theorem setSlip_bus (s : State) (d : Nat) (x : Slipway) : (setSlip s d x).bus = s.bus := rfl
@[simp] theorem setSlip_clk (s : State) (d : Nat) (x : Slipway) : (setSlip s d x).clk = s.clk := rfl
@[simp] theorem setSlip_pwr (s : State) (d : Nat) (x : Slipway) : (setSlip s d x).pwr = s.pwr := rfl
@[simp] theorem setSlip_fresh (s : State) (d : Nat) (x : Slipway) : (setSlip s d x).fresh = s.fresh := rfl
@[simp] theorem setSlip_pending (s : State) (d : Nat) (x : Slipway) : (setSlip s d x).pending = s.pending := rfl

/-! `putBar2` changes `bus`. -/
@[simp] theorem putBar2_mem (s : State) (b : Bytes) : (putBar2 s b).mem = s.mem := rfl
@[simp] theorem putBar2_hostA (s : State) (b : Bytes) : (putBar2 s b).hostA = s.hostA := rfl
@[simp] theorem putBar2_hostB (s : State) (b : Bytes) : (putBar2 s b).hostB = s.hostB := rfl
@[simp] theorem putBar2_nor0 (s : State) (b : Bytes) : (putBar2 s b).nor0 = s.nor0 := rfl
@[simp] theorem putBar2_nor1 (s : State) (b : Bytes) : (putBar2 s b).nor1 = s.nor1 := rfl
@[simp] theorem putBar2_cores (s : State) (b : Bytes) : (putBar2 s b).cores = s.cores := rfl
@[simp] theorem putBar2_par (s : State) (b : Bytes) : (putBar2 s b).par = s.par := rfl
@[simp] theorem putBar2_arbs (s : State) (b : Bytes) : (putBar2 s b).arbs = s.arbs := rfl
@[simp] theorem putBar2_stp (s : State) (b : Bytes) : (putBar2 s b).stp = s.stp := rfl
@[simp] theorem putBar2_lock (s : State) (b : Bytes) : (putBar2 s b).lock = s.lock := rfl
@[simp] theorem putBar2_streams (s : State) (b : Bytes) : (putBar2 s b).streams = s.streams := rfl
@[simp] theorem putBar2_slips (s : State) (b : Bytes) : (putBar2 s b).slips = s.slips := rfl
@[simp] theorem putBar2_fab (s : State) (b : Bytes) : (putBar2 s b).fab = s.fab := rfl
@[simp] theorem putBar2_hold (s : State) (b : Bytes) : (putBar2 s b).hold = s.hold := rfl
@[simp] theorem putBar2_spr (s : State) (b : Bytes) : (putBar2 s b).spr = s.spr := rfl
@[simp] theorem putBar2_pln (s : State) (b : Bytes) : (putBar2 s b).pln = s.pln := rfl
@[simp] theorem putBar2_sec (s : State) (b : Bytes) : (putBar2 s b).sec = s.sec := rfl
@[simp] theorem putBar2_own (s : State) (b : Bytes) : (putBar2 s b).own = s.own := rfl
@[simp] theorem putBar2_queues (s : State) (b : Bytes) : (putBar2 s b).queues = s.queues := rfl
@[simp] theorem putBar2_ctl (s : State) (b : Bytes) : (putBar2 s b).ctl = s.ctl := rfl
@[simp] theorem putBar2_masters (s : State) (b : Bytes) : (putBar2 s b).masters = s.masters := rfl
@[simp] theorem putBar2_staged (s : State) (b : Bytes) : (putBar2 s b).staged = s.staged := rfl
@[simp] theorem putBar2_fns (s : State) (b : Bytes) : (putBar2 s b).fns = s.fns := rfl
@[simp] theorem putBar2_ports (s : State) (b : Bytes) : (putBar2 s b).ports = s.ports := rfl
@[simp] theorem putBar2_bus (s : State) (b : Bytes) : (putBar2 s b).bus = { s.bus with bar2 := s.bus.bar2 ++ [b] } := rfl
@[simp] theorem putBar2_clk (s : State) (b : Bytes) : (putBar2 s b).clk = s.clk := rfl
@[simp] theorem putBar2_pwr (s : State) (b : Bytes) : (putBar2 s b).pwr = s.pwr := rfl
@[simp] theorem putBar2_fresh (s : State) (b : Bytes) : (putBar2 s b).fresh = s.fresh := rfl
@[simp] theorem putBar2_pending (s : State) (b : Bytes) : (putBar2 s b).pending = s.pending := rfl

/-! `putMctp` changes `bus`. -/
@[simp] theorem putMctp_mem (s : State) (p : Nat) (b : Bytes) : (putMctp s p b).mem = s.mem := rfl
@[simp] theorem putMctp_hostA (s : State) (p : Nat) (b : Bytes) : (putMctp s p b).hostA = s.hostA := rfl
@[simp] theorem putMctp_hostB (s : State) (p : Nat) (b : Bytes) : (putMctp s p b).hostB = s.hostB := rfl
@[simp] theorem putMctp_nor0 (s : State) (p : Nat) (b : Bytes) : (putMctp s p b).nor0 = s.nor0 := rfl
@[simp] theorem putMctp_nor1 (s : State) (p : Nat) (b : Bytes) : (putMctp s p b).nor1 = s.nor1 := rfl
@[simp] theorem putMctp_cores (s : State) (p : Nat) (b : Bytes) : (putMctp s p b).cores = s.cores := rfl
@[simp] theorem putMctp_par (s : State) (p : Nat) (b : Bytes) : (putMctp s p b).par = s.par := rfl
@[simp] theorem putMctp_arbs (s : State) (p : Nat) (b : Bytes) : (putMctp s p b).arbs = s.arbs := rfl
@[simp] theorem putMctp_stp (s : State) (p : Nat) (b : Bytes) : (putMctp s p b).stp = s.stp := rfl
@[simp] theorem putMctp_lock (s : State) (p : Nat) (b : Bytes) : (putMctp s p b).lock = s.lock := rfl
@[simp] theorem putMctp_streams (s : State) (p : Nat) (b : Bytes) : (putMctp s p b).streams = s.streams := rfl
@[simp] theorem putMctp_slips (s : State) (p : Nat) (b : Bytes) : (putMctp s p b).slips = s.slips := rfl
@[simp] theorem putMctp_fab (s : State) (p : Nat) (b : Bytes) : (putMctp s p b).fab = s.fab := rfl
@[simp] theorem putMctp_hold (s : State) (p : Nat) (b : Bytes) : (putMctp s p b).hold = s.hold := rfl
@[simp] theorem putMctp_spr (s : State) (p : Nat) (b : Bytes) : (putMctp s p b).spr = s.spr := rfl
@[simp] theorem putMctp_pln (s : State) (p : Nat) (b : Bytes) : (putMctp s p b).pln = s.pln := rfl
@[simp] theorem putMctp_sec (s : State) (p : Nat) (b : Bytes) : (putMctp s p b).sec = s.sec := rfl
@[simp] theorem putMctp_own (s : State) (p : Nat) (b : Bytes) : (putMctp s p b).own = s.own := rfl
@[simp] theorem putMctp_queues (s : State) (p : Nat) (b : Bytes) : (putMctp s p b).queues = s.queues := rfl
@[simp] theorem putMctp_ctl (s : State) (p : Nat) (b : Bytes) : (putMctp s p b).ctl = s.ctl := rfl
@[simp] theorem putMctp_masters (s : State) (p : Nat) (b : Bytes) : (putMctp s p b).masters = s.masters := rfl
@[simp] theorem putMctp_staged (s : State) (p : Nat) (b : Bytes) : (putMctp s p b).staged = s.staged := rfl
@[simp] theorem putMctp_fns (s : State) (p : Nat) (b : Bytes) : (putMctp s p b).fns = s.fns := rfl
@[simp] theorem putMctp_ports (s : State) (p : Nat) (b : Bytes) : (putMctp s p b).ports = s.ports := rfl
@[simp] theorem putMctp_bus (s : State) (p : Nat) (b : Bytes) : (putMctp s p b).bus = { s.bus with mctp := s.bus.mctp ++ [(p, b)] } := rfl
@[simp] theorem putMctp_clk (s : State) (p : Nat) (b : Bytes) : (putMctp s p b).clk = s.clk := rfl
@[simp] theorem putMctp_pwr (s : State) (p : Nat) (b : Bytes) : (putMctp s p b).pwr = s.pwr := rfl
@[simp] theorem putMctp_fresh (s : State) (p : Nat) (b : Bytes) : (putMctp s p b).fresh = s.fresh := rfl
@[simp] theorem putMctp_pending (s : State) (p : Nat) (b : Bytes) : (putMctp s p b).pending = s.pending := rfl

/-! `putRead` changes `bus`. -/
@[simp] theorem putRead_mem (s : State) (m : Nat) (v : W32) : (putRead s m v).mem = s.mem := rfl
@[simp] theorem putRead_hostA (s : State) (m : Nat) (v : W32) : (putRead s m v).hostA = s.hostA := rfl
@[simp] theorem putRead_hostB (s : State) (m : Nat) (v : W32) : (putRead s m v).hostB = s.hostB := rfl
@[simp] theorem putRead_nor0 (s : State) (m : Nat) (v : W32) : (putRead s m v).nor0 = s.nor0 := rfl
@[simp] theorem putRead_nor1 (s : State) (m : Nat) (v : W32) : (putRead s m v).nor1 = s.nor1 := rfl
@[simp] theorem putRead_cores (s : State) (m : Nat) (v : W32) : (putRead s m v).cores = s.cores := rfl
@[simp] theorem putRead_par (s : State) (m : Nat) (v : W32) : (putRead s m v).par = s.par := rfl
@[simp] theorem putRead_arbs (s : State) (m : Nat) (v : W32) : (putRead s m v).arbs = s.arbs := rfl
@[simp] theorem putRead_stp (s : State) (m : Nat) (v : W32) : (putRead s m v).stp = s.stp := rfl
@[simp] theorem putRead_lock (s : State) (m : Nat) (v : W32) : (putRead s m v).lock = s.lock := rfl
@[simp] theorem putRead_streams (s : State) (m : Nat) (v : W32) : (putRead s m v).streams = s.streams := rfl
@[simp] theorem putRead_slips (s : State) (m : Nat) (v : W32) : (putRead s m v).slips = s.slips := rfl
@[simp] theorem putRead_fab (s : State) (m : Nat) (v : W32) : (putRead s m v).fab = s.fab := rfl
@[simp] theorem putRead_hold (s : State) (m : Nat) (v : W32) : (putRead s m v).hold = s.hold := rfl
@[simp] theorem putRead_spr (s : State) (m : Nat) (v : W32) : (putRead s m v).spr = s.spr := rfl
@[simp] theorem putRead_pln (s : State) (m : Nat) (v : W32) : (putRead s m v).pln = s.pln := rfl
@[simp] theorem putRead_sec (s : State) (m : Nat) (v : W32) : (putRead s m v).sec = s.sec := rfl
@[simp] theorem putRead_own (s : State) (m : Nat) (v : W32) : (putRead s m v).own = s.own := rfl
@[simp] theorem putRead_queues (s : State) (m : Nat) (v : W32) : (putRead s m v).queues = s.queues := rfl
@[simp] theorem putRead_ctl (s : State) (m : Nat) (v : W32) : (putRead s m v).ctl = s.ctl := rfl
@[simp] theorem putRead_masters (s : State) (m : Nat) (v : W32) : (putRead s m v).masters = s.masters := rfl
@[simp] theorem putRead_staged (s : State) (m : Nat) (v : W32) : (putRead s m v).staged = s.staged := rfl
@[simp] theorem putRead_fns (s : State) (m : Nat) (v : W32) : (putRead s m v).fns = s.fns := rfl
@[simp] theorem putRead_ports (s : State) (m : Nat) (v : W32) : (putRead s m v).ports = s.ports := rfl
@[simp] theorem putRead_bus (s : State) (m : Nat) (v : W32) : (putRead s m v).bus = { s.bus with reads := s.bus.reads ++ [(m, v)] } := rfl
@[simp] theorem putRead_clk (s : State) (m : Nat) (v : W32) : (putRead s m v).clk = s.clk := rfl
@[simp] theorem putRead_pwr (s : State) (m : Nat) (v : W32) : (putRead s m v).pwr = s.pwr := rfl
@[simp] theorem putRead_fresh (s : State) (m : Nat) (v : W32) : (putRead s m v).fresh = s.fresh := rfl
@[simp] theorem putRead_pending (s : State) (m : Nat) (v : W32) : (putRead s m v).pending = s.pending := rfl

/-! `setMaster` changes `masters`. -/
@[simp] theorem setMaster_mem (s : State) (m : Nat) (x : Master) : (setMaster s m x).mem = s.mem := rfl
@[simp] theorem setMaster_hostA (s : State) (m : Nat) (x : Master) : (setMaster s m x).hostA = s.hostA := rfl
@[simp] theorem setMaster_hostB (s : State) (m : Nat) (x : Master) : (setMaster s m x).hostB = s.hostB := rfl
@[simp] theorem setMaster_nor0 (s : State) (m : Nat) (x : Master) : (setMaster s m x).nor0 = s.nor0 := rfl
@[simp] theorem setMaster_nor1 (s : State) (m : Nat) (x : Master) : (setMaster s m x).nor1 = s.nor1 := rfl
@[simp] theorem setMaster_cores (s : State) (m : Nat) (x : Master) : (setMaster s m x).cores = s.cores := rfl
@[simp] theorem setMaster_par (s : State) (m : Nat) (x : Master) : (setMaster s m x).par = s.par := rfl
@[simp] theorem setMaster_arbs (s : State) (m : Nat) (x : Master) : (setMaster s m x).arbs = s.arbs := rfl
@[simp] theorem setMaster_stp (s : State) (m : Nat) (x : Master) : (setMaster s m x).stp = s.stp := rfl
@[simp] theorem setMaster_lock (s : State) (m : Nat) (x : Master) : (setMaster s m x).lock = s.lock := rfl
@[simp] theorem setMaster_streams (s : State) (m : Nat) (x : Master) : (setMaster s m x).streams = s.streams := rfl
@[simp] theorem setMaster_slips (s : State) (m : Nat) (x : Master) : (setMaster s m x).slips = s.slips := rfl
@[simp] theorem setMaster_fab (s : State) (m : Nat) (x : Master) : (setMaster s m x).fab = s.fab := rfl
@[simp] theorem setMaster_hold (s : State) (m : Nat) (x : Master) : (setMaster s m x).hold = s.hold := rfl
@[simp] theorem setMaster_spr (s : State) (m : Nat) (x : Master) : (setMaster s m x).spr = s.spr := rfl
@[simp] theorem setMaster_pln (s : State) (m : Nat) (x : Master) : (setMaster s m x).pln = s.pln := rfl
@[simp] theorem setMaster_sec (s : State) (m : Nat) (x : Master) : (setMaster s m x).sec = s.sec := rfl
@[simp] theorem setMaster_own (s : State) (m : Nat) (x : Master) : (setMaster s m x).own = s.own := rfl
@[simp] theorem setMaster_queues (s : State) (m : Nat) (x : Master) : (setMaster s m x).queues = s.queues := rfl
@[simp] theorem setMaster_ctl (s : State) (m : Nat) (x : Master) : (setMaster s m x).ctl = s.ctl := rfl
@[simp] theorem setMaster_masters (s : State) (m : Nat) (x : Master) : (setMaster s m x).masters = smSet Master.init s.masters m x := rfl
@[simp] theorem setMaster_staged (s : State) (m : Nat) (x : Master) : (setMaster s m x).staged = s.staged := rfl
@[simp] theorem setMaster_fns (s : State) (m : Nat) (x : Master) : (setMaster s m x).fns = s.fns := rfl
@[simp] theorem setMaster_ports (s : State) (m : Nat) (x : Master) : (setMaster s m x).ports = s.ports := rfl
@[simp] theorem setMaster_bus (s : State) (m : Nat) (x : Master) : (setMaster s m x).bus = s.bus := rfl
@[simp] theorem setMaster_clk (s : State) (m : Nat) (x : Master) : (setMaster s m x).clk = s.clk := rfl
@[simp] theorem setMaster_pwr (s : State) (m : Nat) (x : Master) : (setMaster s m x).pwr = s.pwr := rfl
@[simp] theorem setMaster_fresh (s : State) (m : Nat) (x : Master) : (setMaster s m x).fresh = s.fresh := rfl
@[simp] theorem setMaster_pending (s : State) (m : Nat) (x : Master) : (setMaster s m x).pending = s.pending := rfl

/-! `setLock` changes `lock`. -/
@[simp] theorem setLock_mem (s : State) (l : Lock) : (setLock s l).mem = s.mem := rfl
@[simp] theorem setLock_hostA (s : State) (l : Lock) : (setLock s l).hostA = s.hostA := rfl
@[simp] theorem setLock_hostB (s : State) (l : Lock) : (setLock s l).hostB = s.hostB := rfl
@[simp] theorem setLock_nor0 (s : State) (l : Lock) : (setLock s l).nor0 = s.nor0 := rfl
@[simp] theorem setLock_nor1 (s : State) (l : Lock) : (setLock s l).nor1 = s.nor1 := rfl
@[simp] theorem setLock_cores (s : State) (l : Lock) : (setLock s l).cores = s.cores := rfl
@[simp] theorem setLock_par (s : State) (l : Lock) : (setLock s l).par = s.par := rfl
@[simp] theorem setLock_arbs (s : State) (l : Lock) : (setLock s l).arbs = s.arbs := rfl
@[simp] theorem setLock_stp (s : State) (l : Lock) : (setLock s l).stp = s.stp := rfl
@[simp] theorem setLock_lock (s : State) (l : Lock) : (setLock s l).lock = some l := rfl
@[simp] theorem setLock_streams (s : State) (l : Lock) : (setLock s l).streams = s.streams := rfl
@[simp] theorem setLock_slips (s : State) (l : Lock) : (setLock s l).slips = s.slips := rfl
@[simp] theorem setLock_fab (s : State) (l : Lock) : (setLock s l).fab = s.fab := rfl
@[simp] theorem setLock_hold (s : State) (l : Lock) : (setLock s l).hold = s.hold := rfl
@[simp] theorem setLock_spr (s : State) (l : Lock) : (setLock s l).spr = s.spr := rfl
@[simp] theorem setLock_pln (s : State) (l : Lock) : (setLock s l).pln = s.pln := rfl
@[simp] theorem setLock_sec (s : State) (l : Lock) : (setLock s l).sec = s.sec := rfl
@[simp] theorem setLock_own (s : State) (l : Lock) : (setLock s l).own = s.own := rfl
@[simp] theorem setLock_queues (s : State) (l : Lock) : (setLock s l).queues = s.queues := rfl
@[simp] theorem setLock_ctl (s : State) (l : Lock) : (setLock s l).ctl = s.ctl := rfl
@[simp] theorem setLock_masters (s : State) (l : Lock) : (setLock s l).masters = s.masters := rfl
@[simp] theorem setLock_staged (s : State) (l : Lock) : (setLock s l).staged = s.staged := rfl
@[simp] theorem setLock_fns (s : State) (l : Lock) : (setLock s l).fns = s.fns := rfl
@[simp] theorem setLock_ports (s : State) (l : Lock) : (setLock s l).ports = s.ports := rfl
@[simp] theorem setLock_bus (s : State) (l : Lock) : (setLock s l).bus = s.bus := rfl
@[simp] theorem setLock_clk (s : State) (l : Lock) : (setLock s l).clk = s.clk := rfl
@[simp] theorem setLock_pwr (s : State) (l : Lock) : (setLock s l).pwr = s.pwr := rfl
@[simp] theorem setLock_fresh (s : State) (l : Lock) : (setLock s l).fresh = s.fresh := rfl
@[simp] theorem setLock_pending (s : State) (l : Lock) : (setLock s l).pending = s.pending := rfl

/-! `wrNor0` changes `nor0`. -/
@[simp] theorem wrNor0_mem (s : State) (a : Nat) (b : Bytes) : (wrNor0 s a b).mem = s.mem := rfl
@[simp] theorem wrNor0_hostA (s : State) (a : Nat) (b : Bytes) : (wrNor0 s a b).hostA = s.hostA := rfl
@[simp] theorem wrNor0_hostB (s : State) (a : Nat) (b : Bytes) : (wrNor0 s a b).hostB = s.hostB := rfl
@[simp] theorem wrNor0_nor0 (s : State) (a : Nat) (b : Bytes) : (wrNor0 s a b).nor0 = wrD 0xFF s.nor0 a b := rfl
@[simp] theorem wrNor0_nor1 (s : State) (a : Nat) (b : Bytes) : (wrNor0 s a b).nor1 = s.nor1 := rfl
@[simp] theorem wrNor0_cores (s : State) (a : Nat) (b : Bytes) : (wrNor0 s a b).cores = s.cores := rfl
@[simp] theorem wrNor0_par (s : State) (a : Nat) (b : Bytes) : (wrNor0 s a b).par = s.par := rfl
@[simp] theorem wrNor0_arbs (s : State) (a : Nat) (b : Bytes) : (wrNor0 s a b).arbs = s.arbs := rfl
@[simp] theorem wrNor0_stp (s : State) (a : Nat) (b : Bytes) : (wrNor0 s a b).stp = s.stp := rfl
@[simp] theorem wrNor0_lock (s : State) (a : Nat) (b : Bytes) : (wrNor0 s a b).lock = s.lock := rfl
@[simp] theorem wrNor0_streams (s : State) (a : Nat) (b : Bytes) : (wrNor0 s a b).streams = s.streams := rfl
@[simp] theorem wrNor0_slips (s : State) (a : Nat) (b : Bytes) : (wrNor0 s a b).slips = s.slips := rfl
@[simp] theorem wrNor0_fab (s : State) (a : Nat) (b : Bytes) : (wrNor0 s a b).fab = s.fab := rfl
@[simp] theorem wrNor0_hold (s : State) (a : Nat) (b : Bytes) : (wrNor0 s a b).hold = s.hold := rfl
@[simp] theorem wrNor0_spr (s : State) (a : Nat) (b : Bytes) : (wrNor0 s a b).spr = s.spr := rfl
@[simp] theorem wrNor0_pln (s : State) (a : Nat) (b : Bytes) : (wrNor0 s a b).pln = s.pln := rfl
@[simp] theorem wrNor0_sec (s : State) (a : Nat) (b : Bytes) : (wrNor0 s a b).sec = s.sec := rfl
@[simp] theorem wrNor0_own (s : State) (a : Nat) (b : Bytes) : (wrNor0 s a b).own = s.own := rfl
@[simp] theorem wrNor0_queues (s : State) (a : Nat) (b : Bytes) : (wrNor0 s a b).queues = s.queues := rfl
@[simp] theorem wrNor0_ctl (s : State) (a : Nat) (b : Bytes) : (wrNor0 s a b).ctl = s.ctl := rfl
@[simp] theorem wrNor0_masters (s : State) (a : Nat) (b : Bytes) : (wrNor0 s a b).masters = s.masters := rfl
@[simp] theorem wrNor0_staged (s : State) (a : Nat) (b : Bytes) : (wrNor0 s a b).staged = s.staged := rfl
@[simp] theorem wrNor0_fns (s : State) (a : Nat) (b : Bytes) : (wrNor0 s a b).fns = s.fns := rfl
@[simp] theorem wrNor0_ports (s : State) (a : Nat) (b : Bytes) : (wrNor0 s a b).ports = s.ports := rfl
@[simp] theorem wrNor0_bus (s : State) (a : Nat) (b : Bytes) : (wrNor0 s a b).bus = s.bus := rfl
@[simp] theorem wrNor0_clk (s : State) (a : Nat) (b : Bytes) : (wrNor0 s a b).clk = s.clk := rfl
@[simp] theorem wrNor0_pwr (s : State) (a : Nat) (b : Bytes) : (wrNor0 s a b).pwr = s.pwr := rfl
@[simp] theorem wrNor0_fresh (s : State) (a : Nat) (b : Bytes) : (wrNor0 s a b).fresh = s.fresh := rfl
@[simp] theorem wrNor0_pending (s : State) (a : Nat) (b : Bytes) : (wrNor0 s a b).pending = s.pending := rfl

/-! `wrNor1` changes `nor1`. -/
@[simp] theorem wrNor1_mem (s : State) (a : Nat) (b : Bytes) : (wrNor1 s a b).mem = s.mem := rfl
@[simp] theorem wrNor1_hostA (s : State) (a : Nat) (b : Bytes) : (wrNor1 s a b).hostA = s.hostA := rfl
@[simp] theorem wrNor1_hostB (s : State) (a : Nat) (b : Bytes) : (wrNor1 s a b).hostB = s.hostB := rfl
@[simp] theorem wrNor1_nor0 (s : State) (a : Nat) (b : Bytes) : (wrNor1 s a b).nor0 = s.nor0 := rfl
@[simp] theorem wrNor1_nor1 (s : State) (a : Nat) (b : Bytes) : (wrNor1 s a b).nor1 = wrD 0xFF s.nor1 a b := rfl
@[simp] theorem wrNor1_cores (s : State) (a : Nat) (b : Bytes) : (wrNor1 s a b).cores = s.cores := rfl
@[simp] theorem wrNor1_par (s : State) (a : Nat) (b : Bytes) : (wrNor1 s a b).par = s.par := rfl
@[simp] theorem wrNor1_arbs (s : State) (a : Nat) (b : Bytes) : (wrNor1 s a b).arbs = s.arbs := rfl
@[simp] theorem wrNor1_stp (s : State) (a : Nat) (b : Bytes) : (wrNor1 s a b).stp = s.stp := rfl
@[simp] theorem wrNor1_lock (s : State) (a : Nat) (b : Bytes) : (wrNor1 s a b).lock = s.lock := rfl
@[simp] theorem wrNor1_streams (s : State) (a : Nat) (b : Bytes) : (wrNor1 s a b).streams = s.streams := rfl
@[simp] theorem wrNor1_slips (s : State) (a : Nat) (b : Bytes) : (wrNor1 s a b).slips = s.slips := rfl
@[simp] theorem wrNor1_fab (s : State) (a : Nat) (b : Bytes) : (wrNor1 s a b).fab = s.fab := rfl
@[simp] theorem wrNor1_hold (s : State) (a : Nat) (b : Bytes) : (wrNor1 s a b).hold = s.hold := rfl
@[simp] theorem wrNor1_spr (s : State) (a : Nat) (b : Bytes) : (wrNor1 s a b).spr = s.spr := rfl
@[simp] theorem wrNor1_pln (s : State) (a : Nat) (b : Bytes) : (wrNor1 s a b).pln = s.pln := rfl
@[simp] theorem wrNor1_sec (s : State) (a : Nat) (b : Bytes) : (wrNor1 s a b).sec = s.sec := rfl
@[simp] theorem wrNor1_own (s : State) (a : Nat) (b : Bytes) : (wrNor1 s a b).own = s.own := rfl
@[simp] theorem wrNor1_queues (s : State) (a : Nat) (b : Bytes) : (wrNor1 s a b).queues = s.queues := rfl
@[simp] theorem wrNor1_ctl (s : State) (a : Nat) (b : Bytes) : (wrNor1 s a b).ctl = s.ctl := rfl
@[simp] theorem wrNor1_masters (s : State) (a : Nat) (b : Bytes) : (wrNor1 s a b).masters = s.masters := rfl
@[simp] theorem wrNor1_staged (s : State) (a : Nat) (b : Bytes) : (wrNor1 s a b).staged = s.staged := rfl
@[simp] theorem wrNor1_fns (s : State) (a : Nat) (b : Bytes) : (wrNor1 s a b).fns = s.fns := rfl
@[simp] theorem wrNor1_ports (s : State) (a : Nat) (b : Bytes) : (wrNor1 s a b).ports = s.ports := rfl
@[simp] theorem wrNor1_bus (s : State) (a : Nat) (b : Bytes) : (wrNor1 s a b).bus = s.bus := rfl
@[simp] theorem wrNor1_clk (s : State) (a : Nat) (b : Bytes) : (wrNor1 s a b).clk = s.clk := rfl
@[simp] theorem wrNor1_pwr (s : State) (a : Nat) (b : Bytes) : (wrNor1 s a b).pwr = s.pwr := rfl
@[simp] theorem wrNor1_fresh (s : State) (a : Nat) (b : Bytes) : (wrNor1 s a b).fresh = s.fresh := rfl
@[simp] theorem wrNor1_pending (s : State) (a : Nat) (b : Bytes) : (wrNor1 s a b).pending = s.pending := rfl

/-! `bondProgram` changes `hold`. -/
@[simp] theorem bondProgram_mem (s : State) (n : Nat) : (bondProgram s n).mem = s.mem := rfl
@[simp] theorem bondProgram_hostA (s : State) (n : Nat) : (bondProgram s n).hostA = s.hostA := rfl
@[simp] theorem bondProgram_hostB (s : State) (n : Nat) : (bondProgram s n).hostB = s.hostB := rfl
@[simp] theorem bondProgram_nor0 (s : State) (n : Nat) : (bondProgram s n).nor0 = s.nor0 := rfl
@[simp] theorem bondProgram_nor1 (s : State) (n : Nat) : (bondProgram s n).nor1 = s.nor1 := rfl
@[simp] theorem bondProgram_cores (s : State) (n : Nat) : (bondProgram s n).cores = s.cores := rfl
@[simp] theorem bondProgram_par (s : State) (n : Nat) : (bondProgram s n).par = s.par := rfl
@[simp] theorem bondProgram_arbs (s : State) (n : Nat) : (bondProgram s n).arbs = s.arbs := rfl
@[simp] theorem bondProgram_stp (s : State) (n : Nat) : (bondProgram s n).stp = s.stp := rfl
@[simp] theorem bondProgram_lock (s : State) (n : Nat) : (bondProgram s n).lock = s.lock := rfl
@[simp] theorem bondProgram_streams (s : State) (n : Nat) : (bondProgram s n).streams = s.streams := rfl
@[simp] theorem bondProgram_slips (s : State) (n : Nat) : (bondProgram s n).slips = s.slips := rfl
@[simp] theorem bondProgram_fab (s : State) (n : Nat) : (bondProgram s n).fab = s.fab := rfl
@[simp] theorem bondProgram_hold (s : State) (n : Nat) : (bondProgram s n).hold = { s.hold with bondProg := s.hold.bondProg + n } := rfl
@[simp] theorem bondProgram_spr (s : State) (n : Nat) : (bondProgram s n).spr = s.spr := rfl
@[simp] theorem bondProgram_pln (s : State) (n : Nat) : (bondProgram s n).pln = s.pln := rfl
@[simp] theorem bondProgram_sec (s : State) (n : Nat) : (bondProgram s n).sec = s.sec := rfl
@[simp] theorem bondProgram_own (s : State) (n : Nat) : (bondProgram s n).own = s.own := rfl
@[simp] theorem bondProgram_queues (s : State) (n : Nat) : (bondProgram s n).queues = s.queues := rfl
@[simp] theorem bondProgram_ctl (s : State) (n : Nat) : (bondProgram s n).ctl = s.ctl := rfl
@[simp] theorem bondProgram_masters (s : State) (n : Nat) : (bondProgram s n).masters = s.masters := rfl
@[simp] theorem bondProgram_staged (s : State) (n : Nat) : (bondProgram s n).staged = s.staged := rfl
@[simp] theorem bondProgram_fns (s : State) (n : Nat) : (bondProgram s n).fns = s.fns := rfl
@[simp] theorem bondProgram_ports (s : State) (n : Nat) : (bondProgram s n).ports = s.ports := rfl
@[simp] theorem bondProgram_bus (s : State) (n : Nat) : (bondProgram s n).bus = s.bus := rfl
@[simp] theorem bondProgram_clk (s : State) (n : Nat) : (bondProgram s n).clk = s.clk := rfl
@[simp] theorem bondProgram_pwr (s : State) (n : Nat) : (bondProgram s n).pwr = s.pwr := rfl
@[simp] theorem bondProgram_fresh (s : State) (n : Nat) : (bondProgram s n).fresh = s.fresh := rfl
@[simp] theorem bondProgram_pending (s : State) (n : Nat) : (bondProgram s n).pending = s.pending := rfl

/-! `wrHost` changes one host memory. -/
@[simp] theorem wrHost_mem (s : State) (link : Bool) (a : Nat) (b : Bytes) : (wrHost s link a b).mem = s.mem := by cases link <;> rfl
@[simp] theorem wrHost_hostA (s : State) (link : Bool) (a : Nat) (b : Bytes) : (wrHost s link a b).hostA = if link then s.hostA else wr s.hostA a b := by cases link <;> rfl
@[simp] theorem wrHost_hostB (s : State) (link : Bool) (a : Nat) (b : Bytes) : (wrHost s link a b).hostB = if link then wr s.hostB a b else s.hostB := by cases link <;> rfl
@[simp] theorem wrHost_nor0 (s : State) (link : Bool) (a : Nat) (b : Bytes) : (wrHost s link a b).nor0 = s.nor0 := by cases link <;> rfl
@[simp] theorem wrHost_nor1 (s : State) (link : Bool) (a : Nat) (b : Bytes) : (wrHost s link a b).nor1 = s.nor1 := by cases link <;> rfl
@[simp] theorem wrHost_cores (s : State) (link : Bool) (a : Nat) (b : Bytes) : (wrHost s link a b).cores = s.cores := by cases link <;> rfl
@[simp] theorem wrHost_par (s : State) (link : Bool) (a : Nat) (b : Bytes) : (wrHost s link a b).par = s.par := by cases link <;> rfl
@[simp] theorem wrHost_arbs (s : State) (link : Bool) (a : Nat) (b : Bytes) : (wrHost s link a b).arbs = s.arbs := by cases link <;> rfl
@[simp] theorem wrHost_stp (s : State) (link : Bool) (a : Nat) (b : Bytes) : (wrHost s link a b).stp = s.stp := by cases link <;> rfl
@[simp] theorem wrHost_lock (s : State) (link : Bool) (a : Nat) (b : Bytes) : (wrHost s link a b).lock = s.lock := by cases link <;> rfl
@[simp] theorem wrHost_streams (s : State) (link : Bool) (a : Nat) (b : Bytes) : (wrHost s link a b).streams = s.streams := by cases link <;> rfl
@[simp] theorem wrHost_slips (s : State) (link : Bool) (a : Nat) (b : Bytes) : (wrHost s link a b).slips = s.slips := by cases link <;> rfl
@[simp] theorem wrHost_fab (s : State) (link : Bool) (a : Nat) (b : Bytes) : (wrHost s link a b).fab = s.fab := by cases link <;> rfl
@[simp] theorem wrHost_hold (s : State) (link : Bool) (a : Nat) (b : Bytes) : (wrHost s link a b).hold = s.hold := by cases link <;> rfl
@[simp] theorem wrHost_spr (s : State) (link : Bool) (a : Nat) (b : Bytes) : (wrHost s link a b).spr = s.spr := by cases link <;> rfl
@[simp] theorem wrHost_pln (s : State) (link : Bool) (a : Nat) (b : Bytes) : (wrHost s link a b).pln = s.pln := by cases link <;> rfl
@[simp] theorem wrHost_sec (s : State) (link : Bool) (a : Nat) (b : Bytes) : (wrHost s link a b).sec = s.sec := by cases link <;> rfl
@[simp] theorem wrHost_own (s : State) (link : Bool) (a : Nat) (b : Bytes) : (wrHost s link a b).own = s.own := by cases link <;> rfl
@[simp] theorem wrHost_queues (s : State) (link : Bool) (a : Nat) (b : Bytes) : (wrHost s link a b).queues = s.queues := by cases link <;> rfl
@[simp] theorem wrHost_ctl (s : State) (link : Bool) (a : Nat) (b : Bytes) : (wrHost s link a b).ctl = s.ctl := by cases link <;> rfl
@[simp] theorem wrHost_masters (s : State) (link : Bool) (a : Nat) (b : Bytes) : (wrHost s link a b).masters = s.masters := by cases link <;> rfl
@[simp] theorem wrHost_staged (s : State) (link : Bool) (a : Nat) (b : Bytes) : (wrHost s link a b).staged = s.staged := by cases link <;> rfl
@[simp] theorem wrHost_fns (s : State) (link : Bool) (a : Nat) (b : Bytes) : (wrHost s link a b).fns = s.fns := by cases link <;> rfl
@[simp] theorem wrHost_ports (s : State) (link : Bool) (a : Nat) (b : Bytes) : (wrHost s link a b).ports = s.ports := by cases link <;> rfl
@[simp] theorem wrHost_bus (s : State) (link : Bool) (a : Nat) (b : Bytes) : (wrHost s link a b).bus = s.bus := by cases link <;> rfl
@[simp] theorem wrHost_clk (s : State) (link : Bool) (a : Nat) (b : Bytes) : (wrHost s link a b).clk = s.clk := by cases link <;> rfl
@[simp] theorem wrHost_pwr (s : State) (link : Bool) (a : Nat) (b : Bytes) : (wrHost s link a b).pwr = s.pwr := by cases link <;> rfl
@[simp] theorem wrHost_fresh (s : State) (link : Bool) (a : Nat) (b : Bytes) : (wrHost s link a b).fresh = s.fresh := by cases link <;> rfl
@[simp] theorem wrHost_pending (s : State) (link : Bool) (a : Nat) (b : Bytes) : (wrHost s link a b).pending = s.pending := by cases link <;> rfl

/-! `mirrored` changes `stp.mirror` alone (R365); `flip` the bank pointer and C. -/
@[simp] theorem mirrored_mem (s : State) : (mirrored s).mem = s.mem := by unfold mirrored; split <;> rfl
@[simp] theorem mirrored_hostA (s : State) : (mirrored s).hostA = s.hostA := by unfold mirrored; split <;> rfl
@[simp] theorem mirrored_hostB (s : State) : (mirrored s).hostB = s.hostB := by unfold mirrored; split <;> rfl
@[simp] theorem mirrored_nor0 (s : State) : (mirrored s).nor0 = s.nor0 := by unfold mirrored; split <;> rfl
@[simp] theorem mirrored_nor1 (s : State) : (mirrored s).nor1 = s.nor1 := by unfold mirrored; split <;> rfl
@[simp] theorem mirrored_cores (s : State) : (mirrored s).cores = s.cores := by unfold mirrored; split <;> rfl
@[simp] theorem mirrored_par (s : State) : (mirrored s).par = s.par := by unfold mirrored; split <;> rfl
@[simp] theorem mirrored_arbs (s : State) : (mirrored s).arbs = s.arbs := by unfold mirrored; split <;> rfl
@[simp] theorem mirrored_lock (s : State) : (mirrored s).lock = s.lock := by unfold mirrored; split <;> rfl
@[simp] theorem mirrored_streams (s : State) : (mirrored s).streams = s.streams := by unfold mirrored; split <;> rfl
@[simp] theorem mirrored_slips (s : State) : (mirrored s).slips = s.slips := by unfold mirrored; split <;> rfl
@[simp] theorem mirrored_fab (s : State) : (mirrored s).fab = s.fab := by unfold mirrored; split <;> rfl
@[simp] theorem mirrored_hold (s : State) : (mirrored s).hold = s.hold := by unfold mirrored; split <;> rfl
@[simp] theorem mirrored_spr (s : State) : (mirrored s).spr = s.spr := by unfold mirrored; split <;> rfl
@[simp] theorem mirrored_pln (s : State) : (mirrored s).pln = s.pln := by unfold mirrored; split <;> rfl
@[simp] theorem mirrored_sec (s : State) : (mirrored s).sec = s.sec := by unfold mirrored; split <;> rfl
@[simp] theorem mirrored_own (s : State) : (mirrored s).own = s.own := by unfold mirrored; split <;> rfl
@[simp] theorem mirrored_queues (s : State) : (mirrored s).queues = s.queues := by unfold mirrored; split <;> rfl
@[simp] theorem mirrored_ctl (s : State) : (mirrored s).ctl = s.ctl := by unfold mirrored; split <;> rfl
@[simp] theorem mirrored_masters (s : State) : (mirrored s).masters = s.masters := by unfold mirrored; split <;> rfl
@[simp] theorem mirrored_staged (s : State) : (mirrored s).staged = s.staged := by unfold mirrored; split <;> rfl
@[simp] theorem mirrored_fns (s : State) : (mirrored s).fns = s.fns := by unfold mirrored; split <;> rfl
@[simp] theorem mirrored_ports (s : State) : (mirrored s).ports = s.ports := by unfold mirrored; split <;> rfl
@[simp] theorem mirrored_bus (s : State) : (mirrored s).bus = s.bus := by unfold mirrored; split <;> rfl
@[simp] theorem mirrored_clk (s : State) : (mirrored s).clk = s.clk := by unfold mirrored; split <;> rfl
@[simp] theorem mirrored_pwr (s : State) : (mirrored s).pwr = s.pwr := by unfold mirrored; split <;> rfl
@[simp] theorem mirrored_fresh (s : State) : (mirrored s).fresh = s.fresh := by unfold mirrored; split <;> rfl
@[simp] theorem mirrored_pending (s : State) : (mirrored s).pending = s.pending := by unfold mirrored; split <;> rfl
@[simp] theorem mirrored_stp_state (s : State) : (mirrored s).stp.state = s.stp.state := by unfold mirrored; split <;> rfl
@[simp] theorem mirrored_stp_prior (s : State) : (mirrored s).stp.prior = s.stp.prior := by unfold mirrored; split <;> rfl
@[simp] theorem mirrored_stp_stopPend (s : State) : (mirrored s).stp.stopPend = s.stp.stopPend := by unfold mirrored; split <;> rfl
@[simp] theorem mirrored_stp_bank (s : State) : (mirrored s).stp.bank = s.stp.bank := by unfold mirrored; split <;> rfl
@[simp] theorem mirrored_stp_pass (s : State) : (mirrored s).stp.pass = s.stp.pass := by unfold mirrored; split <;> rfl
@[simp] theorem mirrored_stp_phase (s : State) : (mirrored s).stp.phase = s.stp.phase := by unfold mirrored; split <;> rfl
@[simp] theorem mirrored_stp_c (s : State) : (mirrored s).stp.c = s.stp.c := by unfold mirrored; split <;> rfl
@[simp] theorem mirrored_stp_a (s : State) : (mirrored s).stp.a = s.stp.a := by unfold mirrored; split <;> rfl
@[simp] theorem mirrored_stp_epoch (s : State) : (mirrored s).stp.epoch = s.stp.epoch := by unfold mirrored; split <;> rfl
@[simp] theorem mirrored_stp_layout (s : State) : (mirrored s).stp.layout = s.stp.layout := by unfold mirrored; split <;> rfl
@[simp] theorem mirrored_stp_last (s : State) : (mirrored s).stp.last = s.stp.last := by unfold mirrored; split <;> rfl
@[simp] theorem mirrored_stp_normHi (s : State) : (mirrored s).stp.normHi = s.stp.normHi := by unfold mirrored; split <;> rfl
@[simp] theorem mirrored_stp_tally (s : State) : (mirrored s).stp.tally = s.stp.tally := by unfold mirrored; split <;> rfl
@[simp] theorem mirrored_stp_skips (s : State) : (mirrored s).stp.skips = s.stp.skips := by unfold mirrored; split <;> rfl
@[simp] theorem mirrored_stp_att (s : State) : (mirrored s).stp.att = s.stp.att := by unfold mirrored; split <;> rfl
@[simp] theorem mirrored_stp_lastTag (s : State) : (mirrored s).stp.lastTag = s.stp.lastTag := by unfold mirrored; split <;> rfl
@[simp] theorem mirrored_stp_curTag (s : State) : (mirrored s).stp.curTag = s.stp.curTag := by unfold mirrored; split <;> rfl
@[simp] theorem mirrored_stp_commits (s : State) : (mirrored s).stp.commits = s.stp.commits := by unfold mirrored; split <;> rfl
@[simp] theorem mirrored_stp_advances (s : State) : (mirrored s).stp.advances = s.stp.advances := by unfold mirrored; split <;> rfl
@[simp] theorem mirrored_stp_ended (s : State) : (mirrored s).stp.ended = s.stp.ended := by unfold mirrored; split <;> rfl
@[simp] theorem mirrored_stp_kept (s : State) : (mirrored s).stp.kept = s.stp.kept := by unfold mirrored; split <;> rfl
@[simp] theorem mirrored_stp_abortsSeen (s : State) : (mirrored s).stp.abortsSeen = s.stp.abortsSeen := by unfold mirrored; split <;> rfl
@[simp] theorem flip_mem (s : State) : (flip s).mem = s.mem := by simp [flip]
@[simp] theorem flip_hostA (s : State) : (flip s).hostA = s.hostA := by simp [flip]
@[simp] theorem flip_hostB (s : State) : (flip s).hostB = s.hostB := by simp [flip]
@[simp] theorem flip_nor0 (s : State) : (flip s).nor0 = s.nor0 := by simp [flip]
@[simp] theorem flip_nor1 (s : State) : (flip s).nor1 = s.nor1 := by simp [flip]
@[simp] theorem flip_cores (s : State) : (flip s).cores = s.cores := by simp [flip]
@[simp] theorem flip_par (s : State) : (flip s).par = s.par := by simp [flip]
@[simp] theorem flip_arbs (s : State) : (flip s).arbs = s.arbs := by simp [flip]
@[simp] theorem flip_lock (s : State) : (flip s).lock = s.lock := by simp [flip]
@[simp] theorem flip_streams (s : State) : (flip s).streams = s.streams := by simp [flip]
@[simp] theorem flip_slips (s : State) : (flip s).slips = s.slips := by simp [flip]
@[simp] theorem flip_fab (s : State) : (flip s).fab = s.fab := by simp [flip]
@[simp] theorem flip_hold (s : State) : (flip s).hold = s.hold := by simp [flip]
@[simp] theorem flip_spr (s : State) : (flip s).spr = s.spr := by simp [flip]
@[simp] theorem flip_pln (s : State) : (flip s).pln = s.pln := by simp [flip]
@[simp] theorem flip_sec (s : State) : (flip s).sec = s.sec := by simp [flip]
@[simp] theorem flip_own (s : State) : (flip s).own = s.own := by simp [flip]
@[simp] theorem flip_queues (s : State) : (flip s).queues = s.queues := by simp [flip]
@[simp] theorem flip_ctl (s : State) : (flip s).ctl = s.ctl := by simp [flip]
@[simp] theorem flip_masters (s : State) : (flip s).masters = s.masters := by simp [flip]
@[simp] theorem flip_staged (s : State) : (flip s).staged = s.staged := by simp [flip]
@[simp] theorem flip_fns (s : State) : (flip s).fns = s.fns := by simp [flip]
@[simp] theorem flip_ports (s : State) : (flip s).ports = s.ports := by simp [flip]
@[simp] theorem flip_bus (s : State) : (flip s).bus = s.bus := by simp [flip]
@[simp] theorem flip_clk (s : State) : (flip s).clk = s.clk := by simp [flip]
@[simp] theorem flip_pwr (s : State) : (flip s).pwr = s.pwr := by simp [flip]
@[simp] theorem flip_fresh (s : State) : (flip s).fresh = s.fresh := by simp [flip]
@[simp] theorem flip_pending (s : State) : (flip s).pending = s.pending := by simp [flip]
@[simp] theorem flip_stp_state (s : State) : (flip s).stp.state = s.stp.state := by simp [flip]
@[simp] theorem flip_stp_prior (s : State) : (flip s).stp.prior = s.stp.prior := by simp [flip]
@[simp] theorem flip_stp_stopPend (s : State) : (flip s).stp.stopPend = s.stp.stopPend := by simp [flip]
@[simp] theorem flip_stp_bank (s : State) : (flip s).stp.bank = !s.stp.bank := by simp [flip]
@[simp] theorem flip_stp_pass (s : State) : (flip s).stp.pass = s.stp.pass := by simp [flip]
@[simp] theorem flip_stp_phase (s : State) : (flip s).stp.phase = s.stp.phase := by simp [flip]
@[simp] theorem flip_stp_c (s : State) : (flip s).stp.c = s.stp.c + 1 := by simp [flip]
@[simp] theorem flip_stp_a (s : State) : (flip s).stp.a = s.stp.a := by simp [flip]
@[simp] theorem flip_stp_epoch (s : State) : (flip s).stp.epoch = s.stp.epoch := by simp [flip]
@[simp] theorem flip_stp_layout (s : State) : (flip s).stp.layout = s.stp.layout := by simp [flip]
@[simp] theorem flip_stp_last (s : State) : (flip s).stp.last = s.stp.last := by simp [flip]
@[simp] theorem flip_stp_normHi (s : State) : (flip s).stp.normHi = s.stp.normHi := by simp [flip]
@[simp] theorem flip_stp_tally (s : State) : (flip s).stp.tally = s.stp.tally := by simp [flip]
@[simp] theorem flip_stp_skips (s : State) : (flip s).stp.skips = s.stp.skips := by simp [flip]
@[simp] theorem flip_stp_att (s : State) : (flip s).stp.att = s.stp.att := by simp [flip]
@[simp] theorem flip_stp_lastTag (s : State) : (flip s).stp.lastTag = s.stp.lastTag := by simp [flip]
@[simp] theorem flip_stp_curTag (s : State) : (flip s).stp.curTag = s.stp.curTag := by simp [flip]
@[simp] theorem flip_stp_commits (s : State) : (flip s).stp.commits = s.stp.commits := by simp [flip]
@[simp] theorem flip_stp_advances (s : State) : (flip s).stp.advances = s.stp.advances := by simp [flip]
@[simp] theorem flip_stp_ended (s : State) : (flip s).stp.ended = s.stp.ended := by simp [flip]
@[simp] theorem flip_stp_kept (s : State) : (flip s).stp.kept = s.stp.kept := by simp [flip]
@[simp] theorem flip_stp_abortsSeen (s : State) : (flip s).stp.abortsSeen = s.stp.abortsSeen := by simp [flip]

end Sys2Proof.Machine
end

