-- ==== Sys2Proof/Laws/Events.lean ====
section
/-! SUPPORT. What raising an event and ending a job entry can change: the event queues, the MSI-X state, the management
buffers, the bus and the host memories, and nothing else. -/
namespace Sys2Proof.Safety
open Sys2Proof Sys2Proof.Machine

theorem eventsOnly.refl (s : State) : eventsOnly s s :=
  ⟨_, _, _, _, _, _, rfl, id, id, rfl, rfl, rfl, rfl, rfl, rfl⟩

theorem eventsOnly.trans {s t u : State} (h : eventsOnly s t) (k : eventsOnly t u) : eventsOnly s u := by
  obtain ⟨a, b, q, f, p, v, rfl, h1, h2, h3, h4, h5, h6, h7, h8⟩ := h
  obtain ⟨a', b', q', f', p', v', rfl, k1, k2, k3, k4, k5, k6, k7, k8⟩ := k
  exact ⟨a', b', q', f', p', v', rfl, fun x => k1 (h1 x), fun x => k2 (h2 x), k3.trans h3, k4.trans h4, k5.trans h5,
    k6.trans h6, k7.trans h7, k8.trans h8⟩

theorem eventsOnly.foldl {ι : Type} (g : State → ι → State) (hg : ∀ s i, eventsOnly s (g s i)) (l : List ι) (s : State) :
    eventsOnly s (l.foldl g s) := by
  induction l generalizing s with
  | nil => exact eventsOnly.refl s
  | cons i l ih => exact (hg s i).trans (ih _)

theorem eventsOnly.foldl_fst {ι κ : Type} (g : State × κ → ι → State × κ) (hg : ∀ a i, eventsOnly a.1 (g a i).1)
    (l : List ι) (a : State × κ) : eventsOnly a.1 (l.foldl g a).1 := by
  induction l generalizing a with
  | nil => exact eventsOnly.refl a.1
  | cons i l ih => exact (hg a i).trans (ih _)

end Sys2Proof.Safety

namespace Sys2Proof.Machine
open Sys2Proof Sys2Proof.Safety

theorem setQueue_frame (s : State) (q : Nat) (x : Queue) : eventsOnly s (setQueue s q x) :=
  ⟨_, _, _, _, _, _, rfl, id, id, rfl, rfl, rfl, rfl, rfl, rfl⟩
theorem setFn_frame (s : State) (l : Nat) (x : Fn) : eventsOnly s (setFn s l x) :=
  ⟨_, _, _, _, _, _, rfl, id, id, rfl, rfl, rfl, rfl, rfl, rfl⟩
theorem setMgmt_frame (s : State) (p : Nat) (x : Mgmt) : eventsOnly s (setMgmt s p x) :=
  ⟨_, _, _, _, _, _, rfl, id, id, rfl, rfl, rfl, rfl, rfl, rfl⟩

theorem wrHost_frame (s : State) (l : Bool) (a : Nat) (b : Bytes) : eventsOnly s (wrHost s l a b) := by
  cases l
  · exact ⟨_, _, _, _, _, _, rfl, Memory.wf_wr a b, id, rfl, rfl, rfl, rfl, rfl, rfl⟩
  · exact ⟨_, _, _, _, _, _, rfl, id, Memory.wf_wr a b, rfl, rfl, rfl, rfl, rfl, rfl⟩

theorem msixSend_frame (s : State) (l v : Nat) : eventsOnly s (msixSend s l v) := by
  unfold msixSend
  dsimp only
  split
  · exact setFn_frame ..
  · exact ⟨_, _, _, _, _, _, rfl, id, id, rfl, rfl, rfl, rfl, rfl, rfl⟩

theorem evqSignal_frame (s : State) (q : Nat) : eventsOnly s (evqSignal s q) := by
  unfold evqSignal
  dsimp only
  split
  · exact eventsOnly.refl s
  · exact (setQueue_frame ..).trans (msixSend_frame ..)

theorem evqPush_frame (s : State) (q : Nat) (e : Event) : eventsOnly s (evqPush s q e).1 := by
  unfold evqPush
  dsimp only
  repeat' split
  all_goals first
    | exact setQueue_frame ..
    | exact ((wrHost_frame ..).trans (setQueue_frame ..)).trans (evqSignal_frame ..)
    | exact (wrHost_frame ..).trans (setQueue_frame ..)

theorem mgmtPush_frame (s : State) (p : Nat) (e : Event) : eventsOnly s (mgmtPush s p e).1 := by
  unfold mgmtPush
  dsimp only
  repeat' split
  all_goals first
    | exact setMgmt_frame ..
    | exact (setMgmt_frame ..).trans ⟨_, _, _, _, _, _, rfl, id, id, rfl, rfl, rfl, rfl, rfl, rfl⟩

theorem deliver_frame (s : State) (e : Event) : eventsOnly s (deliver s e).1 := by
  unfold deliver
  have hq (a : State × List Event) (q : Nat) : eventsOnly a.1 (gather (fun s q => evqPush s q e) a q).1 := evqPush_frame ..
  have hp (a : State × List Event) (p : Nat) : eventsOnly a.1 (gather (fun s p => mgmtPush s p e) a p).1 := mgmtPush_frame ..
  dsimp only
  split
  · exact eventsOnly.refl s
  · split
    · exact (eventsOnly.foldl_fst _ hq _ (s, [])).trans (eventsOnly.foldl_fst _ hp _ _)
    · exact eventsOnly.foldl_fst _ hq _ (s, [])

/-- Delivering events and what follows them changes only where events are delivered. -/
theorem deliverRounds_frame (n : Nat) (es : List Event) (s : State) : eventsOnly s (deliverRounds n es s) := by
  induction n generalizing es s with
  | zero => exact eventsOnly.refl s
  | succ n ih =>
    exact (eventsOnly.foldl_fst (fun acc e => let d := deliver acc.1 e; (d.1, acc.2 ++ d.2))
      (fun a e => deliver_frame a.1 e) es (s, [])).trans (ih ..)

/-- Raising an event changes only where events are delivered. -/
theorem raise_frame (s : State) (code src : Nat) (payload : Bytes) : eventsOnly s (raise s code src payload) :=
  deliverRounds_frame ..

theorem jobDone_frame (s : State) (j : JobEnt) (status code : Nat) : eventsOnly s (jobDone s j status code) := by
  unfold jobDone
  split
  · exact raise_frame ..
  · exact eventsOnly.refl s

theorem raiseJobInvalid_frame (s : State) (j : JobEnt) : eventsOnly s (raiseJobInvalid s j) := raise_frame ..

/-! The fields that an event leaves as they are, one by one. -/
@[simp] theorem raise_mem (s : State) (code src : Nat) (payload : Bytes) : (raise s code src payload).mem = s.mem := by
  obtain ⟨_, _, _, _, _, _, h, _⟩ := raise_frame s code src payload; rw [h]
@[simp] theorem raise_nor0 (s : State) (code src : Nat) (payload : Bytes) : (raise s code src payload).nor0 = s.nor0 := by
  obtain ⟨_, _, _, _, _, _, h, _⟩ := raise_frame s code src payload; rw [h]
@[simp] theorem raise_nor1 (s : State) (code src : Nat) (payload : Bytes) : (raise s code src payload).nor1 = s.nor1 := by
  obtain ⟨_, _, _, _, _, _, h, _⟩ := raise_frame s code src payload; rw [h]
@[simp] theorem raise_cores (s : State) (code src : Nat) (payload : Bytes) : (raise s code src payload).cores = s.cores := by
  obtain ⟨_, _, _, _, _, _, h, _⟩ := raise_frame s code src payload; rw [h]
@[simp] theorem raise_par (s : State) (code src : Nat) (payload : Bytes) : (raise s code src payload).par = s.par := by
  obtain ⟨_, _, _, _, _, _, h, _⟩ := raise_frame s code src payload; rw [h]
@[simp] theorem raise_arbs (s : State) (code src : Nat) (payload : Bytes) : (raise s code src payload).arbs = s.arbs := by
  obtain ⟨_, _, _, _, _, _, h, _⟩ := raise_frame s code src payload; rw [h]
@[simp] theorem raise_stp (s : State) (code src : Nat) (payload : Bytes) : (raise s code src payload).stp = s.stp := by
  obtain ⟨_, _, _, _, _, _, h, _⟩ := raise_frame s code src payload; rw [h]
@[simp] theorem raise_lock (s : State) (code src : Nat) (payload : Bytes) : (raise s code src payload).lock = s.lock := by
  obtain ⟨_, _, _, _, _, _, h, _⟩ := raise_frame s code src payload; rw [h]
@[simp] theorem raise_streams (s : State) (code src : Nat) (payload : Bytes) : (raise s code src payload).streams = s.streams := by
  obtain ⟨_, _, _, _, _, _, h, _⟩ := raise_frame s code src payload; rw [h]
@[simp] theorem raise_slips (s : State) (code src : Nat) (payload : Bytes) : (raise s code src payload).slips = s.slips := by
  obtain ⟨_, _, _, _, _, _, h, _⟩ := raise_frame s code src payload; rw [h]
@[simp] theorem raise_fab (s : State) (code src : Nat) (payload : Bytes) : (raise s code src payload).fab = s.fab := by
  obtain ⟨_, _, _, _, _, _, h, _⟩ := raise_frame s code src payload; rw [h]
@[simp] theorem raise_hold (s : State) (code src : Nat) (payload : Bytes) : (raise s code src payload).hold = s.hold := by
  obtain ⟨_, _, _, _, _, _, h, _⟩ := raise_frame s code src payload; rw [h]
@[simp] theorem raise_spr (s : State) (code src : Nat) (payload : Bytes) : (raise s code src payload).spr = s.spr := by
  obtain ⟨_, _, _, _, _, _, h, _⟩ := raise_frame s code src payload; rw [h]
@[simp] theorem raise_pln (s : State) (code src : Nat) (payload : Bytes) : (raise s code src payload).pln = s.pln := by
  obtain ⟨_, _, _, _, _, _, h, _⟩ := raise_frame s code src payload; rw [h]
@[simp] theorem raise_sec (s : State) (code src : Nat) (payload : Bytes) : (raise s code src payload).sec = s.sec := by
  obtain ⟨_, _, _, _, _, _, h, _⟩ := raise_frame s code src payload; rw [h]
@[simp] theorem raise_own (s : State) (code src : Nat) (payload : Bytes) : (raise s code src payload).own = s.own := by
  obtain ⟨_, _, _, _, _, _, h, _⟩ := raise_frame s code src payload; rw [h]
@[simp] theorem raise_ctl (s : State) (code src : Nat) (payload : Bytes) : (raise s code src payload).ctl = s.ctl := by
  obtain ⟨_, _, _, _, _, _, h, _⟩ := raise_frame s code src payload; rw [h]
@[simp] theorem raise_masters (s : State) (code src : Nat) (payload : Bytes) : (raise s code src payload).masters = s.masters := by
  obtain ⟨_, _, _, _, _, _, h, _⟩ := raise_frame s code src payload; rw [h]
@[simp] theorem raise_staged (s : State) (code src : Nat) (payload : Bytes) : (raise s code src payload).staged = s.staged := by
  obtain ⟨_, _, _, _, _, _, h, _⟩ := raise_frame s code src payload; rw [h]
@[simp] theorem raise_clk (s : State) (code src : Nat) (payload : Bytes) : (raise s code src payload).clk = s.clk := by
  obtain ⟨_, _, _, _, _, _, h, _⟩ := raise_frame s code src payload; rw [h]
@[simp] theorem raise_pwr (s : State) (code src : Nat) (payload : Bytes) : (raise s code src payload).pwr = s.pwr := by
  obtain ⟨_, _, _, _, _, _, h, _⟩ := raise_frame s code src payload; rw [h]
@[simp] theorem raise_fresh (s : State) (code src : Nat) (payload : Bytes) : (raise s code src payload).fresh = s.fresh := by
  obtain ⟨_, _, _, _, _, _, h, _⟩ := raise_frame s code src payload; rw [h]
@[simp] theorem raise_pending (s : State) (code src : Nat) (payload : Bytes) : (raise s code src payload).pending = s.pending := by
  obtain ⟨_, _, _, _, _, _, h, _⟩ := raise_frame s code src payload; rw [h]
@[simp] theorem jobDone_mem (s : State) (j : JobEnt) (st code : Nat) : (jobDone s j st code).mem = s.mem := by
  obtain ⟨_, _, _, _, _, _, h, _⟩ := jobDone_frame s j st code; rw [h]
@[simp] theorem jobDone_nor0 (s : State) (j : JobEnt) (st code : Nat) : (jobDone s j st code).nor0 = s.nor0 := by
  obtain ⟨_, _, _, _, _, _, h, _⟩ := jobDone_frame s j st code; rw [h]
@[simp] theorem jobDone_nor1 (s : State) (j : JobEnt) (st code : Nat) : (jobDone s j st code).nor1 = s.nor1 := by
  obtain ⟨_, _, _, _, _, _, h, _⟩ := jobDone_frame s j st code; rw [h]
@[simp] theorem jobDone_cores (s : State) (j : JobEnt) (st code : Nat) : (jobDone s j st code).cores = s.cores := by
  obtain ⟨_, _, _, _, _, _, h, _⟩ := jobDone_frame s j st code; rw [h]
@[simp] theorem jobDone_par (s : State) (j : JobEnt) (st code : Nat) : (jobDone s j st code).par = s.par := by
  obtain ⟨_, _, _, _, _, _, h, _⟩ := jobDone_frame s j st code; rw [h]
@[simp] theorem jobDone_arbs (s : State) (j : JobEnt) (st code : Nat) : (jobDone s j st code).arbs = s.arbs := by
  obtain ⟨_, _, _, _, _, _, h, _⟩ := jobDone_frame s j st code; rw [h]
@[simp] theorem jobDone_stp (s : State) (j : JobEnt) (st code : Nat) : (jobDone s j st code).stp = s.stp := by
  obtain ⟨_, _, _, _, _, _, h, _⟩ := jobDone_frame s j st code; rw [h]
@[simp] theorem jobDone_lock (s : State) (j : JobEnt) (st code : Nat) : (jobDone s j st code).lock = s.lock := by
  obtain ⟨_, _, _, _, _, _, h, _⟩ := jobDone_frame s j st code; rw [h]
@[simp] theorem jobDone_streams (s : State) (j : JobEnt) (st code : Nat) : (jobDone s j st code).streams = s.streams := by
  obtain ⟨_, _, _, _, _, _, h, _⟩ := jobDone_frame s j st code; rw [h]
@[simp] theorem jobDone_slips (s : State) (j : JobEnt) (st code : Nat) : (jobDone s j st code).slips = s.slips := by
  obtain ⟨_, _, _, _, _, _, h, _⟩ := jobDone_frame s j st code; rw [h]
@[simp] theorem jobDone_fab (s : State) (j : JobEnt) (st code : Nat) : (jobDone s j st code).fab = s.fab := by
  obtain ⟨_, _, _, _, _, _, h, _⟩ := jobDone_frame s j st code; rw [h]
@[simp] theorem jobDone_hold (s : State) (j : JobEnt) (st code : Nat) : (jobDone s j st code).hold = s.hold := by
  obtain ⟨_, _, _, _, _, _, h, _⟩ := jobDone_frame s j st code; rw [h]
@[simp] theorem jobDone_spr (s : State) (j : JobEnt) (st code : Nat) : (jobDone s j st code).spr = s.spr := by
  obtain ⟨_, _, _, _, _, _, h, _⟩ := jobDone_frame s j st code; rw [h]
@[simp] theorem jobDone_pln (s : State) (j : JobEnt) (st code : Nat) : (jobDone s j st code).pln = s.pln := by
  obtain ⟨_, _, _, _, _, _, h, _⟩ := jobDone_frame s j st code; rw [h]
@[simp] theorem jobDone_sec (s : State) (j : JobEnt) (st code : Nat) : (jobDone s j st code).sec = s.sec := by
  obtain ⟨_, _, _, _, _, _, h, _⟩ := jobDone_frame s j st code; rw [h]
@[simp] theorem jobDone_own (s : State) (j : JobEnt) (st code : Nat) : (jobDone s j st code).own = s.own := by
  obtain ⟨_, _, _, _, _, _, h, _⟩ := jobDone_frame s j st code; rw [h]
@[simp] theorem jobDone_ctl (s : State) (j : JobEnt) (st code : Nat) : (jobDone s j st code).ctl = s.ctl := by
  obtain ⟨_, _, _, _, _, _, h, _⟩ := jobDone_frame s j st code; rw [h]
@[simp] theorem jobDone_masters (s : State) (j : JobEnt) (st code : Nat) : (jobDone s j st code).masters = s.masters := by
  obtain ⟨_, _, _, _, _, _, h, _⟩ := jobDone_frame s j st code; rw [h]
@[simp] theorem jobDone_staged (s : State) (j : JobEnt) (st code : Nat) : (jobDone s j st code).staged = s.staged := by
  obtain ⟨_, _, _, _, _, _, h, _⟩ := jobDone_frame s j st code; rw [h]
@[simp] theorem jobDone_clk (s : State) (j : JobEnt) (st code : Nat) : (jobDone s j st code).clk = s.clk := by
  obtain ⟨_, _, _, _, _, _, h, _⟩ := jobDone_frame s j st code; rw [h]
@[simp] theorem jobDone_pwr (s : State) (j : JobEnt) (st code : Nat) : (jobDone s j st code).pwr = s.pwr := by
  obtain ⟨_, _, _, _, _, _, h, _⟩ := jobDone_frame s j st code; rw [h]
@[simp] theorem jobDone_fresh (s : State) (j : JobEnt) (st code : Nat) : (jobDone s j st code).fresh = s.fresh := by
  obtain ⟨_, _, _, _, _, _, h, _⟩ := jobDone_frame s j st code; rw [h]
@[simp] theorem jobDone_pending (s : State) (j : JobEnt) (st code : Nat) : (jobDone s j st code).pending = s.pending := by
  obtain ⟨_, _, _, _, _, _, h, _⟩ := jobDone_frame s j st code; rw [h]
@[simp] theorem endControl_mem (s : State) (j : JobEnt) (st code : Nat) : (endControl s j st code).mem = s.mem := by simp [endControl]
@[simp] theorem endControl_nor0 (s : State) (j : JobEnt) (st code : Nat) : (endControl s j st code).nor0 = s.nor0 := by simp [endControl]
@[simp] theorem endControl_nor1 (s : State) (j : JobEnt) (st code : Nat) : (endControl s j st code).nor1 = s.nor1 := by simp [endControl]
@[simp] theorem endControl_cores (s : State) (j : JobEnt) (st code : Nat) : (endControl s j st code).cores = s.cores := by simp [endControl]
@[simp] theorem endControl_par (s : State) (j : JobEnt) (st code : Nat) : (endControl s j st code).par = s.par := by simp [endControl]
@[simp] theorem endControl_arbs (s : State) (j : JobEnt) (st code : Nat) : (endControl s j st code).arbs = s.arbs := by simp [endControl]
@[simp] theorem endControl_stp (s : State) (j : JobEnt) (st code : Nat) : (endControl s j st code).stp = s.stp := by simp [endControl]
@[simp] theorem endControl_lock (s : State) (j : JobEnt) (st code : Nat) : (endControl s j st code).lock = s.lock := by simp [endControl]
@[simp] theorem endControl_streams (s : State) (j : JobEnt) (st code : Nat) : (endControl s j st code).streams = s.streams := by simp [endControl]
@[simp] theorem endControl_slips (s : State) (j : JobEnt) (st code : Nat) : (endControl s j st code).slips = s.slips := by simp [endControl]
@[simp] theorem endControl_fab (s : State) (j : JobEnt) (st code : Nat) : (endControl s j st code).fab = s.fab := by simp [endControl]
@[simp] theorem endControl_hold (s : State) (j : JobEnt) (st code : Nat) : (endControl s j st code).hold = s.hold := by simp [endControl]
@[simp] theorem endControl_spr (s : State) (j : JobEnt) (st code : Nat) : (endControl s j st code).spr = s.spr := by simp [endControl]
@[simp] theorem endControl_pln (s : State) (j : JobEnt) (st code : Nat) : (endControl s j st code).pln = s.pln := by simp [endControl]
@[simp] theorem endControl_sec (s : State) (j : JobEnt) (st code : Nat) : (endControl s j st code).sec = s.sec := by simp [endControl]
@[simp] theorem endControl_own (s : State) (j : JobEnt) (st code : Nat) : (endControl s j st code).own = s.own := by simp [endControl]
@[simp] theorem endControl_masters (s : State) (j : JobEnt) (st code : Nat) : (endControl s j st code).masters = s.masters := by simp [endControl]
@[simp] theorem endControl_staged (s : State) (j : JobEnt) (st code : Nat) : (endControl s j st code).staged = s.staged := by simp [endControl]
@[simp] theorem endControl_clk (s : State) (j : JobEnt) (st code : Nat) : (endControl s j st code).clk = s.clk := by simp [endControl]
@[simp] theorem endControl_pwr (s : State) (j : JobEnt) (st code : Nat) : (endControl s j st code).pwr = s.pwr := by simp [endControl]
@[simp] theorem endControl_fresh (s : State) (j : JobEnt) (st code : Nat) : (endControl s j st code).fresh = s.fresh := by simp [endControl]
@[simp] theorem endControl_pending (s : State) (j : JobEnt) (st code : Nat) : (endControl s j st code).pending = s.pending := by simp [endControl]
@[simp] theorem endFree_mem (s : State) (j : JobEnt) (st code : Nat) : (endFree s j st code).mem = s.mem := by simp [endFree]
@[simp] theorem endFree_nor0 (s : State) (j : JobEnt) (st code : Nat) : (endFree s j st code).nor0 = s.nor0 := by simp [endFree]
@[simp] theorem endFree_nor1 (s : State) (j : JobEnt) (st code : Nat) : (endFree s j st code).nor1 = s.nor1 := by simp [endFree]
@[simp] theorem endFree_cores (s : State) (j : JobEnt) (st code : Nat) : (endFree s j st code).cores = s.cores := by simp [endFree]
@[simp] theorem endFree_par (s : State) (j : JobEnt) (st code : Nat) : (endFree s j st code).par = s.par := by simp [endFree]
@[simp] theorem endFree_arbs (s : State) (j : JobEnt) (st code : Nat) : (endFree s j st code).arbs = s.arbs := by simp [endFree]
@[simp] theorem endFree_stp (s : State) (j : JobEnt) (st code : Nat) : (endFree s j st code).stp = s.stp := by simp [endFree]
@[simp] theorem endFree_lock (s : State) (j : JobEnt) (st code : Nat) : (endFree s j st code).lock = s.lock := by simp [endFree]
@[simp] theorem endFree_streams (s : State) (j : JobEnt) (st code : Nat) : (endFree s j st code).streams = s.streams := by simp [endFree]
@[simp] theorem endFree_slips (s : State) (j : JobEnt) (st code : Nat) : (endFree s j st code).slips = s.slips := by simp [endFree]
@[simp] theorem endFree_fab (s : State) (j : JobEnt) (st code : Nat) : (endFree s j st code).fab = s.fab := by simp [endFree]
@[simp] theorem endFree_hold (s : State) (j : JobEnt) (st code : Nat) : (endFree s j st code).hold = s.hold := by simp [endFree]
@[simp] theorem endFree_spr (s : State) (j : JobEnt) (st code : Nat) : (endFree s j st code).spr = s.spr := by simp [endFree]
@[simp] theorem endFree_pln (s : State) (j : JobEnt) (st code : Nat) : (endFree s j st code).pln = s.pln := by simp [endFree]
@[simp] theorem endFree_sec (s : State) (j : JobEnt) (st code : Nat) : (endFree s j st code).sec = s.sec := by simp [endFree]
@[simp] theorem endFree_own (s : State) (j : JobEnt) (st code : Nat) : (endFree s j st code).own = s.own := by simp [endFree]
@[simp] theorem endFree_masters (s : State) (j : JobEnt) (st code : Nat) : (endFree s j st code).masters = s.masters := by simp [endFree]
@[simp] theorem endFree_staged (s : State) (j : JobEnt) (st code : Nat) : (endFree s j st code).staged = s.staged := by simp [endFree]
@[simp] theorem endFree_clk (s : State) (j : JobEnt) (st code : Nat) : (endFree s j st code).clk = s.clk := by simp [endFree]
@[simp] theorem endFree_pwr (s : State) (j : JobEnt) (st code : Nat) : (endFree s j st code).pwr = s.pwr := by simp [endFree]
@[simp] theorem endFree_fresh (s : State) (j : JobEnt) (st code : Nat) : (endFree s j st code).fresh = s.fresh := by simp [endFree]
@[simp] theorem endFree_pending (s : State) (j : JobEnt) (st code : Nat) : (endFree s j st code).pending = s.pending := by simp [endFree]
@[simp] theorem raiseJobInvalid_mem (s : State) (j : JobEnt) : (raiseJobInvalid s j).mem = s.mem := by simp [raiseJobInvalid]
@[simp] theorem raiseJobInvalid_nor0 (s : State) (j : JobEnt) : (raiseJobInvalid s j).nor0 = s.nor0 := by simp [raiseJobInvalid]
@[simp] theorem raiseJobInvalid_nor1 (s : State) (j : JobEnt) : (raiseJobInvalid s j).nor1 = s.nor1 := by simp [raiseJobInvalid]
@[simp] theorem raiseJobInvalid_cores (s : State) (j : JobEnt) : (raiseJobInvalid s j).cores = s.cores := by simp [raiseJobInvalid]
@[simp] theorem raiseJobInvalid_par (s : State) (j : JobEnt) : (raiseJobInvalid s j).par = s.par := by simp [raiseJobInvalid]
@[simp] theorem raiseJobInvalid_arbs (s : State) (j : JobEnt) : (raiseJobInvalid s j).arbs = s.arbs := by simp [raiseJobInvalid]
@[simp] theorem raiseJobInvalid_stp (s : State) (j : JobEnt) : (raiseJobInvalid s j).stp = s.stp := by simp [raiseJobInvalid]
@[simp] theorem raiseJobInvalid_lock (s : State) (j : JobEnt) : (raiseJobInvalid s j).lock = s.lock := by simp [raiseJobInvalid]
@[simp] theorem raiseJobInvalid_streams (s : State) (j : JobEnt) : (raiseJobInvalid s j).streams = s.streams := by simp [raiseJobInvalid]
@[simp] theorem raiseJobInvalid_slips (s : State) (j : JobEnt) : (raiseJobInvalid s j).slips = s.slips := by simp [raiseJobInvalid]
@[simp] theorem raiseJobInvalid_fab (s : State) (j : JobEnt) : (raiseJobInvalid s j).fab = s.fab := by simp [raiseJobInvalid]
@[simp] theorem raiseJobInvalid_hold (s : State) (j : JobEnt) : (raiseJobInvalid s j).hold = s.hold := by simp [raiseJobInvalid]
@[simp] theorem raiseJobInvalid_spr (s : State) (j : JobEnt) : (raiseJobInvalid s j).spr = s.spr := by simp [raiseJobInvalid]
@[simp] theorem raiseJobInvalid_pln (s : State) (j : JobEnt) : (raiseJobInvalid s j).pln = s.pln := by simp [raiseJobInvalid]
@[simp] theorem raiseJobInvalid_sec (s : State) (j : JobEnt) : (raiseJobInvalid s j).sec = s.sec := by simp [raiseJobInvalid]
@[simp] theorem raiseJobInvalid_own (s : State) (j : JobEnt) : (raiseJobInvalid s j).own = s.own := by simp [raiseJobInvalid]
@[simp] theorem raiseJobInvalid_ctl (s : State) (j : JobEnt) : (raiseJobInvalid s j).ctl = s.ctl := by simp [raiseJobInvalid]
@[simp] theorem raiseJobInvalid_masters (s : State) (j : JobEnt) : (raiseJobInvalid s j).masters = s.masters := by simp [raiseJobInvalid]
@[simp] theorem raiseJobInvalid_staged (s : State) (j : JobEnt) : (raiseJobInvalid s j).staged = s.staged := by simp [raiseJobInvalid]
@[simp] theorem raiseJobInvalid_clk (s : State) (j : JobEnt) : (raiseJobInvalid s j).clk = s.clk := by simp [raiseJobInvalid]
@[simp] theorem raiseJobInvalid_pwr (s : State) (j : JobEnt) : (raiseJobInvalid s j).pwr = s.pwr := by simp [raiseJobInvalid]
@[simp] theorem raiseJobInvalid_fresh (s : State) (j : JobEnt) : (raiseJobInvalid s j).fresh = s.fresh := by simp [raiseJobInvalid]
@[simp] theorem raiseJobInvalid_pending (s : State) (j : JobEnt) : (raiseJobInvalid s j).pending = s.pending := by simp [raiseJobInvalid]

/-- An entry's end changes the control order and where events are delivered. -/
theorem endControl_frame (s : State) (j : JobEnt) (status code : Nat) :
    eventsOnly { s with ctl := { s.ctl with running := none } } (endControl s j status code) := jobDone_frame ..

theorem endFree_frame (s : State) (j : JobEnt) (status code : Nat) :
    eventsOnly { s with ctl := { s.ctl with free := s.ctl.free.filter (· != j) } } (endFree s j status code) :=
  jobDone_frame ..

/-- A signal adds one token where the counter is not at its largest value, and changes nothing else. -/
theorem signalCtr_below (s : State) (c : CoreId) (ctr : Nat) (h : smGet 0 (getCore s c).ctr ctr ≠ tokenMax) :
    signalCtr s c ctr =
      setCore s c { getCore s c with ctr := smSet 0 (getCore s c).ctr ctr (smGet 0 (getCore s c).ctr ctr + 1) } := by
  simp [signalCtr, h]

/-- A signal at a counter that holds its largest value changes only where events are delivered. -/
theorem signalCtr_full (s : State) (c : CoreId) (ctr : Nat) (h : smGet 0 (getCore s c).ctr ctr = tokenMax) :
    eventsOnly s (signalCtr s c ctr) := by
  simp only [signalCtr, h, if_true]
  exact raise_frame ..

/-- Cores read back. -/
@[simp] theorem getCore_setCore (s : State) (c : CoreId) (x : Core) (h : x ≠ Core.init) :
    getCore (setCore s c x) c = x := by
  simp [getCore, setCore, setCoreAt, coreAt, smGet_smSet_ne _ _ _ h]

/-- Different cores have different numbers. -/
theorem coreIdx_inj {c d : CoreId} (h : coreIdx c = coreIdx d) : c = d := by
  obtain ⟨⟨a, ha⟩, ⟨b, hb⟩, ⟨e, he⟩⟩ := c
  obtain ⟨⟨a', ha'⟩, ⟨b', hb'⟩, ⟨e', he'⟩⟩ := d
  simp only [coreIdx] at h
  have h1 : a = a' := by omega
  have h2 : b = b' := by omega
  have h3 : e = e' := by omega
  subst h1; subst h2; subst h3; rfl

/-- A core is put and read back in a state whose core table is canonical. -/
theorem getCore_setCore_wf (s : State) (c d : CoreId) (x : Core) (h : smWf Core.init s.cores = true) :
    getCore (setCore s c x) d = if d = c then x else getCore s d := by
  simp only [getCore, setCore, setCoreAt, coreAt, smGet_smSet _ _ _ h]
  by_cases e : d = c
  · simp [e]
  · have : coreIdx d ≠ coreIdx c := fun k => e (coreIdx_inj k)
    simp [e, this]

end Sys2Proof.Machine
end

