-- ==== Sys2Proof/Laws/Ranges.lean ====
section
/-! SUPPORT. Which bytes of device memory a write, a run of writes and an event leave as they were. -/
namespace Sys2Proof.Safety
open Sys2Proof Sys2Proof.Machine

theorem sameOutside.of_mem {s t : State} (h : t.mem = s.mem) (rs : List (Nat × Nat)) : sameOutside s t rs := by
  intro a _; simp [rdMem, h]

theorem sameOutside.refl (s : State) (rs : List (Nat × Nat)) : sameOutside s s rs := fun _ _ => rfl

theorem sameOutside.trans {s t u : State} {rs : List (Nat × Nat)} (h : sameOutside s t rs) (k : sameOutside t u rs) :
    sameOutside s u rs := fun a ha => (k a ha).trans (h a ha)

theorem sameOutside.mono {s t : State} {rs qs : List (Nat × Nat)} (h : sameOutside s t rs) (hq : ∀ r ∈ rs, r ∈ qs) :
    sameOutside s t qs := fun a ha => h a fun r hr => ha r (hq r hr)

theorem sameOutside.congr {s t s' t' : State} {rs : List (Nat × Nat)} (h : sameOutside s t rs) (hs : s'.mem = s.mem)
    (ht : t'.mem = t.mem) : sameOutside s' t' rs := by
  intro a ha
  have := h a ha
  simpa [rdMem, hs, ht] using this

/-- One write leaves every byte outside its range. -/
theorem sameOutside.wrMem (s : State) (a : Nat) (bs : Bytes) (h : Memory.wf s.mem = true) :
    sameOutside s (Machine.wrMem s a bs) [(a, bs.length)] := by
  intro x hx
  have hx := hx (a, bs.length) (by simp)
  simp only [rdMem, rd, rdD, wrMem_mem, wr, List.range_one, List.map_cons, List.map_nil, Nat.add_zero]
  exact congrArg (fun v => [v]) (smGet_wrD_outside a x bs h hx)

theorem sameOutside.wrMem_mem {s : State} {a : Nat} {bs : Bytes} {rs : List (Nat × Nat)} (h : Memory.wf s.mem = true)
    (hr : (a, bs.length) ∈ rs) : sameOutside s (Machine.wrMem s a bs) rs :=
  (sameOutside.wrMem s a bs h).mono fun r hq => by simp at hq; simpa [hq] using hr

end Sys2Proof.Safety

namespace Sys2Proof.Machine
open Sys2Proof Sys2Proof.Safety

/-- The bytes just written read back. -/
theorem rdMem_wrMem (s : State) (a : Nat) (bs : Bytes) (h : Memory.wf s.mem = true) :
    rdMem (wrMem s a bs) a bs.length = bs := rdD_wrD a bs h

/-- A fold of steps that each keep memory canonical and change it only inside `rs` does both. -/
theorem foldl_sameOutside {ι κ : Type} (g : State × κ → ι → State × κ) (rs : List (Nat × Nat)) (l : List ι)
    (hg : ∀ a, ∀ i ∈ l, Memory.wf a.1.mem = true → Memory.wf (g a i).1.mem = true ∧ sameOutside a.1 (g a i).1 rs)
    (a : State × κ) (h : Memory.wf a.1.mem = true) :
    Memory.wf (l.foldl g a).1.mem = true ∧ sameOutside a.1 (l.foldl g a).1 rs := by
  induction l generalizing a with
  | nil => exact ⟨h, sameOutside.refl _ _⟩
  | cons i l ih =>
    obtain ⟨h1, h2⟩ := hg a i List.mem_cons_self h
    obtain ⟨h3, h4⟩ := ih (fun a j hj => hg a j (List.mem_cons_of_mem _ hj)) (g a i) h1
    exact ⟨h3, h2.trans h4⟩

/-- A run of writes changes memory only inside the ranges written. -/
theorem foldl_wrMem {ι : Type} (f : ι → Nat) (b : ι → Bytes) (rs : List (Nat × Nat)) (l : List ι)
    (hr : ∀ i ∈ l, (f i, (b i).length) ∈ rs) (s : State) (h : Memory.wf s.mem = true) :
    Memory.wf (l.foldl (fun s i => wrMem s (f i) (b i)) s).mem = true ∧
      sameOutside s (l.foldl (fun s i => wrMem s (f i) (b i)) s) rs := by
  induction l generalizing s with
  | nil => exact ⟨h, sameOutside.refl _ _⟩
  | cons i l ih =>
    obtain ⟨h3, h4⟩ := ih (fun j hj => hr j (List.mem_cons_of_mem _ hj)) (wrMem s (f i) (b i)) (Memory.wf_wr _ _ h)
    exact ⟨h3, (sameOutside.wrMem_mem h (hr i List.mem_cons_self)).trans h4⟩

end Sys2Proof.Machine
end

