-- ==== Sys2Proof/Tests/Slice0.lean ====
section
/-! SUPPORT. The model's own tests: the well-formedness smoke test, one step on small states with results taken from the spec,
and for every statement a concrete state and operands that meet its premises. -/
set_option Elab.async false
namespace Sys2Proof.Tests
open Sys2Proof Sys2Proof.Machine Sys2Proof.Safety

/-! Helpers: byte strings from fields, and small states. -/

/-- `n` bytes from fields at rising offsets, zero between them. -/
def fieldsFrom (n p : Nat) : List (Nat × Bytes) → Bytes
  | [] => zeroBytes (n - p)
  | f :: r => zeroBytes (f.1 - p) ++ (f.2 ++ fieldsFrom n (f.1 + f.2.length) r)
def fieldsAt (n : Nat) (fs : List (Nat × Bytes)) : Bytes := fieldsFrom n 0 fs

/-- The memory that holds byte strings at rising addresses. -/
def cellsAt : Nat → Bytes → SMap Byte
  | _, [] => []
  | a, b :: r => if b = 0 then cellsAt (a + 1) r else (a, b) :: cellsAt (a + 1) r
def memOf (ms : List (Nat × Bytes)) : SMap Byte := ms.flatMap fun m => cellsAt m.1 m.2

def core0 : CoreId := { die := 0, cluster := 0, core := 0 }

/-- A device after boot, owned by master 0, with both links. -/
def sRun : State :=
  { State.reset with
    sec := { Sec.init with boot := .ready }
    own := { Own.init with state := .held }
    pwr := { Pwr.init with phase := .run, linkMode := true }
    spr := { Spares.init with state := .ready } }

def txnOf (t : TxnType) (fields data : Bytes) : Txn :=
  { type := t, cls := 0, sig := false, aliased := false, detour := false, daxis := 0, dst := 0, src := 0, tag := 0, epoch := 0,
    fields := fields, data := data }

/-! The well-formedness smoke test: every check refuses an ill-formed term. -/

def noFacts : BootFacts :=
  { failed := [], secretPrimary := true, secretMirror := true, holdMetaOk := true, torn := [], tornLog := 0, tornSister := 0, ms := 0 }
def badUnit : BootFacts := { noFacts with failed := [{ kind := 0, pdie := 0, punit := 0, queued := none }] }
def badDie : BootFacts := { noFacts with failed := [{ kind := 1, pdie := 14, punit := 0, queued := none }] }
def arb0 : ArbId := { kind := 0, die := 0, unit := 0 }

theorem test_wf_arbiters : Instr.wf (.quotaWindow { arb0 with unit := 256 }) = false ∧
    Instr.wf (.quotaWindow { arb0 with die := 12 }) = false ∧ Instr.wf (.quotaWindow { kind := 8, die := 0, unit := 0 }) = false ∧
    Instr.wf (.quotaWindow { kind := 2, die := 13, unit := 0 }) = true ∧
    Instr.wf (.arbiterGrant arb0 [{ req := 7, origin := .engine, addr := 0, len := 64 }]) = false ∧
    Instr.wf (.arbiterGrant arb0 [{ req := 0, origin := .engine, addr := 0, len := 0 }]) = false ∧ Instr.wf (.islandMask arb0 7 .running) = false := by decide

theorem test_wf_transactions : Instr.wf (.put (txnOf .put (zeroBytes 31) [0])) = false ∧
    Instr.wf (.put (txnOf .put (zeroBytes 32) [])) = false ∧ Instr.wf (.put (txnOf .compl (zeroBytes 32) [])) = false ∧
    Instr.wf (.reduceTransaction core0 (txnOf .reduce (zeroBytes 32) [])) = false ∧
    Instr.wf (.tally (txnOf .tally (zeroBytes 32) (zeroBytes 15))) = false ∧
    Instr.wf (.getReq (txnOf .getReq (zeroBytes 32) [0])) = false ∧
    Instr.wf (.getRsp (txnOf .put (zeroBytes 32) [])) = false ∧ Instr.wf (.compl (txnOf .compl (zeroBytes 32) [0])) = false ∧
    [Instr.wf (.commit (txnOf .cctl [] [])), Instr.wf (.verdictUp (txnOf .cctl [] [])), Instr.wf (.verdictDown (txnOf .cctl [] [])),
      Instr.wf (.abort (txnOf .cctl [] [])), Instr.wf (.drained (txnOf .cctl [] [])), Instr.wf (.closed (txnOf .cctl [] [])),
      Instr.wf (.permuted (txnOf .cctl [] [])), Instr.wf (.advance (txnOf .cctl [] [])), Instr.wf (.abandon (txnOf .cctl [] [])),
      Instr.wf (.advanced (txnOf .cctl [] [])), Instr.wf (.abandonReq (txnOf .cctl [] []))] = List.replicate 11 false ∧
    Instr.wf (.put (txnOf .put (zeroBytes 32) [0])) = true := by decide +kernel

theorem test_wf_long_put : Instr.wf (.put (txnOf .put (zeroBytes 32) (zeroBytes 4097))) = false ∧
    Instr.wf (.put (txnOf .put (zeroBytes 32) (zeroBytes 4096))) = true := by decide +kernel

def flit0 (kind : BitVec 2) (n : Nat) : Flit := { kind := kind, vl := 0, ack := 0, body := zeroBytes n, crc := 0 }

def fec0 : Fec := { corrected := 0, lost := { codewords := 0, overlap := false } }

theorem test_wf_links : Instr.wf (.flitReceive 0 (flit0 0 251) 0 fec0.lost) = false ∧ Instr.wf (.flitReceive 0 (flit0 1 252) 0 fec0.lost) = false ∧
    Instr.wf (.flitReceive 0 (flit0 3 252) 0 fec0.lost) = false ∧ Instr.wf (.flitReceive 0 (flit0 2 252) 0 fec0.lost) = true ∧
    Instr.wf (.controlFlit 0 (flit0 0 252) 0 fec0.lost) = false ∧ Instr.wf (.controlFlit 0 (flit0 1 253) 0 fec0.lost) = false ∧
    Instr.wf (.portTrainingComplete 0 (.linked 0 12 0 0 0)) = false ∧ Instr.wf (.linkUp 0 0 16 false) = false ∧
    Instr.wf (.linkUp 0 8 16 false) = false ∧ Instr.wf (.linkUp 0 6 3 false) = false ∧ Instr.wf (.linkUp 0 6 16 true) = true := by decide +kernel

def region0 (acc grad : BitVec 48) (elems : Nat) (resOff : BitVec 48) : GradRegion :=
  { core := core0, shard := 0, acc := acc, grad := grad, elems := elems, sched := none, seq := 0, deep := true, margin := 0,
    ovf := false, resOff := resOff }

theorem test_wf_steps : Instr.wf (.regenerated 8) = false ∧ Instr.wf (.standinRestore [0] [0] []) = false ∧
    Instr.wf (.standinRestore [0] [] [[]]) = false ∧ Instr.wf (.standinRestore [0] [0] [[]]) = true ∧
    Instr.wf (.replicaReduction [region0 8 0 1 0] 0) = false ∧
    Instr.wf (.replicaReduction [region0 0 2 1 0] 0) = false ∧ Instr.wf (.replicaReduction [region0 0 0 0 0] 0) = false ∧
    Instr.wf (.replicaReduction [region0 0 0 16777217 0] 0) = false ∧ Instr.wf (.replicaReduction [region0 0 0 1 2] 0) = false ∧
    Instr.wf (.replicaReduction [region0 16 4 16777216 4] 0) = true ∧
    Instr.wf (.repairComplete [{ bytes := [], tag := [] }] false) = false := by decide

/-- R358: a unit that no kind has, a die without the kind, a number past the group, and a bit that the table does not name. -/
def badUnits : List UnitLoc :=
  [{ kind := 0, pdie := 0, punit := 0, queued := none }, { kind := 0x08, pdie := 0, punit := 0, queued := none },
    { kind := 0x0C, pdie := 12, punit := 8, queued := none }, { kind := 0x02, pdie := 0, punit := 1, queued := none }]

theorem test_wf_units : badUnits.map unitWf = [false, false, false, false] ∧
    unitWf { kind := 0x0C, pdie := 12, punit := 7, queued := none } = true := by decide

theorem test_wf_facts : [Instr.wf (.romWatchdog badUnit), Instr.wf (.harbourmasterWatchdog badDie), Instr.wf (.thermalTrip badUnit),
    Instr.wf (.reset 0 badDie), Instr.wf (.powerOn badUnit), Instr.wf (.recovery 0 0 false [] badUnit)] = List.replicate 6 false ∧
    Instr.wf (.powerOn noFacts) = true := by decide

theorem test_wf_messages : Instr.wf (.attest 0 (zeroBytes 31)) = false ∧ Instr.wf (.planSeg 0 0 (zeroBytes 3)) = false ∧
    Instr.wf (.planSeg 0 0 (zeroBytes 6)) = false ∧ Instr.wf (.reclaim 0 (zeroBytes 31)) = false ∧
    Instr.wf (.regRead 0 0 0) = false ∧ Instr.wf (.regRead 0 0 65) = false ∧ Instr.wf (.job 0 (zeroBytes 63)) = false ∧
    Instr.wf (.eventRead 0 0) = false ∧ Instr.wf (.eventRead 0 17) = false ∧ Instr.wf (.boardWrite 0 0 (zeroBytes 255)) = false ∧
    Instr.wf (.regRead 0 0 64) = true := by decide +kernel

theorem test_wf_long_messages : Instr.wf (.recovery 0 0 false (zeroBytes 4097) noFacts) = false := by decide +kernel

theorem test_wf_registers : Instr.wf (.registerWrite 0 0 0 0) = false ∧ Instr.wf (.bar2Read 0 0 0) = false ∧
    Instr.wf (.bar2Write 0 0 []) = false ∧ Instr.wf (.misalignedBar0Read 0 4 4) = false ∧
    Instr.wf (.misalignedBar0Read 0 2 4) = true := by decide

theorem test_wf_islands : Instr.wf (.generatorHoldover { kind := 0, die := 0, unit := 0 }) = false ∧
    Instr.wf (.switchWatchdog { kind := 11, die := 0, unit := 0 }) = false ∧
    Instr.wf (.generatorHoldover { kind := 1, die := 14, unit := 0 }) = false := by decide

/-! Numbers: the worked conversions of chapter 2, and the witnesses of the statements about formats. -/

def tagOf (f : Fmt) (ovf : Bool) (scale : Nat) : Tag := { fmt := f, ovf := ovf, scale := scale }

/-- A convert descriptor that names a source tag. -/
def cvDesc (t : Tag) : Bytes := fieldsAt 128 [(0, [2]), (1, [0x30]), (8, tagBytes t)]

/-- Result bits and flags of a convert of one element. -/
def cvRow (src : Tag) (bits : Nat) (dst : Tag) : Nat × Flags :=
  let r := cvElem (cvDesc src) dst bits
  (r.1, r.2.2.1)

def one32 : Nat := 0x3F800000

/-- The table "Worked conversions" of chapter 2, rows 1 to 8. -/
theorem test_worked_conversions_short :
    [cvRow (tagOf .fp32 false one32) 0x43E80000 (tagOf .e4m3 false one32), cvRow (tagOf .fp32 false one32) 0x43E88000 (tagOf .e4m3 false one32),
      cvRow (tagOf .fp32 false one32) 0xC47A0000 (tagOf .e4m3 false one32), cvRow (tagOf .fp32 false one32) 0x476A6000 (tagOf .e5m2 false one32),
      cvRow (tagOf .fp32 false one32) 0x47723000 (tagOf .e5m2 false one32), cvRow (tagOf .fp32 false one32) 0x47723000 (tagOf .e5m2 true one32),
      cvRow (tagOf .fp32 false one32) 0x3B400000 (tagOf .e4m3 false one32), cvRow (tagOf .fp32 false one32) 0xB9000000 (tagOf .e4m3 false one32)] =
    [(0x7E, 0), (0x7E, flOsat), (0xFE, flOsat), (0x7B, 0), (0x7C, flOovf), (0x7B, flOsat), (0x02, flUnf), (0x80, flUnf)] := by
  decide +kernel

/-- Rows 9 to 14 of the same table. -/
theorem test_worked_conversions_wide :
    [cvRow (tagOf .fp32 false one32) 0x3F808000 (tagOf .bf16 false one32), cvRow (tagOf .fp32 false one32) 0x3F818000 (tagOf .bf16 false one32),
      cvRow (tagOf .fp32 false one32) 0xFFC01234 (tagOf .bf16 false one32), cvRow (tagOf .e5m2 false 0x40400000) 0x5B (tagOf .fp32 false one32),
      cvRow (tagOf .e4m3 false 0x3F000000) 0x7F (tagOf .fp32 false one32), cvRow (tagOf .e5m2 false one32) 0xFC (tagOf .e4m3 false one32)] =
    [(0x3F80, 0), (0x3F82, 0), (0x7FC0, flNanIn), (0x44280000, 0), (0x7FC00000, flNanIn), (0xFE, flInfIn ||| flOsat)] := by decide +kernel

/-- The narrowing example of chapter 2: scale 2^-5 from amax 1500, elements 0x78 and 0x7A, residues -24 and -36; and the
working copy of 0x3E99999A with scale 2^-7. -/
theorem test_narrowing_residues :
    amaxScale .e5m2 0 0x44BB8000 = (0x3D000000, false) ∧
      (let r := cvElem (cvDesc (tagOf .fp32 false one32)) (tagOf .e5m2 false 0x3D000000) 0x447A0000; (r.1, r.2.1)) = (0x78, 0xC1C00000) ∧
      (let r := cvElem (cvDesc (tagOf .fp32 false one32)) (tagOf .e5m2 false 0x3D000000) 0x44BB8000; (r.1, r.2.1)) = (0x7A, 0xC2100000) ∧
      (let r := cvElem (cvDesc (tagOf .fp32 false one32)) (tagOf .e4m3 false 0x3C000000) 0x3E99999A; (r.1, r.2.1)) = (0x62, 0xBC4CCCC0) := by
  decide +kernel

/-- R47, R58: every finite 8-bit encoding of E4M3 and E5M2 is its own rounding. -/
theorem test_short_encodings_round_trip :
    ((List.range 256).all fun q => !isFin (decode .e4m3 q) || encodeOut .e4m3 false (decode .e4m3 q) == (q, 0)) = true ∧
      ((List.range 256).all fun q => !isFin (decode .e5m2 q) || encodeOut .e5m2 true (decode .e5m2 q) == (q, 0)) = true := by
  decide +kernel

/-- R117: the worked root of chapter 9 holds 1,127.5, with HI 0x40919E00_00000000, and narrows to 0x78 at scale 2^-5. -/
theorem test_collective_root :
    deepBytes (storeDword (numAdd (numOfNat 1124) (.fin false 7 (-1))).1).1 = le64 0x40919E0000000000 ++ zeroBytes 8 ∧
      encodeOut .e5m2 false (numDiv (.fin false 2255 (-1)) (.fin false 1 (-5))).1 = (0x78, 0) := by decide +kernel

theorem witness_ValueArithmetic : (1 ≤ 1 ∧ 1 ≤ (2 ^ 52 : Nat)) ∧
    ewValue 4 (.fin true 1 0) (.fin false 0 0) numZero numZero = (.inf true, false) ∧
    ewValue 5 (.fin true 1 0) numZero numZero numZero = (.nan, true) := by decide +kernel

/-- R59: 464 rounds to 448, the largest E4M3 value, and 465 to 480; 464 is not tiny. -/
theorem witness_RoundsToNearestEven : ((1 ≤ 1 ∧ 1 ≤ 1) ∧ roundDy 1 0 1 0 = (1, 0, false) ∧ roundDy 4 (-9) 3 (-10) = (2, -9, true)) ∧
    (roundDy ((fmtSpec .e4m3).fb + 1) (specLo (fmtSpec .e4m3)) 464 0 = (14, 5, true) ∧
      roundDy ((fmtSpec .e4m3).fb + 1) (specLo (fmtSpec .e4m3)) 465 0 = (15, 5, true) ∧
      decode .e4m3 (fmtMax .e4m3) = .fin false 14 5) ∧
    ((14 : Nat) : ℚ) * 2 ^ (5 : Int) ≤ ((14 : Nat) : ℚ) * 2 ^ (5 : Int) ∧ ((14 : Nat) : ℚ) * 2 ^ (5 : Int) < ((15 : Nat) : ℚ) * 2 ^ (5 : Int) ∧
    (2 : ℚ) ^ (1 - ((fmtSpec .e4m3).bias : Int)) ≤ ((464 : Nat) : ℚ) * 2 ^ (0 : Int) ∧ -100 ≤ specLo (fmtSpec .e4m3) := by
  refine ⟨by decide +kernel, by decide +kernel, by norm_num, by norm_num, by norm_num [fmtSpec], by decide +kernel⟩

/-- The least and the greatest encoding, a NaN, and tags of a short and of a long format. -/
theorem witness_FormatEncodingsRoundTrip :
    (0 < 256 ^ fmtBytes .fp64 ∧ isFin (decode .fp64 0) = true) ∧ (0xFF < 256 ^ fmtBytes .e4m3 ∧ isNan (decode .e4m3 0xFF) = true) ∧
      (let t := tagOf .e5m2 true 0x00800000
       (t.ovf = true → fmtShort t.fmt = true ∧ t.fmt ≠ .e4m3) ∧
         if fmtShort t.fmt then 0x00800000 ≤ t.scale ∧ t.scale ≤ 0x7F7FFFFF else t.scale = 0x3F800000) ∧
      (let t := tagOf .fp64 false one32
       (t.ovf = true → fmtShort t.fmt = true ∧ t.fmt ≠ .e4m3) ∧
         if fmtShort t.fmt then 0x00800000 ≤ t.scale ∧ t.scale ≤ 0x7F7FFFFF else t.scale = 0x3F800000) := by decide +kernel

theorem witness_ZeroKeepsSign :
    isZero (decode .e4m3 (encodeOut .e4m3 false (.fin true 1 (-20))).1) = true ∧
      parseTag (tagBytes (tagOf .e5m2 false one32)) = some (tagOf .e5m2 false one32) ∧
      parseTag (tagBytes (vTag (vTagX (cvDesc (tagOf .fp32 false one32))))) = some (vTag (vTagX (cvDesc (tagOf .fp32 false one32)))) ∧
      decode (vTag (vTagX (cvDesc (tagOf .fp32 false one32)))).fmt 0x80000000 = .fin true 0 (-149) := by decide +kernel

/-! Token counters, the sequencer, tiles. -/

/-- The first byte of the SRAM of core 0 of cluster 0 on die 0. -/
def base0 : Nat := 0x100010000000

/-- `sRun` with core 0 set and bytes at core-relative places. -/
def withCore (x : Core) (ms : List (Nat × Bytes)) : State :=
  { sRun with cores := smSet Core.init [] 0 x, mem := memOf (ms.map fun m => (base0 + m.1, m.2)) }

def awake : Core := { Core.init with idle := false }
def entry0 : QEntry := { addr := base0, wctr := 3, wcnt := 2, ord := 0 }
def tokens2 : SMap Nat := [(3, 2)]

theorem witness_TokenSignal : smGet 0 (getCore (withCore awake []) core0).ctr 0 ≠ 1048575 ∧
    smGet 0 (getCore (withCore { awake with ctr := [(31, 1048575)] } []) core0).ctr 31 = 1048575 := by decide +kernel

/-- A running program whose next descriptor is a mover, with 15 movers waiting and with 16. -/
def movers (n : Nat) : Core :=
  { awake with runActive := true, pc := base0, movQ := List.replicate n { addr := 0, wctr := 0xFF, wcnt := 0, ord := 0 } }
def markBytes (kind : Nat) : Bytes := fieldsAt 64 [(0, [5]), (1, toLe 1 kind), (56, [0xFF, 0xFF])]
def marked (kind : Nat) : State :=
  withCore { awake with runActive := true, pc := base0 + 64, mark := some { addr := base0, wctr := 0xFF, wcnt := 0, ord := 0 } }
    [(0, markBytes kind)]

theorem witness_SequencerIssuesAndMarks :
    (let s := withCore (movers 15) [(0, [3])]; let x := getCore s core0
     rdElem s x.pc 1 = 3 ∧ x.runActive = true ∧ x.stopped = false ∧ x.mark = none ∧ x.idle = false ∧ s.stp.state ≠ .suspended ∧
       rdElem s (x.pc + descBytes 3) 1 ≠ 5 ∧ queueRoom x 3 = true) ∧
    queueRoom (movers 16) 3 = false ∧
    (∀ k ∈ [1, 2], let s := marked k; let x := getCore s core0; ∃ e, x.mark = some e ∧ markReady s x e = true ∧
      markOk (rdMem s e.addr 64) = true ∧ byteAt (rdMem s e.addr 64) 1 = k) := by
  refine ⟨by decide +kernel, by decide +kernel, ?_⟩
  intro k hk
  simp only [List.mem_cons, List.not_mem_nil, or_false] at hk
  obtain rfl | rfl := hk
  · exact ⟨{ addr := base0, wctr := 0xFF, wcnt := 0, ord := 0 }, by decide +kernel⟩
  · exact ⟨{ addr := base0, wctr := 0xFF, wcnt := 0, ord := 0 }, by decide +kernel⟩

/-- The worked tile of chapter 4: FP64, M = N = 1, K = 4; A in slice 0 at offset 0x1000, B at 0x2000, the output at 0x3000, the
record at 0x4000. -/
def tileDesc (flags : Byte) (spill : Byte) (outTag : Bytes) (out deep : Nat) : Bytes :=
  fieldsAt 128 [(0, [1, 0, flags, spill, 1, 0, 1, 0, 4]), (16, tagBytes (tagOf .fp64 false one32)),
    (24, tagBytes (tagOf .fp64 false one32)), (32, outTag), (40, toLe 6 (base0 + 0x1000)), (48, toLe 6 (base0 + 0x2000)),
    (56, toLe 6 out), (64, toLe 6 deep), (80, toLe 6 (base0 + 0x4000)), (96, toLe 4 32), (100, toLe 4 512), (104, toLe 4 8),
    (108, [0xFF, 0xFF])]
def tileA : Bytes := le64 0x6570000000000000 ++ le64 0x3FF0000000000000 ++ le64 0x4008000000000000 ++ le64 0x4000000000000000
/-- Column 0 of B: 2^600, the second element, 2 and 0.5, 512 bytes apart. -/
def tileB (second : W64) : List (Nat × Bytes) :=
  [(0x2000, le64 0x6570000000000000), (0x2200, le64 second), (0x2400, le64 0x4000000000000000), (0x2600, le64 0x3FE0000000000000)]
def tileState (x : Core) (spill : Byte) (outTag : Tag) (second : W64) : State :=
  withCore x ([(0, tileDesc 0 spill (tagBytes outTag) (base0 + 0x3000) 0), (0x1000, tileA)] ++ tileB second)

/-- Output bits, FLAGS, and POS1, POS3 and POS4 of the record after TILE and TILE_COMPLETE. -/
def tileResult (outTag : Tag) (second : W64) : Nat × Nat × Nat × Nat × Nat :=
  let s0 := tileState { awake with tileQ := [{ addr := base0, wctr := 0xFF, wcnt := 0, ord := 0 }] } 8 outTag second
  let s := completeTile (startTile s0 core0) core0 .quad
  (rdElem s (base0 + 0x3000) (tagSize outTag), rdElem s (base0 + 0x4000) 8, rdElem s (base0 + 0x4018) 8,
    rdElem s (base0 + 0x4028) 8, rdElem s (base0 + 0x4030) 8)

/-- The worked record of chapter 4: NaN at k = 1 with FP64 output, and 1.0 there with a saturating BF16 output. -/
theorem test_tile_worked_record :
    tileResult (tagOf .fp64 false one32) 0x7FF4000000000001 = (0x7FF8000000000000, 0x000000010100000A, 0x10000, 0, 0) := by
  decide +kernel
theorem test_tile_worked_saturation :
    tileResult (tagOf .bf16 true one32) 0x3FF0000000000000 = (0x7F7F, 0x0000000101000028, 0, 0, 0x00000001FFFF0000) := by
  decide +kernel

def waitingTile : Core := { awake with tileQ := [entry0], ctr := tokens2 }

theorem witness_TileStartTakesTokens :
    (let s := tileState waitingTile 8 (tagOf .fp64 false one32) 0; let x := getCore s core0; let d := rdMem s base0 128
     (tileHeads s x.tileQ).find? (tileLeaves s core0) = some entry0 ∧ s.stp.state ≠ .suspended ∧ x.idle = false ∧
       x.stopped = false ∧ computeStopped s (coreIsland core0) = false ∧ tileCheck s core0 d = .ok ∧ canonical s) ∧
    (let s := tileState waitingTile 7 (tagOf .fp64 false one32) 0; let x := getCore s core0
     (tileHeads s x.tileQ).find? (tileLeaves s core0) = some entry0 ∧ tileCheck s core0 (rdMem s base0 128) = .invalid) := by
  unfold canonical; decide +kernel

/-- A tile in flight with one fed row; ACC_OUT makes its only segment spill. -/
def runTile (acc : Bool) : TileRun :=
  { desc := if acc then tileDesc 16 8 (zeroBytes 8) 0 (base0 + 0x8000)
            else tileDesc 0 8 (tagBytes (tagOf .fp64 false one32)) (base0 + 0x3000) 0,
    mode := .quad, fed := [0], block := 0, ahead := 0, accs := [], deep := [], base := excFresh 1, exc := excFresh 1, ord := 0 }

theorem witness_SpillWritesDeepEntries :
    let t := runTile true
    let s := tileState { awake with tiles := [t] } 8 (tagOf .fp64 false one32) 0
    (getCore s core0).tiles.find? (fun t => isMode .quad t && working t) = some t ∧ frozen s = false ∧
      opStalled s core0 t.ord = false ∧ t.fed[t.ahead]? = some 0 ∧ tSpillsAt t.desc (tSegEnd t.desc t.block) = true ∧ canonical s := by
  unfold canonical; decide +kernel

theorem witness_TileCompleteWritesRecord :
    let t := runTile false
    let s := tileState { awake with tiles := [t] } 8 (tagOf .fp64 false one32) 0
    oldestOf .quad (getCore s core0).tiles = some t ∧ frozen s = false ∧ opStalled s core0 t.ord = false ∧
      canonical s ∧ frozen { s with stp := { s.stp with state := .suspended } } = false ∧
      tAccOut t.desc = false ∧ tN t.desc * tEo t.desc ≤ tLdo t.desc ∧ t.fed.Nodup ∧ (∀ m ∈ t.fed, m < tM t.desc) ∧ tGrad t.desc = false ∧
      (∀ m < tM t.desc, tExc t.desc + 256 ≤ tOut t.desc + m * tLdo t.desc ∨
        tOut t.desc + m * tLdo t.desc + tN t.desc * tEo t.desc ≤ tExc t.desc) := by
  unfold canonical; decide +kernel

/-- An output at an address that nothing maps. -/
def strayTile : State :=
  withCore waitingTile ([(0, tileDesc 0 8 (tagBytes (tagOf .fp64 false one32)) 0x300000000000 0), (0x1000, tileA)] ++ tileB 0)

theorem witness_TileStartUnmapped : (tileHeads strayTile (getCore strayTile core0).tileQ).find? (tileLeaves strayTile core0) = some entry0 ∧
    tileCheck strayTile core0 (rdMem strayTile base0 128) = .unmapped 0x300000000000 := by decide +kernel


/-! Vector operations, movers, collectives. -/

/-- A vector descriptor over FP32 operands: X at 0x1000, Y at 0x2000, the output at 0x3000, the record at 0x4000. -/
def vecDesc (vop : Byte) (count : Nat) (tagY tagO : Bytes) (ld : Nat) (tail : List (Nat × Bytes)) : Bytes :=
  fieldsAt 128 ([(0, [2, vop]), (4, toLe 4 count), (8, tagBytes (tagOf .fp32 false one32)), (16, tagY), (24, tagO),
    (32, toLe 6 (base0 + 0x1000)), (40, if tagY.isEmpty then [] else toLe 6 (base0 + 0x2000)), (48, toLe 6 (base0 + 0x3000)),
    (56, toLe 6 (base0 + 0x4000)), (92, toLe 4 1), (96, toLe 4 ld)] ++ tail)
def fp32Tag : Bytes := tagBytes (tagOf .fp32 false one32)
def addDesc : Bytes := vecDesc 1 2 fp32Tag fp32Tag 8 [(100, toLe 4 8), (104, toLe 4 8), (108, [0xFF, 0xFF])]
def vecState (x : Core) (d : Bytes) (a b : Bytes) : State := withCore x [(0, d), (0x1000, a), (0x2000, b)]
def vecWaiting : Core := { awake with vecQ := [entry0], ctr := tokens2 }

/-- 1.5 + 2.25 and 2^24 + 1, which ties to even. -/
theorem test_vector_add :
    rdMem (startVec 1 (vecState vecWaiting addDesc (toLe 4 0x3FC00000 ++ toLe 4 0x4B800000) (toLe 4 0x40100000 ++ toLe 4 0x3F800000)) core0)
      (base0 + 0x3000) 8 = toLe 4 0x40700000 ++ toLe 4 0x4B800000 := by decide +kernel

theorem witness_VectorStartWritesOutputs :
    (let s := vecState vecWaiting addDesc [] []; let x := getCore s core0; let d := rdMem s base0 128
     x.vecQ = [entry0] ∧ s.stp.state ≠ .suspended ∧ x.idle = false ∧ x.stopped = false ∧
       x.vec = none ∧ ready s x entry0 = true ∧ computeStopped s (coreIsland core0) = false ∧ vOp d = 1 ∧ canonical s ∧ vecCheck s core0 d = .ok ∧ vConc d = false) ∧
    (let s := vecState vecWaiting (vecDesc 1 2 fp32Tag fp32Tag 8 []) [] []
     ready s (getCore s core0) entry0 = true ∧ vecCheck s core0 (rdMem s base0 128) = .invalid) := by
  unfold canonical; decide +kernel

/-- R112, R145: the worked SUM of chapter 5: 100 elements over 64 lanes count 227 terms. -/
theorem test_sum_terms :
    (redOut sRun (vecDesc 0x20 100 [] fp32Tag 400 [(100, toLe 4 4), (108, [0xFF, 0xFF])])).exc.terms = 227 := by decide +kernel

/-- R153: the two worked channel lists of chapter 5. -/
theorem test_argmax :
    argmaxGo ([0x40800000, 0x80000000, 0x40800000].map (decode .fp32)) 1 0 (decode .fp32 0x3FC00000) = 1 ∧
      argmaxGo ([0x40800000, 0x80000000, 0x40800000, 0x7FC00000, 0x7FC00000].map (decode .fp32)) 1 0 (decode .fp32 0x3FC00000) = 4 := by
  decide +kernel

def vecRun (res otag : Nat) (sig : Byte) : VecRun :=
  { desc := fieldsAt 128 [(0, [2, 1]), (56, toLe 6 (base0 + 0x4000)), (72, toLe 6 res), (80, toLe 6 otag), (109, [sig])],
    exc := excFresh 2, res := 5, otag := 6, final := true, ord := 0 }

theorem witness_VectorCompleteWritesRecords :
    (∀ v ∈ [vecRun (base0 + 0x5000) (base0 + 0x5008) 31, vecRun (base0 + 0x5000) 0 0xFF, vecRun 0 0 0],
      let s := withCore { awake with vec := some v, ctr := [(31, 1048574)] } []
      (getCore s core0).vec = some v ∧ opStalled s core0 v.ord = false) ∧
    vOtag (vecRun (base0 + 0x5000) (base0 + 0x5008) 31).desc ≠ 0 ∧ vSig (vecRun (base0 + 0x5000) (base0 + 0x5008) 31).desc ≠ 0xFF ∧
    (vOtag (vecRun (base0 + 0x5000) 0 0xFF).desc = 0 ∧ vRes (vecRun (base0 + 0x5000) 0 0xFF).desc ≠ 0 ∧
      vSig (vecRun (base0 + 0x5000) 0 0xFF).desc = 0xFF) ∧
    (vOtag (vecRun 0 0 0).desc = 0 ∧ vRes (vecRun 0 0 0).desc = 0) ∧
    smGet 0 [(31, 1048574)] (vSig (vecRun (base0 + 0x5000) (base0 + 0x5008) 31).desc) < 1048575 ∧
    canonical (withCore { awake with vec := some (vecRun 0 0 0) } []) := by
  unfold canonical; decide +kernel

/-- A mover over two rows of 4 bytes, from 0x1000 to 0x2000. -/
def movDesc (mop flags : Byte) (aux : Nat) (src dst : Nat) (bytes rows : Nat) : Bytes :=
  fieldsAt 64 [(0, [3, mop, flags]), (4, toLe 4 bytes), (8, toLe 4 rows), (16, toLe 6 src), (24, toLe 6 dst), (32, toLe 4 8),
    (36, toLe 4 8), (40, toLe 6 aux), (56, [0xFF, 5])]
def movState (d : Bytes) : State :=
  withCore { awake with movQ := [entry0], ctr := tokens2 } [(0, d), (0x1000, [1, 2, 3, 4]), (0x1008, [5, 6, 7, 8])]
def copyDesc : Bytes := movDesc 1 0 0 (base0 + 0x1000) (base0 + 0x2000) 4 2
def signalDesc : Bytes := movDesc 5 0 0 0 0 1 1
def compareDesc : Bytes := movDesc 6 8 (base0 + 0x3000) (base0 + 0x1000) (base0 + 0x2000) 4 2

theorem test_mover_copy : rdMem (startMov 1 (movState copyDesc) core0) (base0 + 0x2000) 12 = [1, 2, 3, 4, 0, 0, 0, 0, 5, 6, 7, 8] := by
  decide +kernel

/-- R167, R226: a COMPARE with STOP that finds a difference writes 0x01 and stops the program. -/
theorem test_mover_compare_stop :
    (let s := startMov 6 (movState compareDesc) core0
     (rdMem s (base0 + 0x3000) 1, (getCore s core0).stopped)) = ([1], true) := by decide +kernel

theorem witness_MoverStartWritesRows :
    ∀ p ∈ [(1, copyDesc), (5, signalDesc), (6, movDesc 6 0 (base0 + 0x3000) (base0 + 0x1000) (base0 + 0x2000) 4 2)],
      let s := movState p.2; let x := getCore s core0; let d := rdMem s base0 64; let idx := readIdx s d
      x.movQ = [entry0] ∧ s.stp.state ≠ .suspended ∧ x.stopped = false ∧ x.movs.length < 4 ∧ ready s x entry0 = true ∧ mOp d = p.1 ∧
        mForm d = true ∧ listHeld x d = false ∧ movCheck s core0 d idx = .ok ∧ movHeld x d idx = false ∧ movStackHeld s d idx = false ∧ canonical s ∧
        (mStop d = false ∨ rowsEqual s (mSrcRows d idx) (mDstRows d idx) = true) ∧ (p.1 = 1 → mBytes d ≤ mDs d) := by
  unfold canonical; decide +kernel

def movRun (stop : Bool) (sig : Byte) : MovRun := { desc := fieldsAt 64 [(0, [3, 5]), (56, [0xFF, sig])], stop := stop, idx := [], ord := 0 }

theorem witness_MoverCompleteSignals :
    (∀ m ∈ [movRun true 5, movRun false 0xFF, movRun false 31],
      let s := withCore { awake with movs := [m], ctr := [(31, 1048574)] } []
      (getCore s core0).movs[(0 : Fin 4).val]? = some m ∧ s.stp.state ≠ .suspended ∧ opStalled s core0 m.ord = false ∧ canonical s ∧
        mSigRemote m.desc = false) ∧
    mSig (movRun false 0xFF).desc = 0xFF ∧ mSig (movRun false 31).desc ≠ 0xFF ∧ smGet 0 [(31, 1048574)] (mSig (movRun false 31).desc) < 1048575 := by
  unfold canonical; decide +kernel

/-! A small plan: one die with two stacks and one core, a group of two devices along x, and one schedule of each kind. -/

def shapeT : Shape :=
  { ex := 2, ey := 1, ez := 1, rails := 1, holdStacks := 1, state0 := 0x10000, state1 := 0x20000, res0 := 0x30000, res1 := 0x40000,
    stateBytes := 0x1000, resBytes := 0x1000, dies := [{ hbmStacks := 2, cores := [1] }] }
def holdT : HoldCfg :=
  { sisterXor := 1, balRow := 0, slotBytes := 0x10000, logBytes := 0x10000, traceBytes := 0, balBytes := 0, balRows := 0, balCache := 0,
    balSlots := 0, balLife := 0, balList := 0, balLStride := 0 }
def policyT : Policy :=
  { skip := true, snapEvery := 0, normLimit := 0x7F7FFFFF, statsAddr := 0x50000, laneThresh := 10, suppress := [],
    loss := [0xFFFFFFFF] }
def schedT (k : Nat) : Sched :=
  { sched := k, cop := k, rotate := 0, explicit := false, group := 1, treeFirst := 0, recvOff := 0, recvBytes := 0x4000 }
def layoutT : Layout :=
  { runahead := 0, groups := [{ group := 0, n := (1, 1, 1), s := (1, 1, 1) }, { group := 1, n := (2, 1, 1), s := (1, 1, 1) }],
    scheds := [1, 2, 3, 4, 5, 6].map schedT, nodes := [], maps := [], jobGroup := 0, shardGroup := 0, replicaGroup := 0, normSched := 2,
    adamW := false, beta1 := 0x3F666666, beta2 := 0x3F7FBE77, eps := 0x322BCC77, wd := 0, lrs := [(1, 0x3A83126F)],
    images := [{ core := 0, loadOff := 0x10000, entryOff := 0x10040, bytes := zeroBytes 128 }], shards := [{ shard := 0, expOff := 0, offset := 0, bytes := 64, tagOff := 0x800 }],
    ranges := [], relocs := [], progs := [] }
def planT : Plan :=
  { digest := zeroBytes 32, shapeId := zeroBytes 16, shape := shapeT, clocks := [], quotas := [],
    parts := [{ part := 0, mem := 1, attr := 2, slices := 8, offset := 0x10000, length := 0x10000, rebuild := 0 }], modes := [],
    streams := [{ die := 0, stream := 0, eval := false, clusters := 1, profiles := [] }, { die := 0, stream := 7, eval := true, clusters := 1, profiles := [] }],
    hold := holdT, policy := policyT, layouts := [layoutT, layoutT] }
/-- A state with the small plan applied. -/
def planned (s : State) : State :=
  { s with pln := { Pln.init with state := .applied, plan := some planT, everApplied := true }, stp := { s.stp with state := .idle } }
def sPlan : State := planned sRun

/-- A collective of one element in bytes transport or two deep entries, by its code. -/
def colDesc (cop : Nat) : Bytes :=
  fieldsAt 128 [(0, [4] ++ toLe 1 cop ++ [if cop ≤ 3 then 1 else 2]), (4, toLe 2 cop ++ toLe 2 (if cop = 6 then 1 else 0)), (8, toLe 4 2),
    (12, toLe 4 7), (24, toLe 6 (base0 + 0x1000)), (32, toLe 6 (base0 + 0x2000)), (40, toLe 6 (base0 + 3 * 2 ^ 22 + 0x10000)),
    (64, toLe 6 (base0 + 0x4000)), (108, [3]), (109, [0xFF]), (110, toLe 2 2)]
def colState (cop : Nat) : State := planned (withCore { awake with colQ := [entry0], ctr := tokens2 } [(0, colDesc cop)])

theorem witness_CollectiveStartJoins :
    ∀ p ∈ [2, 4, 6], let s := colState p; let x := getCore s core0; let d := rdMem s base0 128
      ∃ k, kCtx s (kSched d) = some k ∧ x.colQ = [entry0] ∧ s.stp.state ≠ .suspended ∧ x.stopped = false ∧ ready s x entry0 = true ∧
        kCop d = p ∧ colCheck s core0 d = .ok ∧ strangers s x d k = [] ∧ slotClash s x d k = false := by
  intro p hp
  refine ⟨⟨schedT p, { group := 1, n := (2, 1, 1), s := (1, 1, 1) }, none, 0, 2, 0⟩, ?_⟩
  simp only [List.mem_cons, List.not_mem_nil, or_false] at hp
  obtain rfl | rfl | rfl := hp <;> decide +kernel

/-- The same collective is still in progress: its SEQ comes a second time; and a schedule that the plan does not have. -/
theorem witness_CollectiveStartFails :
    (let s := planned (withCore { awake with colQ := [entry0], ctr := tokens2, cols := [newRun sPlan (colDesc 2) none 0] } [(0, colDesc 2)])
     slotClash s (getCore s core0) (colDesc 2) ⟨schedT 2, { group := 1, n := (2, 1, 1), s := (1, 1, 1) }, none, 0, 2, 0⟩ = true) ∧
    (let s := colState 9
     colCheck s core0 (rdMem s base0 128) ≠ .ok) := by decide +kernel

def colRun (job : Option StageJob) : ColRun :=
  { desc := colDesc 2, job := job, epoch := 0, attempt := 0, upDone := [0, 1], downDone := [0, 1], sent := [], exc := excFresh 3, ord := 0 }

theorem witness_CollectiveCompleteLeaves :
    ∀ job ∈ [none, some (StageJob.norm (zeroBytes 16) (zeroBytes 16))],
    let s := planned (withCore { awake with cols := [colRun job] } [])
    let u := pumpCore s core0
    (getCore u core0).cols = [colRun job] ∧ kDone u (colRun job) = true ∧ kDelivered u (colRun job) = true ∧
      u.stp.state ≠ .suspended ∧ u.stp.state ≠ .aborting ∧ u.stp.state ≠ .normCheck ∧ opStalled u core0 (colRun job).ord = false ∧
      canonical s ∧ (getCore sPlan core0).cols = [] := by
  unfold canonical; decide +kernel

/-- Bytes 16 to 47 of a reduce transaction from member 1 of schedule 2, with its attempt tag. -/
def reduceTxn (tag : Nat) : Txn :=
  txnOf .reduce (txnFields [(16, toLe 2 2), (21, toLe 3 1), (24, toLe 4 7), (28, toLe 4 tag), (34, toLe 2 1)]) [0]

/-- An earlier attempt, another epoch, an unknown schedule, a fitting part, and one whose sender is no child. -/
theorem witness_ReduceArrivalByAttempt :
    (let s := { sPlan with stp := { sPlan.stp with curTag := 1 } }; (fld32 (reduceTxn 0).fields 12).toNat < s.stp.curTag.toNat) ∧
    epochOk { sPlan with stp := { sPlan.stp with epoch := 5 } } (reduceTxn 0).epoch = false ∧
    kCtxAt sRun (reduceTxn 0).epoch (txnFld (reduceTxn 0) 16 2) = none ∧
    (let s := sPlan; let x := getCore s core0; let txn := reduceTxn 0
     s.stp.curTag.toNat ≤ (fld32 txn.fields 12).toNat ∧ x.cols = [] ∧ x.recv = [] ∧ x.doneCols = [] ∧ epochOk s txn.epoch = true ∧
       (∃ k, kCtxAt s txn.epoch (txnFld txn 16 2) = some k ∧ arrivalOk k x 2 7 (txnFld txn 18 3) (txnFld txn 21 3) = true ∧
         arrivalOk k x 2 7 (txnFld txn 18 3) 5 = false ∧ slotTaken s x k.runahead 2 7 0 = false) ∧
       txnFld txn 32 2 < txnFld txn 34 2 ∧ (addPart x.recv txn).isSome = true) := by
  refine ⟨by decide +kernel, by decide +kernel, by decide +kernel, by decide +kernel, by decide +kernel, by decide +kernel,
    by decide +kernel, by decide +kernel, ⟨⟨schedT 2, { group := 1, n := (2, 1, 1), s := (1, 1, 1) }, none, 0, 2, 0⟩, by decide +kernel⟩,
    by decide +kernel⟩

/-! Arbiters, parity, HBM, sample intake. -/

/-- R176, R160: a slipway's normal and the harbourmaster's urgent request at a pseudo-channel (large, 72 requesters), an
engine's normal and a sequencer's urgent request at a slice port (small). -/
def arbBig : ArbId := { kind := 5, die := 0, unit := 0 }
def hbmPair : List Arrival :=
  [{ req := 64, origin := .slipway, addr := 0, len := 64 }, { req := 65, origin := .harbourmaster, addr := 0x40, len := 64 }]
def slicePair : List Arrival :=
  [{ req := 0, origin := .engine, addr := 0x100010000000, len := 64 }, { req := 6, origin := .sequencer, addr := 0x100010000040, len := 64 }]

/-- The small plan with the islands of core 0, the slipway and the harbourmaster running. -/
def sAwake : State :=
  [islandId 1 0 0, islandId 4 0 0, islandId 10 0 0].foldl (fun s i => updIsland s i fun x => { x with mode := modeRun }) sPlan

theorem test_arbiter_urgent_first : (arbSlot sAwake arbBig hbmPair).last = some 65 ∧ (arbSlot sAwake arb0 slicePair).last = some 6 := by
  decide +kernel

/-- R41, R160: a transfer of 1,000 bytes at 500 is cut at 512 and 1,024, and begins and ends at whole 32-byte units. -/
theorem test_hbm_requests : hbmRequests 500 1000 = [(480, 32), (512, 512), (1024, 480)] := by decide +kernel

/-- R41: bits [13:9] of the offset choose the pseudo-channel, and the second stack of a die has 32 to 63. -/
theorem test_pseudo_channels : pseudoChannel sPlan 0 = some (0, 0) ∧ pseudoChannel sPlan 0x3E00 = some (0, 31) ∧
    pseudoChannel sPlan 0x600000200 = some (0, 33) := by decide +kernel

theorem witness_ArbiterGrantsByPriority :
    (let x : Arb := { getArb sAwake arbBig with reqs := (getArb sAwake arbBig).reqs ++ hbmPair.flatMap (arrivalReqs sAwake arbBig) }
     ((standing x).filter fun r => !reqMasked sAwake arbBig x r) ≠ [] ∧ arbLarge arbBig.kind.val = true) ∧
    (let x : Arb := { getArb sAwake arb0 with reqs := (getArb sAwake arb0).reqs ++ slicePair.flatMap (arrivalReqs sAwake arb0) }
     arbLarge arb0.kind.val = false ∧ ((standing x).filter fun r => !reqMasked sAwake arb0 x r) ≠ [] ∧
       ∃ r ∈ (standing x).filter fun r => !reqMasked sAwake arb0 x r, r.cls = .urgent) ∧
    (standing Arb.init).filter (fun r => !reqMasked sRun arb0 Arb.init r) = [] ∧
    (∀ r ∈ (getArb sRun arb0).reqs, r.req ≠ 0) ∧
    (∃ r ∈ (getArb (setArb sRun arb0 { Arb.init with reqs := [{ req := 0, cls := .normal, age := 0, addr := 0, len := 64 }] }) arb0).reqs,
      r.req = 0) := by decide +kernel

def attempt0 : Attempt :=
  { job := { queue := 0, index := 0, num := 0, bytes := fieldsAt 64 [(0, [1])], sub := false }, step := 1, np := 1, tag := 1, snap := false,
    mans := [], paged := [0], reduced := false, finalised := false, todo := [], normSeq := 0, grads := [], norm := none, upFrom := [], lossOr := false, upSent := false, jobLoss := none,
    verdict := none, point := 0, digests := [], repairing := false, cause := 0, held := 0, lostWhileSuspended := false, concealed := 0,
    overBudget := 0, manLog := [], sampLog := [], balDigest := zeroBytes 16 }

/-- The small plan with an attempt in a step state. -/
def stepping (a : Attempt) (st : StepState) : State :=
  { sPlan with stp := { sPlan.stp with state := st, att := some a, curTag := a.tag, lastTag := a.tag },
               ctl := { Ctl.init with running := some a.job } }

/-- R232: a norm's own run, with its attempt. -/
theorem witness_CollectiveCompleteNorm :
    let r := colRun (some (StageJob.norm (zeroBytes 16) (zeroBytes 16)))
    let s := { stepping attempt0 .normCheck with cores := smSet Core.init [] 0 { awake with cols := [r] } }
    let u := pumpCore s core0
    (getCore u core0).cols = [r] ∧ kDone u r = true ∧ kDelivered u r = true ∧ u.stp.state = .normCheck ∧ u.stp.att = some attempt0 ∧
      opStalled u core0 r.ord = false ∧ canonical s := by
  unfold canonical; decide +kernel

def parity (second : Bool) : ParityCase := { unit := 0x10000000, src := 0, dst := 0, second := second, rebuilding := false, op := none }
def stall0 : Stall := { unit := 0, addr := 0x20, regen := true, op := none }

theorem witness_ParityReplayOrAbort :
    (parity false).second = false ∧ (parity true).second = true ∧
    (let s := stepping attempt0 .passes
     (workingCopy s (parity true) && !(parity true).rebuilding) = false ∧ s.stp.att = some attempt0 ∧ attempt0.point < 4 ∧
       s.stp.state ≠ .suspended) ∧
    (let s := { sRun with par := { Parity.init with stalls := [stall0] } }
     s.stp.state ≠ .suspended ∧ s.par.stalls.find? (fun p => p.regen && p.addr == (0x20 : BitVec 48).toNat) = some stall0) := by decide +kernel

theorem witness_RefreshAndScrubKeepData : 23 < stackCount sRun ∧ stackPlace (curDies sRun) 0 23 = some (11, 1) ∧
    sRun.spr.queue.length < 4096 ∧ stackPlace (curDies sPlan) 0 2 = none := by decide +kernel

/-! A manifest of one text entry of one byte at 0x1000, its input at 0x2000, its output at 0x3000, its outcomes at 0x4000, its
concealed bits in core 0. -/
def textProfile : Bytes :=
  fieldsAt 64 [(6, [0, 32]), (8, tagBytes (tagOf .fp32 false one32)), (36, toLe 4 noId), (40, toLe 4 noId), (44, toLe 4 0)]
def entryText : Bytes :=
  fieldsAt 128 [(8, [6]), (16, toLe 8 0x2000), (24, toLe 4 1), (32, toLe 6 0x3000), (40, toLe 4 4)]
def manText (magic : Nat) : Bytes :=
  fieldsAt 128 [(0, toLe 4 magic), (4, [1]), (8, toLe 8 1), (16, toLe 4 1), (24, toLe 6 (base0 + 0x100)), (32, toLe 6 0x4000)] ++ entryText
def planS : Plan := { planT with streams := [{ die := 0, stream := 0, eval := false, clusters := 1, profiles := [{ bytes := textProfile, ok := true }] }] }
def intake (x : Stream) (magic : Nat) : State :=
  let s := stepping attempt0 .passes
  { s with pln := { s.pln with plan := some planS }, streams := smSet Stream.init [] 0 x, mem := memOf [(0x1000, manText magic)] }
def submitted : Stream := { Stream.init with subs := [(0x1000, some 0)] }

theorem witness_ManifestQueuedOrInvalid :
    (let s := intake submitted 0x31464D4B; let x := getStream s (streamIdx 0 0)
     x.subs = [(0x1000, some 0)] ∧ s.stp.state ≠ .suspended ∧ anyStackHolds s = false ∧ x.queue.length < 4 ∧ replayRec s = none ∧ canonical s ∧
       manifestOk s 0x1000 0 0 (some 0) = true) ∧
    (let s := intake submitted 0x31464D4C; (getStream s (streamIdx 0 0)).subs = [(0x1000, some 0)] ∧
       manifestOk s 0x1000 0 0 (some 0) = false ∧ s.stp.att = some attempt0 ∧ attempt0.point < 4) := by
  unfold canonical; decide +kernel

def man0 : Man := { num := 0, hdr := sub (manText 0x31464D4B) 0 128, ents := [entryText], digest := zeroBytes 32, next := 0, released := 0 }
def sampleAs (st : SampleState) : Sample := { man := 0, idx := 0, ent := entryText, st := st }
def queued (window : List Sample) : Stream := { Stream.init with queue := [man0], window := window, nextNum := 1 }

theorem witness_SamplesAdmittedAndGranted :
    (∀ n ∈ [63, 64], let s := intake (queued (List.replicate n (sampleAs .waiting))) 0; let x := getStream s (streamIdx 0 0)
      s.stp.state ≠ .suspended ∧ x.queue = [man0] ∧ man0.next < man0.ents.length ∧ x.window.length = n) ∧
    (let s := intake (queued [sampleAs .waiting]) 0; let sl := getSlip s 0
     smGet none sl.busy (engineKey .text 1) = none ∧ 1 < enginesUp s 0 (kindIndex .text) ∧ smGet 0 sl.ptr (engineKey .text 1) = 0 ∧
       computeStopped s (islandId 4 0 0) = false ∧
       firstWaiting s .text (getStream s (streamIdx 0 ((0 + 0) % 8))).window = some (sampleAs .waiting)) := by decide +kernel

def slip0 : Slipway := { busy := [(8, some { stream := 0, man := 0, idx := 0 })], ptr := [] }

theorem witness_SamplesReadyThenReleased :
    (let s := { intake (queued [sampleAs .decoding]) 0 with slips := [(0, slip0)] }; let sl := getSlip s 0
     smGet none sl.busy (engineKey .text 0) = some { stream := 0, man := 0, idx := 0 } ∧ s.stp.state ≠ .suspended ∧
       hostReadFails s 0 .text 0 true = false ∧
       (getStream s (streamIdx 0 0)).window.find? (fun m => m.man == 0 && m.idx == 0) = some (sampleAs .decoding)) ∧
    (∀ o ∈ [(0 : Byte), 4], let m := sampleAs (.ready [(0x3000, [1])] (fieldsAt 32 [(8, [o])]))
      let s := intake (queued [m]) 0; let x := getStream s (streamIdx 0 0)
      s.stp.state ≠ .suspended ∧ anyStackHolds s = false ∧ x.window = [m] ∧ x.queue.find? (fun q => q.num == m.man) = some man0 ∧ canonical s ∧
        disjointRanges [(0x3000, 1), (mhConc man0.hdr + eSlot m.ent / 8, 1), (mhOutc man0.hdr, 32)] = true ∧
        (∀ y ∈ [(0x3000, 1), (mhConc man0.hdr + eSlot m.ent / 8, 1), (mhOutc man0.hdr, 32)], touchesAnyBank s y.1 y.2 = false)) := by
  unfold canonical; decide +kernel

/-- R204: a manifest whose releases signal counter 5 of core 0. -/
theorem witness_ReleaseSignals :
    let s := intake Stream.init 0
    remoteOk s (mhRemote (patch man0.hdr 40 (toLe 4 0x80000005))) = true ∧ smGet 0 (getCore s core0).ctr 5 < 1048575 := by decide +kernel

/-- R203: the release of a clean sample writes its output and its outcome record, and leaves the concealed bit. -/
theorem test_release_clean :
    (let m := sampleAs (.ready [(0x3000, [7])] (fieldsAt 32 [(0, [9])])); let s := releaseSample (intake (queued [m]) 0) 0 0
     (rdMem s 0x3000 1, rdMem s 0x4000 1, rdMem s (base0 + 0x100) 1, (getStream s 0).window.length)) = ([7], [9], [0], 0) := by decide +kernel

/-! The training step and the re-shard lock. -/

def jobOf (bytes : Bytes) : JobEnt := { queue := 0, index := 0, num := 0, bytes := bytes, sub := false }
def stepEntry (step : Nat) : JobEnt := jobOf (fieldsAt 64 [(0, [1]), (8, toLe 8 step), (16, [1]), (20, toLe 4 1)])
def heading (s : State) (j : JobEnt) (st : StepState) : State :=
  { s with ctl := { Ctl.init with waiting := [j] }, stp := { s.stp with state := st } }

theorem witness_StepEntryStartsAttempt :
    (let s := heading sPlan (stepEntry 1) .idle
     headEntry s 1 = some (stepEntry 1) ∧ s.stp.state = .idle ∧ stepOk s (stepEntry 1) = true ∧ s.hold.replay = none ∧ s.stp.kept = [] ∧
       canonical s) ∧
    (let s := heading sPlan (stepEntry 2) .idle
     headEntry s 1 = some (stepEntry 2) ∧ s.stp.state = .idle ∧ stepOk s (stepEntry 2) = false) ∧
    (let s := heading sPlan (stepEntry 1) .stopped; headEntry s 1 = some (stepEntry 1) ∧ s.stp.state = .stopped) := by
  unfold canonical; decide +kernel

theorem witness_RunStartWritesNumber :
    let s := { stepping attempt0 .passes with cores := [(0, { awake with run := 0 })] }; let x := getCore s core0
    (imageOf s (coreIdx core0)).isSome = true ∧ runReady s x = true ∧ canonical s ∧
      rdElem s (coreBase core0 + 0x10040) 1 ≠ 5 := by
  unfold canonical; decide +kernel

/-- The small plan with a Ballast of four rows of 64 bytes, two of them cached, lists at 0x60000 in HBM. -/
def planB : Plan :=
  { planT with hold := { holdT with balRow := 64, balBytes := 0x1000, balRows := 4, balCache := 0x70000, balSlots := 2, balLife := 1000,
                                    balList := 0x60000, balLStride := 64 } }
def sBallast : State :=
  let s := stepping { attempt0 with paged := [] } .passes
  { s with pln := { s.pln with plan := some planB }, mem := memOf [(0x60000, [1, 0, 0, 0]), (0x60010, [2])],
           hold := { Hold.init with cache := [(0, { row := some 2, ver0 := 0, ver1 := 0, lastUse := 0 })] } }

theorem witness_BallastPassPagedIn :
    sBallast.stp.att = some { attempt0 with paged := [] } ∧ sBallast.stp.state = .passes ∧ hasBallast sBallast = true ∧
      nextPaged { attempt0 with paged := [] } = some 0 ∧ (∀ r ∈ balRowsOf sBallast 0, slotOfRow sBallast r ≠ none) ∧
      balRowsOf sBallast 0 = [2] ∧ anyStackHolds sBallast = false ∧ canonical sBallast := by
  unfold canonical; decide +kernel

/-- The same with row 2 only among the durable versions; and a second pass whose predecessor has started. -/
def sMissing : State :=
  { sBallast with hold := { sBallast.hold with cache := [], bal := [{ row := 2, ver := 0, bytes := [7] ++ zeroBytes 63 }] } }

theorem witness_BallastRowMissing :
    (let s := sMissing
     balRowsOf s 0 = [] ++ 2 :: [] ∧ slotOfRow s 2 = none ∧ freeSlot (s.hold.cache.map fun q => q.1) (s.hold.cache.length + 1) 0 = 0 ∧
       0 < balSlots s ∧ newestOf s.hold.bal 2 = some { row := 2, ver := 0, bytes := [7] ++ zeroBytes 63 } ∧ canonical s) ∧
    (let a := { attempt0 with np := 2 }
     let s := { stepping a .passes with cores := [(0, { awake with run := 1 })] }
     nextPaged a = some 1 ∧ passEnded s 0 = true ∧ canonical s) := by
  unfold canonical; decide +kernel

/-- R338, R339: the missing row's bytes stand in half 0 of slot 0. -/
theorem test_page_in : rdMem (pageIn sMissing) 0x70000 2 = [7, 0] ∧ (pageIn sMissing).hold.slotTable = slotTableOf (pageIn sMissing) [2] := by
  decide +kernel

/-- The same plan on the second device of the job: job group and norm schedule over two devices. -/
def planJ : Plan := { planT with layouts := [{ layoutT with jobGroup := 1, shardGroup := 1 }, { layoutT with jobGroup := 1 }] }
def inJob (home : BitVec 18) (s : State) : State :=
  { s with pln := { s.pln with plan := some planJ }, fab := { Fabric.init with homeId := home } }
def ownRegion : GradRegion := region0 0x8000 0x9000 1 0
def ranOnce : State := { inJob 1 (stepping attempt0 .passes) with cores := [(0, { awake with run := 1 })] }
/-- The same device in a norm group of itself alone. -/
def ranAlone : State :=
  let s := stepping attempt0 .passes
  { s with cores := [(0, { awake with run := 1 })],
           pln := { s.pln with plan := some { planT with layouts := [{ layoutT with scheds := [{ schedT 2 with group := 0 }] }, layoutT] } } }

theorem witness_ReplicaReductionFinalises :
    (ranAlone.stp.att = some attempt0 ∧ ranAlone.stp.state = .passes ∧ runsDone ranAlone attempt0 = true ∧
      regionsOk ranAlone [{ ownRegion with sched := some 2 }] = true ∧ canonical ranAlone) ∧
    (ranOnce.stp.att = some attempt0 ∧ regionsOk ranOnce [ownRegion] = true ∧ ownRegion.sched = none ∧ attempt0.jobLoss = none ∧
      attempt0.finalised = false ∧
      ∃ p, jobParent ranOnce = some p ∧ routable ranOnce (BitVec.ofNat 18 (jobMemberId ranOnce p)).toNat = true) ∧
    (let s := { ranAlone with pln := { ranAlone.pln with plan := some { planT with layouts := [{ layoutT with scheds := [{ schedT 2 with group := 0 }], jobGroup := 1 }, layoutT] } } }
     s.stp.att = some attempt0 ∧ s.stp.state = .passes ∧ runsDone s attempt0 = true ∧ regionsOk s [ownRegion] = true ∧
       canonical s ∧ (jobKids s).all attempt0.upFrom.contains = false ∧ ∃ k, kCtx s 2 = some k ∧ k.size = 1) := by
  refine ⟨by unfold canonical; decide +kernel, ⟨by decide +kernel, by decide +kernel, by decide +kernel, by decide +kernel,
    by decide +kernel, ⟨0, by decide +kernel⟩⟩, by decide +kernel, by decide +kernel, by decide +kernel, by decide +kernel,
    by unfold canonical; decide +kernel, by decide +kernel, ⟨⟨{ schedT 2 with group := 0 }, { group := 0, n := (1, 1, 1), s := (1, 1, 1) }, none, 0, 1, 0⟩, by decide +kernel⟩⟩

def drain1 (point : Nat) : Drain := { bank := true, slot := 0, point := point, next := 0, header := zeroBytes 256, sister := .sealed }

theorem witness_UpdateWritesThenFlips :
    (∀ d ∈ [none, some (drain1 2)],
      let s := { stepping { attempt0 with verdict := some .commit } .normCheck with hold := { Hold.init with drain := d } }
      s.stp.att = some { attempt0 with verdict := some .commit } ∧ s.stp.state = .normCheck ∧ (curLayout s).isSome = true ∧
        hasBallast s = false ∧ anyStackHolds s = false ∧ targetDraining s = d.isSome ∧ (bankRange s 1).1 = 0x20000 ∧ (bankRange s 0).1 = 0x10000 ∧ canonical s) ∧
    (let out := layoutT.shards.flatMap fun x => [(0x20000 + x.offset, x.bytes / 8 * 8), (0x20000 + x.tagOff, 16)]
     disjointRanges out = true ∧ anyOverlap (layoutT.shards.map fun x => (0x10000 + x.offset, x.bytes / 8 * 8)) out = false ∧
       layoutT.shards ≠ []) ∧
    (let s := stepping attempt0 .update
     s.stp.state = .update ∧ (curLayout s).isSome = true ∧ attempt0.digests = [] ∧ replicaSize s = 1 ∧
       groupPeers s (replicaGroup s) = [] ∧ s.hold.replay = none ∧ anyStackHolds s = false) := by
  unfold canonical; decide +kernel

/-- A replica group of two devices. -/
def planR : Plan := { planT with layouts := [{ layoutT with replicaGroup := 1 }, layoutT] }
def tallying (a : Attempt) : State :=
  let s := stepping a .tally
  { s with pln := { s.pln with plan := some planR } }
def tallyTxn (tag : Nat) : Txn :=
  { txnOf .tally (txnFields [(16, toLe 8 1), (28, toLe 3 1)]) (toLe 4 tag ++ zeroBytes 12) with src := 1 }

theorem witness_TallyHoldsOrRepairs :
    (let s := tallying attempt0
     (fld32 (tallyTxn 0).data 0).toNat < s.stp.curTag.toNat ∧ s.stp.curTag.toNat < (fld32 (tallyTxn 2).data 0).toNat) ∧
    (let s := tallying attempt0; let txn := tallyTxn 1
     fld32 txn.data 0 = s.stp.curTag ∧ epochOk s txn.epoch = true ∧ s.stp.att = some attempt0 ∧
       (∃ g, replicaGroup s = some g ∧ txnFld txn 28 3 = 1 ∧ 1 < groupSize g ∧ txn.src.toNat = memberId g (myId s) 1 ∧
         attempt0.digests.length + 1 < groupSize g) ∧ 1 ≠ replicaIndex s ∧ fld64 txn.fields 0 = attempt0.step ∧
       txn.epoch = s.stp.epoch ∧ ∀ p ∈ attempt0.digests, p.1 ≠ 1) ∧
    (let a := { attempt0 with repairing := true, point := 5 }; let s := tallying a
     s.stp.att = some a ∧ s.stp.state = .tally ∧ a.repairing = true ∧ (curLayout s).isSome = true ∧ s.hold.replay = none ∧
       anyStackHolds s = false) := by
  refine ⟨by decide +kernel, ⟨by decide +kernel, by decide +kernel, by decide +kernel,
    ⟨{ group := 1, n := (2, 1, 1), s := (1, 1, 1) }, by decide +kernel⟩, by decide +kernel⟩, by decide +kernel⟩

/-- The recomputed digest is the majority where both members hold it. -/
theorem witness_repair_majority (d : Bytes) : majority [(0, d), (1, d)] (replicaSize (tallying attempt0)) = some d := by
  have h : replicaSize (tallying attempt0) = 2 := by decide +kernel
  simp [majority, votes, h]

def abortTxn (tag : Nat) : Txn := txnOf .cctl (txnFields [(16, [4]), (40, toLe 4 tag)]) []

theorem witness_AbortCausesKeepCommitted :
    (let s := stepping { attempt0 with point := 3 } .tally
     s.stp.att = some { attempt0 with point := 3 } ∧ s.stp.state ≠ .suspended ∧ (3 : Nat) < 4 ∧ isOwner s 0 = true ∧
       masterExists s 0 = true ∧ s.sec.boot = .ready ∧ ccTag (abortTxn 1) = s.stp.curTag ∧ epochOk s (abortTxn 1).epoch = true ∧
       s.stp.abortsSeen.contains (ccTag (abortTxn 1)) = false) ∧
    (let s := stepping { attempt0 with point := 4 } .tally
     s.stp.att = some { attempt0 with point := 4 } ∧ s.stp.state ≠ .suspended ∧ (4 : Nat) ≤ 4 ∧ s.stp.state ≠ .aborting) := by decide +kernel

theorem witness_AbortCompleteStops :
    let s := { stepping attempt0 .aborting with cores := [(0, awake)] }
    s.stp.att = some attempt0 ∧ s.stp.state = .aborting ∧ unitsQuiet s = true ∧ s.hold.replay = none := by decide +kernel

def evalEntry : JobEnt := jobOf (fieldsAt 64 [(0, [2]), (20, toLe 4 1)])
def closeEntry : JobEnt := jobOf (fieldsAt 64 [(0, [3])])
def inState (st : StepState) : State := { sPlan with stp := { sPlan.stp with state := st } }

theorem witness_OwnerStepCommands :
    (masterExists sPlan 0 = true ∧ sPlan.sec.boot = .ready ∧ isOwner sPlan 0 = true ∧ isOwner sPlan 1 = false ∧ masterExists sPlan 1 = true ∧
      sPlan.stp.state = .idle) ∧ (isOwner (inState .passes) 0 = true ∧ (inState .passes).stp.state = .passes) ∧
    (∀ st ∈ ([.passes, .normCheck, .updateWait, .update, .tally, .evaluation, .reshardLock] : List StepState),
      effState (inState st) = st ∧ isOwner (inState st) 0 = true) ∧
    (let s := { inState .suspended with stp := { (inState .suspended).stp with prior := .idle } }
     s.stp.state = .suspended ∧ s.stp.prior = .idle ∧ isOwner s 0 = true) ∧
    effState (inState .stopped) = .stopped ∧ effState (inState .aborting) = .aborting ∧
    ((inState .stopped).stp.state = .stopped ∧ (inState .stopped).hold.restoreFailed = false ∧ restoreRuns (inState .stopped) = false ∧
      loadRuns (inState .stopped) = false) ∧
    (let s := { inState .stopped with pln := { (inState .stopped).pln with loading := some (planT, 0) } }
     isOwner s 0 = true ∧ s.stp.state = .stopped ∧ loadRuns s = true) ∧
    (let s := heading sPlan evalEntry .idle
     headEntry s 2 = some evalEntry ∧ s.stp.state = .idle ∧ evalOk s evalEntry = true ∧ s.stp.kept = []) ∧
    (let s := heading sPlan closeEntry .evaluation
     headEntry s 3 = some closeEntry ∧ s.stp.state = .evaluation ∧ entryForm closeEntry [] = true ∧ s.stp.stopPend = false ∧
       { s.stp with stopPend := true }.state = .evaluation) := by decide +kernel

def cctlTxn (kind member tag : Nat) : Txn := txnOf .cctl (txnFields [(16, toLe 1 kind), (20, toLe 3 member), (40, toLe 4 tag)]) []

theorem witness_VerdictMessagesByAttempt :
    (let s := inJob 0 (stepping attempt0 .passes)
     epochOk s (cctlTxn 1 0 0).epoch = true ∧ (ccTag (cctlTxn 2 1 0)).toNat < s.stp.curTag.toNat ∧
       s.stp.curTag.toNat < (ccTag (cctlTxn 2 1 2)).toNat ∧ ccTag (cctlTxn 2 1 1) = s.stp.curTag ∧ s.stp.att = some attempt0 ∧
       attempt0.upFrom.contains (ccMember (cctlTxn 2 1 1)) = false ∧ (jobKids s).contains (ccMember (cctlTxn 2 1 1)) = true ∧
       attempt0.reduced = false) ∧
    (let s := inJob 1 (stepping attempt0 .passes)
     jobParent s = some (ccMember (cctlTxn 3 0 1)) ∧ attempt0.jobLoss = none ∧ jobKids s = [] ∧ s.stp.state = .passes ∧
       epochOk s (cctlTxn 3 0 1).epoch = true ∧ ccTag (cctlTxn 3 0 1) = s.stp.curTag) ∧
    (let s := { sPlan with stp := { sPlan.stp with curTag := 1, ended := { upFrom := [1], down := true, tallyFrom := [], step := 1 } } }
     ccTag (cctlTxn 2 1 1) = s.stp.curTag ∧ (cctlTxn 2 1 1).type = .cctl ∧ epochOk s (cctlTxn 2 1 1).epoch = true ∧ s.stp.att = none ∧
       s.stp.ended.upFrom.contains (ccMember (cctlTxn 2 1 1)) = true ∧ s.stp.ended.down = true) := by decide +kernel

def reshardEntry : JobEnt := jobOf (fieldsAt 64 [(0, [4]), (8, [1])])
def lockAt (point : Nat) : Lock :=
  { job := reshardEntry, target := 1, point := point, drainedFrom := [], permutedFrom := [], selfDrained := false, selfPermuted := false,
    waited := false, putsLeft := [], got := 0, abandonAsked := false, decided := false }
def locked (home : BitVec 18) (l : Lock) : State :=
  { inJob home sPlan with lock := some l, stp := { sPlan.stp with state := .reshardLock }, ctl := { Ctl.init with running := some l.job } }
def epochTxn (kind member : Nat) (epoch : W32) : Txn := { cctlTxn kind member 0 with epoch := epoch }

theorem witness_ReshardEntryTakesLock :
    let s := heading sPlan reshardEntry .idle
    headEntry s 4 = some reshardEntry ∧ s.stp.state = .idle ∧ reshardOk s reshardEntry = true ∧ s.hold.replay = none ∧ s.stp.kept = [] := by
  decide +kernel

theorem witness_LockMessagesDriveLock :
    (let s := locked 0 (lockAt 1)
     s.stp.state ≠ .suspended ∧ nothingOutstanding s = true ∧ kidsIn s (lockAt 1).drainedFrom = false ∧
       ccKind (epochTxn 5 1 0) = 5 ∧ (epochTxn 5 1 0).epoch = s.stp.epoch ∧ epochOk s (epochTxn 5 1 0).epoch = true ∧ (jobKids s).contains (ccMember (epochTxn 5 1 0)) = true ∧
       (lockAt 1).drainedFrom.contains (ccMember (epochTxn 5 1 0)) = false) ∧
    (let s := locked 1 (lockAt 1)
     nothingOutstanding s = true ∧ kidsIn s (lockAt 1).drainedFrom = true ∧
       ∃ p, jobParent s = some p ∧ routable s (BitVec.ofNat 18 (jobMemberId s p)).toNat = true) ∧
    (let s := locked 1 (lockAt 2)
     ccKind (epochTxn 6 0 0) = 6 ∧ epochOk s (epochTxn 6 0 0).epoch = true ∧ jobParent s = some (ccMember (epochTxn 6 0 0)) ∧ jobKids s = []) ∧
    (let s := locked 1 (lockAt 5)
     s.stp.state ≠ .suspended ∧ ccKind (epochTxn 8 0 1) = 8 ∧ epochOk s (epochTxn 8 0 1).epoch = true ∧
       jobParent s = some (ccMember (epochTxn 8 0 1)) ∧ jobKids s = []) ∧
    (let s := locked 1 (lockAt 1)
     s.stp.state = .reshardLock ∧ ccKind (epochTxn 9 0 0) = 9 ∧ epochOk s (epochTxn 9 0 0).epoch = true ∧
       jobParent s = some (ccMember (epochTxn 9 0 0))) ∧
    (let s := locked 0 (lockAt 1)
     ccKind (epochTxn 11 1 0) = 11 ∧ jobIndex s = 0 ∧ (lockAt 1).decided = false ∧ epochOk s (epochTxn 11 1 0).epoch = true) := by decide +kernel

/-- A layout map that moves 64 bytes inside the only member's own bank. -/
def planM : Plan := { planT with layouts := [layoutT, { layoutT with maps := [{ src := 0, dst := 0, residue := false, srcOff := 0, dstOff := 64, len := 64 }] }] }
def moving (l : Lock) (d : Option Drain) : State :=
  let s := locked 0 l
  { s with pln := { s.pln with plan := some planM }, hold := { Hold.init with drain := d } }

theorem witness_PermuteMovesOwnRange :
    (let s := moving (lockAt 3) (some (drain1 2)); s.stp.state ≠ .suspended ∧ canonical s ∧ targetDraining s = true ∧ anyStackHolds s = false) ∧
    (let s := moving (lockAt 3) none
     targetDraining s = false ∧ anyStackHolds s = false ∧ ∃ p, (permutes s (lockAt 3)).filter (fun p => p.src == jobIndex s) = [p] ∧ p.dst = jobIndex s) ∧
    (let l := { lockAt 4 with got := 64 }; let s := moving l none
     (targetLayout s l).isSome = true ∧ l.selfPermuted = false ∧ putsDelivered s = true ∧ permuteDue s l ≤ l.got) ∧
    (let s := locked 0 (lockAt 4)
     ∀ y, targetLayout s (lockAt 4) = some y → y.shards ≠ [] ∧
       disjointRanges (y.shards.map fun x => ((bankRange s 1).1 + x.tagOff, 16)) = true) ∧
    (let s := locked 1 (lockAt 4)
     kidsIn s (lockAt 4).permutedFrom = true ∧ putsDelivered s = true ∧ permuteDue s (lockAt 4) ≤ (lockAt 4).got ∧
       ∃ p, jobParent s = some p ∧ routable s (BitVec.ofNat 18 (jobMemberId s p)).toNat = true) ∧
    (let p : Permute := { src := 0, dst := 1, residue := false, srcOff := 0, dstOff := 0, len := 64 }
     let l := lockAt 3
     let s0 := locked 0 l
     let s := { s0 with pln := { s0.pln with plan := some { planJ with layouts := [{ layoutT with jobGroup := 1, shardGroup := 1 },
       { layoutT with jobGroup := 1, shardGroup := 1, maps := [p] }] } } }
     targetDraining s = false ∧ anyStackHolds s = false ∧ (permutes s l).filter (fun p => p.src == jobIndex s) = [p] ∧ p.dst ≠ jobIndex s ∧
       routable s (BitVec.ofNat 18 (jobMemberId s p.dst)).toNat = true) ∧
    (let l := lockAt 4; let s := locked 0 l; let txn := epochTxn 7 1 1
     kidsIn s l.permutedFrom = false ∧ putsDelivered s = true ∧ permuteDue s l ≤ l.got ∧ ccKind txn = 7 ∧ epochOk s txn.epoch = true ∧
       (jobKids s).contains (ccMember txn) = true ∧ l.permutedFrom.contains (ccMember txn) = false ∧ l.selfPermuted = false) := by
  refine ⟨by unfold canonical; decide +kernel, ⟨by decide +kernel, by decide +kernel,
    ⟨{ src := 0, dst := 0, residue := false, srcOff := 0, dstOff := 64, len := 64 }, by decide +kernel⟩⟩,
    by decide +kernel, fun y h => ?_, ⟨by decide +kernel, by decide +kernel, by decide +kernel, ⟨0, by decide +kernel⟩⟩, by decide +kernel,
    by decide +kernel⟩
  obtain rfl : _ = y := Option.some.inj h
  decide +kernel

/-- The islands of the stacks of the small plan, and the first of them in self-refresh. -/
def stack0 : IslandId := islandId 5 0 0
def sleepy (s : State) : State := { s with clk := { s.clk with islands := [(islandKey stack0, { Island.init with mode := modeSleep })] } }

/-- R445: a stack in self-refresh holds a mover whose rows it has, the manifests, the releases, the page-in, the update, the repair, the
write-back, the permute, the drain and the restore. -/
theorem witness_StacksHold :
    (let s := sleepy (movState (movDesc 1 0 0 0x40000 (base0 + 0x2000) 4 2)); let t := planned s
     movStackHeld t (movDesc 1 0 0 0x40000 (base0 + 0x2000) 4 2) [] = true) ∧
    (∀ s ∈ [intake submitted 0x31464D4B, sBallast, stepping attempt0 .update, tallying attempt0, moving (lockAt 3) none],
      anyStackHolds (sleepy s) = true) := by decide +kernel

/-- A replica group of n devices that all hold digests of their own, but for the last. -/
def planN (n : Nat) : Plan :=
  { planT with layouts := [{ layoutT with groups := layoutT.groups ++ [{ group := 2, n := (n, 1, 1), s := (1, 1, 1) }], replicaGroup := 2 }, layoutT] }
def tallyingN (n : Nat) (ds : List (Nat × Bytes)) : State :=
  let s := stepping { attempt0 with digests := ds } .tally
  { s with pln := { s.pln with plan := some (planN n) } }
def lastTally (m : Nat) (d : Bytes) : Txn :=
  { txnOf .tally (txnFields [(16, toLe 8 1), (28, toLe 3 m), (32, d)]) (toLe 4 1 ++ zeroBytes 12) with src := BitVec.ofNat 18 m }
def dig (b : Byte) : Bytes := List.replicate 16 b

/-- R239, R240: the last digest makes the own one the majority, another one, or none. -/
theorem witness_LastDigest :
    (∀ p ∈ [(2, [(0, dig 1)], dig 1), (3, [(0, dig 1), (1, dig 2)], dig 2), (2, [(0, dig 1)], dig 2)],
      let s := tallyingN p.1 p.2.1; let a := { attempt0 with digests := p.2.1 }; let txn := lastTally (p.1 - 1) p.2.2
      fld32 txn.data 0 = s.stp.curTag ∧ epochOk s txn.epoch = true ∧ s.stp.att = some a ∧ s.stp.state = .tally ∧ a.point < 4 ∧
        (∃ g, replicaGroup s = some g ∧ groupSize g = p.1 ∧ txn.src.toNat = memberId g (myId s) (p.1 - 1)) ∧
        txnFld txn 28 3 = p.1 - 1 ∧ p.1 - 1 ≠ replicaIndex s ∧ fld64 txn.fields 0 = a.step ∧ txn.epoch = s.stp.epoch ∧
        (∀ q ∈ a.digests, q.1 ≠ p.1 - 1) ∧ s.hold.replay = none ∧ a.digests.length + 1 = p.1 ∧
        a.digests.find? (fun q => q.1 == replicaIndex s) = some (replicaIndex s, dig 1) ∧ sub txn.fields 16 16 = p.2.2) ∧
    (2 : Nat) < 2 * votes [(0, dig 1), (1, dig 1)] (dig 1) ∧
    (dig 2 ≠ dig 1 ∧ (3 : Nat) < 2 * votes [(0, dig 1), (1, dig 2), (2, dig 2)] (dig 2)) ∧
    ∀ v, 2 * votes [(0, dig 1), (1, dig 2)] v ≤ 2 := by
  refine ⟨?_, by decide, by decide, fun v => ?_⟩
  · intro p h
    simp only [List.mem_cons, List.not_mem_nil, or_false] at h
    obtain rfl | rfl | rfl := h
    · exact ⟨by decide +kernel, by decide +kernel, by decide +kernel, by decide +kernel, by decide,
        ⟨{ group := 2, n := (2, 1, 1), s := (1, 1, 1) }, by decide +kernel⟩, by decide +kernel⟩
    · exact ⟨by decide +kernel, by decide +kernel, by decide +kernel, by decide +kernel, by decide,
        ⟨{ group := 2, n := (3, 1, 1), s := (1, 1, 1) }, by decide +kernel⟩, by decide +kernel⟩
    · exact ⟨by decide +kernel, by decide +kernel, by decide +kernel, by decide +kernel, by decide,
        ⟨{ group := 2, n := (2, 1, 1), s := (1, 1, 1) }, by decide +kernel⟩, by decide +kernel⟩
  · cases a : dig 1 == v <;> cases b : dig 2 == v <;> simp only [votes, List.filter, a, b, List.length] <;> try omega
    exact absurd ((eq_of_beq a).trans (eq_of_beq b).symm) (by decide)

/-- The second device of the job in its norm check, with a norm and a limit of 1.0. -/
def checking (n : W64 × W64) : State :=
  let s := inJob 1 (stepping { attempt0 with norm := some n } .normCheck)
  { s with pln := { s.pln with plan := some { planJ with policy := { policyT with normLimit := 0x3F800000 } } } }

/-- R234: G² of 0 and of 4 against a limit of 1; G² that is a NaN; and a bad loss. -/
theorem witness_VerdictDecides :
    (let n : W64 × W64 := (0x4010000000000000, 0); let s := checking n; let txn := cctlTxn 3 0 1
     jobParent s = some (ccMember txn) ∧ attempt0.jobLoss = none ∧ jobKids s = [] ∧ s.stp.state = .normCheck ∧
        s.stp.att = some { attempt0 with norm := some n } ∧ attempt0.verdict = none ∧ s.hold.replay = none ∧ (curPlan s).isSome = true ∧
        epochOk s txn.epoch = true ∧ ccTag txn = s.stp.curTag) ∧
    (let l := decode .fp32 0x3F800000
     numLt (numMul l l).1 (dwordVal 0 0) = false ∧ isFin (dwordVal 0x4010000000000000 0) = true ∧
       numLt (numMul l l).1 (dwordVal 0x4010000000000000 0) = true ∧ isNan (dwordVal 0x7FF8000000000000 0) = true ∧
       bitOf (ccData (cctlTxn 3 0 1)) 0 ≠ 1) ∧
    bitOf (ccData { cctlTxn 3 0 1 with fields := txnFields [(16, [3]), (32, [1]), (40, toLe 4 1)] }) 0 = 1 := by decide +kernel

/-! The machine as a whole, the fabric. -/

/-- State.reset is canonical and legal, and a command at the front of its queue answers a next state. -/
def windows0 : List (List (BitVec 16)) := List.replicate 14 (List.replicate 16 640)
def waitingOne : State := { State.reset with pending := [.referenceSettle windows0, .bootReady] }

theorem witness_StepRunsFrontCommand : waitingOne.pending = .referenceSettle windows0 :: [.bootReady] ∧ State.reset.pending = [] ∧
    atRest State.reset := by unfold atRest; decide

theorem witness_StepKeepsLegalFields : legalFields waitingOne ∧ (∃ t, step waitingOne = .next t) := by
  refine ⟨by unfold legalFields; decide, ?_⟩
  exact ⟨_, rfl⟩

theorem witness_StepKeepsCanonical : canonical waitingOne ∧ (∃ t, step waitingOne = .next t) := by
  refine ⟨by unfold canonical; decide, ?_⟩
  exact ⟨_, rfl⟩

/-- A good reference with some islands locked on it. -/
def onRef (is : List IslandId) (s : State) : State :=
  { s with clk := { s.clk with ref := .good, islands := is.map fun i => (islandKey i, { Island.init with generator := true, lock := true, mode := modeRun }) } }
/-- The running device with one port in a given state, its island on the reference. -/
def withPort (x : Port) : State := onRef [portIsland 0] { sRun with fab := { Fabric.init with ports := [(0, x)] } }
def portUp : Port := { Port.init with state := .up, width := 8, linked := true, credit := [(0, 256), (1, 256), (2, 256), (3, 256)] }

theorem witness_PortsTrainAndRepair :
    (∀ n ∈ [0, 15], let x := { Port.init with state := .training, fails := n }; let s := withPort x
      getPort s 0 = x ∧ canonical s ∧ s.clk.ref = .good ∧ onReference s (portIsland 0) = true ∧ s.pln.plan = none ∧ x.linked = false ∧ x.replayBuf = [] ∧ x.ctlWait = []) ∧
    (State.reset.clk.ref ≠ .good ∧ onReference (withPort portUp) (portIsland 1) = false) ∧
    (let x := portUp; let s := withPort x; getPort s 0 = x ∧ canonical s ∧ x.swapRx = none ∧ spareFree x = true) ∧
    (let x := { portUp with spareRx := true, laneBadRx := 1 }; let s := withPort x
     getPort s 0 = x ∧ canonical s ∧ 4 ≤ healthy (x.laneBadRx ||| BitVec.ofNat 9 (2 ^ 8)) ∧ 4 ≤ healthy x.laneBadTx) ∧
    (let x := { portUp with swapRx := some (1, 8, 31), swapTx := some (1, 8, 31), rxSeq := 31, txSeq := 31 }; let s := withPort x
     getPort s 0 = x ∧ canonical s ∧ pastSwitch x.rxSeq 31 = true ∧ pastSwitch x.txSeq 31 = true ∧ 8 ≤ healthy x.laneBadRx ∧
       8 ≤ healthy x.laneBadTx) ∧
    (let s := withPort portUp; isOwner s 0 = true ∧ masterExists s 0 = true ∧ s.sec.boot = .ready ∧ selPort s 0 = some 0) ∧
    (getPort (withPort { Port.init with state := .disabled }) 0).state = .disabled := by
  unfold canonical
  refine ⟨by decide +kernel, by decide, by decide +kernel, by decide +kernel, by decide +kernel, by decide +kernel, by decide +kernel⟩

/-- A flit sealed with its CRC for the sequence number expected. -/
def flitFor (x : Port) (kind : BitVec 2) (vl : Fin 4) (body : Bytes) : Flit :=
  let f : Flit := { kind := kind, vl := vl, ack := 0xFFF, body := sub body 0 252, crc := 0 }
  { f with crc := flitCrc x.rxSeq f }
def putZero : Txn := { txnOf .put (txnFields [(16, toLe 6 (base0 + 0x5000))]) [1, 2, 3, 4] with dst := 0, src := 1 }

theorem flitFor_ok (x y : Port) (kind : BitVec 2) (vl : Fin 4) (body : Bytes) (h : y.rxSeq = x.rxSeq) :
    flitOk y (flitFor x kind vl body) fec0 = true ∧
      flitOk y { flitFor x kind vl body with crc := (flitFor x kind vl body).crc + 1 } fec0 = false := by
  have e : ∀ c, flitCrc y.rxSeq { flitFor x kind vl body with crc := c } = (flitFor x kind vl body).crc := by rw [h]; intro c; rfl
  constructor
  · have := e (flitFor x kind vl body).crc
    simp only [flitOk, fec0, Bool.not_false, Bool.true_and, beq_iff_eq]
    exact this
  · simp only [flitOk, fec0, Bool.not_false, Bool.true_and, beq_eq_false_iff_ne, ne_eq, e]
    generalize (flitFor x kind vl body).crc = c
    revert c
    exact fun c h' => by simpa using congrArg (fun z => z - c) h'

theorem witness_PortFlitsInOrder :
    (let x := { portUp with carries := true }; let s := withPort x; let f := flitFor x 0 0 (txnBytes putZero)
     getPort s 0 = x ∧ canonical s ∧ receives x = true ∧ traceReplay s = false ∧ flitOk (noteFec x fec0) f fec0 = true ∧
       flitOk (noteFec x fec0) { f with crc := f.crc + 1 } fec0 = false ∧ (parseStream 64 f.body).1.map (fun i => i.1) = [some putZero]) ∧
    (let x := portUp; let f := flitFor x 1 0 (toLe 2 4)
     flitOk (noteFec x fec0) f fec0 = true ∧ x.carries = false ∧ byteAt f.body 10 = 0 ∧ fld f.body 8 2 < 0x8000 ∧ byteAt f.body 19 < 0x80) ∧
    (∀ n ∈ [6, 7], let x := { portUp with replayBuf := [flit0 0 252], txSeq := 1, resends := n }; let s := withPort x
      getPort s 0 = x ∧ receives x = true ∧ x.replayBuf ≠ []) ∧
    (let x := { portUp with state := .held, flying := [(0, 1, 5)] }; portHolds x ≠ [] ∧ x.state = .held) ∧
    portHolds { portUp with state := .held } = [] ∧
    (let s := stepping attempt0 .passes; s.stp.att = some attempt0 ∧ attempt0.point < 4 ∧ s.stp.state ≠ .suspended) ∧
    (let x := { portUp with state := .held }; let s := { stepping attempt0 .suspended with fab := { Fabric.init with ports := [(0, x)] } }
     getPort s 0 = x ∧ x.state = .held ∧ s.stp.state = .suspended ∧ s.stp.att = some attempt0 ∧ canonical s) := by
  have h1 := flitFor_ok { portUp with carries := true } (noteFec { portUp with carries := true } fec0) 0 0 (txnBytes putZero) rfl
  have h2 := flitFor_ok portUp (noteFec portUp fec0) 1 0 (toLe 2 4) rfl
  refine ⟨⟨by decide +kernel, by unfold canonical; decide +kernel, by decide, by decide, h1.1, h1.2, by decide +kernel⟩,
    ⟨h2.1, by decide, by decide +kernel, by decide +kernel, by decide +kernel⟩, by decide +kernel, by decide +kernel, by decide +kernel,
    by decide +kernel, by unfold canonical; decide +kernel⟩

/-- R286: the CRC is taken over the sequence number too. -/
theorem test_flit_number_in_crc : flitCrc 0 { flit0 0 0 with body := [1] } ≠ flitCrc 1 { flit0 0 0 with body := [1] } := by decide +kernel

def outT (dst : BitVec 18) (arr : Option Arrived) : Outbound := { rail := 0, arr := arr, txn := { putZero with dst := dst } }
def routing (o : Outbound) : State :=
  let s := inJob 0 (stepping attempt0 .passes)
  { s with fab := { s.fab with outbox := [o], ports := [(0, { portUp with carries := true })] } }
/-- An accept entry of ID 1, of mode 0, valid. -/
def acceptOne : Alias := { lo := 1, hi := 0x80000000 }

theorem witness_RoutingNearsDestination :
    (routableIn (64, 3, 1) 0 = true ∧ routableIn (64, 3, 1) (63 + 64 * 2) = true) ∧
    (let s := routing (outT 0 (some ⟨0, 0, 1⟩))
     isForMe s false (outT 0 (some ⟨0, 0, 1⟩)).txn = true ∧ ((outT 0 none).txn.aliased && (acceptId s).isNone) = false) ∧
    (let s := routing (outT 1 none)
     isForMe s true (outT 1 none).txn = false ∧ aliasList s = [] ∧ routable s 1 = true ∧
       txnDir s none (outT 1 none).txn = some 0 ∧ portFor s 0 0 = some 0) ∧
    (let s := { inJob 0 sPlan with staged := smSet none [] (aliasLoOff 0) (some 1), stp := { sPlan.stp with state := .stopped } }
     isOwner s 0 = true ∧ masterExists s 0 = true ∧ s.sec.boot = .ready ∧ smGet none s.staged (aliasLoOff 0) = some 1 ∧
       aliasOk s 0 (aliasOf 1 0x80000000) = true ∧ aliasOk s 0 (aliasOf 1 0xE0000000) = false) := by decide +kernel

def getTxn : Txn :=
  { txnOf .getReq (txnFields [(16, toLe 6 (base0 + 0x5000)), (22, toLe 2 4096), (24, toLe 6 (base0 + 0x6000))]) [] with src := 1 }
def asked (o : SentFor) (ty : TxnType) : State :=
  { sPlan with stp := { sPlan.stp with state := .passes, att := some attempt0 },
               fab := { sPlan.fab with outstanding := [(0, { putZero with type := ty }, o)] } }
def rspTxn : Txn := { txnOf .getRsp (txnFields [(16, toLe 6 (base0 + 0x5000))]) [1, 2, 3, 4] with src := 1 }
def complTxn (st : Byte) : Txn := { txnOf .compl (txnFields [(16, [st])]) [] with src := 1 }

theorem witness_TransactionsTakeEffect :
    (let s := sPlan
     canonical s ∧ s.lock = none ∧ epochOk s putZero.epoch = true ∧ mapped s (base0 + 0x5000) 4 = true ∧
       txnFld putZero 16 6 = base0 + 0x5000 ∧ inHoldWindow (base0 + 0x5000) 4 = false ∧ bankWriteOk s (base0 + 0x5000) 4 = true ∧
       hbmHolds s (base0 + 0x5000) 4 = false ∧ hbmHolds s 0x10FFE 4 = false ∧ isSisterLog s putZero (base0 + 0x5000) = false ∧
       putZero.sig = false ∧ mapped s 0x10FFE 4 = true ∧ inHoldWindow 0x10FFE 4 = false ∧ bankWriteOk s 0x10FFE 4 = false ∧
       epochOk s 1 = false ∧
       txnFld getTxn 22 2 = 4096 ∧ epochOk s getTxn.epoch = true ∧ mapped s (txnFld getTxn 16 6) 4096 = true ∧
       mapped s (leNat (sub getTxn.fields 8 6)) 4096 = true ∧ traceReplay s = false) ∧
    (let s := asked .control .getReq
     (answered s rspTxn).isSome = true ∧ txnFld rspTxn 22 1 = 0 ∧ mapped s (txnFld rspTxn 16 6) 4 = true ∧
       bankWriteOk s (txnFld rspTxn 16 6) 4 = true) ∧
    (∀ st ∈ [(0 : Byte), 1, 2, 4], let s := asked .control .cctl
      (∃ q, answered s (complTxn st) = some q ∧ q.2.2 = .control) ∧ txnFld (complTxn st) 16 1 = st.toNat ∧
        s.stp.att = some attempt0 ∧ attempt0.point < 4 ∧ s.stp.state ≠ .suspended) := by
  refine ⟨by unfold canonical; decide +kernel, by decide +kernel, ?_⟩
  intro st h
  refine ⟨⟨(0, { putZero with type := .cctl }, .control), ?_⟩, ?_⟩ <;>
    (simp only [List.mem_cons, List.not_mem_nil, or_false] at h; obtain rfl | rfl | rfl | rfl := h <;> decide +kernel)

/-- R280: an axis of extent 1; R286: a null flit; R285: an identity at stage 5; R293: a hold that expires on a disabled port. -/
theorem witness_PortForms :
    (let s := onRef [portIsland 2] { sPlan with fab := { Fabric.init with ports := [(2, { Port.init with state := .training })] } }
     unusedPort s 2 = true ∧ unusedPort s 0 = false ∧ s.clk.ref = .good ∧ onReference s (portIsland 2) = true ∧ (getPort s 2).state = .training) ∧
    (let f := flitFor portUp 2 0 []
     flitOk (noteFec portUp fec0) f fec0 = true ∧ f.kind = 2) ∧
    (let f := flitFor portUp 1 0 (fieldsAt 252 [(16, toLe 3 1), (19, [0x83])])
     flitOk (noteFec portUp fec0) f fec0 = true ∧ 0x80 ≤ byteAt f.body 19) ∧
    (let x := { portUp with state := .disabled, flying := [(0, 1, 5)] }
     x.linked = true ∧ portHolds x ≠ []) := by
  have h1 := flitFor_ok portUp (noteFec portUp fec0) 2 0 [] rfl
  have h2 := flitFor_ok portUp (noteFec portUp fec0) 1 0 (fieldsAt 252 [(16, toLe 3 1), (19, [0x83])]) rfl
  exact ⟨by decide +kernel, ⟨h1.1, by decide⟩, ⟨h2.1, by decide +kernel⟩, by decide +kernel⟩

/-- R305: a redirect entry changes the destination; R335: a response to a stand-in's read; R276: one of another epoch. -/
theorem witness_RedirectAndStandin :
    (let s := { routing (outT 1 none) with fab := { (routing (outT 1 none)).fab with aliases := [(0, { lo := 1, hi := 0xA0000000 })] } }
     (redirected s none (outT 1 none).txn).dst ≠ 1 ∧ aliasList s ≠ []) ∧
    (let s := { asked (.standin 0) .getReq with hold := { Hold.init with fetch := some freshFetch } }
     (answered s rspTxn).map (fun q => q.2.2) = some (.standin 0) ∧ epochOk s rspTxn.epoch = true ∧ s.hold.fetch = some freshFetch ∧
       txnFld rspTxn 22 1 = 0 ∧ epochOk s { rspTxn with epoch := 9 }.epoch = false) ∧
    (let t := { putZero with sig := true }; t.sig = true ∧ epochOk sPlan t.epoch = true ∧ txnFld t 16 6 = base0 + 0x5000) := by
  decide +kernel

/-- A PUT of epoch E + 1 into the alternate state bank inside the lock, without and with a drain of that bank. -/
def permutePut : Txn := { txnOf .put (txnFields [(16, toLe 6 0x20040)]) [9, 8, 7, 6] with epoch := 1 }

theorem witness_PermutePut : ∀ d ∈ [none, some (drain1 2)],
    let s := moving (lockAt 3) d
    txnFld permutePut 16 6 = 0x20040 ∧ s.lock = some (lockAt 3) ∧ isPermute s 0x20040 4 = true ∧ inAlternate s 0x20040 4 = true ∧
      hbmHolds s 0x20040 4 = false ∧ isSisterLog s permutePut 0x20040 = false ∧ epochOk s permutePut.epoch = true ∧
      permutePut.epoch ≠ s.stp.epoch ∧ mapped s 0x20040 4 = true ∧ inHoldWindow 0x20040 4 = false ∧ targetDraining s = d.isSome ∧
      canonical s := by
  unfold canonical; decide +kernel

/-! The Hold. -/

def holdJob (c : Nat) (l : List (Nat × Bytes)) : JobEnt := jobOf (fieldsAt 64 ((0, [5]) :: (8, toLe 1 c) :: l))
def commanding (s : State) (j : JobEnt) : State :=
  { s with hold := { s.hold with cmd := some { code := hCmd j, job := j, cancel := false } }, ctl := { Ctl.init with running := some j },
           stp := { s.stp with state := .stopped } }
def draining (d : Drain) : State := { sPlan with hold := { Hold.init with drain := some d } }
/-- Row 2 of the Ballast in slot 0, its version 1 current and not durable. -/
def sDirty : State :=
  { sBallast with stp := { sBallast.stp with c := 1 }, hold := { sBallast.hold with cache := [(0, { row := some 2, ver0 := 1, ver1 := 2, lastUse := 0 })], bucket := 1000, drain := some (drain1 2) } }

theorem witness_SnapshotDrainSeals :
    (∀ n ∈ [2, 3, 4], let d := { drain1 n with sister := .failed }; let s := draining d
      s.hold.drain = some d ∧ s.stp.state ≠ .suspended ∧ canonical s ∧ (curPlan s).isSome = true ∧ d.point = n ∧
        snapDirty s (hdrStep d.header) = [] ∧ d.sister ≠ .pending ∧ s.hold.snapQueue = [] ∧ s.hold.log = []) ∧
    (let s := sDirty
     anyStackHolds s = false ∧ slotOfRow s 2 = some 0 ∧ (getSlotB s 0).row = some 2 ∧ slotDirty s (getSlotB s 0) = true ∧ (drain1 2).point ≠ 3 ∧
       bucketMax s ≤ 2 * s.hold.bucket ∧ nextDirty s = some 2 ∧ canonical s) := by
  unfold canonical; decide +kernel

def rec0 : LogRec := { seq := 1, type := 1, pos := 64, bytes := zeroBytes 128 }

/-- A record whose copy is missing; a queued snapshot; a version that the draining snapshot relies on, with and without a batch. -/
theorem witness_SnapshotDrainForms :
    (let s := { draining (drain1 2) with hold := { (draining (drain1 2)).hold with log := [rec0] } }
     s.hold.log.dropWhile (fun r => s.hold.sisAcks.contains r.seq) = [rec0] ∧
       (holdCfg s).isSome = true ∧ routable s (BitVec.ofNat 18 (sisterId s)).toNat = true ∧ traceReplay s = false ∧
       0 < rec0.bytes.length ∧ rec0.bytes.length ≤ 4096 ∧ rec0.pos % logBytes s + rec0.bytes.length ≤ logBytes s ∧ canonical s) ∧
    (∀ b ∈ [(batchBytes, 0), (batchBytes - 1, 0), (0, 64)],
      let s := { sDirty with hold := { sDirty.hold with cache := [(0, { row := some 2, ver0 := 0, ver1 := emptyVer, lastUse := 0 })], bucket := b.1, batch := b.2, drain := some (drain1 3) } }
      anyStackHolds s = false ∧ slotOfRow s 2 = some 0 ∧ (drain1 3).point = 3 ∧ snapNeeds s (getSlotB s 0) (hdrStep (drain1 3).header).toNat = some 0 ∧
        canonical s ∧ s.stp.state ≠ .suspended) := by
  unfold canonical; decide +kernel

theorem witness_HoldCommandsAccepted :
    (let j := holdJob 1 [(16, [3])]; let s := heading sPlan j .idle
     headEntry s 5 = some j ∧ loadRuns s = false ∧ holdOk s j = true) ∧
    (let j := holdJob 8 []; let s := heading sPlan j .idle; headEntry s 5 = some j ∧ holdOk s j = false) ∧
    (isOwner sPlan 0 = true ∧ masterExists sPlan 0 = true ∧ sPlan.sec.boot = .ready ∧ sPlan.hold.trace = false) ∧
    (commanding sPlan (holdJob 3 [])).hold.cmd = some { code := 3, job := holdJob 3 [], cancel := false } ∧
    canonical sPlan ∧ attempt0.point < 4 := by
  unfold canonical; decide +kernel

/-! An image that fits: a header of ID 1 at step 3, with the part's stepping, and its body of zeros. -/

def front : Bytes :=
  fieldsAt 36 [(0, toLe 4 0x50534B4B), (8, [3]), (16, [5]), (32, [1])] ++ (le32 Config.stepping ++
    fieldsAt 120 [(0, toLe 8 0x1000), (8, toLe 8 0x1000)])
/-- A header from its first 160 bytes and a digest. -/
def imageFrom (f d : Bytes) : Bytes := withHchk (f ++ d ++ zeroBytes 48)
def image (d : Bytes) : Bytes := imageFrom front d

theorem front_length : front.length = 160 := by decide +kernel

theorem imageFrom_eq (f d : Bytes) (hf : f.length = 160) (hd : d.length = 32) :
    (f ++ d ++ zeroBytes 48).length = 240 ∧ imageFrom f d = (f ++ d ++ zeroBytes 48) ++ digest16 (f ++ d ++ zeroBytes 48) := by
  have h : (f ++ d ++ zeroBytes 48).length = 240 := by simp [hf, hd, zeroBytes]
  exact ⟨h, by rw [imageFrom, withHchk, ← h, sub_self]⟩

theorem imageFrom_field (f d : Bytes) (hf : f.length = 160) (hd : d.length = 32) (a n : Nat) (h : a + n ≤ 160) :
    sub (imageFrom f d) a n = sub f a n := by
  obtain ⟨h1, h2⟩ := imageFrom_eq f d hf hd
  rw [h2, sub_append_left _ _ _ _ (by omega), List.append_assoc, sub_append_left _ _ _ _ (by omega)]

theorem imageFrom_digest (f d : Bytes) (hf : f.length = 160) (hd : d.length = 32) : sub (imageFrom f d) 160 32 = d := by
  obtain ⟨h1, h2⟩ := imageFrom_eq f d hf hd
  rw [h2, sub_append_left _ _ _ _ (by omega), List.append_assoc, ← hf, sub_append_right, sub_prefix _ _ _ hd]

theorem imageFrom_sealed (f d : Bytes) (hf : f.length = 160) (hd : d.length = 32) (hm : fld f 0 4 = 0x50534B4B) :
    headerSealed (imageFrom f d) = true := by
  obtain ⟨h1, h2⟩ := imageFrom_eq f d hf hd
  have h0 : fld (imageFrom f d) 0 4 = 0x50534B4B := by rw [fld, imageFrom_field f d hf hd 0 4 (by omega)]; exact hm
  have h3 : sub (imageFrom f d) 0 240 = f ++ d ++ zeroBytes 48 := by rw [h2, sub_prefix _ _ _ h1]
  have h4 : sub (imageFrom f d) 240 16 = digest16 (f ++ d ++ zeroBytes 48) := by
    rw [h2, ← h1, sub_append_right]
    exact (congrArg (sub _ 0) (digest16_length _).symm).trans (sub_self _)
  rw [headerSealed, h0, h3, h4]
  simp

theorem image_field (d : Bytes) (hd : d.length = 32) (a n : Nat) (h : a + n ≤ 160) : sub (image d) a n = sub front a n :=
  imageFrom_field front d front_length hd a n h

theorem image_sealed (d : Bytes) (hd : d.length = 32) : headerSealed (image d) = true :=
  imageFrom_sealed front d front_length hd (by decide +kernel)

theorem image_digest_field (d : Bytes) (hd : d.length = 32) : sub (image d) 160 32 = d :=
  imageFrom_digest front d front_length hd

theorem image_layout (d : Bytes) (hd : d.length = 32) : byteAt (image d) 28 = 0 := by
  have h := congrArg (fun l : Bytes => (l.getD 0 0).toNat) (image_field d hd 28 1 (by omega))
  have e : ((sub front 28 1).getD 0 0).toNat = 0 := by decide +kernel
  have f : ∀ b : Bytes, ((sub b 28 1).getD 0 0).toNat = byteAt b 28 := fun _ => rfl
  simp only [e, f] at h
  exact h

/-- The second device, which also answers under ID 1 by an accept entry. -/
def sImage (j : JobEnt) (d : Bytes) : State :=
  let s := commanding sPlan j
  { s with fab := { Fabric.init with homeId := 1, aliases := [(0, acceptOne)] },
           hold := { s.hold with slots := [(0, { Slot.init with st := .sealed, header := image d })] } }

theorem image_fits (j : JobEnt) (d e : Bytes) (hd : d.length = 32) (n : W64) (h : 3 ≤ n.toNat) :
    imageFits (sImage j e) (image d) n = true := by
  have hs : fld32 (image d) 36 = Config.stepping := by
    rw [fld32, fld, image_field d hd 36 4 (by omega), show sub front 36 4 = toLe 4 Config.stepping.toNat from rfl, leNat_toLe]
    apply BitVec.eq_of_toNat_eq
    simpa using Config.stepping.isLt
  have hp : curPlan (sImage j e) = some planT := rfl
  have h1 : sub (image d) 72 32 = planDigest (sImage j e) := by
    rw [image_field d hd 72 32 (by omega)]; exact (by decide +kernel : sub front 72 32 = zeroBytes 32)
  have h2 : sub (image d) 104 32 = (sImage j e).sec.fwDigest := by
    rw [image_field d hd 104 32 (by omega)]; exact (by decide +kernel : sub front 104 32 = zeroBytes 32)
  have h3 : sub (image d) 56 16 = shapeId (sImage j e) := by
    rw [image_field d hd 56 16 (by omega)]; exact (by decide +kernel : sub front 56 16 = zeroBytes 16)
  have h4 : fld (image d) 40 8 = 0x1000 := by rw [fld, image_field d hd 40 8 (by omega)]; decide +kernel
  have h5 : fld (image d) 48 8 = 0x1000 := by rw [fld, image_field d hd 48 8 (by omega)]; decide +kernel
  have h6 : fld (image d) 32 4 = 1 := by rw [fld, image_field d hd 32 4 (by omega)]; decide +kernel
  have h7 : hdrStep (image d) = 3 := by rw [hdrStep, fld64, fld, image_field d hd 8 8 (by omega)]; decide +kernel
  have h8 := image_layout d hd
  have h9 : (sImage j e).fab.homeId.toNat = 1 := rfl
  simp [imageFits, hp, image_sealed d hd, h1, h2, h3, h4, h5, h6, h7, h8, h9, hs, planT, shapeT]
  exact h

theorem witness_RestoreSetsStepState :
    (let j := holdJob 1 [(16, [3])]; let c : HoldCmd := { code := 1, job := j, cancel := false }
     (∀ d, (sImage j d).hold.cmd = some c ∧ (sImage j d).stp.state ≠ .suspended ∧ curPlan (sImage j d) = some planT ∧ anyStackHolds (sImage j d) = false) ∧
     (imageFits sPlan (getSlot sPlan (hSlot j)).header (hArgA j) = false) ∧
     disjointRanges [(shapeT.state0, shapeT.stateBytes), (shapeT.res0, shapeT.resBytes)] = true ∧
     (∃ d : Bytes, let x := getSlot (sImage j d) (hSlot j)
       x.st = .sealed ∧ imageFits (sImage j d) x.header (hArgA j) = true ∧
         digest32 (sub x.header 0 160 ++ sub (slotBody x) 0 (hdrBody x.header)) ≠ sub x.header 160 32) ∧
     ∃ d : Bytes, let x := getSlot (sImage j d) (hSlot j)
       x.st = .sealed ∧ imageFits (sImage j d) x.header (hArgA j) = true ∧ byteAt x.header 28 = (sImage j d).stp.layout ∧
         digest32 (sub x.header 0 160 ++ sub (slotBody x) 0 (hdrBody x.header)) = sub x.header 160 32) ∧
    (let j := holdJob 2 [(12, toLe 4 0x3FFFF), (16, [3]), (24, [3])]
     ∃ d : Bytes, let s := sImage j d; let h := image d
       s.hold.cmd = some { code := 2, job := j, cancel := false } ∧ (acceptId s).isSome = true ∧ some (fld h 32 4) = acceptId s ∧
         hdrStep h = hArgB j ∧ imageFits s h (hArgA j) = true ∧ byteAt h 28 = s.stp.layout ∧
         digest32 (sub h 0 160 ++ sub (zeroBytes 0x2000) 0 (hdrBody h)) = sub h 160 32) := by
  have dig : ∀ d b : Bytes, d.length = 32 → digest32 (sub (image d) 0 160 ++ sub b 0 (hdrBody (image d))) =
      digest32 (sub front 0 160 ++ sub b 0 0x2000) := by
    intro d b hd
    have : hdrBody (image d) = 0x2000 := by
      rw [hdrBody, fld, fld, image_field d hd 40 8 (by omega), image_field d hd 48 8 (by omega)]; decide +kernel
    rw [this, image_field d hd 0 160 (by omega)]
  have body : ∀ j d, d.length = 32 → slotBody (getSlot (sImage j d) 0) = rd [] 0 0x2000 := by
    intro j d hd
    have : hdrBody (image d) = 0x2000 := by
      rw [hdrBody, fld, fld, image_field d hd 40 8 (by omega), image_field d hd 48 8 (by omega)]; decide +kernel
    show rd [] 0 (hdrBody (image d)) = _
    rw [this]
  refine ⟨⟨fun d => ⟨rfl, (by decide : StepState.stopped ≠ .suspended), rfl, (by decide +kernel : anyStackHolds sPlan = false)⟩, by decide +kernel, by decide, ?_, ?_⟩, ?_⟩
  · by_cases h : digest32 (sub front 0 160 ++ sub (rd [] 0 0x2000) 0 0x2000) = zeroBytes 32
    · refine ⟨List.replicate 32 1, rfl, image_fits _ _ _ (by simp) _ (by decide +kernel), ?_⟩
      show digest32 (sub (image _) 0 160 ++ sub (slotBody (getSlot (sImage _ _) 0)) 0 (hdrBody (image _))) ≠ sub (image _) 160 32
      rw [dig _ _ (by simp), body _ _ (by simp), h, image_digest_field _ (by simp)]
      decide
    · refine ⟨zeroBytes 32, rfl, image_fits _ _ _ (by simp [zeroBytes]) _ (by decide +kernel), ?_⟩
      show digest32 (sub (image _) 0 160 ++ sub (slotBody (getSlot (sImage _ _) 0)) 0 (hdrBody (image _))) ≠ sub (image _) 160 32
      rw [dig _ _ (by simp [zeroBytes]), body _ _ (by simp [zeroBytes]), image_digest_field _ (by simp [zeroBytes])]
      exact h
  · refine ⟨digest32 (sub front 0 160 ++ sub (rd [] 0 0x2000) 0 0x2000), rfl, image_fits _ _ _ (by simp) _ (by decide +kernel),
      image_layout _ (by simp), ?_⟩
    show digest32 (sub (image _) 0 160 ++ sub (slotBody (getSlot (sImage _ _) 0)) 0 (hdrBody (image _))) = sub (image _) 160 32
    rw [dig _ _ (by simp), body _ _ (by simp), image_digest_field _ (by simp)]
  · refine ⟨digest32 (sub front 0 160 ++ sub (zeroBytes 0x2000) 0 0x2000), rfl, rfl, ?_, ?_, image_fits _ _ _ (by simp) _ (by decide +kernel),
      image_layout _ (by simp), ?_⟩
    · rw [fld, image_field _ (by simp) 32 4 (by omega)]
      show some (leNat (sub front 32 4)) = some 1
      decide +kernel
    · rw [hdrStep, fld64, fld, image_field _ (by simp) 8 8 (by omega)]; decide +kernel
    · rw [dig _ _ (by simp), image_digest_field _ (by simp)]

/-- A stand-in's fetch: nothing has come yet; a part could not be read; both headers are here; everything is here. -/
def standin (f : Option StandinFetch) (d : Bytes) : State :=
  let s := sImage (holdJob 2 [(12, toLe 4 0x3FFFF), (16, [3]), (24, [3])]) d
  { s with hold := { s.hold with fetch := f } }

theorem witness_StandinRestore :
    (fetchDone (standin none []) freshFetch = false ∧ freshFetch.failed = false) ∧
    (let f := { freshFetch with failed := true }; (standin (some f) []).hold.fetch = some f ∧ f.failed = true) ∧
    (let d := zeroBytes 32; let f := { freshFetch with got := [0, 1], bytes := wr [] 0 (image d) }; let s := standin (some f) d
     f.failed = false ∧ fetchDone s f = true ∧ f.header = none ∧ pickHeader f 3 = some (0, image d)) ∧
    ∃ d : Bytes, let f := { freshFetch with header := some (image d), got := List.range 18 }; let s := standin (some f) d
      fetchDone s f = true ∧ f.header = some (image d) ∧ (acceptId s).isSome = true ∧ imageFits s (image d) 3 = true ∧
        byteAt (image d) 28 = s.stp.layout ∧
        digest32 (sub (image d) 0 160 ++ sub (rd f.bytes 0 (hdrBody (image d))) 0 (hdrBody (image d))) = sub (image d) 160 32 := by
  have hb : ∀ d : Bytes, d.length = 32 → hdrBody (image d) = 0x2000 := by
    intro d hd
    rw [hdrBody, fld, fld, image_field d hd 40 8 (by omega), image_field d hd 48 8 (by omega)]; decide +kernel
  have ha : (acceptId { sPlan with fab := { Fabric.init with homeId := 1, aliases := [(0, acceptOne)] } }).isSome = true := by decide +kernel
  refine ⟨by decide +kernel, by decide +kernel, ⟨rfl, by decide +kernel, rfl, ?_⟩, digest32 (sub front 0 160 ++ sub (rd [] 0 0x2000) 0 0x2000), ?_⟩
  · have l : (image (zeroBytes 32)).length = 256 := by
      rw [image, (imageFrom_eq front _ front_length (by simp [zeroBytes])).2]
      simp [front_length, zeroBytes]
    have w := rdD_wrD (d := (0 : Byte)) 0 (image (zeroBytes 32)) (smWf_nil _)
    rw [l] at w
    have w' : rd (wr [] 0 (image (zeroBytes 32))) (4096 * 0) 256 = image (zeroBytes 32) := w
    have h1 : headerSealed (image (zeroBytes 32)) = true := image_sealed _ (by simp [zeroBytes])
    have h2 : hdrStep (image (zeroBytes 32)) = 3 := by
      rw [hdrStep, fld64, fld, image_field _ (by simp [zeroBytes]) 8 8 (by omega)]; decide +kernel
    simp only [pickHeader, show List.range 2 = [0, 1] from rfl, List.map, w', List.find?, h1, h2]
    rfl
  · have hd : (digest32 (sub front 0 160 ++ sub (rd [] 0 0x2000) 0 0x2000)).length = 32 := by simp
    generalize hg : digest32 (sub front 0 160 ++ sub (rd [] 0 0x2000) 0 0x2000) = d at hd ⊢
    refine ⟨?_, rfl, ha, image_fits (holdJob 2 [(12, toLe 4 0x3FFFF), (16, [3]), (24, [3])]) d d hd 3 (by decide), image_layout d hd, ?_⟩
    · show ((List.range (bodyParts (image d) + 0x10000 / 4096)).all fun i => (List.range 18).contains i) = true
      rw [bodyParts, hb d hd]; decide +kernel
    · show digest32 (sub (image d) 0 160 ++ sub (rd [] 0 (hdrBody (image d))) 0 (hdrBody (image d))) = _
      rw [hb d hd, image_field d hd 0 160 (by omega), image_digest_field d hd, hg]

/-- R342: a dirty row without a drain, and a bucket that is half full; the refill of a plan with a Ballast. -/
theorem witness_VoluntaryWriteBack :
    (let s := { sDirty with hold := { sDirty.hold with drain := none } }
     s.hold.drain = none ∧ s.stp.state ≠ .suspended ∧ anyStackHolds s = false ∧ nextDirty s = some 2 ∧ bucketMax s ≤ 2 * s.hold.bucket ∧ canonical s) ∧
    (holdCfg sDirty).isSome = true ∧ anyStackHolds (sleepy sDirty) = true := by
  unfold canonical; decide +kernel

/-! Sealed images, boot and data objects. What the referenced ciphers and signatures answer is open, so these witnesses say: where
the cipher opens, or the signature holds, the state below meets the premises. -/

/-- A sealed image of an empty body under key 1: header, seal block, tag. -/
def frontE : Bytes := fieldsAt 160 [(0, toLe 4 0x50534B4B)]
def headE : Bytes := imageFrom frontE (digest32 (frontE ++ []))
def blockE : Bytes := fieldsAt 80 [(12, [1])]
def captureE : Bytes := fieldsAt 128 [(0, toLe 4 0x50434B4B), (4, [1]), (32, toLe 8 336)]
def keyed (s : State) : State :=
  { s with sec := { s.sec with ident := true, owner := { Owner.init with claimed := true, gen := 1, curId := 1, curWrap := zeroBytes 60 } } }
def sealJob (c n : Nat) : JobEnt := holdJob c [(32, toLe 8 0x80000), (40, toLe 8 n)]
def sSeal (c n : Nat) (b : Bytes) : State := { keyed (commanding sPlan (sealJob c n)) with mem := wr [] 0x80000 b }

theorem frontE_length : frontE.length = 160 := by decide +kernel
theorem headE_length : headE.length = 256 := by
  rw [headE, (imageFrom_eq _ _ frontE_length (by simp)).2]
  simp [frontE_length, zeroBytes]

theorem opens (h : ∀ k n a c t, Config.aesGcmOpen k n a c t = some []) (s : State) (clear : Bytes) (hs : s.sec.owner.curId = 1) :
    openBody s clear blockE = some [] := by
  have h1 : fld blockE 16 8 = 0 := by decide +kernel
  have h2 : blockE.length = 80 := by decide +kernel
  have h3 : zeros blockE 24 40 = true := by decide +kernel
  have h4 : fld32 blockE 12 = 1 := by decide +kernel
  simp [openBody, h1, h2, h3, h4, sealSecret, hs, unwrapSeal, h]

theorem opensImage (h : ∀ k n a c t, Config.aesGcmOpen k n a c t = some []) (s : State) (hs : s.sec.owner.curId = 1)
    (hb : 256 ≤ slotBytes s) : openImage s (headE ++ blockE) = some (headE, []) := by
  have h1 : sub (headE ++ blockE) 0 256 = headE := sub_prefix _ _ _ headE_length
  have h2 : (headE ++ blockE).drop 256 = blockE := by rw [← headE_length, List.drop_left]
  have h3 : (headE ++ blockE).length = 336 := by rw [List.length_append, headE_length]; decide +kernel
  have h4 : headerSealed headE = true := imageFrom_sealed _ _ frontE_length (by simp) (by decide +kernel)
  have h5 : hdrBody headE = 0 := by
    rw [hdrBody, fld, fld, headE, imageFrom_field _ _ frontE_length (by simp) 40 8 (by omega),
      imageFrom_field _ _ frontE_length (by simp) 48 8 (by omega)]
    decide +kernel
  have h6 : sub headE 0 160 = frontE := by
    rw [headE, imageFrom_field _ _ frontE_length (by simp) 0 160 (by omega), ← frontE_length, sub_self]
  have h7 : sub headE 160 32 = digest32 (frontE ++ []) := imageFrom_digest _ _ frontE_length (by simp)
  simp only [openImage, h1, h2, h3, h4, opens h s headE hs, h5, h6, h7, sealExtra]
  simp [hb]

theorem opensCapture (h : ∀ k n a c t, Config.aesGcmOpen k n a c t = some []) (s : State) (hs : s.sec.owner.curId = 1)
    (hb : 256 ≤ slotBytes s) (hp : planDigest s = zeroBytes 32) (hf : s.sec.fwDigest = zeroBytes 32) :
    openCapture s (captureE ++ (headE ++ blockE) ++ blockE) =
      some { header := headE, body := [], recs := [], trace := none, last := 0 } := by
  have hc : captureE.length = 128 := by decide +kernel
  have hk : blockE.length = 80 := by decide +kernel
  have hi : (headE ++ blockE).length = 336 := by rw [List.length_append, headE_length, hk]
  have h1 : sub (captureE ++ (headE ++ blockE) ++ blockE) 0 128 = captureE := by
    rw [List.append_assoc]; exact sub_prefix _ _ _ hc
  have h2 : sub (captureE ++ (headE ++ blockE) ++ blockE) 128 336 = headE ++ blockE := by
    rw [List.append_assoc, ← hc, sub_append_right, sub_prefix _ _ _ hi]
  have h3 : (captureE ++ (headE ++ blockE) ++ blockE).drop (128 + 336) = blockE := by
    rw [show 128 + 336 = (captureE ++ (headE ++ blockE)).length by rw [List.length_append, hc, hi], List.drop_left]
  have h4 : (captureE ++ (headE ++ blockE) ++ blockE).length = 544 := by rw [List.length_append, List.length_append, hc, hi, hk]
  have f1 : fld captureE 32 8 = 336 := by decide +kernel
  have f2 : fld captureE 40 8 = 0 := by decide +kernel
  have f3 : fld captureE 48 8 = 0 := by decide +kernel
  have f4 : bitOf (byteAt captureE 6) 0 = 0 := by decide +kernel
  have f5 : fld captureE 4 2 = 1 := by decide +kernel
  have f6 : fld captureE 8 4 = 0 := by decide +kernel
  have f7 : fld64 captureE 24 = 0 := by decide +kernel
  have g1 : fld headE 32 4 = 0 := by
    rw [fld, headE, imageFrom_field _ _ frontE_length (by simp) 32 4 (by omega)]; decide +kernel
  have g2 : sub headE 72 32 = zeroBytes 32 := by
    rw [headE, imageFrom_field _ _ frontE_length (by simp) 72 32 (by omega)]; decide +kernel
  have g3 : sub headE 104 32 = zeroBytes 32 := by
    rw [headE, imageFrom_field _ _ frontE_length (by simp) 104 32 (by omega)]; decide +kernel
  have e : sub ([] : Bytes) 0 0 = [] := rfl
  simp only [openCapture, h1, f1, f2, f3, f4, f5, h4, h2, opensImage h s hs hb, g1, g2, g3, f6, f7, hp, hf, h3, opens h s captureE hs, e,
    sealExtra]
  simp [splitLog, logChainOk]

theorem canonical_wr (s : State) (a : Nat) (b : Bytes) (h : canonical { s with mem := [] }) : canonical { s with mem := wr [] a b } :=
  ⟨Memory.wf_wr a b (by decide), h.2⟩

theorem witness_HoldImagesInAndOut (h : ∀ k n a c t, Config.aesGcmOpen k n a c t = some []) :
    (∀ c ∈ [3, 4, 5, 6, 7], let s := sSeal c 336 (headE ++ blockE)
      s.stp.state ≠ .suspended ∧ canonical s ∧ s.hold.cmd = some { code := c, job := sealJob c 336, cancel := false } ∧
        hHost (sealJob c 336) = 0) ∧
    (sealBody (sSeal 4 0 []) Slot.init.header (slotBody Slot.init)).isSome = true ∧
    (∃ s1 b, sealBody (sSeal 6 0 []) Slot.init.header (slotBody Slot.init) = some (s1, b) ∧ ∀ ch x, (sealBody s1 ch x).isSome = true) ∧
    (let s := sSeal 5 336 (headE ++ blockE); let out := readIn s (sealJob 5 336)
     fld out 0 4 ≠ 0x50434B4B ∧ openImage s out = some (headE, [])) ∧
    (let s := sSeal 5 544 (captureE ++ (headE ++ blockE) ++ blockE); let out := readIn s (sealJob 5 544)
     fld out 0 4 = 0x50434B4B ∧ (openCapture s out).isSome = true ∧ hSlot (sealJob 5 544) ≤ 1) ∧
    ∀ v ∈ (sSeal 7 0 []).hold.bal, v.ver = 0 := by
  have e : ∀ s : State, s.sec.owner.curId = 1 → sealSecret s 1 = some [] := fun s hs => by simp [sealSecret, hs, unwrapSeal, h]
  have l : (headE ++ blockE).length = 336 := by rw [List.length_append, headE_length]; decide +kernel
  have lc : (captureE ++ (headE ++ blockE) ++ blockE).length = 544 := by rw [List.length_append, List.length_append, l]; decide +kernel
  have r1 : readIn (sSeal 5 336 (headE ++ blockE)) (sealJob 5 336) = headE ++ blockE := by
    have a : hHost (sealJob 5 336) = 0 ∧ hAddr (sealJob 5 336) = 0x80000 ∧ hBytes (sealJob 5 336) = 336 := by decide +kernel
    simp only [readIn, a]
    have w := rdD_wrD (d := (0 : Byte)) 0x80000 (headE ++ blockE) (smWf_nil _)
    rw [l] at w
    rw [if_neg (by decide)]
    simp only [rdMem, sSeal, rd, wr]
    exact w
  have r2 : readIn (sSeal 5 544 (captureE ++ (headE ++ blockE) ++ blockE)) (sealJob 5 544) = captureE ++ (headE ++ blockE) ++ blockE := by
    have a : hHost (sealJob 5 544) = 0 ∧ hAddr (sealJob 5 544) = 0x80000 ∧ hBytes (sealJob 5 544) = 544 := by decide +kernel
    simp only [readIn, a]
    have w := rdD_wrD (d := (0 : Byte)) 0x80000 (captureE ++ (headE ++ blockE) ++ blockE) (smWf_nil _)
    rw [lc] at w
    rw [if_neg (by decide)]
    simp only [rdMem, sSeal, rd, wr]
    exact w
  refine ⟨?_, ?_, ?_, ?_, ?_, by decide +kernel⟩
  · intro c hc
    have k : hCmd (sealJob c 336) = c ∧ hHost (sealJob c 336) = 0 := by revert c; decide +kernel
    refine ⟨(by decide : StepState.stopped ≠ .suspended), canonical_wr _ _ _ ?_, ?_, k.2⟩
    · show canonical { sPlan with mem := [] }
      unfold canonical; decide +kernel
    · show some (HoldCmd.mk (hCmd (sealJob c 336)) (sealJob c 336) false) = _
      rw [k.1]
  · rw [sealBody, show (sSeal 4 0 []).sec.owner.curId = 1 from rfl, e _ rfl]; rfl
  · refine ⟨_, _, by rw [sealBody, show (sSeal 6 0 []).sec.owner.curId = 1 from rfl, e _ rfl]; rfl, fun ch x => ?_⟩
    rw [sealBody, show (bumpSeal (sSeal 6 0 [])).sec.owner.curId = 1 from rfl, e _ rfl]; rfl
  · show fld (readIn _ _) 0 4 ≠ _ ∧ openImage _ (readIn _ _) = _
    rw [r1]
    refine ⟨?_, opensImage h _ rfl (by decide +kernel)⟩
    rw [fld, sub_append_left _ _ _ _ (by rw [headE_length]; omega), headE, imageFrom_field _ _ frontE_length (by simp) 0 4 (by omega)]
    decide +kernel
  · show fld (readIn _ _) 0 4 = _ ∧ (openCapture _ (readIn _ _)).isSome = true ∧ _
    rw [r2, opensCapture h _ rfl (by decide +kernel) (by decide +kernel) (by decide +kernel)]
    refine ⟨?_, rfl, by decide +kernel⟩
    rw [fld, List.append_assoc, sub_append_left _ _ _ _ (by decide +kernel)]
    decide +kernel

/-- A firmware package of five empty components, for every stepping, with a signature field of one byte: header, table, signature. -/
def pkgFront : Bytes := fieldsAt 32 [(0, toLe 4 0x57464B4B), (4, [1]), (6, [5]), (20, toLe 4 0xFFFFFFFF), (24, toLe 8 2112)]
def pkgHead : Bytes := pkgFront ++ (zeroBytes 1888 ++ [])
def pkgTable : Bytes := fieldsAt 192 ((List.range 5).map fun k => (32 * k, toLe 8 (k + 1) ++ toLe 8 2112))
def pkgSig : Bytes := [1, 0, 0] ++ (zeroBytes 1533 ++ [])
def pkgT : Bytes := pkgHead ++ (pkgTable ++ pkgSig)

def staging (b : Bytes) : State := { sRun with mem := wr [] 0 b }
def loadable (s : State) : State := keyed { s with stp := { s.stp with state := .stopped } }

theorem pkgFront_length : pkgFront.length = 32 := by decide +kernel
theorem pkgHead_length : pkgHead.length = 1920 := by
  rw [pkgHead, List.length_append, List.length_append, pkgFront_length, zeroBytes_length]; rfl
theorem pkgTable_length : pkgTable.length = 192 := by decide +kernel
theorem pkgSig_length : pkgSig.length = 1536 := by
  rw [pkgSig, List.length_append, List.length_append, zeroBytes_length]; rfl
theorem pkgSig_ok : sigFieldOk pkgSig = true := by
  have h : fld pkgSig 0 2 = 1 := by decide +kernel
  simp only [sigFieldOk, h]
  have z : zeros pkgSig (1 + 2) (1534 - 1) = true := zeros_mid _ _ _ _ _ (by simp) (by simp)
  rw [z]
  rfl
theorem pkgT_length : pkgT.length = 3648 := by
  rw [pkgT, List.length_append, List.length_append, pkgHead_length, pkgTable_length, pkgSig_length]
theorem pkgT_fld (a n : Nat) (h : a + n ≤ 1920) : fld pkgT a n = fld pkgHead a n := by
  rw [fld, pkgT, sub_append_left _ _ _ _ (by rw [pkgHead_length]; omega), fld]

theorem pkgT_comps : pkgCompsOk pkgT = true := by
  have h1 : fld pkgT 6 2 = 5 := by rw [pkgT_fld _ _ (by omega)]; decide +kernel
  have h2 : pkgSigned pkgT = 2112 := by rw [pkgSigned, pkgT_fld _ _ (by omega)]; decide +kernel
  have h3 : (List.range 5).map (fun i => sub pkgT (1920 + 32 * i) 32) = (List.range 5).map fun i => sub pkgTable (32 * i) 32 := by
    refine List.map_congr_left fun i hi => ?_
    have := List.mem_range.1 hi
    rw [pkgT, sub_append_past pkgHead _ _ (32 * i) _ (by rw [pkgHead_length]), sub_append_left _ _ _ _ (by rw [pkgTable_length]; omega)]
  simp only [pkgCompsOk, h1, h2, h3]
  decide +kernel

theorem pkgT_refusal (hr : Config.releaseDigests.contains (digest32 (pkgKey pkgT)) = true) (hv : ∀ k d f, Config.verifySig k d f = true)
    (s : State) (hs : s.sec.owner.minSvn = 0) : pkgRefusal s pkgT = none := by
  have h0 : pkgSigned pkgT = 2112 := by rw [pkgSigned, pkgT_fld _ _ (by omega)]; decide +kernel
  have z : ∀ a n, a + n ≤ 1920 → zeros pkgT a n = zeros pkgHead a n := fun a n h => by
    simp only [zeros, pkgT, sub_append_left _ _ _ _ (pkgHead_length.symm ▸ h)]
  have h1 : pkgHeadOk pkgT = true := by
    simp only [pkgHeadOk, h0, pkgT_fld _ _ (show 0 + 4 ≤ 1920 by omega), pkgT_fld _ _ (show 4 + 2 ≤ 1920 by omega),
      pkgT_fld _ _ (show 6 + 2 ≤ 1920 by omega), z 32 32 (by omega)]
    decide +kernel
  have h2 : sigFieldOk (sub pkgT 2112 1536) = true := by
    rw [pkgT, sub_append_past pkgHead _ _ 192 _ (by rw [pkgHead_length]), sub_append_past pkgTable _ _ 0 _ (by rw [pkgTable_length]),
      ← pkgSig_length, sub_self, pkgSig_ok]
  have h3 : fld pkgT 16 4 = 0 ∧ fld pkgT 20 4 = 0xFFFFFFFF := by
    rw [pkgT_fld _ _ (by omega), pkgT_fld _ _ (by omega)]; decide +kernel
  have h4 := Config.stepping.isLt
  have h5 : zeros pkgT 1857 63 = true := by
    rw [z _ _ (by omega)]
    exact zeros_mid _ _ _ _ _ (by rw [pkgFront_length]; omega) (by rw [pkgFront_length])
  have h6 := pkgT_length
  have h7 := pkgT_comps
  generalize pkgT = b at *
  simp only [pkgRefusal, pkgFault, h0, h1, h5, h6, h7, hr, sigOk, h2, hv, h3, hs]
  simp
  omega

theorem staged_head (b : Bytes) (h : 64 ≤ b.length) : rdMem (staging b) 0 b.length = b ∧ rdMem (staging b) 0 64 = sub b 0 64 := by
  have w := rdD_wrD (d := (0 : Byte)) 0 b (smWf_nil _)
  refine ⟨w, ?_⟩
  apply List.ext_getElem (by simp [rdMem, sub])
  intro i h1 h2
  have hi : i < 64 := by simpa using h2
  have := congrArg (fun l : Bytes => l.getD i 0) w
  simp only [rdMem, staging, rd, wr, rdD, sub, List.getElem_map, List.getElem_range, Nat.zero_add] at this ⊢
  rw [← this, List.getD_eq_getElem _ _ (by simp; omega)]
  simp

theorem staged_sub (b : Bytes) (a n : Nat) (h : a + n ≤ b.length) : rdMem (staging b) a n = sub b a n := by
  have w := rdD_wrD (d := (0 : Byte)) 0 b (smWf_nil _)
  apply List.ext_getElem (by simp [rdMem, sub])
  intro i h1 h2
  have hi : i < n := by simpa using h2
  have := congrArg (fun l : Bytes => l.getD (a + i) 0) w
  simp only [rdMem, staging, rd, wr, rdD, sub, List.getElem_map, List.getElem_range, Nat.zero_add] at this ⊢
  rw [← this, List.getD_eq_getElem _ _ (by simp; omega)]
  simp

/-- A plan object of nine empty sections of one layout, for the part's stepping and owner generation 1, with a signature field. -/
def objFront : Bytes := fieldsAt 16 [(0, toLe 4 0x4C504B4B), (4, [1]), (6, [9, 1]), (8, toLe 8 448)]
def objRest : Bytes :=
  fieldsAt 428 ((4, toLe 8 1) :: (List.range 9).map fun k =>
    (108 + 32 * k, [BitVec.ofNat 8 (k + 1), 0, if k = 4 ∨ k = 8 then 0 else 0xFF] ++ zeroBytes 5 ++ toLe 8 448))
def objT : Bytes := objFront ++ (le32 Config.stepping ++ objRest)

theorem objT_length : objT.length = 448 := by decide +kernel

theorem inHbm_loadable (b : Bytes) (a n : Nat) : inHbm (loadable (staging b)) a n = inHbm sRun a n := rfl
theorem rdMem_loadable (b : Bytes) (a n : Nat) : rdMem (loadable (staging b)) a n = rdMem (staging b) a n := rfl
theorem owner_loadable (b : Bytes) : (loadable (staging b)).sec.owner.gen = 1 ∧ (loadable (staging b)).sec.svn = 0 := ⟨rfl, rfl⟩

theorem objT_refusal (hv : ∀ k d f, Config.verifySig k d f = true) : objectRefusal (loadable (staging (objT ++ pkgSig))) 0 objT = none := by
  have l := objT_length
  have h1 : planFramed objT = true := by decide +kernel
  have h2 : planBytes objT = 448 := by decide +kernel
  have h3 : inHbm (loadable (staging (objT ++ pkgSig))) 0 (448 + 1536) = inHbm sRun 0 1984 := inHbm_loadable _ _ _
  have h4 : inHbm sRun 0 1984 = true := by decide +kernel
  have h5 : rdMem (loadable (staging (objT ++ pkgSig))) (0 + 448) 1536 = pkgSig := by
    rw [rdMem_loadable, Nat.zero_add, staged_sub _ _ _ (by rw [List.length_append, l, pkgSig_length]), sub_append_past objT _ 448 0 1536 (by rw [l]), ← pkgSig_length, sub_self]
  have h6 : fld64 objT 24 = 1 := by decide +kernel
  have h7 : fld32 objT 16 = Config.stepping := by
    rw [fld32, fld, show sub objT 16 4 = toLe 4 Config.stepping.toNat from rfl, leNat_toLe]
    apply BitVec.eq_of_toNat_eq
    simpa using Config.stepping.isLt
  have h8 : fld objT 20 4 = 0 := by decide +kernel
  have g : (loadable (staging (objT ++ pkgSig))).sec.owner.gen = 1 ∧ (loadable (staging (objT ++ pkgSig))).sec.svn = 0 := owner_loadable _
  simp only [objectRefusal, h1, h2, h3, h4, h5, h6, h7, h8, g, sigOk, pkgSig_ok, hv]
  simp

/-- A load that runs, at point 2 or 3; an update that runs. -/
def loadingAt (st : PlnState) (b read : Bytes) : State :=
  let s := loadable (staging b)
  { s with pln := { s.pln with state := st, job := some { addr := 0, home := 0, bytes := read } } }
def updating (b : Bytes) (x : FwStage) : State :=
  let s := staging b
  { s with sec := { s.sec with stage := some x } }
def stage2 : FwStage := { point := 2, slot := true, addr := 0, bytes := [], mirrorDone := false }

theorem rdMem_loading (st : PlnState) (b r : Bytes) (a n : Nat) : rdMem (loadingAt st b r) a n = rdMem (staging b) a n := rfl
theorem objectRefusal_loading (st : PlnState) (b r c : Bytes) (a : Nat) :
    objectRefusal (loadingAt st b r) a c = objectRefusal (loadable (staging b)) a c := rfl
theorem rdMem_updating (b : Bytes) (x : FwStage) (a n : Nat) : rdMem (updating b x) a n = rdMem (staging b) a n := rfl
theorem inHbm_updating (b : Bytes) (x : FwStage) (a n : Nat) : inHbm (updating b x) a n = inHbm sRun a n := rfl
theorem sec_updating (b : Bytes) (x : FwStage) : (updating b x).sec.stage = some x ∧ (updating b x).pending = [] ∧
    (updating b x).pln.job = none ∧ (updating b x).sec.owner.minSvn = 0 := ⟨rfl, rfl, rfl, rfl⟩
theorem canonical_updating (b : Bytes) (x : FwStage) : canonical (updating b x) :=
  canonical_wr sRun 0 b (by unfold canonical; decide +kernel)

/-- A table whose only section, a shape, is empty. -/
def badObj : Bytes := fieldsAt 160 [(6, [1]), (128, [1])]

theorem loading_free (st : PlnState) (b r : Bytes) : (loadingAt st b r).pending = [] ∧ (loadingAt st b r).sec.stage = none ∧
    (loadingAt st b r).stp.state ≠ .suspended ∧ (loadingAt st b r).pln.job = some { addr := 0, home := 0, bytes := r } ∧
    (loadingAt st b r).pln.state = st :=
  ⟨rfl, rfl, (by decide : StepState.stopped ≠ .suspended), rfl, rfl⟩

/-- What the loads and updates need of the block at rest, and their stacks. -/
theorem witness_AtRest (st : PlnState) (b r : Bytes) (x : FwStage) : atRest (loadingAt st b r) ∧ atRest (updating b x) := by
  have h : atRest sRun := by unfold atRest; decide
  exact ⟨h, h⟩

theorem witness_StacksRun : anyStackHolds (loadingAt .checking (objT ++ pkgSig) []) = false ∧
    anyStackHolds (loadingAt .validating [] badObj) = false ∧ anyStackHolds (updating pkgT stage2) = false := by decide +kernel

theorem witness_LoadRunsOn (hv : ∀ k d f, Config.verifySig k d f = true) :
    (let s := loadingAt .checking (objT ++ pkgSig) []
     ∃ head, rdMem s 0 128 = head ∧ planBytes head ≤ 2 ^ 30 ∧ rdMem s 0 (planBytes head) = objT ∧ objectRefusal s 0 objT = none) ∧
    (let s := loadingAt .checking [] []; ∃ k, planBytes (rdMem s 0 128) ≤ 2 ^ 30 ∧ objectRefusal s 0 (rdMem s 0 (planBytes (rdMem s 0 128))) = some k) ∧
    firstRefusal (loadingAt .validating [] []) [] (parsePlan []) 0 = none ∧
    (let s := loadingAt .validating [] badObj; s.pln.state = .validating ∧ firstRefusal s badObj (parsePlan badObj) 0 = some (0, 6, none)) := by
  have l := objT_length
  have e := rdMem_loading .checking (objT ++ pkgSig) []
  have h1 : rdMem (staging (objT ++ pkgSig)) 0 128 = sub objT 0 128 := by
    rw [staged_sub _ _ _ (by rw [List.length_append]; omega), sub_append_left _ _ _ _ (by omega)]
  have h2 : planBytes (sub objT 0 128) = 448 := by decide +kernel
  have h3 : rdMem (staging (objT ++ pkgSig)) 0 448 = objT := by
    rw [staged_sub _ _ _ (by rw [List.length_append]; omega), sub_append_left _ _ _ _ (by omega), ← l, sub_self]
  refine ⟨⟨sub objT 0 128, by rw [e, h1], by rw [h2]; decide, by rw [e, h2, h3], by rw [objectRefusal_loading]; exact objT_refusal hv⟩, ⟨1, by decide +kernel⟩, by decide +kernel, by decide +kernel⟩

/-- An inspection that reaches point 5 with a set of units out of service; without the pier die P0 no rail is left. -/
def inspectingOn (es : List LedgerEnt) : State :=
  let x : Inspection := { full := true, entries := es, gen := 2, grown := true, exhausted := 0, added := 1, ok0 := true, ok1 := true,
                          okb := true, chosen := true, ms := 0 }
  { State.reset with pwr := { Pwr.init with phase := .booting }, spr := { Spares.init with state := .inspecting, insp := some x } }
def deadPier : LedgerEnt := { kind := 0x0D, state := 2, cause := 1, pdie := 12, punit := 0, aux := 0, gen := 2 }

theorem witness_BootLoadAndApplyPlans (hr : Config.releaseDigests.contains (digest32 (pkgKey pkgT)) = true)
    (hv : ∀ k d f, Config.verifySig k d f = true) :
    (let s := { State.reset with pwr := { Pwr.init with phase := .booting }, spr := { Spares.init with state := .ready } }
     canonical s ∧ s.pwr.phase = .booting ∧ s.sec.boot = .booting ∧ s.spr.insp = none ∧ s.spr.state = .ready) ∧
    (∀ es ∈ [[], [deadPier]], let s := inspectingOn es
      canonical s ∧ s.pwr.phase = .booting ∧ s.sec.boot = .booting ∧ s.spr.insp.isSome = true ∧
        decide (offerRails es = 0) = !es.isEmpty) ∧
    (sRun.pwr.phase = .run ∧ isOwner sRun 0 = true ∧ masterExists sRun 0 = true ∧ sRun.sec.boot = .ready ∧ sRun.stp.state = .stopped ∧
      loadRuns sRun = false ∧ sRun.sec.stage = none ∧ ¬((updating [] stage2).sec.stage = none)) ∧
    (let s := updating pkgT stage2; let h := rdMem s stage2.addr 64
     canonical s ∧ s.sec.stage = some stage2 ∧ pkgHeadOk h = true ∧ inHbm s stage2.addr (pkgSigned h + 1536) = true ∧
       pkgRefusal s (rdMem s stage2.addr (pkgSigned h + 1536)) = none) ∧
    ((pkgRefusal sRun (sub pkgHead 0 64)).isSome = true ∧ pkgHeadOk (sub pkgHead 0 64) = true) ∧
    (loadRefusal sRun = some 9 ∧ loadRefusal (loadable sRun) = none) ∧
    (let s := { sRun with pln := { sRun.pln with loading := some (planT, 0) } }
     canonical s ∧ s.stp.state ≠ .suspended ∧ s.hold.drain = none ∧ s.hold.snapQueue = []) := by
  have l := pkgT_length
  have lh : sub pkgT 0 64 = sub pkgHead 0 64 := by rw [pkgT, sub_append_left _ _ _ _ (by rw [pkgHead_length]; omega)]
  obtain ⟨h1, h2⟩ := staged_head pkgT (by omega)
  have hn : pkgSigned (sub pkgT 0 64) + 1536 = pkgT.length := by rw [l, lh]; decide +kernel
  refine ⟨by unfold canonical; decide +kernel, by unfold canonical; decide +kernel, by decide +kernel, ?_, by decide +kernel,
    by decide +kernel, by unfold canonical; decide +kernel⟩
  show canonical (updating pkgT stage2) ∧ (updating pkgT stage2).sec.stage = some stage2 ∧
    pkgHeadOk (rdMem (updating pkgT stage2) 0 64) = true ∧
    inHbm (updating pkgT stage2) 0 (pkgSigned (rdMem (updating pkgT stage2) 0 64) + 1536) = true ∧
    pkgRefusal (updating pkgT stage2) (rdMem (updating pkgT stage2) 0 (pkgSigned (rdMem (updating pkgT stage2) 0 64) + 1536)) = none
  rw [rdMem_updating, rdMem_updating, inHbm_updating, h2, hn, h1]
  refine ⟨canonical_updating _ _, (sec_updating _ _).1, by rw [lh]; decide +kernel, by rw [l]; decide +kernel,
    pkgT_refusal hr hv _ (sec_updating _ _).2.2.2⟩

/-- An enrolment that raises nothing but the generation (KIND 2). -/
def enrolHead : Bytes := fieldsAt 28 [(0, toLe 4 0x4E454B4B), (4, [1]), (6, [2]), (16, [2])]
def enrolT : Bytes := enrolHead ++ (zeroBytes 3556 ++ pkgSig)

theorem enrolHead_length : enrolHead.length = 28 := by decide +kernel
theorem enrolT_length : enrolT.length = 5120 := by
  rw [enrolT, List.length_append, List.length_append, enrolHead_length, pkgSig_length, zeroBytes_length]
theorem enrolT_sub (a n : Nat) (h : a + n ≤ 28) : sub enrolT a n = sub enrolHead a n :=
  sub_append_left _ _ _ _ (by rw [enrolHead_length]; omega)
theorem enrolT_zeros (a n : Nat) (h1 : 28 ≤ a) (h2 : a + n ≤ 3584) : zeros enrolT a n = true :=
  zeros_mid _ _ _ _ _ (by rw [enrolHead_length]; omega) (by rw [enrolHead_length]; omega)
theorem enrolT_byte (a : Nat) (h : a + 1 ≤ 28) : byteAt enrolT a = byteAt enrolHead a := by
  have := congrArg (fun l : Bytes => (l.getD 0 0).toNat) (enrolT_sub a 1 h)
  exact this

theorem enrolT_ok (hv : ∀ k d f, Config.verifySig k d f = true) : enrolOk (loadable sRun) enrolT = true := by
  have k7 : byteAt enrolT 7 = 0 := by rw [enrolT_byte 7 (by omega)]; decide +kernel
  have k6 : byteAt enrolT 6 = 2 := by rw [enrolT_byte 6 (by omega)]; decide +kernel
  have h1 : enFormOk enrolT = true := by
    have a : fld enrolT 0 4 = 0x4E454B4B := by rw [fld, enrolT_sub 0 4 (by omega)]; decide +kernel
    have b : fld enrolT 4 2 = 1 := by rw [fld, enrolT_sub 4 2 (by omega)]; decide +kernel
    simp [enFormOk, a, b, k7, k6, enNewSeal, enKind, enrolT_zeros]
  have h2 : sigFieldOk (sub enrolT 3584 1536) = true := by
    rw [enrolT, ← List.append_assoc, sub_append_past _ _ _ 0 _ (by rw [List.length_append, enrolHead_length, zeroBytes_length]), ← pkgSig_length, sub_self, pkgSig_ok]
  have h3 : enKind enrolT = 2 ∧ enNewSeal enrolT = false ∧ fld enrolT 24 4 = 0 := by
    refine ⟨k6, by simp [enNewSeal, k7], ?_⟩
    rw [fld, enrolT_sub 24 4 (by omega)]; decide +kernel
  have g1 : fld64 enrolT 8 = 0 := by rw [fld64, fld, enrolT_sub 8 8 (by omega)]; decide +kernel
  have g2 : enGen enrolT = 2 := by rw [enGen, fld64, fld, enrolT_sub 16 8 (by omega)]; decide +kernel
  have h4 : (loadable sRun).sec.ident = true ∧ (loadable sRun).sec.serial = 0 ∧ (loadable sRun).sec.owner.gen = 1 ∧
      (loadable sRun).sec.owner.minSvn = 0 ∧ claimed (loadable sRun) = true ∧ (loadable sRun).stp.state = .stopped := by decide +kernel
  obtain ⟨a, b, c, d, e, f⟩ := h4
  have h5 : enSigned enrolT (loadable sRun).sec.owner.key = true := by rw [enSigned, sigOk, h2, hv]; rfl
  have h6 : enKindOk (loadable sRun) enrolT = true := by rw [enKindOk, h3.1]; simp only [e, f, h5]; decide
  rw [enrolOk, a, h1, g1, b, g2, c, d, h3.2.2, h6, h3.2.1]
  decide +kernel

theorem witness_DataObjectsAnswered (hv : ∀ k d f, Config.verifySig k d f = true) :
    (let s := loadable sRun
     masterExists s 0 = true ∧ canonical s ∧ s.sec.boot = .ready ∧ (getFn s 0).doe = none ∧ isOwner s 0 = true ∧
       s.sec.ident = true ∧ (zeroBytes 32).length = 32 ∧ isPowered s = true ∧ talks s = true ∧ loadRuns s = false) ∧
    (let s := { sRun with sec := { sRun.sec with boot := .failed } }; isPowered s = true ∧ talks s = false) ∧
    (let s := { loadable sRun with pln := { sRun.pln with loading := some (planT, 0) } }; isOwner s 0 = true ∧ loadRuns s = true) ∧
    (let s := loadable sRun; loadRuns s = false ∧ loadRuns (loadPlan { s with pln := { s.pln with addr := 0, home := 0 } }) = true) ∧
    enrolT.length = 5120 ∧ enrolOk (loadable sRun) enrolT = true ∧ (zeroBytes 5120).length = 5120 ∧ enrolOk (loadable sRun) (zeroBytes 5120) = false ∧
    (let b : Bytes := [1, 2, 3, 4]
     segOk b = true ∧ hostMapped sRun 0 4 = true ∧ hostBankOk sRun 0 4 = true ∧ hostHeld sRun 0 0 4 = false ∧ hostMapped sPlan 0x10000 4 = true ∧
       hostBankOk sPlan 0x10000 4 = false ∧ canonical sPlan ∧ isOwner sPlan 0 = true) := by
  refine ⟨by unfold canonical; decide +kernel, by decide +kernel, by decide +kernel, by decide +kernel, enrolT_length, enrolT_ok hv, zeroBytes_length _, ?_, by unfold canonical; decide +kernel⟩
  have : enFormOk (zeroBytes 5120) = false := by
    have : fld (zeroBytes 5120) 0 4 = 0 := by decide +kernel
    simp [enFormOk, this]
  simp [enrolOk, this]

def inPhase (p : PowerPhase) : State := { State.reset with pwr := { Pwr.init with phase := p } }

theorem witness_ResetsKeepOnlyDurable :
    isOwner sRun 0 = true ∧ masterExists sRun 0 = true ∧ sRun.sec.boot = .ready ∧ isPowered sRun = true ∧
      (inPhase .holdUp).pwr.phase = .holdUp ∧ (inPhase .off).pwr.phase = .off ∧ (inPhase .waiting).pwr.phase = .waiting ∧ (inPhase .cooling).pwr.phase = .cooling ∧
      (let s := { inPhase .powered with clk := { Clk.init with ref := .settling } }; s.pwr.phase = .powered ∧ s.clk.ref = .settling) := by
  decide +kernel

/-! Links, queues, job entries, ownership. -/

def fnUp : Fn := { Fn.init with perst := false, up := true, unset := false }
def withFn (x : Fn) : State := onRef [pcieIsland] { sRun with fns := [(0, x)] }
def withQueue (x : Queue) : State := { sRun with queues := [(0, x)], fns := [(0, fnUp)] }
def jobRing : Queue := { Queue.init with enabled := true, tail := 1 }
def hostEntry : Bytes := entryText.set 10 1

theorem witness_LinkChangesReachQueues :
    (let x := { Fn.init with perst := false }; let s := withFn x
     getFn s 0 = x ∧ canonical s ∧ linkFits s 7 8 true = true ∧ linkExists s 0 = true ∧ x.up = false ∧ s.clk.ref = .good ∧ onReference s pcieIsland = true ∧ s.own.state = .held ∧ s.own.owner.val = 0) ∧
    (let x := { Fn.init with perst := false, up := true }; let s := { withFn x with queues := [(0, jobRing)] }
     getFn s 0 = x ∧ canonical s ∧ x.up = true ∧ (getQueue s 0).enabled = true ∧ b2n (getQueue s 0).link = 0) ∧
    (let s := { sRun with own := { Own.init with state := .lapsing } }; s.own.state = .lapsing ∧ s.own.owner.val = 0) ∧
    (let j := holdJob 3 [(11, [1])]; let s := commanding sPlan j
     s.hold.cmd = some { code := 3, job := j, cancel := false } ∧ hHost j = 1 ∧ canonical s) ∧
    (let s := { intake (queued [{ sampleAs .decoding with ent := hostEntry }]) 0 with slips := [(0, slip0)] }
     (hostSample s 0 .text 0).isSome = true ∧ canonical s ∧ s.stp.state ≠ .suspended ∧ hostReadFails s 0 .text 0 false = true ∧
       hostReadFails s 0 .text 0 true = true) ∧
    (let x := { fnUp with unset := true }; let s := { State.reset with fns := [(0, x)] }
     getFn s 0 = x ∧ x.up = true ∧ x.unset = true ∧ s.pending = [] ∧ s.pln.job = none ∧ s.sec.stage = none ∧ canonical s) ∧
    linkExists { sRun with pwr := { sRun.pwr with linkMode := false } } 1 = false ∧
    (let j := holdJob 3 [(11, [1])]; let s := { commanding sPlan j with fns := [(0, { Fn.init with perst := false, up := true })] }
     (getFn s 0).up = true ∧ s.hold.cmd = some { code := 3, job := j, cancel := false } ∧ onHost { code := 3, job := j, cancel := false } = true ∧ canonical s) ∧
    (∀ ev ∈ [false, true], let s := withQueue { jobRing with event := ev }
      (getQueue s 0).enabled = true ∧ (getQueue s 0).error = 0 ∧ (getQueue s 0).event = ev ∧ canonical s) := by
  unfold canonical
  refine ⟨by decide +kernel, by decide +kernel, by decide +kernel, by decide +kernel, by decide +kernel, by decide +kernel, by decide +kernel,
    by decide +kernel, by decide +kernel⟩

theorem witness_QueuesEnableAndRing :
    (let s := sRun; let x := getQueue s (selQueue s 0)
     isOwner s 0 = true ∧ masterExists s 0 = true ∧ s.sec.boot = .ready ∧ canonical s ∧ x.enabled = false ∧
       sizeOk (cfgSize 0x2000000A) = true ∧ s.pwr.linkMode = true ∧ sizeOk (cfgSize 5) = false ∧
       (0x2000000A : W32).getLsbD 29 = true ∧ { s.pwr with linkMode := false }.linkMode = false) ∧
    (∀ ev ∈ [false, true], let x := { jobRing with event := ev }; let s := withQueue x
      getQueue s 0 = x ∧ x.enabled = true ∧ b2n x.link = 0 ∧ (63 : W32).toNat % 65536 < ringSize x ∧
        ringSize x ≤ (64 : W32).toNat % 65536 ∧ canonical s) ∧
    (let s := withQueue { jobRing with event := true, timeUs := 10, unsignalled := 1 }; (getQueue s 0).timeUs ≠ 0 ∧ canonical s) := by
  unfold canonical
  refine ⟨by decide +kernel, by decide +kernel, by decide +kernel⟩

def free1 (j : JobEnt) (s : State) : State := { s with ctl := { Ctl.init with free := [j] } }
def opEntry (opc : Byte) (addr : Nat) : JobEnt := jobOf (fieldsAt 64 [(0, [opc]), (8, toLe 8 addr)])

/-- A candidate manifest of one text entry for the evaluation stream at 0x1000 and the dealer's request for it at 0x8000: one token
count of 3 at 0x9000, budget 4, one pass, manifests at 0xA000, deferred entries at 0xB000, the result at 0xC000. -/
def dealRequest : Bytes :=
  fieldsAt 128 [(0, toLe 4 0x3150444B), (4, [1]), (6, [1]), (8, [4]), (16, toLe 8 0x1000), (24, toLe 8 0x9000), (32, toLe 8 0xA000),
    (40, toLe 4 0x400), (64, toLe 8 0xB000), (72, toLe 8 0xC000)]
def dealing : State :=
  free1 (opEntry 6 0x8000) { intake Stream.init 0 with mem := memOf [(0x1000, manText 0x31464D4B), (0x8000, dealRequest), (0x9000, [3])] }

theorem witness_JobEntriesFetchAndEnd :
    (∀ f ∈ [fnUp, { fnUp with up := false }], let s := { withQueue jobRing with hostA := [(0, 1)], fns := [(0, f)] }
     s.sec.boot = .ready ∧ mayFetch s ((s.ctl.turn + 0) % 256) = true ∧ (getFn s (b2n (getQueue s 0).link)).up = f.up ∧ canonical s) ∧
    (let s := withQueue { jobRing with link := true }; let t := { s with own := { s.own with owner := 1 } }
     mayFetch s 0 = false ∧ mayFetch t 0 = true) ∧
    (let j := opEntry 0 0; entryForm j [] = true ∧ freeEntry (free1 j sRun) 0 = some j) ∧
    (let j := opEntry 8 0; let s := free1 j sRun; let t := { s with ctl := { s.ctl with waiting := [{ stepEntry 1 with num := 0 }] } }
     entryForm j [] = true ∧ s.ctl.free.filter (fun j => jobOpc j == 8) = [j] ∧ earlierEnded s j = true ∧
       earlierEnded { t with ctl := { t.ctl with free := [{ j with num := 1 }] } } { j with num := 1 } = false) ∧
    (let j := opEntry 7 0x1000; let s := free1 j { sPlan with mem := memOf [(0x1000, fieldsAt 128 [(6, [7])])] }; let h := rdMem s 0x1000 128
     s.ctl.free = [j] ∧ fld j.bytes 8 8 = 0x1000 ∧ jobOpc j = 7 ∧ entryForm j [(8, 8)] = true ∧ inHbm s 0x1000 128 = true ∧
       streamIdx (byteAt h 7) (byteAt h 6) = 7 ∧ isEvalStream s 7 = true ∧ streamHolds (getStream s 7) < 4 ∧ canonical s) ∧
    (let s := dealing; let j := opEntry 6 0x8000; let r := rdMem s 0x8000 128
     freeEntry s 6 = some j ∧ anyStackHolds s = false ∧ fld j.bytes 8 8 = 0x8000 ∧ entryForm j [(8, 8)] = true ∧ inHbm s 0x8000 128 = true ∧ dealOk s 0x8000 r = true ∧
       deal (dBudget r) (dPasses r) 1 (fun e => fld (rdMem s (dTokens r) 4) (4 * e) 4) = ([[0]], []) ∧
       inHbm s (dDefer r) 0 = true ∧ inHbm s (dDst r) 256 = true ∧ touchesAnyBank s (dResult r) 16 = false ∧ canonical s) ∧
    (let j := opEntry 6 0x9000; let s := free1 j dealing
     freeEntry s 6 = some j ∧ anyStackHolds s = false ∧ entryForm j [(8, 8)] = true ∧ inHbm s 0x9000 128 = true ∧ dealOk s 0x9000 (rdMem s 0x9000 128) = false) := by
  unfold canonical
  refine ⟨by decide +kernel, by decide +kernel, by decide +kernel, by decide +kernel, by decide +kernel, by decide +kernel, by decide +kernel⟩

/-- R245: the dealer's worked example. -/
theorem test_dealer : deal 4096 4 10 (fun e => [1500, 3000, 800, 2200, 600, 1900, 400, 3500, 1000, 2500].getD e 0) =
    ([[6, 7], [1, 8], [0, 9], [2, 3, 4]], [5]) := by decide +kernel

/-- R246: the dealt manifest of that one entry stands at DST, with COUNT 1, and the result says one pass and nothing deferred. -/
theorem test_deal_result : (rdMem (runDeal dealing) 0xC000 8, rdElem (runDeal dealing) 0xA010 4, rdMem (runDeal dealing) 0xA080 1) =
    ([1, 0, 0, 0, 0, 0, 0, 0], 1, rdMem dealing 0x1080 1) := by decide +kernel

def owned (st : OwnState) (owner target : Fin 4) : State := { sRun with own := { state := st, owner := owner, target := target, gen := 7, timeout := 10 } }
def reclaimToken : Bytes := fieldsAt 64 [(0, toLe 4 0x43524B4B), (4, [1]), (6, [1]), (24, [1])]
def served (s : State) : State := { s with ports := [(0, { Mgmt.init with addr := some 8 })] }

theorem witness_OwnershipMovesByCommand :
    (∀ p ∈ [(OwnState.vacant, (0 : Fin 4), (0 : Fin 4)), (.held, 0, 0), (.offered, 0, 1)], let s := owned p.1 p.2.1 p.2.2
      s.own.state = p.1 ∧ s.own.owner = p.2.1 ∧ s.own.target = p.2.2 ∧ s.own.gen = 7 ∧ masterExists s 0 = true ∧ masterExists s 1 = true ∧
        s.sec.boot = .ready) ∧
    (7 : BitVec 16) ≠ 8 ∧ (owned .lapsing 0 0).own.state = .lapsing ∧ (owned .held 1 2).own.owner ≠ 0 ∧ (owned .offered 1 2).own.target ≠ 0 ∧
    ((owned .held 2 0).own.state ≠ .vacant ∧ 2 ≤ (owned .held 2 0).own.owner.val) ∧
    (let s := served (owned .vacant 0 0)
     portServes s 0 = true ∧ (getMgmt s 0).busy = false ∧ reclaimFault s reclaimToken = none ∧ s.own.state ≠ .held ∧ byteAt reclaimToken 6 % 4 = 1 ∧
       reclaimFault s [] ≠ none) := by
  refine ⟨by decide +kernel, by decide, by decide +kernel, by decide +kernel, by decide +kernel, by decide +kernel, by decide +kernel⟩

/-- R431, R432, R433, R439: an event queue of 64 entries that takes every class, with room, with 4 free entries, and one of another link. -/
def evRing (tail : Nat) (link : Bool) : Queue :=
  { Queue.init with enabled := true, event := true, tail := tail, phase := true, link := link, base := 0x1000, mask := 0xFFFF, count := 1 }
def evState (x : Queue) : State := withQueue x

theorem witness_EventsDelivered :
    (let s := evState (evRing 63 false)
     takesEvent (getQueue s 0) 0xC004 = true ∧ suppressed s 0xC004 = false ∧ evqDrops s (getQueue s 0) 0xC004 = true ∧
       evqDrops s (getQueue s 0) 0x9801 = true ∧ (∀ p ∈ s.queues, (getFn s (b2n p.2.link)).up = true) ∧ canonical s) ∧
    (let s := evState (evRing 58 false)
     evqDrops s (getQueue s 0) 0xC004 = false ∧ mgmtClass (evClass 0xC004) = true ∧ (∀ p < 2, (getMgmt s p).buf.length < 60) ∧ canonical s) ∧
    suppressed { sPlan with pln := { sPlan.pln with plan := some { planT with policy := { policyT with suppress := [0xC004] } } } } 0xC004 = true := by
  unfold canonical; decide +kernel

/-- R431: the entry of a queue event stands at the TAIL of that ring, which moves on; a full ring counts it lost. -/
theorem test_event_written :
    (let t := raise (evState (evRing 0 false)) 0xC004 7 [1]
     (rdHost t false 0x1000 8, (getQueue t 0).tail, (getMgmt t 0).buf.length)) = ([4, 0xC0, 1, 0, 7, 0, 0, 0], 1, 1) ∧
    (let t := raise (evState (evRing 60 false)) 0xC004 7 [1]; ((getQueue t 0).lost, (getQueue t 0).tail)) = (1, 60) := by decide +kernel

/-! Registers, management ports, clocks, power. -/

theorem witness_BadRegisterAccessDiscarded :
    accessDead State.reset 0 0x1000 = true ∧ accessDead sRun 0 0x1002 = false ∧ (0x1002 : BitVec 24).toNat % 4 ≠ 0 ∧
      (accessDead sRun 1 0x1008 = false ∧ (0x1008 : BitVec 24).toNat % 4 = 0 ∧ isOwner sRun 1 = false ∧ exemptOff sRun 1 0x1008 = false) := by
  decide +kernel

/-- R12: a misaligned read answers ones; R410: so does any read before the boot ends. -/
theorem test_reads_of_ones : (readReg State.reset 0 0x1000).bus.reads = [(0, 0xFFFFFFFF)] := by decide +kernel

def withMaster (x : Master) : State := { sRun with masters := [(0, x)] }

theorem witness_RegistersReadAndTakeValues :
    (let s := sRun
     masterExists s 0 = true ∧ s.sec.boot = .ready ∧ canonical s ∧ isOwner s 0 = true ∧ masterExists s 1 = true ∧ isOwner s 1 = false ∧
       captured s 0 0x8014 = none ∧ isLo (0x4008 : BitVec 24).toNat = true) ∧
    (let s := withMaster { Master.init with captured := [(0x400C, 5)] }
     4 ≤ (0x400C : BitVec 24).toNat ∧ isLo ((0x400C : BitVec 24).toNat - 4) = true ∧ captured s 0 (0x400C : BitVec 24).toNat = some 5 ∧ canonical s) ∧
    (let s := sPlan
     hostHeld s 0 0x60000 64 = false ∧ bar2Addr s 0 (0x60000 : BitVec 36).toNat = 0x60000 ∧ hostMapped s 0x60000 64 = true ∧ readRefused s 0x60000 64 = false ∧
       hostMapped s 0x10000 64 = true ∧ readRefused s 0x10000 64 = true ∧ hostMapped s 0xFFFFFFFFF 64 = false ∧
       hostBankOk s 0x60000 64 = true ∧ hostBankOk s 0x10000 64 = false ∧ canonical s ∧ isOwner s 0 = true) ∧
    (let s := { sPlan with bus := { sPlan.bus with bar2Wait := [{ fn := 0, addr := 0x60000, len := 4, data := none }] } }
     hostHeld s 0 0x60000 64 = true ∧ hostMapped s 0x60000 64 = true ∧ readRefused s 0x60000 64 = false ∧ hostBankOk s 0x60000 64 = true ∧
       masterExists s 0 = true ∧ isOwner s 0 = true) := by
  unfold canonical
  refine ⟨⟨by decide, by decide, by decide +kernel, by decide, by decide, by decide, by decide +kernel, by decide +kernel⟩,
    by decide +kernel, by decide +kernel, by decide +kernel⟩

/-- R13: the two halves of PLN_ADDR; R421: OWN_TIMEOUT keeps its value at 0; R463: PWR_LIMIT keeps its value above 11,000. -/
theorem test_register_writes :
    (bar0Write (bar0Write sRun 0 0x4008 0x1000 4) 0 0x400C 2 4).pln.addr = 0x200001000 ∧ (bar0Write sRun 0 0x1008 0 4).own.timeout = 10 ∧
      (bar0Write sRun 0 0x6014 11001 4).pwr.limit = 11000 ∧ (bar0Write sRun 0 0x6014 2000 4).pwr.limit = 2000 := by decide +kernel

def mgmtOwner (s : State) : State := served { s with own := { s.own with state := .held, owner := 2 } }

theorem witness_ManagementMessagesAnswered :
    (let s := served sRun
     canonical s ∧ portServes s 0 = true ∧ (getMgmt s 0).busy = false ∧ readBlocks s = none ∧ (0x1000 : BitVec 24).toNat % 4 = 0 ∧ isLo (0x1000 : BitVec 24).toNat = false ∧
       captured s 2 0x1000 = none ∧ isOwner s 2 = false ∧ portBarred 0x1008 = false ∧ exemptOff s 2 0x1004 = true) ∧
    (let s := mgmtOwner sRun
     canonical s ∧ portServes s 0 = true ∧ isOwner s 2 = true ∧ (fieldsAt 64 [(0, [1])]).length = 64 ∧ curPlan s = none ∧
       (fieldsAt 256 [(0, [1])]).length = 256 ∧ isPowered s = true ∧ portTalks s 0 = true) ∧
    (mgmtOwner (keyed sRun)).sec.ident = true ∧
    (let s := { served sRun with sec := { sRun.sec with boot := .failed } }; portLive s 0 = true ∧ s.sec.boot = .failed ∧ portTalks s 0 = false ∧
       (getMgmt s 0).busy = false ∧ s.spr.insp = none ∧ canonical s) ∧
    (let s := { sRun with ports := [(0, { Mgmt.init with addr := some 8, busy := true })] }
     portServes s 0 = true ∧ (getMgmt s 0).busy = true ∧ readBlocks s = none) := by
  unfold canonical
  refine ⟨by decide +kernel, by decide +kernel, by decide +kernel, by decide +kernel, by decide +kernel⟩

/-- R371: a recovered package in one piece that is valid, and one that is not. -/
theorem witness_RecoveryEnds (hr : Config.releaseDigests.contains (digest32 (pkgKey pkgT)) = true)
    (hv : ∀ k d f, Config.verifySig k d f = true) :
    pkgT.length ≤ 4096 ∧ readPackage (fun o n => rd (wr [] 0 pkgT) o n) = pkgT ∧ pkgFault (storedMinSvn sRun true) pkgT = none ∧
      pkgFault (storedMinSvn sRun true) (readPackage fun o n => rd (wr [] 0 [1]) o n) ≠ none := by
  have l := pkgT_length
  have lh : sub pkgT 0 64 = sub pkgHead 0 64 := by rw [pkgT, sub_append_left _ _ _ _ (by rw [pkgHead_length]; omega)]
  obtain ⟨h1, h2⟩ := staged_head pkgT (by omega)
  have hn : pkgSigned (sub pkgT 0 64) + 1536 = pkgT.length := by rw [l, lh]; decide +kernel
  have hm : storedMinSvn sRun true = 0 := by decide +kernel
  have e : ∀ (b : Bytes) a n, rd (wr [] 0 b) a n = rdMem (staging b) a n := fun _ _ _ => rfl
  refine ⟨by omega, ?_, ?_, by rw [hm]; decide +kernel⟩
  · have hk : pkgHeadOk (sub pkgHead 0 64) = true := by decide +kernel
    rw [lh] at hn
    simp only [readPackage, e, h2, hn, h1, lh, hk, if_true]
  · rw [hm]; exact pkgT_refusal hr hv sRun (by decide)

def refAt (r : RefState) : State := { sRun with clk := { Clk.init with ref := r, n0 := 640, needResume := true } }
def island0 : IslandId := { kind := 1, die := 0, unit := 0 }
def lockedIsland (x : Island) : State := setIsland { sPlan with clk := { Clk.init with ref := .good } } island0 x

/-- R449: with N0 = 640 the counts 608 and 672 are in range, 607 and 673 are not. -/
theorem test_reference_window : [607, 608, 672, 673].map (outOfRange 640) = [true, false, false, true] := by decide

theorem witness_ReferenceFailsAndRecovers :
    (let s := { refAt .good with clk := { (refAt .good).clk with bad := [(12, 1)] } }
     isPowered s = true ∧ s.clk.ref = .good ∧ outOfRange (expectedCount s 12) (607 : BitVec 16).toNat = true ∧ smGet 0 s.clk.bad 12 = 1 ∧
       outOfRange (expectedCount s 12) (640 : BitVec 16).toNat = false) ∧
    (let s := lockedIsland { Island.init with lock := true }; let t := lockedIsland { Island.init with mode := 1 }
     (shapeIslands s).contains island0 = true ∧ (namedIslands s).contains island0 = true ∧ (getIsland s island0).lock = true ∧ (getIsland t island0).lock = false ∧ isOwner s 0 = true) ∧
    (refAt .failed).clk.ref = .failed ∧
    (let s := refAt .good
     let t := { s with stp := { s.stp with state := .suspended, prior := .stopped } }
     isOwner s 0 = true ∧ masterExists s 0 = true ∧ s.sec.boot = .ready ∧ s.clk.needResume = true ∧ s.pwr.slack = false ∧
       anyStackHolds s = false ∧ anyStackHolds (sleepy (planned s)) = true ∧ lastAsk s island0 ≠ some .toFallback ∧
       { s.pwr with slack := true }.slack = true ∧ t.stp.state = .suspended ∧ t.stp.att = none ∧ t.lock = none ∧ t.stp.prior = .stopped ∧
       t.cores = []) ∧
    (∀ b, let x := getIsland (lockedIsland { Island.init with target := some true, lock := b }) island0
      x.target = some true ∧ x.lock = b) := by
  refine ⟨by decide +kernel, by decide +kernel, by decide +kernel, by decide +kernel, by decide +kernel⟩

def inSlack (p : Pwr → Pwr) : State := { sRun with pwr := p { sRun.pwr with slack := true } }

theorem witness_PowerGovernorAndSlack :
    (let r : GovReq := { weight := 9500, island := island0, mode := some modeRun, startCore := none, clock := none }
     admitReqs govBudget [r, r] = ([r], [r]) ∧ sRun.pwr.releasing = false ∧ sRun.clk.resumePend = false ∧ sRun.bus.bar2Wait = []) ∧
    (∀ a ∈ [ClockAsk.toFallback, .toGenerator, .retune],
      let r : GovReq := { weight := 170, island := island0, mode := none, startCore := none, clock := some a }
      let u := { sRun with clk := { sRun.clk with gov := [r] } }
      heldReqs u u.clk.gov = [] ∧ admitReqs govBudget [r] = ([r], []) ∧ r.mode = none) ∧
    (let x := { Island.init with target := some true, lock := true }
     let s := { sRun with clk := { Clk.init with islands := [(islandKey (portIsland 0), x)] } }
     smWf Island.init s.clk.islands = true ∧ s.clk.gov = [] ∧ getIsland s (portIsland 0) = x ∧ clockRuns x = true ∧ x.generator = false ∧
       (getPort s 0).state = .down ∧ unconnected s (portIsland 0) = false ∧
       clockRuns { x with generator := true, lock := false } = false) ∧
    (let s := planned (withCore awake []); (getCore s core0).idle = false ∧ coreExists s 0 0 0 = true ∧ canonical s) ∧
    (let s := sRun; isPowered s = true ∧ effLimit s < (11001 : BitVec 16).toNat ∧ 425 ≤ s.pwr.cap ∧ s.pwr.slack = false ∧ s.pwr.high = false) ∧
    (let s := inSlack fun p => { p with timer := true }
     let t := { s with stp := { s.stp with state := .suspended, prior := .stopped } }
     isPowered s = true ∧ s.pwr.slack = true ∧ t.pwr.timer = true ∧ t.clk.needResume = false ∧ t.stp.state = .suspended ∧ t.stp.att = none ∧
       t.lock = none ∧ t.stp.prior = .stopped ∧ t.cores = []) ∧
    (let s := inSlack fun p => { p with releasing := true }
     s.pwr.slack = true ∧ s.pwr.releasing = true ∧ s.clk.gov = [] ∧ s.bus.bar2Wait = [] ∧ s.clk.needResume = false) := by
  unfold canonical
  refine ⟨by decide +kernel, by decide +kernel, by decide +kernel, by decide +kernel, by decide +kernel, by decide +kernel, by decide +kernel⟩

/-- R218: what may be suspended: idle with a pending STOP, a lock, an attempt in each state of the step, and one with an abort cause. -/
def heldIn (p : StepState) (s : State) : State := { s with stp := { s.stp with state := .suspended, prior := p } }

theorem witness_Resumed :
    (let s := heldIn .idle { sRun with stp := { sRun.stp with stopPend := true } }
     s.stp.att = none ∧ s.lock = none ∧ s.stp.prior = .idle ∧ s.cores = []) ∧
    (let s := heldIn .reshardLock (locked 1 (lockAt 1)); s.stp.att = none ∧ s.lock = some (lockAt 1) ∧ s.stp.kept = []) ∧
    (∀ p ∈ [StepState.passes, .normCheck, .updateWait, .update], let s := heldIn p (stepping attempt0 p)
      s.stp.att = some attempt0 ∧ s.stp.prior = p ∧ p ≠ .tally) ∧
    attempt0.lostWhileSuspended = false ∧ attempt0.reduced = false ∧ attempt0.norm = none ∧ attempt0.point < 4 ∧
    (let s := heldIn .tally (tallying attempt0); s.stp.prior = .tally ∧ attempt0.digests.length < replicaSize s) ∧
    (let a := { attempt0 with lostWhileSuspended := true }; let s := heldIn .passes (stepping a .passes)
     s.stp.att = some a ∧ s.stp.prior = .passes ∧ a.point < 4) := by decide +kernel

/-- R293, R451: that last attempt aborts as the owner's RESUME leads it on; the other goes on in its passes. -/
theorem test_resume : ([false, true].map fun b =>
      let s := heldIn .passes (stepping { attempt0 with lostWhileSuspended := b } .passes)
      (clkResume { s with clk := { s.clk with ref := .good, needResume := true } }).stp.state) = [.passes, .aborting] := by decide +kernel

end Sys2Proof.Tests
end

section
/-! Every step keeps the fields with reserved encodings legal (R15). One lemma per operation of the model says that it keeps
`legalFields`; each is proved from those of the operations that it calls. The registers' writes, the configuration of a queue and
the reset are where a field changes: there a reserved value leaves it, or the reset value stands. -/
namespace Sys2Proof.Machine
open Sys2Proof Sys2Proof.Safety

variable {s : State}

/-- The queue's part of `legalFields`. -/
def legalQueue (x : Queue) : Prop := 6 ≤ x.sizeLog2 ∧ x.sizeLog2 ≤ 16 ∧ x.count ≠ 0

theorem mem_smSet {α : Type} [DecidableEq α] {d v : α} {m : SMap α} {k : Nat} {p : Nat × α} (h : p ∈ smSet d m k v) :
    p = (k, v) ∨ p ∈ m := by
  unfold smSet at h
  split at h
  · exact .inr (mem_smDel h)
  · exact mem_smIns h

theorem smGet_of_forall {α : Type} {P : α → Prop} {d : α} {m : SMap α} (hd : P d) (h : ∀ p ∈ m, P p.2) (k : Nat) :
    P (smGet d m k) := by
  induction m with
  | nil => exact hd
  | cons p m ih =>
    obtain ⟨j, v⟩ := p
    rw [List.forall_mem_cons] at h
    simp only [smGet]
    split
    · exact h.1
    · exact ih h.2

/-- A state that differs from a legal one in other fields is legal. -/
theorem legalFields_frame {mem hostA hostB nor0 nor1 cores par arbs stp lock streams slips fab hold spr pln sec ctl staged fns ports bus
    clk fresh pending} (hs : legalFields s) :
    legalFields ⟨mem, hostA, hostB, nor0, nor1, cores, par, arbs, stp, lock, streams, slips, fab, hold, spr, pln, sec, s.own, s.queues,
      ctl, s.masters, staged, fns, ports, bus, clk, s.pwr, fresh, pending⟩ := hs

/-- The ownership but for its timeout, and the power fields but for the limit, may change too. -/
theorem legalFields_update {mem hostA hostB nor0 nor1 cores par arbs stp lock streams slips fab hold spr pln sec own ctl staged fns ports
    bus clk pwr fresh pending} (ho : own.timeout = s.own.timeout) (hp : pwr.limit = s.pwr.limit) (hs : legalFields s) :
    legalFields ⟨mem, hostA, hostB, nor0, nor1, cores, par, arbs, stp, lock, streams, slips, fab, hold, spr, pln, sec, own, s.queues,
      ctl, s.masters, staged, fns, ports, bus, clk, pwr, fresh, pending⟩ := by
  obtain ⟨hm, h, h1, h2, hq⟩ := hs
  exact ⟨hm, ho ▸ h, hp ▸ h1, hp ▸ h2, hq⟩

theorem foldl_legal {ι : Type} {g : State → ι → State} (hg : ∀ s i, legalFields s → legalFields (g s i)) (l : List ι)
    (hs : legalFields s) : legalFields (l.foldl g s) := by
  induction l generalizing s with
  | nil => exact hs
  | cons i l ih => exact ih (hg s i hs)

theorem foldl_fst_legal {ι κ : Type} {g : State × κ → ι → State × κ} (hg : ∀ a i, legalFields a.1 → legalFields (g a i).1)
    (l : List ι) {a : State × κ} (ha : legalFields a.1) : legalFields (l.foldl g a).1 := by
  induction l generalizing a with
  | nil => exact ha
  | cons i l ih => exact ih (hg a i ha)

/-! The named operations over the state (R10, R169, R351, R409, R423, R432). -/

theorem setCoreAt_legal (k x) (hs : legalFields s) : legalFields (setCoreAt s k x) := legalFields_frame hs

theorem setCore_legal (c x) (hs : legalFields s) : legalFields (setCore s c x) := by
  grind [setCore, setCoreAt_legal]

theorem updCore_legal (c f) (hs : legalFields s) : legalFields (updCore s c f) := by
  grind [updCore, setCore_legal]

theorem wrMem_legal (a bs) (hs : legalFields s) : legalFields (wrMem s a bs) := legalFields_frame hs

theorem zeroMem_legal (a n) (hs : legalFields s) : legalFields (zeroMem s a n) := legalFields_frame hs

theorem wrHost_legal (link a bs) (hs : legalFields s) : legalFields (wrHost s link a bs) := by
  grind [wrHost, legalFields_frame]

theorem wrOpen_legal (l) (hs : legalFields s) : legalFields (wrOpen s l) :=
  foldl_legal (by exact fun _ _ => wrMem_legal _ _) _ hs

theorem getQueue_legal (q : Nat) (hs : legalFields s) : legalQueue (getQueue s q) := by
  obtain ⟨_, _, _, _, hq⟩ := hs
  exact smGet_of_forall (by unfold legalQueue; decide) hq q

theorem setQueue_legal {q x} (hx : legalQueue x) (hs : legalFields s) : legalFields (setQueue s q x) := by
  obtain ⟨hm, ho, h1, h2, hq⟩ := hs
  refine ⟨hm, ho, h1, h2, fun p hp => ?_⟩
  rcases mem_smSet hp with rfl | hp
  · exact hx
  · exact hq p hp

/-- A queue is put back with the SIZE_LOG2 and the COUNT that it had. -/
theorem setQueue_keep_legal {q x} (h1 : x.sizeLog2 = (getQueue s q).sizeLog2) (h2 : x.count = (getQueue s q).count)
    (hs : legalFields s) : legalFields (setQueue s q x) := by
  have h := getQueue_legal q hs
  unfold legalQueue at h
  rw [← h1, ← h2] at h
  exact setQueue_legal h hs

theorem setFn_legal (l x) (hs : legalFields s) : legalFields (setFn s l x) := legalFields_frame hs

theorem setMgmt_legal (p x) (hs : legalFields s) : legalFields (setMgmt s p x) := legalFields_frame hs

theorem msixSend_legal (link v) (hs : legalFields s) : legalFields (msixSend s link v) := by
  grind [msixSend, legalFields_frame, setFn_legal]

theorem evqSignal_legal (q) (hs : legalFields s) : legalFields (evqSignal s q) := by
  grind [evqSignal, setQueue_keep_legal, msixSend_legal]

theorem evqPush_legal (q e) (hs : legalFields s) : legalFields (evqPush s q e).1 := by
  have := getQueue_legal q hs
  grind [evqPush, evqNext, legalQueue, setQueue_legal, wrHost_legal, evqSignal_legal]

theorem mgmtPush_legal (p e) (hs : legalFields s) : legalFields (mgmtPush s p e).1 := by
  grind [mgmtPush, legalFields_frame, setMgmt_legal]

theorem gather_legal {offer : State → Nat → State × List Event} (ho : ∀ s i, legalFields s → legalFields (offer s i).1) (a i)
    (ha : legalFields a.1) : legalFields (gather offer a i).1 := ho _ i ha

theorem deliver_legal (e) (hs : legalFields s) : legalFields (deliver s e).1 := by
  have h1 := fun l => foldl_fst_legal (gather_legal fun _ q => evqPush_legal q e) l (a := (s, [])) hs
  have h2 := fun l a => foldl_fst_legal (gather_legal fun _ p => mgmtPush_legal p e) l (a := a)
  grind [deliver]

theorem deliverRounds_legal (n es) (hs : legalFields s) : legalFields (deliverRounds n es s) := by
  induction n generalizing es s with
  | zero => exact hs
  | succ n ih => exact ih _ (foldl_fst_legal (by exact fun _ e => deliver_legal e) es hs)

theorem raise_legal (code src payload) (hs : legalFields s) : legalFields (raise s code src payload) :=
  deliverRounds_legal _ _ hs

theorem raiseEvent_legal (e) (hs : legalFields s) : legalFields (raiseEvent s e) := by
  grind [raiseEvent, raise_legal]

theorem raiseDma_legal (link t addr) (hs : legalFields s) : legalFields (raiseDma s link t addr) := by
  grind [raiseDma, raiseEvent_legal]

theorem wrUnit_legal (src l) (hs : legalFields s) : legalFields (wrUnit s src l) := by
  grind [wrUnit, wrOpen_legal, raise_legal]

theorem signalCtr_legal (c ctr) (hs : legalFields s) : legalFields (signalCtr s c ctr) := by
  grind [signalCtr, legalFields_frame, raise_legal, setCore_legal]

theorem signalField_legal (c f) (hs : legalFields s) : legalFields (signalField s c f) := by
  grind [signalField, signalCtr_legal]

theorem signalRemote_legal (w) (hs : legalFields s) : legalFields (signalRemote s w) := by
  grind [signalRemote, signalCtr_legal]

theorem finalRecord_legal (c r addr) (hs : legalFields s) : legalFields (finalRecord s c r addr) :=
  foldl_legal (by grind [raise_legal, setCore_legal]) _ (updCore_legal c _ hs)

theorem queueLocation_legal (unit addr cause) (hs : legalFields s) : legalFields (queueLocation s unit addr cause) := by
  grind [queueLocation, legalFields_frame, raise_legal]

theorem jobDone_legal (j status code) (hs : legalFields s) : legalFields (jobDone s j status code) := by
  grind [jobDone, raise_legal]

theorem endControl_legal (j status code) (hs : legalFields s) : legalFields (endControl s j status code) := by
  grind [endControl, legalFields_frame, jobDone_legal]

theorem endFree_legal (j status code) (hs : legalFields s) : legalFields (endFree s j status code) := by
  grind [endFree, legalFields_frame, jobDone_legal]

theorem raiseJobInvalid_legal (j) (hs : legalFields s) : legalFields (raiseJobInvalid s j) := by
  grind [raiseJobInvalid, raise_legal]

theorem bumpFresh_legal (hs : legalFields s) : legalFields (bumpFresh s) := legalFields_frame hs

/-! Clock islands and the governor. -/

theorem setIsland_legal (i x) (hs : legalFields s) : legalFields (setIsland s i x) := legalFields_frame hs

theorem askMode_legal (i m) (hs : legalFields s) : legalFields (askMode s i m) := legalFields_frame hs

theorem askRun_legal (hs : legalFields s) : legalFields (askRun s) := foldl_legal (fun _ i => askMode_legal i _) _ hs

theorem askSleep_legal (hs : legalFields s) : legalFields (askSleep s) := foldl_legal (fun _ i => askMode_legal i _) _ hs

theorem askClock_legal (i a) (hs : legalFields s) : legalFields (askClock s i a) := by
  grind [askClock, legalFields_frame]

theorem admitClock_legal (i a) (hs : legalFields s) : legalFields (admitClock s i a) := setIsland_legal i _ hs

theorem finishSwitches_legal (hs : legalFields s) : legalFields (finishSwitches s) := legalFields_frame hs

theorem askStart_legal (c) (hs : legalFields s) : legalFields (askStart s c) := by
  grind [askStart, legalFields_frame, setCore_legal]

theorem coreIdle_legal (c) (hs : legalFields s) : legalFields (coreIdle s c) := by
  grind [coreIdle, legalFields_frame, setCore_legal, askStart_legal]

theorem askSource_legal (i gen) (hs : legalFields s) : legalFields (askSource s i gen) := by
  grind [askSource, legalFields_frame, setIsland_legal, askClock_legal]

theorem forceSwitch_legal (i) (hs : legalFields s) : legalFields (forceSwitch s i) := by
  grind [forceSwitch, legalFields_frame, setIsland_legal, raise_legal]

theorem applyClocks_legal (hs : legalFields s) : legalFields (applyClocks s) :=
  foldl_legal (by grind [askClock_legal, setIsland_legal]) _ hs

theorem lockGenerators_legal (hs : legalFields s) : legalFields (lockGenerators s) :=
  foldl_legal (by grind [askClock_legal, setIsland_legal]) _ hs

theorem settleIslands_legal (hs : legalFields s) : legalFields (settleIslands s) := by
  have h (l : List IslandId) {s} (h : legalFields s) : legalFields (l.foldl (fun s i => askMode s i modeDeep) s) :=
    foldl_legal (fun _ i => askMode_legal i _) l h
  grind [settleIslands, legalFields_frame, applyClocks_legal, lockGenerators_legal, askRun_legal]

/-! Sending on the fabric. -/

theorem countLost_legal (p) (hs : legalFields s) : legalFields (countLost s p) := legalFields_frame hs

theorem raiseLost_legal (dst) (hs : legalFields s) : legalFields (raiseLost s dst) := by
  grind [raiseLost, raise_legal]

theorem sendTxn_legal (rail t why) (hs : legalFields s) : legalFields (sendTxn s rail t why).1 := by
  grind [sendTxn, legalFields_frame, raiseLost_legal, raise_legal, countLost_legal]

theorem sendAnswer_legal (rail req ty fields data) (hs : legalFields s) :
    legalFields (sendAnswer s rail req ty fields data) := by
  grind [sendAnswer, legalFields_frame]

theorem sendComplOn_legal (rail req status) (hs : legalFields s) : legalFields (sendComplOn s rail req status) := by
  grind [sendComplOn, sendAnswer_legal]

theorem sendCompl_legal (req status) (hs : legalFields s) : legalFields (sendCompl s req status) := by
  grind [sendCompl, sendComplOn_legal]

theorem sendCctl_legal (kind cause step tag data dst) (hs : legalFields s) :
    legalFields (sendCctl s kind cause step tag data dst).1 := by
  grind [sendCctl, sendTxn_legal]

theorem sendCctlAll_legal (kind cause step tag data dsts) (hs : legalFields s) :
    legalFields (sendCctlAll s kind cause step tag data dsts).1 :=
  foldl_fst_legal (by exact fun _ _ => sendCctl_legal _ _ _ _ _ _) _ hs

/-! The step machine, its log and its aborts. -/

theorem enterState_legal (x) (hs : legalFields s) : legalFields (enterState s x) := by
  grind [enterState, legalFields_frame]

theorem settleState_legal (x) (hs : legalFields s) : legalFields (settleState s x) := by
  grind [settleState, legalFields_frame, enterState_legal]

theorem mirrored_legal (hs : legalFields s) : legalFields (mirrored s) := by
  grind [mirrored, legalFields_frame]

theorem sendPutsOn_legal (rail dst why cls parts) (hs : legalFields s) : legalFields (sendPutsOn s rail dst why cls parts).1 :=
  foldl_fst_legal (by exact fun _ _ => sendTxn_legal _ _ _) _ hs

theorem sendPuts_legal (dst why cls parts) (hs : legalFields s) : legalFields (sendPuts s dst why cls parts) := by
  grind [sendPuts, sendPutsOn_legal]

theorem sendLogCopy_legal (r) (hs : legalFields s) : legalFields (sendLogCopy s r) := by
  grind [sendLogCopy, sendPuts_legal]

theorem setSlot_legal (i x) (hs : legalFields s) : legalFields (setSlot s i x) := legalFields_frame hs

theorem loseCover_legal (seq i) (hs : legalFields s) : legalFields (loseCover s seq i) := by
  grind [loseCover, legalFields_frame, raise_legal, setSlot_legal]

theorem loseReplay_legal (seq) (hs : legalFields s) : legalFields (loseReplay s seq) := by
  grind [loseReplay, legalFields_frame]

theorem logEvict_legal (n need) (hs : legalFields s) : legalFields (logEvict n s need) := by
  induction n generalizing s with
  | zero => exact hs
  | succ n ih => grind [logEvict, legalFields_frame, loseReplay_legal, loseCover_legal]

theorem bondProgram_legal (n) (hs : legalFields s) : legalFields (bondProgram s n) := legalFields_frame hs

theorem logAppend_legal (type step body) (hs : legalFields s) : legalFields (logAppend s type step body) :=
  sendLogCopy_legal _ (legalFields_frame (bondProgram_legal _ (logEvict_legal _ _ hs)))

theorem endReplay_legal (reason) (hs : legalFields s) : legalFields (endReplay s reason) := by
  grind [endReplay, legalFields_frame, raise_legal, logAppend_legal]

theorem diverge_legal (hs : legalFields s) : legalFields (diverge s) := by
  grind [diverge, endReplay_legal, raise_legal]

theorem replayPast_legal (hs : legalFields s) : legalFields (replayPast s) := legalFields_frame hs

theorem replayAfter_legal (a differs) (hs : legalFields s) : legalFields (replayAfter s a differs).1 := by
  unfold replayAfter
  split <;> grind [diverge_legal, endReplay_legal]

theorem closeAttempt_legal (a verdict cause tally) (hs : legalFields s) :
    legalFields (closeAttempt s a verdict cause tally).1 := by
  grind [closeAttempt, legalFields_frame, mirrored_legal, wrMem_legal, replayPast_legal, replayAfter_legal,
    logAppend_legal]

theorem startDrain_legal (d) (hs : legalFields s) : legalFields (startDrain s d) := by
  grind [startDrain, legalFields_frame, setSlot_legal]

theorem freeze_legal (logSeq) (hs : legalFields s) : legalFields (freeze s logSeq) := by
  grind [freeze, legalFields_frame, startDrain_legal]

theorem nextDrain_legal (hs : legalFields s) : legalFields (nextDrain s) := by
  grind [nextDrain, legalFields_frame, startDrain_legal]

theorem flip_legal (hs : legalFields s) : legalFields (flip s) := by
  grind [flip, legalFields_frame, mirrored_legal]

theorem commitAttempt_legal (a cause tally) (hs : legalFields s) : legalFields (commitAttempt s a cause tally) := by
  grind [commitAttempt, legalFields_frame, flip_legal, closeAttempt_legal, raise_legal, sendCctlAll_legal,
    freeze_legal, enterState_legal, settleState_legal, endControl_legal]

theorem stopAttempt_legal (a cause) (hs : legalFields s) : legalFields (stopAttempt s a cause) := by
  grind [stopAttempt, legalFields_frame, closeAttempt_legal, endControl_legal, enterState_legal]

theorem discardIntake_legal (hs : legalFields s) : legalFields (discardIntake s) := legalFields_frame hs

theorem discardQueues_legal (hs : legalFields s) : legalFields (discardQueues s) := legalFields_frame hs

theorem floodAbort_legal (cause step tag from_) (hs : legalFields s) : legalFields (floodAbort s cause step tag from_) := by
  grind [floodAbort, legalFields_frame, sendCctlAll_legal]

theorem enterAbort_legal (a cause) (hs : legalFields s) : legalFields (enterAbort s a cause) := by
  grind [enterAbort, legalFields_frame, enterState_legal, discardIntake_legal, discardQueues_legal, floodAbort_legal]

theorem endAbandon_legal (l) (hs : legalFields s) : legalFields (endAbandon s l) := by
  grind [endAbandon, legalFields_frame, logAppend_legal, raise_legal, endControl_legal, enterState_legal]

theorem decideAbandon_legal (l) (hs : legalFields s) : legalFields (decideAbandon s l) := by
  grind [decideAbandon, sendCctlAll_legal, endAbandon_legal]

theorem lockCause_legal (hs : legalFields s) : legalFields (lockCause s) := by
  grind [lockCause, legalFields_frame, decideAbandon_legal, sendCctl_legal]

theorem startAbort_legal (cause) (hs : legalFields s) : legalFields (startAbort s cause) := by
  grind [startAbort, legalFields_frame, lockCause_legal, enterAbort_legal]

theorem epochFault_legal (hs : legalFields s) : legalFields (epochFault s) := by
  grind [epochFault, startAbort_legal, raise_legal]

theorem sequenceFault_legal (hs : legalFields s) : legalFields (sequenceFault s) := by
  grind [sequenceFault, startAbort_legal, raise_legal]

theorem takeLanded_legal (t) (hs : legalFields s) : legalFields (takeLanded s t) := legalFields_frame hs

theorem sendJob_legal (kind cause step tag data dsts) (hs : legalFields s) :
    legalFields (sendJob s kind cause step tag data dsts) := by
  grind [sendJob, sendCctlAll_legal, startAbort_legal]

theorem answerDoe_legal (fn type status code body) (hs : legalFields s) :
    legalFields (answerDoe s fn type status code body) := by
  grind [answerDoe, legalFields_frame, raise_legal]

theorem answerLoads_legal (status code) (hs : legalFields s) : legalFields (answerLoads s status code) := by
  grind [answerLoads, legalFields_frame, answerDoe_legal, setFn_legal]

theorem failApply_legal (hs : legalFields s) : legalFields (failApply s) := by
  grind [failApply, legalFields_frame, answerLoads_legal, raise_legal]

theorem dataLoss_legal (unit addr) (hs : legalFields s) : legalFields (dataLoss s unit addr) := by
  grind [dataLoss, failApply_legal, startAbort_legal, raise_legal]

theorem loadImages_legal (hs : legalFields s) : legalFields (loadImages s) := foldl_legal (fun _ _ => wrMem_legal _ _) _ hs

theorem stateWriteRejected_legal (src) (hs : legalFields s) : legalFields (stateWriteRejected s src) := by
  grind [stateWriteRejected, startAbort_legal, raise_legal]

/-! Checks of operands. -/

theorem failCheck_legal (c code k) (hs : legalFields s) : legalFields (failCheck s c code k) := by
  cases k <;> grind [failCheck, raise_legal, stateWriteRejected_legal]

/-! The berth sequencer. -/

theorem reachMark_legal (c) (hs : legalFields s) : legalFields (reachMark s c) := by
  grind [reachMark, legalFields_frame, setCore_legal]

theorem issueNext_legal (c) (hs : legalFields s) : legalFields (issueNext s c) := by
  grind [issueNext, legalFields_frame, reachMark_legal, setCore_legal, askStart_legal]

theorem passView_legal (hs : legalFields s) : legalFields (passView s) := legalFields_frame hs

theorem testLoss_legal (c) (hs : legalFields s) : legalFields (testLoss s c) := by
  grind [testLoss, legalFields_frame, updCore_legal]

theorem markEffect_legal (c kind) (hs : legalFields s) : legalFields (markEffect s c kind) := by
  grind [markEffect, legalFields_frame, reachMark_legal, setCore_legal, raise_legal, testLoss_legal, passView_legal,
    signalField_legal]

/-! Collectives. -/

theorem sendMsg_legal (c ord d x k dst b scale) (hs : legalFields s) : legalFields (sendMsg s c ord d x k dst b scale).1 := by
  unfold sendMsg
  extract_lets parts id r
  have hr : legalFields r.1 := foldl_fst_legal (by exact fun _ _ => sendTxn_legal _ _ _) _ hs
  grind [startAbort_legal]

theorem sendFor_legal (c run x k dst b scale) (hs : legalFields s) : legalFields (sendFor s c run x k dst b scale).1 := by
  grind [sendFor, legalFields_frame, sendMsg_legal]

theorem sendDown_legal (c run x k b scale) (hs : legalFields s) : legalFields (sendDown s c run x k b scale).1 :=
  foldl_fst_legal (fun a m => sendFor_legal c a.2 x k m b scale) _ hs

theorem deliverChunk_legal (run lo v) (hs : legalFields s) : legalFields (deliverChunk s run lo v).1 := by
  grind [deliverChunk, legalFields_frame, wrMem_legal]

theorem writeResidues_legal (d lo p) (hs : legalFields s) : legalFields (writeResidues s d lo p) := by
  grind [writeResidues, legalFields_frame, wrMem_legal]

theorem pumpUp_legal (c x run k) (hs : legalFields s) : legalFields (pumpUp s c x run k).1 := by
  grind [pumpUp, legalFields_frame, sendFor_legal, writeResidues_legal, sendDown_legal, deliverChunk_legal]

theorem pumpDown_legal (c x run k) (hs : legalFields s) : legalFields (pumpDown s c x run k).1 := by
  grind [pumpDown, legalFields_frame, sendDown_legal, deliverChunk_legal]

theorem pumpBytes_legal (c x run k) (hs : legalFields s) : legalFields (pumpBytes s c x run k).1 := by
  grind [pumpBytes, legalFields_frame, sendDown_legal, wrMem_legal]

theorem pumpRing_legal (c x run) (hs : legalFields s) : legalFields (pumpRing s c x run).1 := by
  grind [pumpRing, legalFields_frame, sendFor_legal, updCore_legal, wrMem_legal]

theorem pumpRun_legal (c run) (hs : legalFields s) : legalFields (pumpRun s c run).1 := by
  unfold pumpRun
  split
  · exact hs
  · split
    · exact pumpRing_legal _ _ _ hs
    · exact foldl_fst_legal (by grind [pumpUp_legal, pumpDown_legal, pumpBytes_legal]) _ hs

theorem pumpCore_legal (c) (hs : legalFields s) : legalFields (pumpCore s c) :=
  foldl_legal (by grind [pumpRun_legal, updCore_legal]) _ hs

theorem spoilSlot_legal (c x seq) (hs : legalFields s) : legalFields (spoilSlot s c x seq) := by
  unfold spoilSlot
  split
  · exact hs
  · exact bumpFresh_legal (foldl_legal (fun _ _ => wrMem_legal _ _) _ hs)

theorem recvReduce_legal (c t) (hs : legalFields s) : legalFields (recvReduce s c t) := by
  grind [recvReduce, legalFields_frame, takeLanded_legal, sendComplOn_legal, epochFault_legal, sequenceFault_legal,
    spoilSlot_legal, pumpCore_legal, setCore_legal]

theorem failCol_legal (c k) (hs : legalFields s) : legalFields (failCol s c k) := by
  have h1 := failCheck_legal c 0x5001 k hs
  cases k <;> grind [failCol, startAbort_legal]

theorem launchCol_legal (c run x) (hs : legalFields s) : legalFields (launchCol s c run x) := by
  grind [launchCol, legalFields_frame, updCore_legal, pumpCore_legal]

theorem breakOrder_legal (c bad) (hs : legalFields s) : legalFields (breakOrder s c bad) := by
  grind [breakOrder, legalFields_frame, startAbort_legal, raise_legal, updCore_legal]

theorem beginCol_legal (c e rest d x) (hs : legalFields s) : legalFields (beginCol s c e rest d x) := by
  grind [beginCol, legalFields_frame, breakOrder_legal, setCore_legal, launchCol_legal]

theorem startCol_legal (cop c) (hs : legalFields s) : legalFields (startCol cop s c) := by
  grind [startCol, legalFields_frame, beginCol_legal, failCol_legal, setCore_legal]

theorem endJob_legal (j) (hs : legalFields s) : legalFields (endJob s j) := by
  unfold endJob
  split
  · exact legalFields_frame hs
  · exact hs

theorem completeCol_legal (c slot) (hs : legalFields s) : legalFields (completeCol s c slot) := by
  grind [completeCol, legalFields_frame, pumpCore_legal, setCore_legal, signalField_legal, finalRecord_legal,
    wrMem_legal, endJob_legal, bumpFresh_legal]

theorem ringCredit_legal (c sched round seq) (hs : legalFields s) : legalFields (ringCredit s c sched round seq) := by
  grind [ringCredit, legalFields_frame, updCore_legal, pumpCore_legal]

/-! Verdicts, tallies and their messages. -/

theorem pumpAll_legal (hs : legalFields s) : legalFields (pumpAll s) := foldl_legal (fun _ _ => pumpCore_legal _) _ hs

theorem setAtt_legal (a) (hs : legalFields s) : legalFields (setAtt s a) := legalFields_frame hs

theorem noCommit_legal (a cause) (hs : legalFields s) : legalFields (noCommit s a cause) := by
  grind [noCommit, legalFields_frame, closeAttempt_legal, raise_legal, settleState_legal, enterState_legal,
    endControl_legal]

theorem decideVerdict_legal (hs : legalFields s) : legalFields (decideVerdict s) := by
  grind [decideVerdict, legalFields_frame, setAtt_legal, noCommit_legal]

theorem tryVerdictUp_legal (hs : legalFields s) : legalFields (tryVerdictUp s) := by
  grind [tryVerdictUp, legalFields_frame, sendJob_legal, setAtt_legal, decideVerdict_legal]

theorem keepTxn_legal (t) (hs : legalFields s) : legalFields (keepTxn s t) := legalFields_frame hs

theorem setEnded_legal (e) (hs : legalFields s) : legalFields (setEnded s e) := legalFields_frame hs

theorem takeVerdictUp_legal (t) (hs : legalFields s) : legalFields (takeVerdictUp s t) := by
  grind [takeVerdictUp, legalFields_frame, sequenceFault_legal, setEnded_legal, tryVerdictUp_legal, setAtt_legal]

theorem takeVerdictDown_legal (t) (hs : legalFields s) : legalFields (takeVerdictDown s t) := by
  grind [takeVerdictDown, legalFields_frame, sequenceFault_legal, setEnded_legal, setAtt_legal, decideVerdict_legal,
    sendJob_legal]

theorem takeAbort_legal (hs : legalFields s) : legalFields (takeAbort s) := by
  grind [takeAbort, startAbort_legal]

theorem decideTally_legal (hs : legalFields s) : legalFields (decideTally s) := by
  grind [decideTally, legalFields_frame, commitAttempt_legal, setAtt_legal, raise_legal, stopAttempt_legal]

theorem takeTally_legal (t) (hs : legalFields s) : legalFields (takeTally s t) := by
  grind [takeTally, legalFields_frame, sequenceFault_legal, setEnded_legal, decideTally_legal, setAtt_legal]

theorem startTally_legal (a d k0) (hs : legalFields s) : legalFields (startTally s a d k0) := by
  unfold startTally
  extract_lets me s1 f r
  have hr : legalFields r.1 := foldl_fst_legal (by exact fun _ _ => sendTxn_legal _ _ _) _ (setAtt_legal _ hs)
  grind [startAbort_legal, decideTally_legal]

theorem recvTagged_legal (t tag) {take : State → State} (ht : ∀ s, legalFields s → legalFields (take s)) (hs : legalFields s) :
    legalFields (recvTagged s t tag take) := by
  grind [recvTagged, takeLanded_legal, sendCompl_legal, keepTxn_legal, epochFault_legal]

theorem recvAbort_legal (t) (hs : legalFields s) : legalFields (recvAbort s t) := by
  grind [recvAbort, legalFields_frame, takeLanded_legal, sendCompl_legal, epochFault_legal, floodAbort_legal,
    takeAbort_legal, keepTxn_legal]

theorem recvCommit_legal (t) (hs : legalFields s) : legalFields (recvCommit s t) := by
  grind [recvCommit, legalFields_frame, takeLanded_legal, sendCompl_legal, epochFault_legal, pumpAll_legal]

theorem takeKept_legal (hs : legalFields s) : legalFields (takeKept s) :=
  foldl_legal (by grind [takeTally_legal, epochFault_legal, takeVerdictUp_legal, takeVerdictDown_legal, takeAbort_legal]) _
    (legalFields_frame hs)

theorem repairWrites_legal (copies) (hs : legalFields s) : legalFields (repairWrites s copies) :=
  foldl_legal (fun _ _ h => wrMem_legal _ _ (wrMem_legal _ _ h)) _ hs

/-! The Ballast. -/

theorem setSlotB_legal (i x) (hs : legalFields s) : legalFields (setSlotB s i x) := legalFields_frame hs

theorem addVersion_legal (v) (hs : legalFields s) : legalFields (addVersion s v) := legalFields_frame hs

theorem writeBackHalf_legal (i half) (hs : legalFields s) : legalFields (writeBackHalf s i half) := by
  grind [writeBackHalf, legalFields_frame, addVersion_legal]

theorem openBatch_legal (hs : legalFields s) {u : State} (e : openBatch s = some u) : legalFields u := by
  grind [openBatch, legalFields_frame]

theorem forceHalf_legal {i half} (hs : legalFields s) {u : State} (e : forceHalf s i half = some u) : legalFields u := by
  obtain ⟨s1, h1, rfl⟩ := Option.map_eq_some_iff.1 e
  exact legalFields_frame (writeBackHalf_legal i half (openBatch_legal hs h1))

/-- The write-backs that make room for a row. -/
theorem foldl_forceHalf_legal {i} {l : List Nat} (hs : legalFields s) {u : State}
    (e : l.foldl (fun (r : Option State) h => r.bind fun s => forceHalf s i h) (some s) = some u) : legalFields u := by
  have hn (l : List Nat) : l.foldl (fun (r : Option State) h => r.bind fun s => forceHalf s i h) none = none := by
    induction l <;> simp_all
  induction l generalizing s with
  | nil => exact Option.some.inj e ▸ hs
  | cons h l ih =>
    cases hf : forceHalf s i h with
    | some s1 => exact ih (forceHalf_legal hs hf) (by simpa [hf] using e)
    | none => simp [hf, hn] at e

theorem closeBatch_legal (hs : legalFields s) : legalFields (closeBatch s) := legalFields_frame hs

theorem writeBackRow_legal (row) (hs : legalFields s) : legalFields (writeBackRow s row) := by
  unfold writeBackRow
  split
  · exact hs
  · have h {i k u} := forceHalf_legal (i := i) (half := k) (u := u) hs
    grind [closeBatch_legal, raise_legal, writeBackHalf_legal]

theorem fillSlot_legal (i row) (hs : legalFields s) : legalFields (fillSlot s i row) := by
  grind [fillSlot, legalFields_frame, setSlotB_legal, wrMem_legal]

theorem pageRow_legal (list row) (hs : legalFields s) : legalFields (pageRow s list row).1 := by
  unfold pageRow
  split
  · exact setSlotB_legal _ _ hs
  · extract_lets used k
    split
    · exact fillSlot_legal _ _ hs
    · split
      · exact hs
      · extract_lets halves
        split
        · exact fillSlot_legal _ _ hs
        · split
          · next e => exact fillSlot_legal _ _ (foldl_forceHalf_legal hs e)
          · exact hs

theorem pageRows_legal (list rows) (hs : legalFields s) : legalFields (pageRows list rows s).1 := by
  induction rows generalizing s with
  | nil => exact hs
  | cons r rs ih => grind [pageRows, pageRow_legal]

theorem pageIn_legal (hs : legalFields s) : legalFields (pageIn s) := by
  grind [pageIn, legalFields_frame, pageRows_legal, closeBatch_legal, raise_legal]

theorem updateBallast_legal (a) (hs : legalFields s) : legalFields (updateBallast s a) := by
  unfold updateBallast
  split
  · exact hs
  · exact foldl_legal (by grind [wrMem_legal, setSlotB_legal]) _ hs

theorem refillBucket_legal (ms) (hs : legalFields s) : legalFields (refillBucket s ms) := legalFields_frame hs

/-! Control entries. -/

theorem takeHead_legal (j) (hs : legalFields s) : legalFields (takeHead s j) := legalFields_frame hs

theorem rejectHead_legal (j) (hs : legalFields s) : legalFields (rejectHead s j) := by
  grind [rejectHead, legalFields_frame, jobDone_legal, raiseJobInvalid_legal]

theorem writeEntry_legal (j) (hs : legalFields s) : legalFields (writeEntry s j) := foldl_legal (fun _ _ => wrMem_legal _ _) _ hs

theorem relocate_legal (hs : legalFields s) : legalFields (relocate s) := foldl_legal (by grind [wrMem_legal]) _ hs

theorem writeExpected_legal (hs : legalFields s) : legalFields (writeExpected s) := by
  unfold writeExpected
  split
  · exact hs
  · exact foldl_legal (fun _ _ => foldl_legal (fun _ _ => wrMem_legal _ _) _) _ hs

theorem freshCores_legal (hs : legalFields s) : legalFields (freshCores s) := foldl_legal (fun _ c => updCore_legal c _) _ hs

theorem freshMarks_legal (hs : legalFields s) : legalFields (freshMarks s) := legalFields_frame hs

theorem primeCores_legal (j) (hs : legalFields s) : legalFields (primeCores s j) := by
  grind [primeCores, relocate_legal, writeExpected_legal, writeEntry_legal, freshMarks_legal, freshCores_legal]

theorem rejectFree_legal (j) (hs : legalFields s) : legalFields (rejectFree s j) := by
  grind [rejectFree, endFree_legal, raiseJobInvalid_legal]

/-! The slipways. -/

theorem setStream_legal (k x) (hs : legalFields s) : legalFields (setStream s k x) := legalFields_frame hs

theorem setSlip_legal (die x) (hs : legalFields s) : legalFields (setSlip s die x) := legalFields_frame hs

theorem feedStreams_legal (hs : legalFields s) : legalFields (feedStreams s) := by
  unfold feedStreams
  split
  · exact hs
  · exact legalFields_frame (foldl_fst_legal (by grind [setStream_legal]) _ hs)

theorem endManifestJob_legal (addr status code) (hs : legalFields s) : legalFields (endManifestJob s addr status code) := by
  grind [endManifestJob, legalFields_frame, endFree_legal]

theorem acceptManifest_legal (die stream addr rest pass) (hs : legalFields s) :
    legalFields (acceptManifest s die stream addr rest pass) := by
  unfold acceptManifest
  extract_lets k x h dg m s1 s2
  have h2 : legalFields s2 := wrUnit_legal _ _ (setStream_legal _ _ hs)
  split
  · exact legalFields_frame h2
  · exact endManifestJob_legal _ _ _ h2
  · exact h2

theorem validateManifest_legal (die stream) (hs : legalFields s) : legalFields (validateManifest s die stream) := by
  grind [validateManifest, legalFields_frame, acceptManifest_legal, diverge_legal, setStream_legal, raise_legal,
    startAbort_legal, endManifestJob_legal]

theorem admitSample_legal (die stream) (hs : legalFields s) : legalFields (admitSample s die stream) := by
  grind [admitSample, legalFields_frame, setStream_legal]

theorem grantEngine_legal (die k e) (hs : legalFields s) : legalFields (grantEngine s die k e) := by
  grind [grantEngine, legalFields_frame, setStream_legal, setSlip_legal]

theorem endDecode_legal (die k e fetched) (hs : legalFields s) : legalFields (endDecode s die k e fetched) := by
  grind [endDecode, legalFields_frame, setSlip_legal, setStream_legal]

theorem raiseSampleDma_legal (die k e) (hs : legalFields s) : legalFields (raiseSampleDma s die k e) := by
  grind [raiseSampleDma, raiseDma_legal]

theorem finishSample_legal (die k e fetched) (hs : legalFields s) : legalFields (finishSample s die k e fetched) := by
  grind [finishSample, endDecode_legal, raiseSampleDma_legal]

theorem noteRelease_legal (die stream pass m rec_) (hs : legalFields s) :
    legalFields (noteRelease s die stream pass m rec_) := by
  grind [noteRelease, legalFields_frame]

theorem releaseWrites_legal (src h m writes rec_) (hs : legalFields s) : legalFields (releaseWrites s src h m writes rec_) := by
  grind [releaseWrites, wrUnit_legal]

theorem releaseTell_legal (die stream h m o) (hs : legalFields s) : legalFields (releaseTell s die stream h m o) := by
  grind [releaseTell, legalFields_frame, signalRemote_legal, raise_legal, setStream_legal]

theorem releaseSample_legal (die stream) (hs : legalFields s) : legalFields (releaseSample s die stream) := by
  grind [releaseSample, legalFields_frame, releaseWrites_legal, setStream_legal, noteRelease_legal, feedStreams_legal,
    releaseTell_legal]

/-! The running attempt. -/

theorem passOne_legal (x) (hs : legalFields s) : legalFields (passOne s x) := by
  grind [passOne, legalFields_frame, mirrored_legal, logAppend_legal]

theorem passOver_legal (step) (hs : legalFields s) : legalFields (passOver s step) := by
  have h1 (l : List LogRec) : legalFields (l.foldl passOne s) := foldl_legal (fun _ r => passOne_legal r) l hs
  grind [passOver, legalFields_frame, endReplay_legal, diverge_legal]

theorem rejectStep_legal (j) (hs : legalFields s) : legalFields (rejectStep s j) := by
  grind [rejectStep, legalFields_frame, jobDone_legal, raise_legal]

theorem beginStep_legal (j) (hs : legalFields s) : legalFields (beginStep s j) := by
  grind [beginStep, legalFields_update, takeHead_legal, takeKept_legal, feedStreams_legal, primeCores_legal]

theorem startStep_legal (hs : legalFields s) : legalFields (startStep s) := by
  grind [startStep, legalFields_frame, rejectHead_legal, rejectStep_legal, beginStep_legal, passOver_legal, diverge_legal]

theorem startRun_legal (c) (hs : legalFields s) : legalFields (startRun s c) := by
  grind [startRun, legalFields_frame, wrMem_legal, setCore_legal, passView_legal, reachMark_legal]

theorem programFinal_legal (c exc) (hs : legalFields s) : legalFields (programFinal s c exc) := by
  grind [programFinal, finalRecord_legal, bumpFresh_legal]

theorem finalise_legal (r) (hs : legalFields s) : legalFields (finalise s r) := by
  grind [finalise, programFinal_legal, wrMem_legal]

theorem launchJob_legal (c d job) (hs : legalFields s) : legalFields (launchJob s c d job).1 := by
  grind [launchJob, legalFields_frame, breakOrder_legal, launchCol_legal, setCore_legal]

theorem startJobs_legal (a) (hs : legalFields s) : legalFields (startJobs s a) := by
  unfold startJobs
  extract_lets r
  have hr : legalFields r.1 := foldl_fst_legal (by grind [launchJob_legal]) _ hs
  grind [setAtt_legal]

theorem startNorm_legal (a) (hs : legalFields s) : legalFields (startNorm s a) := by
  have h1 : legalFields (a.grads.foldl finalise s) := foldl_legal (fun _ r => finalise_legal r) _ hs
  unfold startNorm
  generalize a.grads.foldl finalise s = s1 at h1
  grind [programFinal_legal, setAtt_legal, endJob_legal, launchJob_legal, breakOrder_legal]

theorem stageNext_legal (hs : legalFields s) : legalFields (stageNext s) := by
  grind [stageNext, legalFields_frame, startJobs_legal, decideVerdict_legal, startNorm_legal]

theorem replicaReduce_legal (rs normSeq) (hs : legalFields s) : legalFields (replicaReduce s rs normSeq) := by
  grind [replicaReduce, legalFields_frame, setAtt_legal, stageNext_legal, tryVerdictUp_legal]

theorem foldl_programFinal_legal (l : List ExcRec) (c : State → CoreId) (hs : legalFields s) :
    legalFields (l.foldl (fun s e => programFinal s (c s) e) s) := foldl_legal (fun _ e => programFinal_legal _ e) l hs

theorem countShard_legal (es ops rs) (hs : legalFields s) : legalFields (countShard s es ops rs) := by
  induction rs generalizing s es with
  | nil =>
    unfold countShard
    split
    · exact hs
    · exact foldl_programFinal_legal _ normCore hs
  | cons r rs ih => exact ih _ (foldl_programFinal_legal _ (fun _ => r.core) hs)

theorem updateShard_legal (a o x) (hs : legalFields s) : legalFields (updateShard s a o x) :=
  countShard_legal _ _ _ (wrMem_legal _ _ (wrMem_legal _ _ hs))

theorem runUpdate_legal (a) (hs : legalFields s) : legalFields (runUpdate s a) := by
  unfold runUpdate
  split
  · exact hs
  · exact updateBallast_legal a (foldl_legal (fun _ x => updateShard_legal a _ x) _ hs)

theorem startUpdate_legal (hs : legalFields s) : legalFields (startUpdate s) := by
  grind [startUpdate, legalFields_frame, raise_legal, runUpdate_legal]

theorem completeUpdate_legal (hs : legalFields s) : legalFields (completeUpdate s) := by
  grind [completeUpdate, legalFields_frame, startTally_legal]

theorem completeRepair_legal (copies lost) (hs : legalFields s) : legalFields (completeRepair s copies lost) := by
  grind [completeRepair, legalFields_frame, stopAttempt_legal, repairWrites_legal, commitAttempt_legal, raise_legal]

theorem openEval_legal (hs : legalFields s) : legalFields (openEval s) := by
  grind [openEval, legalFields_frame, rejectHead_legal, takeHead_legal, takeKept_legal, primeCores_legal,
    endControl_legal, logAppend_legal]

theorem closeEval_legal (hs : legalFields s) : legalFields (closeEval s) := by
  grind [closeEval, legalFields_frame, rejectHead_legal, discardQueues_legal, takeHead_legal, endControl_legal,
    settleState_legal, logAppend_legal]

/-! The re-shard lock. -/

theorem setLock_legal (l) (hs : legalFields s) : legalFields (setLock s l) := legalFields_frame hs

theorem sendLock_legal (kind members) (hs : legalFields s) : legalFields (sendLock s kind members) := by
  grind [sendLock, sendJob_legal]

theorem tryDrained_legal (hs : legalFields s) : legalFields (tryDrained s) := by
  grind [tryDrained, legalFields_frame, sendLock_legal, setLock_legal]

theorem lockDrained_legal (hs : legalFields s) : legalFields (lockDrained s) := by
  grind [lockDrained, legalFields_frame, tryDrained_legal, setLock_legal]

theorem permuteOne_legal (p) (hs : legalFields s) : legalFields (permuteOne s p) := by
  grind [permuteOne, wrMem_legal, sendPutsOn_legal, startAbort_legal]

theorem permutePuts_legal (hs : legalFields s) : legalFields (permutePuts s) := by
  have h (l : List Permute) {s} (h : legalFields s) : legalFields (l.foldl permuteOne s) :=
    foldl_legal (fun _ p => permuteOne_legal p) l h
  grind [permutePuts, raise_legal, setLock_legal]

theorem writeNewTags_legal (l) (hs : legalFields s) : legalFields (writeNewTags s l) := foldl_legal (fun _ _ => wrMem_legal _ _) _ hs

theorem advanceWrite_legal (l) (hs : legalFields s) : legalFields (advanceWrite s l) := by
  grind [advanceWrite, legalFields_frame, mirrored_legal]

theorem endAdvance_legal (l) (hs : legalFields s) : legalFields (endAdvance s l) := by
  grind [endAdvance, legalFields_frame, loadImages_legal, advanceWrite_legal, raise_legal, logAppend_legal,
    sendCctlAll_legal, pumpAll_legal, endControl_legal, settleState_legal]

theorem tryPermuted_legal (hs : legalFields s) : legalFields (tryPermuted s) := by
  grind [tryPermuted, legalFields_frame, sendLock_legal, setLock_legal, endAdvance_legal]

theorem permuteComplete_legal (hs : legalFields s) : legalFields (permuteComplete s) := by
  grind [permuteComplete, legalFields_frame, tryPermuted_legal, setLock_legal, writeNewTags_legal]

theorem takeDrained_legal (m) (hs : legalFields s) : legalFields (takeDrained s m) := by
  grind [takeDrained, legalFields_frame, tryDrained_legal, setLock_legal]

theorem takeClosed_legal (m) (hs : legalFields s) : legalFields (takeClosed s m) := by
  grind [takeClosed, legalFields_frame, sendLock_legal, setLock_legal]

theorem takePermuted_legal (m) (hs : legalFields s) : legalFields (takePermuted s m) := by
  grind [takePermuted, legalFields_frame, tryPermuted_legal, setLock_legal]

theorem takeAdvance_legal (m) (hs : legalFields s) : legalFields (takeAdvance s m) := by
  grind [takeAdvance, legalFields_frame, endAdvance_legal, sendLock_legal, setLock_legal]

theorem takeAbandon_legal (m) (hs : legalFields s) : legalFields (takeAbandon s m) := by
  grind [takeAbandon, legalFields_frame, endAbandon_legal, sendCctlAll_legal]

theorem takeAbandonReq_legal (hs : legalFields s) : legalFields (takeAbandonReq s) := by
  grind [takeAbandonReq, legalFields_frame, decideAbandon_legal]

theorem takeLockMsg_legal (t) (hs : legalFields s) : legalFields (takeLockMsg s t) := by
  grind [takeLockMsg, legalFields_frame, takeDrained_legal, takeClosed_legal, takePermuted_legal, takeAdvance_legal,
    takeAbandon_legal, takeAbandonReq_legal]

theorem takeKeptLock_legal (hs : legalFields s) : legalFields (takeKeptLock s) := by
  unfold takeKeptLock
  split
  · exact hs
  · exact foldl_legal (fun _ t => takeLockMsg_legal t) _ (legalFields_frame hs)

theorem recvLock_legal (t) (hs : legalFields s) : legalFields (recvLock s t) := by
  grind [recvLock, takeLanded_legal, sendCompl_legal, epochFault_legal, keepTxn_legal, takeLockMsg_legal]

theorem recvAdvanced_legal (t) (hs : legalFields s) : legalFields (recvAdvanced s t) := by
  grind [recvAdvanced, legalFields_frame, takeLanded_legal, sendCompl_legal, epochFault_legal, pumpAll_legal]

theorem replayReshard_legal (target) (hs : legalFields s) : legalFields (replayReshard s target) := by
  grind [replayReshard, legalFields_frame, endReplay_legal, diverge_legal]

theorem startReshard_legal (hs : legalFields s) : legalFields (startReshard s) := by
  grind [startReshard, legalFields_frame, rejectHead_legal, takeHead_legal, replayReshard_legal, takeKeptLock_legal,
    setLock_legal]

/-! Tiles. -/

theorem spillElem_legal (t k m n) (hs : legalFields s) : legalFields (spillElem s t k m n).1 := by
  grind [spillElem, legalFields_frame, wrMem_legal]

theorem spillRow_legal (t e m) (hs : legalFields s) : legalFields (spillRow s t e m).1 :=
  foldl_fst_legal (fun a n => spillElem_legal a.2 _ m n) _ hs

theorem spillNext_legal (t) (hs : legalFields s) : legalFields (spillNext s t).1 := by
  grind [spillNext, legalFields_frame, spillRow_legal]

theorem spillRest_legal (n t) (hs : legalFields s) : legalFields (spillRest n s t).1 := by
  induction n generalizing s t with
  | zero => exact hs
  | succ n ih => grind [spillRest, spillNext_legal]

theorem allBlock_legal (t) (hs : legalFields s) : legalFields (allBlock s t).1 := by
  unfold allBlock
  extract_lets d b t1 r
  split
  · exact hs
  · split
    · exact foldl_fst_legal (by exact fun _ _ => spillRow_legal _ _ _) _ hs
    · exact hs

theorem allBlocks_legal (n t) (hs : legalFields s) : legalFields (allBlocks n s t).1 := by
  induction n generalizing s t with
  | zero => exact hs
  | succ n ih => exact ih _ (allBlock_legal t hs)

theorem finishBlocks_legal (t) (hs : legalFields s) : legalFields (finishBlocks s t).1 := by
  grind [finishBlocks, spillRest_legal, allBlocks_legal]

theorem finishArrays_legal (c mode) (hs : legalFields s) : legalFields (finishArrays s c mode) :=
  updCore_legal c _ (foldl_fst_legal (by grind [finishBlocks_legal]) _ hs)

theorem startTile_legal (c) (hs : legalFields s) : legalFields (startTile s c) := by
  grind [startTile, legalFields_frame, finishArrays_legal, updCore_legal, failCheck_legal, setCore_legal]

theorem writeOutputs_legal (t) (hs : legalFields s) : legalFields (writeOutputs s t).1 := by
  unfold writeOutputs
  extract_lets d o eo r s2
  have hr : legalFields r.1 := foldl_fst_legal (by exact fun _ _ => wrMem_legal _ _) _ hs
  change legalFields (ite _ _ _)
  split
  · exact foldl_legal (by exact fun _ _ => wrMem_legal _ _) _ hr
  · exact hr

theorem finishTile_legal (c t) (hs : legalFields s) : legalFields (finishTile s c t) := by
  grind [finishTile, finishBlocks_legal, writeOutputs_legal, wrMem_legal, finalRecord_legal, signalField_legal]

theorem completeTile_legal (c m) (hs : legalFields s) : legalFields (completeTile s c m) := by
  grind [completeTile, legalFields_frame, finishTile_legal, setCore_legal]

theorem spillTile_legal (c m) (hs : legalFields s) : legalFields (spillTile s c m) := by
  grind [spillTile, legalFields_frame, spillNext_legal, updCore_legal]

theorem saveDeep_legal (t) (hs : legalFields s) : legalFields (saveDeep s t) := by
  unfold saveDeep
  split
  · exact foldl_legal (fun _ _ => foldl_legal (fun _ _ => wrMem_legal _ _) _) _ hs
  · exact hs

theorem suspendTile_legal (c m blocks) (hs : legalFields s) : legalFields (suspendTile s c m blocks) := by
  unfold suspendTile
  extract_lets x
  split
  · exact hs
  · next t _ =>
    have h1 : legalFields (if t.ahead = 0 then (s, t) else spillRest t.fed.length s t).1 := by
      split
      · exact hs
      · exact spillRest_legal _ t hs
    refine updCore_legal c _ (wrMem_legal _ _ (saveDeep_legal _ ?_))
    split
    · exact allBlocks_legal _ _ h1
    · exact foldl_legal (by exact fun _ _ => foldl_legal (by exact fun _ _ => wrMem_legal _ _) _) _ (allBlocks_legal _ _ h1)

theorem suspendTiles_legal (stops) (hs : legalFields s) : legalFields (suspendTiles s stops) :=
  foldl_legal (fun _ _ => foldl_legal (fun _ m => suspendTile_legal _ m _) _) _ hs

/-! Aborts and suspension. -/

theorem nonOwnerWrite_legal (m off) (hs : legalFields s) : legalFields (nonOwnerWrite s m off) := by
  grind [nonOwnerWrite, raise_legal]

theorem writeGate_legal (m off exempt) {f : State → State} (hf : ∀ s, legalFields s → legalFields (f s)) (hs : legalFields s) :
    legalFields (writeGate s m off exempt f) := by
  grind [writeGate, nonOwnerWrite_legal]

theorem emptyUnits_legal (hs : legalFields s) : legalFields (emptyUnits s) := legalFields_frame hs

theorem finishAbort_legal (hs : legalFields s) : legalFields (finishAbort s) := by
  grind [finishAbort, legalFields_frame, closeAttempt_legal, emptyUnits_legal, raise_legal, endControl_legal,
    enterState_legal]

theorem stepStop_legal (hs : legalFields s) : legalFields (stepStop s) := by
  grind [stepStop, legalFields_frame]

theorem stepResume_legal (hs : legalFields s) : legalFields (stepResume s) := by
  grind [stepResume, legalFields_frame]

theorem sisterSealed_legal (slot) (hs : legalFields s) : legalFields (sisterSealed s slot) := by
  grind [sisterSealed, legalFields_frame, setSlot_legal]

theorem trySisterHeader_legal (hs : legalFields s) : legalFields (trySisterHeader s) := by
  grind [trySisterHeader, legalFields_frame, sendPuts_legal, sisterSealed_legal]

theorem suspendStep_legal (stops) (hs : legalFields s) : legalFields (suspendStep s stops) := by
  grind [suspendStep, legalFields_frame, suspendTiles_legal]

theorem suspendWork_legal (inSlack stops) (hs : legalFields s) : legalFields (suspendWork s inSlack stops) := by
  grind [suspendWork, suspendTiles_legal, suspendStep_legal]

theorem resumeStep_legal (hs : legalFields s) : legalFields (resumeStep s) := by
  grind [resumeStep, legalFields_frame, trySisterHeader_legal, settleState_legal, pumpAll_legal, takeKeptLock_legal,
    startAbort_legal, setAtt_legal, decideTally_legal, decideVerdict_legal, tryVerdictUp_legal]

theorem discardAttempt_legal (hs : legalFields s) : legalFields (discardAttempt s) := by
  grind [discardAttempt, legalFields_frame, emptyUnits_legal, discardIntake_legal, discardQueues_legal]

/-! Fabric ports. -/

theorem setPort_legal (p x) (hs : legalFields s) : legalFields (setPort s p x) := legalFields_frame hs

theorem updPort_legal (p f) (hs : legalFields s) : legalFields (updPort s p f) := by
  grind [updPort, setPort_legal]

theorem returnCredit_legal (a) (hs : legalFields s) : legalFields (returnCredit s a) := by
  grind [returnCredit, setPort_legal]

theorem returnFreed_legal (p) (hs : legalFields s) : legalFields (returnFreed s p) :=
  foldl_legal (fun _ h => returnCredit_legal h) _ (updPort_legal p _ hs)

theorem pumpPortAt_legal (p) (hs : legalFields s) : legalFields (pumpPortAt s p) := by
  grind [pumpPortAt, returnFreed_legal, updPort_legal]

theorem failSister_legal (slot) (hs : legalFields s) : legalFields (failSister s slot) := by
  grind [failSister, legalFields_frame, raise_legal]

theorem voidRecord_legal (why) (hs : legalFields s) : legalFields (voidRecord s why) := by
  unfold voidRecord
  split
  · exact legalFields_frame hs
  · exact hs

theorem voidCopies_legal (seqs) (hs : legalFields s) : legalFields (voidCopies s seqs) :=
  foldl_legal (fun _ _ => voidRecord_legal _) _ hs

theorem forgetTxns_legal (lost) (hs : legalFields s) : legalFields (forgetTxns s lost) := by
  have h1 (l : List SentFor) {s} (h : legalFields s) : legalFields (l.foldl voidRecord s) :=
    foldl_legal (fun _ w => voidRecord_legal w) l h
  have h2 (l : List Nat) {s} (h : legalFields s) : legalFields (l.foldl failSister s) :=
    foldl_legal (fun _ k => failSister_legal k) l h
  grind [forgetTxns, legalFields_frame]

theorem loseLink_legal (p expired) (hs : legalFields s) : legalFields (loseLink s p expired) := by
  grind [loseLink, legalFields_frame, forgetTxns_legal, returnFreed_legal, setPort_legal, startAbort_legal, raise_legal]

theorem losePort_legal (p) (hs : legalFields s) : legalFields (losePort s p) := by
  grind [losePort, loseLink_legal]

theorem portGoesDown_legal (p st) (hs : legalFields s) : legalFields (portGoesDown s p st) := by
  grind [portGoesDown, legalFields_frame, setPort_legal, raise_legal]

theorem portDown_legal (p) (hs : legalFields s) : legalFields (portDown s p) := by
  grind [portDown, legalFields_frame, portGoesDown_legal, setPort_legal]

theorem holdExpiry_legal (p) (hs : legalFields s) : legalFields (holdExpiry s p) := by
  grind [holdExpiry, legalFields_frame, loseLink_legal, setPort_legal]

theorem narrowPort_legal (p tell) (hs : legalFields s) : legalFields (narrowPort s p tell) := by
  grind [narrowPort, legalFields_frame, portGoesDown_legal, losePort_legal, setPort_legal]

theorem checkPeer_legal (p) (hs : legalFields s) : legalFields (checkPeer s p) := by
  grind [checkPeer, legalFields_frame, pumpPortAt_legal, raise_legal, setPort_legal]

theorem sendIdentity_legal (p) (hs : legalFields s) : legalFields (sendIdentity s p) := by
  grind [sendIdentity, setPort_legal]

theorem checkPeers_legal (hs : legalFields s) : legalFields (checkPeers s) :=
  foldl_legal (by grind [updPort_legal, checkPeer_legal, sendIdentity_legal]) _ hs

theorem tellSpares_legal (old new p) (hs : legalFields s) : legalFields (tellSpares old new s p) := by
  grind [tellSpares, raise_legal]

theorem portLinked_legal (p peer peerPort session badTx badRx) (hs : legalFields s) :
    legalFields (portLinked s p peer peerPort session badTx badRx) := by
  grind [portLinked, legalFields_frame, losePort_legal, bumpFresh_legal, setPort_legal, tellSpares_legal,
    sendIdentity_legal, raise_legal, checkPeer_legal]

theorem stageFails_legal (p) (hs : legalFields s) : legalFields (stageFails s p) := by
  grind [stageFails, legalFields_frame, setPort_legal, portGoesDown_legal, raise_legal]

theorem trainPort_legal (p r) (hs : legalFields s) : legalFields (trainPort s p r) := by
  cases r <;> grind [trainPort, setPort_legal, stageFails_legal, portLinked_legal]

theorem acceptData_legal (p x f) (hs : legalFields s) : legalFields (acceptData s p x f) :=
  foldl_legal (by grind [legalFields_frame, raise_legal]) _ (pumpPortAt_legal p (setPort_legal p _ hs))

theorem returnCredits_legal (o) (hs : legalFields s) : legalFields (returnCredits s o) := by
  grind [returnCredits, legalFields_frame, returnCredit_legal]

theorem receiveData_legal (p f fec) (hs : legalFields s) : legalFields (receiveData s p f fec) := by
  grind [receiveData, setPort_legal, pumpPortAt_legal, acceptData_legal]

theorem takeLaneOp_legal (p b) (hs : legalFields s) : legalFields (takeLaneOp s p b) := by
  grind [takeLaneOp, legalFields_frame, setPort_legal, narrowPort_legal]

theorem takeIdentity_legal (p b) (hs : legalFields s) : legalFields (takeIdentity s p b) := by
  grind [takeIdentity, legalFields_frame, checkPeer_legal, setPort_legal]

theorem receiveControl_legal (p f fec) (hs : legalFields s) : legalFields (receiveControl s p f fec) := by
  grind [receiveControl, setPort_legal, pumpPortAt_legal, takeIdentity_legal, takeLaneOp_legal]

theorem replayTimeout_legal (p) (hs : legalFields s) : legalFields (replayTimeout s p) := by
  grind [replayTimeout, setPort_legal]

theorem laneFail_legal (p lane rx why) (hs : legalFields s) : legalFields (laneFail s p lane rx why) := by
  grind [laneFail, legalFields_frame, setPort_legal, narrowPort_legal]

theorem swapDone_legal (p y bad) (hs : legalFields s) : legalFields (swapDone s p y bad) := by
  grind [swapDone, raise_legal, setPort_legal, narrowPort_legal]

theorem laneSwap_legal (p rx) (hs : legalFields s) : legalFields (laneSwap s p rx) := by
  grind [laneSwap, legalFields_frame, swapDone_legal]

theorem retrainPort_legal (p) (hs : legalFields s) : legalFields (retrainPort s p) := by
  grind [retrainPort, legalFields_frame, setPort_legal]

theorem disablePort_legal (p) (hs : legalFields s) : legalFields (disablePort s p) := by
  grind [disablePort, legalFields_frame, setPort_legal, portGoesDown_legal]

theorem enablePort_legal (p) (hs : legalFields s) : legalFields (enablePort s p) := by
  grind [enablePort, legalFields_frame, setPort_legal]

theorem portCommand_legal (m) {f : State → Nat → State} (hf : ∀ p, legalFields (f s p)) (hs : legalFields s) :
    legalFields (portCommand s m f) := by
  grind [portCommand]

theorem enqueueTxn_legal (p v t arr) (hs : legalFields s) : legalFields (enqueueTxn s p v t arr) := by
  grind [enqueueTxn, legalFields_frame, pumpPortAt_legal, setPort_legal]

theorem discardTxn_legal (p t) (hs : legalFields s) : legalFields (discardTxn s p t) := by
  grind [discardTxn, legalFields_frame, updPort_legal, forgetTxns_legal, startAbort_legal, raise_legal]

theorem landTxn_legal (t) (hs : legalFields s) : legalFields (landTxn s t) := by
  grind [landTxn, legalFields_frame, bondProgram_legal]

theorem refuseAliased_legal (t) (hs : legalFields s) : legalFields (refuseAliased s t) := by
  grind [refuseAliased, raise_legal, sendAnswer_legal, sendCompl_legal]

theorem routeTxn_legal (hs : legalFields s) : legalFields (routeTxn s) := by
  grind [routeTxn, legalFields_update, returnCredits_legal, refuseAliased_legal, landTxn_legal, discardTxn_legal,
    raise_legal, enqueueTxn_legal]

theorem commitAlias_legal (i hi) (hs : legalFields s) : legalFields (commitAlias s i hi) := by
  grind [commitAlias, legalFields_frame, raise_legal]

/-! Fabric transactions. -/

theorem sisterHeader_legal (i h) (hs : legalFields s) : legalFields (sisterHeader s i h).1 := by
  grind [sisterHeader, legalFields_frame, setSlot_legal, bondProgram_legal, raise_legal]

theorem sisterBody_legal (i off b) (hs : legalFields s) : legalFields (sisterBody s i off b) := by
  grind [sisterBody, legalFields_frame, setSlot_legal, bondProgram_legal]

theorem appendSis_legal (pos b) (hs : legalFields s) : legalFields (appendSis s pos b).1 := by
  grind [appendSis, legalFields_frame, bondProgram_legal]

theorem drainSis_legal (n) (hs : legalFields s) : legalFields (drainSis n s).1 := by
  induction n generalizing s with
  | zero => exact hs
  | succ n ih => grind [drainSis, legalFields_frame, appendSis_legal, raise_legal]

theorem sisterLogPart_legal (off t) (hs : legalFields s) : legalFields (sisterLogPart s off t).1 := by
  unfold sisterLogPart
  split
  · exact hs
  · exact drainSis_legal _ (legalFields_frame hs)

theorem holdPut_legal (t a) (hs : legalFields s) : legalFields (holdPut s t a).1 := by
  grind [holdPut, raise_legal, sisterHeader_legal, sisterBody_legal]

theorem putData_legal (t a) (hs : legalFields s) : legalFields (putData s t a).1 := by
  grind [putData, legalFields_frame, raise_legal, holdPut_legal, wrMem_legal, setLock_legal]

theorem endPut_legal (t st) (hs : legalFields s) : legalFields (endPut s t st) := by
  grind [endPut, sendCompl_legal, signalRemote_legal]

theorem recvPut_legal (t) (hs : legalFields s) : legalFields (recvPut s t) := by
  have h (l : List (Txn × Nat)) {s} (h : legalFields s) : legalFields (l.foldl (fun s d => endPut s d.1 d.2) s) :=
    foldl_legal (fun _ d => endPut_legal d.1 d.2) l h
  grind [recvPut, takeLanded_legal, epochFault_legal, sendCompl_legal, sisterLogPart_legal, putData_legal, endPut_legal]

theorem recvGetReq_legal (t) (hs : legalFields s) : legalFields (recvGetReq s t) := by
  grind [recvGetReq, takeLanded_legal, sendAnswer_legal, epochFault_legal, raise_legal]

theorem dropOutstanding_legal (tag) (hs : legalFields s) : legalFields (dropOutstanding s tag) := legalFields_frame hs

theorem remoteReject_legal (t st) (hs : legalFields s) : legalFields (remoteReject s t st) := by
  grind [remoteReject, startAbort_legal, raise_legal]

theorem landGetRsp_legal (t) (hs : legalFields s) : legalFields (landGetRsp s t) := by
  grind [landGetRsp, raise_legal, stateWriteRejected_legal, wrMem_legal]

theorem takeStandin_legal (i st b) (hs : legalFields s) : legalFields (takeStandin s i st b) := by
  grind [takeStandin, legalFields_frame]

theorem recvGetRsp_legal (t) (hs : legalFields s) : legalFields (recvGetRsp s t) := by
  grind [recvGetRsp, legalFields_frame, takeLanded_legal, landGetRsp_legal, dropOutstanding_legal, epochFault_legal,
    remoteReject_legal, takeStandin_legal]

theorem ackRecord_legal (seq) (hs : legalFields s) : legalFields (ackRecord s seq) := by
  grind [ackRecord, legalFields_frame]

theorem answerFor_legal (why st) (hs : legalFields s) : legalFields (answerFor s why st) := by
  cases why <;> grind [answerFor, trySisterHeader_legal, sisterSealed_legal, failSister_legal, ackRecord_legal, voidRecord_legal,
    pumpCore_legal]

theorem recvCompl_legal (t) (hs : legalFields s) : legalFields (recvCompl s t) := by
  grind [recvCompl, legalFields_frame, takeLanded_legal, dropOutstanding_legal, remoteReject_legal, answerFor_legal]

/-! Seals and NOR. -/

theorem wrNor1_legal (a b) (hs : legalFields s) : legalFields (wrNor1 s a b) := legalFields_frame hs

theorem wrNor0_legal (a b) (hs : legalFields s) : legalFields (wrNor0 s a b) := legalFields_frame hs

theorem wrNor_legal (a b) (hs : legalFields s) : legalFields (wrNor s a b) := by
  grind [wrNor, wrNor0_legal, wrNor1_legal]

theorem writeBootCtl_legal (r) (hs : legalFields s) : legalFields (writeBootCtl s r) := by
  grind [writeBootCtl, wrNor_legal]

theorem bumpSeal_legal (hs : legalFields s) : legalFields (bumpSeal s) := by
  grind [bumpSeal, legalFields_frame, wrNor_legal]

theorem sealBody_legal {clear body} (hs : legalFields s) {u : State × Bytes} (e : sealBody s clear body = some u) :
    legalFields u.1 := by
  obtain ⟨_, _, rfl⟩ := Option.map_eq_some_iff.1 e
  exact bumpSeal_legal hs

/-! The inspection. -/

theorem writeLedger_legal (b) (hs : legalFields s) : legalFields (writeLedger s b) := by
  grind [writeLedger, legalFields_frame, wrNor_legal]

theorem writeLedgerUpTo_legal (b n) (hs : legalFields s) : legalFields (writeLedgerUpTo s b n) := by
  grind [writeLedgerUpTo, legalFields_frame, wrNor0_legal, wrNor1_legal]

theorem listLanes_legal (es) (hs : legalFields s) : legalFields (listLanes s es) := foldl_legal (fun _ _ => legalFields_frame) _ hs

theorem inspect_legal (f lanes) (hs : legalFields s) : legalFields (inspect s f lanes).1 := by
  grind [inspect, legalFields_frame, raise_legal, writeLedger_legal, listLanes_legal]

theorem finishInspection_legal (hs : legalFields s) : legalFields (finishInspection s) := by
  unfold finishInspection
  split
  · exact hs
  · next x _ =>
    extract_lets prev s2 s3 none_ ok _ s4 s5 s6
    have h2 : legalFields s2 := by grind [writeLedger_legal]
    have h3 : legalFields s3 := foldl_legal (by exact fun _ _ => raise_legal _ _ _) _ h2
    have h4 : legalFields s4 := legalFields_frame h3
    clear_value s4
    grind [raise_legal]

theorem interruptInspection_legal (hs : legalFields s) : legalFields (interruptInspection s) := by
  grind [interruptInspection, legalFields_frame, bumpFresh_legal, writeLedgerUpTo_legal]

theorem requestFull_legal (want) (hs : legalFields s) : legalFields (requestFull s want) := legalFields_frame hs

/-! Reset and boot. -/

theorem measureBoot_legal (d) (hs : legalFields s) : legalFields (measureBoot s d) := legalFields_frame hs

theorem measureConf_legal (d) (hs : legalFields s) : legalFields (measureConf s d) := legalFields_frame hs

theorem measureConfOf_legal (b) (hs : legalFields s) : legalFields (measureConfOf s b) := by
  cases b with
  | some => exact measureConf_legal _ hs
  | none => exact bumpFresh_legal (measureConf_legal _ hs)

theorem readBoard_legal (hs : legalFields s) : legalFields (readBoard s) := by
  unfold readBoard
  split
  · exact legalFields_update rfl rfl hs
  · exact raise_legal _ _ _ (legalFields_update rfl rfl hs)

/-- A reset makes the fields legal, whatever they were: each takes its reset value (R15, R458). -/
theorem clearedDevice_legal (s) : legalFields (clearedDevice s) := by
  simp [legalFields, clearedDevice, State.reset, Own.init, Pwr.init]

theorem clearDevice_legal (s) : legalFields (clearDevice s) := clearedDevice_legal _

theorem powerUp_legal (f) (hs : legalFields s) : legalFields (powerUp s f) := readBoard_legal (legalFields_update rfl rfl hs)

theorem deviceReset_legal (s kind f) : legalFields (deviceReset s kind f) :=
  powerUp_legal f (legalFields_update rfl rfl (clearDevice_legal s))

theorem writeOwner_legal (b) (hs : legalFields s) : legalFields (writeOwner s b) := by
  grind [writeOwner, legalFields_frame, wrNor_legal]

theorem chooseOwner_legal (metaOk) (hs : legalFields s) : legalFields (chooseOwner s metaOk).1 := by
  unfold chooseOwner
  split
  · next b _ =>
    have h1 := writeOwner_legal b hs
    grind [legalFields_frame]
  · exact hs

theorem failBoot_legal (hs : legalFields s) : legalFields (failBoot s) := legalFields_frame hs

theorem recoverHold_legal (f) (hs : legalFields s) : legalFields (recoverHold s f) := by
  unfold recoverHold
  extract_lets slots log sis bal first lostSlots lostRecs lostRows _ h _ s1
  have h1 : legalFields s1 := legalFields_update rfl rfl hs
  split
  · split
    · exact h1
    · exact raise_legal _ _ _ h1
  · exact legalFields_frame hs

theorem readSeal_legal (metaOk) (hs : legalFields s) : legalFields (readSeal s metaOk) := legalFields_frame hs

theorem runPackage_legal (p b) (hs : legalFields s) : legalFields (runPackage s p b) := legalFields_frame hs

theorem identify_legal (owner) (hs : legalFields s) : legalFields (identify s owner) := by
  grind [identify, legalFields_frame, raise_legal, measureConfOf_legal]

theorem bootStages_legal (f) (hs : legalFields s) : legalFields (bootStages s f) := by
  grind [bootStages, legalFields_frame, measureBoot_legal, failBoot_legal, writeBootCtl_legal, chooseOwner_legal,
    runPackage_legal, raise_legal, recoverHold_legal, readSeal_legal, identify_legal, inspect_legal, bumpFresh_legal,
    measureConf_legal]

theorem settleTrial_legal (hs : legalFields s) : legalFields (settleTrial s) := by
  grind [settleTrial, legalFields_frame, raise_legal, writeBootCtl_legal]

theorem inspected_legal (hs : legalFields s) : legalFields (inspected s) := by
  grind [inspected, finishInspection_legal, settleIslands_legal]

theorem bootReady_legal (hs : legalFields s) : legalFields (bootReady s) := by
  have h0 : legalFields (inspected s) := inspected_legal hs
  unfold bootReady
  generalize inspected s = s0 at h0
  split
  · exact hs
  · extract_lets s0
    split
    · exact h0
    · exact raise_legal _ _ _ (settleTrial_legal (legalFields_update rfl rfl h0))

theorem romWatchdog_legal (f) (hs : legalFields s) : legalFields (romWatchdog s f) := by
  grind [romWatchdog, deviceReset_legal]

theorem hmWatchdog_legal (f) (hs : legalFields s) : legalFields (hmWatchdog s f) := by
  grind [hmWatchdog, deviceReset_legal]

theorem rejectFw_legal (r) (hs : legalFields s) : legalFields (rejectFw s r) := by
  grind [rejectFw, legalFields_frame, raise_legal]

theorem setStage_legal (x) (hs : legalFields s) : legalFields (setStage s x) := legalFields_frame hs

theorem stageFirmware_legal (hs : legalFields s) : legalFields (stageFirmware s) := by
  grind [stageFirmware, rejectFw_legal, setStage_legal]

theorem checkStaged_legal (x) (hs : legalFields s) : legalFields (checkStaged s x) := by
  grind [checkStaged, legalFields_frame, rejectFw_legal, setStage_legal]

theorem writeStaged_legal (x) (hs : legalFields s) : legalFields (writeStaged s x) := by
  grind [writeStaged, legalFields_frame, bumpFresh_legal, wrNor0_legal, wrNor1_legal, rejectFw_legal, setStage_legal]

theorem endStaged_legal (x) (hs : legalFields s) : legalFields (endStaged s x) := by
  grind [endStaged, legalFields_frame, raise_legal, writeBootCtl_legal, setStage_legal]

theorem fwStep_legal (hs : legalFields s) : legalFields (fwStep s) := by
  grind [fwStep, legalFields_frame, checkStaged_legal, writeStaged_legal, endStaged_legal]

theorem clearTrial_legal (hs : legalFields s) : legalFields (clearTrial s) := by
  grind [clearTrial, legalFields_frame, writeBootCtl_legal]

/-! The Hold. -/

theorem setDrain_legal (d) (hs : legalFields s) : legalFields (setDrain s d) := legalFields_frame hs

theorem drainPiece_legal (hs : legalFields s) : legalFields (drainPiece s) := by
  grind [drainPiece, legalFields_frame, setSlot_legal, bondProgram_legal, sendPuts_legal, setDrain_legal]

theorem localSeal_legal (hs : legalFields s) : legalFields (localSeal s) := by
  grind [localSeal, legalFields_frame, setSlot_legal, bondProgram_legal, trySisterHeader_legal, setDrain_legal]

theorem releaseSnap_legal (hs : legalFields s) : legalFields (releaseSnap s) := by
  grind [releaseSnap, legalFields_frame, logAppend_legal, nextDrain_legal, raise_legal]

theorem resendLog_legal (hs : legalFields s) : legalFields (resendLog s) :=
  foldl_legal (fun _ r => sendLogCopy_legal r) _ (voidCopies_legal _ hs)

theorem programFailed_legal (k) (hs : legalFields s) : legalFields (programFailed s k) := by
  grind [programFailed, legalFields_frame, raise_legal]

theorem holdReadFailed_legal (w) (hs : legalFields s) : legalFields (holdReadFailed s w) := by
  have h1 : legalFields (raise s 0x7104 srcDevice []) := raise_legal _ _ _ hs
  cases w with
  | slot i => exact queueLocation_legal _ _ _ (setSlot_legal _ _ h1)
  | sisterRecord seq => exact queueLocation_legal _ _ _ (legalFields_frame h1)
  | ballast row ver => exact dataLoss_legal _ _ (queueLocation_legal _ _ _ (legalFields_frame h1))
  | logRecord seq =>
    grind [holdReadFailed, legalFields_frame, setSlot_legal, loseReplay_legal, queueLocation_legal, endReplay_legal]

theorem abandonDrain_legal (hs : legalFields s) : legalFields (abandonDrain s) := by
  grind [abandonDrain, legalFields_frame, setSlot_legal]

theorem startHold_legal (hs : legalFields s) : legalFields (startHold s) := by
  grind [startHold, legalFields_frame, jobDone_legal, raise_legal, takeHead_legal, endReplay_legal, abandonDrain_legal]

theorem endCmd_legal (c code) (hs : legalFields s) : legalFields (endCmd s c code) := by
  grind [endCmd, legalFields_frame, endControl_legal]

theorem endExport_legal (c fail) (hs : legalFields s) : legalFields (endExport s c fail) := by
  grind [endExport, endCmd_legal, raise_legal]

theorem failHostCmd_legal (c) (hs : legalFields s) : legalFields (failHostCmd s c) := by
  grind [failHostCmd, endExport_legal, raiseDma_legal]

theorem snapInvalid_legal (hs : legalFields s) : legalFields (snapInvalid s) := by
  grind [snapInvalid, raise_legal]

theorem writeBanks_legal (body) (hs : legalFields s) : legalFields (writeBanks s body) := by
  grind [writeBanks, legalFields_frame, wrMem_legal]

theorem spoilBanks_legal (hs : legalFields s) : legalFields (spoilBanks s) := by
  grind [spoilBanks, legalFields_frame, bumpFresh_legal, writeBanks_legal]

theorem restoreControl_legal (h) (hs : legalFields s) : legalFields (restoreControl s h) := by
  grind [restoreControl, legalFields_frame, mirrored_legal, loadImages_legal]

theorem restoreBallast_legal (step) (hs : legalFields s) : legalFields (restoreBallast s step) := legalFields_frame hs

theorem feedTrace_legal (step) (hs : legalFields s) : legalFields (feedTrace s step) := legalFields_frame hs

theorem restoreEnd_legal (c h source recs) (hs : legalFields s) : legalFields (restoreEnd s c h source recs) := by
  grind [restoreEnd, legalFields_update, logAppend_legal, feedTrace_legal, endCmd_legal, raise_legal]

theorem restoreImage_legal (c h body ok source recs) (hs : legalFields s) :
    legalFields (restoreImage s c h body ok source recs) := by
  grind [restoreImage, legalFields_frame, endCmd_legal, snapInvalid_legal, spoilBanks_legal, restoreEnd_legal,
    restoreBallast_legal, restoreControl_legal, writeBanks_legal]

theorem runRestore_legal (hs : legalFields s) : legalFields (runRestore s) := by
  grind [runRestore, legalFields_frame, restoreImage_legal]

theorem sendFetch_legal (f) (hs : legalFields s) : legalFields (sendFetch s f) := foldl_legal (by grind [sendTxn_legal]) _ hs

theorem emptySlots_legal (hs : legalFields s) : legalFields (emptySlots s) := legalFields_frame hs

theorem finishStandin_legal (c f h rows) (hs : legalFields s) : legalFields (finishStandin s c f h rows) := by
  have ha (l : List BallastRow) {s} (h : legalFields s) : legalFields (l.foldl addVersion s) :=
    foldl_legal (fun _ v => addVersion_legal v) l h
  grind [finishStandin, legalFields_frame, restoreImage_legal, emptySlots_legal]

theorem failStandin_legal (c) (hs : legalFields s) : legalFields (failStandin s c) := by
  grind [failStandin, legalFields_frame, endCmd_legal, snapInvalid_legal]

theorem runStandin_legal (rows) (hs : legalFields s) : legalFields (runStandin s rows) := by
  grind [runStandin, legalFields_frame, failStandin_legal, sendFetch_legal, finishStandin_legal]

theorem writeOut_legal (j b) (hs : legalFields s) : legalFields (writeOut s j b) := by
  grind [writeOut, wrHost_legal, wrMem_legal]

theorem finishOut_legal (c b) (hs : legalFields s) : legalFields (finishOut s c b) := by
  grind [finishOut, failHostCmd_legal, endExport_legal, bumpFresh_legal, writeOut_legal]

theorem runExport_legal (hs : legalFields s) : legalFields (runExport s) := by
  grind [runExport, legalFields_frame, finishOut_legal]

theorem runSealOut_legal (hs : legalFields s) : legalFields (runSealOut s) := by
  have h {clear body u} := sealBody_legal (clear := clear) (body := body) (u := u) hs
  grind [runSealOut, finishOut_legal, endExport_legal]

theorem runCapture_legal (hs : legalFields s) : legalFields (runCapture s) := by
  unfold runCapture
  split
  · exact hs
  · extract_lets x last recs lo covers part3 part4
    split
    · exact endExport_legal _ _ hs
    · next e1 =>
      have h1 := sealBody_legal hs e1
      extract_lets part2 ch
      split
      · exact endExport_legal _ _ h1
      · next e2 => exact finishOut_legal _ _ (sealBody_legal h1 e2)

theorem writeImage_legal (slot h body cover) (hs : legalFields s) : legalFields (writeImage s slot h body cover) := by
  grind [writeImage, setSlot_legal, bondProgram_legal]

theorem takeCapture_legal (slot x) (hs : legalFields s) : legalFields (takeCapture s slot x) := by
  grind [takeCapture, legalFields_frame, writeImage_legal, setSlot_legal, voidCopies_legal]

theorem runSealIn_legal (hs : legalFields s) : legalFields (runSealIn s) := by
  grind [runSealIn, legalFields_frame, failHostCmd_legal, endExport_legal, takeCapture_legal, snapInvalid_legal,
    writeImage_legal]

theorem runBalLoad_legal (hs : legalFields s) : legalFields (runBalLoad s) := by
  unfold runBalLoad
  split
  · exact hs
  · exact endExport_legal _ _ (foldl_legal (by exact fun _ _ => addVersion_legal _) _ hs)

theorem traceOn_legal (hs : legalFields s) : legalFields (traceOn s) := by
  grind [traceOn, legalFields_frame]

theorem traceOff_legal (hs : legalFields s) : legalFields (traceOff s) := by
  grind [traceOff, legalFields_frame]

theorem cancelCmd_legal (hs : legalFields s) : legalFields (cancelCmd s) := by
  grind [cancelCmd, legalFields_frame]

/-! Ownership. -/

theorem moveOwn_legal (st owner cause) (hs : legalFields s) : legalFields (moveOwn s st owner cause) := by
  grind [moveOwn, legalFields_update, raise_legal]

theorem lapseOwn_legal (cause) (hs : legalFields s) : legalFields (lapseOwn s cause) := by
  grind [lapseOwn, moveOwn_legal, raise_legal]

theorem ownCommand_legal (m gen) {f : State → State} (hf : legalFields (f s)) (hs : legalFields s) :
    legalFields (ownCommand s m gen f) := by
  grind [ownCommand]

theorem claimOwn_legal (m) (hs : legalFields s) : legalFields (claimOwn s m) := by
  grind [claimOwn, moveOwn_legal]

theorem releaseOwn_legal (m) (hs : legalFields s) : legalFields (releaseOwn s m) := by
  grind [releaseOwn, moveOwn_legal]

theorem offerOwn_legal (m target) (hs : legalFields s) : legalFields (offerOwn s m target) := by
  grind [offerOwn, legalFields_update, moveOwn_legal]

theorem acceptOwn_legal (m) (hs : legalFields s) : legalFields (acceptOwn s m) := by
  grind [acceptOwn, moveOwn_legal]

theorem withdrawOwn_legal (m) (hs : legalFields s) : legalFields (withdrawOwn s m) := by
  grind [withdrawOwn, moveOwn_legal]

theorem ownRequest_legal (m cmd target) (hs : legalFields s) : legalFields (ownRequest s m cmd target) := by
  unfold ownRequest
  split
  · exact claimOwn_legal m hs
  · exact releaseOwn_legal m hs
  · exact offerOwn_legal m target hs
  · exact acceptOwn_legal m hs
  · exact withdrawOwn_legal m hs
  · exact hs

theorem writeOwnReq_legal (m v) (hs : legalFields s) : legalFields (writeOwnReq s m v) :=
  ownCommand_legal _ _ (ownRequest_legal _ _ _ hs) hs

theorem offerTimeout_legal (hs : legalFields s) : legalFields (offerTimeout s) := by
  grind [offerTimeout, moveOwn_legal]

theorem ownershipLapse_legal (hs : legalFields s) : legalFields (ownershipLapse s) := by
  grind [ownershipLapse, legalFields_frame, lapseOwn_legal]

theorem reclaim_legal (port b) (hs : legalFields s) : legalFields (reclaim s port b).1 := by
  grind [reclaim, legalFields_frame, raise_legal, moveOwn_legal]

/-! Queues. -/

theorem getMaster_legal (m : Nat) (hs : legalFields s) : legalMaster (getMaster s m) = true := by
  obtain ⟨hm, _⟩ := hs
  exact smGet_of_forall (P := fun x => legalMaster x = true) (by decide) hm m

theorem setMaster_legal {m x} (hx : legalMaster x = true) (hs : legalFields s) : legalFields (setMaster s m x) := by
  obtain ⟨hm, h⟩ := hs
  refine ⟨fun p hp => ?_, h⟩
  rcases mem_smSet hp with rfl | hp
  · exact hx
  · exact hm p hp

theorem queueError_legal (q code) (hs : legalFields s) : legalFields (queueError s q code) := by
  grind [queueError, setQueue_keep_legal, raiseEvent_legal]

theorem linkQueueErrors_legal (link) (hs : legalFields s) : legalFields (linkQueueErrors s link) :=
  foldl_legal (fun _ q => queueError_legal q 4) _ hs

/-- R15: a reserved size leaves SIZE_LOG2. -/
theorem writeCfg_legal {x : Queue} (v) (hx : legalQueue x) : legalQueue (writeCfg x v) := by
  grind [writeCfg, legalQueue, sizeOk]

theorem enableQueue_legal (q v) (hs : legalFields s) : legalFields (enableQueue s q v) := by
  have hy := writeCfg_legal v (getQueue_legal q hs)
  unfold enableQueue
  extract_lets x y
  split
  · exact setQueue_keep_legal rfl rfl hs
  · split
    · exact raise_legal _ _ _ (setQueue_legal hy hs)
    · exact setQueue_legal hy hs

theorem dropWaiting_legal (q) (hs : legalFields s) : legalFields (dropWaiting s q) :=
  foldl_legal (fun _ j => jobDone_legal j 2 0) _ (legalFields_frame hs)

theorem cancelPending_legal (l vec) (hs : legalFields s) : legalFields (cancelPending s l vec) := by
  grind [cancelPending, legalFields_frame, setFn_legal]

theorem disableQueue_legal (q v) (hs : legalFields s) : legalFields (disableQueue s q v) := by
  unfold disableQueue
  extract_lets x s1
  have h1 : legalFields s1 := setQueue_keep_legal rfl rfl hs
  split
  · exact setQueue_legal (writeCfg_legal v (getQueue_legal q hs)) hs
  · split
    · exact cancelPending_legal _ _ h1
    · exact dropWaiting_legal q h1

theorem configQueue_legal (q v) (hs : legalFields s) : legalFields (configQueue s q v) := by
  grind [configQueue, enableQueue_legal, disableQueue_legal]

theorem ringDoorbell_legal (m q v) (hs : legalFields s) : legalFields (ringDoorbell s m q v) := by
  grind [ringDoorbell, queueError_legal, setQueue_keep_legal]

theorem doorbell_legal (m q v) (hs : legalFields s) : legalFields (doorbell s m q v) := by
  unfold doorbell
  split
  · exact hs
  · exact writeGate_legal _ _ _ (fun _ => ringDoorbell_legal m q v) hs

theorem acceptEntry_legal (j) (hs : legalFields s) : legalFields (acceptEntry s j) := by
  grind [acceptEntry, legalFields_frame, jobDone_legal, raiseJobInvalid_legal]

theorem fetchJob_legal (hs : legalFields s) : legalFields (fetchJob s) := by
  unfold fetchJob
  split
  · exact hs
  · split
    · exact hs
    · next q _ =>
      extract_lets x _ s0
      have h0 : legalFields s0 := legalFields_frame hs
      split
      · exact queueError_legal _ _ (raiseEvent_legal _ h0)
      · exact acceptEntry_legal _ (setQueue_keep_legal (s := s0) (q := q) rfl rfl h0)

theorem runNop_legal (hs : legalFields s) : legalFields (runNop s) := by
  grind [runNop, legalFields_frame, endFree_legal, rejectFree_legal]

theorem runFence_legal (hs : legalFields s) : legalFields (runFence s) := by
  grind [runFence, legalFields_frame, endFree_legal, rejectFree_legal]

theorem runManifest_legal (hs : legalFields s) : legalFields (runManifest s) := by
  grind [runManifest, legalFields_frame, rejectFree_legal, setStream_legal]

theorem runDeal_legal (hs : legalFields s) : legalFields (runDeal s) := by
  grind [runDeal, legalFields_frame, rejectFree_legal, endFree_legal, raise_legal, wrUnit_legal]

/-! Links. -/

theorem hostConfigures_legal (l) (hs : legalFields s) : legalFields (hostConfigures s l) := by
  grind [hostConfigures, legalFields_frame, bumpFresh_legal, setFn_legal]

theorem configureFns_legal (hs : legalFields s) : legalFields (configureFns s) := by
  grind [configureFns, hostConfigures_legal]

theorem linkUp_legal (l speed width flit) (hs : legalFields s) : legalFields (linkUp s l speed width flit) := by
  grind [linkUp, legalFields_frame, setFn_legal, raise_legal, moveOwn_legal]

theorem endTransfers_legal (hs : legalFields s) : legalFields (endTransfers s) := by
  unfold endTransfers
  refine foldl_legal (by grind [endDecode_legal, raiseSampleDma_legal]) _ ?_
  split
  · next c _ =>
    split
    · exact failHostCmd_legal c hs
    · exact hs
  · exact hs

theorem resetFn_legal (l) (hs : legalFields s) : legalFields (resetFn s l) := by
  grind [resetFn, legalFields_frame, setFn_legal, linkQueueErrors_legal]

theorem linkDown_legal (l) (hs : legalFields s) : legalFields (linkDown s l) := by
  grind [linkDown, legalFields_frame, setFn_legal, raise_legal, resetFn_legal, endTransfers_legal, moveOwn_legal]

theorem functionReset_legal (l) (hs : legalFields s) : legalFields (functionReset s l) := by
  grind [functionReset, resetFn_legal, lapseOwn_legal]

theorem perstInput_legal (l asserted) (hs : legalFields s) : legalFields (perstInput s l asserted) := by
  grind [perstInput, legalFields_frame, linkDown_legal, resetFn_legal, setFn_legal]

theorem dmaError_legal (t addr) (hs : legalFields s) : legalFields (dmaError s t addr) := by
  cases t with
  | jobFetch q => grind [dmaError, queueError_legal, raiseDma_legal]
  | eventWrite q => grind [dmaError, setQueue_keep_legal, deliverRounds_legal]
  | sample die k e => grind [dmaError, endDecode_legal, raiseDma_legal]
  | hold => grind [dmaError, endExport_legal, raiseDma_legal]

theorem putBar2_legal (b) (hs : legalFields s) : legalFields (putBar2 s b) := legalFields_frame hs

theorem waitHost_legal (w) (hs : legalFields s) : legalFields (waitHost s w) := legalFields_frame hs

theorem bar2Read_legal (fn off n) (hs : legalFields s) : legalFields (bar2Read s fn off n) := by
  grind [bar2Read, putBar2_legal, raise_legal, waitHost_legal]

theorem hostWrite_legal (fn a b) (hs : legalFields s) : legalFields (hostWrite s fn a b) := by
  grind [hostWrite, raise_legal, waitHost_legal, wrMem_legal]

theorem drainHost_legal (ws) (hs : legalFields s) : legalFields (drainHost ws s) := by
  induction ws generalizing s with
  | nil => exact hs
  | cons w ws ih => grind [drainHost, legalFields_frame, wrMem_legal, putBar2_legal]

theorem retryHost_legal (hs : legalFields s) : legalFields (retryHost s) := drainHost_legal _ (legalFields_frame hs)

theorem bar2Write_legal (fn off b) (hs : legalFields s) : legalFields (bar2Write s fn off b) := by
  grind [bar2Write, nonOwnerWrite_legal, hostWrite_legal]

/-! Arbiters. -/

theorem setArb_legal (a x) (hs : legalFields s) : legalFields (setArb s a x) := legalFields_frame hs

/-! Plans. -/

theorem rejectPlan_legal (reason section_) (hs : legalFields s) : legalFields (rejectPlan s reason section_) := by
  grind [rejectPlan, legalFields_frame, raise_legal]

theorem checkProfiles_legal (p) (hs : legalFields s) : legalFields (checkProfiles s p).1 :=
  foldl_legal (by exact fun _ _ => foldl_legal (by grind [raise_legal]) _) _ hs

theorem loadPlan_legal (hs : legalFields s) : legalFields (loadPlan s) := by
  grind [loadPlan, legalFields_frame, rejectPlan_legal]

theorem failLoad_legal (reason section_) (hs : legalFields s) : legalFields (failLoad s reason section_) := by
  grind [failLoad, legalFields_frame, answerLoads_legal, rejectPlan_legal]

/-- What the object's checks compute is generalised (and kept so by `id`) before the body is reduced: the kernel, asked whether the
function and its body agree, would evaluate the checks. -/
theorem checkObject_legal (j) (hs : legalFields s) : legalFields (checkObject s j) := by
  have h (f) (hf : checkObject = f) : legalFields (f s j) := by
    delta checkObject at hf
    subst hf
    beta_reduce
    generalize planBytes = size
    generalize objectRefusal = refusal
    revert size refusal
    refine id fun size refusal => ?_
    extract_lets head b
    split
    · exact failLoad_legal _ _ hs
    · exact legalFields_frame hs
  exact h _ rfl

theorem validatePlan_legal (j) (hs : legalFields s) : legalFields (validatePlan s j) := by
  grind [validatePlan, legalFields_frame, failLoad_legal, raise_legal, checkProfiles_legal]

theorem loadStep_legal (hs : legalFields s) : legalFields (loadStep s) := by
  grind [loadStep, legalFields_frame, checkObject_legal, validatePlan_legal]

theorem freshLog_legal (hs : legalFields s) : legalFields (freshLog s) :=
  foldl_legal (by grind [setSlot_legal]) _ (legalFields_frame (voidCopies_legal _ hs))

theorem startCores_legal (hs : legalFields s) : legalFields (startCores s) :=
  loadImages_legal (foldl_legal (by exact fun _ _ => setCoreAt_legal _ _) _ (legalFields_frame (zeroMem_legal _ _ hs)))

theorem applyPlan_legal (p home) (hs : legalFields s) : legalFields (applyPlan s p home) := by
  grind [applyPlan, legalFields_frame, mirrored_legal, startCores_legal, freshLog_legal, checkPeers_legal,
    settleIslands_legal, logAppend_legal, answerLoads_legal, raise_legal]

theorem planApply_legal (hs : legalFields s) : legalFields (planApply s) := by
  grind [planApply, legalFields_frame, applyPlan_legal]

/-! The reference. -/

theorem updIsland_legal (i f) (hs : legalFields s) : legalFields (updIsland s i f) := by
  grind [updIsland, setIsland_legal]

theorem eachIsland_legal (f) (hs : legalFields s) : legalFields (eachIsland s f) := foldl_legal (fun _ i => updIsland_legal i f) _ hs

theorem forceFallback_legal (hs : legalFields s) : legalFields (forceFallback s) := by
  grind [forceFallback, legalFields_frame, eachIsland_legal]

theorem trainPorts_legal (s0) (hs : legalFields s) : legalFields (trainPorts s0 s) := foldl_legal (by grind [setPort_legal]) _ hs

theorem foldl_askMode_legal (l : List IslandId) (m : BitVec 2) (hs : legalFields s) :
    legalFields (l.foldl (fun s i => askMode s i m) s) := foldl_legal (fun _ i => askMode_legal i m) l hs

theorem refFailure_legal (cause count stops) (hs : legalFields s) : legalFields (refFailure s cause count stops) := by
  refine foldl_legal (fun _ l => linkDown_legal l) _ (foldl_legal (fun _ p => portDown_legal p) _ ?_)
  exact forceFallback_legal (foldl_askMode_legal _ _ (suspendWork_legal _ _ (raise_legal _ _ _ (legalFields_frame hs))))

theorem seekReference_legal (count) (hs : legalFields s) : legalFields (seekReference s count) := by
  grind [seekReference, legalFields_frame]

theorem endHoldover_legal (die) (hs : legalFields s) : legalFields (endHoldover s die) := legalFields_frame hs

theorem monitorWindow_legal (die count stops) (hs : legalFields s) : legalFields (monitorWindow s die count stops) := by
  grind [monitorWindow, legalFields_frame, seekReference_legal, refFailure_legal, endHoldover_legal]

theorem generatorHoldover_legal (i) (hs : legalFields s) : legalFields (generatorHoldover s i) := by
  grind [generatorHoldover, legalFields_frame, updIsland_legal]

theorem calibrate_legal (windows) (hs : legalFields s) : legalFields (calibrate s windows) := by
  grind [calibrate, legalFields_frame, raise_legal]

theorem referenceSettle_legal (windows) (hs : legalFields s) : legalFields (referenceSettle s windows) := by
  grind [referenceSettle, legalFields_update, calibrate_legal, lockGenerators_legal, askRun_legal, applyClocks_legal,
    bootStages_legal]

theorem referenceRestored_legal (windows) (hs : legalFields s) : legalFields (referenceRestored s windows) := by
  unfold referenceRestored
  split
  · exact hs
  · extract_lets s1
    have h1 : legalFields s1 := lockGenerators_legal (applyClocks_legal (calibrate_legal _ hs))
    split
    · exact h1
    · exact foldl_askMode_legal _ _ h1

theorem takeResume_legal (hs : legalFields s) : legalFields (takeResume s) := by
  grind [takeResume, legalFields_frame, resumeStep_legal]

theorem clkResume_legal (hs : legalFields s) : legalFields (clkResume s) := by
  grind [clkResume, legalFields_frame, takeResume_legal]

theorem dropRunning_legal (hs : legalFields s) : legalFields (dropRunning s) := by
  grind [dropRunning, legalFields_frame, endControl_legal]

theorem clkDiscard_legal (hs : legalFields s) : legalFields (clkDiscard s) := by
  grind [clkDiscard, legalFields_frame, dropRunning_legal, discardAttempt_legal]

/-! Power. -/

theorem setCap_legal (n) (hs : legalFields s) : legalFields (setCap s n) := by
  grind [setCap, legalFields_update, applyClocks_legal]

theorem tellLimited_legal (hs : legalFields s) : legalFields (tellLimited s) := by
  grind [tellLimited, legalFields_update, raise_legal]

theorem powerWindow_legal (watts) (hs : legalFields s) : legalFields (powerWindow s watts) := by
  grind [powerWindow, legalFields_update, tellLimited_legal, setCap_legal]

theorem enterSlack_legal (thermal stops) (hs : legalFields s) : legalFields (enterSlack s thermal stops) := by
  grind [enterSlack, legalFields_update, askSleep_legal, raise_legal, suspendStep_legal]

theorem setTimer_legal {p : Pwr} (hp : p.limit = s.pwr.limit) (hs : legalFields s) : legalFields (setTimer s p) :=
  legalFields_update rfl hp hs

theorem supplyBack_legal (ok) (hs : legalFields s) : legalFields (supplyBack s ok) := setTimer_legal rfl hs

theorem coolBack_legal (ok) (hs : legalFields s) : legalFields (coolBack s ok) := setTimer_legal rfl hs

theorem askRelease_legal (hs : legalFields s) : legalFields (askRelease s) := foldl_askMode_legal _ _ hs

theorem releaseSlack_legal (hs : legalFields s) : legalFields (releaseSlack s) := by
  grind [releaseSlack, legalFields_update, askRelease_legal]

theorem finishRelease_legal (hs : legalFields s) : legalFields (finishRelease s) := by
  grind [finishRelease, legalFields_update, bumpFresh_legal, raise_legal, takeResume_legal, resumeStep_legal]

theorem keepHoldup_legal (s) {t : State} (ht : legalFields t) : legalFields (keepHoldup s t) := ht

theorem resetLevel_legal (hs : legalFields s) : legalFields (resetLevel s) := by
  unfold resetLevel
  split
  · exact hs
  · exact legalFields_update rfl rfl (keepHoldup_legal s (clearDevice_legal s))

theorem holdupCutoff_legal (hs : legalFields s) : legalFields (holdupCutoff s) := by
  grind [holdupCutoff, legalFields_update]

theorem powerOn_legal (f) (hs : legalFields s) : legalFields (powerOn s f) := by
  unfold powerOn
  split
  · exact powerUp_legal f (legalFields_update rfl rfl hs)
  · exact powerUp_legal f (legalFields_update rfl rfl hs)
  · exact powerUp_legal f (legalFields_update rfl rfl hs)
  · exact hs

theorem thermalTrip_legal (f) (hs : legalFields s) : legalFields (thermalTrip s f) := by
  unfold thermalTrip
  split
  · exact hs
  · exact legalFields_update rfl rfl (keepHoldup_legal s (clearDevice_legal s))

theorem cooldownComplete_legal (hs : legalFields s) : legalFields (cooldownComplete s) := by
  unfold cooldownComplete
  split
  · exact powerUp_legal _ (legalFields_update rfl rfl hs)
  · exact hs

theorem inputHigh_legal (v) (hs : legalFields s) : legalFields (inputHigh s v) := by
  grind [inputHigh, legalFields_update, raise_legal]

theorem inputHighEnded_legal (hs : legalFields s) : legalFields (inputHighEnded s) := by
  grind [inputHighEnded, legalFields_update]

/-! Registers. -/

/-- R15, R462: a reserved KIND or DIE leaves its field. -/
theorem writeClkSel_legal {x : Master} (v) (hx : legalMaster x = true) :
    legalMaster { x with clkSel := writeClkSel x.clkSel v } = true := by
  simp only [legalMaster, Bool.and_eq_true, decide_eq_true_eq] at hx ⊢
  obtain ⟨⟨⟨⟨hf, hd⟩, h1⟩, h10⟩, h13⟩ := hx
  have hk : 1 ≤ (writeClkSel x.clkSel v).kind.toNat ∧ (writeClkSel x.clkSel v).kind.toNat ≤ 10 := by
    dsimp only [writeClkSel]
    split
    · rw [BitVec.toNat_ofNat]
      omega
    · exact ⟨h1, h10⟩
  refine ⟨⟨⟨⟨hf, hd⟩, hk.1⟩, hk.2⟩, ?_⟩
  dsimp only [writeClkSel]
  split
  · rw [BitVec.toNat_ofNat]
    omega
  · exact h13

/-- R15, R309: a reserved PORT leaves FAB_SEL. -/
theorem fabSel_legal {x : Master} (v : W32) (hx : legalMaster x = true) :
    legalMaster { x with fabSel := if v.toNat % 16 < 12 then v.setWidth 4 else x.fabSel } = true := by
  simp only [legalMaster, Bool.and_eq_true, decide_eq_true_eq] at hx ⊢
  obtain ⟨⟨⟨⟨hf, hd⟩, h1⟩, h10⟩, h13⟩ := hx
  refine ⟨⟨⟨⟨?_, hd⟩, h1⟩, h10⟩, h13⟩
  split
  · simpa
  · exact hf

/-- R15, R213: a reserved DIE leaves SLW_SEL. -/
theorem slwDie_legal {x : Master} {d : Nat} {k : BitVec 3} (hx : legalMaster x = true) :
    legalMaster { x with slwDie := if d < 12 then BitVec.ofNat 4 d else x.slwDie, slwStream := k } = true := by
  simp only [legalMaster, Bool.and_eq_true, decide_eq_true_eq] at hx ⊢
  obtain ⟨⟨⟨⟨hf, hd⟩, h1⟩, h10⟩, h13⟩ := hx
  refine ⟨⟨⟨⟨hf, ?_⟩, h1⟩, h10⟩, h13⟩
  split
  · rw [BitVec.toNat_ofNat]
    omega
  · exact hd

theorem sample_legal (off) (hs : legalFields s) : legalFields (sample s off) := by
  unfold sample
  split
  · exact bumpFresh_legal (legalFields_update rfl rfl hs)
  · exact bumpFresh_legal (legalFields_update rfl rfl hs)
  · exact bumpFresh_legal (legalFields_update rfl rfl hs)
  · exact bumpFresh_legal hs
  · exact hs

theorem setCapture_legal (m off v) (hs : legalFields s) : legalFields (setCapture s m off v) :=
  setMaster_legal (getMaster_legal m hs) hs

theorem popCapture_legal (m off) (hs : legalFields s) : legalFields (popCapture s m off) :=
  setMaster_legal (getMaster_legal m hs) hs

theorem updStream_legal (k f) (hs : legalFields s) : legalFields (updStream s k f) := by
  grind [updStream, setStream_legal]

theorem rcClear_legal (m off) (hs : legalFields s) : legalFields (rcClear s m off) := by
  unfold rcClear
  split
  · exact setQueue_keep_legal rfl rfl hs
  · exact legalFields_frame hs
  · exact legalFields_frame hs
  · exact legalFields_update rfl rfl hs
  · exact legalFields_frame hs
  · exact updPort_legal _ _ hs
  · exact updPort_legal _ _ hs
  · exact updPort_legal _ _ hs
  · exact updPort_legal _ _ hs
  · exact updStream_legal _ _ hs
  · exact updStream_legal _ _ hs
  · exact legalFields_frame hs
  · exact hs

theorem readCore_legal (m off) (hs : legalFields s) : legalFields (readCore s m off).1 := by
  grind [readCore, popCapture_legal, sample_legal, rcClear_legal, setCapture_legal]

theorem bar0Read_legal (m off) (hs : legalFields s) : legalFields (bar0Read s m off).1 := by
  grind [bar0Read, readCore_legal]

theorem putRead_legal (m v) (hs : legalFields s) : legalFields (putRead s m v) := legalFields_frame hs

theorem readReg_legal (m off) (hs : legalFields s) : legalFields (readReg s m off) := by
  grind [readReg, bar0Read_legal, putRead_legal]

theorem misaligned_legal (m off) (hs : legalFields s) : legalFields (misaligned s m off) := by
  grind [misaligned, raise_legal]

theorem busRead_legal (m off size) (hs : legalFields s) : legalFields (busRead s m off size) := by
  grind [busRead, putRead_legal, readReg_legal, misaligned_legal]

theorem stageLo_legal (m off v) (hs : legalFields s) : legalFields (stageLo s m off v) := legalFields_frame hs

theorem commitPair_legal (m loOff hi cur) {f : State → W64 → State} (hf : ∀ s w, legalFields s → legalFields (f s w))
    (hs : legalFields s) : legalFields (commitPair s m loOff hi cur f) := hf _ _ (legalFields_frame hs)

theorem updMaster_legal (m) {f : Master → Master} (hf : ∀ x, legalMaster x = true → legalMaster (f x) = true)
    (hs : legalFields s) : legalFields (updMaster s m f) := setMaster_legal (hf _ (getMaster_legal m hs)) hs

/-- R15, R421: OWN_TIMEOUT keeps its value at a write of 0. -/
theorem writeOwn_legal (m r v) (hs : legalFields s) : legalFields (writeOwn s m r v) := by
  unfold writeOwn
  split
  · exact writeOwnReq_legal m v hs
  · split
    · exact hs
    · next hv =>
      obtain ⟨hm, _, hl, hq⟩ := hs
      refine ⟨hm, fun h => hv ?_, hl, hq⟩
      simpa using congrArg BitVec.toNat h
  · split
    · exact stageLo_legal _ _ _ hs
    · exact hs
  · split
    · exact commitPair_legal _ _ _ _ (fun _ _ h => setFn_legal _ _ h) hs
    · exact hs
  · exact hs

theorem writeJq_legal (m r v) (hs : legalFields s) : legalFields (writeJq s m r v) := by
  have hx := getQueue_legal (selQueue s m) hs
  unfold writeJq
  extract_lets q x y s1
  split
  · exact updMaster_legal _ (fun _ h => h) hs
  · exact configQueue_legal _ _ hs
  · exact stageLo_legal _ _ _ hs
  · refine commitPair_legal _ _ _ _ (fun s b h => ?_) hs
    split
    · exact h
    · exact setQueue_legal hx h
  · split
    · exact hs
    · exact setQueue_keep_legal rfl rfl hs
  · have hy : legalQueue y := by
      obtain ⟨h1, h2, h3⟩ := hx
      refine ⟨h1, h2, ?_⟩
      change (if _ then _ else _) ≠ _
      split
      · exact h3
      · next hv => exact fun h => hv (by simpa using congrArg BitVec.toNat h)
    have h1 : legalFields s1 := setQueue_legal hy hs
    split
    · exact evqSignal_legal _ h1
    · exact h1
  · exact hs

theorem writePln_legal (m r v) (hs : legalFields s) : legalFields (writePln s m r v) := by
  unfold writePln
  split
  · split
    · exact loadPlan_legal hs
    · exact hs
  · exact stageLo_legal _ _ _ hs
  · exact commitPair_legal _ _ _ _ (fun _ _ h => legalFields_frame h) hs
  · exact legalFields_frame hs
  · exact hs

theorem writeClk_legal (m r v) (hs : legalFields s) : legalFields (writeClk s m r v) := by
  unfold writeClk
  split
  · split
    · exact askSource_legal _ _ hs
    · exact askSource_legal _ _ hs
    · exact clkResume_legal hs
    · exact clkDiscard_legal hs
    · exact hs
  · exact updMaster_legal _ (fun _ => writeClkSel_legal v) hs
  · exact hs

/-- R15, R463: PWR_LIMIT keeps its value outside 2,000 to 11,000 W. -/
theorem writePwr_legal (r v) (hs : legalFields s) : legalFields (writePwr s r v) := by
  unfold writePwr
  split
  · split
    · exact bumpFresh_legal (deviceReset_legal _ _ _)
    · exact hs
  · extract_lets w
    split
    · next hw =>
      obtain ⟨hm, ho, _, _, hq⟩ := hs
      have : (v.setWidth 16).toNat = w := BitVec.toNat_setWidth ..
      exact ⟨hm, ho, this ▸ hw.1, this ▸ hw.2, hq⟩
    · exact hs
  · exact hs

theorem writeHld_legal (m r v) (hs : legalFields s) : legalFields (writeHld s m r v) := by
  unfold writeHld
  split
  · exact updMaster_legal _ (fun _ h => h) hs
  · split
    · exact traceOn_legal hs
    · exact traceOff_legal hs
    · exact cancelCmd_legal hs
    · exact hs
  · exact hs

theorem writeFab_legal (m r v) (hs : legalFields s) : legalFields (writeFab s m r v) := by
  unfold writeFab
  split
  · split
    · exact stageLo_legal _ _ _ hs
    · exact commitAlias_legal _ _ hs
  · split
    · exact updMaster_legal _ (fun _ => fabSel_legal v) hs
    · split
      · exact portCommand_legal _ (fun p => retrainPort_legal p hs) hs
      · exact portCommand_legal _ (fun p => disablePort_legal p hs) hs
      · exact portCommand_legal _ (fun p => enablePort_legal p hs) hs
      · exact hs
    · exact hs

theorem writeSpr_legal (r v) (hs : legalFields s) : legalFields (writeSpr s r v) := by
  unfold writeSpr
  split
  · grind [requestFull_legal]
  · exact hs

theorem writeSlw_legal (m r v) (hs : legalFields s) : legalFields (writeSlw s m r v) := by
  unfold writeSlw
  split
  · exact updMaster_legal _ (fun _ => slwDie_legal) hs
  · exact hs

theorem writeStp_legal (r v) (hs : legalFields s) : legalFields (writeStp s r v) := by
  unfold writeStp
  split
  · split
    · exact stepStop_legal hs
    · exact startAbort_legal _ hs
    · exact stepResume_legal hs
    · exact hs
  · exact hs

theorem writeSec_legal (m r v) (hs : legalFields s) : legalFields (writeSec s m r v) := by
  unfold writeSec
  split
  · grind [stageFirmware_legal, clearTrial_legal]
  · exact stageLo_legal _ _ _ hs
  · exact commitPair_legal _ _ _ _ (fun _ _ h => legalFields_frame h) hs
  · exact hs

theorem writeMsix_legal (m r v) (hs : legalFields s) : legalFields (writeMsix s m r v) := by
  grind [writeMsix, legalFields_frame, msixSend_legal, setFn_legal]

theorem regStore_legal (m off v) (hs : legalFields s) : legalFields (regStore s m off v) := by
  unfold regStore
  extract_lets r
  split
  · split
    · exact ringDoorbell_legal _ _ _ hs
    · exact hs
  · split
    · exact writeOwn_legal _ _ _ hs
    · exact writeJq_legal _ _ _ hs
    · exact writePln_legal _ _ _ hs
    · exact writeClk_legal _ _ _ hs
    · exact writePwr_legal _ _ hs
    · exact writeHld_legal _ _ _ hs
    · exact writeFab_legal _ _ _ hs
    · exact writeSpr_legal _ _ hs
    · exact writeSlw_legal _ _ _ hs
    · exact writeStp_legal _ _ hs
    · exact writeSec_legal _ _ _ hs
    · exact writeMsix_legal _ _ _ hs
    · exact hs

theorem bar0Write_legal (m off v size) (hs : legalFields s) : legalFields (bar0Write s m off v size) := by
  unfold bar0Write
  split
  · exact hs
  · split
    · exact misaligned_legal _ _ hs
    · exact writeGate_legal _ _ _ (fun _ => regStore_legal m off v) hs

/-! Messages. -/

theorem eraseHold_legal (hs : legalFields s) : legalFields (eraseHold s) := legalFields_frame hs

theorem enrolDevice_legal (b) (hs : legalFields s) : legalFields (enrolDevice s b) := by
  grind [enrolDevice, legalFields_frame, bumpFresh_legal, eraseHold_legal, writeOwner_legal, raise_legal]

theorem doeObject_legal (fn type owner wellFormed) {f : State → State} (hf : legalFields (f s)) (hs : legalFields s) :
    legalFields (doeObject s fn type owner wellFormed f) := by
  grind [doeObject, answerDoe_legal]

theorem doeEnrol_legal (fn b) (hs : legalFields s) : legalFields (doeEnrol s fn b) :=
  doeObject_legal _ _ _ _ (by grind [answerDoe_legal, enrolDevice_legal, raise_legal]) hs

theorem doeAttest_legal (fn nonce) (hs : legalFields s) : legalFields (doeAttest s fn nonce) :=
  doeObject_legal _ _ _ _ (by grind [answerDoe_legal]) hs

theorem doePlanSeg_legal (fn a b) (hs : legalFields s) : legalFields (doePlanSeg s fn a b) :=
  doeObject_legal _ _ _ _ (by grind [answerDoe_legal, hostWrite_legal]) hs

theorem doePlanLoad_legal (fn a home) (hs : legalFields s) : legalFields (doePlanLoad s fn a home) :=
  doeObject_legal _ _ _ _ (by grind [legalFields_frame, loadPlan_legal, setFn_legal, answerDoe_legal]) hs

theorem doeDiscover_legal (fn i) (hs : legalFields s) : legalFields (doeDiscover s fn i) := by
  grind [doeDiscover, legalFields_frame]

theorem abortDoe_legal (fn) (hs : legalFields s) : legalFields (abortDoe s fn) := by
  grind [abortDoe, legalFields_frame, setFn_legal]

theorem putMctp_legal (p b) (hs : legalFields s) : legalFields (putMctp s p b) := legalFields_frame hs

theorem answerMsg_legal (p status body) (hs : legalFields s) : legalFields (answerMsg s p status body) := by
  grind [answerMsg, legalFields_frame, putMctp_legal, setMgmt_legal]

theorem takeMsg_legal (p takes) {f : State → State} (hf : legalFields (f s)) (hs : legalFields s) :
    legalFields (takeMsg s p takes f) := by
  grind [takeMsg, putMctp_legal]

theorem portReadOne_legal (p off direct) (hs : legalFields s) : legalFields (portReadOne s p off direct).1 := by
  grind [portReadOne, misaligned_legal, readCore_legal, bar0Read_legal]

theorem portReads_legal (n p off d) (hs : legalFields s) : legalFields (portReads n s p off d).1 := by
  induction n generalizing s off with
  | zero => exact hs
  | succ n ih => exact ih _ (portReadOne_legal _ _ _ hs)

theorem mgmtRead_legal (p off n) (hs : legalFields s) : legalFields (mgmtRead s p off n) :=
  takeMsg_legal _ _ (by grind [answerMsg_legal, portReads_legal]) hs

theorem mgmtWrite_legal (p off v) (hs : legalFields s) : legalFields (mgmtWrite s p off v) :=
  takeMsg_legal _ _ (by grind [answerMsg_legal, bar0Write_legal]) hs

theorem mgmtJob_legal (p b) (hs : legalFields s) : legalFields (mgmtJob s p b) :=
  takeMsg_legal _ _ (by grind [answerMsg_legal, acceptEntry_legal, setQueue_keep_legal]) hs

theorem mgmtEvents_legal (p n) (hs : legalFields s) : legalFields (mgmtEvents s p n) :=
  takeMsg_legal _ _ (by grind [answerMsg_legal, setMgmt_legal]) hs

theorem mgmtKeepalive_legal (p) (hs : legalFields s) : legalFields (mgmtKeepalive s p) :=
  takeMsg_legal _ _ (answerMsg_legal _ _ _ hs) hs

theorem mgmtAttest_legal (p nonce) (hs : legalFields s) : legalFields (mgmtAttest s p nonce) :=
  takeMsg_legal _ _ (by grind [answerMsg_legal]) hs

theorem mgmtReclaim_legal (p b) (hs : legalFields s) : legalFields (mgmtReclaim s p b) :=
  takeMsg_legal _ _ (answerMsg_legal _ _ _ (reclaim_legal _ _ hs)) hs

theorem mgmtBoard_legal (p off b) (hs : legalFields s) : legalFields (mgmtBoard s p off b) :=
  takeMsg_legal _ _ (by grind [answerMsg_legal, wrNor_legal]) hs

theorem mgmtRecovery_legal (p off last b f) (hs : legalFields s) : legalFields (mgmtRecovery s p off last b f) :=
  takeMsg_legal _ _ (by grind [legalFields_frame, answerMsg_legal, deviceReset_legal]) hs

theorem sendResponses_legal (hs : legalFields s) : legalFields (sendResponses s) := by
  grind [sendResponses, legalFields_frame]

theorem assignAddr_legal (p a) (hs : legalFields s) : legalFields (assignAddr s p a) := by
  grind [assignAddr, legalFields_frame, setMgmt_legal]

theorem control_legal (p b) (hs : legalFields s) : legalFields (control s p b) := by
  grind [control, putMctp_legal]

theorem setEid_legal (p e) (hs : legalFields s) : legalFields (setEid s p e) := by
  grind [setEid, legalFields_frame, putMctp_legal, setMgmt_legal]

/-! The passage of time. -/

theorem background_legal (hs : legalFields s) : legalFields (background s) := by
  grind [background, sendResponses_legal, configureFns_legal, fwStep_legal, loadStep_legal]

/-! The tick of the governor. -/

theorem takeReq_legal (r) (hs : legalFields s) : legalFields (takeReq s r) := by
  grind [takeReq, setIsland_legal, admitClock_legal, updCore_legal]

theorem governorTick_legal (hs : legalFields s) : legalFields (governorTick s) :=
  takeResume_legal (finishRelease_legal (retryHost_legal
    (foldl_legal (fun _ r => takeReq_legal r) _ (legalFields_frame (trainPorts_legal s (finishSwitches_legal hs))))))

/-! Movers. -/

theorem copyRows_legal (src dst) (hs : legalFields s) : legalFields (copyRows s src dst) :=
  foldl_legal (by exact fun _ _ => wrMem_legal _ _) _ hs

theorem movEffect_legal (d idx) (hs : legalFields s) : legalFields (movEffect s d idx).1 := by
  unfold movEffect
  split
  · exact foldl_legal (by exact fun _ _ => wrMem_legal _ _) _ hs
  · exact hs
  · exact wrMem_legal _ _ hs
  · exact copyRows_legal _ _ hs

theorem startMov_legal (mop c) (hs : legalFields s) : legalFields (startMov mop s c) := by
  grind [startMov, legalFields_frame, movEffect_legal, setCore_legal, startAbort_legal, raise_legal, failCheck_legal]

theorem completeMov_legal (c slot) (hs : legalFields s) : legalFields (completeMov s c slot) := by
  grind [completeMov, legalFields_frame, setCore_legal, signalField_legal, signalRemote_legal]

/-! Parity. -/

theorem replayPassed_legal (p) (hs : legalFields s) : legalFields (replayPassed s p) := by
  grind [replayPassed, legalFields_frame, raise_legal, queueLocation_legal]

theorem secondFailure_legal (p) (hs : legalFields s) : legalFields (secondFailure s p) := by
  grind [secondFailure, legalFields_frame, queueLocation_legal, dataLoss_legal]

theorem regenDone_legal (addr) (hs : legalFields s) : legalFields (regenDone s addr) := by
  grind [regenDone, legalFields_frame, raise_legal]

theorem scrub_legal (k bad) (hs : legalFields s) : legalFields (scrub s k bad) := by
  grind [scrub, legalFields_frame, queueLocation_legal, raise_legal]

/-! Vector operations. -/

theorem writeAll_legal (ws) (hs : legalFields s) : legalFields (writeAll s ws) := foldl_legal (by exact fun _ _ => wrMem_legal _ _) _ hs

theorem startVec_legal (vop c) (hs : legalFields s) : legalFields (startVec vop s c) := by
  grind [startVec, legalFields_frame, writeAll_legal, setCore_legal, failCheck_legal]

theorem completeVec_legal (c) (hs : legalFields s) : legalFields (completeVec s c) := by
  grind [completeVec, legalFields_frame, setCore_legal, wrMem_legal, finalRecord_legal, signalField_legal]

/-! The dispatch. -/

theorem ite_legal {c : Prop} [Decidable c] {s t : State} (hs : legalFields s) (ht : legalFields t) :
    legalFields (if c then s else t) := by
  split
  · exact hs
  · exact ht

/-- An answer whose next state holds legal fields. -/
inductive LegalNext : Host.Outcome State Fault Refusal → Prop where
  | next {s : State} (hs : legalFields s) : LegalNext (.next s)

/-- Every command, whatever its operands, answers a state that holds legal fields. -/
theorem exec_legal (i : Instr) (hs : legalFields s) : LegalNext (exec i s) := by
  cases i
  case descriptorIssue => exact .next (issueNext_legal _ hs)
  case tile => exact .next (startTile_legal _ hs)
  case spill => exact .next (spillTile_legal _ _ hs)
  case tileComplete => exact .next (completeTile_legal _ _ hs)
  case add | sub | mul | div | sqrt | fma | min | max | cmp | abs | neg | scale | exp | log | tanh | sigmoid | rsqrt |
      recip | sin | cos | erf | gelu | sum | sumsq | maxReduction | minReduction | amax | merge | convert | digest | conv |
      tconv | maxpool | avgpool | patch | argmax | boxdec | suppress =>
    exact .next (startVec_legal _ _ hs)
  case vectorComplete => exact .next (completeVec_legal _ hs)
  case copy | gather | scatter | fill | signal | compare => exact .next (startMov_legal _ _ hs)
  case moverComplete => exact .next (completeMov_legal _ _ hs)
  case tokenSignal => exact .next (signalCtr_legal _ _ hs)
  case fwdEnd | passEnd => exact .next (markEffect_legal _ _ hs)
  case reduceScatter | allReduce | reduce | allGather | broadcast | ringStep => exact .next (startCol_legal _ _ hs)
  case ringCredit => exact .next (ringCredit_legal _ _ _ _ hs)
  case collectiveComplete => exact .next (stageNext_legal (completeCol_legal _ _ hs))
  case arbiterGrant | quotaWindow | islandMask => exact .next (setArb_legal _ _ hs)
  case parityReplay => exact .next (ite_legal (secondFailure_legal _ hs) (replayPassed_legal _ hs))
  case regenerated => exact .next (regenDone_legal _ hs)
  case hbmRefresh => exact .next (ite_legal (legalFields_frame hs) hs)
  case scrubRead => exact .next (scrub_legal _ _ hs)
  case manifestValidation => exact .next (validateManifest_legal _ _ hs)
  case sampleAdmit => exact .next (admitSample_legal _ _ hs)
  case engineGrant => exact .next (grantEngine_legal _ _ _ hs)
  case sampleReady => exact .next (finishSample_legal _ _ _ _ hs)
  case release => exact .next (releaseSample_legal _ _ hs)
  case passRunStart => exact .next (startRun_legal _ hs)
  case ballastPageIn => exact .next (pageIn_legal hs)
  case replicaReduction => exact .next (replicaReduce_legal _ _ hs)
  case updateStart => exact .next (startUpdate_legal hs)
  case updateComplete => exact .next (completeUpdate_legal hs)
  case tally => exact .next (recvTagged_legal _ _ (fun _ => takeTally_legal _) hs)
  case repairComplete => exact .next (completeRepair_legal _ _ hs)
  case snapshotLocalSeal => exact .next (localSeal_legal hs)
  case snapshotRelease => exact .next (releaseSnap_legal hs)
  case abortCause => exact .next (startAbort_legal _ hs)
  case abortComplete => exact .next (finishAbort_legal hs)
  case commit => exact .next (recvCommit_legal _ hs)
  case verdictUp => exact .next (recvTagged_legal _ _ (fun _ => takeVerdictUp_legal _) hs)
  case verdictDown => exact .next (recvTagged_legal _ _ (fun _ => takeVerdictDown_legal _) hs)
  case abort => exact .next (recvAbort_legal _ hs)
  case reshard => exact .next (startReshard_legal hs)
  case lockDrained => exact .next (lockDrained_legal hs)
  case drained | closed | permuted | advance | abandon | abandonReq => exact .next (recvLock_legal _ hs)
  case permutePuts => exact .next (permutePuts_legal hs)
  case permuteComplete => exact .next (permuteComplete_legal hs)
  case advanced => exact .next (recvAdvanced_legal _ hs)
  case portTrainingComplete => exact .next (trainPort_legal _ _ hs)
  case flitReceive => exact .next (receiveData_legal _ _ _ hs)
  case controlFlit => exact .next (receiveControl_legal _ _ _ hs)
  case replayTimeout => exact .next (replayTimeout_legal _ hs)
  case laneFail => exact .next (laneFail_legal _ _ _ _ hs)
  case laneSwap => exact .next (laneSwap_legal _ _ hs)
  case portDown => exact .next (portDown_legal _ hs)
  case portHoldExpiry => exact .next (holdExpiry_legal _ hs)
  case transactionRoute => exact .next (routeTxn_legal hs)
  case put => exact .next (recvPut_legal _ hs)
  case getReq => exact .next (recvGetReq_legal _ hs)
  case getRsp => exact .next (recvGetRsp_legal _ hs)
  case reduceTransaction => exact .next (recvReduce_legal _ _ hs)
  case compl => exact .next (recvCompl_legal _ hs)
  case aliasCommit => exact .next (writeGate_legal _ _ _ (fun _ h => commitAlias_legal _ _ h) hs)
  case retrain => exact .next (writeGate_legal _ _ _ (fun _ h => portCommand_legal _ (fun p => retrainPort_legal p h) h) hs)
  case disable => exact .next (writeGate_legal _ _ _ (fun _ h => portCommand_legal _ (fun p => disablePort_legal p h) h) hs)
  case enable => exact .next (writeGate_legal _ _ _ (fun _ h => portCommand_legal _ (fun p => enablePort_legal p h) h) hs)
  case snapshotDrainPiece => exact .next (drainPiece_legal hs)
  case logResend => exact .next (resendLog_legal hs)
  case programFailed => exact .next (programFailed_legal _ hs)
  case holdReadFailed => exact .next (holdReadFailed_legal _ hs)
  case restore => exact .next (runRestore_legal hs)
  case standinRestore => exact .next (runStandin_legal _ hs)
  case exportState => exact .next (runExport_legal hs)
  case sealOut => exact .next (runSealOut_legal hs)
  case sealIn => exact .next (runSealIn_legal hs)
  case capture => exact .next (runCapture_legal hs)
  case balLoad => exact .next (runBalLoad_legal hs)
  case traceOn => exact .next (writeGate_legal _ _ _ (fun _ h => traceOn_legal h) hs)
  case traceOff => exact .next (writeGate_legal _ _ _ (fun _ h => traceOff_legal h) hs)
  case cancel => exact .next (writeGate_legal _ _ _ (fun _ h => cancelCmd_legal h) hs)
  case ballastWriteBack => exact .next (writeBackRow_legal _ hs)
  case wearBucketRefill => exact .next (refillBucket_legal _ hs)
  case requestFullInspection | withdrawFullInspection =>
    exact .next (writeGate_legal _ _ _ (fun _ h => requestFull_legal _ h) hs)
  case bootReady => exact .next (bootReady_legal hs)
  case romWatchdog => exact .next (romWatchdog_legal _ hs)
  case harbourmasterWatchdog => exact .next (hmWatchdog_legal _ hs)
  case load => exact .next (writeGate_legal _ _ _ (fun _ h => loadPlan_legal h) hs)
  case planApply => exact .next (planApply_legal hs)
  case fwStage => exact .next (writeGate_legal _ _ _ (fun _ h => stageFirmware_legal h) hs)
  case clearTrial => exact .next (writeGate_legal _ _ _ (fun _ h => clearTrial_legal h) hs)
  case enrol => exact .next (doeEnrol_legal _ _ hs)
  case attest => exact .next (ite_legal (doeAttest_legal _ _ hs) (mgmtAttest_legal _ _ hs))
  case planSeg => exact .next (doePlanSeg_legal _ _ _ hs)
  case planLoad => exact .next (doePlanLoad_legal _ _ _ hs)
  case doeDiscovery => exact .next (doeDiscover_legal _ _ hs)
  case doeAbort => exact .next (abortDoe_legal _ hs)
  case stpStop => exact .next (writeGate_legal _ _ _ (fun _ h => stepStop_legal h) hs)
  case stpAbort => exact .next (writeGate_legal _ _ _ (fun _ h => startAbort_legal _ h) hs)
  case stpResume => exact .next (writeGate_legal _ _ _ (fun _ h => stepResume_legal h) hs)
  case jobDoorbell => exact .next (ite_legal hs (doorbell_legal _ _ _ hs))
  case evqDoorbell => exact .next (ite_legal (doorbell_legal _ _ _ hs) hs)
  case jobFetch => exact .next (fetchJob_legal hs)
  case nop => exact .next (runNop_legal hs)
  case step => exact .next (startStep_legal hs)
  case evalOpen => exact .next (openEval_legal hs)
  case evalClose => exact .next (closeEval_legal hs)
  case hold => exact .next (startHold_legal hs)
  case deal => exact .next (runDeal_legal hs)
  case manifest => exact .next (runManifest_legal hs)
  case fence => exact .next (runFence_legal hs)
  case evqModerationTimer => exact .next (ite_legal hs (evqSignal_legal _ hs))
  case queueEnable => exact .next (writeGate_legal _ _ _ (fun _ h => enableQueue_legal _ _ h) hs)
  case queueDisable => exact .next (writeGate_legal _ _ _ (fun _ h => disableQueue_legal _ _ h) hs)
  case claim => exact .next (ownCommand_legal _ _ (claimOwn_legal _ hs) hs)
  case releaseOwnership => exact .next (ownCommand_legal _ _ (releaseOwn_legal _ hs) hs)
  case offer => exact .next (ownCommand_legal _ _ (offerOwn_legal _ _ hs) hs)
  case accept => exact .next (ownCommand_legal _ _ (acceptOwn_legal _ hs) hs)
  case withdraw => exact .next (ownCommand_legal _ _ (withdrawOwn_legal _ hs) hs)
  case offerTimeout => exact .next (offerTimeout_legal hs)
  case ownershipLapse => exact .next (ownershipLapse_legal hs)
  case reclaim => exact .next (mgmtReclaim_legal _ _ hs)
  case registerWrite => exact .next (bar0Write_legal _ _ _ _ hs)
  case loReadCapture | misalignedBar0Read => exact .next (busRead_legal _ _ _ hs)
  case bar2Read => exact .next (bar2Read_legal _ _ _ hs)
  case bar2Write => exact .next (bar2Write_legal _ _ _ hs)
  case slwConcealed | slwOverbudget | stpSkips | fabCorr | fabUncorr | fabReplay | fabLost | hldProgFail | evqLost |
      clkForced | clkRefFails | pwrSlacks =>
    exact .next (readReg_legal _ _ hs)
  case regRead => exact .next (mgmtRead_legal _ _ _ hs)
  case regWrite => exact .next (mgmtWrite_legal _ _ _ hs)
  case job => exact .next (mgmtJob_legal _ _ hs)
  case eventRead => exact .next (mgmtEvents_legal _ _ hs)
  case keepalive => exact .next (mgmtKeepalive_legal _ hs)
  case boardWrite => exact .next (mgmtBoard_legal _ _ _ hs)
  case recovery => exact .next (mgmtRecovery_legal _ _ _ _ _ hs)
  case entdaa => exact .next (assignAddr_legal _ _ hs)
  case getEndpointId | getMctpVersionSupport | getMessageTypeSupport | getVendorMessageSupport =>
    exact .next (control_legal _ _ hs)
  case setEndpointId => exact .next (setEid_legal _ _ hs)
  case linkUp => exact .next (linkUp_legal _ _ _ _ hs)
  case linkDown => exact .next (linkDown_legal _ hs)
  case flr | hotReset => exact .next (functionReset_legal _ hs)
  case perst => exact .next (perstInput_legal _ _ hs)
  case dmaError => exact .next (dmaError_legal _ _ hs)
  case monitorWindow => exact .next (monitorWindow_legal _ _ _ hs)
  case generatorHoldover => exact .next (generatorHoldover_legal _ hs)
  case referenceRestored => exact .next (referenceRestored_legal _ hs)
  case clkResume => exact .next (writeGate_legal _ _ _ (fun _ h => clkResume_legal h) hs)
  case discard => exact .next (writeGate_legal _ _ _ (fun _ h => clkDiscard_legal h) hs)
  case sourceFb | sourceGen => exact .next (writeGate_legal _ _ _ (fun _ h => askSource_legal _ _ h) hs)
  case switchWatchdog => exact .next (forceSwitch_legal _ hs)
  case governorTick => exact .next (governorTick_legal hs)
  case coreIdle => exact .next (coreIdle_legal _ hs)
  case powerWindow => exact .next (powerWindow_legal _ hs)
  case slackEntered => exact .next (enterSlack_legal _ _ hs)
  case releaseLevelCrossed | inputBelowReleaseLevel => exact .next (supplyBack_legal _ hs)
  case slackReleaseTimer => exact .next (releaseSlack_legal hs)
  case resetLevel => exact .next (resetLevel_legal hs)
  case holdupCutoff => exact .next (holdupCutoff_legal hs)
  case inputHigh => exact .next (inputHigh_legal _ hs)
  case thermalTrip => exact .next (thermalTrip_legal _ hs)
  case reset => exact .next (writeGate_legal _ _ _ (fun _ _ => deviceReset_legal _ _ _) hs)
  case powerOn => exact .next (powerOn_legal _ hs)
  case referenceSettle => exact .next (referenceSettle_legal _ hs)
  case slackTemperatureCleared => exact .next (coolBack_legal _ hs)
  case tripCooldownComplete => exact .next (cooldownComplete_legal hs)
  case inputHighEnded => exact .next (inputHighEnded_legal hs)
theorem step_legal (hs : legalFields s) : LegalNext (step s) := by
  unfold step
  split
  · exact .next (background_legal hs)
  · exact exec_legal _ (legalFields_frame hs)

/-- Settles O4: each command's meaning is a composition of operations that keep the fields legal. -/
theorem stepKeepsLegalFields : Obligations.StepKeepsLegalFields := by
  intro s t hs ht
  obtain ⟨h⟩ := ht ▸ step_legal hs
  exact h

end Sys2Proof.Machine
end

section
/-! Accesses to the registers and to BAR2 (R12, R13, R15, R17, R40, R222, R410, R413, R445). -/
namespace Sys2Proof.Machine
open Sys2Proof Sys2Proof.Safety

variable {s : State} {m off : Nat}

/-! What an access does, case by case. -/

theorem accessDead_of_ready (hm : masterExists s m = true) (hb : s.sec.boot = .ready) : accessDead s m off = false := by
  simp [accessDead, hm, hb]

theorem alignedAccess_iff {size : Nat} : alignedAccess off size = true ↔ off % 4 = 0 ∧ size = 4 := by
  simp [alignedAccess]

theorem busRead_aligned (h : off % 4 = 0) : busRead s m off 4 = readReg s m off := by
  simp [busRead, alignedAccess, h]

theorem readReg_dead (h : accessDead s m off = true) : readReg s m off = putRead s m 0xFFFFFFFF := by
  simp [readReg, bar0Read, h]

theorem readReg_live (h : accessDead s m off = false) :
    readReg s m off = putRead (readCore s m off).1 m (readCore s m off).2 := by
  simp [readReg, bar0Read, h]

theorem busRead_dead {size : Nat} (h : accessDead s m off = true) : busRead s m off size = putRead s m 0xFFFFFFFF := by
  simp [busRead, h, readReg_dead]

theorem busRead_misaligned {size : Nat} (h : accessDead s m off = false) (ha : off % 4 ≠ 0 ∨ size ≠ 4) :
    busRead s m off size = misaligned (putRead s m 0xFFFFFFFF) m off := by
  have : alignedAccess off size = false := by
    rw [Bool.eq_false_iff, Ne, alignedAccess_iff]
    omega
  simp [busRead, this, h]

theorem bar0Write_dead {m : Fin 4} {v : W32} {size : Nat} (h : accessDead s m.val off = true) : bar0Write s m off v size = s := by
  simp [bar0Write, h]

theorem bar0Write_misaligned {m : Fin 4} {v : W32} {size : Nat} (h : accessDead s m.val off = false)
    (ha : off % 4 ≠ 0 ∨ size ≠ 4) : bar0Write s m off v size = misaligned s m off := by
  have : alignedAccess off size = false := by
    rw [Bool.eq_false_iff, Ne, alignedAccess_iff]
    omega
  simp [bar0Write, this, h]

theorem bar0Write_aligned {m : Fin 4} {v : W32} (h : accessDead s m.val off = false) (ha : off % 4 = 0) :
    bar0Write s m off v 4 = writeGate s m off (exemptOff s m off) fun s => regStore s m off v := by
  simp [bar0Write, alignedAccess, ha, h]

/-- R419: a write that is not the owner's and not exempt changes only where events are delivered. -/
theorem writeGate_notOwner {f : State → State} (h : isOwner s m = false) : eventsOnly s (writeGate s m off false f) := by
  simp only [writeGate, Bool.false_or, h]
  split
  · exact .refl s
  · exact raise_frame ..

theorem writeGate_owner {exempt : Bool} {f : State → State} (hm : masterExists s m = true) (hb : s.sec.boot = .ready)
    (ho : isOwner s m = true) : writeGate s m off exempt f = f s := by
  simp [writeGate, hm, hb, ho]

/-- Settles O56, by the cases of an access: dead, misaligned, or refused at the gate. -/
theorem badRegisterAccessDiscarded : Obligations.BadRegisterAccessDiscarded := by
  intro s m off
  refine ⟨fun h size v => ⟨?_, ?_⟩, fun h size ha => ⟨?_, fun v => ⟨_, rfl, ?_⟩⟩, fun h ha ho he v => ⟨_, rfl, ?_⟩⟩
  · exact congrArg Host.Outcome.next (bar0Write_dead h)
  · exact congrArg Host.Outcome.next (busRead_dead h)
  · exact congrArg Host.Outcome.next (busRead_misaligned h ha)
  · rw [bar0Write_misaligned h ha]
    exact ⟨raise_frame .., rfl⟩
  · rw [bar0Write_aligned h ha, he]
    exact writeGate_notOwner ho

/-! Reads of registers. -/

theorem readCore_captured {v : W32} (hl : isLo (off - 4) = true) (hc : captured s m off = some v) :
    readCore s m off = (popCapture s m off, v) := by
  simp [readCore, hl, hc]

/-- A read that no capture answers, of a register that shows no sensor. -/
theorem readCore_plain (hc : isLo (off - 4) = false ∨ captured s m off = none) (hs : off ∉ [0x6008, 0x600C, 0x601C, 0x7000]) :
    readCore s m off =
      (let t := if isOwner s m then rcClear s m off else s
       if isLo off then setCapture t m (off + 4) (regValue s m (off + 4)) else t, regValue s m off) := by
  have h1 : (isLo (off - 4) && (captured s m off).isSome) = false := by
    rcases hc with h | h <;> simp [h]
  have h2 : sample s off = s := by
    simp only [List.mem_cons, List.not_mem_nil, or_false, not_or] at hs
    grind [sample]
  simp [readCore, h1, h2]

theorem captured_setCapture (h : smWf Master.init s.masters = true) (v : W32) : captured (setCapture s m off v) m off = some v := by
  have : (List.filter (fun p => p.1 != off) (getMaster s m).captured).find? (fun p => p.1 == off) = none := by
    simp [List.find?_eq_none]
  simp only [captured, setCapture, setMaster, getMaster, smGet_smSet _ _ _ h, if_pos, List.find?_append] at this ⊢
  simp [this]

theorem captured_popCapture (h : smWf Master.init s.masters = true) : captured (popCapture s m off) m off = none := by
  simp [captured, popCapture, setMaster, getMaster, smGet_smSet _ _ _ h]

/-- The registers that the owner's read clears (RC). -/
def rcRegisters : List Nat :=
  [0x2020, 0x5010, 0x5014, 0x6018, 0x7048, 0x8014, 0x8018, 0x801C, 0x8024, 0xA018, 0xA01C, 0xB040]

/-- The low halves: aligned, no high half of a pair, no sensor and no RC register. -/
theorem isLo_plain (h : isLo off = true) : off % 4 = 0 ∧ isLo (off - 4) = false ∧ off ∉ [0x6008, 0x600C, 0x601C, 0x7000] ∧
    off ∉ rcRegisters := by
  simp only [isLo, rcRegisters, List.contains_eq_mem, List.mem_cons, List.not_mem_nil, or_false, Bool.or_eq_true, Bool.and_eq_true,
    decide_eq_true_eq, beq_iff_eq, Bool.or_eq_false_iff, decide_eq_false_iff_not, Bool.and_eq_false_iff, not_or] at h ⊢
  simp only [beq_eq_false_iff_ne]
  omega

theorem rcRegisters_plain : ∀ off ∈ rcRegisters, isLo off = false ∧ off ∉ [0x6008, 0x600C, 0x601C, 0x7000] := by
  decide

theorem rcClear_other (h : off ∉ rcRegisters) : rcClear s m off = s := by
  simp only [rcRegisters, List.mem_cons, List.not_mem_nil, or_false, not_or] at h
  grind [rcClear]

theorem getQueue_setQueue_same (h : smWf Queue.init s.queues = true) (q : Nat) (x : Queue) : getQueue (setQueue s q x) q = x := by
  simp [getQueue, setQueue, smGet_smSet _ _ _ h]

theorem getPort_updPort_same (h : smWf Port.init s.fab.ports = true) (p : Nat) (f : Port → Port) :
    getPort (updPort s p f) p = f (getPort s p) := by
  simp [getPort, updPort, setPort, smGet_smSet _ _ _ h]

theorem getStream_updStream_same (h : smWf Stream.init s.streams = true) (k : Nat) (f : Stream → Stream) :
    getStream (updStream s k f) k = f (getStream s k) := by
  simp [getStream, updStream, setStream, smGet_smSet _ _ _ h]

/-- R13: in canonical tables a cleared RC register shows 0. -/
theorem regValue_rcClear (hq : smWf Queue.init s.queues = true) (hp : smWf Port.init s.fab.ports = true)
    (hs : smWf Stream.init s.streams = true) (h : off ∈ rcRegisters) : regValue (rcClear s m off) m off = 0 := by
  simp only [rcRegisters, List.mem_cons, List.not_mem_nil, or_false] at h
  rcases h with rfl | rfl | rfl | rfl | rfl | rfl | rfl | rfl | rfl | rfl | rfl | rfl
  case inl => exact congrArg Queue.lost (getQueue_setQueue_same hq (selQueue s m) _)
  case inr.inr.inr.inr.inr.inl => exact congrArg Port.corr (getPort_updPort_same hp (fabPort s m) _)
  case inr.inr.inr.inr.inr.inr.inl => exact congrArg Port.uncorr (getPort_updPort_same hp (fabPort s m) _)
  case inr.inr.inr.inr.inr.inr.inr.inl => exact congrArg Port.replay (getPort_updPort_same hp (fabPort s m) _)
  case inr.inr.inr.inr.inr.inr.inr.inr.inl => exact congrArg Port.lost (getPort_updPort_same hp (fabPort s m) _)
  case inr.inr.inr.inr.inr.inr.inr.inr.inr.inl =>
    exact congrArg Stream.concealed (getStream_updStream_same hs (selStreamIdx s m) _)
  case inr.inr.inr.inr.inr.inr.inr.inr.inr.inr.inl =>
    exact congrArg Stream.overBudget (getStream_updStream_same hs (selStreamIdx s m) _)
  all_goals rfl

theorem rcClear_mem (s : State) (m off : Nat) : (rcClear s m off).mem = s.mem := by
  unfold rcClear
  split <;> rfl

theorem readCore_rc (h : off ∈ rcRegisters) (hc : captured s m off = none) :
    readCore s m off = (if isOwner s m then rcClear s m off else s, regValue s m off) := by
  obtain ⟨hlo, hs⟩ := rcRegisters_plain off h
  rw [readCore_plain (.inr hc) hs]
  simp [hlo]

theorem readCore_lo (h : isLo off = true) :
    readCore s m off = (setCapture s m (off + 4) (regValue s m (off + 4)), regValue s m off) := by
  obtain ⟨-, hhi, hs, hrc⟩ := isLo_plain h
  rw [readCore_plain (.inl hhi) hs]
  simp [h, rcClear_other hrc]

/-- The RC reads, each a read of its register. -/
theorem exec_rcRead {m : Fin 4} {i : Instr} (h : (i, off) ∈ ([(.slwConcealed m, 0xA018), (.slwOverbudget m, 0xA01C),
      (.stpSkips m, 0xB040), (.fabCorr m, 0x8014), (.fabUncorr m, 0x8018), (.fabReplay m, 0x801C), (.fabLost m, 0x8024),
      (.hldProgFail m, 0x7048), (.evqLost m, 0x2020), (.clkForced m, 0x5010), (.clkRefFails m, 0x5014),
      (.pwrSlacks m, 0x6018)] : List (Instr × Nat))) :
    exec i s = .next (readReg s m.val off) ∧ off ∈ rcRegisters := by
  simp only [List.mem_cons, Prod.mk.injEq, List.not_mem_nil, or_false] at h
  rcases h with ⟨rfl, rfl⟩ | ⟨rfl, rfl⟩ | ⟨rfl, rfl⟩ | ⟨rfl, rfl⟩ | ⟨rfl, rfl⟩ | ⟨rfl, rfl⟩ | ⟨rfl, rfl⟩ | ⟨rfl, rfl⟩ |
    ⟨rfl, rfl⟩ | ⟨rfl, rfl⟩ | ⟨rfl, rfl⟩ | ⟨rfl, rfl⟩ <;> exact ⟨rfl, by decide⟩

/-! Writes of registers by the owner. -/

theorem bar0Write_owner {m : Fin 4} {v : W32} (hm : masterExists s m.val = true) (hb : s.sec.boot = .ready)
    (ho : isOwner s m.val = true) (ha : off % 4 = 0) : bar0Write s m off v 4 = regStore s m off v := by
  rw [bar0Write_aligned (accessDead_of_ready hm hb) ha, writeGate_owner hm hb ho]

/-- R413: PLN_ADDR takes both halves at the write of the high one. -/
theorem pln_addr_of_pair (m : Fin 4) (lo hi : W32) :
    (regStore (stageLo s m.val 0x4008 lo) m 0x400C hi).pln.addr = (hi ++ lo) &&& 0x0000FFFFFFFFFFFF := by
  have h : smGet none (smSet none s.staged 0x4008 (some lo)) 0x4008 = some lo := by
    rw [smGet_smSet_ne _ _ _ (by simp), if_pos rfl]
  change join64 hi ((smGet none (smSet none s.staged 0x4008 (some lo)) 0x4008).getD _) &&& _ = _
  rw [h]
  rfl

/-! BAR2. -/

theorem eventsOnly_bar2 {t : State} (h : eventsOnly s t) : t.bus.bar2 = s.bus.bar2 := by
  obtain ⟨a, b, q, f, p, u, rfl, -, -, -, hu, -⟩ := h
  exact hu

section
variable {fn n : Nat}

theorem bar2Read_unmapped (hm : masterExists s fn = true) (hb : s.sec.boot = .ready)
    (h : hostMapped s (bar2Addr s fn off) n = false) : bar2Read s fn off n =
      raise (putBar2 s (bytesFF n)) 0x2001 (srcHost fn) (memPay (srcHost fn) (bar2Addr s fn off)) := by
  simp [bar2Read, hm, hb, h]

theorem bar2Read_refused (hm : masterExists s fn = true) (hb : s.sec.boot = .ready)
    (h : hostMapped s (bar2Addr s fn off) n = true) (hr : readRefused s (bar2Addr s fn off) n = true) : bar2Read s fn off n =
      raise (putBar2 s (bytesFF n)) 0xC00C (srcHost fn) (toLe 1 fn ++ toLe 8 (bar2Addr s fn off)) := by
  simp [bar2Read, hm, hb, h, hr]

theorem bar2Read_granted (hm : masterExists s fn = true) (hb : s.sec.boot = .ready)
    (h : hostMapped s (bar2Addr s fn off) n = true) (hr : readRefused s (bar2Addr s fn off) n = false) : bar2Read s fn off n =
      if hostHeld s fn (bar2Addr s fn off) n then waitHost s { fn := fn, addr := bar2Addr s fn off, len := n, data := none }
      else putBar2 s (rdMem s (bar2Addr s fn off) n) := by
  simp [bar2Read, hm, hb, h, hr]

theorem bar2Write_owner {b : Bytes} (hm : masterExists s fn = true) (hb : s.sec.boot = .ready) (ho : isOwner s fn = true) :
    bar2Write s fn off b = hostWrite s fn (bar2Addr s fn off) b := by
  simp [bar2Write, hm, hb, ho]

theorem hostWrite_refused {a : Nat} {b : Bytes} (h : hostMapped s a b.length = true) (hk : hostBankOk s a b.length = false) :
    hostWrite s fn a b = raise s 0x4107 (srcHost fn) [] := by
  simp [hostWrite, h, hk]

theorem hostWrite_granted {a : Nat} {b : Bytes} (h : hostMapped s a b.length = true) (hk : hostBankOk s a b.length = true) :
    hostWrite s fn a b =
      if hostHeld s fn a b.length then waitHost s { fn := fn, addr := a, len := 0, data := some b } else wrMem s a b := by
  simp [hostWrite, h, hk]

end

/-- An answer of ones with its event: nothing but the answer on the bus and the event is new. -/
theorem raise_putBar2 (s : State) (c src : Nat) (p b : Bytes) :
    (raise (putBar2 s b) c src p).bus.bar2 = s.bus.bar2 ++ [b] ∧ (raise (putBar2 s b) c src p).mem = s.mem :=
  ⟨eventsOnly_bar2 (raise_frame ..), raise_mem ..⟩

/-- Settles O57, clause by clause: RC reads, the two halves of a pair, the owner's writes, BAR2. -/
theorem registersReadAndTakeValues : Obligations.RegistersReadAndTakeValues := by
  intro s m hm hb hc
  obtain ⟨hmem, -, -, -, -, -, hstr, hque, hmas, -, -, hpor, -, -⟩ := hc
  have live (off : Nat) : accessDead s m.val off = false := accessDead_of_ready hm hb
  refine ⟨fun i off hi hcap => ?_, fun off hlo => ?_, fun off v h4 hlo hcap => ?_, fun ho v => ⟨?_, ?_, fun hi => ?_⟩,
    fun fn off a hfn ha => ⟨fun n hmap => ?_, fun n hmap => ?_, fun b ho hmap => ?_⟩⟩
  · obtain ⟨hex, hrc⟩ := exec_rcRead (s := s) hi
    rw [hex, readReg_live (live off), readCore_rc hrc hcap]
    refine ⟨fun ho => by simp [ho], fun ho => ⟨rcClear s m.val off, by simp [ho], rfl, ?_, rcClear_mem ..⟩⟩
    exact regValue_rcClear hque hpor hstr hrc
  · refine ⟨_, congrArg Host.Outcome.next (busRead_aligned (isLo_plain hlo).1), ?_⟩
    rw [readReg_live (live _), readCore_lo hlo]
    exact ⟨rfl, captured_setCapture hmas _, rfl⟩
  · have ha : off.toNat % 4 = 0 := by
      have := (isLo_plain hlo).1
      omega
    refine ⟨_, congrArg Host.Outcome.next (busRead_aligned ha), ?_⟩
    rw [readReg_live (live _), readCore_captured hlo hcap]
    exact ⟨rfl, captured_popCapture hmas⟩
  · exact congrArg Host.Outcome.next (bar0Write_owner hm hb ho (by decide))
  · exact congrArg Host.Outcome.next (bar0Write_owner hm hb ho (by decide))
  · refine ⟨stageLo s m.val 0x4008 v, _, congrArg Host.Outcome.next (bar0Write_owner hm hb ho (by decide)), rfl, rfl, ?_⟩
    rw [bar0Write_owner (s := stageLo s m.val 0x4008 v) hm hb ho (by decide)]
    exact ⟨pln_addr_of_pair m v hi, rfl⟩
  · rw [← hfn] at hm
    subst ha
    refine ⟨fun hr hh => ?_, fun hr hh => ?_, fun hr => ?_⟩
    · exact congrArg Host.Outcome.next ((bar2Read_granted hm hb hmap hr).trans (if_neg (by simp [hh])))
    · exact congrArg Host.Outcome.next ((bar2Read_granted hm hb hmap hr).trans (if_pos hh))
    · exact ⟨_, congrArg Host.Outcome.next (bar2Read_refused hm hb hmap hr), raise_putBar2 ..⟩
  · rw [← hfn] at hm
    subst ha
    exact ⟨_, congrArg Host.Outcome.next (bar2Read_unmapped hm hb hmap), raise_putBar2 ..⟩
  · rw [← hfn] at hm ho
    subst ha
    have hw := bar2Write_owner (off := off.toNat) (b := b) hm hb ho
    refine ⟨fun hk hh => ?_, fun hk hh => ?_, fun hk => ?_⟩
    · exact congrArg Host.Outcome.next (hw.trans ((hostWrite_granted hmap hk).trans (if_pos hh)))
    · refine ⟨_, congrArg Host.Outcome.next (hw.trans ((hostWrite_granted hmap hk).trans (if_neg (by simp [hh])))), ?_⟩
      exact ⟨rdMem_wrMem _ _ _ hmem, .wrMem _ _ _ hmem, rfl⟩
    · exact ⟨_, congrArg Host.Outcome.next (hw.trans (hostWrite_refused hmap hk)), raise_frame ..⟩

end Sys2Proof.Machine
end

section
/-! Every step keeps the memories and tables in canonical form (R38, R39, R41). A memory or a table changes only by a write
(`smSet`, `wr`, `wrD`), a removal (`smDelRange`, a filter), a change of all its values (`smMapVal`) or by being emptied, and each of
these keeps the canonical form. The operations that do so come first; one lemma for each other operation of the model then says that
it keeps `canonical`, from those of the operations that it calls. -/
namespace Sys2Proof.Machine
open Sys2Proof Sys2Proof.Safety

variable {s : State}

/-- A filter keeps the canonical form. -/
theorem smWf_filter {α : Type} [DecidableEq α] {d : α} {m : SMap α} (f : Nat × α → Bool) (h : smWf d m = true) :
    smWf d (m.filter f) = true := by
  rw [smWf_iff] at *
  exact ⟨h.1.filter _, fun p hp => h.2 p (List.mem_of_mem_filter hp)⟩

/-- Values changed in place, with those that become the default taken out, keep the canonical form. -/
theorem smWf_map_filter {α : Type} [DecidableEq α] {d : α} {m : SMap α} (f : Nat × α → α) (h : smWf d m = true) :
    smWf d ((m.map fun p => (p.1, f p)).filter fun p => decide (p.2 ≠ d)) = true := by
  rw [smWf_iff] at *
  have hr : (m.map fun p => (p.1, f p)).Pairwise fun p q => p.1 < q.1 := List.pairwise_map.2 h.1
  exact ⟨hr.filter _, fun p hp => by simpa using List.of_mem_filter hp⟩

theorem smWf_mapVal {α : Type} [DecidableEq α] {d : α} {m : SMap α} (f : α → α) (h : smWf d m = true) :
    smWf d (smMapVal d m f) = true := smWf_map_filter (fun p => f p.2) h

/-- A state that differs from a canonical one in other fields is canonical; of the fabric only the ports count, of the Hold the
cache and the slots. -/
theorem canonical_frame {par arbs stp lock slips fab hold spr pln sec own ctl staged bus clk pwr fresh pending}
    (hp : fab.ports = s.fab.ports) (hc : hold.cache = s.hold.cache) (hl : hold.slots = s.hold.slots) (hs : canonical s) :
    canonical ⟨s.mem, s.hostA, s.hostB, s.nor0, s.nor1, s.cores, par, arbs, stp, lock, s.streams, slips, fab, hold, spr, pln, sec,
      own, s.queues, ctl, s.masters, staged, s.fns, s.ports, bus, clk, pwr, fresh, pending⟩ := by
  unfold canonical at *
  rw [hp, hc, hl]
  exact hs

theorem canonical_cache (hs : canonical s) : smWf BalSlot.init s.hold.cache = true := by
  obtain ⟨_, _, _, _, _, _, _, _, _, _, _, _, h, _⟩ := hs
  exact h

theorem canonical_slots (hs : canonical s) : smWf Slot.init s.hold.slots = true := by
  obtain ⟨_, _, _, _, _, _, _, _, _, _, _, _, _, h⟩ := hs
  exact h

/-- A Hold put in with a canonical cache and canonical slots. -/
theorem canonical_hold {h : Hold} (hs : canonical s) (hc : smWf BalSlot.init h.cache = true) (hl : smWf Slot.init h.slots = true) :
    canonical { s with hold := h } := by
  grind [canonical]

theorem foldl_canonical {ι : Type} {g : State → ι → State} (hg : ∀ s i, canonical s → canonical (g s i)) (l : List ι)
    (hs : canonical s) : canonical (l.foldl g s) := by
  induction l generalizing s with
  | nil => exact hs
  | cons i l ih => exact ih (hg s i hs)

theorem foldl_fst_canonical {ι κ : Type} {g : State × κ → ι → State × κ} (hg : ∀ a i, canonical a.1 → canonical (g a i).1)
    (l : List ι) {a : State × κ} (ha : canonical a.1) : canonical (l.foldl g a).1 := by
  induction l generalizing a with
  | nil => exact ha
  | cons i l ih => exact ih (hg a i ha)

/-! The operations that write a memory or a table (R38, R39, R41, R368). -/

theorem setCoreAt_canonical (k x) (hs : canonical s) : canonical (setCoreAt s k x) := by
  simp_all [setCoreAt, canonical, smSet_wf]

theorem setQueue_canonical (q x) (hs : canonical s) : canonical (setQueue s q x) := by
  simp_all [setQueue, canonical, smSet_wf]

theorem setFn_canonical (l x) (hs : canonical s) : canonical (setFn s l x) := by
  simp_all [setFn, canonical, smSet_wf]

theorem setMgmt_canonical (p x) (hs : canonical s) : canonical (setMgmt s p x) := by
  simp_all [setMgmt, canonical, smSet_wf]

theorem setStream_canonical (k x) (hs : canonical s) : canonical (setStream s k x) := by
  simp_all [setStream, canonical, smSet_wf]

theorem setMaster_canonical (m x) (hs : canonical s) : canonical (setMaster s m x) := by
  simp_all [setMaster, canonical, smSet_wf]

theorem setPort_canonical (p x) (hs : canonical s) : canonical (setPort s p x) := by
  simp_all [setPort, canonical, smSet_wf]

theorem setSlot_canonical (i x) (hs : canonical s) : canonical (setSlot s i x) := by
  simp_all [setSlot, canonical, smSet_wf]

theorem setSlotB_canonical (i x) (hs : canonical s) : canonical (setSlotB s i x) := by
  simp_all [setSlotB, canonical, smSet_wf]

theorem countLost_canonical (p) (hs : canonical s) : canonical (countLost s p) := by
  simp_all [countLost, canonical, smSet_wf]

theorem wrMem_canonical (a b) (hs : canonical s) : canonical (wrMem s a b) := by
  simp_all [wrMem, canonical, Memory.wf_wr]

theorem zeroMem_canonical (a n) (hs : canonical s) : canonical (zeroMem s a n) := by
  simp_all [zeroMem, canonical, Memory.wf_delRange]

theorem wrHost_canonical (link a b) (hs : canonical s) : canonical (wrHost s link a b) := by
  cases link <;> simp_all [wrHost, canonical, Memory.wf_wr]

theorem wrNor0_canonical (a b) (hs : canonical s) : canonical (wrNor0 s a b) := by
  simp_all [wrNor0, canonical, wrD_wf]

theorem wrNor1_canonical (a b) (hs : canonical s) : canonical (wrNor1 s a b) := by
  simp_all [wrNor1, canonical, wrD_wf]

theorem discardIntake_canonical (hs : canonical s) : canonical (discardIntake s) := by
  obtain ⟨hm, ha, hb, h0, h1, hc, ht, h⟩ := hs
  exact ⟨hm, ha, hb, h0, h1, hc, smWf_map_filter _ ht, h⟩

theorem discardQueues_canonical (hs : canonical s) : canonical (discardQueues s) := by
  simp_all [discardQueues, canonical, smWf_mapVal]

theorem freshMarks_canonical (hs : canonical s) : canonical (freshMarks s) := by
  simp_all [freshMarks, canonical, smWf_mapVal]

theorem emptyUnits_canonical (hs : canonical s) : canonical (emptyUnits s) := by
  simp_all [emptyUnits, canonical, smWf_mapVal]

theorem emptySlots_canonical (hs : canonical s) : canonical (emptySlots s) :=
  canonical_hold hs (canonical_cache hs) (smWf_nil _)

theorem eraseHold_canonical (hs : canonical s) : canonical (eraseHold s) :=
  canonical_hold hs (canonical_cache hs) (smWf_nil _)

/-! Operations built on them: cores, events, tokens and job entries (R10, R169, R351, R409, R423, R432). -/

theorem setCore_canonical (c x) (hs : canonical s) : canonical (setCore s c x) := setCoreAt_canonical _ _ hs

theorem updCore_canonical (c f) (hs : canonical s) : canonical (updCore s c f) := setCore_canonical _ _ hs

theorem wrOpen_canonical (l) (hs : canonical s) : canonical (wrOpen s l) :=
  foldl_canonical (by exact fun _ _ => wrMem_canonical _ _) _ hs

theorem msixSend_canonical (link v) (hs : canonical s) : canonical (msixSend s link v) := by
  unfold msixSend
  extract_lets f
  split
  · exact setFn_canonical _ _ hs
  · exact canonical_frame rfl rfl rfl hs

theorem evqSignal_canonical (q) (hs : canonical s) : canonical (evqSignal s q) := by
  unfold evqSignal
  extract_lets x
  split
  · exact hs
  · exact msixSend_canonical _ _ (setQueue_canonical _ _ hs)

theorem evqPush_canonical (q e) (hs : canonical s) : canonical (evqPush s q e).1 := by
  unfold evqPush
  extract_lets x addr s1
  have h1 : canonical s1 := setQueue_canonical _ _ (wrHost_canonical _ _ _ hs)
  split
  · exact setQueue_canonical _ _ hs
  · split
    · exact setQueue_canonical _ _ hs
    · change canonical (ite _ _ _)
      split
      · exact evqSignal_canonical _ h1
      · exact h1

theorem mgmtPush_canonical (p e) (hs : canonical s) : canonical (mgmtPush s p e).1 := by
  grind [mgmtPush, canonical_frame, setMgmt_canonical]

theorem gather_canonical {offer : State → Nat → State × List Event} (ho : ∀ s i, canonical s → canonical (offer s i).1) (a i)
    (ha : canonical a.1) : canonical (gather offer a i).1 := ho _ i ha

theorem deliver_canonical (e) (hs : canonical s) : canonical (deliver s e).1 := by
  unfold deliver
  split
  · exact hs
  · extract_lets qs r1
    have h1 : canonical r1.1 := foldl_fst_canonical (gather_canonical fun _ q => evqPush_canonical q e) _ hs
    split
    · exact foldl_fst_canonical (gather_canonical fun _ p => mgmtPush_canonical p e) _ h1
    · exact h1

theorem deliverRounds_canonical (n es) (hs : canonical s) : canonical (deliverRounds n es s) := by
  induction n generalizing es s with
  | zero => exact hs
  | succ n ih => exact ih _ (foldl_fst_canonical (by exact fun _ e => deliver_canonical e) es hs)

theorem raise_canonical (code src payload) (hs : canonical s) : canonical (raise s code src payload) :=
  deliverRounds_canonical _ _ hs

theorem raiseEvent_canonical (e) (hs : canonical s) : canonical (raiseEvent s e) := raise_canonical _ _ _ hs

theorem raiseDma_canonical (link t addr) (hs : canonical s) : canonical (raiseDma s link t addr) := raiseEvent_canonical _ hs

theorem wrUnit_canonical (src l) (hs : canonical s) : canonical (wrUnit s src l) := by
  grind [wrUnit, wrOpen_canonical, raise_canonical]

theorem signalCtr_canonical (c ctr) (hs : canonical s) : canonical (signalCtr s c ctr) := by
  unfold signalCtr
  extract_lets x v
  split
  · exact raise_canonical _ _ _ hs
  · exact setCore_canonical _ _ hs

theorem signalField_canonical (c f) (hs : canonical s) : canonical (signalField s c f) := by
  grind [signalField, signalCtr_canonical]

theorem signalRemote_canonical (w) (hs : canonical s) : canonical (signalRemote s w) := by
  grind [signalRemote, signalCtr_canonical]

theorem finalRecord_canonical (c r addr) (hs : canonical s) : canonical (finalRecord s c r addr) :=
  foldl_canonical (by grind [raise_canonical, setCore_canonical]) _ (updCore_canonical c _ hs)

theorem queueLocation_canonical (unit addr cause) (hs : canonical s) : canonical (queueLocation s unit addr cause) := by
  unfold queueLocation
  split
  · exact raise_canonical _ _ _ (canonical_frame rfl rfl rfl hs)
  · exact raise_canonical _ _ _ (canonical_frame rfl rfl rfl hs)

theorem jobDone_canonical (j status code) (hs : canonical s) : canonical (jobDone s j status code) := by
  unfold jobDone
  split
  · exact raise_canonical _ _ _ hs
  · exact hs

theorem endControl_canonical (j status code) (hs : canonical s) : canonical (endControl s j status code) :=
  jobDone_canonical _ _ _ (canonical_frame rfl rfl rfl hs)

theorem endFree_canonical (j status code) (hs : canonical s) : canonical (endFree s j status code) :=
  jobDone_canonical _ _ _ (canonical_frame rfl rfl rfl hs)

theorem raiseJobInvalid_canonical (j) (hs : canonical s) : canonical (raiseJobInvalid s j) := raise_canonical _ _ _ hs

theorem bumpFresh_canonical (hs : canonical s) : canonical (bumpFresh s) := canonical_frame rfl rfl rfl hs

/-! Clock islands and the governor. -/

theorem setIsland_canonical (i x) (hs : canonical s) : canonical (setIsland s i x) := canonical_frame rfl rfl rfl hs

theorem askMode_canonical (i m) (hs : canonical s) : canonical (askMode s i m) := canonical_frame rfl rfl rfl hs

theorem askRun_canonical (hs : canonical s) : canonical (askRun s) := foldl_canonical (fun _ i => askMode_canonical i _) _ hs

theorem askSleep_canonical (hs : canonical s) : canonical (askSleep s) := foldl_canonical (fun _ i => askMode_canonical i _) _ hs

theorem askClock_canonical (i a) (hs : canonical s) : canonical (askClock s i a) := by
  grind [askClock, canonical_frame]

theorem admitClock_canonical (i a) (hs : canonical s) : canonical (admitClock s i a) := setIsland_canonical i _ hs

theorem finishSwitches_canonical (hs : canonical s) : canonical (finishSwitches s) := canonical_frame rfl rfl rfl hs

theorem askStart_canonical (c) (hs : canonical s) : canonical (askStart s c) := by
  grind [askStart, canonical_frame, setCore_canonical]

theorem coreIdle_canonical (c) (hs : canonical s) : canonical (coreIdle s c) := by
  grind [coreIdle, canonical_frame, setCore_canonical, askStart_canonical]

theorem askSource_canonical (i gen) (hs : canonical s) : canonical (askSource s i gen) := by
  grind [askSource, canonical_frame, setIsland_canonical, askClock_canonical]

theorem forceSwitch_canonical (i) (hs : canonical s) : canonical (forceSwitch s i) := by
  grind [forceSwitch, canonical_frame, setIsland_canonical, raise_canonical]

theorem applyClocks_canonical (hs : canonical s) : canonical (applyClocks s) :=
  foldl_canonical (by grind [askClock_canonical, setIsland_canonical]) _ hs

theorem lockGenerators_canonical (hs : canonical s) : canonical (lockGenerators s) :=
  foldl_canonical (by grind [askClock_canonical, setIsland_canonical]) _ hs

theorem settleIslands_canonical (hs : canonical s) : canonical (settleIslands s) := by
  have h (l : List IslandId) {s} (h : canonical s) : canonical (l.foldl (fun s i => askMode s i modeDeep) s) :=
    foldl_canonical (fun _ i => askMode_canonical i _) l h
  grind [settleIslands, canonical_frame, applyClocks_canonical, lockGenerators_canonical, askRun_canonical]

/-! Sending on the fabric. -/

theorem raiseLost_canonical (dst) (hs : canonical s) : canonical (raiseLost s dst) := raise_canonical _ _ _ hs

theorem sendTxn_canonical (rail t why) (hs : canonical s) : canonical (sendTxn s rail t why).1 := by
  grind [sendTxn, canonical_frame, raiseLost_canonical, raise_canonical, countLost_canonical]

theorem sendAnswer_canonical (rail req ty fields data) (hs : canonical s) :
    canonical (sendAnswer s rail req ty fields data) := by
  grind [sendAnswer, canonical_frame]

theorem sendComplOn_canonical (rail req status) (hs : canonical s) : canonical (sendComplOn s rail req status) :=
  sendAnswer_canonical _ _ _ _ _ hs

theorem sendCompl_canonical (req status) (hs : canonical s) : canonical (sendCompl s req status) := sendComplOn_canonical _ _ _ hs

theorem sendCctl_canonical (kind cause step tag data dst) (hs : canonical s) :
    canonical (sendCctl s kind cause step tag data dst).1 := sendTxn_canonical _ _ _ hs

theorem sendCctlAll_canonical (kind cause step tag data dsts) (hs : canonical s) :
    canonical (sendCctlAll s kind cause step tag data dsts).1 :=
  foldl_fst_canonical (by exact fun _ _ => sendCctl_canonical _ _ _ _ _ _) _ hs

/-! The step machine, its log and its aborts. -/

theorem enterState_canonical (x) (hs : canonical s) : canonical (enterState s x) := by
  grind [enterState, canonical_frame]

theorem settleState_canonical (x) (hs : canonical s) : canonical (settleState s x) := by
  grind [settleState, canonical_frame, enterState_canonical]

theorem mirrored_canonical (hs : canonical s) : canonical (mirrored s) := by
  grind [mirrored, canonical_frame]

theorem sendPutsOn_canonical (rail dst why cls parts) (hs : canonical s) : canonical (sendPutsOn s rail dst why cls parts).1 :=
  foldl_fst_canonical (by exact fun _ _ => sendTxn_canonical _ _ _) _ hs

theorem sendPuts_canonical (dst why cls parts) (hs : canonical s) : canonical (sendPuts s dst why cls parts) :=
  sendPutsOn_canonical _ _ _ _ _ hs

theorem sendLogCopy_canonical (r) (hs : canonical s) : canonical (sendLogCopy s r) := by
  grind [sendLogCopy, sendPuts_canonical]

theorem loseCover_canonical (seq i) (hs : canonical s) : canonical (loseCover s seq i) := by
  grind [loseCover, canonical_frame, raise_canonical, setSlot_canonical]

theorem loseReplay_canonical (seq) (hs : canonical s) : canonical (loseReplay s seq) := by
  grind [loseReplay, canonical_frame]

theorem logEvict_canonical (n need) (hs : canonical s) : canonical (logEvict n s need) := by
  induction n generalizing s with
  | zero => exact hs
  | succ n ih => grind [logEvict, canonical_frame, loseReplay_canonical, loseCover_canonical]

theorem bondProgram_canonical (n) (hs : canonical s) : canonical (bondProgram s n) := canonical_frame rfl rfl rfl hs

theorem logAppend_canonical (type step body) (hs : canonical s) : canonical (logAppend s type step body) := by
  grind [logAppend, canonical_frame, bondProgram_canonical, logEvict_canonical, sendLogCopy_canonical]

theorem endReplay_canonical (reason) (hs : canonical s) : canonical (endReplay s reason) := by
  grind [endReplay, canonical_frame, raise_canonical, logAppend_canonical]

theorem diverge_canonical (hs : canonical s) : canonical (diverge s) := by
  grind [diverge, endReplay_canonical, raise_canonical]

theorem replayPast_canonical (hs : canonical s) : canonical (replayPast s) := canonical_frame rfl rfl rfl hs

theorem replayAfter_canonical (a differs) (hs : canonical s) : canonical (replayAfter s a differs).1 := by
  unfold replayAfter
  split <;> grind [diverge_canonical, endReplay_canonical]

theorem closeAttempt_canonical (a verdict cause tally) (hs : canonical s) :
    canonical (closeAttempt s a verdict cause tally).1 := by
  grind [closeAttempt, canonical_frame, mirrored_canonical, wrMem_canonical, replayPast_canonical, replayAfter_canonical,
    logAppend_canonical]

theorem startDrain_canonical (d) (hs : canonical s) : canonical (startDrain s d) := by
  grind [startDrain, canonical_frame, setSlot_canonical]

theorem freeze_canonical (logSeq) (hs : canonical s) : canonical (freeze s logSeq) := by
  grind [freeze, canonical_frame, startDrain_canonical]

theorem nextDrain_canonical (hs : canonical s) : canonical (nextDrain s) := by
  grind [nextDrain, canonical_frame, startDrain_canonical]

theorem flip_canonical (hs : canonical s) : canonical (flip s) := by
  grind [flip, canonical_frame, mirrored_canonical]

theorem commitAttempt_canonical (a cause tally) (hs : canonical s) : canonical (commitAttempt s a cause tally) := by
  grind [commitAttempt, canonical_frame, flip_canonical, closeAttempt_canonical, raise_canonical, sendCctlAll_canonical,
    freeze_canonical, enterState_canonical, settleState_canonical, endControl_canonical]

theorem stopAttempt_canonical (a cause) (hs : canonical s) : canonical (stopAttempt s a cause) := by
  grind [stopAttempt, canonical_frame, closeAttempt_canonical, endControl_canonical, enterState_canonical]

theorem floodAbort_canonical (cause step tag from_) (hs : canonical s) : canonical (floodAbort s cause step tag from_) := by
  grind [floodAbort, canonical_frame, sendCctlAll_canonical]

theorem enterAbort_canonical (a cause) (hs : canonical s) : canonical (enterAbort s a cause) := by
  grind [enterAbort, canonical_frame, enterState_canonical, discardIntake_canonical, discardQueues_canonical,
    floodAbort_canonical]

theorem endAbandon_canonical (l) (hs : canonical s) : canonical (endAbandon s l) := by
  grind [endAbandon, canonical_frame, logAppend_canonical, raise_canonical, endControl_canonical, enterState_canonical]

theorem decideAbandon_canonical (l) (hs : canonical s) : canonical (decideAbandon s l) := by
  grind [decideAbandon, sendCctlAll_canonical, endAbandon_canonical]

theorem lockCause_canonical (hs : canonical s) : canonical (lockCause s) := by
  grind [lockCause, canonical_frame, decideAbandon_canonical, sendCctl_canonical]

theorem startAbort_canonical (cause) (hs : canonical s) : canonical (startAbort s cause) := by
  grind [startAbort, canonical_frame, lockCause_canonical, enterAbort_canonical]

theorem epochFault_canonical (hs : canonical s) : canonical (epochFault s) := by
  grind [epochFault, startAbort_canonical, raise_canonical]

theorem sequenceFault_canonical (hs : canonical s) : canonical (sequenceFault s) := by
  grind [sequenceFault, startAbort_canonical, raise_canonical]

theorem takeLanded_canonical (t) (hs : canonical s) : canonical (takeLanded s t) := canonical_frame rfl rfl rfl hs

theorem sendJob_canonical (kind cause step tag data dsts) (hs : canonical s) :
    canonical (sendJob s kind cause step tag data dsts) := by
  grind [sendJob, sendCctlAll_canonical, startAbort_canonical]

theorem answerDoe_canonical (fn type status code body) (hs : canonical s) :
    canonical (answerDoe s fn type status code body) := by
  grind [answerDoe, canonical_frame, raise_canonical]

theorem answerLoads_canonical (status code) (hs : canonical s) : canonical (answerLoads s status code) := by
  grind [answerLoads, canonical_frame, answerDoe_canonical, setFn_canonical]

theorem failApply_canonical (hs : canonical s) : canonical (failApply s) := by
  grind [failApply, canonical_frame, answerLoads_canonical, raise_canonical]

theorem dataLoss_canonical (unit addr) (hs : canonical s) : canonical (dataLoss s unit addr) := by
  grind [dataLoss, failApply_canonical, startAbort_canonical, raise_canonical]

theorem loadImages_canonical (hs : canonical s) : canonical (loadImages s) := foldl_canonical (fun _ _ => wrMem_canonical _ _) _ hs

theorem stateWriteRejected_canonical (src) (hs : canonical s) : canonical (stateWriteRejected s src) := by
  grind [stateWriteRejected, startAbort_canonical, raise_canonical]

/-! Checks of operands. -/

theorem failCheck_canonical (c code k) (hs : canonical s) : canonical (failCheck s c code k) := by
  cases k <;> grind [failCheck, raise_canonical, stateWriteRejected_canonical]

/-! The berth sequencer. -/

theorem reachMark_canonical (c) (hs : canonical s) : canonical (reachMark s c) := by
  grind [reachMark, canonical_frame, setCore_canonical]

theorem issueNext_canonical (c) (hs : canonical s) : canonical (issueNext s c) := by
  grind [issueNext, canonical_frame, reachMark_canonical, setCore_canonical, askStart_canonical]

theorem passView_canonical (hs : canonical s) : canonical (passView s) := canonical_frame rfl rfl rfl hs

theorem testLoss_canonical (c) (hs : canonical s) : canonical (testLoss s c) := by
  grind [testLoss, canonical_frame, updCore_canonical]

theorem markEffect_canonical (c kind) (hs : canonical s) : canonical (markEffect s c kind) := by
  grind [markEffect, canonical_frame, reachMark_canonical, setCore_canonical, raise_canonical, testLoss_canonical,
    passView_canonical, signalField_canonical]

/-! Collectives. -/

theorem sendMsg_canonical (c ord d x k dst b scale) (hs : canonical s) : canonical (sendMsg s c ord d x k dst b scale).1 := by
  unfold sendMsg
  extract_lets parts id r
  have hr : canonical r.1 := foldl_fst_canonical (by exact fun _ _ => sendTxn_canonical _ _ _) _ hs
  grind [startAbort_canonical]

theorem sendFor_canonical (c run x k dst b scale) (hs : canonical s) : canonical (sendFor s c run x k dst b scale).1 := by
  grind [sendFor, canonical_frame, sendMsg_canonical]

theorem sendDown_canonical (c run x k b scale) (hs : canonical s) : canonical (sendDown s c run x k b scale).1 :=
  foldl_fst_canonical (fun a m => sendFor_canonical c a.2 x k m b scale) _ hs

theorem deliverChunk_canonical (run lo v) (hs : canonical s) : canonical (deliverChunk s run lo v).1 := by
  grind [deliverChunk, canonical_frame, wrMem_canonical]

theorem writeResidues_canonical (d lo p) (hs : canonical s) : canonical (writeResidues s d lo p) := by
  grind [writeResidues, canonical_frame, wrMem_canonical]

theorem pumpUp_canonical (c x run k) (hs : canonical s) : canonical (pumpUp s c x run k).1 := by
  grind [pumpUp, canonical_frame, sendFor_canonical, writeResidues_canonical, sendDown_canonical, deliverChunk_canonical]

theorem pumpDown_canonical (c x run k) (hs : canonical s) : canonical (pumpDown s c x run k).1 := by
  grind [pumpDown, canonical_frame, sendDown_canonical, deliverChunk_canonical]

theorem pumpBytes_canonical (c x run k) (hs : canonical s) : canonical (pumpBytes s c x run k).1 := by
  grind [pumpBytes, canonical_frame, sendDown_canonical, wrMem_canonical]

theorem pumpRing_canonical (c x run) (hs : canonical s) : canonical (pumpRing s c x run).1 := by
  grind [pumpRing, canonical_frame, sendFor_canonical, updCore_canonical, wrMem_canonical]

theorem pumpRun_canonical (c run) (hs : canonical s) : canonical (pumpRun s c run).1 := by
  unfold pumpRun
  split
  · exact hs
  · split
    · exact pumpRing_canonical _ _ _ hs
    · exact foldl_fst_canonical (by grind [pumpUp_canonical, pumpDown_canonical, pumpBytes_canonical]) _ hs

theorem pumpCore_canonical (c) (hs : canonical s) : canonical (pumpCore s c) :=
  foldl_canonical (by grind [pumpRun_canonical, updCore_canonical]) _ hs

theorem spoilSlot_canonical (c x seq) (hs : canonical s) : canonical (spoilSlot s c x seq) := by
  unfold spoilSlot
  split
  · exact hs
  · exact bumpFresh_canonical (foldl_canonical (fun _ _ => wrMem_canonical _ _) _ hs)

theorem recvReduce_canonical (c t) (hs : canonical s) : canonical (recvReduce s c t) := by
  grind [recvReduce, canonical_frame, takeLanded_canonical, sendComplOn_canonical, epochFault_canonical, sequenceFault_canonical,
    spoilSlot_canonical, pumpCore_canonical, setCore_canonical]

theorem failCol_canonical (c k) (hs : canonical s) : canonical (failCol s c k) := by
  have h1 := failCheck_canonical c 0x5001 k hs
  cases k <;> grind [failCol, startAbort_canonical]

theorem launchCol_canonical (c run x) (hs : canonical s) : canonical (launchCol s c run x) := by
  grind [launchCol, canonical_frame, updCore_canonical, pumpCore_canonical]

theorem breakOrder_canonical (c bad) (hs : canonical s) : canonical (breakOrder s c bad) := by
  grind [breakOrder, canonical_frame, startAbort_canonical, raise_canonical, updCore_canonical]

theorem beginCol_canonical (c e rest d x) (hs : canonical s) : canonical (beginCol s c e rest d x) := by
  grind [beginCol, canonical_frame, breakOrder_canonical, setCore_canonical, launchCol_canonical]

theorem startCol_canonical (cop c) (hs : canonical s) : canonical (startCol cop s c) := by
  unfold startCol
  extract_lets y
  split
  · exact hs
  · split
    · exact hs
    · extract_lets d
      split
      · exact hs
      · split
        · exact beginCol_canonical _ _ _ _ _ hs
        · exact failCol_canonical _ _ (setCore_canonical _ _ hs)

theorem endJob_canonical (j) (hs : canonical s) : canonical (endJob s j) := by
  unfold endJob
  split
  · exact canonical_frame rfl rfl rfl hs
  · exact hs

theorem completeCol_canonical (c slot) (hs : canonical s) : canonical (completeCol s c slot) := by
  grind [completeCol, canonical_frame, pumpCore_canonical, setCore_canonical, signalField_canonical, finalRecord_canonical,
    wrMem_canonical, endJob_canonical, bumpFresh_canonical]

theorem ringCredit_canonical (c sched round seq) (hs : canonical s) : canonical (ringCredit s c sched round seq) := by
  grind [ringCredit, canonical_frame, updCore_canonical, pumpCore_canonical]

/-! Verdicts, tallies and their messages. -/

theorem pumpAll_canonical (hs : canonical s) : canonical (pumpAll s) := foldl_canonical (fun _ _ => pumpCore_canonical _) _ hs

theorem setAtt_canonical (a) (hs : canonical s) : canonical (setAtt s a) := canonical_frame rfl rfl rfl hs

theorem noCommit_canonical (a cause) (hs : canonical s) : canonical (noCommit s a cause) := by
  grind [noCommit, canonical_frame, closeAttempt_canonical, raise_canonical, settleState_canonical, enterState_canonical,
    endControl_canonical]

theorem decideVerdict_canonical (hs : canonical s) : canonical (decideVerdict s) := by
  grind [decideVerdict, canonical_frame, setAtt_canonical, noCommit_canonical]

theorem tryVerdictUp_canonical (hs : canonical s) : canonical (tryVerdictUp s) := by
  grind [tryVerdictUp, canonical_frame, sendJob_canonical, setAtt_canonical, decideVerdict_canonical]

theorem keepTxn_canonical (t) (hs : canonical s) : canonical (keepTxn s t) := canonical_frame rfl rfl rfl hs

theorem setEnded_canonical (e) (hs : canonical s) : canonical (setEnded s e) := canonical_frame rfl rfl rfl hs

theorem takeVerdictUp_canonical (t) (hs : canonical s) : canonical (takeVerdictUp s t) := by
  grind [takeVerdictUp, canonical_frame, sequenceFault_canonical, setEnded_canonical, tryVerdictUp_canonical, setAtt_canonical]

theorem takeVerdictDown_canonical (t) (hs : canonical s) : canonical (takeVerdictDown s t) := by
  grind [takeVerdictDown, canonical_frame, sequenceFault_canonical, setEnded_canonical, setAtt_canonical, decideVerdict_canonical,
    sendJob_canonical]

theorem takeAbort_canonical (hs : canonical s) : canonical (takeAbort s) := by
  grind [takeAbort, startAbort_canonical]

theorem decideTally_canonical (hs : canonical s) : canonical (decideTally s) := by
  grind [decideTally, canonical_frame, commitAttempt_canonical, setAtt_canonical, raise_canonical, stopAttempt_canonical]

theorem takeTally_canonical (t) (hs : canonical s) : canonical (takeTally s t) := by
  grind [takeTally, canonical_frame, sequenceFault_canonical, setEnded_canonical, decideTally_canonical, setAtt_canonical]

theorem startTally_canonical (a d k0) (hs : canonical s) : canonical (startTally s a d k0) := by
  unfold startTally
  extract_lets me s1 f r
  have hr : canonical r.1 := foldl_fst_canonical (by exact fun _ _ => sendTxn_canonical _ _ _) _ (setAtt_canonical _ hs)
  grind [startAbort_canonical, decideTally_canonical]

theorem recvTagged_canonical (t tag) {take : State → State} (ht : ∀ s, canonical s → canonical (take s)) (hs : canonical s) :
    canonical (recvTagged s t tag take) := by
  grind [recvTagged, takeLanded_canonical, sendCompl_canonical, keepTxn_canonical, epochFault_canonical]

theorem recvAbort_canonical (t) (hs : canonical s) : canonical (recvAbort s t) := by
  grind [recvAbort, canonical_frame, takeLanded_canonical, sendCompl_canonical, epochFault_canonical, floodAbort_canonical,
    takeAbort_canonical, keepTxn_canonical]

theorem recvCommit_canonical (t) (hs : canonical s) : canonical (recvCommit s t) := by
  grind [recvCommit, canonical_frame, takeLanded_canonical, sendCompl_canonical, epochFault_canonical, pumpAll_canonical]

theorem takeKept_canonical (hs : canonical s) : canonical (takeKept s) :=
  foldl_canonical (by grind [takeTally_canonical, epochFault_canonical, takeVerdictUp_canonical, takeVerdictDown_canonical,
    takeAbort_canonical]) _
    (canonical_frame rfl rfl rfl hs)

theorem repairWrites_canonical (copies) (hs : canonical s) : canonical (repairWrites s copies) :=
  foldl_canonical (fun _ _ h => wrMem_canonical _ _ (wrMem_canonical _ _ h)) _ hs

/-! The Ballast. -/

theorem addVersion_canonical (v) (hs : canonical s) : canonical (addVersion s v) := canonical_frame rfl rfl rfl hs

theorem writeBackHalf_canonical (i half) (hs : canonical s) : canonical (writeBackHalf s i half) := by
  grind [writeBackHalf, canonical_frame, addVersion_canonical]

theorem openBatch_canonical (hs : canonical s) {u : State} (e : openBatch s = some u) : canonical u := by
  grind [openBatch, canonical_frame]

theorem forceHalf_canonical {i half} (hs : canonical s) {u : State} (e : forceHalf s i half = some u) : canonical u := by
  obtain ⟨s1, h1, rfl⟩ := Option.map_eq_some_iff.1 e
  exact canonical_frame rfl rfl rfl (writeBackHalf_canonical i half (openBatch_canonical hs h1))

/-- The write-backs that make room for a row. -/
theorem foldl_forceHalf_canonical {i} {l : List Nat} (hs : canonical s) {u : State}
    (e : l.foldl (fun (r : Option State) h => r.bind fun s => forceHalf s i h) (some s) = some u) : canonical u := by
  have hn (l : List Nat) : l.foldl (fun (r : Option State) h => r.bind fun s => forceHalf s i h) none = none := by
    induction l <;> simp_all
  induction l generalizing s with
  | nil => exact Option.some.inj e ▸ hs
  | cons h l ih =>
    cases hf : forceHalf s i h with
    | some s1 => exact ih (forceHalf_canonical hs hf) (by simpa [hf] using e)
    | none => simp [hf, hn] at e

theorem closeBatch_canonical (hs : canonical s) : canonical (closeBatch s) := canonical_frame rfl rfl rfl hs

theorem writeBackRow_canonical (row) (hs : canonical s) : canonical (writeBackRow s row) := by
  unfold writeBackRow
  split
  · exact hs
  · have h {i k u} := forceHalf_canonical (i := i) (half := k) (u := u) hs
    grind [closeBatch_canonical, raise_canonical, writeBackHalf_canonical]

theorem fillSlot_canonical (i row) (hs : canonical s) : canonical (fillSlot s i row) := by
  grind [fillSlot, canonical_frame, setSlotB_canonical, wrMem_canonical]

theorem pageRow_canonical (list row) (hs : canonical s) : canonical (pageRow s list row).1 := by
  unfold pageRow
  split
  · exact setSlotB_canonical _ _ hs
  · extract_lets used k
    split
    · exact fillSlot_canonical _ _ hs
    · split
      · exact hs
      · extract_lets halves
        split
        · exact fillSlot_canonical _ _ hs
        · split
          · next e => exact fillSlot_canonical _ _ (foldl_forceHalf_canonical hs e)
          · exact hs

theorem pageRows_canonical (list rows) (hs : canonical s) : canonical (pageRows list rows s).1 := by
  induction rows generalizing s with
  | nil => exact hs
  | cons r rs ih => grind [pageRows, pageRow_canonical]

theorem pageIn_canonical (hs : canonical s) : canonical (pageIn s) := by
  grind [pageIn, canonical_frame, pageRows_canonical, closeBatch_canonical, raise_canonical]

theorem updateBallast_canonical (a) (hs : canonical s) : canonical (updateBallast s a) := by
  unfold updateBallast
  split
  · exact hs
  · exact foldl_canonical (by grind [wrMem_canonical, setSlotB_canonical]) _ hs

theorem refillBucket_canonical (ms) (hs : canonical s) : canonical (refillBucket s ms) := canonical_frame rfl rfl rfl hs

/-! Control entries. -/

theorem takeHead_canonical (j) (hs : canonical s) : canonical (takeHead s j) := canonical_frame rfl rfl rfl hs

theorem rejectHead_canonical (j) (hs : canonical s) : canonical (rejectHead s j) := by
  grind [rejectHead, canonical_frame, jobDone_canonical, raiseJobInvalid_canonical]

theorem writeEntry_canonical (j) (hs : canonical s) : canonical (writeEntry s j) :=
  foldl_canonical (fun _ _ => wrMem_canonical _ _) _ hs

theorem relocate_canonical (hs : canonical s) : canonical (relocate s) := foldl_canonical (by grind [wrMem_canonical]) _ hs

theorem writeExpected_canonical (hs : canonical s) : canonical (writeExpected s) := by
  unfold writeExpected
  split
  · exact hs
  · exact foldl_canonical (fun _ _ => foldl_canonical (fun _ _ => wrMem_canonical _ _) _) _ hs

theorem freshCores_canonical (hs : canonical s) : canonical (freshCores s) :=
  foldl_canonical (fun _ c => updCore_canonical c _) _ hs

theorem primeCores_canonical (j) (hs : canonical s) : canonical (primeCores s j) := by
  grind [primeCores, relocate_canonical, writeExpected_canonical, writeEntry_canonical, freshMarks_canonical,
    freshCores_canonical]

theorem rejectFree_canonical (j) (hs : canonical s) : canonical (rejectFree s j) := by
  grind [rejectFree, endFree_canonical, raiseJobInvalid_canonical]

/-! The slipways. -/

theorem setSlip_canonical (die x) (hs : canonical s) : canonical (setSlip s die x) := canonical_frame rfl rfl rfl hs

theorem feedStreams_canonical (hs : canonical s) : canonical (feedStreams s) := by
  unfold feedStreams
  split
  · exact hs
  · exact canonical_frame rfl rfl rfl (foldl_fst_canonical (by grind [setStream_canonical]) _ hs)

theorem endManifestJob_canonical (addr status code) (hs : canonical s) : canonical (endManifestJob s addr status code) := by
  grind [endManifestJob, canonical_frame, endFree_canonical]

theorem acceptManifest_canonical (die stream addr rest pass) (hs : canonical s) :
    canonical (acceptManifest s die stream addr rest pass) := by
  unfold acceptManifest
  extract_lets k x h dg m s1 s2
  have h2 : canonical s2 := wrUnit_canonical _ _ (setStream_canonical _ _ hs)
  split
  · exact canonical_frame rfl rfl rfl h2
  · exact endManifestJob_canonical _ _ _ h2
  · exact h2

theorem validateManifest_canonical (die stream) (hs : canonical s) : canonical (validateManifest s die stream) := by
  grind [validateManifest, canonical_frame, acceptManifest_canonical, diverge_canonical, setStream_canonical, raise_canonical,
    startAbort_canonical, endManifestJob_canonical]

theorem admitSample_canonical (die stream) (hs : canonical s) : canonical (admitSample s die stream) := by
  grind [admitSample, canonical_frame, setStream_canonical]

theorem grantEngine_canonical (die k e) (hs : canonical s) : canonical (grantEngine s die k e) := by
  grind [grantEngine, canonical_frame, setStream_canonical, setSlip_canonical]

theorem endDecode_canonical (die k e fetched) (hs : canonical s) : canonical (endDecode s die k e fetched) := by
  grind [endDecode, canonical_frame, setSlip_canonical, setStream_canonical]

theorem raiseSampleDma_canonical (die k e) (hs : canonical s) : canonical (raiseSampleDma s die k e) := raiseDma_canonical _ _ _ hs

theorem finishSample_canonical (die k e fetched) (hs : canonical s) : canonical (finishSample s die k e fetched) := by
  grind [finishSample, endDecode_canonical, raiseSampleDma_canonical]

theorem noteRelease_canonical (die stream pass m rec_) (hs : canonical s) :
    canonical (noteRelease s die stream pass m rec_) := by
  grind [noteRelease, canonical_frame]

theorem releaseWrites_canonical (src h m writes rec_) (hs : canonical s) : canonical (releaseWrites s src h m writes rec_) :=
  wrUnit_canonical _ _ hs

theorem releaseTell_canonical (die stream h m o) (hs : canonical s) : canonical (releaseTell s die stream h m o) := by
  grind [releaseTell, canonical_frame, signalRemote_canonical, raise_canonical, setStream_canonical]

theorem releaseSample_canonical (die stream) (hs : canonical s) : canonical (releaseSample s die stream) := by
  grind [releaseSample, canonical_frame, releaseWrites_canonical, setStream_canonical, noteRelease_canonical,
    feedStreams_canonical, releaseTell_canonical]

/-! The running attempt. -/

theorem passOne_canonical (x) (hs : canonical s) : canonical (passOne s x) := by
  grind [passOne, canonical_frame, mirrored_canonical, logAppend_canonical]

theorem passOver_canonical (step) (hs : canonical s) : canonical (passOver s step) := by
  have h1 (l : List LogRec) : canonical (l.foldl passOne s) := foldl_canonical (fun _ r => passOne_canonical r) l hs
  grind [passOver, canonical_frame, endReplay_canonical, diverge_canonical]

theorem rejectStep_canonical (j) (hs : canonical s) : canonical (rejectStep s j) := by
  grind [rejectStep, canonical_frame, jobDone_canonical, raise_canonical]

theorem beginStep_canonical (j) (hs : canonical s) : canonical (beginStep s j) := by
  grind [beginStep, canonical_frame, takeHead_canonical, takeKept_canonical, feedStreams_canonical, primeCores_canonical]

theorem startStep_canonical (hs : canonical s) : canonical (startStep s) := by
  grind [startStep, canonical_frame, rejectHead_canonical, rejectStep_canonical, beginStep_canonical, passOver_canonical,
    diverge_canonical]

theorem startRun_canonical (c) (hs : canonical s) : canonical (startRun s c) := by
  grind [startRun, canonical_frame, wrMem_canonical, setCore_canonical, passView_canonical, reachMark_canonical]

theorem programFinal_canonical (c exc) (hs : canonical s) : canonical (programFinal s c exc) := by
  grind [programFinal, finalRecord_canonical, bumpFresh_canonical]

theorem finalise_canonical (r) (hs : canonical s) : canonical (finalise s r) := by
  grind [finalise, programFinal_canonical, wrMem_canonical]

theorem launchJob_canonical (c d job) (hs : canonical s) : canonical (launchJob s c d job).1 := by
  grind [launchJob, canonical_frame, breakOrder_canonical, launchCol_canonical, setCore_canonical]

theorem startJobs_canonical (a) (hs : canonical s) : canonical (startJobs s a) := by
  unfold startJobs
  extract_lets r
  have hr : canonical r.1 := foldl_fst_canonical (by grind [launchJob_canonical]) _ hs
  grind [setAtt_canonical]

theorem startNorm_canonical (a) (hs : canonical s) : canonical (startNorm s a) := by
  have h1 : canonical (a.grads.foldl finalise s) := foldl_canonical (fun _ r => finalise_canonical r) _ hs
  unfold startNorm
  generalize a.grads.foldl finalise s = s1 at h1
  grind [programFinal_canonical, setAtt_canonical, endJob_canonical, launchJob_canonical, breakOrder_canonical]

theorem stageNext_canonical (hs : canonical s) : canonical (stageNext s) := by
  grind [stageNext, canonical_frame, startJobs_canonical, decideVerdict_canonical, startNorm_canonical]

theorem replicaReduce_canonical (rs normSeq) (hs : canonical s) : canonical (replicaReduce s rs normSeq) := by
  grind [replicaReduce, canonical_frame, setAtt_canonical, stageNext_canonical, tryVerdictUp_canonical]

theorem foldl_programFinal_canonical (l : List ExcRec) (c : State → CoreId) (hs : canonical s) :
    canonical (l.foldl (fun s e => programFinal s (c s) e) s) := foldl_canonical (fun _ e => programFinal_canonical _ e) l hs

theorem countShard_canonical (es ops rs) (hs : canonical s) : canonical (countShard s es ops rs) := by
  induction rs generalizing s es with
  | nil =>
    unfold countShard
    split
    · exact hs
    · exact foldl_programFinal_canonical _ normCore hs
  | cons r rs ih => exact ih _ (foldl_programFinal_canonical _ (fun _ => r.core) hs)

theorem updateShard_canonical (a o x) (hs : canonical s) : canonical (updateShard s a o x) :=
  countShard_canonical _ _ _ (wrMem_canonical _ _ (wrMem_canonical _ _ hs))

theorem runUpdate_canonical (a) (hs : canonical s) : canonical (runUpdate s a) := by
  unfold runUpdate
  split
  · exact hs
  · exact updateBallast_canonical a (foldl_canonical (fun _ x => updateShard_canonical a _ x) _ hs)

theorem startUpdate_canonical (hs : canonical s) : canonical (startUpdate s) := by
  grind [startUpdate, canonical_frame, raise_canonical, runUpdate_canonical]

theorem completeUpdate_canonical (hs : canonical s) : canonical (completeUpdate s) := by
  grind [completeUpdate, canonical_frame, startTally_canonical]

theorem completeRepair_canonical (copies lost) (hs : canonical s) : canonical (completeRepair s copies lost) := by
  grind [completeRepair, canonical_frame, stopAttempt_canonical, repairWrites_canonical, commitAttempt_canonical, raise_canonical]

theorem openEval_canonical (hs : canonical s) : canonical (openEval s) := by
  grind [openEval, canonical_frame, rejectHead_canonical, takeHead_canonical, takeKept_canonical, primeCores_canonical,
    endControl_canonical, logAppend_canonical]

theorem closeEval_canonical (hs : canonical s) : canonical (closeEval s) := by
  grind [closeEval, canonical_frame, rejectHead_canonical, discardQueues_canonical, takeHead_canonical, endControl_canonical,
    settleState_canonical, logAppend_canonical]

/-! The re-shard lock. -/

theorem setLock_canonical (l) (hs : canonical s) : canonical (setLock s l) := canonical_frame rfl rfl rfl hs

theorem sendLock_canonical (kind members) (hs : canonical s) : canonical (sendLock s kind members) :=
  sendJob_canonical _ _ _ _ _ _ hs

theorem tryDrained_canonical (hs : canonical s) : canonical (tryDrained s) := by
  grind [tryDrained, canonical_frame, sendLock_canonical, setLock_canonical]

theorem lockDrained_canonical (hs : canonical s) : canonical (lockDrained s) := by
  grind [lockDrained, canonical_frame, tryDrained_canonical, setLock_canonical]

theorem permuteOne_canonical (p) (hs : canonical s) : canonical (permuteOne s p) := by
  grind [permuteOne, wrMem_canonical, sendPutsOn_canonical, startAbort_canonical]

theorem permutePuts_canonical (hs : canonical s) : canonical (permutePuts s) := by
  have h (l : List Permute) {s} (h : canonical s) : canonical (l.foldl permuteOne s) :=
    foldl_canonical (fun _ p => permuteOne_canonical p) l h
  grind [permutePuts, raise_canonical, setLock_canonical]

theorem writeNewTags_canonical (l) (hs : canonical s) : canonical (writeNewTags s l) :=
  foldl_canonical (fun _ _ => wrMem_canonical _ _) _ hs

theorem advanceWrite_canonical (l) (hs : canonical s) : canonical (advanceWrite s l) := by
  grind [advanceWrite, canonical_frame, mirrored_canonical]

theorem endAdvance_canonical (l) (hs : canonical s) : canonical (endAdvance s l) := by
  grind [endAdvance, canonical_frame, loadImages_canonical, advanceWrite_canonical, raise_canonical, logAppend_canonical,
    sendCctlAll_canonical, pumpAll_canonical, endControl_canonical, settleState_canonical]

theorem tryPermuted_canonical (hs : canonical s) : canonical (tryPermuted s) := by
  grind [tryPermuted, canonical_frame, sendLock_canonical, setLock_canonical, endAdvance_canonical]

theorem permuteComplete_canonical (hs : canonical s) : canonical (permuteComplete s) := by
  grind [permuteComplete, canonical_frame, tryPermuted_canonical, setLock_canonical, writeNewTags_canonical]

theorem takeDrained_canonical (m) (hs : canonical s) : canonical (takeDrained s m) := by
  grind [takeDrained, canonical_frame, tryDrained_canonical, setLock_canonical]

theorem takeClosed_canonical (m) (hs : canonical s) : canonical (takeClosed s m) := by
  grind [takeClosed, canonical_frame, sendLock_canonical, setLock_canonical]

theorem takePermuted_canonical (m) (hs : canonical s) : canonical (takePermuted s m) := by
  grind [takePermuted, canonical_frame, tryPermuted_canonical, setLock_canonical]

theorem takeAdvance_canonical (m) (hs : canonical s) : canonical (takeAdvance s m) := by
  grind [takeAdvance, canonical_frame, endAdvance_canonical, sendLock_canonical, setLock_canonical]

theorem takeAbandon_canonical (m) (hs : canonical s) : canonical (takeAbandon s m) := by
  grind [takeAbandon, canonical_frame, endAbandon_canonical, sendCctlAll_canonical]

theorem takeAbandonReq_canonical (hs : canonical s) : canonical (takeAbandonReq s) := by
  grind [takeAbandonReq, canonical_frame, decideAbandon_canonical]

theorem takeLockMsg_canonical (t) (hs : canonical s) : canonical (takeLockMsg s t) := by
  grind [takeLockMsg, canonical_frame, takeDrained_canonical, takeClosed_canonical, takePermuted_canonical, takeAdvance_canonical,
    takeAbandon_canonical, takeAbandonReq_canonical]

theorem takeKeptLock_canonical (hs : canonical s) : canonical (takeKeptLock s) := by
  unfold takeKeptLock
  split
  · exact hs
  · exact foldl_canonical (fun _ t => takeLockMsg_canonical t) _ (canonical_frame rfl rfl rfl hs)

theorem recvLock_canonical (t) (hs : canonical s) : canonical (recvLock s t) := by
  grind [recvLock, takeLanded_canonical, sendCompl_canonical, epochFault_canonical, keepTxn_canonical, takeLockMsg_canonical]

theorem recvAdvanced_canonical (t) (hs : canonical s) : canonical (recvAdvanced s t) := by
  grind [recvAdvanced, canonical_frame, takeLanded_canonical, sendCompl_canonical, epochFault_canonical, pumpAll_canonical]

theorem replayReshard_canonical (target) (hs : canonical s) : canonical (replayReshard s target) := by
  grind [replayReshard, canonical_frame, endReplay_canonical, diverge_canonical]

theorem startReshard_canonical (hs : canonical s) : canonical (startReshard s) := by
  grind [startReshard, canonical_frame, rejectHead_canonical, takeHead_canonical, replayReshard_canonical, takeKeptLock_canonical,
    setLock_canonical]

/-! Tiles. -/

theorem spillElem_canonical (t k m n) (hs : canonical s) : canonical (spillElem s t k m n).1 := by
  grind [spillElem, canonical_frame, wrMem_canonical]

theorem spillRow_canonical (t e m) (hs : canonical s) : canonical (spillRow s t e m).1 :=
  foldl_fst_canonical (fun a n => spillElem_canonical a.2 _ m n) _ hs

theorem spillNext_canonical (t) (hs : canonical s) : canonical (spillNext s t).1 := by
  grind [spillNext, canonical_frame, spillRow_canonical]

theorem spillRest_canonical (n t) (hs : canonical s) : canonical (spillRest n s t).1 := by
  induction n generalizing s t with
  | zero => exact hs
  | succ n ih => grind [spillRest, spillNext_canonical]

theorem allBlock_canonical (t) (hs : canonical s) : canonical (allBlock s t).1 := by
  unfold allBlock
  extract_lets d b t1 r
  split
  · exact hs
  · split
    · exact foldl_fst_canonical (by exact fun _ _ => spillRow_canonical _ _ _) _ hs
    · exact hs

theorem allBlocks_canonical (n t) (hs : canonical s) : canonical (allBlocks n s t).1 := by
  induction n generalizing s t with
  | zero => exact hs
  | succ n ih => exact ih _ (allBlock_canonical t hs)

theorem finishBlocks_canonical (t) (hs : canonical s) : canonical (finishBlocks s t).1 := by
  grind [finishBlocks, spillRest_canonical, allBlocks_canonical]

theorem finishArrays_canonical (c mode) (hs : canonical s) : canonical (finishArrays s c mode) :=
  updCore_canonical c _ (foldl_fst_canonical (by grind [finishBlocks_canonical]) _ hs)

theorem startTile_canonical (c) (hs : canonical s) : canonical (startTile s c) := by
  unfold startTile
  extract_lets x
  split
  · exact hs
  · split
    · exact hs
    · extract_lets d rest
      split
      · exact updCore_canonical _ _ (finishArrays_canonical _ _ hs)
      · exact failCheck_canonical _ _ _ (setCore_canonical _ _ hs)

theorem writeOutputs_canonical (t) (hs : canonical s) : canonical (writeOutputs s t).1 := by
  unfold writeOutputs
  extract_lets d o eo r s2
  have hr : canonical r.1 := foldl_fst_canonical (by exact fun _ _ => wrMem_canonical _ _) _ hs
  change canonical (ite _ _ _)
  split
  · exact foldl_canonical (by exact fun _ _ => wrMem_canonical _ _) _ hr
  · exact hr

theorem finishTile_canonical (c t) (hs : canonical s) : canonical (finishTile s c t) := by
  grind [finishTile, finishBlocks_canonical, writeOutputs_canonical, wrMem_canonical, finalRecord_canonical,
    signalField_canonical]

theorem completeTile_canonical (c m) (hs : canonical s) : canonical (completeTile s c m) := by
  grind [completeTile, canonical_frame, finishTile_canonical, setCore_canonical]

theorem spillTile_canonical (c m) (hs : canonical s) : canonical (spillTile s c m) := by
  grind [spillTile, canonical_frame, spillNext_canonical, updCore_canonical]

theorem saveDeep_canonical (t) (hs : canonical s) : canonical (saveDeep s t) := by
  unfold saveDeep
  split
  · exact foldl_canonical (fun _ _ => foldl_canonical (fun _ _ => wrMem_canonical _ _) _) _ hs
  · exact hs

theorem suspendTile_canonical (c m blocks) (hs : canonical s) : canonical (suspendTile s c m blocks) := by
  unfold suspendTile
  extract_lets x
  split
  · exact hs
  · next t _ =>
    have h1 : canonical (if t.ahead = 0 then (s, t) else spillRest t.fed.length s t).1 := by
      split
      · exact hs
      · exact spillRest_canonical _ t hs
    refine updCore_canonical c _ (wrMem_canonical _ _ (saveDeep_canonical _ ?_))
    split
    · exact allBlocks_canonical _ _ h1
    · exact foldl_canonical (by exact fun _ _ => foldl_canonical (by exact fun _ _ => wrMem_canonical _ _) _) _
        (allBlocks_canonical _ _ h1)

theorem suspendTiles_canonical (stops) (hs : canonical s) : canonical (suspendTiles s stops) :=
  foldl_canonical (fun _ _ => foldl_canonical (fun _ m => suspendTile_canonical _ m _) _) _ hs

/-! Aborts and suspension. -/

theorem nonOwnerWrite_canonical (m off) (hs : canonical s) : canonical (nonOwnerWrite s m off) := raise_canonical _ _ _ hs

theorem writeGate_canonical (m off exempt) {f : State → State} (hf : ∀ s, canonical s → canonical (f s)) (hs : canonical s) :
    canonical (writeGate s m off exempt f) := by
  grind [writeGate, nonOwnerWrite_canonical]

theorem finishAbort_canonical (hs : canonical s) : canonical (finishAbort s) := by
  grind [finishAbort, canonical_frame, closeAttempt_canonical, emptyUnits_canonical, raise_canonical, endControl_canonical,
    enterState_canonical]

theorem stepStop_canonical (hs : canonical s) : canonical (stepStop s) := by
  grind [stepStop, canonical_frame]

theorem stepResume_canonical (hs : canonical s) : canonical (stepResume s) := by
  grind [stepResume, canonical_frame]

theorem sisterSealed_canonical (slot) (hs : canonical s) : canonical (sisterSealed s slot) := by
  grind [sisterSealed, canonical_frame, setSlot_canonical]

theorem trySisterHeader_canonical (hs : canonical s) : canonical (trySisterHeader s) := by
  grind [trySisterHeader, canonical_frame, sendPuts_canonical, sisterSealed_canonical]

theorem suspendStep_canonical (stops) (hs : canonical s) : canonical (suspendStep s stops) := by
  grind [suspendStep, canonical_frame, suspendTiles_canonical]

theorem suspendWork_canonical (inSlack stops) (hs : canonical s) : canonical (suspendWork s inSlack stops) := by
  grind [suspendWork, suspendTiles_canonical, suspendStep_canonical]

theorem resumeStep_canonical (hs : canonical s) : canonical (resumeStep s) := by
  grind [resumeStep, canonical_frame, trySisterHeader_canonical, settleState_canonical, pumpAll_canonical, takeKeptLock_canonical,
    startAbort_canonical, setAtt_canonical, decideTally_canonical, decideVerdict_canonical, tryVerdictUp_canonical]

theorem discardAttempt_canonical (hs : canonical s) : canonical (discardAttempt s) := by
  grind [discardAttempt, canonical_frame, emptyUnits_canonical, discardIntake_canonical, discardQueues_canonical]

/-! Fabric ports. -/

theorem updPort_canonical (p f) (hs : canonical s) : canonical (updPort s p f) := by
  grind [updPort, setPort_canonical]

theorem returnCredit_canonical (a) (hs : canonical s) : canonical (returnCredit s a) := by
  grind [returnCredit, setPort_canonical]

theorem returnFreed_canonical (p) (hs : canonical s) : canonical (returnFreed s p) :=
  foldl_canonical (fun _ h => returnCredit_canonical h) _ (updPort_canonical p _ hs)

theorem pumpPortAt_canonical (p) (hs : canonical s) : canonical (pumpPortAt s p) := by
  grind [pumpPortAt, returnFreed_canonical, updPort_canonical]

theorem failSister_canonical (slot) (hs : canonical s) : canonical (failSister s slot) := by
  grind [failSister, canonical_frame, raise_canonical]

theorem voidRecord_canonical (why) (hs : canonical s) : canonical (voidRecord s why) := by
  unfold voidRecord
  split
  · exact canonical_frame rfl rfl rfl hs
  · exact hs

theorem voidCopies_canonical (seqs) (hs : canonical s) : canonical (voidCopies s seqs) :=
  foldl_canonical (fun _ _ => voidRecord_canonical _) _ hs

theorem forgetTxns_canonical (lost) (hs : canonical s) : canonical (forgetTxns s lost) := by
  have h1 (l : List SentFor) {s} (h : canonical s) : canonical (l.foldl voidRecord s) :=
    foldl_canonical (fun _ w => voidRecord_canonical w) l h
  have h2 (l : List Nat) {s} (h : canonical s) : canonical (l.foldl failSister s) :=
    foldl_canonical (fun _ k => failSister_canonical k) l h
  grind [forgetTxns, canonical_frame]

theorem loseLink_canonical (p expired) (hs : canonical s) : canonical (loseLink s p expired) := by
  grind [loseLink, canonical_frame, forgetTxns_canonical, returnFreed_canonical, setPort_canonical, startAbort_canonical,
    raise_canonical]

theorem losePort_canonical (p) (hs : canonical s) : canonical (losePort s p) := loseLink_canonical _ _ hs

theorem portGoesDown_canonical (p st) (hs : canonical s) : canonical (portGoesDown s p st) := by
  grind [portGoesDown, canonical_frame, setPort_canonical, raise_canonical]

theorem portDown_canonical (p) (hs : canonical s) : canonical (portDown s p) := by
  grind [portDown, canonical_frame, portGoesDown_canonical, setPort_canonical]

theorem holdExpiry_canonical (p) (hs : canonical s) : canonical (holdExpiry s p) := by
  grind [holdExpiry, canonical_frame, loseLink_canonical, setPort_canonical]

theorem narrowPort_canonical (p tell) (hs : canonical s) : canonical (narrowPort s p tell) := by
  grind [narrowPort, canonical_frame, portGoesDown_canonical, losePort_canonical, setPort_canonical]

theorem checkPeer_canonical (p) (hs : canonical s) : canonical (checkPeer s p) := by
  grind [checkPeer, canonical_frame, pumpPortAt_canonical, raise_canonical, setPort_canonical]

theorem sendIdentity_canonical (p) (hs : canonical s) : canonical (sendIdentity s p) := by
  grind [sendIdentity, setPort_canonical]

theorem checkPeers_canonical (hs : canonical s) : canonical (checkPeers s) :=
  foldl_canonical (by grind [updPort_canonical, checkPeer_canonical, sendIdentity_canonical]) _ hs

theorem tellSpares_canonical (old new p) (hs : canonical s) : canonical (tellSpares old new s p) := by
  grind [tellSpares, raise_canonical]

theorem portLinked_canonical (p peer peerPort session badTx badRx) (hs : canonical s) :
    canonical (portLinked s p peer peerPort session badTx badRx) := by
  grind [portLinked, canonical_frame, losePort_canonical, bumpFresh_canonical, setPort_canonical, tellSpares_canonical,
    sendIdentity_canonical, raise_canonical, checkPeer_canonical]

theorem stageFails_canonical (p) (hs : canonical s) : canonical (stageFails s p) := by
  grind [stageFails, canonical_frame, setPort_canonical, portGoesDown_canonical, raise_canonical]

theorem trainPort_canonical (p r) (hs : canonical s) : canonical (trainPort s p r) := by
  cases r <;> grind [trainPort, setPort_canonical, stageFails_canonical, portLinked_canonical]

theorem acceptData_canonical (p x f) (hs : canonical s) : canonical (acceptData s p x f) :=
  foldl_canonical (by grind [canonical_frame, raise_canonical]) _ (pumpPortAt_canonical p (setPort_canonical p _ hs))

theorem returnCredits_canonical (o) (hs : canonical s) : canonical (returnCredits s o) := by
  grind [returnCredits, canonical_frame, returnCredit_canonical]

theorem receiveData_canonical (p f fec) (hs : canonical s) : canonical (receiveData s p f fec) := by
  grind [receiveData, setPort_canonical, pumpPortAt_canonical, acceptData_canonical]

theorem takeLaneOp_canonical (p b) (hs : canonical s) : canonical (takeLaneOp s p b) := by
  grind [takeLaneOp, canonical_frame, setPort_canonical, narrowPort_canonical]

theorem takeIdentity_canonical (p b) (hs : canonical s) : canonical (takeIdentity s p b) := by
  grind [takeIdentity, canonical_frame, checkPeer_canonical, setPort_canonical]

theorem receiveControl_canonical (p f fec) (hs : canonical s) : canonical (receiveControl s p f fec) := by
  grind [receiveControl, setPort_canonical, pumpPortAt_canonical, takeIdentity_canonical, takeLaneOp_canonical]

theorem replayTimeout_canonical (p) (hs : canonical s) : canonical (replayTimeout s p) := by
  grind [replayTimeout, setPort_canonical]

theorem laneFail_canonical (p lane rx why) (hs : canonical s) : canonical (laneFail s p lane rx why) := by
  grind [laneFail, canonical_frame, setPort_canonical, narrowPort_canonical]

theorem swapDone_canonical (p y bad) (hs : canonical s) : canonical (swapDone s p y bad) := by
  grind [swapDone, raise_canonical, setPort_canonical, narrowPort_canonical]

theorem laneSwap_canonical (p rx) (hs : canonical s) : canonical (laneSwap s p rx) := by
  grind [laneSwap, canonical_frame, swapDone_canonical]

theorem retrainPort_canonical (p) (hs : canonical s) : canonical (retrainPort s p) := by
  grind [retrainPort, canonical_frame, setPort_canonical]

theorem disablePort_canonical (p) (hs : canonical s) : canonical (disablePort s p) := by
  grind [disablePort, canonical_frame, setPort_canonical, portGoesDown_canonical]

theorem enablePort_canonical (p) (hs : canonical s) : canonical (enablePort s p) := by
  grind [enablePort, canonical_frame, setPort_canonical]

theorem portCommand_canonical (m) {f : State → Nat → State} (hf : ∀ p, canonical (f s p)) (hs : canonical s) :
    canonical (portCommand s m f) := by
  grind [portCommand]

theorem enqueueTxn_canonical (p v t arr) (hs : canonical s) : canonical (enqueueTxn s p v t arr) := by
  grind [enqueueTxn, canonical_frame, pumpPortAt_canonical, setPort_canonical]

theorem discardTxn_canonical (p t) (hs : canonical s) : canonical (discardTxn s p t) := by
  grind [discardTxn, canonical_frame, updPort_canonical, forgetTxns_canonical, startAbort_canonical, raise_canonical]

theorem landTxn_canonical (t) (hs : canonical s) : canonical (landTxn s t) := by
  grind [landTxn, canonical_frame, bondProgram_canonical]

theorem refuseAliased_canonical (t) (hs : canonical s) : canonical (refuseAliased s t) := by
  grind [refuseAliased, raise_canonical, sendAnswer_canonical, sendCompl_canonical]

theorem routeTxn_canonical (hs : canonical s) : canonical (routeTxn s) := by
  grind [routeTxn, canonical_frame, returnCredits_canonical, refuseAliased_canonical, landTxn_canonical, discardTxn_canonical,
    raise_canonical, enqueueTxn_canonical]

theorem commitAlias_canonical (i hi) (hs : canonical s) : canonical (commitAlias s i hi) := by
  grind [commitAlias, canonical_frame, raise_canonical]

/-! Fabric transactions. -/

theorem sisterHeader_canonical (i h) (hs : canonical s) : canonical (sisterHeader s i h).1 := by
  grind [sisterHeader, canonical_frame, setSlot_canonical, bondProgram_canonical, raise_canonical]

theorem sisterBody_canonical (i off b) (hs : canonical s) : canonical (sisterBody s i off b) := by
  grind [sisterBody, canonical_frame, setSlot_canonical, bondProgram_canonical]

theorem appendSis_canonical (pos b) (hs : canonical s) : canonical (appendSis s pos b).1 := by
  grind [appendSis, canonical_frame, bondProgram_canonical]

theorem drainSis_canonical (n) (hs : canonical s) : canonical (drainSis n s).1 := by
  induction n generalizing s with
  | zero => exact hs
  | succ n ih => grind [drainSis, canonical_frame, appendSis_canonical, raise_canonical]

theorem sisterLogPart_canonical (off t) (hs : canonical s) : canonical (sisterLogPart s off t).1 := by
  unfold sisterLogPart
  split
  · exact hs
  · exact drainSis_canonical _ (canonical_frame rfl rfl rfl hs)

theorem holdPut_canonical (t a) (hs : canonical s) : canonical (holdPut s t a).1 := by
  grind [holdPut, raise_canonical, sisterHeader_canonical, sisterBody_canonical]

theorem putData_canonical (t a) (hs : canonical s) : canonical (putData s t a).1 := by
  grind [putData, canonical_frame, raise_canonical, holdPut_canonical, wrMem_canonical, setLock_canonical]

theorem endPut_canonical (t st) (hs : canonical s) : canonical (endPut s t st) := by
  grind [endPut, sendCompl_canonical, signalRemote_canonical]

theorem recvPut_canonical (t) (hs : canonical s) : canonical (recvPut s t) := by
  have h (l : List (Txn × Nat)) {s} (h : canonical s) : canonical (l.foldl (fun s d => endPut s d.1 d.2) s) :=
    foldl_canonical (by exact fun _ d => endPut_canonical d.1 d.2) l h
  grind [recvPut, takeLanded_canonical, epochFault_canonical, sendCompl_canonical, sisterLogPart_canonical, putData_canonical,
    endPut_canonical]

theorem recvGetReq_canonical (t) (hs : canonical s) : canonical (recvGetReq s t) := by
  grind [recvGetReq, takeLanded_canonical, sendAnswer_canonical, epochFault_canonical, raise_canonical]

theorem dropOutstanding_canonical (tag) (hs : canonical s) : canonical (dropOutstanding s tag) := canonical_frame rfl rfl rfl hs

theorem remoteReject_canonical (t st) (hs : canonical s) : canonical (remoteReject s t st) := by
  grind [remoteReject, startAbort_canonical, raise_canonical]

theorem landGetRsp_canonical (t) (hs : canonical s) : canonical (landGetRsp s t) := by
  grind [landGetRsp, raise_canonical, stateWriteRejected_canonical, wrMem_canonical]

theorem takeStandin_canonical (i st b) (hs : canonical s) : canonical (takeStandin s i st b) := by
  grind [takeStandin, canonical_frame]

theorem recvGetRsp_canonical (t) (hs : canonical s) : canonical (recvGetRsp s t) := by
  grind [recvGetRsp, canonical_frame, takeLanded_canonical, landGetRsp_canonical, dropOutstanding_canonical, epochFault_canonical,
    remoteReject_canonical, takeStandin_canonical]

theorem ackRecord_canonical (seq) (hs : canonical s) : canonical (ackRecord s seq) := by
  grind [ackRecord, canonical_frame]

theorem answerFor_canonical (why st) (hs : canonical s) : canonical (answerFor s why st) := by
  cases why <;> grind [answerFor, trySisterHeader_canonical, sisterSealed_canonical, failSister_canonical, ackRecord_canonical,
    voidRecord_canonical, pumpCore_canonical]

theorem recvCompl_canonical (t) (hs : canonical s) : canonical (recvCompl s t) := by
  grind [recvCompl, canonical_frame, takeLanded_canonical, dropOutstanding_canonical, remoteReject_canonical, answerFor_canonical]

/-! Seals and NOR. -/

theorem wrNor_canonical (a b) (hs : canonical s) : canonical (wrNor s a b) := by
  grind [wrNor, wrNor0_canonical, wrNor1_canonical]

theorem writeBootCtl_canonical (r) (hs : canonical s) : canonical (writeBootCtl s r) := wrNor_canonical _ _ hs

theorem bumpSeal_canonical (hs : canonical s) : canonical (bumpSeal s) := by
  grind [bumpSeal, canonical_frame, wrNor_canonical]

theorem sealBody_canonical {clear body} (hs : canonical s) {u : State × Bytes} (e : sealBody s clear body = some u) :
    canonical u.1 := by
  obtain ⟨_, _, rfl⟩ := Option.map_eq_some_iff.1 e
  exact bumpSeal_canonical hs

/-! The inspection. -/

theorem writeLedger_canonical (b) (hs : canonical s) : canonical (writeLedger s b) := by
  grind [writeLedger, canonical_frame, wrNor_canonical]

theorem writeLedgerUpTo_canonical (b n) (hs : canonical s) : canonical (writeLedgerUpTo s b n) := by
  grind [writeLedgerUpTo, canonical_frame, wrNor0_canonical, wrNor1_canonical]

theorem listLanes_canonical (es) (hs : canonical s) : canonical (listLanes s es) :=
  foldl_canonical (by exact fun _ _ => setPort_canonical _ _) _ hs

theorem inspect_canonical (f lanes) (hs : canonical s) : canonical (inspect s f lanes).1 := by
  grind [inspect, canonical_frame, raise_canonical, writeLedger_canonical, listLanes_canonical]

theorem finishInspection_canonical (hs : canonical s) : canonical (finishInspection s) := by
  unfold finishInspection
  split
  · exact hs
  · next x _ =>
    extract_lets prev s2 s3 none_ ok _ s4 s5 s6
    have h2 : canonical s2 := by grind [writeLedger_canonical]
    have h3 : canonical s3 := foldl_canonical (by exact fun _ _ => raise_canonical _ _ _) _ h2
    have h4 : canonical s4 := canonical_frame rfl rfl rfl h3
    clear_value s4
    grind [raise_canonical]

theorem interruptInspection_canonical (hs : canonical s) : canonical (interruptInspection s) := by
  grind [interruptInspection, canonical_frame, bumpFresh_canonical, writeLedgerUpTo_canonical]

theorem requestFull_canonical (want) (hs : canonical s) : canonical (requestFull s want) := canonical_frame rfl rfl rfl hs

/-! Reset and boot. -/

theorem measureBoot_canonical (d) (hs : canonical s) : canonical (measureBoot s d) := canonical_frame rfl rfl rfl hs

theorem measureConf_canonical (d) (hs : canonical s) : canonical (measureConf s d) := canonical_frame rfl rfl rfl hs

theorem measureConfOf_canonical (b) (hs : canonical s) : canonical (measureConfOf s b) := by
  cases b with
  | some => exact measureConf_canonical _ hs
  | none => exact bumpFresh_canonical (measureConf_canonical _ hs)

theorem readBoard_canonical (hs : canonical s) : canonical (readBoard s) := by
  unfold readBoard
  split
  · exact canonical_frame rfl rfl rfl hs
  · exact raise_canonical _ _ _ (canonical_frame rfl rfl rfl hs)

/-- Right after a reset every table is empty but for those that it keeps. -/
theorem clearedDevice_canonical (hs : canonical s) : canonical (clearedDevice s) := by
  obtain ⟨_, ha, hb, h0, h1, _, _, _, _, hf, _, hp, _, hl⟩ := hs
  simp only [canonical, clearedDevice, holdAfter, State.reset]
  exact ⟨smWf_nil _, ha, hb, h0, h1, smWf_nil _, smWf_nil _, smWf_nil _, smWf_nil _, smWf_mapVal _ hf, smWf_nil _, smWf_mapVal _ hp,
    smWf_nil _, hl⟩

theorem clearDevice_canonical (hs : canonical s) : canonical (clearDevice s) :=
  clearedDevice_canonical (interruptInspection_canonical hs)

theorem powerUp_canonical (f) (hs : canonical s) : canonical (powerUp s f) := readBoard_canonical (canonical_frame rfl rfl rfl hs)

theorem deviceReset_canonical (kind f) (hs : canonical s) : canonical (deviceReset s kind f) :=
  powerUp_canonical f (canonical_frame rfl rfl rfl (clearDevice_canonical hs))

theorem writeOwner_canonical (b) (hs : canonical s) : canonical (writeOwner s b) := by
  grind [writeOwner, canonical_frame, wrNor_canonical]

theorem chooseOwner_canonical (metaOk) (hs : canonical s) : canonical (chooseOwner s metaOk).1 := by
  unfold chooseOwner
  split
  · next b _ =>
    have h1 := writeOwner_canonical b hs
    grind [canonical_frame]
  · exact hs

theorem failBoot_canonical (hs : canonical s) : canonical (failBoot s) := canonical_frame rfl rfl rfl hs

theorem recoverHold_canonical (f) (hs : canonical s) : canonical (recoverHold s f) := by
  have hl := smWf_filter (fun p => p.2.st != .filling) (canonical_slots hs)
  unfold recoverHold
  extract_lets slots log sis bal first lostSlots lostRecs lostRows _ h _ s1
  have h1 : canonical s1 := canonical_frame (s := { s with hold := h }) rfl rfl rfl (canonical_hold hs (canonical_cache hs) hl)
  split
  · split
    · exact h1
    · exact raise_canonical _ _ _ h1
  · exact canonical_hold hs (canonical_cache hs) hl

theorem readSeal_canonical (metaOk) (hs : canonical s) : canonical (readSeal s metaOk) := canonical_frame rfl rfl rfl hs

theorem runPackage_canonical (p b) (hs : canonical s) : canonical (runPackage s p b) := canonical_frame rfl rfl rfl hs

theorem identify_canonical (owner) (hs : canonical s) : canonical (identify s owner) := by
  grind [identify, canonical_frame, raise_canonical, measureConfOf_canonical]

theorem bootStages_canonical (f) (hs : canonical s) : canonical (bootStages s f) := by
  grind [bootStages, canonical_frame, measureBoot_canonical, failBoot_canonical, writeBootCtl_canonical, chooseOwner_canonical,
    runPackage_canonical, raise_canonical, recoverHold_canonical, readSeal_canonical, identify_canonical, inspect_canonical,
    bumpFresh_canonical, measureConf_canonical]

theorem settleTrial_canonical (hs : canonical s) : canonical (settleTrial s) := by
  grind [settleTrial, canonical_frame, raise_canonical, writeBootCtl_canonical]

theorem inspected_canonical (hs : canonical s) : canonical (inspected s) := by
  grind [inspected, finishInspection_canonical, settleIslands_canonical]

theorem bootReady_canonical (hs : canonical s) : canonical (bootReady s) := by
  have h0 : canonical (inspected s) := inspected_canonical hs
  unfold bootReady
  generalize inspected s = s0 at h0
  split
  · exact hs
  · extract_lets s0
    split
    · exact h0
    · exact raise_canonical _ _ _ (settleTrial_canonical (canonical_frame rfl rfl rfl h0))

theorem romWatchdog_canonical (f) (hs : canonical s) : canonical (romWatchdog s f) := by
  grind [romWatchdog, deviceReset_canonical]

theorem hmWatchdog_canonical (f) (hs : canonical s) : canonical (hmWatchdog s f) := by
  grind [hmWatchdog, deviceReset_canonical]

theorem rejectFw_canonical (r) (hs : canonical s) : canonical (rejectFw s r) := by
  grind [rejectFw, canonical_frame, raise_canonical]

theorem setStage_canonical (x) (hs : canonical s) : canonical (setStage s x) := canonical_frame rfl rfl rfl hs

theorem stageFirmware_canonical (hs : canonical s) : canonical (stageFirmware s) := by
  grind [stageFirmware, rejectFw_canonical, setStage_canonical]

theorem checkStaged_canonical (x) (hs : canonical s) : canonical (checkStaged s x) := by
  grind [checkStaged, canonical_frame, rejectFw_canonical, setStage_canonical]

theorem writeStaged_canonical (x) (hs : canonical s) : canonical (writeStaged s x) := by
  grind [writeStaged, canonical_frame, bumpFresh_canonical, wrNor0_canonical, wrNor1_canonical, rejectFw_canonical,
    setStage_canonical]

theorem endStaged_canonical (x) (hs : canonical s) : canonical (endStaged s x) := by
  grind [endStaged, canonical_frame, raise_canonical, writeBootCtl_canonical, setStage_canonical]

theorem fwStep_canonical (hs : canonical s) : canonical (fwStep s) := by
  grind [fwStep, canonical_frame, checkStaged_canonical, writeStaged_canonical, endStaged_canonical]

theorem clearTrial_canonical (hs : canonical s) : canonical (clearTrial s) := by
  grind [clearTrial, canonical_frame, writeBootCtl_canonical]

/-! The Hold. -/

theorem setDrain_canonical (d) (hs : canonical s) : canonical (setDrain s d) := canonical_frame rfl rfl rfl hs

theorem drainPiece_canonical (hs : canonical s) : canonical (drainPiece s) := by
  grind [drainPiece, canonical_frame, setSlot_canonical, bondProgram_canonical, sendPuts_canonical, setDrain_canonical]

theorem localSeal_canonical (hs : canonical s) : canonical (localSeal s) := by
  grind [localSeal, canonical_frame, setSlot_canonical, bondProgram_canonical, trySisterHeader_canonical, setDrain_canonical]

theorem releaseSnap_canonical (hs : canonical s) : canonical (releaseSnap s) := by
  grind [releaseSnap, canonical_frame, logAppend_canonical, nextDrain_canonical, raise_canonical]

theorem resendLog_canonical (hs : canonical s) : canonical (resendLog s) :=
  foldl_canonical (fun _ r => sendLogCopy_canonical r) _ (voidCopies_canonical _ hs)

theorem programFailed_canonical (k) (hs : canonical s) : canonical (programFailed s k) := by
  grind [programFailed, canonical_frame, raise_canonical]

theorem holdReadFailed_canonical (w) (hs : canonical s) : canonical (holdReadFailed s w) := by
  have h1 : canonical (raise s 0x7104 srcDevice []) := raise_canonical _ _ _ hs
  cases w with
  | slot i => exact queueLocation_canonical _ _ _ (setSlot_canonical _ _ h1)
  | sisterRecord seq => exact queueLocation_canonical _ _ _ (canonical_frame rfl rfl rfl h1)
  | ballast row ver => exact dataLoss_canonical _ _ (queueLocation_canonical _ _ _ (canonical_frame rfl rfl rfl h1))
  | logRecord seq =>
    grind [holdReadFailed, canonical_frame, setSlot_canonical, loseReplay_canonical, queueLocation_canonical, endReplay_canonical]

theorem abandonDrain_canonical (hs : canonical s) : canonical (abandonDrain s) := by
  grind [abandonDrain, canonical_frame, setSlot_canonical]

theorem startHold_canonical (hs : canonical s) : canonical (startHold s) := by
  grind [startHold, canonical_frame, jobDone_canonical, raise_canonical, takeHead_canonical, endReplay_canonical,
    abandonDrain_canonical]

theorem endCmd_canonical (c code) (hs : canonical s) : canonical (endCmd s c code) := by
  grind [endCmd, canonical_frame, endControl_canonical]

theorem endExport_canonical (c fail) (hs : canonical s) : canonical (endExport s c fail) := by
  grind [endExport, endCmd_canonical, raise_canonical]

theorem failHostCmd_canonical (c) (hs : canonical s) : canonical (failHostCmd s c) := by
  grind [failHostCmd, endExport_canonical, raiseDma_canonical]

theorem snapInvalid_canonical (hs : canonical s) : canonical (snapInvalid s) := raise_canonical _ _ _ hs

theorem writeBanks_canonical (body) (hs : canonical s) : canonical (writeBanks s body) := by
  grind [writeBanks, canonical_frame, wrMem_canonical]

theorem spoilBanks_canonical (hs : canonical s) : canonical (spoilBanks s) := by
  grind [spoilBanks, canonical_frame, bumpFresh_canonical, writeBanks_canonical]

theorem restoreControl_canonical (h) (hs : canonical s) : canonical (restoreControl s h) := by
  grind [restoreControl, canonical_frame, mirrored_canonical, loadImages_canonical]

theorem restoreBallast_canonical (step) (hs : canonical s) : canonical (restoreBallast s step) :=
  canonical_hold hs (smWf_nil _) (canonical_slots hs)

theorem feedTrace_canonical (step) (hs : canonical s) : canonical (feedTrace s step) := canonical_frame rfl rfl rfl hs

theorem restoreEnd_canonical (c h source recs) (hs : canonical s) : canonical (restoreEnd s c h source recs) := by
  grind [restoreEnd, canonical_frame, logAppend_canonical, feedTrace_canonical, endCmd_canonical, raise_canonical]

theorem restoreImage_canonical (c h body ok source recs) (hs : canonical s) :
    canonical (restoreImage s c h body ok source recs) := by
  grind [restoreImage, canonical_frame, endCmd_canonical, snapInvalid_canonical, spoilBanks_canonical, restoreEnd_canonical,
    restoreBallast_canonical, restoreControl_canonical, writeBanks_canonical]

theorem runRestore_canonical (hs : canonical s) : canonical (runRestore s) := by
  grind [runRestore, canonical_frame, restoreImage_canonical]

theorem sendFetch_canonical (f) (hs : canonical s) : canonical (sendFetch s f) :=
  foldl_canonical (by grind [sendTxn_canonical]) _ hs

theorem finishStandin_canonical (c f h rows) (hs : canonical s) : canonical (finishStandin s c f h rows) := by
  have ha (l : List BallastRow) {s} (h : canonical s) : canonical (l.foldl addVersion s) :=
    foldl_canonical (fun _ v => addVersion_canonical v) l h
  grind [finishStandin, canonical_frame, restoreImage_canonical, emptySlots_canonical]

theorem failStandin_canonical (c) (hs : canonical s) : canonical (failStandin s c) := by
  grind [failStandin, canonical_frame, endCmd_canonical, snapInvalid_canonical]

theorem runStandin_canonical (rows) (hs : canonical s) : canonical (runStandin s rows) := by
  grind [runStandin, canonical_frame, failStandin_canonical, sendFetch_canonical, finishStandin_canonical]

theorem writeOut_canonical (j b) (hs : canonical s) : canonical (writeOut s j b) := by
  grind [writeOut, wrHost_canonical, wrMem_canonical]

theorem finishOut_canonical (c b) (hs : canonical s) : canonical (finishOut s c b) := by
  grind [finishOut, failHostCmd_canonical, endExport_canonical, bumpFresh_canonical, writeOut_canonical]

theorem runExport_canonical (hs : canonical s) : canonical (runExport s) := by
  grind [runExport, canonical_frame, finishOut_canonical]

theorem runSealOut_canonical (hs : canonical s) : canonical (runSealOut s) := by
  have h {clear body u} := sealBody_canonical (clear := clear) (body := body) (u := u) hs
  grind [runSealOut, finishOut_canonical, endExport_canonical]

theorem runCapture_canonical (hs : canonical s) : canonical (runCapture s) := by
  unfold runCapture
  split
  · exact hs
  · extract_lets x last recs lo covers part3 part4
    split
    · exact endExport_canonical _ _ hs
    · next e1 =>
      have h1 := sealBody_canonical hs e1
      extract_lets part2 ch
      split
      · exact endExport_canonical _ _ h1
      · next e2 => exact finishOut_canonical _ _ (sealBody_canonical h1 e2)

theorem writeImage_canonical (slot h body cover) (hs : canonical s) : canonical (writeImage s slot h body cover) := by
  grind [writeImage, setSlot_canonical, bondProgram_canonical]

theorem takeCapture_canonical (slot x) (hs : canonical s) : canonical (takeCapture s slot x) := by
  grind [takeCapture, canonical_frame, writeImage_canonical, setSlot_canonical, voidCopies_canonical]

theorem runSealIn_canonical (hs : canonical s) : canonical (runSealIn s) := by
  grind [runSealIn, canonical_frame, failHostCmd_canonical, endExport_canonical, takeCapture_canonical, snapInvalid_canonical,
    writeImage_canonical]

theorem runBalLoad_canonical (hs : canonical s) : canonical (runBalLoad s) := by
  unfold runBalLoad
  split
  · exact hs
  · exact endExport_canonical _ _ (foldl_canonical (by exact fun _ _ => addVersion_canonical _) _ hs)

theorem traceOn_canonical (hs : canonical s) : canonical (traceOn s) := by
  grind [traceOn, canonical_frame]

theorem traceOff_canonical (hs : canonical s) : canonical (traceOff s) := by
  grind [traceOff, canonical_frame]

theorem cancelCmd_canonical (hs : canonical s) : canonical (cancelCmd s) := by
  grind [cancelCmd, canonical_frame]

/-! Ownership. -/

theorem moveOwn_canonical (st owner cause) (hs : canonical s) : canonical (moveOwn s st owner cause) := by
  grind [moveOwn, canonical_frame, raise_canonical]

theorem lapseOwn_canonical (cause) (hs : canonical s) : canonical (lapseOwn s cause) := by
  grind [lapseOwn, moveOwn_canonical, raise_canonical]

theorem ownCommand_canonical (m gen) {f : State → State} (hf : canonical (f s)) (hs : canonical s) :
    canonical (ownCommand s m gen f) := by
  grind [ownCommand]

theorem claimOwn_canonical (m) (hs : canonical s) : canonical (claimOwn s m) := by
  grind [claimOwn, moveOwn_canonical]

theorem releaseOwn_canonical (m) (hs : canonical s) : canonical (releaseOwn s m) := by
  grind [releaseOwn, moveOwn_canonical]

theorem offerOwn_canonical (m target) (hs : canonical s) : canonical (offerOwn s m target) := by
  grind [offerOwn, canonical_frame, moveOwn_canonical]

theorem acceptOwn_canonical (m) (hs : canonical s) : canonical (acceptOwn s m) := by
  grind [acceptOwn, moveOwn_canonical]

theorem withdrawOwn_canonical (m) (hs : canonical s) : canonical (withdrawOwn s m) := by
  grind [withdrawOwn, moveOwn_canonical]

theorem ownRequest_canonical (m cmd target) (hs : canonical s) : canonical (ownRequest s m cmd target) := by
  unfold ownRequest
  split
  · exact claimOwn_canonical m hs
  · exact releaseOwn_canonical m hs
  · exact offerOwn_canonical m target hs
  · exact acceptOwn_canonical m hs
  · exact withdrawOwn_canonical m hs
  · exact hs

theorem writeOwnReq_canonical (m v) (hs : canonical s) : canonical (writeOwnReq s m v) :=
  ownCommand_canonical _ _ (ownRequest_canonical _ _ _ hs) hs

theorem offerTimeout_canonical (hs : canonical s) : canonical (offerTimeout s) := by
  grind [offerTimeout, moveOwn_canonical]

theorem ownershipLapse_canonical (hs : canonical s) : canonical (ownershipLapse s) := by
  grind [ownershipLapse, canonical_frame, lapseOwn_canonical]

theorem reclaim_canonical (port b) (hs : canonical s) : canonical (reclaim s port b).1 := by
  grind [reclaim, canonical_frame, raise_canonical, moveOwn_canonical]

/-! Queues. -/

theorem queueError_canonical (q code) (hs : canonical s) : canonical (queueError s q code) := by
  grind [queueError, setQueue_canonical, raiseEvent_canonical]

theorem linkQueueErrors_canonical (link) (hs : canonical s) : canonical (linkQueueErrors s link) :=
  foldl_canonical (fun _ q => queueError_canonical q 4) _ hs

theorem enableQueue_canonical (q v) (hs : canonical s) : canonical (enableQueue s q v) := by
  unfold enableQueue
  extract_lets x y
  split
  · exact setQueue_canonical _ _ hs
  · split
    · exact raise_canonical _ _ _ (setQueue_canonical _ _ hs)
    · exact setQueue_canonical _ _ hs

theorem dropWaiting_canonical (q) (hs : canonical s) : canonical (dropWaiting s q) :=
  foldl_canonical (fun _ j => jobDone_canonical j 2 0) _ (canonical_frame rfl rfl rfl hs)

theorem cancelPending_canonical (l vec) (hs : canonical s) : canonical (cancelPending s l vec) := by
  grind [cancelPending, canonical_frame, setFn_canonical]

theorem disableQueue_canonical (q v) (hs : canonical s) : canonical (disableQueue s q v) := by
  unfold disableQueue
  extract_lets x s1
  have h1 : canonical s1 := setQueue_canonical _ _ hs
  split
  · exact setQueue_canonical _ _ hs
  · split
    · exact cancelPending_canonical _ _ h1
    · exact dropWaiting_canonical q h1

theorem configQueue_canonical (q v) (hs : canonical s) : canonical (configQueue s q v) := by
  grind [configQueue, enableQueue_canonical, disableQueue_canonical]

theorem ringDoorbell_canonical (m q v) (hs : canonical s) : canonical (ringDoorbell s m q v) := by
  grind [ringDoorbell, queueError_canonical, setQueue_canonical]

theorem doorbell_canonical (m q v) (hs : canonical s) : canonical (doorbell s m q v) := by
  unfold doorbell
  split
  · exact hs
  · exact writeGate_canonical _ _ _ (fun _ => ringDoorbell_canonical m q v) hs

theorem acceptEntry_canonical (j) (hs : canonical s) : canonical (acceptEntry s j) := by
  grind [acceptEntry, canonical_frame, jobDone_canonical, raiseJobInvalid_canonical]

theorem fetchJob_canonical (hs : canonical s) : canonical (fetchJob s) := by
  unfold fetchJob
  split
  · exact hs
  · split
    · exact hs
    · next q _ =>
      extract_lets x _ s0
      have h0 : canonical s0 := canonical_frame rfl rfl rfl hs
      split
      · exact queueError_canonical _ _ (raiseEvent_canonical _ h0)
      · exact acceptEntry_canonical _ (setQueue_canonical _ _ h0)

theorem runNop_canonical (hs : canonical s) : canonical (runNop s) := by
  grind [runNop, canonical_frame, endFree_canonical, rejectFree_canonical]

theorem runFence_canonical (hs : canonical s) : canonical (runFence s) := by
  grind [runFence, canonical_frame, endFree_canonical, rejectFree_canonical]

theorem runManifest_canonical (hs : canonical s) : canonical (runManifest s) := by
  grind [runManifest, canonical_frame, rejectFree_canonical, setStream_canonical]

theorem runDeal_canonical (hs : canonical s) : canonical (runDeal s) := by
  grind [runDeal, canonical_frame, rejectFree_canonical, endFree_canonical, raise_canonical, wrUnit_canonical]

/-! Links. -/

theorem hostConfigures_canonical (l) (hs : canonical s) : canonical (hostConfigures s l) := by
  grind [hostConfigures, canonical_frame, bumpFresh_canonical, setFn_canonical]

theorem configureFns_canonical (hs : canonical s) : canonical (configureFns s) := by
  grind [configureFns, hostConfigures_canonical]

theorem linkUp_canonical (l speed width flit) (hs : canonical s) : canonical (linkUp s l speed width flit) := by
  grind [linkUp, canonical_frame, setFn_canonical, raise_canonical, moveOwn_canonical]

theorem endTransfers_canonical (hs : canonical s) : canonical (endTransfers s) := by
  unfold endTransfers
  refine foldl_canonical (by grind [endDecode_canonical, raiseSampleDma_canonical]) _ ?_
  split
  · next c _ =>
    split
    · exact failHostCmd_canonical c hs
    · exact hs
  · exact hs

theorem resetFn_canonical (l) (hs : canonical s) : canonical (resetFn s l) := by
  grind [resetFn, canonical_frame, setFn_canonical, linkQueueErrors_canonical]

theorem linkDown_canonical (l) (hs : canonical s) : canonical (linkDown s l) := by
  grind [linkDown, canonical_frame, setFn_canonical, raise_canonical, resetFn_canonical, endTransfers_canonical,
    moveOwn_canonical]

theorem functionReset_canonical (l) (hs : canonical s) : canonical (functionReset s l) := by
  grind [functionReset, resetFn_canonical, lapseOwn_canonical]

theorem perstInput_canonical (l asserted) (hs : canonical s) : canonical (perstInput s l asserted) := by
  grind [perstInput, canonical_frame, linkDown_canonical, resetFn_canonical, setFn_canonical]

theorem dmaError_canonical (t addr) (hs : canonical s) : canonical (dmaError s t addr) := by
  cases t with
  | jobFetch q => grind [dmaError, queueError_canonical, raiseDma_canonical]
  | eventWrite q => grind [dmaError, setQueue_canonical, deliverRounds_canonical]
  | sample die k e => grind [dmaError, endDecode_canonical, raiseDma_canonical]
  | hold => grind [dmaError, endExport_canonical, raiseDma_canonical]

theorem putBar2_canonical (b) (hs : canonical s) : canonical (putBar2 s b) := canonical_frame rfl rfl rfl hs

theorem waitHost_canonical (w) (hs : canonical s) : canonical (waitHost s w) := canonical_frame rfl rfl rfl hs

theorem bar2Read_canonical (fn off n) (hs : canonical s) : canonical (bar2Read s fn off n) := by
  grind [bar2Read, putBar2_canonical, raise_canonical, waitHost_canonical]

theorem hostWrite_canonical (fn a b) (hs : canonical s) : canonical (hostWrite s fn a b) := by
  grind [hostWrite, raise_canonical, waitHost_canonical, wrMem_canonical]

theorem drainHost_canonical (ws) (hs : canonical s) : canonical (drainHost ws s) := by
  induction ws generalizing s with
  | nil => exact hs
  | cons w ws ih => grind [drainHost, canonical_frame, wrMem_canonical, putBar2_canonical]

theorem retryHost_canonical (hs : canonical s) : canonical (retryHost s) := drainHost_canonical _ (canonical_frame rfl rfl rfl hs)

theorem bar2Write_canonical (fn off b) (hs : canonical s) : canonical (bar2Write s fn off b) := by
  grind [bar2Write, nonOwnerWrite_canonical, hostWrite_canonical]

/-! Arbiters. -/

theorem setArb_canonical (a x) (hs : canonical s) : canonical (setArb s a x) := canonical_frame rfl rfl rfl hs

/-! Plans. -/

theorem rejectPlan_canonical (reason section_) (hs : canonical s) : canonical (rejectPlan s reason section_) := by
  grind [rejectPlan, canonical_frame, raise_canonical]

theorem checkProfiles_canonical (p) (hs : canonical s) : canonical (checkProfiles s p).1 :=
  foldl_canonical (by exact fun _ _ => foldl_canonical (by grind [raise_canonical]) _) _ hs

theorem loadPlan_canonical (hs : canonical s) : canonical (loadPlan s) := by
  grind [loadPlan, canonical_frame, rejectPlan_canonical]

theorem failLoad_canonical (reason section_) (hs : canonical s) : canonical (failLoad s reason section_) := by
  grind [failLoad, canonical_frame, answerLoads_canonical, rejectPlan_canonical]

/-- What the object's checks compute is generalised (and kept so by `id`) before the body is reduced: the kernel, asked whether the
function and its body agree, would evaluate the checks. -/
theorem checkObject_canonical (j) (hs : canonical s) : canonical (checkObject s j) := by
  have h (f) (hf : checkObject = f) : canonical (f s j) := by
    delta checkObject at hf
    subst hf
    beta_reduce
    generalize planBytes = size
    generalize objectRefusal = refusal
    revert size refusal
    refine id fun size refusal => ?_
    extract_lets head b
    split
    · exact failLoad_canonical _ _ hs
    · exact canonical_frame rfl rfl rfl hs
  exact h _ rfl

theorem validatePlan_canonical (j) (hs : canonical s) : canonical (validatePlan s j) := by
  grind [validatePlan, canonical_frame, failLoad_canonical, raise_canonical, checkProfiles_canonical]

theorem loadStep_canonical (hs : canonical s) : canonical (loadStep s) := by
  grind [loadStep, canonical_frame, checkObject_canonical, validatePlan_canonical]

theorem freshLog_canonical (hs : canonical s) : canonical (freshLog s) :=
  foldl_canonical (by grind [setSlot_canonical]) _ (canonical_frame rfl rfl rfl (voidCopies_canonical _ hs))

theorem startCores_canonical (hs : canonical s) : canonical (startCores s) := by
  refine loadImages_canonical (foldl_canonical (by exact fun _ _ => setCoreAt_canonical _ _) _ ?_)
  have h0 := smWf_nil Core.init
  grind [canonical, zeroMem_canonical]

theorem applyPlan_canonical (p home) (hs : canonical s) : canonical (applyPlan s p home) := by
  unfold applyPlan
  extract_lets cont _ _ s1 s2 _ _ s3 s4 s5
  have h1 : canonical s1 := mirrored_canonical (by grind [canonical, smWf_mapVal])
  have h2 : canonical s2 := startCores_canonical (by grind [freshLog_canonical])
  have h3 : canonical s3 :=
    canonical_frame (s := { s2 with hold := s3.hold }) rfl rfl rfl (canonical_hold h2 (smWf_nil _) (canonical_slots (s := s2) h2))
  exact answerLoads_canonical _ _ (raise_canonical _ _ _ (logAppend_canonical _ _ _ (checkPeers_canonical
    (settleIslands_canonical h3))))

theorem planApply_canonical (hs : canonical s) : canonical (planApply s) := by
  grind [planApply, canonical_frame, applyPlan_canonical]

/-! The reference. -/

theorem updIsland_canonical (i f) (hs : canonical s) : canonical (updIsland s i f) := setIsland_canonical _ _ hs

theorem eachIsland_canonical (f) (hs : canonical s) : canonical (eachIsland s f) :=
  foldl_canonical (fun _ i => updIsland_canonical i f) _ hs

theorem forceFallback_canonical (hs : canonical s) : canonical (forceFallback s) := by
  grind [forceFallback, canonical_frame, eachIsland_canonical]

theorem trainPorts_canonical (s0) (hs : canonical s) : canonical (trainPorts s0 s) :=
  foldl_canonical (by grind [setPort_canonical]) _ hs

theorem foldl_askMode_canonical (l : List IslandId) (m : BitVec 2) (hs : canonical s) :
    canonical (l.foldl (fun s i => askMode s i m) s) := foldl_canonical (fun _ i => askMode_canonical i m) l hs

theorem refFailure_canonical (cause count stops) (hs : canonical s) : canonical (refFailure s cause count stops) := by
  refine foldl_canonical (fun _ l => linkDown_canonical l) _ (foldl_canonical (fun _ p => portDown_canonical p) _ ?_)
  exact forceFallback_canonical (foldl_askMode_canonical _ _ (suspendWork_canonical _ _ (raise_canonical _ _ _ (canonical_frame
    rfl rfl rfl hs))))

theorem seekReference_canonical (count) (hs : canonical s) : canonical (seekReference s count) := by
  grind [seekReference, canonical_frame]

theorem endHoldover_canonical (die) (hs : canonical s) : canonical (endHoldover s die) := canonical_frame rfl rfl rfl hs

theorem monitorWindow_canonical (die count stops) (hs : canonical s) : canonical (monitorWindow s die count stops) := by
  grind [monitorWindow, canonical_frame, seekReference_canonical, refFailure_canonical, endHoldover_canonical]

theorem generatorHoldover_canonical (i) (hs : canonical s) : canonical (generatorHoldover s i) := by
  grind [generatorHoldover, canonical_frame, updIsland_canonical]

theorem calibrate_canonical (windows) (hs : canonical s) : canonical (calibrate s windows) := by
  grind [calibrate, canonical_frame, raise_canonical]

theorem referenceSettle_canonical (windows) (hs : canonical s) : canonical (referenceSettle s windows) := by
  grind [referenceSettle, canonical_frame, calibrate_canonical, lockGenerators_canonical, askRun_canonical, applyClocks_canonical,
    bootStages_canonical]

theorem referenceRestored_canonical (windows) (hs : canonical s) : canonical (referenceRestored s windows) := by
  unfold referenceRestored
  split
  · exact hs
  · extract_lets s1
    have h1 : canonical s1 := lockGenerators_canonical (applyClocks_canonical (calibrate_canonical _ hs))
    split
    · exact h1
    · exact foldl_askMode_canonical _ _ h1

theorem takeResume_canonical (hs : canonical s) : canonical (takeResume s) := by
  grind [takeResume, canonical_frame, resumeStep_canonical]

theorem clkResume_canonical (hs : canonical s) : canonical (clkResume s) := by
  grind [clkResume, canonical_frame, takeResume_canonical]

theorem dropRunning_canonical (hs : canonical s) : canonical (dropRunning s) := by
  grind [dropRunning, canonical_frame, endControl_canonical]

theorem clkDiscard_canonical (hs : canonical s) : canonical (clkDiscard s) := by
  grind [clkDiscard, canonical_frame, dropRunning_canonical, discardAttempt_canonical]

/-! Power. -/

theorem setCap_canonical (n) (hs : canonical s) : canonical (setCap s n) := by
  grind [setCap, canonical_frame, applyClocks_canonical]

theorem tellLimited_canonical (hs : canonical s) : canonical (tellLimited s) := by
  grind [tellLimited, canonical_frame, raise_canonical]

theorem powerWindow_canonical (watts) (hs : canonical s) : canonical (powerWindow s watts) := by
  grind [powerWindow, canonical_frame, tellLimited_canonical, setCap_canonical]

theorem enterSlack_canonical (thermal stops) (hs : canonical s) : canonical (enterSlack s thermal stops) := by
  grind [enterSlack, canonical_frame, askSleep_canonical, raise_canonical, suspendStep_canonical]

theorem setTimer_canonical (p) (hs : canonical s) : canonical (setTimer s p) := canonical_frame rfl rfl rfl hs

theorem supplyBack_canonical (ok) (hs : canonical s) : canonical (supplyBack s ok) := setTimer_canonical _ hs

theorem coolBack_canonical (ok) (hs : canonical s) : canonical (coolBack s ok) := setTimer_canonical _ hs

theorem askRelease_canonical (hs : canonical s) : canonical (askRelease s) := foldl_askMode_canonical _ _ hs

theorem releaseSlack_canonical (hs : canonical s) : canonical (releaseSlack s) := by
  grind [releaseSlack, canonical_frame, askRelease_canonical]

theorem finishRelease_canonical (hs : canonical s) : canonical (finishRelease s) := by
  grind [finishRelease, canonical_frame, bumpFresh_canonical, raise_canonical, takeResume_canonical, resumeStep_canonical]

theorem keepHoldup_canonical (s) {t : State} (ht : canonical t) : canonical (keepHoldup s t) := ht

theorem resetLevel_canonical (hs : canonical s) : canonical (resetLevel s) := by
  unfold resetLevel
  split
  · exact hs
  · exact canonical_frame rfl rfl rfl (keepHoldup_canonical s (clearDevice_canonical hs))

theorem holdupCutoff_canonical (hs : canonical s) : canonical (holdupCutoff s) := by
  grind [holdupCutoff, canonical_frame]

theorem powerOn_canonical (f) (hs : canonical s) : canonical (powerOn s f) := by
  unfold powerOn
  split
  · exact powerUp_canonical f (canonical_frame rfl rfl rfl hs)
  · exact powerUp_canonical f (canonical_frame rfl rfl rfl hs)
  · exact powerUp_canonical f (canonical_frame rfl rfl rfl hs)
  · exact hs

theorem thermalTrip_canonical (f) (hs : canonical s) : canonical (thermalTrip s f) := by
  unfold thermalTrip
  split
  · exact hs
  · exact canonical_frame rfl rfl rfl (keepHoldup_canonical s (clearDevice_canonical hs))

theorem cooldownComplete_canonical (hs : canonical s) : canonical (cooldownComplete s) := by
  unfold cooldownComplete
  split
  · exact powerUp_canonical _ (canonical_frame rfl rfl rfl hs)
  · exact hs

theorem inputHigh_canonical (v) (hs : canonical s) : canonical (inputHigh s v) := by
  grind [inputHigh, canonical_frame, raise_canonical]

theorem inputHighEnded_canonical (hs : canonical s) : canonical (inputHighEnded s) := by
  grind [inputHighEnded, canonical_frame]

/-! Registers. -/

theorem sample_canonical (off) (hs : canonical s) : canonical (sample s off) := by
  unfold sample
  split
  · exact bumpFresh_canonical (canonical_frame rfl rfl rfl hs)
  · exact bumpFresh_canonical (canonical_frame rfl rfl rfl hs)
  · exact bumpFresh_canonical (canonical_frame rfl rfl rfl hs)
  · exact bumpFresh_canonical hs
  · exact hs

theorem setCapture_canonical (m off v) (hs : canonical s) : canonical (setCapture s m off v) :=
  setMaster_canonical _ _ hs

theorem popCapture_canonical (m off) (hs : canonical s) : canonical (popCapture s m off) :=
  setMaster_canonical _ _ hs

theorem updStream_canonical (k f) (hs : canonical s) : canonical (updStream s k f) := by
  grind [updStream, setStream_canonical]

theorem rcClear_canonical (m off) (hs : canonical s) : canonical (rcClear s m off) := by
  unfold rcClear
  split
  · exact setQueue_canonical _ _ hs
  · exact canonical_frame rfl rfl rfl hs
  · exact canonical_frame rfl rfl rfl hs
  · exact canonical_frame rfl rfl rfl hs
  · exact canonical_frame rfl rfl rfl hs
  · exact updPort_canonical _ _ hs
  · exact updPort_canonical _ _ hs
  · exact updPort_canonical _ _ hs
  · exact updPort_canonical _ _ hs
  · exact updStream_canonical _ _ hs
  · exact updStream_canonical _ _ hs
  · exact canonical_frame rfl rfl rfl hs
  · exact hs

theorem readCore_canonical (m off) (hs : canonical s) : canonical (readCore s m off).1 := by
  grind [readCore, popCapture_canonical, sample_canonical, rcClear_canonical, setCapture_canonical]

theorem bar0Read_canonical (m off) (hs : canonical s) : canonical (bar0Read s m off).1 := by
  grind [bar0Read, readCore_canonical]

theorem putRead_canonical (m v) (hs : canonical s) : canonical (putRead s m v) := canonical_frame rfl rfl rfl hs

theorem readReg_canonical (m off) (hs : canonical s) : canonical (readReg s m off) := by
  grind [readReg, bar0Read_canonical, putRead_canonical]

theorem misaligned_canonical (m off) (hs : canonical s) : canonical (misaligned s m off) := raise_canonical _ _ _ hs

theorem busRead_canonical (m off size) (hs : canonical s) : canonical (busRead s m off size) := by
  grind [busRead, putRead_canonical, readReg_canonical, misaligned_canonical]

theorem stageLo_canonical (m off v) (hs : canonical s) : canonical (stageLo s m off v) := canonical_frame rfl rfl rfl hs

theorem commitPair_canonical (m loOff hi cur) {f : State → W64 → State} (hf : ∀ s w, canonical s → canonical (f s w))
    (hs : canonical s) : canonical (commitPair s m loOff hi cur f) := hf _ _ (canonical_frame rfl rfl rfl hs)

theorem updMaster_canonical (m f) (hs : canonical s) : canonical (updMaster s m f) := setMaster_canonical _ _ hs

theorem writeOwn_canonical (m r v) (hs : canonical s) : canonical (writeOwn s m r v) := by
  unfold writeOwn
  split
  · exact writeOwnReq_canonical m v hs
  · split
    · exact hs
    · exact canonical_frame rfl rfl rfl hs
  · split
    · exact stageLo_canonical _ _ _ hs
    · exact hs
  · split
    · exact commitPair_canonical _ _ _ _ (fun _ _ h => setFn_canonical _ _ h) hs
    · exact hs
  · exact hs

theorem writeJq_canonical (m r v) (hs : canonical s) : canonical (writeJq s m r v) := by
  unfold writeJq
  extract_lets q x y s1
  split
  · exact updMaster_canonical _ _ hs
  · exact configQueue_canonical _ _ hs
  · exact stageLo_canonical _ _ _ hs
  · refine commitPair_canonical _ _ _ _ (fun s b h => ?_) hs
    split
    · exact h
    · exact setQueue_canonical _ _ h
  · split
    · exact hs
    · exact setQueue_canonical _ _ hs
  · have h1 : canonical s1 := setQueue_canonical _ _ hs
    split
    · exact evqSignal_canonical _ h1
    · exact h1
  · exact hs

theorem writePln_canonical (m r v) (hs : canonical s) : canonical (writePln s m r v) := by
  unfold writePln
  split
  · split
    · exact loadPlan_canonical hs
    · exact hs
  · exact stageLo_canonical _ _ _ hs
  · exact commitPair_canonical _ _ _ _ (fun _ _ h => canonical_frame rfl rfl rfl h) hs
  · exact canonical_frame rfl rfl rfl hs
  · exact hs

theorem writeClk_canonical (m r v) (hs : canonical s) : canonical (writeClk s m r v) := by
  unfold writeClk
  split
  · split
    · exact askSource_canonical _ _ hs
    · exact askSource_canonical _ _ hs
    · exact clkResume_canonical hs
    · exact clkDiscard_canonical hs
    · exact hs
  · exact updMaster_canonical _ _ hs
  · exact hs

theorem writePwr_canonical (r v) (hs : canonical s) : canonical (writePwr s r v) := by
  unfold writePwr
  split
  · split
    · exact bumpFresh_canonical (deviceReset_canonical _ _ hs)
    · exact hs
  · extract_lets w
    split
    · exact canonical_frame rfl rfl rfl hs
    · exact hs
  · exact hs

theorem writeHld_canonical (m r v) (hs : canonical s) : canonical (writeHld s m r v) := by
  unfold writeHld
  split
  · exact updMaster_canonical _ _ hs
  · split
    · exact traceOn_canonical hs
    · exact traceOff_canonical hs
    · exact cancelCmd_canonical hs
    · exact hs
  · exact hs

theorem writeFab_canonical (m r v) (hs : canonical s) : canonical (writeFab s m r v) := by
  unfold writeFab
  split
  · split
    · exact stageLo_canonical _ _ _ hs
    · exact commitAlias_canonical _ _ hs
  · split
    · exact updMaster_canonical _ _ hs
    · split
      · exact portCommand_canonical _ (fun p => retrainPort_canonical p hs) hs
      · exact portCommand_canonical _ (fun p => disablePort_canonical p hs) hs
      · exact portCommand_canonical _ (fun p => enablePort_canonical p hs) hs
      · exact hs
    · exact hs

theorem writeSpr_canonical (r v) (hs : canonical s) : canonical (writeSpr s r v) := by
  unfold writeSpr
  split
  · grind [requestFull_canonical]
  · exact hs

theorem writeSlw_canonical (m r v) (hs : canonical s) : canonical (writeSlw s m r v) := by
  unfold writeSlw
  split
  · exact updMaster_canonical _ _ hs
  · exact hs

theorem writeStp_canonical (r v) (hs : canonical s) : canonical (writeStp s r v) := by
  unfold writeStp
  split
  · split
    · exact stepStop_canonical hs
    · exact startAbort_canonical _ hs
    · exact stepResume_canonical hs
    · exact hs
  · exact hs

theorem writeSec_canonical (m r v) (hs : canonical s) : canonical (writeSec s m r v) := by
  unfold writeSec
  split
  · grind [stageFirmware_canonical, clearTrial_canonical]
  · exact stageLo_canonical _ _ _ hs
  · exact commitPair_canonical _ _ _ _ (fun _ _ h => canonical_frame rfl rfl rfl h) hs
  · exact hs

theorem writeMsix_canonical (m r v) (hs : canonical s) : canonical (writeMsix s m r v) := by
  grind [writeMsix, canonical_frame, msixSend_canonical, setFn_canonical]

theorem regStore_canonical (m off v) (hs : canonical s) : canonical (regStore s m off v) := by
  unfold regStore
  extract_lets r
  split
  · split
    · exact ringDoorbell_canonical _ _ _ hs
    · exact hs
  · split
    · exact writeOwn_canonical _ _ _ hs
    · exact writeJq_canonical _ _ _ hs
    · exact writePln_canonical _ _ _ hs
    · exact writeClk_canonical _ _ _ hs
    · exact writePwr_canonical _ _ hs
    · exact writeHld_canonical _ _ _ hs
    · exact writeFab_canonical _ _ _ hs
    · exact writeSpr_canonical _ _ hs
    · exact writeSlw_canonical _ _ _ hs
    · exact writeStp_canonical _ _ hs
    · exact writeSec_canonical _ _ _ hs
    · exact writeMsix_canonical _ _ _ hs
    · exact hs

theorem bar0Write_canonical (m off v size) (hs : canonical s) : canonical (bar0Write s m off v size) := by
  unfold bar0Write
  split
  · exact hs
  · split
    · exact misaligned_canonical _ _ hs
    · exact writeGate_canonical _ _ _ (fun _ => regStore_canonical m off v) hs

/-! Messages. -/

theorem enrolDevice_canonical (b) (hs : canonical s) : canonical (enrolDevice s b) := by
  grind [enrolDevice, canonical_frame, bumpFresh_canonical, eraseHold_canonical, writeOwner_canonical, raise_canonical]

theorem doeObject_canonical (fn type owner wellFormed) {f : State → State} (hf : canonical (f s)) (hs : canonical s) :
    canonical (doeObject s fn type owner wellFormed f) := by
  grind [doeObject, answerDoe_canonical]

theorem doeEnrol_canonical (fn b) (hs : canonical s) : canonical (doeEnrol s fn b) :=
  doeObject_canonical _ _ _ _ (by grind [answerDoe_canonical, enrolDevice_canonical, raise_canonical]) hs

theorem doeAttest_canonical (fn nonce) (hs : canonical s) : canonical (doeAttest s fn nonce) :=
  doeObject_canonical _ _ _ _ (by grind [answerDoe_canonical]) hs

theorem doePlanSeg_canonical (fn a b) (hs : canonical s) : canonical (doePlanSeg s fn a b) :=
  doeObject_canonical _ _ _ _ (by grind [answerDoe_canonical, hostWrite_canonical]) hs

theorem doePlanLoad_canonical (fn a home) (hs : canonical s) : canonical (doePlanLoad s fn a home) :=
  doeObject_canonical _ _ _ _ (by grind [canonical_frame, loadPlan_canonical, setFn_canonical, answerDoe_canonical]) hs

theorem doeDiscover_canonical (fn i) (hs : canonical s) : canonical (doeDiscover s fn i) := by
  grind [doeDiscover, canonical_frame]

theorem abortDoe_canonical (fn) (hs : canonical s) : canonical (abortDoe s fn) := by
  grind [abortDoe, canonical_frame, setFn_canonical]

theorem putMctp_canonical (p b) (hs : canonical s) : canonical (putMctp s p b) := canonical_frame rfl rfl rfl hs

theorem answerMsg_canonical (p status body) (hs : canonical s) : canonical (answerMsg s p status body) := by
  grind [answerMsg, canonical_frame, putMctp_canonical, setMgmt_canonical]

theorem takeMsg_canonical (p takes) {f : State → State} (hf : canonical (f s)) (hs : canonical s) :
    canonical (takeMsg s p takes f) := by
  grind [takeMsg, putMctp_canonical]

theorem portReadOne_canonical (p off direct) (hs : canonical s) : canonical (portReadOne s p off direct).1 := by
  grind [portReadOne, misaligned_canonical, readCore_canonical, bar0Read_canonical]

theorem portReads_canonical (n p off d) (hs : canonical s) : canonical (portReads n s p off d).1 := by
  induction n generalizing s off with
  | zero => exact hs
  | succ n ih => exact ih _ (portReadOne_canonical _ _ _ hs)

theorem mgmtRead_canonical (p off n) (hs : canonical s) : canonical (mgmtRead s p off n) :=
  takeMsg_canonical _ _ (by grind [answerMsg_canonical, portReads_canonical]) hs

theorem mgmtWrite_canonical (p off v) (hs : canonical s) : canonical (mgmtWrite s p off v) :=
  takeMsg_canonical _ _ (by grind [answerMsg_canonical, bar0Write_canonical]) hs

theorem mgmtJob_canonical (p b) (hs : canonical s) : canonical (mgmtJob s p b) :=
  takeMsg_canonical _ _ (by grind [answerMsg_canonical, acceptEntry_canonical, setQueue_canonical]) hs

theorem mgmtEvents_canonical (p n) (hs : canonical s) : canonical (mgmtEvents s p n) :=
  takeMsg_canonical _ _ (by grind [answerMsg_canonical, setMgmt_canonical]) hs

theorem mgmtKeepalive_canonical (p) (hs : canonical s) : canonical (mgmtKeepalive s p) :=
  takeMsg_canonical _ _ (answerMsg_canonical _ _ _ hs) hs

theorem mgmtAttest_canonical (p nonce) (hs : canonical s) : canonical (mgmtAttest s p nonce) :=
  takeMsg_canonical _ _ (by grind [answerMsg_canonical]) hs

theorem mgmtReclaim_canonical (p b) (hs : canonical s) : canonical (mgmtReclaim s p b) :=
  takeMsg_canonical _ _ (answerMsg_canonical _ _ _ (reclaim_canonical _ _ hs)) hs

theorem mgmtBoard_canonical (p off b) (hs : canonical s) : canonical (mgmtBoard s p off b) :=
  takeMsg_canonical _ _ (by grind [answerMsg_canonical, wrNor_canonical]) hs

theorem mgmtRecovery_canonical (p off last b f) (hs : canonical s) : canonical (mgmtRecovery s p off last b f) :=
  takeMsg_canonical _ _ (by grind [canonical_frame, answerMsg_canonical, wrNor_canonical, deviceReset_canonical]) hs

theorem sendResponses_canonical (hs : canonical s) : canonical (sendResponses s) := by
  grind [sendResponses, canonical, smWf_mapVal]

theorem assignAddr_canonical (p a) (hs : canonical s) : canonical (assignAddr s p a) := by
  grind [assignAddr, canonical_frame, setMgmt_canonical]

theorem control_canonical (p b) (hs : canonical s) : canonical (control s p b) := by
  grind [control, putMctp_canonical]

theorem setEid_canonical (p e) (hs : canonical s) : canonical (setEid s p e) := by
  grind [setEid, canonical_frame, putMctp_canonical, setMgmt_canonical]

/-! The passage of time. -/

theorem background_canonical (hs : canonical s) : canonical (background s) := by
  grind [background, sendResponses_canonical, configureFns_canonical, fwStep_canonical, loadStep_canonical]

/-! The tick of the governor. -/

theorem takeReq_canonical (r) (hs : canonical s) : canonical (takeReq s r) := by
  grind [takeReq, setIsland_canonical, admitClock_canonical, updCore_canonical]

theorem governorTick_canonical (hs : canonical s) : canonical (governorTick s) :=
  takeResume_canonical (finishRelease_canonical (retryHost_canonical
    (foldl_canonical (fun _ r => takeReq_canonical r) _ (canonical_frame rfl rfl rfl (trainPorts_canonical s
      (finishSwitches_canonical hs))))))

/-! Movers. -/

theorem copyRows_canonical (src dst) (hs : canonical s) : canonical (copyRows s src dst) :=
  foldl_canonical (by exact fun _ _ => wrMem_canonical _ _) _ hs

theorem movEffect_canonical (d idx) (hs : canonical s) : canonical (movEffect s d idx).1 := by
  unfold movEffect
  split
  · exact foldl_canonical (by exact fun _ _ => wrMem_canonical _ _) _ hs
  · exact hs
  · exact wrMem_canonical _ _ hs
  · exact copyRows_canonical _ _ hs

theorem startMov_canonical (mop c) (hs : canonical s) : canonical (startMov mop s c) := by
  unfold startMov
  extract_lets x
  split
  · exact hs
  · split
    · exact hs
    · extract_lets d
      split
      · exact hs
      · split
        · exact hs
        · split
          · grind [movEffect_canonical, setCore_canonical, startAbort_canonical, raise_canonical]
          · exact failCheck_canonical _ _ _ (setCore_canonical _ _ hs)

theorem completeMov_canonical (c slot) (hs : canonical s) : canonical (completeMov s c slot) := by
  grind [completeMov, canonical_frame, setCore_canonical, signalField_canonical, signalRemote_canonical]

/-! Parity. -/

theorem replayPassed_canonical (p) (hs : canonical s) : canonical (replayPassed s p) := by
  grind [replayPassed, canonical_frame, raise_canonical, queueLocation_canonical]

theorem secondFailure_canonical (p) (hs : canonical s) : canonical (secondFailure s p) := by
  grind [secondFailure, canonical_frame, queueLocation_canonical, dataLoss_canonical]

theorem regenDone_canonical (addr) (hs : canonical s) : canonical (regenDone s addr) := by
  grind [regenDone, canonical_frame, raise_canonical]

theorem scrub_canonical (k bad) (hs : canonical s) : canonical (scrub s k bad) := by
  grind [scrub, canonical_frame, queueLocation_canonical, raise_canonical]

/-! Vector operations. -/

theorem writeAll_canonical (ws) (hs : canonical s) : canonical (writeAll s ws) :=
  foldl_canonical (by exact fun _ _ => wrMem_canonical _ _) _ hs

theorem startVec_canonical (vop c) (hs : canonical s) : canonical (startVec vop s c) := by
  unfold startVec
  extract_lets x
  split
  · exact hs
  · split
    · exact hs
    · extract_lets d
      split
      · exact hs
      · split
        · exact writeAll_canonical _ (setCore_canonical _ _ hs)
        · exact failCheck_canonical _ _ _ (setCore_canonical _ _ hs)

theorem completeVec_canonical (c) (hs : canonical s) : canonical (completeVec s c) := by
  grind [completeVec, canonical_frame, setCore_canonical, wrMem_canonical, finalRecord_canonical, signalField_canonical]

/-! The dispatch. -/

theorem ite_canonical {c : Prop} [Decidable c] {s t : State} (hs : canonical s) (ht : canonical t) :
    canonical (if c then s else t) := by
  split
  · exact hs
  · exact ht

/-- An answer whose next state is canonical. -/
inductive CanonicalNext : Host.Outcome State Fault Refusal → Prop where
  | next {s : State} (hs : canonical s) : CanonicalNext (.next s)

/-- Every command, whatever its operands, answers a canonical state. -/
theorem exec_canonical (i : Instr) (hs : canonical s) : CanonicalNext (exec i s) := by
  cases i
  case descriptorIssue => exact .next (issueNext_canonical _ hs)
  case tile => exact .next (startTile_canonical _ hs)
  case spill => exact .next (spillTile_canonical _ _ hs)
  case tileComplete => exact .next (completeTile_canonical _ _ hs)
  case add | sub | mul | div | sqrt | fma | min | max | cmp | abs | neg | scale | exp | log | tanh | sigmoid | rsqrt |
      recip | sin | cos | erf | gelu | sum | sumsq | maxReduction | minReduction | amax | merge | convert | digest | conv |
      tconv | maxpool | avgpool | patch | argmax | boxdec | suppress =>
    exact .next (startVec_canonical _ _ hs)
  case vectorComplete => exact .next (completeVec_canonical _ hs)
  case copy | gather | scatter | fill | signal | compare => exact .next (startMov_canonical _ _ hs)
  case moverComplete => exact .next (completeMov_canonical _ _ hs)
  case tokenSignal => exact .next (signalCtr_canonical _ _ hs)
  case fwdEnd | passEnd => exact .next (markEffect_canonical _ _ hs)
  case reduceScatter | allReduce | reduce | allGather | broadcast | ringStep => exact .next (startCol_canonical _ _ hs)
  case ringCredit => exact .next (ringCredit_canonical _ _ _ _ hs)
  case collectiveComplete => exact .next (stageNext_canonical (completeCol_canonical _ _ hs))
  case arbiterGrant | quotaWindow | islandMask => exact .next (setArb_canonical _ _ hs)
  case parityReplay => exact .next (ite_canonical (secondFailure_canonical _ hs) (replayPassed_canonical _ hs))
  case regenerated => exact .next (regenDone_canonical _ hs)
  case hbmRefresh => exact .next (ite_canonical (canonical_frame rfl rfl rfl hs) hs)
  case scrubRead => exact .next (scrub_canonical _ _ hs)
  case manifestValidation => exact .next (validateManifest_canonical _ _ hs)
  case sampleAdmit => exact .next (admitSample_canonical _ _ hs)
  case engineGrant => exact .next (grantEngine_canonical _ _ _ hs)
  case sampleReady => exact .next (finishSample_canonical _ _ _ _ hs)
  case release => exact .next (releaseSample_canonical _ _ hs)
  case passRunStart => exact .next (startRun_canonical _ hs)
  case ballastPageIn => exact .next (pageIn_canonical hs)
  case replicaReduction => exact .next (replicaReduce_canonical _ _ hs)
  case updateStart => exact .next (startUpdate_canonical hs)
  case updateComplete => exact .next (completeUpdate_canonical hs)
  case tally => exact .next (recvTagged_canonical _ _ (fun _ => takeTally_canonical _) hs)
  case repairComplete => exact .next (completeRepair_canonical _ _ hs)
  case snapshotLocalSeal => exact .next (localSeal_canonical hs)
  case snapshotRelease => exact .next (releaseSnap_canonical hs)
  case abortCause => exact .next (startAbort_canonical _ hs)
  case abortComplete => exact .next (finishAbort_canonical hs)
  case commit => exact .next (recvCommit_canonical _ hs)
  case verdictUp => exact .next (recvTagged_canonical _ _ (fun _ => takeVerdictUp_canonical _) hs)
  case verdictDown => exact .next (recvTagged_canonical _ _ (fun _ => takeVerdictDown_canonical _) hs)
  case abort => exact .next (recvAbort_canonical _ hs)
  case reshard => exact .next (startReshard_canonical hs)
  case lockDrained => exact .next (lockDrained_canonical hs)
  case drained | closed | permuted | advance | abandon | abandonReq => exact .next (recvLock_canonical _ hs)
  case permutePuts => exact .next (permutePuts_canonical hs)
  case permuteComplete => exact .next (permuteComplete_canonical hs)
  case advanced => exact .next (recvAdvanced_canonical _ hs)
  case portTrainingComplete => exact .next (trainPort_canonical _ _ hs)
  case flitReceive => exact .next (receiveData_canonical _ _ _ hs)
  case controlFlit => exact .next (receiveControl_canonical _ _ _ hs)
  case replayTimeout => exact .next (replayTimeout_canonical _ hs)
  case laneFail => exact .next (laneFail_canonical _ _ _ _ hs)
  case laneSwap => exact .next (laneSwap_canonical _ _ hs)
  case portDown => exact .next (portDown_canonical _ hs)
  case portHoldExpiry => exact .next (holdExpiry_canonical _ hs)
  case transactionRoute => exact .next (routeTxn_canonical hs)
  case put => exact .next (recvPut_canonical _ hs)
  case getReq => exact .next (recvGetReq_canonical _ hs)
  case getRsp => exact .next (recvGetRsp_canonical _ hs)
  case reduceTransaction => exact .next (recvReduce_canonical _ _ hs)
  case compl => exact .next (recvCompl_canonical _ hs)
  case aliasCommit => exact .next (writeGate_canonical _ _ _ (fun _ h => commitAlias_canonical _ _ h) hs)
  case retrain => exact .next (writeGate_canonical _ _ _ (fun _ h => portCommand_canonical _ (fun p => retrainPort_canonical p h) h) hs)
  case disable => exact .next (writeGate_canonical _ _ _ (fun _ h => portCommand_canonical _ (fun p => disablePort_canonical p h) h) hs)
  case enable => exact .next (writeGate_canonical _ _ _ (fun _ h => portCommand_canonical _ (fun p => enablePort_canonical p h) h) hs)
  case snapshotDrainPiece => exact .next (drainPiece_canonical hs)
  case logResend => exact .next (resendLog_canonical hs)
  case programFailed => exact .next (programFailed_canonical _ hs)
  case holdReadFailed => exact .next (holdReadFailed_canonical _ hs)
  case restore => exact .next (runRestore_canonical hs)
  case standinRestore => exact .next (runStandin_canonical _ hs)
  case exportState => exact .next (runExport_canonical hs)
  case sealOut => exact .next (runSealOut_canonical hs)
  case sealIn => exact .next (runSealIn_canonical hs)
  case capture => exact .next (runCapture_canonical hs)
  case balLoad => exact .next (runBalLoad_canonical hs)
  case traceOn => exact .next (writeGate_canonical _ _ _ (fun _ h => traceOn_canonical h) hs)
  case traceOff => exact .next (writeGate_canonical _ _ _ (fun _ h => traceOff_canonical h) hs)
  case cancel => exact .next (writeGate_canonical _ _ _ (fun _ h => cancelCmd_canonical h) hs)
  case ballastWriteBack => exact .next (writeBackRow_canonical _ hs)
  case wearBucketRefill => exact .next (refillBucket_canonical _ hs)
  case requestFullInspection | withdrawFullInspection =>
    exact .next (writeGate_canonical _ _ _ (fun _ h => requestFull_canonical _ h) hs)
  case bootReady => exact .next (bootReady_canonical hs)
  case romWatchdog => exact .next (romWatchdog_canonical _ hs)
  case harbourmasterWatchdog => exact .next (hmWatchdog_canonical _ hs)
  case load => exact .next (writeGate_canonical _ _ _ (fun _ h => loadPlan_canonical h) hs)
  case planApply => exact .next (planApply_canonical hs)
  case fwStage => exact .next (writeGate_canonical _ _ _ (fun _ h => stageFirmware_canonical h) hs)
  case clearTrial => exact .next (writeGate_canonical _ _ _ (fun _ h => clearTrial_canonical h) hs)
  case enrol => exact .next (doeEnrol_canonical _ _ hs)
  case attest => exact .next (ite_canonical (doeAttest_canonical _ _ hs) (mgmtAttest_canonical _ _ hs))
  case planSeg => exact .next (doePlanSeg_canonical _ _ _ hs)
  case planLoad => exact .next (doePlanLoad_canonical _ _ _ hs)
  case doeDiscovery => exact .next (doeDiscover_canonical _ _ hs)
  case doeAbort => exact .next (abortDoe_canonical _ hs)
  case stpStop => exact .next (writeGate_canonical _ _ _ (fun _ h => stepStop_canonical h) hs)
  case stpAbort => exact .next (writeGate_canonical _ _ _ (fun _ h => startAbort_canonical _ h) hs)
  case stpResume => exact .next (writeGate_canonical _ _ _ (fun _ h => stepResume_canonical h) hs)
  case jobDoorbell => exact .next (ite_canonical hs (doorbell_canonical _ _ _ hs))
  case evqDoorbell => exact .next (ite_canonical (doorbell_canonical _ _ _ hs) hs)
  case jobFetch => exact .next (fetchJob_canonical hs)
  case nop => exact .next (runNop_canonical hs)
  case step => exact .next (startStep_canonical hs)
  case evalOpen => exact .next (openEval_canonical hs)
  case evalClose => exact .next (closeEval_canonical hs)
  case hold => exact .next (startHold_canonical hs)
  case deal => exact .next (runDeal_canonical hs)
  case manifest => exact .next (runManifest_canonical hs)
  case fence => exact .next (runFence_canonical hs)
  case evqModerationTimer => exact .next (ite_canonical hs (evqSignal_canonical _ hs))
  case queueEnable => exact .next (writeGate_canonical _ _ _ (fun _ h => enableQueue_canonical _ _ h) hs)
  case queueDisable => exact .next (writeGate_canonical _ _ _ (fun _ h => disableQueue_canonical _ _ h) hs)
  case claim => exact .next (ownCommand_canonical _ _ (claimOwn_canonical _ hs) hs)
  case releaseOwnership => exact .next (ownCommand_canonical _ _ (releaseOwn_canonical _ hs) hs)
  case offer => exact .next (ownCommand_canonical _ _ (offerOwn_canonical _ _ hs) hs)
  case accept => exact .next (ownCommand_canonical _ _ (acceptOwn_canonical _ hs) hs)
  case withdraw => exact .next (ownCommand_canonical _ _ (withdrawOwn_canonical _ hs) hs)
  case offerTimeout => exact .next (offerTimeout_canonical hs)
  case ownershipLapse => exact .next (ownershipLapse_canonical hs)
  case reclaim => exact .next (mgmtReclaim_canonical _ _ hs)
  case registerWrite => exact .next (bar0Write_canonical _ _ _ _ hs)
  case loReadCapture | misalignedBar0Read => exact .next (busRead_canonical _ _ _ hs)
  case bar2Read => exact .next (bar2Read_canonical _ _ _ hs)
  case bar2Write => exact .next (bar2Write_canonical _ _ _ hs)
  case slwConcealed | slwOverbudget | stpSkips | fabCorr | fabUncorr | fabReplay | fabLost | hldProgFail | evqLost |
      clkForced | clkRefFails | pwrSlacks =>
    exact .next (readReg_canonical _ _ hs)
  case regRead => exact .next (mgmtRead_canonical _ _ _ hs)
  case regWrite => exact .next (mgmtWrite_canonical _ _ _ hs)
  case job => exact .next (mgmtJob_canonical _ _ hs)
  case eventRead => exact .next (mgmtEvents_canonical _ _ hs)
  case keepalive => exact .next (mgmtKeepalive_canonical _ hs)
  case boardWrite => exact .next (mgmtBoard_canonical _ _ _ hs)
  case recovery => exact .next (mgmtRecovery_canonical _ _ _ _ _ hs)
  case entdaa => exact .next (assignAddr_canonical _ _ hs)
  case getEndpointId | getMctpVersionSupport | getMessageTypeSupport | getVendorMessageSupport =>
    exact .next (control_canonical _ _ hs)
  case setEndpointId => exact .next (setEid_canonical _ _ hs)
  case linkUp => exact .next (linkUp_canonical _ _ _ _ hs)
  case linkDown => exact .next (linkDown_canonical _ hs)
  case flr | hotReset => exact .next (functionReset_canonical _ hs)
  case perst => exact .next (perstInput_canonical _ _ hs)
  case dmaError => exact .next (dmaError_canonical _ _ hs)
  case monitorWindow => exact .next (monitorWindow_canonical _ _ _ hs)
  case generatorHoldover => exact .next (generatorHoldover_canonical _ hs)
  case referenceRestored => exact .next (referenceRestored_canonical _ hs)
  case clkResume => exact .next (writeGate_canonical _ _ _ (fun _ h => clkResume_canonical h) hs)
  case discard => exact .next (writeGate_canonical _ _ _ (fun _ h => clkDiscard_canonical h) hs)
  case sourceFb | sourceGen => exact .next (writeGate_canonical _ _ _ (fun _ h => askSource_canonical _ _ h) hs)
  case switchWatchdog => exact .next (forceSwitch_canonical _ hs)
  case governorTick => exact .next (governorTick_canonical hs)
  case coreIdle => exact .next (coreIdle_canonical _ hs)
  case powerWindow => exact .next (powerWindow_canonical _ hs)
  case slackEntered => exact .next (enterSlack_canonical _ _ hs)
  case releaseLevelCrossed | inputBelowReleaseLevel => exact .next (supplyBack_canonical _ hs)
  case slackReleaseTimer => exact .next (releaseSlack_canonical hs)
  case resetLevel => exact .next (resetLevel_canonical hs)
  case holdupCutoff => exact .next (holdupCutoff_canonical hs)
  case inputHigh => exact .next (inputHigh_canonical _ hs)
  case thermalTrip => exact .next (thermalTrip_canonical _ hs)
  case reset => exact .next (writeGate_canonical _ _ _ (fun _ => deviceReset_canonical _ _) hs)
  case powerOn => exact .next (powerOn_canonical _ hs)
  case referenceSettle => exact .next (referenceSettle_canonical _ hs)
  case slackTemperatureCleared => exact .next (coolBack_canonical _ hs)
  case tripCooldownComplete => exact .next (cooldownComplete_canonical hs)
  case inputHighEnded => exact .next (inputHighEnded_canonical hs)

theorem step_canonical (hs : canonical s) : CanonicalNext (step s) := by
  unfold step
  split
  · exact .next (background_canonical hs)
  · exact exec_canonical _ (canonical_frame rfl rfl rfl hs)

/-- Settles O5: each command's meaning is a composition of operations that keep the memories and tables canonical. -/
theorem stepKeepsCanonical : Obligations.StepKeepsCanonical := by
  intro s t hs ht
  obtain ⟨h⟩ := ht ▸ step_canonical hs
  exact h

end Sys2Proof.Machine
end

section
/-! Exact values (R53, R58, R130, R131): a sum, a difference or a product of finite values is the rational one. -/
namespace Sys2Proof.Machine
open Sys2Proof Sys2Proof.Safety

@[simp] theorem ratOf_zero (n : Bool) (e : Int) : ratOf n 0 e = 0 := by simp [ratOf]

theorem ratOf_not (n : Bool) (m : Nat) (e : Int) : ratOf (!n) m e = -ratOf n m e := by
  cases n <;> simp [ratOf]

/-- A sign and a magnitude taken from an integer give back that integer. -/
theorem ratOf_natAbs (i u : Int) : ratOf (decide (i < 0)) i.natAbs u = i * 2 ^ u := by
  rcases lt_or_ge i 0 with h | h
  · simp [ratOf, h, abs_of_neg]
  · simp [ratOf, not_lt.2 h, abs_of_nonneg h]

/-- A value aligned to a lower last place is the same value. -/
theorem alignInt_mul_pow (n : Bool) (m : Nat) {e u : Int} (h : u ≤ e) : (alignInt n m e u : ℚ) * 2 ^ u = ratOf n m e := by
  have hp : (2 : ℚ) ^ e = 2 ^ (e - u).toNat * 2 ^ u := by
    rw [← zpow_natCast, ← zpow_add₀ two_ne_zero, Int.toNat_of_nonneg (by omega), sub_add_cancel]
  cases n <;> simp [alignInt, ratOf, Nat.shiftLeft_eq, hp] <;> ring

theorem numAdd_fin (n1 n2 : Bool) (m1 m2 : Nat) (e1 e2 : Int) :
    ∃ n m e, numAdd (.fin n1 m1 e1) (.fin n2 m2 e2) = (.fin n m e, false) ∧ ratOf n m e = ratOf n1 m1 e1 + ratOf n2 m2 e2 := by
  simp only [numAdd]
  split
  · next h1 =>
    split
    · next h2 => exact ⟨_, _, _, rfl, by simp [h1, h2]⟩
    · exact ⟨_, _, _, rfl, by simp [h1]⟩
  · split
    · next h2 => exact ⟨_, _, _, rfl, by simp [h2]⟩
    · generalize hu : (if e1 ≤ e2 then e1 else e2) = u
      have hsum : ((alignInt n1 m1 e1 u + alignInt n2 m2 e2 u : Int) : ℚ) * 2 ^ u = ratOf n1 m1 e1 + ratOf n2 m2 e2 := by
        rw [Int.cast_add, add_mul, alignInt_mul_pow n1 m1 (by omega), alignInt_mul_pow n2 m2 (by omega)]
      split
      · next h => exact ⟨_, _, _, rfl, by rw [← hsum, h]; simp⟩
      · exact ⟨_, _, _, rfl, by rw [← hsum, ratOf_natAbs]⟩

theorem numSub_fin (n1 n2 : Bool) (m1 m2 : Nat) (e1 e2 : Int) :
    ∃ n m e, numSub (.fin n1 m1 e1) (.fin n2 m2 e2) = (.fin n m e, false) ∧ ratOf n m e = ratOf n1 m1 e1 - ratOf n2 m2 e2 := by
  rw [sub_eq_add_neg, ← ratOf_not]
  exact numAdd_fin n1 (!n2) m1 m2 e1 e2

theorem numMul_fin (n1 n2 : Bool) (m1 m2 : Nat) (e1 e2 : Int) :
    ∃ n m e, numMul (.fin n1 m1 e1) (.fin n2 m2 e2) = (.fin n m e, false) ∧ ratOf n m e = ratOf n1 m1 e1 * ratOf n2 m2 e2 := by
  refine ⟨_, _, _, rfl, ?_⟩
  simp only [ratOf, zpow_add₀ (two_ne_zero' ℚ), Nat.cast_mul]
  cases n1 <;> cases n2 <;> simp <;> ring

/-! Special cases of the division and the root. -/

theorem numDiv_zero (n1 n2 : Bool) {m : Nat} (e1 e2 : Int) (h : m ≠ 0) :
    numDiv (.fin n1 m e1) (.fin n2 0 e2) = (.inf (n1 != n2), false) := by simp [numDiv, h]

theorem zero_numDiv_zero (n1 n2 : Bool) (e1 e2 : Int) : numDiv (.fin n1 0 e1) (.fin n2 0 e2) = (.nan, true) := by simp [numDiv]

theorem zero_numDiv (n1 n2 : Bool) {m : Nat} (e1 e2 : Int) (h : m ≠ 0) :
    numDiv (.fin n1 0 e1) (.fin n2 m e2) = (.fin (n1 != n2) 0 0, false) := by simp [numDiv, h]

@[simp] theorem numDiv_nan (a : Machine.Num) : numDiv .nan a = (.nan, false) := by simp [numDiv]

theorem numSqrt_neg {m : Nat} (e : Int) (h : m ≠ 0) : numSqrt (.fin true m e) = (.nan, true) := by simp [numSqrt, h]

/-- Settles O6, from the exact sum, difference and product and the special cases of each operation. -/
theorem valueArithmetic : Obligations.ValueArithmetic := by
  refine ⟨fun n1 n2 m1 m2 e1 e2 => ⟨numAdd_fin .., numSub_fin .., numMul_fin ..⟩, ?_, ?_, ?_, ?_, ?_, ?_, ?_, ?_⟩
  · exact fun n1 n2 m e1 e2 hm => numDiv_zero n1 n2 e1 e2 (by omega)
  · exact zero_numDiv_zero
  · exact fun _ _ => rfl
  · intro n
    cases n <;> rfl
  · exact fun m e hm => numSqrt_neg e (by omega)
  · exact fun x => ⟨by simp [ewValue, numMin, isNan], by simp [ewValue, numMax, isNan]⟩
  · decide
  · decide

end Sys2Proof.Machine
end

section
/-! Element formats and tags (R47–R61): a finite encoding is its own rounding, a sign survives the rounding, and a tag is read back
from its bytes. -/
namespace Sys2Proof.Machine
open Sys2Proof Sys2Proof.Safety

/-! Significant bits and roundings that lose nothing. -/

theorem bitLen_le_iff {m k : Nat} : bitLen m ≤ k ↔ m < 2 ^ k := by
  unfold bitLen
  split
  · next h => simp [h]
  · next h => rw [Nat.succ_le_iff, Nat.log2_lt h]

/-- A significand between two powers of two. -/
theorem bitLen_eq_succ {m k : Nat} (h1 : 2 ^ k ≤ m) (h2 : m < 2 ^ (k + 1)) : bitLen m = k + 1 := by
  have hle := bitLen_le_iff.2 h2
  have hgt : ¬ bitLen m ≤ k := fun h => absurd (bitLen_le_iff.1 h) (by omega)
  omega

@[simp] theorem roundDy_zero (p : Nat) (lo e : Int) : roundDy p lo 0 e = (0, lo, false) := by simp [roundDy]

/-- A significand that fits the width at the least last place is its own rounding. -/
theorem roundDy_least {p m : Nat} (lo : Int) (h : bitLen m ≤ p) : roundDy p lo m lo = (m, lo, false) := by
  unfold roundDy
  split
  · next h0 => rw [h0]
  · have hu : (if lo + (bitLen m : Int) - (p : Int) < lo then lo else lo + (bitLen m : Int) - (p : Int)) = lo := by
      split <;> omega
    simp [hu]

/-- A significand that fills the width is its own rounding. -/
theorem roundDy_full {p m : Nat} {lo e : Int} (hp : p ≠ 0) (h : bitLen m = p) (hlo : lo ≤ e) : roundDy p lo m e = (m, e, false) := by
  have h0 : m ≠ 0 := by
    rintro rfl
    exact hp (by simpa [bitLen] using h.symm)
  have hu : (if e + (bitLen m : Int) - (p : Int) < lo then lo else e + (bitLen m : Int) - (p : Int)) = e := by
    split <;> omega
  simp [roundDy, h0, hu]

/-! Encodings of a binary format (R47). -/

theorem packMag_small {s : FloatSpec} {q : Nat} (u : Int) (h : q < 2 ^ s.fb) : packMag s q u = q := by
  unfold packMag
  split
  · next h0 => exact h0.symm
  · rw [if_pos (bitLen_le_iff.2 h)]

theorem packMag_normal (s : FloatSpec) {fr : Nat} (ex : Nat) (h : fr < 2 ^ s.fb) :
    packMag s (2 ^ s.fb + fr) ((ex : Int) - (s.bias : Int) - (s.fb : Int)) = ex * 2 ^ s.fb + fr := by
  have hb : bitLen (2 ^ s.fb + fr) = s.fb + 1 := bitLen_eq_succ (by omega) (by rw [pow_succ]; omega)
  simp [packMag, hb, Nat.mod_eq_of_lt h]

/-- The magnitude of an encoding is its exponent field above its fraction. -/
theorem mod_specSign (s : FloatSpec) (q : Nat) :
    q % specSign s = q / 2 ^ s.fb % 2 ^ s.eb * 2 ^ s.fb + q % 2 ^ s.fb := by
  rw [specSign, Nat.add_comm, pow_add, Nat.mod_mul]
  ring

theorem numNeg_decodePlain (s : FloatSpec) (q : Nat) : numNeg (decodePlain s q) = decide (q / specSign s % 2 = 1) := by
  unfold decodePlain
  extract_lets neg ex fr
  split <;> rfl

theorem isFin_decodePlain (s : FloatSpec) (q : Nat) : isFin (decodePlain s q) = true := by
  unfold decodePlain
  extract_lets neg ex fr
  split <;> rfl

theorem roundMag_subnormal {s : FloatSpec} {fr : Nat} (h : fr < 2 ^ s.fb) : roundMag s fr (specLo s) = (fr, false) := by
  have hlen : bitLen fr ≤ s.fb + 1 := (bitLen_le_iff.2 h).trans (Nat.le_succ _)
  simp [roundMag, roundDy_least _ hlen, packMag_small _ h]

theorem roundMag_normal {s : FloatSpec} {ex fr : Nat} (hex : ex ≠ 0) (h : fr < 2 ^ s.fb) :
    roundMag s (2 ^ s.fb + fr) ((ex : Int) - (s.bias : Int) - (s.fb : Int)) = (ex * 2 ^ s.fb + fr, false) := by
  have hlen : bitLen (2 ^ s.fb + fr) = s.fb + 1 := bitLen_eq_succ (by omega) (by rw [pow_succ]; omega)
  have hlo : specLo s ≤ (ex : Int) - (s.bias : Int) - (s.fb : Int) := by unfold specLo; omega
  simp [roundMag, roundDy_full (Nat.succ_ne_zero _) hlen hlo, packMag_normal s ex h]

/-- The value of an encoding rounds to that encoding's magnitude, and nothing is lost. -/
theorem roundMag_decodePlain {s : FloatSpec} {q m : Nat} {n : Bool} {e : Int} (h : decodePlain s q = .fin n m e) :
    roundMag s m e = (q % specSign s, false) := by
  have hfr : q % 2 ^ s.fb < 2 ^ s.fb := Nat.mod_lt _ (Nat.two_pow_pos _)
  rw [mod_specSign]
  unfold decodePlain at h
  extract_lets neg ex fr at h
  split at h
  · next hex =>
    obtain ⟨-, rfl, rfl⟩ := Num.fin.inj h
    rw [roundMag_subnormal hfr, show q / 2 ^ s.fb % 2 ^ s.eb = 0 from hex, Nat.zero_mul, Nat.zero_add]
  · next hex =>
    obtain ⟨-, rfl, rfl⟩ := Num.fin.inj h
    exact roundMag_normal hex hfr

/-- The top exponent field marks the magnitudes from the infinity's on. -/
theorem topExponent_iff (s : FloatSpec) (q : Nat) : q / 2 ^ s.fb % 2 ^ s.eb = 2 ^ s.eb - 1 ↔ specInf s ≤ q % specSign s := by
  rw [mod_specSign, specInf]
  have hex : q / 2 ^ s.fb % 2 ^ s.eb < 2 ^ s.eb := Nat.mod_lt _ (Nat.two_pow_pos _)
  have hfr : q % 2 ^ s.fb < 2 ^ s.fb := Nat.mod_lt _ (Nat.two_pow_pos _)
  generalize q / 2 ^ s.fb % 2 ^ s.eb = a at *
  generalize q % 2 ^ s.fb = b at *
  constructor
  · rintro rfl
    exact Nat.le_add_right _ _
  · intro h
    by_contra hne
    have := Nat.mul_le_mul_right (2 ^ s.fb) (show a + 1 ≤ 2 ^ s.eb - 1 by omega)
    rw [Nat.add_mul, Nat.one_mul] at this
    omega

theorem decodeIeee_of_lt {s : FloatSpec} {q : Nat} (h : q % specSign s < specInf s) : decodeIeee s q = decodePlain s q := by
  simp [decodeIeee, topExponent_iff, h]

theorem decodeIeee_of_ge {s : FloatSpec} {q : Nat} (h : specInf s ≤ q % specSign s) : isFin (decodeIeee s q) = false := by
  simp only [decodeIeee, topExponent_iff, h, if_true]
  split <;> rfl

/-! The formats (R47, R48). -/

theorem fmtMax_lt_specSign (f : Fmt) : fmtMax f < specSign (fmtSpec f) := by cases f <;> decide

theorem fmtMax_lt_specInf (f : Fmt) : fmtMax f < specInf (fmtSpec f) ∨ f = .e4m3 := by cases f <;> decide

theorem specInf_lt_specSign (f : Fmt) : specInf (fmtSpec f) < specSign (fmtSpec f) := by cases f <;> decide

/-- An element has a sign bit above its magnitude, and no more. -/
theorem two_mul_specSign (f : Fmt) : 2 * specSign (fmtSpec f) = 256 ^ fmtBytes f := by cases f <;> decide

/-- The magnitudes up to the largest finite one are plain numbers. -/
theorem decode_of_le {f : Fmt} {q : Nat} (h : q % specSign (fmtSpec f) ≤ fmtMax f) : decode f q = decodePlain (fmtSpec f) q := by
  cases f
  case e4m3 =>
    have h : q % 128 ≤ 126 := h
    have hne : ¬ q % 0x80 = 0x7F := by omega
    simp [decode, hne]
  all_goals exact decodeIeee_of_lt (h.trans_lt (by decide))

/-- The magnitudes beyond the largest finite one are none. -/
theorem decode_of_gt {f : Fmt} {q : Nat} (h : fmtMax f < q % specSign (fmtSpec f)) : isFin (decode f q) = false := by
  cases f
  case e4m3 =>
    have h : 126 < q % 128 := h
    have he : q % 0x80 = 0x7F := by omega
    simp [decode, he, isFin]
  all_goals exact decodeIeee_of_ge (Nat.succ_le_of_lt h)

theorem isFin_decode_iff {f : Fmt} {q : Nat} : isFin (decode f q) = true ↔ q % specSign (fmtSpec f) ≤ fmtMax f := by
  constructor
  · intro h
    by_contra hgt
    simp [decode_of_gt (not_le.1 hgt)] at h
  · intro h
    rw [decode_of_le h, isFin_decodePlain]

theorem fmtNan_lt (f : Fmt) : fmtNan f < 256 ^ fmtBytes f := by cases f <;> decide

/-! What the output rounding writes (R58–R61). -/

/-- The sign bit of a written element. -/
def signBit (f : Fmt) (n : Bool) : Nat := if n then specSign (fmtSpec f) else 0

theorem encodeOut_fits {f : Fmt} {m : Nat} {e : Int} (ovf n : Bool) (h : (roundMag (fmtSpec f) m e).1 ≤ fmtMax f) :
    encodeOut f ovf (.fin n m e) = (signBit f n + (roundMag (fmtSpec f) m e).1,
      flIf ((roundMag (fmtSpec f) m e).2 && m != 0 && belowPow2 m e (1 - ((fmtSpec f).bias : Int))) flUnf) := by
  simp [encodeOut, not_lt.2 h, signBit]

/-- A finite value is written with its sign above its rounding, above the largest finite number, or above the infinity of a format
that has one. -/
theorem encodeOut_fin_cases (f : Fmt) (ovf n : Bool) (m : Nat) (e : Int) :
    (∃ k ≤ fmtMax f, (encodeOut f ovf (.fin n m e)).1 = signBit f n + k) ∨
      f ≠ .e4m3 ∧ (encodeOut f ovf (.fin n m e)).1 = signBit f n + specInf (fmtSpec f) := by
  rcases le_or_gt (roundMag (fmtSpec f) m e).1 (fmtMax f) with h | h
  · exact .inl ⟨_, h, by rw [encodeOut_fits ovf n h]⟩
  · by_cases hs : (f == .e4m3 || ovf) = true
    · exact .inl ⟨_, le_rfl, by simp [encodeOut, h, signBit, hs]⟩
    · refine .inr ⟨?_, by simp [encodeOut, h, signBit, hs]⟩
      rintro rfl
      simp at hs

theorem signBit_add_mod {f : Fmt} {k : Nat} (n : Bool) (h : k < specSign (fmtSpec f)) :
    (signBit f n + k) % specSign (fmtSpec f) = k := by
  cases n <;> simp [signBit, Nat.mod_eq_of_lt h]

theorem signBit_add_lt {f : Fmt} {k : Nat} (n : Bool) (h : k < specSign (fmtSpec f)) : signBit f n + k < 256 ^ fmtBytes f := by
  rw [← two_mul_specSign, signBit]
  split <;> omega

/-- The sign of a written finite element is the sign bit. -/
theorem numNeg_decode_signBit {f : Fmt} {k : Nat} (n : Bool) (h : k ≤ fmtMax f) : numNeg (decode f (signBit f n + k)) = n := by
  have hk := h.trans_lt (fmtMax_lt_specSign f)
  rw [decode_of_le (by rwa [signBit_add_mod n hk]), numNeg_decodePlain]
  cases n
  · simp [signBit, Nat.div_eq_of_lt hk]
  · have hpos : 0 < specSign (fmtSpec f) := by omega
    simp [signBit, Nat.add_div_left _ hpos, Nat.div_eq_of_lt hk]

/-- A written element fits the bytes of its format. -/
theorem encodeOut_lt (f : Fmt) (ovf : Bool) (v : Machine.Num) : (encodeOut f ovf v).1 < 256 ^ fmtBytes f := by
  have hmax := fmtMax_lt_specSign f
  have hinf := specInf_lt_specSign f
  cases v with
  | nan => exact fmtNan_lt f
  | inf n =>
    simp only [encodeOut]
    split
    · exact signBit_add_lt n hmax
    · exact signBit_add_lt n hinf
  | fin n m e =>
    rcases encodeOut_fin_cases f ovf n m e with ⟨k, hk, h⟩ | ⟨_, h⟩
    · exact h ▸ signBit_add_lt n (by omega)
    · exact h ▸ signBit_add_lt n hinf

/-- R58: a finite encoding is its own rounding, with no flag. -/
theorem encodeOut_decode {f : Fmt} {q : Nat} (ovf : Bool) (hq : q < 256 ^ fmtBytes f) (h : isFin (decode f q) = true) :
    encodeOut f ovf (decode f q) = (q, 0) := by
  have hle := isFin_decode_iff.1 h
  have hneg := numNeg_decodePlain (fmtSpec f) q
  rw [decode_of_le hle]
  generalize hv : decodePlain (fmtSpec f) q = v at hneg
  have hfin := isFin_decodePlain (fmtSpec f) q
  rw [hv] at hfin
  obtain ⟨n, m, e⟩ | _ | _ := v
  · have hr := roundMag_decodePlain hv
    have hn : n = decide (q / specSign (fmtSpec f) % 2 = 1) := hneg
    rw [encodeOut_fits ovf n (by rwa [hr]), hr]
    have hdiv := Nat.div_add_mod q (specSign (fmtSpec f))
    have htwo : q / specSign (fmtSpec f) < 2 :=
      Nat.div_lt_of_lt_mul (by rw [Nat.mul_comm, two_mul_specSign]; exact hq)
    have hs : signBit f n = specSign (fmtSpec f) * (q / specSign (fmtSpec f)) := by
      rcases Nat.lt_succ_iff_lt_or_eq.1 htwo with h0 | h1
      · simp [hn, signBit, Nat.lt_one_iff.1 h0]
      · simp [hn, signBit, h1]
    simp [hs, hdiv, flIf]
  · cases hfin
  · cases hfin

theorem encodeOut_isNan {f : Fmt} {v : Machine.Num} (ovf : Bool) (h : isNan v = true) : encodeOut f ovf v = (fmtNan f, 0) := by
  cases v with
  | nan => rfl
  | _ => cases h

/-! The format tag (R51, R52). -/

theorem fmtOfCode_fmtCode (f : Fmt) : fmtOfCode (fmtCode f) = some f := by cases f <;> rfl

theorem fmtCode_lt (f : Fmt) : fmtCode f < 16 := by cases f <;> decide

theorem byteAt_tagBytes_fmt (t : Tag) : byteAt (tagBytes t) 0 = fmtCode t.fmt := by
  have := fmtCode_lt t.fmt
  simp [tagBytes, toLe, byteAt]
  omega

theorem byteAt_tagBytes_ovf (t : Tag) : byteAt (tagBytes t) 1 = if t.ovf then 1 else 0 := by
  cases h : t.ovf <;> simp [tagBytes, toLe, byteAt, h]

theorem fld_tagBytes_reserved (t : Tag) : fld (tagBytes t) 2 2 = 0 := by
  have h : sub (tagBytes t) 2 2 = toLe 2 0 := by
    simp [sub, tagBytes, toLe, List.range_succ]
  rw [fld, h, leNat_toLe]
  rfl

theorem fld_tagBytes_scale {t : Tag} (h : t.scale < 2 ^ 32) : fld (tagBytes t) 4 4 = t.scale := by
  have hsub : sub (tagBytes t) 4 4 = toLe 4 t.scale := by
    rw [tagBytes, sub_append_past _ _ 4 0 4 (by simp)]
    exact (congrArg (sub _ 0) (toLe_length 4 t.scale)).symm.trans (sub_self _)
  rw [fld, hsub, leNat_toLe]
  exact Nat.mod_eq_of_lt h

/-- R51, R52: a valid tag is read back from its bytes. -/
theorem parseTag_tagBytes {t : Tag} (ho : t.ovf = true → fmtShort t.fmt = true ∧ t.fmt ≠ .e4m3)
    (hs : if fmtShort t.fmt then 0x00800000 ≤ t.scale ∧ t.scale ≤ 0x7F7FFFFF else t.scale = 0x3F800000) :
    parseTag (tagBytes t) = some t := by
  have hlt : t.scale < 2 ^ 32 := by split at hs <;> omega
  have hcode := fmtCode_lt t.fmt
  obtain ⟨f, o, sc⟩ := t
  simp only [parseTag, byteAt_tagBytes_fmt, byteAt_tagBytes_ovf, fld_tagBytes_reserved, fld_tagBytes_scale hlt,
    Nat.mod_eq_of_lt hcode, Nat.div_eq_of_lt hcode, fmtOfCode_fmtCode]
  cases o <;> cases hf : fmtShort f <;> simp_all

/-- The scale of a valid tag is a normal FP32 number. -/
theorem parseTag_scale {b : Bytes} {t : Tag} (h : parseTag b = some t) : 0x00800000 ≤ t.scale ∧ t.scale ≤ 0x7F7FFFFF := by
  unfold parseTag at h
  extract_lets b0 b1 sc at h
  split at h
  · cases h
  · extract_lets at h
    split at h
    · cases h
    · split at h
      · cases h
      · split at h
        · split at h <;> cases h
          simp_all
        · split at h <;> cases h
          assumption

/-- Such a scale is positive. -/
theorem tagScale_pos {t : Tag} (h : 0x00800000 ≤ t.scale ∧ t.scale ≤ 0x7F7FFFFF) :
    ∃ m e, m ≠ 0 ∧ tagScale t = .fin false m e := by
  obtain ⟨h1, h2⟩ := h
  have hmag : t.scale % specSign (fmtSpec .fp32) ≤ fmtMax .fp32 := by
    show t.scale % 2147483648 ≤ 2139095039
    omega
  have hex : ¬ t.scale / 8388608 % 256 = 0 := by omega
  have hneg : ¬ t.scale / 2147483648 % 2 = 1 := by omega
  refine ⟨8388608 + t.scale % 8388608, (t.scale / 8388608 % 256 : Nat) - 127 - 23, by omega, ?_⟩
  rw [tagScale, decode_of_le hmag]
  simp [decodePlain, fmtSpec, specSign, hex, hneg]

theorem numMul_zero {v : Machine.Num} (n : Bool) (e : Int) (h : ∃ m k, v = .fin false m k) :
    ∃ k, (numMul v (.fin n 0 e)).1 = .fin n 0 k := by
  obtain ⟨m, k, rfl⟩ := h
  exact ⟨k + e, by simp [numMul]⟩

/-- The quotient of a zero by a positive scale. -/
theorem numDiv_tagScale_zero {t : Tag} (n : Bool) (e : Int) (h : 0x00800000 ≤ t.scale ∧ t.scale ≤ 0x7F7FFFFF) :
    (numDiv (.fin n 0 e) (tagScale t)).1 = .fin n 0 0 := by
  obtain ⟨m, k, hm, hv⟩ := tagScale_pos h
  rw [hv, zero_numDiv n false e k hm]
  simp

/-! Elements that a vector operation writes (R55, R62). -/

/-- The bits of a finished element are the output rounding of its value. -/
theorem finishElem_bits (t : Tag) (cc : Bool) (v : Machine.Num) (inv infIn snan : Bool) (extra : Ieee) :
    (finishElem t cc v inv infIn snan extra).1 = (writeVal t v).1 := by
  cases v with
  | nan => simp [finishElem, writeVal, encodeOut]
  | _ => rfl

/-- R64: a convert writes the output rounding of the element's value, but for an infinity of an exact pair (R66). -/
theorem cvElem_bits {d : Bytes} {o : Tag} {q : Nat}
    (h : isInf (valueOf (vTag (vTagX d)) q) = true → exactPair (vTag (vTagX d)).fmt o.fmt = false) :
    (cvElem d o q).1 = (writeVal o (valueOf (vTag (vTagX d)) q)).1 := by
  cases hv : valueOf (vTag (vTagX d)) q with
  | inf n => simp [cvElem, hv, h (by rw [hv]; rfl), finishElem_bits]
  | _ => simp [cvElem, hv, finishElem_bits]

/-- A zero is written as the sign bit alone. -/
theorem encodeOut_zero (f : Fmt) (ovf n : Bool) (e : Int) : (encodeOut f ovf (.fin n 0 e)).1 = signBit f n := by
  have h : roundMag (fmtSpec f) 0 e = (0, false) := by simp [roundMag, packMag]
  rw [encodeOut_fits ovf n (by rw [h]; exact Nat.zero_le _), h]
  rfl

theorem decode_signBit (f : Fmt) (n : Bool) : decode f (signBit f n) = .fin n 0 (specLo (fmtSpec f)) := by
  cases f <;> cases n <;> rfl

/-- R61: a result that rounds to zero keeps its sign. -/
theorem numNeg_encodeOut_zero {f : Fmt} {ovf n : Bool} {m : Nat} {e : Int}
    (h : isZero (decode f (encodeOut f ovf (.fin n m e)).1) = true) : numNeg (decode f (encodeOut f ovf (.fin n m e)).1) = n := by
  rcases encodeOut_fin_cases f ovf n m e with ⟨k, hk, he⟩ | ⟨hf, he⟩
  · rw [he, numNeg_decode_signBit n hk]
  · have hmax : fmtMax f < specInf (fmtSpec f) := (fmtMax_lt_specInf f).resolve_right hf
    have hnot : isFin (decode f (signBit f n + specInf (fmtSpec f))) = false :=
      decode_of_gt (by rwa [signBit_add_mod n (specInf_lt_specSign f)])
    rw [he] at h
    generalize decode f (signBit f n + specInf (fmtSpec f)) = v at h hnot
    cases v <;> simp_all [isFin, isZero]

/-- Settles O8, format by format: a finite encoding has a magnitude of at most the largest finite one, and is its own rounding. -/
theorem formatEncodingsRoundTrip : Obligations.FormatEncodingsRoundTrip :=
  ⟨fun _ ovf _ hq => ⟨encodeOut_decode ovf hq, encodeOut_isNan ovf⟩, fun _ => parseTag_tagBytes⟩

/-- Settles O9: the sign is written apart from the magnitude, and a valid scale is positive. -/
theorem zeroKeepsSign : Obligations.ZeroKeepsSign := by
  refine ⟨fun _ _ _ _ _ => numNeg_encodeOut_zero, fun d o q n e ho hx hq => ?_⟩
  obtain ⟨m, k, _, hs⟩ := tagScale_pos (parseTag_scale hx)
  obtain ⟨k', hv⟩ := numMul_zero n e ⟨m, k, hs⟩
  have hval : valueOf (vTag (vTagX d)) q = .fin n 0 k' := by rw [valueOf, hq, hv]
  have hbits : (cvElem d o q).1 = signBit o.fmt n := by
    rw [cvElem_bits (by simp [hval, isInf]), hval, writeVal, numDiv_tagScale_zero n k' (parseTag_scale ho), encodeOut_zero]
  exact ⟨_, by rw [hbits, decode_signBit]⟩

end Sys2Proof.Machine
end

section
/-! Runs of writes and rows of elements in device memory (R11, R38): what a read of a written range gives. -/
namespace Sys2Proof.Machine
open Sys2Proof Sys2Proof.Safety

/-! Lists that a fold collects. -/

/-- A fold that appends a list a step, the same whatever else it carries, collects them. -/
theorem foldl_append_flatten {α β γ : Type} {g : γ → α → γ} {f : α → List β} (p : γ → List β) (hg : ∀ a i, p (g a i) = p a ++ f i)
    (l : List α) (a : γ) : p (l.foldl g a) = p a ++ (l.map f).flatten := by
  induction l generalizing a with
  | nil => simp
  | cons i l ih => simp [ih, hg]

/-- From an empty list such a fold leaves their concatenation. -/
theorem foldl_flatten {α β γ : Type} {g : γ → α → γ} {f : α → List β} (p : γ → List β) (hg : ∀ a i, p (g a i) = p a ++ f i)
    (l : List α) {a : γ} (ha : p a = []) : p (l.foldl g a) = (l.map f).flatten := by
  rw [foldl_append_flatten p hg, ha, List.nil_append]

/-- From an empty list a fold that appends one item a step leaves a map. -/
theorem foldl_collect {α β γ : Type} {g : γ → α → γ} {f : α → β} (p : γ → List β) (hg : ∀ a i, p (g a i) = p a ++ [f i])
    (l : List α) {a : γ} (ha : p a = []) : p (l.foldl g a) = l.map f := by
  rw [foldl_flatten p hg l ha, ← List.flatMap_def, ← List.map_eq_flatMap]

/-! One write. -/

theorem rdMem_length (s : State) (a n : Nat) : (rdMem s a n).length = n := by simp [rdMem]

theorem rdElem_lt (s : State) (a n : Nat) : rdElem s a n < 256 ^ n := by
  have h := leNat_lt (rdMem s a n)
  rwa [rdMem_length] at h

/-- A read inside a range just written. -/
theorem rdMem_wrMem_inside {s : State} {a k n : Nat} {bs : Bytes} (h : Memory.wf s.mem = true) (hk : k + n ≤ bs.length) :
    rdMem (wrMem s a bs) (a + k) n = sub bs k n := by
  refine List.map_congr_left fun i hi => ?_
  have hi := List.mem_range.1 hi
  rw [wrMem_mem, Nat.add_assoc]
  exact smGet_wrD_inside a (k + i) bs h (by omega)

theorem rdMem_wrMem_apart {s : State} {a b n : Nat} {bs : Bytes} (h : Memory.wf s.mem = true)
    (hd : b + n ≤ a ∨ a + bs.length ≤ b) : rdMem (wrMem s a bs) b n = rdMem s b n := rdD_wrD_disjoint a b n bs h hd

/-! A run of writes. -/

/-- Two writes that share no byte. -/
def WritesApart (w v : Nat × Bytes) : Prop := w.1 + w.2.length ≤ v.1 ∨ v.1 + v.2.length ≤ w.1

/-- The range of a write. -/
def writeRange (w : Nat × Bytes) : Nat × Nat := (w.1, w.2.length)

theorem writeAll_cons (s : State) (w : Nat × Bytes) (ws : List (Nat × Bytes)) :
    writeAll s (w :: ws) = writeAll (wrMem s w.1 w.2) ws := rfl

theorem writeAll_append (s : State) (ws vs : List (Nat × Bytes)) : writeAll s (ws ++ vs) = writeAll (writeAll s ws) vs :=
  List.foldl_append

/-- Writes change device memory alone. -/
theorem writeAll_frame (s : State) (ws : List (Nat × Bytes)) : writeAll s ws = { s with mem := (writeAll s ws).mem } := by
  induction ws generalizing s with
  | nil => rfl
  | cons w ws ih => rw [writeAll_cons, ih]; rfl

@[simp] theorem writeAll_cores (s : State) (ws : List (Nat × Bytes)) : (writeAll s ws).cores = s.cores := by rw [writeAll_frame]

/-- The memory after writes depends on the memory before them alone. -/
theorem writeAll_mem_congr {s t : State} (h : s.mem = t.mem) (ws : List (Nat × Bytes)) : (writeAll s ws).mem = (writeAll t ws).mem := by
  induction ws generalizing s t with
  | nil => exact h
  | cons w ws ih => exact ih (by simp [h])

theorem writeAll_sameOutside {s : State} (h : Memory.wf s.mem = true) (ws : List (Nat × Bytes)) :
    Memory.wf (writeAll s ws).mem = true ∧ sameOutside s (writeAll s ws) (ws.map writeRange) :=
  foldl_wrMem Prod.fst Prod.snd _ ws (fun _ hw => List.mem_map_of_mem (f := writeRange) hw) s h

theorem rdMem_writeAll_apart {s : State} (h : Memory.wf s.mem = true) {ws : List (Nat × Bytes)} {b n : Nat}
    (hd : ∀ w ∈ ws, b + n ≤ w.1 ∨ w.1 + w.2.length ≤ b) : rdMem (writeAll s ws) b n = rdMem s b n := by
  induction ws generalizing s with
  | nil => rfl
  | cons w ws ih =>
    rw [writeAll_cons, ih (Memory.wf_wr _ _ h) fun v hv => hd v (List.mem_cons_of_mem _ hv),
      rdMem_wrMem_apart h (hd w List.mem_cons_self)]

/-- After writes that share no byte each of them reads back. -/
theorem rdMem_writeAll {s : State} (h : Memory.wf s.mem = true) {ws : List (Nat × Bytes)} (hp : ws.Pairwise WritesApart)
    {w : Nat × Bytes} (hw : w ∈ ws) {k n : Nat} (hk : k + n ≤ w.2.length) :
    rdMem (writeAll s ws) (w.1 + k) n = sub w.2 k n := by
  induction ws generalizing s with
  | nil => cases hw
  | cons v ws ih =>
    obtain ⟨hv, hp⟩ := List.pairwise_cons.1 hp
    have h1 : Memory.wf (wrMem s v.1 v.2).mem = true := Memory.wf_wr _ _ h
    rw [writeAll_cons]
    rcases List.mem_cons.1 hw with rfl | hw
    · rw [rdMem_writeAll_apart h1, rdMem_wrMem_inside h hk]
      intro u hu
      rcases hv u hu with hd | hd
      · exact .inl (by omega)
      · exact .inr (by omega)
    · exact ih h1 hp hw

theorem rdMem_writeAll_whole {s : State} (h : Memory.wf s.mem = true) {ws : List (Nat × Bytes)} (hp : ws.Pairwise WritesApart)
    {a : Nat} {b : Bytes} (hw : (a, b) ∈ ws) : rdMem (writeAll s ws) a b.length = b := by
  have hrd := rdMem_writeAll h hp hw (k := 0) (n := b.length) (Nat.zero_add _).le
  rwa [Nat.add_zero, sub_self] at hrd

/-! Rows of elements. -/

/-- Rows of one length at a stride that spans them share no byte. -/
theorem rows_apart {base ld len : Nat} {f : Nat → Bytes} {l : List Nat} (hl : l.Nodup) (hlen : ∀ m, (f m).length = len)
    (h : len ≤ ld) : (l.map fun m => (base + m * ld, f m)).Pairwise WritesApart := by
  refine List.pairwise_map.2 (hl.imp fun {a b} hab => ?_)
  simp only [WritesApart, hlen]
  rcases Nat.lt_or_gt_of_ne hab with hlt | hgt
  · have := Nat.mul_le_mul_right ld (Nat.succ_le_of_lt hlt)
    rw [Nat.succ_mul] at this
    exact .inl (by omega)
  · have := Nat.mul_le_mul_right ld (Nat.succ_le_of_lt hgt)
    rw [Nat.succ_mul] at this
    exact .inr (by omega)

/-- A piece of a concatenation of pieces of one length. -/
theorem sub_flatten {n i : Nat} {l : List Bytes} {b : Bytes} (hl : ∀ b ∈ l, b.length = n) (h : l[i]? = some b) :
    sub l.flatten (i * n) n = b := by
  induction l generalizing i with
  | nil => cases h
  | cons x l ih =>
    have hx : x.length = n := hl x List.mem_cons_self
    rw [List.flatten_cons]
    cases i with
    | zero =>
      obtain rfl : x = b := by simpa using h
      simpa using sub_prefix x l.flatten n hx
    | succ i =>
      rw [sub_append_past _ _ _ (i * n) n (by rw [hx, Nat.succ_mul, Nat.add_comm])]
      exact ih (fun b hb => hl b (List.mem_cons_of_mem _ hb)) h

theorem length_flatten_of_forall {n : Nat} {l : List Bytes} (hl : ∀ b ∈ l, b.length = n) : l.flatten.length = l.length * n := by
  rw [List.length_flatten, List.map_congr_left hl, List.map_const', List.sum_replicate, smul_eq_mul]

@[simp] theorem packRow_length (n : Nat) (l : List Nat) : (packRow n l).length = l.length * n := by
  rw [packRow, length_flatten_of_forall (n := n) (by simp), List.length_map]

@[simp] theorem deepBytes_length (w : W64 × W64) : (deepBytes w).length = 16 := by simp [deepBytes, le64]

/-- An element of a packed row. -/
theorem leNat_sub_packRow {n i v : Nat} {l : List Nat} (h : l[i]? = some v) (hv : v < 256 ^ n) :
    leNat (sub (packRow n l) (i * n) n) = v := by
  have hrow : sub (packRow n l) (i * n) n = toLe n v := sub_flatten (by simp) (by simp [h])
  rw [hrow, leNat_toLe, Nat.mod_eq_of_lt hv]

/-- An element of a row among rows that share no byte. -/
theorem rdElem_writeAll {s : State} (h : Memory.wf s.mem = true) {ws : List (Nat × Bytes)} (hp : ws.Pairwise WritesApart)
    {a n i v : Nat} {l : List Nat} (hw : (a, packRow n l) ∈ ws) (hl : l[i]? = some v) (hv : v < 256 ^ n) :
    rdElem (writeAll s ws) (a + i * n) n = v := by
  have hi : i < l.length := (List.getElem?_eq_some_iff.1 hl).1
  have hk : i * n + n ≤ (packRow n l).length := by
    rw [packRow_length, ← Nat.succ_mul]
    exact Nat.mul_le_mul_right n hi
  rw [rdElem, rdMem_writeAll h hp hw hk, leNat_sub_packRow hl hv]

/-- Rows of elements of `n` bytes at a stride. -/
def rowWrites (base ld n rows count : Nat) (bits : Nat → Nat → Nat) : List (Nat × Bytes) :=
  (List.range rows).map fun k => (base + k * ld, packRow n ((List.range count).map (bits k)))

theorem rowWrites_apart {base ld n rows count : Nat} {bits : Nat → Nat → Nat} (h : count * n ≤ ld) :
    (rowWrites base ld n rows count bits).Pairwise WritesApart :=
  rows_apart List.nodup_range (by simp) h

/-- An element of such rows, among writes that share no byte. -/
theorem rdElem_rowWrites {s : State} (h : Memory.wf s.mem = true) {ws : List (Nat × Bytes)} (hp : ws.Pairwise WritesApart)
    {base ld n rows count : Nat} {bits : Nat → Nat → Nat} (hw : ∀ w ∈ rowWrites base ld n rows count bits, w ∈ ws)
    {r i : Nat} (hr : r < rows) (hi : i < count) (hb : bits r i < 256 ^ n) :
    rdElem (writeAll s ws) (base + r * ld + i * n) n = bits r i :=
  rdElem_writeAll h hp (hw _ (List.mem_map_of_mem (List.mem_range.2 hr))) (by simp [hi]) hb

theorem rdMem_congr {s t : State} (h : t.mem = s.mem) (a n : Nat) : rdMem t a n = rdMem s a n := by rw [rdMem, h, rdMem]

theorem rdElem_congr {s t : State} (h : t.mem = s.mem) (a n : Nat) : rdElem t a n = rdElem s a n := by
  rw [rdElem, rdMem_congr h, rdElem]

end Sys2Proof.Machine
end

section
/-! The completion of a tile (R54, R88, R91, R95): its array work changes only its own deep entries in memory, its outputs are a run
of writes of rows that share no byte, and its record and its signal come last. -/
namespace Sys2Proof.Machine
open Sys2Proof Sys2Proof.Safety

/-! Array work (R89, R106). -/

/-- The deep entries of the fed rows of a tile. -/
def deepRanges (t : TileRun) : List (Nat × Nat) :=
  t.fed.flatMap fun m => (List.range (tN t.desc)).map fun n => (tDeepAddr t.desc m n, 16)

/-- What array work on a tile does: the tile keeps its descriptor and its fed rows, and of the state only device memory changes, in the
tile's deep entries. -/
structure ArrayWork (a b : State × TileRun) : Prop where
  desc : b.2.desc = a.2.desc
  fed : b.2.fed = a.2.fed
  frame : b.1 = { a.1 with mem := b.1.mem }
  wf : Memory.wf a.1.mem = true → Memory.wf b.1.mem = true
  mem : Memory.wf a.1.mem = true → sameOutside a.1 b.1 (deepRanges a.2)

variable {a b d : State × TileRun}

theorem deepRanges_congr {t u : TileRun} (hd : u.desc = t.desc) (hf : u.fed = t.fed) : deepRanges u = deepRanges t := by
  simp [deepRanges, hd, hf]

theorem mem_deepRanges {t : TileRun} {m n : Nat} (hm : m ∈ t.fed) (hn : n < tN t.desc) : (tDeepAddr t.desc m n, 16) ∈ deepRanges t :=
  List.mem_flatMap.2 ⟨m, hm, List.mem_map.2 ⟨n, List.mem_range.2 hn, rfl⟩⟩

/-- Work inside a tile that leaves the state alone. -/
theorem ArrayWork.of_tile {s : State} {t u : TileRun} (hd : u.desc = t.desc) (hf : u.fed = t.fed) : ArrayWork (s, t) (s, u) :=
  ⟨hd, hf, rfl, id, fun _ => sameOutside.refl _ _⟩

theorem ArrayWork.refl (a : State × TileRun) : ArrayWork a a := .of_tile rfl rfl

theorem ArrayWork.trans (h : ArrayWork a b) (k : ArrayWork b d) : ArrayWork a d where
  desc := k.desc.trans h.desc
  fed := k.fed.trans h.fed
  frame := by rw [k.frame, h.frame]
  wf hw := k.wf (h.wf hw)
  mem hw := (h.mem hw).trans (deepRanges_congr h.desc h.fed ▸ k.mem (h.wf hw))

/-- A fold of steps that each are array work on a tile with the descriptor and the fed rows of the first. -/
theorem ArrayWork.foldl {ι : Type} {g : State × TileRun → ι → State × TileRun} {l : List ι}
    (hg : ∀ b, ∀ i ∈ l, b.2.desc = a.2.desc → b.2.fed = a.2.fed → ArrayWork b (g b i)) : ArrayWork a (l.foldl g a) := by
  induction l generalizing a with
  | nil => exact .refl a
  | cons i l ih =>
    have h1 : ArrayWork a (g a i) := hg a i List.mem_cons_self rfl rfl
    exact h1.trans (ih fun b j hj hd hf => hg b j (List.mem_cons_of_mem _ hj) (hd.trans h1.desc) (hf.trans h1.fed))

theorem foldl_tile {ι : Type} {g : TileRun → ι → TileRun} (hg : ∀ t i, (g t i).desc = t.desc ∧ (g t i).fed = t.fed) (l : List ι)
    (t : TileRun) : (l.foldl g t).desc = t.desc ∧ (l.foldl g t).fed = t.fed := by
  induction l generalizing t with
  | nil => exact ⟨rfl, rfl⟩
  | cons i l ih =>
    obtain ⟨hd, hf⟩ := ih (g t i)
    exact ⟨hd.trans (hg t i).1, hf.trans (hg t i).2⟩

theorem rowBlock_tile (s : State) (t : TileRun) (m k : Nat) :
    (rowBlock s t m k).desc = t.desc ∧ (rowBlock s t m k).fed = t.fed :=
  foldl_tile (by exact fun _ _ => ⟨rfl, rfl⟩) _ t

theorem rowBlocks_tile (s : State) (t : TileRun) (m k e : Nat) :
    (rowBlocks s t m k e).desc = t.desc ∧ (rowBlocks s t m k e).fed = t.fed :=
  foldl_tile (fun t _ => rowBlock_tile s t m _) _ t

theorem spillElem_work (s : State) (t : TileRun) (k : Nat) {m n : Nat} (hm : m ∈ t.fed) (hn : n < tN t.desc) :
    ArrayWork (s, t) (spillElem s t k m n) where
  desc := rfl
  fed := rfl
  frame := rfl
  wf := Memory.wf_wr _ _
  mem hw := sameOutside.wrMem_mem hw (by rw [deepBytes_length]; exact mem_deepRanges hm hn)

theorem spillRow_work (s : State) (t : TileRun) (e : Nat) {m : Nat} (hm : m ∈ t.fed) : ArrayWork (s, t) (spillRow s t e m) := by
  refine ArrayWork.trans (ArrayWork.foldl (a := (s, t)) fun b n hn hd hf => ?_) (.of_tile rfl rfl)
  exact spillElem_work b.1 b.2 _ (hf ▸ hm) (hd ▸ List.mem_range.1 hn)

theorem spillNext_work (s : State) (t : TileRun) : ArrayWork (s, t) (spillNext s t) := by
  unfold spillNext
  extract_lets dsc
  split
  · exact .refl _
  · next m hm =>
    have hm : m ∈ t.fed := List.mem_of_getElem? hm
    dsimp only
    split
    · obtain ⟨hd, hf⟩ := rowBlocks_tile s t m t.block (tSegEnd t.desc t.block)
      have h1 : ArrayWork (s, t) (s, rowBlocks s t m t.block (tSegEnd t.desc t.block)) := .of_tile hd hf
      have h2 := h1.trans (spillRow_work s _ (tSegEnd t.desc t.block) (hf ▸ hm))
      generalize spillRow s _ (tSegEnd t.desc t.block) m = r at h2 ⊢
      split
      · exact h2.trans (.of_tile rfl rfl)
      · exact h2.trans (.of_tile rfl rfl)
    · exact .refl _

theorem spillRest_work (k : Nat) (s : State) (t : TileRun) : ArrayWork (s, t) (spillRest k s t) := by
  induction k generalizing s t with
  | zero => exact .refl _
  | succ k ih =>
    unfold spillRest
    dsimp only
    split
    · exact spillNext_work s t
    · exact (spillNext_work s t).trans (ih _ _)

theorem allBlock_work (s : State) (t : TileRun) : ArrayWork (s, t) (allBlock s t) := by
  unfold allBlock
  extract_lets dsc k t1 r
  split
  · exact .refl _
  · obtain ⟨hd, hf⟩ : t1.desc = t.desc ∧ t1.fed = t.fed := foldl_tile (fun t m => rowBlock_tile s t m k) _ t
    have h1 : ArrayWork (s, t) (s, t1) := .of_tile hd hf
    split
    · have h2 : ArrayWork (s, t1) r := .foldl fun b m hm _ hf' => spillRow_work b.1 b.2 _ (by rw [hf', hf]; exact hm)
      exact (h1.trans h2).trans (.of_tile rfl rfl)
    · exact h1.trans (.of_tile rfl rfl)

theorem allBlocks_work (k : Nat) (s : State) (t : TileRun) : ArrayWork (s, t) (allBlocks k s t) := by
  induction k generalizing s t with
  | zero => exact .refl _
  | succ k ih => exact (allBlock_work s t).trans (ih _ _)

/-- The rest of a tile's k-blocks is array work on it. -/
theorem finishBlocks_work (s : State) (t : TileRun) : ArrayWork (s, t) (finishBlocks s t) := by
  unfold finishBlocks
  dsimp only
  split
  · exact allBlocks_work _ s t
  · exact (spillRest_work _ s t).trans (allBlocks_work _ _ _)

end Sys2Proof.Machine
end

section
/-! What the completion of a tile writes (R54, R88, R91, R95). -/
namespace Sys2Proof.Machine
open Sys2Proof Sys2Proof.Safety

/-! The output rows. -/

/-- R54: the bits written for an element. -/
def outBits (t : TileRun) (m n : Nat) : Nat :=
  (encodeOut (tagOr (tTagO t.desc)).fmt (tagOr (tTagO t.desc)).ovf (outValue t.desc (deepValue t m n) (getAcc t.accs m n)).1).1

/-- The rows that MASK_FILL fills with zeros. -/
def maskedRows (t : TileRun) : List Nat := if tMaskFill t.desc then (List.range (tM t.desc)).filter fun m => !t.fed.contains m else []

/-- The bytes of an output row. -/
def outRowBytes (t : TileRun) (m : Nat) : Bytes :=
  if m ∈ t.fed then packRow (tEo t.desc) ((List.range (tN t.desc)).map (outBits t m)) else zeroBytes (tN t.desc * tEo t.desc)

/-- What a tile writes at its end: the fed rows and the filled ones. -/
def outWrites (t : TileRun) : List (Nat × Bytes) :=
  (t.fed ++ maskedRows t).map fun m => (tOut t.desc + m * tLdo t.desc, outRowBytes t m)

theorem outRow_bits (t : TileRun) (m : Nat) : (outRow t m).1 = (List.range (tN t.desc)).map (outBits t m) :=
  foldl_collect Prod.fst (by exact fun _ _ => rfl) _ rfl

/-- One fed row is written: memory, the tile with its flags noted, the amax. -/
def outRowStep (d : Bytes) (acc : State × TileRun × Machine.Num) (m : Nat) : State × TileRun × Machine.Num :=
  (wrMem acc.1 (tOut d + m * tLdo d) (packElems (tEo d) (outRow acc.2.1 m).1), { acc.2.1 with exc := (outRow acc.2.1 m).2 },
    amaxOf (tagOr (tTagO d)) (outRow acc.2.1 m).1 acc.2.2)

/-- Only the flags differ from row to row, so the rows are those of the tile before the first. -/
theorem foldl_outRowStep (t : TileRun) (l : List Nat) (hl : ∀ m ∈ l, m ∈ t.fed) (s : State) (r : ExcRec) (am : Machine.Num) :
    (l.foldl (outRowStep t.desc) (s, { t with exc := r }, am)).1 =
      writeAll s (l.map fun m => (tOut t.desc + m * tLdo t.desc, outRowBytes t m)) := by
  induction l generalizing s r am with
  | nil => rfl
  | cons m l ih =>
    have hrow : packElems (tEo t.desc) (outRow { t with exc := r } m).1 = outRowBytes t m := by
      rw [outRow_bits, outRowBytes, if_pos (hl m List.mem_cons_self)]
      rfl
    rw [List.foldl_cons, List.map_cons, writeAll_cons, ← hrow]
    exact ih (fun k hk => hl k (List.mem_cons_of_mem _ hk)) _ _ _

/-- The outputs of a tile are one run of writes. -/
theorem writeOutputs_state (s : State) (t : TileRun) : (writeOutputs s t).1 = writeAll s (outWrites t) := by
  have hfed := foldl_outRowStep t t.fed (fun _ => id) s t.exc numZero
  rw [outWrites, List.map_append, writeAll_append, ← hfed]
  unfold writeOutputs maskedRows
  extract_lets dsc o eo r s2
  show s2 = _
  simp only [s2]
  split
  · refine Eq.trans ?_ List.foldl_map.symm
    refine List.foldl_ext _ _ _ fun v m hm => ?_
    have hm : m ∉ t.fed := by simpa using (List.mem_filter.1 hm).2
    simp [outRowBytes, hm, dsc, eo]
  · rfl

@[simp] theorem outRowBytes_length (t : TileRun) (m : Nat) : (outRowBytes t m).length = tN t.desc * tEo t.desc := by
  unfold outRowBytes
  split <;> simp

theorem rows_nodup {t : TileRun} (h : t.fed.Nodup) : (t.fed ++ maskedRows t).Nodup := by
  unfold maskedRows
  split
  · refine List.Nodup.append h (List.nodup_range.filter _) fun m hm hr => ?_
    simp [hm] at hr
  · simpa using h

theorem outWrites_apart {t : TileRun} (h : t.fed.Nodup) (hs : tN t.desc * tEo t.desc ≤ tLdo t.desc) :
    (outWrites t).Pairwise WritesApart :=
  rows_apart (rows_nodup h) (outRowBytes_length t) hs

/-- Every output row is a row of the tile. -/
theorem mem_outWrites {t : TileRun} {w : Nat × Bytes} (h : w ∈ outWrites t) :
    ∃ m ∈ List.range (tM t.desc) ++ t.fed, w = (tOut t.desc + m * tLdo t.desc, outRowBytes t m) := by
  obtain ⟨m, hm, rfl⟩ := List.mem_map.1 h
  refine ⟨m, ?_, rfl⟩
  unfold maskedRows at hm
  split at hm
  · simp at hm ⊢
    tauto
  · simp_all

/-! The record and the signal (R88, R91, R126, R171). -/

variable {s : State} {c : CoreId}

theorem canonical_mem (hs : canonical s) : Memory.wf s.mem = true := hs.1

theorem canonical_cores (hs : canonical s) : smWf Core.init s.cores = true := by
  obtain ⟨_, _, _, _, _, h, _⟩ := hs
  exact h

@[simp] theorem getCore_raise (s : State) (c : CoreId) (code src : Nat) (p : Bytes) : getCore (raise s code src p) c = getCore s c := by
  simp [getCore, coreAt]

/-- What a core keeps while its records are counted: the tiles in flight and the token counters. -/
structure SameWork (s t : State) (c : CoreId) : Prop where
  mem : t.mem = s.mem
  tiles : (getCore t c).tiles = (getCore s c).tiles
  ctr : (getCore t c).ctr = (getCore s c).ctr

theorem SameWork.trans {s t u : State} (h : SameWork s t c) (k : SameWork t u c) : SameWork s u c :=
  ⟨k.mem.trans h.mem, k.tiles.trans h.tiles, k.ctr.trans h.ctr⟩

theorem SameWork.setCore {x : Core} (hs : canonical s) (ht : x.tiles = (getCore s c).tiles) (hc : x.ctr = (getCore s c).ctr) :
    SameWork s (Machine.setCore s c x) c := by
  have hcores : smWf Core.init s.cores = true := canonical_cores hs
  exact ⟨rfl, by simp [getCore_setCore_wf _ _ _ _ hcores, ht], by simp [getCore_setCore_wf _ _ _ _ hcores, hc]⟩

theorem finalRecord_sameWork (hs : canonical s) (r : ExcRec) (addr : Nat) : SameWork s (finalRecord s c r addr) c := by
  unfold finalRecord
  extract_lets s1 fl conds
  have h1 : canonical s1 ∧ SameWork s s1 c := ⟨updCore_canonical c _ hs, .setCore hs rfl rfl⟩
  refine (List.foldlRecOn (motive := fun t => canonical t ∧ SameWork s t c) conds _ h1 fun t ⟨ht, hw⟩ k _ => ?_).2
  dsimp only
  split
  · refine ⟨raise_canonical _ _ _ (setCore_canonical _ _ ht), hw.trans ?_⟩
    have h2 : SameWork t (Machine.setCore t c { getCore t c with raised := (getCore t c).raised ||| BitVec.ofNat 4 (2 ^ k.1) }) c :=
      .setCore ht rfl rfl
    exact ⟨by simp, by simpa using h2.tiles, by simpa using h2.ctr⟩
  · exact ⟨ht, hw⟩

theorem signalField_mem (s : State) (c : CoreId) (f : Nat) : (signalField s c f).mem = s.mem := by
  unfold signalField
  split
  · rfl
  · simp only [signalCtr]
    split <;> simp

theorem signalField_tiles (hs : canonical s) (f : Nat) : (getCore (signalField s c f) c).tiles = (getCore s c).tiles := by
  have hcores : smWf Core.init s.cores = true := canonical_cores hs
  unfold signalField
  split
  · rfl
  · simp only [signalCtr]
    split
    · simp
    · simp [getCore_setCore_wf _ _ _ _ hcores]

/-- A signal to a counter that is not full adds one token. -/
theorem signalField_ctr (hs : canonical s) {f : Nat} (hf : f ≠ 0xFF) (h : smGet 0 (getCore s c).ctr f < 1048575) :
    smGet 0 (getCore (signalField s c f) c).ctr f = smGet 0 (getCore s c).ctr f + 1 := by
  have hcores : smWf Core.init s.cores = true := canonical_cores hs
  rw [signalField, if_neg hf, signalCtr_below _ _ _ (by unfold tokenMax; omega), getCore_setCore_wf _ _ _ _ hcores]
  simp [smGet_smSet_ne]

/-! The completion. -/

/-- The last writes of a tile: the amax word and the record. -/
def tileEnd (v : State) (d : Bytes) (am : Machine.Num) (r : ExcRec) : State :=
  wrMem (if tGrad d then wrMem v (tAux d) (toLe 4 (toFp32 am)) else v) (tExc d) (excBytes r)

/-- The outputs of a tile, where it has some. -/
def tileOutputs (u : State) (t : TileRun) : State × TileRun × Machine.Num :=
  if tAccOut t.desc then (u, t, numZero) else writeOutputs u t

theorem tileOutputs_state (u : State) (t : TileRun) : (tileOutputs u t).1 = writeAll u (if tAccOut t.desc then [] else outWrites t) := by
  unfold tileOutputs
  split
  · rfl
  · exact writeOutputs_state u t

/-- A tile's end in the pieces that the statement names. -/
theorem finishTile_eq {u v w : State} {t t1 t2 : TileRun} {am : Machine.Num} {r : ExcRec} (hf : finishBlocks s t = (u, t1))
    (ho : (if tAccOut t.desc then (u, t1, numZero) else writeOutputs u t1) = (v, t2, am)) (hr : tileRecord t2 (tBlocks t.desc) = r)
    (hw : tileEnd v t.desc am r = w) :
    finishTile s c t = signalField (if tAccOut t.desc then w else finalRecord w c r (tExc t.desc)) c (tSig t.desc) := by
  subst hr hw
  simp only [finishTile, hf, ho, tileEnd]

theorem completeTile_eq {x : Core} {t : TileRun} {b : BroadcastMode} (hx : getCore s c = x) (ht : oldestOf b x.tiles = some t)
    (hf : frozen s = false) (ho : opStalled s c t.ord = false) :
    completeTile s c b = finishTile (setCore s c { x with tiles := x.tiles.erase t }) c t := by
  simp [completeTile, hx, ht, hf, ho]

theorem tileEnd_canonical {v : State} {d : Bytes} {am : Machine.Num} {r : ExcRec} (hv : canonical v) : canonical (tileEnd v d am r) := by
  unfold tileEnd
  split
  · exact wrMem_canonical _ _ (wrMem_canonical _ _ hv)
  · exact wrMem_canonical _ _ hv

theorem tileEnd_cores (v : State) (d : Bytes) (am : Machine.Num) (r : ExcRec) : (tileEnd v d am r).cores = v.cores := by
  unfold tileEnd
  split <;> simp

theorem tileEnd_sameOutside {v : State} (hv : Memory.wf v.mem = true) (d : Bytes) (am : Machine.Num) (r : ExcRec) :
    sameOutside v (tileEnd v d am r) [(tExc d, (excBytes r).length), (tAux d, 4)] := by
  unfold tileEnd
  split
  · exact (sameOutside.wrMem_mem hv (by simp)).trans (sameOutside.wrMem_mem (Memory.wf_wr _ _ hv) (by simp))
  · exact sameOutside.wrMem_mem hv (by simp)

/-- A range that neither the record nor the amax word meets. -/
theorem rdMem_tileEnd {v : State} (hv : Memory.wf v.mem = true) {d : Bytes} {am : Machine.Num} {r : ExcRec} {a n : Nat}
    (h : ∀ k ∈ (tExc d, (excBytes r).length) :: (if tGrad d then [(tAux d, 4)] else []), a + n ≤ k.1 ∨ k.1 + k.2 ≤ a) :
    rdMem (tileEnd v d am r) a n = rdMem v a n := by
  have hexc := h _ List.mem_cons_self
  unfold tileEnd
  split
  · next hg =>
    have haux : a + n ≤ tAux d ∨ tAux d + 4 ≤ a := h (tAux d, 4) (by simp [hg])
    rw [rdMem_wrMem_apart (Memory.wf_wr _ _ hv) hexc, rdMem_wrMem_apart hv (by simpa using haux)]
  · rw [rdMem_wrMem_apart hv hexc]

theorem rdMem_tileEnd_record {v : State} (hv : Memory.wf v.mem = true) (d : Bytes) (am : Machine.Num) (r : ExcRec) :
    rdMem (tileEnd v d am r) (tExc d) (excBytes r).length = excBytes r := by
  unfold tileEnd
  split
  · exact rdMem_wrMem _ _ _ (Memory.wf_wr _ _ hv)
  · exact rdMem_wrMem _ _ _ hv

/-- A piece of an output row as it stands after the tile's last writes, which do not meet the row. -/
theorem rdMem_outRow {u : State} (hu : Memory.wf u.mem = true) {t : TileRun} {am : Machine.Num} {r : ExcRec} (hn : t.fed.Nodup)
    (hs : tN t.desc * tEo t.desc ≤ tLdo t.desc) {m k n : Nat} (hm : m ∈ t.fed ++ maskedRows t) (hk : k + n ≤ tN t.desc * tEo t.desc)
    (ha : ∀ q ∈ (tExc t.desc, (excBytes r).length) :: (if tGrad t.desc then [(tAux t.desc, 4)] else []),
      q.1 + q.2 ≤ tOut t.desc + m * tLdo t.desc ∨ tOut t.desc + m * tLdo t.desc + tN t.desc * tEo t.desc ≤ q.1) :
    rdMem (tileEnd (writeAll u (outWrites t)) t.desc am r) (tOut t.desc + m * tLdo t.desc + k) n = sub (outRowBytes t m) k n := by
  rw [rdMem_tileEnd (writeAll_sameOutside hu _).1 fun q hq => by have := ha q hq; omega]
  exact rdMem_writeAll hu (outWrites_apart hn hs) (List.mem_map_of_mem hm) (by rwa [outRowBytes_length])

section
variable {u v w : State} {t t1 t2 : TileRun} {am : Machine.Num} {r : ExcRec} (hs : canonical s) (hf : finishBlocks s t = (u, t1))
  (ho : (if tAccOut t.desc then (u, t1, numZero) else writeOutputs u t1) = (v, t2, am)) (hw : tileEnd v t.desc am r = w)

include hf in
theorem finishBlocks_tile : t1.desc = t.desc ∧ t1.fed = t.fed := by
  have h := finishBlocks_work s t
  rw [hf] at h
  exact ⟨h.desc, h.fed⟩

include hs hf in
theorem finishBlocks_state_canonical : canonical u := by
  have h := finishBlocks_canonical t hs
  rwa [hf] at h

include hf ho in
/-- Before the last writes stand the outputs of the finished tile. -/
theorem finishedOutputs : v = writeAll u (if tAccOut t.desc then [] else outWrites t1) := by
  have h := tileOutputs_state u t1
  rw [tileOutputs, (finishBlocks_tile hf).1, ho] at h
  exact h

include hs hf ho hw in
theorem finishedTile_canonical : canonical v ∧ canonical w := by
  have hv : canonical v := finishedOutputs hf ho ▸ writeAll_canonical _ (finishBlocks_state_canonical hs hf)
  exact ⟨hv, hw ▸ tileEnd_canonical hv⟩

include hf ho hw in
theorem finishedTile_cores : w.cores = s.cores := by
  have hc := congrArg State.cores (finishBlocks_work s t).frame
  rw [hf] at hc
  have hu : u.cores = s.cores := hc
  rw [← hw, tileEnd_cores, finishedOutputs hf ho, writeAll_cores, hu]

include hs hf ho hw in
/-- All that the tile's end writes: its record, the amax word, its rows and its deep entries. -/
theorem finishedTile_sameOutside : sameOutside s w ([(tExc t.desc, (excBytes r).length), (tAux t.desc, 4)] ++
    ((List.range (tM t.desc) ++ t.fed).map fun m => (tOut t.desc + m * tLdo t.desc, tN t.desc * tEo t.desc)) ++ deepRanges t) := by
  obtain ⟨hd, hfed⟩ := finishBlocks_tile hf
  have hcu := finishBlocks_state_canonical hs hf
  have hv := finishedOutputs hf ho
  have hdeep : sameOutside s u (deepRanges t) := by
    have h := (finishBlocks_work s t).mem (canonical_mem hs)
    rwa [hf] at h
  have hrows : sameOutside u v
      ((List.range (tM t.desc) ++ t.fed).map fun m => (tOut t.desc + m * tLdo t.desc, tN t.desc * tEo t.desc)) := by
    rw [hv]
    refine (writeAll_sameOutside (canonical_mem hcu) _).2.mono fun q hq => ?_
    obtain ⟨p, hp, rfl⟩ := List.mem_map.1 hq
    split at hp
    · cases hp
    · obtain ⟨m, hm, rfl⟩ := mem_outWrites hp
      rw [hd, hfed] at hm
      exact List.mem_map.2 ⟨m, hm, by simp [writeRange, hd]⟩
  have hend := tileEnd_sameOutside (canonical_mem (finishedTile_canonical hs hf ho hw).1) t.desc am r
  rw [hw] at hend
  exact (hdeep.mono fun _ => List.mem_append_right _).trans
    ((hrows.mono fun _ hq => List.mem_append_left _ (List.mem_append_right _ hq)).trans
      (hend.mono fun _ hq => List.mem_append_left _ (List.mem_append_left _ hq)))

include hs hf ho hw in
/-- A piece of an output row, at the end. -/
theorem finishedTile_row (ha : tAccOut t.desc = false) (hn : t.fed.Nodup) (hl : tN t.desc * tEo t.desc ≤ tLdo t.desc) {m k n : Nat}
    (hm : m ∈ t.fed ++ maskedRows t) (hk : k + n ≤ tN t.desc * tEo t.desc)
    (hap : ∀ q ∈ (tExc t.desc, (excBytes r).length) :: (if tGrad t.desc then [(tAux t.desc, 4)] else []),
      q.1 + q.2 ≤ tOut t.desc + m * tLdo t.desc ∨ tOut t.desc + m * tLdo t.desc + tN t.desc * tEo t.desc ≤ q.1) :
    rdMem w (tOut t.desc + m * tLdo t.desc + k) n = sub (outRowBytes t1 m) k n := by
  obtain ⟨hd, hfed⟩ := finishBlocks_tile hf
  have hv : v = writeAll u (outWrites t1) := by simpa [ha] using finishedOutputs hf ho
  have hrows : t1.fed ++ maskedRows t1 = t.fed ++ maskedRows t := by simp [maskedRows, hd, hfed]
  rw [← hw, hv, ← hd]
  rw [← hd] at hl hk hap
  exact rdMem_outRow (canonical_mem (finishBlocks_state_canonical hs hf)) (hfed ▸ hn) hl (hrows ▸ hm) hk hap

end

/-- The bits of an element of an output row. -/
theorem leNat_outRowBytes {t : TileRun} {m n : Nat} (ha : tAccOut t.desc = false) (hm : m ∈ t.fed) (hn : n < tN t.desc) :
    leNat (sub (outRowBytes t m) (n * tEo t.desc) (tEo t.desc)) = outBits t m n := by
  rw [outRowBytes, if_pos hm]
  refine leNat_sub_packRow (by simp [hn]) ?_
  have h := encodeOut_lt (tagOr (tTagO t.desc)).fmt (tagOr (tTagO t.desc)).ovf (outValue t.desc (deepValue t m n) (getAcc t.accs m n)).1
  simpa [tEo, ha, tagSize, outBits] using h

/-- Settles O14: array work, the output rows, the amax word and the record are writes at named places, and the signal comes last. -/
theorem tileCompleteWritesRecord : Obligations.TileCompleteWritesRecord := by
  intro s u v w c x b t t1 t2 am r hx ht hf ho hs hfin hout hr hw
  have hw : tileEnd v t.desc am r = w := hw
  have hs0 := setCore_canonical c { x with tiles := x.tiles.erase t } hs
  have hz : exec (.tileComplete c b) s =
      .next (signalField (if tAccOut t.desc then w else finalRecord w c r (tExc t.desc)) c (tSig t.desc)) :=
    congrArg Host.Outcome.next ((completeTile_eq hx ht hf ho).trans (finishTile_eq hfin hout hr hw))
  have hcw := (finishedTile_canonical hs0 hfin hout hw).2
  have hcore : getCore w c = { x with tiles := x.tiles.erase t } := by
    rw [getCore, coreAt, finishedTile_cores hfin hout hw]
    exact (getCore_setCore_wf s c c _ (canonical_cores hs)).trans (if_pos rfl)
  generalize hz0 : (if tAccOut t.desc then w else finalRecord w c r (tExc t.desc)) = z0 at hz
  obtain ⟨hcz, hsame⟩ : canonical z0 ∧ SameWork w z0 c := by
    rw [← hz0]
    split
    · exact ⟨hcw, rfl, rfl, rfl⟩
    · exact ⟨finalRecord_canonical c r _ hcw, finalRecord_sameWork hcw r _⟩
  have hmem : (signalField z0 c (tSig t.desc)).mem = w.mem := (signalField_mem ..).trans hsame.mem
  have hctr : (getCore z0 c).ctr = x.ctr := by rw [hsame.ctr, hcore]
  have hrd (a n : Nat) : rdMem (signalField z0 c (tSig t.desc)) a n = rdMem w a n := rdMem_congr hmem a n
  refine ⟨hz, _, hz, hmem, ?_, ?_, ?_, ?_, ?_, ?_⟩
  · rw [signalField_tiles hcz, hsame.tiles, hcore]
  · rw [hrd, ← hw, rdMem_tileEnd_record (canonical_mem (finishedTile_canonical hs0 hfin hout hw).1)]
  · intro h
    rw [h]
    exact hctr
  · intro h hlt
    rw [signalField_ctr hcz h (by rwa [hctr]), hctr]
  · intro hacc hlen hnd hfed hap
    obtain ⟨hd1, hf1⟩ := finishBlocks_tile hfin
    constructor
    · rintro o rfl m hm n hn
      have hk : n * tEo t.desc + tEo t.desc ≤ tN t.desc * tEo t.desc := by
        rw [← Nat.succ_mul]
        exact Nat.mul_le_mul_right _ hn
      rw [rdElem, hrd, finishedTile_row hs0 hfin hout hw hacc hnd hlen (List.mem_append_left _ hm) hk (hap m (hfed m hm)), ← hd1]
      exact leNat_outRowBytes (hd1 ▸ hacc) (hf1 ▸ hm) (hd1 ▸ hn)
    · intro hfill m hm hnot
      have hmr : m ∈ maskedRows t := by simp [maskedRows, hfill, hm, hnot]
      have hrow := finishedTile_row hs0 hfin hout hw hacc hnd hlen (List.mem_append_right _ hmr) (k := 0) (Nat.zero_add _).le (hap m hm)
      rw [hrd, ← Nat.add_zero (tOut t.desc + _), hrow, outRowBytes, if_neg (hf1 ▸ hnot), hd1]
      simpa using sub_self (zeroBytes (tN t.desc * tEo t.desc))
  · exact (finishedTile_sameOutside hs0 hfin hout hw).congr rfl hmem

end Sys2Proof.Machine
end

section
/-! The start of a vector operation (R134, R138, R139, R170, R483): what passes validation, and what a start changes. -/
namespace Sys2Proof.Machine
open Sys2Proof Sys2Proof.Safety

/-! Validation: the form and the placement of a descriptor that passes. -/

theorem check_ok {s : State} {form place : Bool} {ranges writes : List (Nat × Nat)} (h : check s form ranges place writes = .ok) :
    form = true ∧ place = true := by
  unfold check at h
  split at h
  · cases h
  · split at h
    · cases h
    · split at h
      · cases h
      · simp_all

theorem vCheck_place {s : State} {c : CoreId} {form place : Bool} {d : Bytes} {l : List VRange}
    (h : vCheck s c form d l place = .ok) : place = true := by
  unfold vCheck at h
  have hp := (check_ok h).2
  simp only [Bool.and_eq_true] at hp
  exact hp.1

theorem vCheck1_place {s : State} {c : CoreId} {d : Bytes} {form place : Bool} {reads : List (VRange × Bool)} {out : VRange}
    (h : vCheck1 s c d form reads out place = .ok) : place = true := by
  have hp := vCheck_place h
  simp only [Bool.and_eq_true] at hp
  exact hp.1

theorem strideOk_le {ld n e : Nat} (h : strideOk ld n e = true) : n * e ≤ ld := by
  simp only [strideOk, Bool.and_eq_true, decide_eq_true_eq] at h
  exact h.1

variable {s : State} {c : CoreId} {d : Bytes}

/-- The output rows of an elementwise operation or a transcendental that passes do not overlap. -/
theorem ewCheck_stride (h : ewCheck s c d = .ok) : vCount d * vEo d ≤ vLdo d := by
  have hp := vCheck1_place h
  simp only [Bool.and_eq_true] at hp
  exact strideOk_le hp.2

theorem redCheck_stride (h : redCheck s c d = .ok) : vEo d ≤ vLdo d := by
  have hp := vCheck1_place h
  simp only [Bool.and_eq_true] at hp
  simpa using strideOk_le hp.1.2

/-- A convert that passes has rows apart in its output and in its residue, and neither meets the other. -/
theorem cvCheck_rows (h : cvCheck s c d = .ok) : vCount d * vEo d ≤ vLdo d ∧ (cvResidue d = true → vCount d * 4 ≤ vLdy d ∧
    vOverlap (spanOf (vY d) (vLdy d) (vRows d) (vCount d) 4) (spanOf (vOut d) (vLdo d) (vRows d) (vCount d) (vEo d)) = false) := by
  unfold cvCheck at h
  have hp := vCheck_place h
  simp only [Bool.and_eq_true] at hp
  obtain ⟨⟨⟨⟨_, hout⟩, hres⟩, _⟩, hap⟩ := hp
  refine ⟨strideOk_le hout, fun hr => ?_⟩
  simp only [hr, Bool.not_true, Bool.false_or, Bool.and_eq_true] at hres
  simp only [cvApart, hr, if_true, List.all_cons, List.all_nil, Bool.and_eq_true, Bool.not_eq_true'] at hap
  exact ⟨strideOk_le hres.2, hap.2.1.2⟩

theorem winCheck_stride (h : winCheck s c d = .ok) :
    (if vOp d = 0x44 then wFh d * wFw d * wC d else wOw d * wC d) * tagSize (vTag (vTagO d)) ≤ wLdo d := by
  have hp := vCheck1_place h
  simp only [Bool.and_eq_true] at hp
  obtain ⟨⟨⟨⟨⟨⟨_, hout⟩, _⟩, _⟩, _⟩, _⟩, _⟩ := hp
  simpa using strideOk_le hout

/-- PATCH writes under the tag that it reads. -/
theorem winCheck_patchTags (h : winCheck s c d = .ok) (hop : vOp d = 0x44) : vTagO d = vTagX d := by
  have hp := vCheck1_place h
  simp only [Bool.and_eq_true] at hp
  have htags := hp.2
  simp only [hop] at htags
  simp at htags
  simp [vTagO, vTagX, hop, htags.1]

/-! The commands of the vector unit (R134). -/

/-- The commands that start vector operations, with their operation codes. -/
def vectorCommands (c : CoreId) : List (Instr × Nat) :=
  [(.add c, 0x01), (.sub c, 0x02), (.mul c, 0x03), (.div c, 0x04), (.sqrt c, 0x05), (.fma c, 0x06), (.min c, 0x07),
    (.max c, 0x08), (.cmp c, 0x09), (.abs c, 0x0A), (.neg c, 0x0B), (.scale c, 0x0C), (.exp c, 0x10), (.log c, 0x11),
    (.tanh c, 0x12), (.sigmoid c, 0x13), (.rsqrt c, 0x14), (.recip c, 0x15), (.sin c, 0x16), (.cos c, 0x17), (.erf c, 0x18),
    (.gelu c, 0x19), (.sum c, 0x20), (.sumsq c, 0x21), (.maxReduction c, 0x22), (.minReduction c, 0x23), (.amax c, 0x24),
    (.merge c, 0x25), (.convert c, 0x30), (.digest c, 0x31), (.conv c, 0x40), (.tconv c, 0x41), (.maxpool c, 0x42),
    (.avgpool c, 0x43), (.patch c, 0x44), (.argmax c, 0x50), (.boxdec c, 0x51), (.suppress c, 0x52)]

/-- Each of them starts the operation of its code. -/
theorem exec_vectorCommand (s : State) {i : Instr} {op : Nat} (h : (i, op) ∈ vectorCommands c) : exec i s = .next (startVec op s c) := by
  have hall : ∀ p ∈ vectorCommands c, exec p.1 s = .next (startVec p.2 s c) := by
    simp only [vectorCommands, List.forall_mem_cons, List.not_mem_nil, false_imp_iff, implies_true, and_true]
    and_intros <;> rfl
  exact hall _ h

/-! The start. -/

/-- The operation in flight that a started descriptor becomes. -/
def startedRun (s : State) (e : QEntry) : VecRun :=
  { desc := desc128 s e, exc := (vecOut s (desc128 s e)).exc, res := BitVec.ofNat 64 (vecOut s (desc128 s e)).res,
    otag := vecOtag (desc128 s e) (vecOut s (desc128 s e)).scale, final := vecFinal (desc128 s e), ord := e.ord }

theorem startedRun_fields (s : State) (e : QEntry) : (startedRun s e).desc = desc128 s e ∧
    (startedRun s e).exc = (vecOut s (desc128 s e)).exc ∧ (startedRun s e).ord = e.ord ∧
    (startedRun s e).res = BitVec.ofNat 64 (vecOut s (desc128 s e)).res ∧
    (startedRun s e).otag = vecOtag (desc128 s e) (vecOut s (desc128 s e)).scale ∧
    (startedRun s e).final = vecFinal (desc128 s e) := by
  simp only [startedRun, and_self]

/-- Whether the head of a core's vector queue may start now. -/
structure MayStart (s : State) (c : CoreId) (x : Core) (e : QEntry) (rest : List QEntry) : Prop where
  core : getCore s c = x
  queue : x.vecQ = e :: rest
  running : s.stp.state ≠ .suspended
  awake : x.idle = false
  going : x.stopped = false
  free : x.vec = none
  ready : ready s x e = true
  clocked : computeStopped s (coreIsland c) = false

variable {x : Core} {e : QEntry} {rest : List QEntry}

theorem startVec_ok (h : MayStart s c x e rest) (hk : vecCheck s c (desc128 s e) = .ok) :
    startVec (vOp (desc128 s e)) s c =
      writeAll (setCore s c { consume x e with vecQ := rest, vec := some (startedRun s e) }) (vecOut s (desc128 s e)).writes := by
  obtain ⟨rfl, hq, hr, hi, hg, hv, hy, hc⟩ := h
  simp [startVec, suspended, startedRun, *]

/-- A descriptor that fails validation leaves the queue, takes no token and raises the event of the step that it failed. -/
theorem startVec_fails (h : MayStart s c x e rest) (hk : vecCheck s c (desc128 s e) ≠ .ok) :
    startVec (vOp (desc128 s e)) s c =
      failCheck (setCore s c { x with vecQ := rest }) c 0x1002 (vecCheck s c (desc128 s e)) := by
  obtain ⟨rfl, hq, hr, hi, hg, hv, hy, hc⟩ := h
  generalize hd : desc128 s e = d at hk ⊢
  cases hc' : vecCheck s c d <;> simp_all [startVec, suspended]

theorem failCheck_invalid (s : State) (c : CoreId) :
    failCheck s c 0x1002 .invalid = raise s 0x1002 (srcCore c) (toLe 4 (srcCore c)) := rfl

end Sys2Proof.Machine
end

section
/-! What the vector operations write, element by element: elementwise operations, transcendentals and converts (R55, R64, R69, R130–R134,
R144). -/
namespace Sys2Proof.Machine
open Sys2Proof Sys2Proof.Safety

variable {s t : State} {c : CoreId} {d : Bytes}

/-! Output elements. -/

/-- But for CMP, which writes bytes, and sums left as deep entries, an output element has the size of the output tag. -/
theorem vEo_eq (h9 : vOp d ≠ 9) (hd : vDeepOut d = false) : vEo d = tagSize (vTag (vTagO d)) := by simp [vEo, h9, hd]

theorem vDeepOut_false (h : vOp d ≠ 0x20 ∧ vOp d ≠ 0x21) : vDeepOut d = false := by simp [vDeepOut, h]

theorem writeVal_lt (t : Tag) (v : Machine.Num) : (writeVal t v).1 < 256 ^ tagSize t := encodeOut_lt ..

/-- The scale of a tag in a descriptor, or of the one that stands where there is none, is valid. -/
theorem vTag_scale (b : Bytes) : 0x00800000 ≤ (vTag (parseTag b)).scale ∧ (vTag (parseTag b)).scale ≤ 0x7F7FFFFF := by
  unfold vTag
  cases h : parseTag b with
  | none => decide
  | some t => exact parseTag_scale h

/-! Rows without concealed samples. -/

theorem concealed_false (h : vConc d = false) (idx : Nat) : concealed s d idx = false := by simp [concealed, h]

/-- The output and the residue bits of every row. -/
theorem rowsWork_rows (h : vConc d = false) (exc : ExcRec) (f : Nat → Nat → Bool → Nat × Nat × Flags × Ieee) :
    (rowsWork s d exc f).1 = (List.range (vRows d)).map fun r =>
      ((List.range (vCount d)).map fun i => (f r i false).1, (List.range (vCount d)).map fun i => (f r i false).2.1) := by
  refine foldl_collect Prod.fst (fun acc r => ?_) _ rfl
  simp only [List.append_cancel_left_eq, List.cons.injEq, and_true, Prod.mk.injEq]
  constructor
  · exact foldl_collect Prod.fst (by simp [concealed_false h]) _ rfl
  · exact foldl_collect (fun a : List Nat × List Nat × ExcRec × Ieee => a.2.1) (by simp [concealed_false h]) _ rfl

/-- The rows of a list of rows, packed at a stride. -/
theorem map_packRow (base ld n rows count : Nat) (l : List (List Nat × List Nat)) (p : List Nat × List Nat → List Nat) (bits : Nat → Nat → Nat)
    (h : ∀ k < rows, p (l.getD k ([], [])) = (List.range count).map (bits k)) :
    ((List.range rows).map fun k => (base + k * ld, packRow n (p (l.getD k ([], []))))) = rowWrites base ld n rows count bits :=
  List.map_congr_left fun k hk => by rw [h k (List.mem_range.1 hk)]

/-! Elementwise operations. -/

/-- The bits of an output element of an elementwise operation. -/
def ewBits (s : State) (d : Bytes) (r i : Nat) : Nat :=
  (ewElem d (rdElem s (vX d + r * vLdx d + i * vEx d) (vEx d))
    (if readsY d then rdElem s (vY d + r * vLdy d + i * vEy d) (vEy d) else 0)
    (if vOp d = 6 then rdElem s (vAux d + r * vLdo d + i * vEo d) (vEo d) else 0)).1

theorem ewOut_writes (h : vConc d = false) :
    (ewOut s d).writes = rowWrites (vOut d) (vLdo d) (vEo d) (vRows d) (vCount d) (ewBits s d) :=
  map_packRow _ _ _ _ _ _ Prod.fst _ fun k hk => by
    rw [rowsWork_rows h]
    simp [hk, opBits, ewBits]

/-- No operation has a code beyond that of SUPPRESS. -/
theorem code_lt_of_vGroup {k : Nat} {g : VGroup} (h : vGroup k = some g) : k < 0x53 := by
  by_contra hk
  unfold vGroup at h
  iterate 10 rw [if_neg (by omega)] at h
  cases h

theorem elementwise_codes {k : Nat} (h : vGroup k = some .elementwise) : 1 ≤ k ∧ k ≤ 12 := by
  have hall : ∀ k < 0x53, vGroup k = some .elementwise → 1 ≤ k ∧ k ≤ 12 := by decide
  exact hall k (code_lt_of_vGroup h) h

/-- An elementwise operation looks at the operands that it has, and at no other. -/
theorem ewValue_operands (h : vGroup (vOp d) = some .elementwise) (h9 : vOp d ≠ 9) (x y z k : Machine.Num) :
    ewValue (vOp d) x (if readsY d then y else numZero) (if vOp d = 6 then z else numZero) (if vOp d = 12 then k else numZero) =
      ewValue (vOp d) x y z k := by
  obtain ⟨h1, h2⟩ := elementwise_codes h
  unfold readsY
  generalize vOp d = op at *
  interval_cases op
  pick_goal 9
  · exact absurd rfl h9
  all_goals rfl

theorem ewElem_bits (h9 : vOp d ≠ 9) (hc : ¬(vClassC d = true ∧ (vOp d = 10 ∨ vOp d = 11))) (qx qy qz : Nat) :
    (ewElem d qx qy qz).1 = (writeVal (vTag (vTagO d)) (ewValue (vOp d) (valueOf (vTag (vTagX d)) qx)
      (if readsY d then valueOf (vTag (vTagY d)) qy else numZero) (if vOp d = 6 then valueOf (vTag (vTagO d)) qz else numZero)
      (if vOp d = 12 then decode .fp32 (vCtrl d) else numZero)).1).1 := by
  simp only [ewElem, h9, hc, if_false]
  exact finishElem_bits ..

theorem elementwise_not_deep (h : vGroup (vOp d) = some .elementwise) : vDeepOut d = false := by
  refine vDeepOut_false ⟨fun hop => ?_, fun hop => ?_⟩ <;> rw [hop] at h <;> cases h

/-- R55, R130, R131: an element is the output rounding of the operation's value on the elements that stand in memory. -/
theorem ewBits_eq (h : vGroup (vOp d) = some .elementwise) (h9 : vOp d ≠ 9) (hc : ¬(vClassC d = true ∧ (vOp d = 10 ∨ vOp d = 11)))
    (r i : Nat) : ewBits s d r i = (writeVal (vTag (vTagO d)) (ewValue (vOp d) (elemAt s (vTagX d) (vX d + r * vLdx d + i * vEx d))
      (elemAt s (vTagY d) (vY d + r * vLdy d + i * vEy d)) (elemAt s (vTagO d) (vAux d + r * vLdo d + i * vEo d))
      (decode .fp32 (vCtrl d))).1).1 := by
  have heo := vEo_eq h9 (elementwise_not_deep h)
  rw [← ewValue_operands h h9, ewBits, ewElem_bits h9 hc]
  simp only [elemAt, ← heo]
  congr 4
  · split <;> rfl
  · split <;> rfl

/-- R134: the byte that CMP writes. -/
theorem ewBits_cmp (h : vOp d = 9) (r i : Nat) {x y : Machine.Num} (hx : elemAt s (vTagX d) (vX d + r * vLdx d + i * vEx d) = x)
    (hy : elemAt s (vTagY d) (vY d + r * vLdy d + i * vEy d) = y) : ewBits s d r i =
      if isNan x || isNan y then (if vCtrl d % 8 = 1 then 1 else 0) else if cmpPred (vCtrl d % 8) x y then 1 else 0 := by
  have hr : readsY d = true := by simp [readsY, h]
  subst hx hy
  simp only [ewBits, ewElem, h, hr, cmpElem, if_true]
  rfl

/-- Rows of output elements that a vector operation leaves, one by one. -/
theorem rdElem_outRows (hs : Memory.wf s.mem = true) {base ld n rows count : Nat} {bits : Nat → Nat → Nat} (hl : count * n ≤ ld)
    (ht : t.mem = (writeAll s (rowWrites base ld n rows count bits)).mem) {r i : Nat} (hr : r < rows) (hi : i < count)
    (hb : bits r i < 256 ^ n) : rdElem t (base + r * ld + i * n) n = bits r i :=
  (rdElem_congr ht _ _).trans (rdElem_rowWrites hs (rowWrites_apart hl) (fun _ => id) hr hi hb)

/-- An elementwise operation that passes leaves the values that its rules give. -/
theorem elementwise_written (hs : Memory.wf s.mem = true) (hg : vGroup (vOp d) = some .elementwise) (hk : ewCheck s c d = .ok)
    (hc : vConc d = false) (ht : t.mem = (writeAll s (ewOut s d).writes).mem) : ewWritten s t d := by
  rw [ewOut_writes hc] at ht
  intro r hr i hi x y z k hx hy hz hkk
  refine ⟨fun _ h9 hcc => ?_, fun h9 => ?_, fun h => absurd (hg.symm.trans h) (by simp)⟩
  · have hbits := ewBits_eq (s := s) hg h9 hcc r i
    have hlt : ewBits s d r i < 256 ^ vEo d := by
      rw [hbits, vEo_eq h9 (elementwise_not_deep hg)]
      exact writeVal_lt ..
    rw [writesValue, rdElem_outRows hs (ewCheck_stride hk) ht hr hi hlt, hbits, hx, hy, hz, hkk]
  · have heo : vEo d = 1 := by simp [vEo, h9]
    have hbits := ewBits_cmp h9 r i hx hy
    have hlt : ewBits s d r i < 256 ^ vEo d := by
      rw [hbits, heo]
      split <;> split <;> decide
    have hrd := rdElem_outRows hs (ewCheck_stride hk) ht hr hi hlt
    rw [heo, Nat.mul_one] at hrd
    rw [hrd, hbits]

/-! Transcendentals (R144). -/

/-- The bits of an output element of a transcendental. -/
def trBits (s : State) (d : Bytes) (r i : Nat) : Nat := (trElem d (rdElem s (vX d + r * vLdx d + i * vEx d) (vEx d))).1

theorem trOut_writes (h : vConc d = false) :
    (trOut s d).writes = rowWrites (vOut d) (vLdo d) (vEo d) (vRows d) (vCount d) (trBits s d) :=
  map_packRow _ _ _ _ _ _ Prod.fst _ fun k hk => by
    rw [rowsWork_rows h]
    simp [hk, opBits, trBits]

theorem trBits_eq (r i : Nat) : trBits s d r i = (writeVal (vTag (vTagO d))
    (trValue (vOp d) ((vTag (vTagX d)).fmt == .fp64 || (vTag (vTagO d)).fmt == .fp64)
      (elemAt s (vTagX d) (vX d + r * vLdx d + i * vEx d))).1).1 := finishElem_bits ..

/-- A transcendental that passes leaves the bounded values of its operands. -/
theorem transcendental_written (hs : Memory.wf s.mem = true) (hg : vGroup (vOp d) = some .transcendental) (hk : ewCheck s c d = .ok)
    (hc : vConc d = false) (ht : t.mem = (writeAll s (trOut s d).writes).mem) : ewWritten s t d := by
  rw [trOut_writes hc] at ht
  have hne (k : Nat) (hk : vGroup k ≠ some .transcendental) : vOp d ≠ k := fun h => hk (h ▸ hg)
  have h9 := hne 9 (by decide)
  have heo := vEo_eq h9 (vDeepOut_false ⟨hne 0x20 (by decide), hne 0x21 (by decide)⟩)
  rintro r hr i hi x y z k rfl hy hz hkk
  refine ⟨fun h => absurd (hg.symm.trans h) (by simp), fun h => absurd h h9, fun _ => ?_⟩
  have hlt : trBits s d r i < 256 ^ vEo d := by
    rw [trBits_eq, heo]
    exact writeVal_lt ..
  rw [writesValue, rdElem_outRows hs (ewCheck_stride hk) ht hr hi hlt, trBits_eq]

/-! Converts (R64–R70). -/

/-- The bits of an output element of a convert under the scale of its own tag, and of its residue. -/
def cvBits (s : State) (d : Bytes) (r i : Nat) : Nat := (cvElem d (vTag (vTagO d)) (rdElem s (vX d + r * vLdx d + i * vEx d) (vEx d))).1
def cvResidueBits (s : State) (d : Bytes) (r i : Nat) : Nat :=
  (cvElem d (vTag (vTagO d)) (rdElem s (vX d + r * vLdx d + i * vEx d) (vEx d))).2.1

theorem cvOut_writes (h : vConc d = false) (ha : cvAmax d = false) :
    (cvOut s d).writes = rowWrites (vOut d) (vLdo d) (vEo d) (vRows d) (vCount d) (cvBits s d) ++
      if cvResidue d then rowWrites (vY d) (vLdy d) 4 (vRows d) (vCount d) (cvResidueBits s d) else [] := by
  have hscale : cvScale s d = ((vTag (vTagO d)).scale, false) := by simp [cvScale, ha]
  simp only [cvOut, hscale]
  refine congrArg₂ (· ++ ·) ?_ ?_
  · refine map_packRow _ _ _ _ _ _ Prod.fst _ fun k hk => ?_
    rw [rowsWork_rows h]
    simp [hk, opBits, cvBits]
  · split
    · refine map_packRow _ _ _ _ _ _ Prod.snd _ fun k hk => ?_
      rw [rowsWork_rows h]
      simp [hk, opBits, cvResidueBits]
    · rfl

theorem cvElem_residue (d : Bytes) (o : Tag) (q : Nat) : (cvElem d o q).2.1 =
    if isFin (valueOf (vTag (vTagX d)) q) && isFin (valueOf o (cvElem d o q).1) then
      toFp32 (numSub (valueOf (vTag (vTagX d)) q) (valueOf o (cvElem d o q).1)).1 else fmtNan .fp32 := rfl

theorem cvElem_residue_lt (d : Bytes) (o : Tag) (q : Nat) : (cvElem d o q).2.1 < 256 ^ 4 := by
  rw [cvElem_residue]
  split
  · exact encodeOut_lt .fp32 false _
  · exact fmtNan_lt .fp32

/-- Two tensors of rows that do not overlap are written apart. -/
theorem rowWrites_apart_of_not_overlap {a b la lb n m rows count : Nat} {f g : Nat → Nat → Nat} (hn : 0 < count * n) (hm : 0 < count * m)
    (h : vOverlap (spanOf b lb rows count m) (spanOf a la rows count n) = false) :
    ∀ w ∈ rowWrites a la n rows count f, ∀ v ∈ rowWrites b lb m rows count g, WritesApart w v := by
  intro w hw v hv
  obtain ⟨k, hk, rfl⟩ := List.mem_map.1 hw
  obtain ⟨j, hj, rfl⟩ := List.mem_map.1 hv
  simp only [vOverlap, anyOverlap, List.any_eq_false, Bool.not_eq_true, vBytes, spanOf, rowRanges, List.mem_filter, List.mem_map,
    decide_eq_true_eq, overlapR, overlap] at h
  have := h (b + j * lb, count * m) ⟨⟨j, hj, rfl⟩, hm⟩ (a + k * la, count * n) ⟨⟨k, hk, rfl⟩, hn⟩
  simp only [WritesApart, packRow_length, List.length_map, List.length_range]
  omega

theorem fmtBytes_pos (f : Fmt) : 0 < fmtBytes f := by cases f <;> decide

/-- A convert with the scale of its own tag that passes leaves the roundings of its elements and the residues. -/
theorem convert_written (hs : Memory.wf s.mem = true) (hop : vOp d = 0x30) (hk : cvCheck s c d = .ok) (hc : vConc d = false)
    (ha : cvAmax d = false) (ht : t.mem = (writeAll s (cvOut s d).writes).mem) : cvWritten s t d := by
  have heo : vEo d = tagSize (vTag (vTagO d)) := vEo_eq (by simp [hop]) (vDeepOut_false (by simp [hop]))
  obtain ⟨hout, hres⟩ := cvCheck_rows hk
  rw [cvOut_writes hc ha] at ht
  rintro r hr i hi x w rfl hinf
  have hcount : 0 < vCount d := Nat.zero_lt_of_lt hi
  have hpos : 0 < vCount d * vEo d := Nat.mul_pos hcount (heo ▸ fmtBytes_pos _)
  have hbits : cvBits s d r i = (writeVal (vTag (vTagO d)) (elemAt s (vTagX d) (vX d + r * vLdx d + i * vEx d))).1 := cvElem_bits hinf
  have hlt : cvBits s d r i < 256 ^ vEo d := by
    rw [hbits, heo]
    exact writeVal_lt ..
  have hapart : (rowWrites (vOut d) (vLdo d) (vEo d) (vRows d) (vCount d) (cvBits s d) ++
      if cvResidue d then rowWrites (vY d) (vLdy d) 4 (vRows d) (vCount d) (cvResidueBits s d) else []).Pairwise WritesApart := by
    refine List.pairwise_append.2 ⟨rowWrites_apart hout, ?_, ?_⟩
    · split
      · next hr => exact rowWrites_apart (hres hr).1
      · exact List.Pairwise.nil
    · split
      · next hr => exact rowWrites_apart_of_not_overlap hpos (by omega) (hres hr).2
      · simp
  have hq : rdElem t (vOut d + r * vLdo d + i * vEo d) (vEo d) = cvBits s d r i := by
    rw [rdElem_congr ht]
    exact rdElem_rowWrites hs hapart (fun _ => List.mem_append_left _) hr hi hlt
  refine ⟨by rw [writesValue, hq, hbits], ?_⟩
  rintro rfl hresd
  have hrq : rdElem t (vY d + r * vLdy d + i * 4) 4 = cvResidueBits s d r i := by
    rw [rdElem_congr ht]
    exact rdElem_rowWrites hs hapart (fun _ hw => List.mem_append_right _ (by rwa [if_pos hresd])) hr hi (cvElem_residue_lt ..)
  have hw : elemAt t (vTagO d) (vOut d + r * vLdo d + i * vEo d) = valueOf (vTag (vTagO d)) (cvBits s d r i) := by
    rw [elemAt, ← heo, hq]
  rw [hrq, hw]
  exact cvElem_residue ..

end Sys2Proof.Machine
end

section
/-! What the vector operations write: reductions, merges, digests and window operations (R116, R131, R145–R151, R237). -/
namespace Sys2Proof.Machine
open Sys2Proof Sys2Proof.Safety

variable {s t : State} {c : CoreId} {d : Bytes}

/-! Reductions (R145). -/

/-- What a lane holds depends on the elements alone, and not on where their flags are noted. -/
theorem laneGo_lane (sq fp64 : Bool) {l k : List (Nat × Machine.Num)} (h : l.map Prod.snd = k.map Prod.snd) (a : Lane) (e f : ExcRec) :
    (laneGo sq fp64 l a e).1 = (laneGo sq fp64 k a f).1 := by
  induction l generalizing k a e f with
  | nil =>
    obtain rfl : k = [] := by simpa using h.symm
    rfl
  | cons p l ih =>
    obtain ⟨i, x⟩ := p
    obtain _ | ⟨⟨j, y⟩, k⟩ := k
    · cases h
    obtain ⟨rfl, hl⟩ : x = y ∧ l.map Prod.snd = k.map Prod.snd := by simpa using h
    have hempty : l.isEmpty = k.isEmpty := by
      have := congrArg List.isEmpty hl
      simpa using this
    simp only [laneGo, hempty]
    split
    · exact ih hl ..
    · exact ih hl ..

/-- The elements of one lane of a row, with their indices from `base` on. -/
def laneElems (lanes base : Nat) (vals : List Machine.Num) (l : Nat) : List (Nat × Machine.Num) :=
  (List.range (ceilDiv (vals.length - l) lanes)).map fun j => (base + (l + j * lanes), vals.getD (l + j * lanes) numZero)

/-- The deep value that a lane leaves. -/
def laneRoot (sq fp64 : Bool) (lanes : Nat) (vals : List Machine.Num) (l : Nat) : Machine.Num :=
  if (laneElems lanes 0 vals l).isEmpty then numZero
  else (laneGo sq fp64 (laneElems lanes 0 vals l) { acc := .empty, deep := numNegZero, since := 0, terms := 0 } (excFresh 2)).1.deep

/-- The root of a row depends on its elements alone. -/
theorem rowSum_root (sq fp64 : Bool) (lanes base : Nat) (vals : List Machine.Num) (e : ExcRec) :
    (rowSum sq fp64 lanes base vals e).1 = (canonTree 9 ((List.range lanes).map (laneRoot sq fp64 lanes vals))).1 := by
  refine congrArg (fun l => (canonTree 9 l).1) ?_
  refine foldl_collect (f := laneRoot sq fp64 lanes vals) Prod.fst (fun acc l => ?_) _ rfl
  have hl : (laneElems lanes base vals l).map Prod.snd = (laneElems lanes 0 vals l).map Prod.snd := by simp [laneElems]
  have hempty : (laneElems lanes base vals l).isEmpty = (laneElems lanes 0 vals l).isEmpty := by simp [laneElems]
  simp only [laneRoot, ← hempty, ← laneGo_lane sq fp64 hl _ acc.2.2 (excFresh 2)]
  rfl

/-- The elements of a row of a reduction. -/
def redVals (s : State) (d : Bytes) (r : Nat) : List Machine.Num :=
  (List.range (vCount d)).map fun i => decode (vTag (vTagX d)).fmt (rdElem s (vX d + r * vLdx d + i * vEx d) (vEx d))

theorem rowVals_values (h : vConc d = false) (r : Nat) (e : ExcRec) : (rowVals s d r e).1 = redVals s d r :=
  foldl_collect Prod.fst (by simp [concealed_false h, opBits]) _ rfl

/-- What a reduction writes for a row, from its elements. -/
def redBytes (d : Bytes) (vals : List Machine.Num) : Bytes :=
  let tx := vTag (vTagX d)
  let root := (rowSum (vOp d == 0x21) (tx.fmt == .fp64) (fmtLanes tx.fmt) 0 vals (excFresh 2)).1
  let v := if decide (vOp d = 0x20 ∨ vOp d = 0x21) then
      (if vOp d == 0x21 then (numMul (numMul root (tagScale tx)).1 (tagScale tx)).1 else (numMul root (tagScale tx)).1)
    else (numMul (rowExtreme (vOp d) vals) (tagScale tx)).1
  if vDeepOut d then deepBytes (storeDword root).1 else toLe (tagSize (vTag (vTagO d))) (writeVal (vTag (vTagO d)) v).1

theorem redOut_writes (h : vConc d = false) :
    (redOut s d).writes = (List.range (vRows d)).map fun r => (vOut d + r * vLdo d, redBytes d (redVals s d r)) := by
  refine foldl_collect Prod.fst (fun acc r => ?_) _ rfl
  have hdeep (hop : ¬(vOp d = 0x20 ∨ vOp d = 0x21)) : vDeepOut d = false := vDeepOut_false (not_or.1 hop)
  simp only [rowVals_values h, redBytes, rowSum_root]
  split
  · split <;> simp_all
  · simp_all

theorem redBytes_length (h9 : vOp d ≠ 9) (vals : List Machine.Num) : (redBytes d vals).length = vEo d := by
  unfold redBytes
  extract_lets tx root v
  split
  · next hd => simp [vEo, h9, hd]
  · next hd => simp [vEo_eq h9 (by simpa using hd)]

/-- A reduction that passes leaves the roots or the extremes of its rows. -/
theorem reduction_written (hs : Memory.wf s.mem = true) (hg : vGroup (vOp d) = some .reduction) (hk : redCheck s c d = .ok)
    (hc : vConc d = false) (ht : t.mem = (writeAll s (redOut s d).writes).mem) : redWritten s t d := by
  have h9 : vOp d ≠ 9 := fun h => by rw [h] at hg; cases hg
  rw [redOut_writes hc] at ht
  rintro r hr l f x root rfl rfl hl hroot
  have hl : redVals s d r = l := hl
  have hrow : rdMem t (vOut d + r * vLdo d) (vEo d) = redBytes d l := by
    have hrd := rdMem_writeAll_whole (a := vOut d + r * vLdo d) (b := redBytes d (redVals s d r)) hs
      (rows_apart (f := fun r => redBytes d (redVals s d r)) List.nodup_range (fun _ => redBytes_length h9 _) (redCheck_stride hk))
      (List.mem_map_of_mem (List.mem_range.2 hr))
    rwa [redBytes_length h9, ← rdMem_congr ht, hl] at hrd
  have hwrites {v : Machine.Num} (hd : vDeepOut d = false)
      (hv : redBytes d l = toLe (tagSize (vTag (vTagO d))) (writeVal (vTag (vTagO d)) v).1) : writesValue t d (vOut d + r * vLdo d) v := by
    rw [writesValue, rdElem, hrow, hv, leNat_toLe, Nat.mod_eq_of_lt (writeVal_lt ..)]
  refine ⟨fun hd => ?_, fun hop hd => hwrites hd ?_, fun hop hd => hwrites hd ?_, fun hop => ?_⟩
  · have heo : vEo d = 16 := by simp [vEo, h9, hd]
    rw [← heo, hrow, ← hroot]
    simp only [redBytes, hd, if_true]
  · simp only [redBytes, hd, hroot]
    simp [hop]
  · simp only [redBytes, hd, hroot]
    simp [hop]
  · have hne : ¬(vOp d = 0x20 ∨ vOp d = 0x21) := by
      simp only [List.mem_cons, List.not_mem_nil, or_false] at hop
      omega
    have hd : vDeepOut d = false := vDeepOut_false (not_or.1 hne)
    refine hwrites hd ?_
    simp [redBytes, hd, hne]

/-! Merges and digests. -/

/-- R116: the merged deep entry at an index. -/
def mergedEntry (s : State) (d : Bytes) (i : Nat) : Bytes :=
  deepBytes (deepMerge (deepOf (rdMem s (vX d + 16 * i) 16)) (deepOf (rdMem s (vY d + 16 * i) 16))).1

theorem mergeOut_writes : (mergeOut s d).writes = [(vOut d, ((List.range (vCount d)).map (mergedEntry s d)).flatten)] := by
  refine congrArg (fun b => [(vOut d, b)]) ?_
  exact foldl_flatten (f := mergedEntry s d) Prod.fst (by simp [mergedEntry]) _ rfl

/-- A merge leaves the merged deep entries. -/
theorem merge_written (hs : Memory.wf s.mem = true) (ht : t.mem = (writeAll s (mergeOut s d).writes).mem) {i : Nat} (hi : i < vCount d) :
    rdMem t (vOut d + 16 * i) 16 = mergedEntry s d i := by
  have hlen : ∀ b ∈ (List.range (vCount d)).map (mergedEntry s d), b.length = 16 := by simp [mergedEntry]
  rw [rdMem_congr ht, mergeOut_writes, Nat.mul_comm 16 i, rdMem_writeAll hs (List.pairwise_singleton ..) List.mem_cons_self
    (by rw [length_flatten_of_forall hlen]; simp; omega)]
  exact sub_flatten hlen (by simp [hi])

/-- A digest leaves the chained digest of its bytes (R237). -/
theorem digest_written (hs : Memory.wf s.mem = true) (ht : t.mem = (writeAll s (digestOut s d).writes).mem) :
    rdMem t (vOut d) 16 = digest16 (rdMem s (vAux d) 16 ++ rdMem s (vX d) (vCount d)) := by
  have hw : (digestOut s d).writes = [(vOut d, digest16 (rdMem s (vAux d) 16 ++ rdMem s (vX d) (vCount d)))] := by
    simp only [digestOut]
  have hrd := rdMem_writeAll_whole hs (List.pairwise_singleton ..) (hw ▸ List.mem_cons_self)
  rw [digest16_length] at hrd
  rw [rdMem_congr ht, hw, hrd]

end Sys2Proof.Machine
end

section
/-! What the window operations write (R147–R151). -/
namespace Sys2Proof.Machine
open Sys2Proof Sys2Proof.Safety

variable {s t : State} {c : CoreId} {d : Bytes}

/-! Places in rows. -/

theorem row_div {i j n : Nat} (h : j < n) : (i * n + j) / n = i := by
  rw [Nat.mul_comm, Nat.mul_add_div (Nat.zero_lt_of_lt h), Nat.div_eq_of_lt h, Nat.add_zero]

theorem row_mod {i j n : Nat} (h : j < n) : (i * n + j) % n = j := by rw [Nat.mul_add_mod', Nat.mod_eq_of_lt h]

theorem row_lt {i j m n : Nat} (hi : i < m) (hj : j < n) : i * n + j < m * n :=
  calc i * n + j < i * n + n := Nat.add_lt_add_left hj _
    _ = (i + 1) * n := (Nat.succ_mul i n).symm
    _ ≤ m * n := Nat.mul_le_mul_right n hi

theorem range_mul (a b : Nat) : List.range (a * b) = (List.range a).flatMap fun i => (List.range b).map fun j => i * b + j := by
  induction a with
  | zero => simp
  | succ a ih => simp [Nat.succ_mul, List.range_add, List.range_succ, List.flatMap_append, ih]

/-! One output element. -/

/-- The taps that a pooling counts. -/
def poolVals (s : State) (d : Bytes) (oy ox ch : Nat) : List Machine.Num :=
  ((wTaps d oy ox).filter fun k => !(wExcl d && k.pad)).map (wTapVal s d ch)

/-- R147, R151: a convolution's element, whatever the record that its flags join. -/
theorem winElem_conv (h : vOp d = 0x40 ∨ vOp d = 0x41) (oy ox ch : Nat) (e : ExcRec) : (winElem s d oy ox ch e).1 =
    (writeVal (vTag (vTagO d)) (numMul (numMul (accOr0
      (convElem s d ch 0 (if wTconv d then wTtaps d oy ox else wTaps d oy ox) (excFresh 2)).1) (tagScale (vTag (vTagX d)))).1
      (tagScale (vTag (vTagY d)))).1).1 := by
  simp only [winElem, h, if_true]
  rfl

theorem winElem_max (h : vOp d = 0x42) (oy ox ch : Nat) (e : ExcRec) : (winElem s d oy ox ch e).1 =
    (writeVal (vTag (vTagO d)) (numMul (match poolVals s d oy ox ch with | [] => numZero | x :: xs => xs.foldl numMax x)
      (tagScale (vTag (vTagX d)))).1).1 := by
  simp only [winElem, h, poolVals]
  rfl

/-- The value of an average of `n` counted taps (R150). -/
def poolMean (s : State) (d : Bytes) (oy ox ch n : Nat) : Machine.Num :=
  if n = 0 then numZero
  else (numDiv (numMul (accOr0 ((poolVals s d oy ox ch).foldl (fun b z => (accAdd ((vTag (vTagX d)).fmt == .fp64) b z).1) .empty))
    (tagScale (vTag (vTagX d)))).1 (numMul (numOfNat n) (tagScale (vTag (vTagO d)))).1).1

theorem winElem_mean (h : ¬(vOp d = 0x40 ∨ vOp d = 0x41) ∧ vOp d ≠ 0x42) (oy ox ch : Nat) (e : ExcRec) : (winElem s d oy ox ch e).1 =
    (encodeOut (vTag (vTagO d)).fmt (vTag (vTagO d)).ovf
      (poolMean s d oy ox ch (if wExcl d then (poolVals s d oy ox ch).length else wFh d * wFw d))).1 := by
  have hfold (l : List Machine.Num) (a : Acc × ExcRec) (idx : Nat) :
      (l.foldl (fun (acc : Acc × ExcRec) v =>
        ((accAdd ((vTag (vTagX d)).fmt == .fp64) acc.1 v).1, excNote acc.2 (accAdd ((vTag (vTagX d)).fmt == .fp64) acc.1 v).2 idx)) a).1 =
      l.foldl (fun b z => (accAdd ((vTag (vTagX d)).fmt == .fp64) b z).1) a.1 :=
    (List.foldl_hom Prod.fst fun _ _ => rfl).symm
  simp only [winElem, h.1, h.2, if_false, poolMean, poolVals, hfold, List.length_map]

/-- The bits of an output element, by its place in the output row. -/
def winBits (s : State) (d : Bytes) (oy i : Nat) : Nat := (winElem s d oy (i / wC d) (i % wC d) (excFresh 2)).1

theorem winElem_bits (oy ox ch : Nat) (e f : ExcRec) : (winElem s d oy ox ch e).1 = (winElem s d oy ox ch f).1 := by
  by_cases hc : vOp d = 0x40 ∨ vOp d = 0x41
  · rw [winElem_conv hc, winElem_conv hc]
  · by_cases hm : vOp d = 0x42
    · rw [winElem_max hm, winElem_max hm]
    · rw [winElem_mean ⟨hc, hm⟩, winElem_mean ⟨hc, hm⟩]

theorem winElem_lt (oy ox ch : Nat) (e : ExcRec) : (winElem s d oy ox ch e).1 < 256 ^ tagSize (vTag (vTagO d)) := by
  by_cases hc : vOp d = 0x40 ∨ vOp d = 0x41
  · exact winElem_conv (s := s) hc oy ox ch e ▸ writeVal_lt ..
  · by_cases hm : vOp d = 0x42
    · exact winElem_max (s := s) hm oy ox ch e ▸ writeVal_lt ..
    · exact winElem_mean (s := s) ⟨hc, hm⟩ oy ox ch e ▸ encodeOut_lt ..

theorem winOut_writes (h : wEmpty d = false) : (winOut s d).writes =
    rowWrites (vOut d) (wLdo d) (tagSize (vTag (vTagO d))) (wOh d) (wOw d * wC d) (winBits s d) := by
  unfold winOut
  rw [h]
  refine foldl_collect Prod.fst (fun acc oy => ?_) _ rfl
  refine congrArg (fun l => acc.1 ++ [(vOut d + oy * wLdo d, packRow (tagSize (vTag (vTagO d))) l)]) ?_
  refine foldl_collect (f := winBits s d oy) Prod.fst (fun a i => ?_) _ rfl
  rw [winBits, winElem_bits _ _ _ _ a.2]

/-! PATCH (R150). -/

/-- The tap at a place of the filter. -/
def tapAt (d : Bytes) (oy ox fy fx : Nat) : Tap :=
  { fy := fy, fx := fx,
    src := match (wAxis (wPad d) (wIh d) ((oy * wSh d + fy * wDh d : Nat) - (wPt d : Int))).1,
        (wAxis (wPad d) (wIw d) ((ox * wSw d + fx * wDw d : Nat) - (wPl d : Int))).1 with
      | some a, some b => some (a, b)
      | _, _ => none,
    pad := (wAxis (wPad d) (wIh d) ((oy * wSh d + fy * wDh d : Nat) - (wPt d : Int))).2 ||
      (wAxis (wPad d) (wIw d) ((ox * wSw d + fx * wDw d : Nat) - (wPl d : Int))).2 }

theorem wTaps_eq (d : Bytes) (oy ox : Nat) :
    wTaps d oy ox = (List.range (wFh d)).flatMap fun fy => (List.range (wFw d)).map fun fx => tapAt d oy ox fy fx := rfl

/-- The taps stand in ascending fy, then fx. -/
theorem wTaps_getElem? {oy ox fy fx : Nat} (hy : fy < wFh d) (hx : fx < wFw d) :
    (wTaps d oy ox)[fy * wFw d + fx]? = some (tapAt d oy ox fy fx) := by
  have h : wTaps d oy ox = (List.range (wFh d * wFw d)).map fun k => tapAt d oy ox (k / wFw d) (k % wFw d) := by
    rw [range_mul, List.map_flatMap, wTaps_eq]
    refine List.flatMap_congr fun i _ => ?_
    rw [List.map_map]
    refine List.map_congr_left fun j hj => ?_
    have hj := List.mem_range.1 hj
    simp [row_div hj, row_mod hj]
  rw [h, List.getElem?_map, List.getElem?_range (row_lt hy hx), Option.map_some, row_div hx, row_mod hx]

/-- The bits that PATCH copies for a tap and a channel. -/
def patchBits (s : State) (d : Bytes) (k : Tap) (ch : Nat) : Nat :=
  match k.src with
  | some (y, x) => rdElem s (wInAddr d y x ch) (vEx d)
  | none => if wPad d = 1 then (encodeOut (vTag (vTagX d)).fmt false (decode .fp32 (wConst d))).1 else 0

theorem patchBits_lt (k : Tap) (ch : Nat) : patchBits s d k ch < 256 ^ vEx d := by
  unfold patchBits
  split
  · exact rdElem_lt ..
  · split
    · exact encodeOut_lt ..
    · positivity

/-- The bits of a row of PATCH, by output pixel. -/
def patchRow (s : State) (d : Bytes) (k j : Nat) : Nat :=
  patchBits s d ((wTaps d (k / wOw d) (k % wOw d)).getD (j / wC d) { fy := 0, fx := 0, src := none, pad := true }) (j % wC d)

theorem patchOut_writes (h : wEmpty d = false) : (patchOut s d).writes =
    rowWrites (vOut d) (wLdo d) (vEx d) (wOh d * wOw d) (wFh d * wFw d * wC d) (patchRow s d) := by
  unfold patchOut
  rw [h]
  refine foldl_collect Prod.fst (fun acc k => ?_) _ rfl
  refine congrArg (fun l => acc.1 ++ [(vOut d + k * wLdo d, packRow (vEx d) l)]) ?_
  refine foldl_collect (f := patchRow s d k) Prod.fst (fun a j => ?_) _ rfl
  rfl

/-! The outputs of a window operation. -/

/-- The codes of the window group. -/
theorem window_codes {k : Nat} (h : vGroup k = some .window) : 0x40 ≤ k ∧ k ≤ 0x44 := by
  have hall : ∀ k < 0x53, vGroup k = some .window → 0x40 ≤ k ∧ k ≤ 0x44 := by decide
  exact hall k (code_lt_of_vGroup h) h

/-- R150: a mean of no tap is +0, whatever the scale of the output. -/
theorem writeVal_numZero (b : Bytes) : (writeVal (vTag (parseTag b)) numZero).1 =
    (encodeOut (vTag (parseTag b)).fmt (vTag (parseTag b)).ovf numZero).1 := by
  rw [writeVal, numZero, numDiv_tagScale_zero false 0 (vTag_scale b)]

/-- PATCH copies the bits of each tap to its place in the row of the output pixel. -/
theorem patch_written (hs : Memory.wf s.mem = true) (hop : vOp d = 0x44) (hk : winCheck s c d = .ok) (he : wEmpty d = false)
    (ht : t.mem = (writeAll s (patchOut s d).writes).mem) {oy ox ch : Nat} (hy : oy < wOh d) (hx : ox < wOw d) (hc : ch < wC d)
    {k : Tap} (hkt : k ∈ wTaps d oy ox) :
    rdElem t (vOut d + (oy * wOw d + ox) * wLdo d + ((k.fy * wFw d + k.fx) * wC d + ch) * vEx d) (vEx d) = patchBits s d k ch := by
  have hl : wFh d * wFw d * wC d * vEx d ≤ wLdo d := by
    have h := winCheck_stride hk
    rwa [if_pos hop, winCheck_patchTags hk hop] at h
  rw [wTaps_eq] at hkt
  obtain ⟨fy, hfy, hkt⟩ := List.mem_flatMap.1 hkt
  obtain ⟨fx, hfx, rfl⟩ := List.mem_map.1 hkt
  have hfy := List.mem_range.1 hfy
  have hfx := List.mem_range.1 hfx
  have hbits : patchRow s d (oy * wOw d + ox) ((fy * wFw d + fx) * wC d + ch) = patchBits s d (tapAt d oy ox fy fx) ch := by
    simp [patchRow, row_div hx, row_mod hx, row_div hc, row_mod hc, wTaps_getElem? hfy hfx]
  rw [patchOut_writes he] at ht
  rw [← hbits]
  exact rdElem_outRows hs hl ht (row_lt hy hx) (row_lt (row_lt hfy hfx) hc) (hbits.trans_lt (patchBits_lt ..))

/-- The elements of the other window operations. -/
theorem winElem_written (hs : Memory.wf s.mem = true) (hop : vOp d ≠ 0x44) (hk : winCheck s c d = .ok) (he : wEmpty d = false)
    (ht : t.mem = (writeAll s (winOut s d).writes).mem) {oy ox ch : Nat} (hy : oy < wOh d) (hx : ox < wOw d) (hc : ch < wC d) :
    rdElem t (vOut d + oy * wLdo d + (ox * wC d + ch) * tagSize (vTag (vTagO d))) (tagSize (vTag (vTagO d))) =
      (winElem s d oy ox ch (excFresh 2)).1 := by
  have hl : wOw d * wC d * tagSize (vTag (vTagO d)) ≤ wLdo d := by
    have h := winCheck_stride hk
    rwa [if_neg hop] at h
  have hbits : winBits s d oy (ox * wC d + ch) = (winElem s d oy ox ch (excFresh 2)).1 := by
    simp only [winBits, row_div hc, row_mod hc]
  rw [winOut_writes he] at ht
  rw [← hbits]
  exact rdElem_outRows hs hl ht hy (row_lt hx hc) (hbits.trans_lt (winElem_lt ..))

/-- A window operation that passes leaves the values of its windows. -/
theorem window_written (hs : Memory.wf s.mem = true) (hg : vGroup (vOp d) = some .window) (hk : winCheck s c d = .ok)
    (he : wEmpty d = false)
    (ht : t.mem = (writeAll s (if vOp d = 0x44 then patchOut s d else winOut s d).writes).mem) : winWritten s t d := by
  obtain ⟨hlo, hhi⟩ := window_codes hg
  have heo : vEo d = tagSize (vTag (vTagO d)) := vEo_eq (by omega) (vDeepOut_false (by omega))
  rintro oy hy ox hx ch hc a x y l v rfl rfl rfl rfl rfl
  have helem (hop : vOp d ≠ 0x44) : rdElem t (vOut d + oy * wLdo d + (ox * wC d + ch) * vEo d) (vEo d) =
      (winElem s d oy ox ch (excFresh 2)).1 := by
    rw [if_neg hop] at ht
    rw [heo]
    exact winElem_written hs hop hk he ht hy hx hc
  have htaps (hop : vOp d ≠ 0x41) : (if wTconv d then wTtaps d oy ox else wTaps d oy ox) = wTaps d oy ox := by simp [wTconv, hop]
  refine ⟨fun hop => ?_, fun hop => ?_, fun hop n hn hn0 => ?_, fun hop hv hex => ?_, fun hop k hkt q hq => ?_⟩
  · rw [writesValue, helem (by omega), winElem_conv hop]
  · rw [writesValue, helem (by omega), winElem_max hop, htaps (by omega)]
    rfl
  · rw [htaps (by omega)] at hn
    rw [helem (by omega), winElem_mean (by omega), htaps (by omega)]
    have hn : (if wExcl d then (poolVals s d oy ox ch).length else wFh d * wFw d) = n := hn
    rw [hn, poolMean, if_neg hn0]
    rfl
  · rw [htaps (by omega)] at hv
    have hv : poolVals s d oy ox ch = [] := hv
    rw [writesValue, helem (by omega), winElem_mean (by omega), hex, if_pos rfl, hv, vTagO, writeVal_numZero]
    rfl
  · rw [htaps (by omega)] at hkt
    rw [if_pos hop] at ht
    rw [patch_written hs hop hk he ht hy hx hc hkt, ← hq, patchBits]
    cases k.src <;> rfl

/-! Every vector operation. -/

/-- R55, R64, R116, R130–R151, R237: what a valid vector operation without concealed samples writes. -/
theorem vecOut_written (hs : Memory.wf s.mem = true) (hk : vecCheck s c d = .ok) (hc : vConc d = false)
    (ht : t.mem = (writeAll s (vecOut s d).writes).mem) : vecWritten s t d := by
  refine ⟨?_, fun hop ha => ?_, fun hg => ?_, fun hg he => ?_, fun hop i hi => ?_, fun hop => ?_⟩
  · rintro (hg | hg) <;> simp only [vecCheck, vecOut, hg] at hk ht
    · exact elementwise_written hs hg hk hc ht
    · exact transcendental_written hs hg hk hc ht
  · have hg : vGroup (vOp d) = some .convert := hop ▸ rfl
    simp only [vecCheck, vecOut, hg] at hk ht
    exact convert_written hs hop hk hc ha ht
  · simp only [vecCheck, vecOut, hg] at hk ht
    exact reduction_written hs hg hk hc ht
  · simp only [vecCheck, vecOut, hg] at hk ht
    exact window_written hs hg hk he ht
  · have hg : vGroup (vOp d) = some .merge := hop ▸ rfl
    simp only [vecOut, hg] at ht
    exact merge_written hs ht hi
  · have hg : vGroup (vOp d) = some .digest := hop ▸ rfl
    simp only [vecOut, hg] at ht
    exact digest_written hs ht

variable {x : Core} {e : QEntry} {rest : List QEntry}

/-- A core put in and writes after it: the core, the memory, and nothing else. -/
theorem writeAll_setCore (hs : canonical s) (y : Core) (ws : List (Nat × Bytes)) (ht : writeAll (setCore s c y) ws = t) :
    t = { s with mem := t.mem, cores := t.cores } ∧ getCore t c = y ∧ (∀ b, b ≠ c → getCore t b = getCore s b) ∧
      t.mem = (writeAll s ws).mem := by
  have hmem : t.mem = (writeAll s ws).mem := ht ▸ writeAll_mem_congr (setCore_mem s c y) ws
  have hcore (b : CoreId) : getCore t b = if b = c then y else getCore s b := by
    rw [getCore, coreAt, ← ht, writeAll_cores]
    exact getCore_setCore_wf s c b y (canonical_cores hs)
  refine ⟨?_, by rw [hcore, if_pos rfl], fun b hb => by rw [hcore, if_neg hb], hmem⟩
  rw [← ht, writeAll_frame]
  rfl

/-- Settles O15: each command starts the operation of its code; a valid one writes the rows of its outputs, which share no byte, and
one that is not valid raises the event of the step that it fails. -/
theorem vectorStartWritesOutputs : Obligations.VectorStartWritesOutputs := by
  rintro s c x e rest d i hi hx rfl hq hrun hidle hstop hvec hready hclk hs
  have hm : MayStart s c x e rest := ⟨hx, hq, hrun, hidle, hstop, hvec, hready, hclk⟩
  have hexec : exec i s = .next (startVec (vOp (desc128 s e)) s c) := exec_vectorCommand s hi
  refine ⟨fun hk => ?_, fun hk => ?_, fun k hk hne => ?_⟩
  · rw [startVec_ok hm hk] at hexec
    generalize ht : writeAll (setCore s c { consume x e with vecQ := rest, vec := some (startedRun s e) }) _ = t at hexec
    obtain ⟨hframe, hcore, hother, hmem⟩ := writeAll_setCore hs _ _ ht
    obtain ⟨hwf, hsame⟩ := writeAll_sameOutside (canonical_mem hs) (vecOut s (desc128 s e)).writes
    obtain ⟨hdesc, hexc, hord, hres, hotag, hfinal⟩ := startedRun_fields s e
    exact ⟨startedRun s e, t, hdesc, hexc, hord, hres, hotag, hfinal, hexec, hframe, (congrArg Memory.wf hmem).trans hwf, hcore,
      hother, hmem, hsame.congr rfl hmem, fun hc => vecOut_written (canonical_mem hs) hk hc hmem⟩
  · have hfail := startVec_fails hm fun h => nomatch hk.symm.trans h
    rw [hk, failCheck_invalid] at hfail
    exact ⟨_, hexec.trans (congrArg _ hfail), raise_frame .., rfl⟩
  · have hfail := startVec_fails hm fun h => hne (hk.symm.trans h)
    rw [hk] at hfail
    exact hexec.trans (congrArg _ hfail)

end Sys2Proof.Machine
end

section
/-! The array work of tiles in memory (R82, R89, R106): what a spill of one row writes, and what the array work of the tiles that a
start waits for writes. -/
namespace Sys2Proof.Machine
open Sys2Proof Sys2Proof.Safety

/-! Changes of device memory alone. -/

/-- `u` is `s` but for device memory, which stays canonical and changes only in the ranges. -/
structure MemOnly (s u : State) (rs : List (Nat × Nat)) : Prop where
  frame : u = { s with mem := u.mem }
  wf : Memory.wf s.mem = true → Memory.wf u.mem = true
  mem : Memory.wf s.mem = true → sameOutside s u rs

variable {s u v : State} {rs qs : List (Nat × Nat)}

theorem MemOnly.refl (s : State) (rs : List (Nat × Nat)) : MemOnly s s rs := ⟨rfl, id, fun _ => sameOutside.refl _ _⟩

theorem MemOnly.trans (h : MemOnly s u rs) (k : MemOnly u v rs) : MemOnly s v rs where
  frame := by rw [k.frame, h.frame]
  wf hw := k.wf (h.wf hw)
  mem hw := (h.mem hw).trans (k.mem (h.wf hw))

theorem MemOnly.mono (h : MemOnly s u rs) (hq : ∀ r ∈ rs, r ∈ qs) : MemOnly s u qs :=
  ⟨h.frame, h.wf, fun hw => (h.mem hw).mono hq⟩

theorem MemOnly.wrMem {a : Nat} {bs : Bytes} (h : (a, bs.length) ∈ rs) : MemOnly s (Machine.wrMem s a bs) rs :=
  ⟨rfl, Memory.wf_wr _ _, fun hw => sameOutside.wrMem_mem hw h⟩

theorem MemOnly.cores (h : MemOnly s u rs) : u.cores = s.cores := by rw [h.frame]

theorem ArrayWork.memOnly {a b : State × TileRun} (h : ArrayWork a b) : MemOnly a.1 b.1 (deepRanges a.2) := ⟨h.frame, h.wf, h.mem⟩

/-- `u` is `s` but for the cores, among which `c` has become `y`, and for device memory in the ranges. -/
structure CoreWork (s u : State) (c : CoreId) (y : Core) (rs : List (Nat × Nat)) : Prop where
  frame : u = { s with mem := u.mem, cores := u.cores }
  wf : smWf Core.init u.cores = true
  core : getCore u c = y
  mem : sameOutside s u rs

theorem MemOnly.coreWork (h : MemOnly s u rs) (hs : canonical s) (c : CoreId) : CoreWork s u c (getCore s c) rs where
  frame := by rw [h.frame]
  wf := h.cores ▸ canonical_cores hs
  core := by rw [getCore, coreAt, h.cores, getCore, coreAt]
  mem := h.mem (canonical_mem hs)

/-- A change of the core after it. -/
theorem CoreWork.updCore {c : CoreId} {y : Core} (h : CoreWork s u c y rs) (f : Core → Core) :
    CoreWork s (Machine.updCore u c f) c (f y) rs where
  frame := by
    rw [h.frame]
    rfl
  wf := smSet_wf _ _ h.wf
  core := by rw [Machine.updCore, getCore_setCore_wf _ _ _ _ h.wf, if_pos rfl, h.core]
  mem := h.mem.congr rfl rfl

/-! A spill (R89, R106). -/

/-- The deep entries of a row. -/
def rowEntries (d : Bytes) (m : Nat) : List (Nat × Nat) := (List.range (tN d)).map fun n => (tDeepAddr d m n, 16)

/-- The tile `u` has the descriptor and the fed rows of `t` and stands where `t` does. -/
structure SameRun (t u : TileRun) : Prop where
  desc : u.desc = t.desc
  fed : u.fed = t.fed
  block : u.block = t.block
  ahead : u.ahead = t.ahead

theorem SameRun.refl (t : TileRun) : SameRun t t := ⟨rfl, rfl, rfl, rfl⟩

theorem SameRun.trans {t u w : TileRun} (h : SameRun t u) (k : SameRun u w) : SameRun t w :=
  ⟨k.desc.trans h.desc, k.fed.trans h.fed, k.block.trans h.block, k.ahead.trans h.ahead⟩

theorem SameRun.foldl {ι : Type} {g : TileRun → ι → TileRun} (hg : ∀ t i, SameRun t (g t i)) (l : List ι) (t : TileRun) :
    SameRun t (l.foldl g t) :=
  List.foldlRecOn (motive := SameRun t) l g (.refl t) fun _ h i _ => h.trans (hg _ i)

theorem rowBlock_sameRun (s : State) (t : TileRun) (m k : Nat) : SameRun t (rowBlock s t m k) :=
  .foldl (by exact fun _ _ => ⟨rfl, rfl, rfl, rfl⟩) _ t

theorem rowBlocks_sameRun (s : State) (t : TileRun) (m k e : Nat) : SameRun t (rowBlocks s t m k e) :=
  .foldl (fun t _ => rowBlock_sameRun s t m _) _ t

/-- A row that spills writes its own deep entries. -/
theorem spillRow_memOnly (s : State) (t : TileRun) (e m : Nat) :
    SameRun t (spillRow s t e m).2 ∧ MemOnly s (spillRow s t e m).1 (rowEntries t.desc m) := by
  have hfold := List.foldlRecOn (motive := fun r : State × TileRun => SameRun t r.2 ∧ MemOnly s r.1 (rowEntries t.desc m))
    (List.range (tN t.desc)) (fun acc n => spillElem acc.1 acc.2 (tKEnd t.desc (e - 1) - 1) m n) (b := (s, t)) ⟨.refl t, .refl s _⟩
    fun r ⟨hrun, hmem⟩ n hn => by
      refine ⟨hrun.trans ⟨rfl, rfl, rfl, rfl⟩, hmem.trans (.wrMem ?_)⟩
      rw [deepBytes_length, hrun.desc]
      exact List.mem_map_of_mem hn
  exact ⟨hfold.1.trans ⟨rfl, rfl, rfl, rfl⟩, hfold.2⟩

/-- The pairs of a row that has spilled restart empty. -/
theorem getAcc_dropRow (l : List ((Nat × Nat) × Acc)) (m n : Nat) : getAcc (dropRow l m) m n = .empty := by
  have hnone : (dropRow l m).find? (fun p => p.1 == (m, n)) = none := by
    refine List.find?_eq_none.2 fun p hp => ?_
    have hne : p.1.1 ≠ m := by simpa using (List.mem_filter.1 hp).2
    simp only [beq_iff_eq]
    exact fun h => hne (congrArg Prod.fst h)
  rw [getAcc, hnone]
  rfl

/-- A row run to the end of the current segment and spilled. -/
def spilledRow (s : State) (t : TileRun) (m : Nat) : State × TileRun :=
  spillRow s (rowBlocks s t m t.block (tSegEnd t.desc t.block)) (tSegEnd t.desc t.block) m

/-- The tile past a row that has spilled the segment before block `e`: at its next fed row, or past the segment. -/
def pastRow (t : TileRun) (e : Nat) : TileRun :=
  if t.ahead + 1 < t.fed.length then { t with ahead := t.ahead + 1 } else { t with ahead := 0, block := e }

theorem spillNext_spills {t : TileRun} {m : Nat} (hm : t.fed[t.ahead]? = some m) (hb : t.block < tBlocks t.desc)
    (he : tSpillsAt t.desc (tSegEnd t.desc t.block) = true) :
    spillNext s t = ((spilledRow s t m).1, pastRow (spilledRow s t m).2 (tSegEnd t.desc t.block)) := by
  simp only [spillNext, hm, hb, he, and_self, if_true, spilledRow]
  generalize spillRow s _ _ m = r
  exact (apply_ite (Prod.mk r.1) _ _ _).symm

theorem spilledRow_memOnly (s : State) (t : TileRun) (m : Nat) :
    SameRun t (spilledRow s t m).2 ∧ MemOnly s (spilledRow s t m).1 (rowEntries t.desc m) := by
  have hrun : SameRun t (rowBlocks s t m t.block (tSegEnd t.desc t.block)) := rowBlocks_sameRun ..
  obtain ⟨h1, h2⟩ := spillRow_memOnly s (rowBlocks s t m t.block (tSegEnd t.desc t.block)) (tSegEnd t.desc t.block) m
  exact ⟨hrun.trans h1, hrun.desc ▸ h2⟩

/-- What a spill makes of the tile: its descriptor stays, its row's pairs are empty, and it stands at the next row or past the
segment. -/
theorem pastRow_spilledRow (s : State) (t : TileRun) (m e : Nat) :
    (pastRow (spilledRow s t m).2 e).desc = t.desc ∧ (∀ n, getAcc (pastRow (spilledRow s t m).2 e).accs m n = .empty) ∧
      (if t.ahead + 1 < t.fed.length then
        (pastRow (spilledRow s t m).2 e).ahead = t.ahead + 1 ∧ (pastRow (spilledRow s t m).2 e).block = t.block
      else (pastRow (spilledRow s t m).2 e).ahead = 0 ∧ (pastRow (spilledRow s t m).2 e).block = e) := by
  have hacc (n : Nat) : getAcc (spilledRow s t m).2.accs m n = .empty := getAcc_dropRow _ m n
  have hrun := (spilledRow_memOnly s t m).1
  generalize (spilledRow s t m).2 = w at hacc hrun ⊢
  unfold pastRow
  rw [hrun.fed, hrun.ahead]
  split
  · exact ⟨hrun.desc, hacc, rfl, hrun.block⟩
  · exact ⟨hrun.desc, hacc, rfl, rfl⟩

theorem spillTile_eq {c : CoreId} {b : BroadcastMode} {t : TileRun}
    (ht : (getCore s c).tiles.find? (fun t => isMode b t && working t) = some t) (hf : frozen s = false)
    (ho : opStalled s c t.ord = false) :
    spillTile s c b = updCore (spillNext s t).1 c fun x => putTile x t (spillNext s t).2 := by
  simp [spillTile, ht, hf, ho]

/-- Settles O13: a spill is writes to its row's deep entries, after which the row's pairs are dropped and the tile goes on. -/
theorem spillWritesDeepEntries : Obligations.SpillWritesDeepEntries := by
  rintro s c x b t m e rfl rfl ht hf ho hs hm he
  have hw : working t = true := by
    have h := List.find?_some ht
    simp only [Bool.and_eq_true] at h
    exact h.2
  have hb : t.block < tBlocks t.desc := by
    simp only [working, Bool.and_eq_true, decide_eq_true_eq] at hw
    exact hw.2
  obtain ⟨hdesc, hacc, hahead⟩ := pastRow_spilledRow s t m (tSegEnd t.desc t.block)
  have hwork := ((spilledRow_memOnly s t m).2.coreWork hs c).updCore
    fun x => putTile x t (pastRow (spilledRow s t m).2 (tSegEnd t.desc t.block))
  refine ⟨_, pastRow (spilledRow s t m).2 (tSegEnd t.desc t.block), ?_, hwork.frame, ?_, hdesc, hacc, hahead, hwork.mem⟩
  · refine congrArg Host.Outcome.next ((spillTile_eq ht hf ho).trans ?_)
    rw [spillNext_spills hm hb he]
  · rw [hwork.core]
    rfl

end Sys2Proof.Machine
end

section
/-! The start of a tile (R82, R88, R170, R392). -/
namespace Sys2Proof.Machine
open Sys2Proof Sys2Proof.Safety

variable {s u : State} {c : CoreId} {x : Core} {e : QEntry}

/-! The array work that a start waits for (R82). -/

/-- A tile's turn: its array work is finished where a tile of the mode waits for it, else it stays as it is. -/
def arrayTurn (mode : BroadcastMode) (acc : State × List TileRun) (t : TileRun) : State × List TileRun :=
  if modesClash mode t.mode then ((finishBlocks acc.1 t).1, acc.2 ++ [(finishBlocks acc.1 t).2]) else (acc.1, acc.2 ++ [t])

theorem finishArrays_eq (s : State) (c : CoreId) (mode : BroadcastMode) :
    finishArrays s c mode = updCore ((getCore s c).tiles.foldl (arrayTurn mode) (s, [])).1 c
      fun x => { x with tiles := ((getCore s c).tiles.foldl (arrayTurn mode) (s, [])).2 } := rfl

theorem arrayTurn_memOnly (mode : BroadcastMode) (acc : State × List TileRun) (t : TileRun) :
    MemOnly acc.1 (arrayTurn mode acc t).1 (deepRanges t) := by
  unfold arrayTurn
  split
  · exact (finishBlocks_work acc.1 t).memOnly
  · exact .refl _ _

/-- The turns of tiles change memory only in the deep entries of these tiles. -/
theorem arrayTurns_memOnly (mode : BroadcastMode) (l : List TileRun) (acc : State × List TileRun) :
    MemOnly acc.1 (l.foldl (arrayTurn mode) acc).1 (l.flatMap deepRanges) :=
  List.foldlRecOn (motive := fun r : State × List TileRun => MemOnly acc.1 r.1 (l.flatMap deepRanges)) l (arrayTurn mode)
    (.refl _ _) fun r h t ht => h.trans ((arrayTurn_memOnly mode r t).mono fun _ hq => List.mem_flatMap.2 ⟨t, ht, hq⟩)

/-- Where no tile shares the arrays of the mode, the turns change nothing. -/
theorem arrayTurns_apart {mode : BroadcastMode} {l : List TileRun} (h : ∀ t ∈ l, modesClash mode t.mode = false)
    (acc : State × List TileRun) : l.foldl (arrayTurn mode) acc = (acc.1, acc.2 ++ l) := by
  induction l generalizing acc with
  | nil => simp
  | cons t l ih =>
    have ht : arrayTurn mode acc t = (acc.1, acc.2 ++ [t]) := by simp [arrayTurn, h t List.mem_cons_self]
    rw [List.foldl_cons, ht, ih fun y hy => h y (List.mem_cons_of_mem _ hy), List.append_assoc, List.singleton_append]

/-- The tiles in flight after that work. -/
def workedTiles (s : State) (x : Core) (mode : BroadcastMode) : List TileRun := (x.tiles.foldl (arrayTurn mode) (s, [])).2

theorem finishArrays_work (hs : canonical s) (hx : getCore s c = x) (mode : BroadcastMode) :
    CoreWork s (finishArrays s c mode) c { x with tiles := workedTiles s x mode } (x.tiles.flatMap deepRanges) := by
  subst hx
  exact ((arrayTurns_memOnly mode (getCore s c).tiles (s, [])).coreWork hs c).updCore
    fun y => { y with tiles := workedTiles s (getCore s c) mode }

/-- Where no tile shares the arrays of the mode, that work changes no byte and no tile. -/
theorem finishArrays_apart {mode : BroadcastMode} (hx : getCore s c = x) (h : ∀ t ∈ x.tiles, modesClash mode t.mode = false) :
    (finishArrays s c mode).mem = s.mem ∧ workedTiles s x mode = x.tiles := by
  subst hx
  rw [finishArrays_eq, workedTiles, arrayTurns_apart h]
  exact ⟨rfl, rfl⟩

/-! What a start leaves. -/

/-- The tile in flight that a descriptor becomes. -/
def startedTile (u : State) (c : CoreId) (d : Bytes) (ord : Nat) : TileRun :=
  { desc := d, mode := modeOf (tMode d), fed := tFed u d, block := 0, ahead := 0, accs := [],
    deep := resumeDeep u d (tFed u d), base := tileBase u c d (!(tFed u d).isEmpty), exc := excFresh 1, ord := ord }

theorem startedTile_fields (u : State) (c : CoreId) (d : Bytes) (ord : Nat) :
    (startedTile u c d ord).desc = d ∧ (startedTile u c d ord).mode = modeOf (tMode d) ∧ (startedTile u c d ord).fed = tFed u d ∧
      (startedTile u c d ord).block = 0 ∧ (startedTile u c d ord).accs = [] ∧ (startedTile u c d ord).ord = ord := by
  simp only [startedTile, and_self]

/-- A core whose queue entry has started as a tile, with the rest of its queue. -/
def tileStarted (y : Core) (e : QEntry) (rest : List QEntry) (t : TileRun) : Core :=
  { consume y e with tileQ := rest, tiles := y.tiles ++ [t], pairWired := t.mode != .quad }

/-- The tokens that a start takes do not depend on the tiles in flight. -/
theorem consume_tiles_ctr (x : Core) (l : List TileRun) (e : QEntry) : (consume { x with tiles := l } e).ctr = (consume x e).ctr := by
  unfold consume
  split <;> rfl

/-- Whether an entry of a core's tile queue leaves it now, to start or to fail. -/
structure TileMayStart (s : State) (c : CoreId) (x : Core) (e : QEntry) : Prop where
  core : getCore s c = x
  leaves : (tileHeads s x.tileQ).find? (tileLeaves s c) = some e
  running : s.stp.state ≠ .suspended
  awake : x.idle = false
  going : x.stopped = false
  clocked : computeStopped s (coreIsland c) = false

/-- A valid tile starts after the array work that it waits for. -/
theorem startTile_ok (h : TileMayStart s c x e) (hk : tileCheck s c (desc128 s e) = .ok)
    (hu : finishArrays s c (modeOf (tMode (desc128 s e))) = u) :
    startTile s c = updCore u c fun y => tileStarted y e (x.tileQ.erase e) (startedTile u c (desc128 s e) e.ord) := by
  obtain ⟨rfl, hl, hr, hi, hg, hc⟩ := h
  subst hu
  simp [startTile, suspended, tileStarted, startedTile, *]

/-- A valid start is the array work of the tiles that it waits for, and then a change of its core alone. -/
theorem startTile_work (hs : canonical s) (h : TileMayStart s c x e) (hk : tileCheck s c (desc128 s e) = .ok)
    (hu : finishArrays s c (modeOf (tMode (desc128 s e))) = u) :
    (startTile s c).mem = u.mem ∧
      CoreWork s (startTile s c) c (tileStarted { x with tiles := workedTiles s x (modeOf (tMode (desc128 s e))) } e (x.tileQ.erase e)
        (startedTile u c (desc128 s e) e.ord)) (x.tiles.flatMap deepRanges) := by
  have harr := finishArrays_work hs h.core (modeOf (tMode (desc128 s e)))
  rw [startTile_ok h hk hu]
  rw [hu] at harr
  exact ⟨by rw [updCore, setCore_mem], harr.updCore fun y => tileStarted y e (x.tileQ.erase e) (startedTile u c (desc128 s e) e.ord)⟩

/-- A tile that fails validation leaves the queue, takes no token and raises the event of the step that it failed. -/
theorem startTile_fails (h : TileMayStart s c x e) (hk : tileCheck s c (desc128 s e) ≠ .ok) :
    startTile s c = failCheck (setCore s c { x with tileQ := x.tileQ.erase e }) c 0x1001 (tileCheck s c (desc128 s e)) := by
  obtain ⟨rfl, hl, hr, hi, hg, hc⟩ := h
  generalize hd : desc128 s e = d at hk ⊢
  cases hc' : tileCheck s c d <;> simp_all [startTile, suspended]

theorem failCheck_tile_invalid (s : State) (c : CoreId) :
    failCheck s c 0x1001 .invalid = raise s 0x1001 (srcCore c) (toLe 4 (srcCore c)) := rfl

/-- Settles O12: a start is the array work of the tiles it waits for and then a change of its core alone; a tile that is not valid
raises the event of the step that it fails. -/
theorem tileStartTakesTokens : Obligations.TileStartTakesTokens := by
  rintro s c x e d hx rfl hl hr hi hg hc hs
  have hm : TileMayStart s c x e := ⟨hx, hl, hr, hi, hg, hc⟩
  have hexec : exec (.tile c) s = .next (startTile s c) := rfl
  refine ⟨fun hk => ?_, fun hk => ?_, fun a hk => ?_⟩
  · generalize hu : finishArrays s c (modeOf (tMode (desc128 s e))) = u
    have harr := finishArrays_work hs hx (modeOf (tMode (desc128 s e)))
    rw [hu] at harr
    obtain ⟨hmem, hv⟩ := startTile_work hs hm hk hu
    obtain ⟨hdesc, hmode, hfed, hblock, haccs, hord⟩ := startedTile_fields u c (desc128 s e) e.ord
    refine ⟨u, startTile s c, startedTile u c (desc128 s e) e.ord, rfl, hdesc, hmode, hfed, hblock, haccs, hord, hexec, hv.frame, hmem,
      ?_, ?_, ?_, ?_, hv.mem, fun hapart => ?_⟩
    · rw [hv.core]
      rfl
    · rw [hv.core, harr.core]
      rfl
    · rw [hv.core]
      exact consume_tiles_ctr ..
    · rw [hv.core, tileStarted, hmode]
    · obtain ⟨hsame, htiles⟩ := finishArrays_apart hx hapart
      rw [hu] at hsame
      exact ⟨hmem.trans hsame, by rw [hv.core, tileStarted, htiles]⟩
  · have hfail := startTile_fails hm fun h => nomatch hk.symm.trans h
    rw [hk, failCheck_tile_invalid] at hfail
    exact ⟨_, hexec.trans (congrArg _ hfail), raise_frame .., rfl⟩
  · have hfail := startTile_fails hm fun h => nomatch hk.symm.trans h
    rw [hk] at hfail
    exact hexec.trans (congrArg _ hfail)

end Sys2Proof.Machine
end

section
/-! What a signal leaves of a core (R171). -/
namespace Sys2Proof.Machine
open Sys2Proof

variable {s : State} {c : CoreId}

/-- The token counters of a core after a signal to the counter of a SIG_CTR field. -/
def signalled (m : SMap Nat) (f : Nat) : SMap Nat :=
  if f = 0xFF ∨ smGet 0 m f = tokenMax then m else smSet 0 m f (smGet 0 m f + 1)

theorem signalled_none (m : SMap Nat) : signalled m 0xFF = m := if_pos (.inl rfl)

theorem smGet_signalled {m : SMap Nat} {f : Nat} (hf : f ≠ 0xFF) (h : smGet 0 m f < 1048575) :
    smGet 0 (signalled m f) f = smGet 0 m f + 1 := by
  have hfull : smGet 0 m f ≠ tokenMax := Nat.ne_of_lt h
  simp [signalled, hf, hfull, smGet_smSet_ne]

/-- A signal changes the counters of its core alone, where that core, with any counters, can be put and read back: in a canonical
table, and everywhere for a core that is not as it started. -/
theorem getCore_signalField (f : Nat)
    (hput : ∀ m, getCore (setCore s c { getCore s c with ctr := m }) c = { getCore s c with ctr := m }) :
    getCore (signalField s c f) c = { getCore s c with ctr := signalled (getCore s c).ctr f } := by
  unfold signalField signalled
  by_cases hf : f = 0xFF
  · simp [hf]
  · by_cases hfull : smGet 0 (getCore s c).ctr f = tokenMax
    · simp [hf, hfull, signalCtr]
    · simp [hf, hfull, signalCtr_below, hput]

end Sys2Proof.Machine
end

section
/-! What the completion of a vector operation writes (R126, R140): a run of writes, then the statistics of its core, then the signal. -/
namespace Sys2Proof.Machine
open Sys2Proof Sys2Proof.Safety

variable {s : State} {c : CoreId}

/-! The statistics (R126). -/

/-- A final record changes the statistics of its core, and which of its events it has raised. -/
theorem getCore_finalRecord (hs : canonical s) (r : ExcRec) (addr : Nat) : ∃ st fl ra,
    getCore (finalRecord s c r addr) c = { getCore s c with stat := st, flagged := fl, raised := ra } := by
  have hput {t : State} (ht : canonical t) (x : Core) : getCore (setCore t c x) c = x :=
    (getCore_setCore_wf t c c x (canonical_cores ht)).trans (if_pos rfl)
  unfold finalRecord
  extract_lets s1 fl conds
  have h1 : canonical s1 ∧ ∃ st fl ra, getCore s1 c = { getCore s c with stat := st, flagged := fl, raised := ra } :=
    ⟨updCore_canonical c _ hs, _, _, (getCore s c).raised, hput hs _⟩
  refine (List.foldlRecOn (motive := fun t => canonical t ∧ ∃ st fl ra,
    getCore t c = { getCore s c with stat := st, flagged := fl, raised := ra }) conds _ h1 fun t ⟨ht, st, fl, ra, hc⟩ k _ => ?_).2
  dsimp only
  split
  · refine ⟨raise_canonical _ _ _ (setCore_canonical _ _ ht), st, fl, (getCore t c).raised ||| BitVec.ofNat 4 (2 ^ k.1), ?_⟩
    rw [getCore_raise, hput ht, hc]
  · exact ⟨ht, st, fl, ra, hc⟩

/-! The completion (R140). -/

/-- What the completion of a vector operation writes, in its order: the record, the RES word, the output tag. -/
def completionWrites (v : VecRun) : List (Nat × Bytes) :=
  [(vExc v.desc, excBytes v.exc)] ++ (if vRes v.desc = 0 then [] else [(vRes v.desc, le64 v.res)]) ++
    (if vOtag v.desc = 0 then [] else [(vOtag v.desc, le64 v.otag)])

theorem writeAll_completionWrites (s : State) (v : VecRun) : writeAll s (completionWrites v) =
    (if vOtag v.desc = 0 then
        (if vRes v.desc = 0 then wrMem s (vExc v.desc) (excBytes v.exc)
          else wrMem (wrMem s (vExc v.desc) (excBytes v.exc)) (vRes v.desc) (le64 v.res))
      else wrMem (if vRes v.desc = 0 then wrMem s (vExc v.desc) (excBytes v.exc)
          else wrMem (wrMem s (vExc v.desc) (excBytes v.exc)) (vRes v.desc) (le64 v.res)) (vOtag v.desc) (le64 v.otag)) := by
  unfold completionWrites
  split <;> split <;> rfl

theorem le64_length (v : W64) : (le64 v).length = 8 := toLe_length 8 _

theorem completionWrites_ranges (v : VecRun) : ∀ r ∈ (completionWrites v).map writeRange,
    r ∈ [(vExc v.desc, (excBytes v.exc).length), (vRes v.desc, 8), (vOtag v.desc, 8)] := by
  intro r hr
  obtain ⟨w, hw, rfl⟩ := List.mem_map.1 hr
  simp only [completionWrites, List.mem_append] at hw
  rcases hw with (hw | hw) | hw
  · obtain rfl := List.mem_singleton.1 hw
    exact List.mem_cons_self
  · split at hw
    · cases hw
    · obtain rfl := List.mem_singleton.1 hw
      simp [writeRange, le64_length]
  · split at hw
    · cases hw
    · obtain rfl := List.mem_singleton.1 hw
      simp [writeRange, le64_length]

/-- The last of a run of writes reads back. -/
theorem rdMem_writeAll_last (hs : Memory.wf s.mem = true) (ws : List (Nat × Bytes)) (a : Nat) (bs : Bytes) :
    rdMem (writeAll s (ws ++ [(a, bs)])) a bs.length = bs := by
  rw [writeAll_append]
  exact rdMem_wrMem _ _ _ (writeAll_sameOutside hs ws).1

/-- The state before the signal of a completed vector operation: its writes, and its statistics where its record is a final one. -/
def recorded (w : State) (c : CoreId) (v : VecRun) : State := if v.final then finalRecord w c v.exc (vExc v.desc) else w

theorem completeVec_eq {x : Core} {v : VecRun} (hx : getCore s c = x) (hv : x.vec = some v) (ho : opStalled s c v.ord = false) :
    completeVec s c =
      signalField (recorded (writeAll (setCore s c { x with vec := none }) (completionWrites v)) c v) c (vSig v.desc) := by
  subst hx
  rw [writeAll_completionWrites]
  simp only [completeVec, hv, ho, recorded]
  rfl

theorem recorded_canonical (hs : canonical s) (v : VecRun) : canonical (recorded s c v) := by
  unfold recorded
  split
  · exact finalRecord_canonical _ _ _ hs
  · exact hs

theorem recorded_mem (hs : canonical s) (v : VecRun) : (recorded s c v).mem = s.mem := by
  unfold recorded
  split
  · exact (finalRecord_sameWork hs _ _).mem
  · rfl

theorem getCore_recorded (hs : canonical s) (v : VecRun) : ∃ st fl ra,
    getCore (recorded s c v) c = { getCore s c with stat := st, flagged := fl, raised := ra } := by
  unfold recorded
  split
  · exact getCore_finalRecord hs _ _
  · exact ⟨_, _, _, rfl⟩

/-- The record, the RES word or the output tag reads back: the last of them that the descriptor asks for. -/
theorem rdMem_completionWrites (hs : Memory.wf s.mem = true) (v : VecRun) :
    (vOtag v.desc ≠ 0 → rdMem (writeAll s (completionWrites v)) (vOtag v.desc) 8 = le64 v.otag) ∧
    (vOtag v.desc = 0 → vRes v.desc ≠ 0 → rdMem (writeAll s (completionWrites v)) (vRes v.desc) 8 = le64 v.res) ∧
    (vOtag v.desc = 0 → vRes v.desc = 0 →
      rdMem (writeAll s (completionWrites v)) (vExc v.desc) (excBytes v.exc).length = excBytes v.exc) := by
  refine ⟨fun ho => ?_, fun ho hb => ?_, fun ho hb => ?_⟩
  · rw [completionWrites, if_neg ho]
    simpa only [le64_length] using rdMem_writeAll_last hs _ (vOtag v.desc) (le64 v.otag)
  · rw [completionWrites, if_pos ho, if_neg hb, List.append_nil]
    simpa only [le64_length] using rdMem_writeAll_last hs _ (vRes v.desc) (le64 v.res)
  · rw [completionWrites, if_pos ho, if_pos hb, List.append_nil, List.append_nil]
    exact rdMem_writeAll_last hs [] _ _

/-- The core of a completed operation: its counters after the signal, and its statistics. -/
theorem getCore_completed (hs : canonical s) (v : VecRun) (f : Nat) : ∃ st fl ra, getCore (signalField (recorded s c v) c f) c =
    { getCore s c with ctr := signalled (getCore s c).ctr f, stat := st, flagged := fl, raised := ra } := by
  obtain ⟨st, fl, ra, hrec⟩ := getCore_recorded (c := c) hs v
  refine ⟨st, fl, ra, ?_⟩
  rw [getCore_signalField, hrec]
  intro m
  exact (getCore_setCore_wf _ _ _ _ (canonical_cores (recorded_canonical hs v))).trans (if_pos rfl)

/-- Settles O16: a completion is a run of writes at the addresses of its descriptor, the statistics, and the signal. -/
theorem vectorCompleteWritesRecords : Obligations.VectorCompleteWritesRecords := by
  rintro s u c x v _ _ _ hx hv ho hs rfl rfl rfl rfl
  generalize hw : writeAll (setCore s c { x with vec := none }) (completionWrites v) = w
  have hcw : canonical w := hw ▸ writeAll_canonical _ (setCore_canonical c _ hs)
  obtain ⟨-, hcore, -, hwmem⟩ := writeAll_setCore hs _ _ hw
  obtain ⟨st, fl, ra, hsig⟩ := getCore_completed (c := c) hcw v (vSig v.desc)
  rw [hcore] at hsig
  have hmem : (signalField (recorded w c v) c (vSig v.desc)).mem = w.mem := (signalField_mem ..).trans (recorded_mem hcw v)
  have hrd (a n : Nat) := (rdMem_congr hmem a n).trans (rdMem_congr hwmem a n)
  obtain ⟨hotag, hres, hexc⟩ := rdMem_completionWrites (canonical_mem hs) v
  refine ⟨w, signalField (recorded w c v) c (vSig v.desc), hw ▸ writeAll_completionWrites _ v,
    congrArg Host.Outcome.next (hw ▸ completeVec_eq hx hv ho), rfl, hmem, ?_, ?_, ?_, fun h => (hrd ..).trans (hotag h),
    fun h k => (hrd ..).trans (hres h k), fun h k => (hrd ..).trans (hexc h k), fun h => ?_, fun h hlt => ?_⟩
  · rw [hsig]
  · rw [hsig]
  · exact ((writeAll_sameOutside (canonical_mem hs) _).2.mono (completionWrites_ranges v)).congr rfl (hmem.trans hwmem)
  · rw [hsig, h]
    exact signalled_none _
  · rw [hsig]
    exact smGet_signalled h hlt

end Sys2Proof.Machine
end

section
/-! The berth sequencer (R138, R163, R484): the issue of a descriptor, and the marks. -/
namespace Sys2Proof.Machine
open Sys2Proof

variable {s : State} {c : CoreId} {x : Core} {e : QEntry}

/-! A core that is not as it started is put and read back in every table. -/

theorem ne_init_of_runActive (h : x.runActive = true) : x ≠ Core.init := by
  rintro rfl
  cases h

theorem ne_init_of_run (h : x.run ≠ 0) : x ≠ Core.init := by
  rintro rfl
  exact h rfl

/-! Entries of the sequencer (R138, R163). -/

/-- The queue entry of a descriptor holds its WAIT fields as memory holds them at its issue. -/
theorem entryAt_eq (s : State) (x : Core) (k : Nat) : entryAt s x k =
    QEntry.mk x.pc (byteAt (rdMem s (x.pc + waitByte k) 4) 0) (fld (rdMem s (x.pc + waitByte k) 4) 2 2) x.nextOrd := by
  have hw : sub (rdMem s (x.pc + waitByte k) 4) 0 4 = rdMem s (x.pc + waitByte k) 4 := by
    simpa only [rdMem_length] using sub_self (rdMem s (x.pc + waitByte k) 4)
  simp only [entryAt, hw]

/-- An entry changes the queue of its kind. -/
theorem pushEntry_eq (x : Core) (k : Nat) (e : QEntry) : ∃ t v m q,
    pushEntry x k e = { x with tileQ := t, vecQ := v, movQ := m, colQ := q } := by
  unfold pushEntry
  split <;> exact ⟨_, _, _, _, rfl⟩

/-- The start of a waiter changes the counters. -/
theorem consume_eq (x : Core) (e : QEntry) : consume x e = { x with ctr := (consume x e).ctr } := by
  unfold consume
  split <;> rfl

theorem consume_run (x : Core) (e : QEntry) : (consume x e).run = x.run := by rw [consume_eq]

theorem consume_fwdEnded (x : Core) (e : QEntry) : (consume x e).fwdEnded = x.fwdEnded := by rw [consume_eq]

theorem consume_runActive (h : x.runActive = true) (e : QEntry) : (consume x e).runActive = true := by rw [consume_eq, h]

theorem canIssue_iff : canIssue s x = true ↔
    x.runActive = true ∧ x.stopped = false ∧ x.mark = none ∧ s.stp.state ≠ .suspended := by
  simp [canIssue, suspended, and_assoc]

theorem descKind_of_mem {k : Nat} (h : k ∈ [1, 2, 3, 4]) : descKind k = k ∧ k ≠ 5 := by
  simp only [List.mem_cons, List.not_mem_nil, or_false] at h
  rcases h with rfl | rfl | rfl | rfl <;> decide

/-! The next mark (R484). -/

theorem reachMark_of_canIssue (hx : getCore s c = x) (hi : canIssue s x = true) (hk : rdElem s x.pc 1 = 5) :
    reachMark s c = setCore s c { x with mark := some (entryAt s x 5), pc := x.pc + 64, nextOrd := x.nextOrd + 1 } := by
  subst hx
  simp [reachMark, hi, hk]

/-- A sequencer that is at a mark already, or that no mark follows, goes past none. -/
theorem reachMark_of_not (hx : getCore s c = x) (h : canIssue s x = false ∨ rdElem s x.pc 1 ≠ 5) : reachMark s c = s := by
  subst hx
  rcases h with h | h <;> simp [reachMark, h]

theorem reachMark_mem (s : State) (c : CoreId) : (reachMark s c).mem = s.mem := by
  unfold reachMark
  dsimp only
  split <;> simp

theorem getCore_reachMark (s : State) (c : CoreId) : ∃ m p n,
    getCore (reachMark s c) c = { getCore s c with mark := m, pc := p, nextOrd := n } := by
  unfold reachMark
  dsimp only
  split
  · next h =>
    obtain ⟨hi, -⟩ := Bool.and_eq_true_iff.1 h
    exact ⟨_, _, _, getCore_setCore _ _ _ (ne_init_of_runActive (canIssue_iff.1 hi).1)⟩
  · exact ⟨_, _, _, rfl⟩

/-! The issue (R163). -/

theorem issueNext_mark (hx : getCore s c = x) (hi : canIssue s x = true) (hk : rdElem s x.pc 1 = 5) :
    issueNext s c = reachMark s c := by
  subst hx
  simp [issueNext, hi, hk]

theorem issueNext_full {k : Nat} (hx : getCore s c = x) (hk : k ∈ [1, 2, 3, 4]) (hop : rdElem s x.pc 1 = k)
    (hq : queueRoom x k = false) : issueNext s c = s := by
  subst hx
  obtain ⟨hkind, h5⟩ := descKind_of_mem hk
  simp [issueNext, hop, hkind, h5, hq]

/-- The core of a sequencer that has issued the descriptor at its program counter. -/
def issued (s : State) (x : Core) (k : Nat) : Core :=
  { pushEntry x k (entryAt s x k) with pc := x.pc + descBytes k, nextOrd := x.nextOrd + 1 }

/-- A descriptor with room enters its queue; then an idle core asks for its start, and a mark that follows is reached. -/
theorem issueNext_room {k : Nat} (hx : getCore s c = x) (hi : canIssue s x = true) (hk : k ∈ [1, 2, 3, 4])
    (hop : rdElem s x.pc 1 = k) (hq : queueRoom x k = true) :
    issueNext s c = reachMark (if k = 1 ∨ k = 2 then askStart (setCore s c (issued s x k)) c else setCore s c (issued s x k)) c := by
  subst hx
  obtain ⟨hkind, h5⟩ := descKind_of_mem hk
  simp only [issueNext, hi, hop, h5, hkind, hq, issued]
  rfl

theorem issued_fields (s : State) (x : Core) (k : Nat) : (issued s x k).pc = x.pc + descBytes k ∧
    (issued s x k).runActive = x.runActive ∧ (issued s x k).idle = x.idle ∧ (issued s x k).startAsked = x.startAsked := by
  obtain ⟨t, v, m, q, h⟩ := pushEntry_eq x k (entryAt s x k)
  simp only [issued, h, and_self]

theorem askStart_of_not (hx : getCore s c = x) (h : x.idle = false ∨ x.startAsked = true) : askStart s c = s := by
  subst hx
  rcases h with h | h <;> simp [askStart, h]

/-- Where the core has started or has asked for its start, and no mark follows, the issue changes the core alone. -/
theorem issueNext_alone {k : Nat} (hx : getCore s c = x) (hi : canIssue s x = true) (hk : k ∈ [1, 2, 3, 4])
    (hop : rdElem s x.pc 1 = k) (hq : queueRoom x k = true) (hs : x.idle = false ∨ x.startAsked = true ∨ k = 3 ∨ k = 4)
    (hnext : rdElem s (x.pc + descBytes k) 1 ≠ 5) : issueNext s c = setCore s c (issued s x k) := by
  obtain ⟨hpc, hrun, hidle, hasked⟩ := issued_fields s x k
  have hcore : getCore (setCore s c (issued s x k)) c = issued s x k :=
    getCore_setCore _ _ _ (ne_init_of_runActive (hrun.trans (canIssue_iff.1 hi).1))
  have hask : (if k = 1 ∨ k = 2 then askStart (setCore s c (issued s x k)) c else setCore s c (issued s x k)) =
      setCore s c (issued s x k) := by
    split
    · exact askStart_of_not hcore (by rw [hidle, hasked]; exact hs.imp_right fun h => h.resolve_right (by omega))
    · rfl
  rw [issueNext_room hx hi hk hop hq, hask, reachMark_of_not hcore (.inr _)]
  rwa [hpc, rdElem_congr (setCore_mem s c _)]

/-! The effect of a mark (R233, R484). -/

theorem testLoss_mem (s : State) (c : CoreId) : (testLoss s c).mem = s.mem := by
  unfold testLoss
  split
  · rfl
  · dsimp only
    split
    · rfl
    · split <;> rfl

theorem getCore_testLoss (s : State) (c : CoreId) : ∃ b, getCore (testLoss s c) c = { getCore s c with lossBad := b } := by
  have hput : getCore (updCore s c fun x => { x with lossBad := true }) c = { getCore s c with lossBad := true } :=
    getCore_setCore _ _ _ fun h => by cases congrArg Core.lossBad h
  unfold testLoss
  split
  · exact ⟨_, rfl⟩
  · dsimp only
    split
    · exact ⟨_, rfl⟩
    · split
      · exact ⟨true, hput⟩
      · exact ⟨_, rfl⟩

/-- The core at the end of its forward phase, and at the end of its run. -/
def coreForwardEnded (x : Core) (e : QEntry) : Core := { consume x e with mark := none, fwdEnded := true }
def corePassEnded (x : Core) (e : QEntry) : Core :=
  { consume x e with mark := none, runActive := false, run := x.run + 1, fwdEnded := false }

section
variable {d : Bytes} (hx : getCore s c = x) (hm : x.mark = some e) (hr : markReady s x e = true) (hd : desc64 s e = d)
  (hok : markOk d = true)
include hx hm hr hd hok

theorem markEffect_fwdEnd (hk : byteAt d 1 = 1) : markEffect s c 1 =
    passView (reachMark (signalField (testLoss (setCore s c (coreForwardEnded x e)) c) c (byteAt d 57)) c) := by
  have hstay : reachMark s c = s := reachMark_of_not hx (.inl (by simp [canIssue, hm]))
  subst hx hd
  simp [markEffect, hstay, hm, hr, hok, hk, coreForwardEnded]

/-- The loss word is tested where no FWD_END of the run has tested it. -/
theorem markEffect_passEnd (hk : byteAt d 1 = 2) : markEffect s c 2 =
    passView (signalField (if x.fwdEnded then setCore s c (corePassEnded x e) else testLoss (setCore s c (corePassEnded x e)) c) c
      (byteAt d 57)) := by
  have hstay : reachMark s c = s := reachMark_of_not hx (.inl (by simp [canIssue, hm]))
  subst hx hd
  simp [markEffect, hstay, hm, hr, hok, hk, corePassEnded, consume_run, consume_fwdEnded]

end

/-- A mark takes effect in a running program alone. -/
theorem markReady_runActive (h : markReady s x e = true) : x.runActive = true := by
  simp only [markReady, Bool.and_eq_true] at h
  tauto

section
variable (hrun : x.runActive = true) (f : Nat)
include hrun

theorem getCore_consumed_signal :
    (getCore (signalField (setCore s c (consume x e)) c f) c).ctr = signalled (consume x e).ctr f := by
  have hcore : getCore (setCore s c (consume x e)) c = consume x e :=
    getCore_setCore _ _ _ (ne_init_of_runActive (consume_runActive hrun e))
  rw [getCore_signalField, hcore]
  intro m
  exact getCore_setCore _ _ _ (ne_init_of_runActive ((congrArg Core.runActive hcore).trans (consume_runActive hrun e)))

theorem getCore_fwdEnd : ∃ b m p n,
    getCore (passView (reachMark (signalField (testLoss (setCore s c (coreForwardEnded x e)) c) c f) c)) c =
      { coreForwardEnded x e with ctr := signalled (consume x e).ctr f, lossBad := b, mark := m, pc := p, nextOrd := n } := by
  have hcore : getCore (setCore s c (coreForwardEnded x e)) c = coreForwardEnded x e :=
    getCore_setCore _ _ _ (ne_init_of_runActive (consume_runActive hrun e))
  obtain ⟨b, hloss⟩ := getCore_testLoss (setCore s c (coreForwardEnded x e)) c
  rw [hcore] at hloss
  obtain ⟨m, p, n, hreach⟩ := getCore_reachMark (signalField (testLoss (setCore s c (coreForwardEnded x e)) c) c f) c
  rw [getCore_signalField, hloss] at hreach
  · exact ⟨b, m, p, n, hreach⟩
  · intro k
    exact getCore_setCore _ _ _ (ne_init_of_runActive ((congrArg Core.runActive hloss).trans (consume_runActive hrun e)))

end

theorem getCore_passEnd (f : Nat) : ∃ b,
    getCore (passView (signalField (if x.fwdEnded then setCore s c (corePassEnded x e) else
      testLoss (setCore s c (corePassEnded x e)) c) c f)) c =
      { corePassEnded x e with ctr := signalled (consume x e).ctr f, lossBad := b } := by
  have hcore : getCore (setCore s c (corePassEnded x e)) c = corePassEnded x e :=
    getCore_setCore _ _ _ (ne_init_of_run (Nat.succ_ne_zero _))
  obtain ⟨b, hloss⟩ : ∃ b, getCore (if x.fwdEnded then setCore s c (corePassEnded x e) else
      testLoss (setCore s c (corePassEnded x e)) c) c = { corePassEnded x e with lossBad := b } := by
    split
    · exact ⟨_, hcore⟩
    · obtain ⟨b, hloss⟩ := getCore_testLoss (setCore s c (corePassEnded x e)) c
      exact ⟨b, hloss.trans (by rw [hcore])⟩
  refine ⟨b, (getCore_signalField f fun m => ?_).trans (by rw [hloss]; rfl)⟩
  exact getCore_setCore _ _ _ (ne_init_of_run (hloss ▸ Nat.succ_ne_zero x.run))

theorem fwdEnd_mem (s : State) (c : CoreId) (y : Core) (f : Nat) :
    (passView (reachMark (signalField (testLoss (setCore s c y) c) c f) c)).mem = s.mem :=
  (reachMark_mem ..).trans ((signalField_mem ..).trans (testLoss_mem ..))

theorem passEnd_mem (s : State) (c : CoreId) (y : Core) (b : Bool) (f : Nat) :
    (passView (signalField (if b then setCore s c y else testLoss (setCore s c y) c) c f)).mem = s.mem := by
  refine (signalField_mem ..).trans ?_
  split
  · rfl
  · exact testLoss_mem ..

/-- Settles O11: a running sequencer enters what stands next, or goes past a mark; the mark it has reached ends the phase or the run. -/
theorem sequencerIssuesAndMarks : Obligations.SequencerIssuesAndMarks := by
  refine ⟨?issue, ?reach, ?effect⟩
  case issue =>
    intro s c x k hx hk hop hrun hstop hmark hstart hsus hnext
    have hi : canIssue s x = true := canIssue_iff.2 ⟨hrun, hstop, hmark, hsus⟩
    refine ⟨fun hq => ?_, fun hq => congrArg Host.Outcome.next (issueNext_full hx hk hop hq)⟩
    rw [← entryAt_eq]
    exact congrArg Host.Outcome.next (issueNext_alone hx hi hk hop hq hstart hnext)
  case reach =>
    intro s c x hx hop hrun hstop hmark hsus
    have hi : canIssue s x = true := canIssue_iff.2 ⟨hrun, hstop, hmark, hsus⟩
    have hentry := entryAt_eq s x 5
    rw [show waitByte 5 = 56 from rfl] at hentry
    rw [← hentry]
    exact congrArg Host.Outcome.next ((issueNext_mark hx hi hop).trans (reachMark_of_canIssue hx hi hop))
  case effect =>
    intro s c x e d hx hd hm hr hok
    have hrun := markReady_runActive hr
    constructor
    · intro hk
      obtain ⟨b, m, p, n, hcore⟩ := getCore_fwdEnd (s := s) (c := c) (e := e) hrun (byteAt d 57)
      refine ⟨_, congrArg Host.Outcome.next (markEffect_fwdEnd hx hm hr hd hok hk), ?_, ?_, ?_, ?_, fwdEnd_mem ..⟩ <;> rw [hcore]
      · rfl
      · exact consume_run x e
      · exact consume_runActive hrun e
      · exact (getCore_consumed_signal hrun _).symm
    · intro hk
      obtain ⟨b, hcore⟩ := getCore_passEnd (s := s) (c := c) (x := x) (e := e) (byteAt d 57)
      refine ⟨_, congrArg Host.Outcome.next (markEffect_passEnd hx hm hr hd hok hk), ?_, ?_, ?_, ?_, ?_, passEnd_mem ..⟩ <;> rw [hcore]
      · rfl
      · rfl
      · rfl
      · rfl
      · exact (getCore_consumed_signal hrun _).symm

end Sys2Proof.Machine
end

section
/-! Token signals (R165, R171): a signal to one counter, and the completion of a mover, which signals its counters. -/
namespace Sys2Proof.Machine
open Sys2Proof Sys2Proof.Safety

variable {s : State} {c : CoreId}

/-- A signal at a counter that holds its largest value raises counter-overflow. -/
theorem signalCtr_full_eq {ctr : Nat} (h : smGet 0 (getCore s c).ctr ctr = tokenMax) :
    signalCtr s c ctr = raise s 0x2003 (srcCore c) (toLe 4 (srcCore c)) := if_pos h

/-- Settles O10: a signal below the largest value adds one token, and one at it raises counter-overflow. -/
theorem tokenSignal : Obligations.TokenSignal := by
  intro s c ctr
  have hexec : exec (.tokenSignal c ctr) s = .next (signalCtr s c ctr.val) := rfl
  constructor
  · intro h
    rw [hexec, signalCtr_below s c ctr.val h]
  · intro h
    rw [hexec, signalCtr_full_eq h]
    exact ⟨rfl, raise_frame ..⟩

/-! The completion of a mover (R165). -/

variable {u : State} {x : Core} {k : Nat} {m : MovRun}

/-- The mover in a slot of a core may complete now. -/
structure MoverEnds (s : State) (c : CoreId) (x : Core) (k : Nat) (m : MovRun) : Prop where
  core : getCore s c = x
  flying : x.movs[k]? = some m
  running : s.stp.state ≠ .suspended
  going : opStalled s c m.ord = false

/-- A mover that completes frees its entry; one that did not stop its program then signals SIG_CTR, and after it the remote
counter. -/
theorem completeMov_eq (h : MoverEnds s c x k m) (hu : setCore s c { x with movs := dropAt x.movs k } = u) :
    completeMov s c k =
      if m.stop then u
      else if mSigRemote m.desc then signalRemote (signalField u c (mSig m.desc)) (mRemote m.desc)
      else signalField u c (mSig m.desc) := by
  obtain ⟨rfl, hm, hr, ho⟩ := h
  subst hu
  simp [completeMov, suspended, hm, hr, ho]

/-- A remote signal to a counter of a core that the shape has is a signal to that counter. -/
theorem signalRemote_eq {s : State} {w i n l j : Nat} (hw : remoteOf w = (i, n, l, j)) (hok : remoteOk s w = true) :
    signalRemote s w = signalCtr s (coreOfIdx (j * 64 + l * 8 + n)) i := by
  simp [signalRemote, hw, hok]

/-- A signal below the largest value, in a canonical core table: it changes cores alone, keeps the movers in flight of every core
and adds one token to its counter. -/
theorem signalCtr_adds (hs : canonical s) {i : Nat} (h : smGet 0 (getCore s c).ctr i < 1048575) :
    signalCtr s c i = { s with cores := (signalCtr s c i).cores } ∧
      (∀ b, (getCore (signalCtr s c i) b).movs = (getCore s b).movs) ∧
      smGet 0 (getCore (signalCtr s c i) c).ctr i = smGet 0 (getCore s c).ctr i + 1 := by
  have hcore (b : CoreId) := getCore_setCore_wf s c b
    { getCore s c with ctr := smSet 0 (getCore s c).ctr i (smGet 0 (getCore s c).ctr i + 1) } (canonical_cores hs)
  rw [signalCtr_below s c i (Nat.ne_of_lt h)]
  refine ⟨rfl, fun b => ?_, ?_⟩
  · rw [hcore]
    split
    · next hb => rw [hb]
    · rfl
  · rw [hcore, if_pos rfl]
    exact (smGet_smSet_ne _ i i (Nat.succ_ne_zero _)).trans (if_pos rfl)

/-- A mover's entry freed in a canonical state: the movers left in flight, and the counters of every core as they were. -/
theorem getCore_moverFreed (hs : canonical s) (hx : getCore s c = x)
    (hu : setCore s c { x with movs := dropAt x.movs k } = u) :
    canonical u ∧ (getCore u c).movs = dropAt x.movs k ∧ ∀ b, (getCore u b).ctr = (getCore s b).ctr := by
  subst hu hx
  have hcore (b : CoreId) := getCore_setCore_wf s c b { getCore s c with movs := dropAt (getCore s c).movs k } (canonical_cores hs)
  refine ⟨setCore_canonical _ _ hs, by rw [hcore, if_pos rfl], fun b => ?_⟩
  rw [hcore]
  split
  · next hb => rw [hb]
  · rfl

/-- Settles O18: a completion frees the mover's entry, and its signals come after it, each to one counter. -/
theorem moverCompleteSignals : Obligations.MoverCompleteSignals := by
  intro s u c x k m hx hm hr ho hs hu
  have hexec : exec (.moverComplete c k) s = .next (completeMov s c k.val) := rfl
  rw [hexec, completeMov_eq ⟨hx, hm, hr, ho⟩ hu]
  obtain ⟨hcu, hmovs, hctr⟩ := getCore_moverFreed hs hx hu
  have hframe : u = { s with cores := u.cores } := by
    subst hu
    rfl
  have hsignal {b : CoreId} {i : Nat} (hlt : smGet 0 (getCore s b).ctr i < 1048575) :
      signalCtr u b i = { s with cores := (signalCtr u b i).cores } ∧ (getCore (signalCtr u b i) c).movs = dropAt x.movs k.val ∧
        smGet 0 (getCore (signalCtr u b i) b).ctr i = smGet 0 (getCore s b).ctr i + 1 := by
    rw [← hctr b] at hlt ⊢
    obtain ⟨hf, hmov, hadd⟩ := signalCtr_adds hcu hlt
    refine ⟨?_, (hmov c).trans hmovs, hadd⟩
    rw [hf, hframe]
  refine ⟨fun hstop => ?_, fun hstop hrem hsig => ?_, fun hstop hrem hsig hlt => ?_, fun hstop hrem => ?_⟩
  · rw [if_pos hstop]
  · simp [hstop, hrem, hsig, signalField]
  · subst hx
    refine ⟨signalCtr u c (mSig m.desc), ?_, hsignal hlt⟩
    simp [hstop, hrem, hsig, signalField]
  · refine ⟨by simp [hstop, hrem], fun b i n l j hw hok hb hsig hlt => ⟨signalCtr u b i, ?_, hsignal hlt⟩⟩
    have hoku : remoteOk u (mRemote m.desc) = true := by
      rw [hframe]
      exact hok
    simp [hstop, hrem, hsig, signalField, signalRemote_eq hw hoku, hb]

end Sys2Proof.Machine
end

section
/-! Parity, refresh and scrubbing (R162, R172–R175), and what an abort leaves as it was: sending a message and keeping the log change
neither memory nor the step state, and an abort cause changes neither memory nor what is committed. -/
namespace Sys2Proof.Machine
open Sys2Proof Sys2Proof.Safety

/-! What sending and the log leave. -/

/-- `t` has the device memory, the cores, the parity state and the step state of `s`. -/
structure KeepsStep (s t : State) : Prop where
  mem : t.mem = s.mem
  cores : t.cores = s.cores
  par : t.par = s.par
  stp : t.stp = s.stp

variable {s t u : State}

theorem KeepsStep.refl (s : State) : KeepsStep s s := ⟨rfl, rfl, rfl, rfl⟩

theorem KeepsStep.trans (h : KeepsStep s t) (k : KeepsStep t u) : KeepsStep s u :=
  ⟨k.mem.trans h.mem, k.cores.trans h.cores, k.par.trans h.par, k.stp.trans h.stp⟩

/-- A change of other fields first. -/
theorem KeepsStep.after (h : KeepsStep t u) (hm : t.mem = s.mem) (hc : t.cores = s.cores) (hp : t.par = s.par)
    (hs : t.stp = s.stp) : KeepsStep s u := KeepsStep.trans ⟨hm, hc, hp, hs⟩ h

/-- A fold of steps that each keep them keeps them. -/
theorem KeepsStep.foldl_fst {ι κ : Type} {g : State × κ → ι → State × κ} (hg : ∀ a i, KeepsStep a.1 (g a i).1) (l : List ι)
    (a : State × κ) : KeepsStep a.1 (l.foldl g a).1 := by
  induction l generalizing a with
  | nil => exact .refl a.1
  | cons i l ih => exact (hg a i).trans (ih _)

theorem KeepsStep.foldl {ι : Type} {g : State → ι → State} (hg : ∀ s i, KeepsStep s (g s i)) (l : List ι) (s : State) :
    KeepsStep s (l.foldl g s) := by
  induction l generalizing s with
  | nil => exact .refl s
  | cons i l ih => exact (hg s i).trans (ih _)

theorem raise_keepsStep (s : State) (code src : Nat) (p : Bytes) : KeepsStep s (raise s code src p) :=
  ⟨raise_mem .., raise_cores .., raise_par .., raise_stp ..⟩

theorem queueLocation_keepsStep (s : State) (unit : W32) (addr : Nat) (cause : Byte) :
    KeepsStep s (queueLocation s unit addr cause) := by
  unfold queueLocation
  split <;> exact (raise_keepsStep ..).after rfl rfl rfl rfl

theorem raiseLost_keepsStep (s : State) (dst : Nat) : KeepsStep s (raiseLost s dst) := raise_keepsStep ..

theorem countLost_keepsStep (s : State) (p : Nat) : KeepsStep s (countLost s p) := ⟨rfl, rfl, rfl, rfl⟩

theorem sendTxn_keepsStep (s : State) (rail : Nat) (x : Txn) (why : SentFor) : KeepsStep s (sendTxn s rail x why).1 := by
  unfold sendTxn
  split
  · exact .refl s
  · split
    · dsimp only
      exact ((countLost_keepsStep ..).trans (raise_keepsStep ..)).trans (raiseLost_keepsStep ..)
    · exact ⟨rfl, rfl, rfl, rfl⟩

theorem sendCctl_keepsStep (s : State) (kind cause : Nat) (step : W64) (tag : W32) (data dst : Nat) :
    KeepsStep s (sendCctl s kind cause step tag data dst).1 := sendTxn_keepsStep ..

theorem sendCctlAll_keepsStep (s : State) (kind cause : Nat) (step : W64) (tag : W32) (data : Nat) (dsts : List Nat) :
    KeepsStep s (sendCctlAll s kind cause step tag data dsts).1 :=
  .foldl_fst (by exact fun _ _ => sendCctl_keepsStep ..) dsts (s, true)

theorem sendLogCopy_keepsStep (s : State) (r : LogRec) : KeepsStep s (sendLogCopy s r) := by
  unfold sendLogCopy
  split
  · exact .refl s
  · exact KeepsStep.foldl_fst (by exact fun _ _ => sendTxn_keepsStep ..) _ (s, true)

theorem loseCover_keepsStep (s : State) (seq : W64) (i : Nat) : KeepsStep s (loseCover s seq i) := by
  unfold loseCover
  dsimp only
  split
  · exact (raise_keepsStep (setSlot s i _) ..).after rfl rfl rfl rfl
  · exact .refl s

theorem loseReplay_keepsStep (s : State) (seq : W64) : KeepsStep s (loseReplay s seq) := by
  unfold loseReplay
  split
  · split
    · exact ⟨rfl, rfl, rfl, rfl⟩
    · exact .refl s
  · exact .refl s

theorem logEvict_keepsStep (n : Nat) (s : State) (need : Nat) : KeepsStep s (logEvict n s need) := by
  induction n generalizing s with
  | zero => exact .refl s
  | succ n ih =>
    unfold logEvict
    split
    · exact .refl s
    · split
      · exact .refl s
      · refine KeepsStep.trans ?_ (ih _)
        exact (((loseReplay_keepsStep ..).trans (loseCover_keepsStep ..)).trans (loseCover_keepsStep ..)).after rfl rfl rfl rfl

theorem bondProgram_keepsStep (s : State) (n : Nat) : KeepsStep s (bondProgram s n) := ⟨rfl, rfl, rfl, rfl⟩

theorem logAppend_keepsStep (s : State) (type : Nat) (step : W64) (body : Bytes) : KeepsStep s (logAppend s type step body) := by
  unfold logAppend
  extract_lets seq prev r s1
  have hevict : KeepsStep s s1 := (logEvict_keepsStep ..).trans (bondProgram_keepsStep ..)
  clear_value s1
  exact hevict.trans ((sendLogCopy_keepsStep ..).after rfl rfl rfl rfl)

theorem endControl_keepsStep (s : State) (j : JobEnt) (status code : Nat) : KeepsStep s (endControl s j status code) :=
  ⟨endControl_mem .., endControl_cores .., endControl_par .., endControl_stp ..⟩

/-! What an abort cause leaves. -/

/-- `t` has the device memory, the parity state and the committed step, bank, attempt number and epoch of `s`. -/
structure KeepsCommitted (s t : State) : Prop where
  mem : t.mem = s.mem
  par : t.par = s.par
  bank : t.stp.bank = s.stp.bank
  c : t.stp.c = s.stp.c
  a : t.stp.a = s.stp.a
  epoch : t.stp.epoch = s.stp.epoch

theorem KeepsStep.committed (h : KeepsStep s t) : KeepsCommitted s t :=
  ⟨h.mem, h.par, by rw [h.stp], by rw [h.stp], by rw [h.stp], by rw [h.stp]⟩

theorem KeepsCommitted.refl (s : State) : KeepsCommitted s s := (KeepsStep.refl s).committed

theorem KeepsCommitted.trans (h : KeepsCommitted s t) (k : KeepsCommitted t u) : KeepsCommitted s u :=
  ⟨k.mem.trans h.mem, k.par.trans h.par, k.bank.trans h.bank, k.c.trans h.c, k.a.trans h.a, k.epoch.trans h.epoch⟩

/-- A change of other fields first. -/
theorem KeepsCommitted.after (h : KeepsCommitted t u) (hm : t.mem = s.mem) (hp : t.par = s.par) (hb : t.stp.bank = s.stp.bank)
    (hc : t.stp.c = s.stp.c) (ha : t.stp.a = s.stp.a) (he : t.stp.epoch = s.stp.epoch) : KeepsCommitted s u :=
  KeepsCommitted.trans ⟨hm, hp, hb, hc, ha, he⟩ h

theorem enterState_keepsCommitted (s : State) (x : StepState) : KeepsCommitted s (enterState s x) := by
  unfold enterState
  split <;> exact ⟨rfl, rfl, rfl, rfl, rfl, rfl⟩

theorem endAbandon_keepsCommitted (s : State) (l : Lock) : KeepsCommitted s (endAbandon s l) := by
  unfold endAbandon
  extract_lets s1 s2
  have hlog : KeepsStep s s1 := (logAppend_keepsStep ..).after rfl rfl rfl rfl
  have hraise : KeepsStep s s2 := hlog.trans (raise_keepsStep ..)
  have henter : KeepsCommitted s2 (enterState { s2 with stp := { s2.stp with stopPend := false } } .stopped) :=
    (enterState_keepsCommitted ..).after rfl rfl rfl rfl rfl rfl
  exact (hraise.committed.trans henter).trans (endControl_keepsStep ..).committed

theorem lockCause_keepsCommitted (s : State) : KeepsCommitted s (lockCause s) := by
  unfold lockCause
  split
  · exact .refl s
  · split
    · exact .refl s
    · split
      · split
        · exact .refl s
        · exact (sendCctlAll_keepsStep ..).committed.trans (endAbandon_keepsCommitted ..)
      · split
        · exact .refl s
        · exact (sendCctl_keepsStep ..).committed.after rfl rfl rfl rfl rfl rfl

theorem floodAbort_keepsCommitted (s : State) (cause : Nat) (step : W64) (tag : W32) (f : Option Nat) :
    KeepsCommitted s (floodAbort s cause step tag f) := by
  unfold floodAbort
  split
  · exact .refl s
  · exact (sendCctlAll_keepsStep ..).committed.after rfl rfl rfl rfl rfl rfl

/-- A flooded ABORT leaves the state of the step machine. -/
theorem floodAbort_state (s : State) (cause : Nat) (step : W64) (tag : W32) (f : Option Nat) :
    (floodAbort s cause step tag f).stp.state = s.stp.state := by
  unfold floodAbort
  split
  · rfl
  · dsimp only
    rw [(sendCctlAll_keepsStep ..).stp]

theorem discard_keepsCommitted (s : State) : KeepsCommitted s (discardIntake (discardQueues s)) := ⟨rfl, rfl, rfl, rfl, rfl, rfl⟩

theorem enterAbort_keepsCommitted (s : State) (a : Attempt) (cause : BitVec 12) : KeepsCommitted s (enterAbort s a cause) := by
  unfold enterAbort
  exact (((floodAbort_keepsCommitted ..).trans (discard_keepsCommitted _)).trans (enterState_keepsCommitted ..)).after
    rfl rfl rfl rfl rfl rfl

theorem enterState_state {x : StepState} (h : s.stp.state ≠ .suspended) : (enterState s x).stp.state = x := by
  rw [enterState, if_neg h]

theorem enterAbort_state {a : Attempt} {cause : BitVec 12} (h : s.stp.state ≠ .suspended) :
    (enterAbort s a cause).stp.state = .aborting := by
  unfold enterAbort
  apply enterState_state
  exact (floodAbort_state ..).trans_ne h

theorem startAbort_keepsCommitted (s : State) (cause : BitVec 12) : KeepsCommitted s (startAbort s cause) := by
  unfold startAbort
  split
  · exact lockCause_keepsCommitted s
  · split
    · exact ⟨rfl, rfl, rfl, rfl, rfl, rfl⟩
    · split
      · exact ⟨rfl, rfl, rfl, rfl, rfl, rfl⟩
      · split
        · exact ⟨rfl, rfl, rfl, rfl, rfl, rfl⟩
        · exact enterAbort_keepsCommitted ..

/-- An attempt before point 4 of R238 that is not suspended aborts. -/
theorem startAbort_aborts {a : Attempt} (ha : s.stp.att = some a) (hp : a.point < 4) (hr : s.stp.state ≠ .suspended)
    (cause : BitVec 12) : (startAbort s cause).stp.state = .aborting := by
  unfold startAbort
  simp only [ha, Nat.not_le.2 hp, hr, if_false]
  split
  · assumption
  · exact enterAbort_state hr

/-! Data-loss (R175, R398). -/

theorem answerDoe_keepsStep (s : State) (fn type status code : Nat) (body : Bytes) :
    KeepsStep s (answerDoe s fn type status code body) := by
  unfold answerDoe
  dsimp only
  split
  · exact ⟨rfl, rfl, rfl, rfl⟩
  · exact (raise_keepsStep ..).after rfl rfl rfl rfl

theorem answerLoads_keepsStep (s : State) (status code : Nat) : KeepsStep s (answerLoads s status code) := by
  refine KeepsStep.foldl (fun s l => ?_) [0, 1] s
  split
  · exact (answerDoe_keepsStep ..).after rfl rfl rfl rfl
  · exact .refl s

theorem failApply_keepsStep (s : State) : KeepsStep s (failApply s) := by
  unfold failApply
  split
  · exact .refl s
  · exact ((raise_keepsStep ..).trans (answerLoads_keepsStep ..)).after rfl rfl rfl rfl

theorem dataLoss_keepsCommitted (s : State) (unit : W32) (addr : Nat) : KeepsCommitted s (dataLoss s unit addr) :=
  ((raise_keepsStep ..).committed.trans (startAbort_keepsCommitted ..)).trans (failApply_keepsStep _).committed

theorem dataLoss_aborts {a : Attempt} (ha : s.stp.att = some a) (hp : a.point < 4) (hr : s.stp.state ≠ .suspended)
    (unit : W32) (addr : Nat) : (dataLoss s unit addr).stp.state = .aborting := by
  rw [dataLoss, (failApply_keepsStep _).stp]
  rw [← raise_stp s 0x2103 unit.toNat (memPay unit.toNat addr)] at ha hr
  exact startAbort_aborts ha hp hr _

/-! Replays and second failures (R172–R175). -/

variable {p : ParityCase}

/-- A passed replay counted at its unit, which is marked. -/
def replayCounted (s : State) (p : ParityCase) : State :=
  { s with par := { s.par with replays := smSet 0 s.par.replays p.unit.toNat (smGet 0 s.par.replays p.unit.toNat + 1),
                               raised := if !s.par.raised.contains p.unit then s.par.raised ++ [p.unit] else s.par.raised } }

/-- A passed replay is counted; the event and the queued location that may follow keep what is counted. -/
theorem replayPassed_keepsStep (s : State) (p : ParityCase) : KeepsStep (replayCounted s p) (replayPassed s p) := by
  have htold : KeepsStep (replayCounted s p) (if !s.par.raised.contains p.unit then
      raise (replayCounted s p) 0x2101 p.unit.toNat (memPay p.unit.toNat p.src.toNat) else replayCounted s p) := by
    split
    · exact raise_keepsStep ..
    · exact .refl _
  unfold replayPassed
  dsimp only
  split
  · exact htold.trans (queueLocation_keepsStep ..)
  · exact htold

theorem mem_replayCounted_raised (s : State) (p : ParityCase) : p.unit ∈ (replayCounted s p).par.raised := by
  by_cases hin : p.unit ∈ s.par.raised <;> simp [replayCounted, hin]

/-- A passed replay counts, marks its unit and leaves the stalls, device memory, the cores and the step state. -/
theorem replayPassed_counts (s : State) (p : ParityCase) :
    smGet 0 (replayPassed s p).par.replays p.unit.toNat = smGet 0 s.par.replays p.unit.toNat + 1 ∧
      p.unit ∈ (replayPassed s p).par.raised ∧ (replayPassed s p).par.stalls = s.par.stalls ∧ (replayPassed s p).mem = s.mem ∧
      (replayPassed s p).cores = s.cores ∧ (replayPassed s p).stp = s.stp := by
  obtain ⟨hmem, hcores, hpar, hstp⟩ := replayPassed_keepsStep s p
  rw [hpar, hmem, hcores, hstp]
  exact ⟨(smGet_smSet_ne _ _ _ (Nat.succ_ne_zero _)).trans (if_pos rfl), mem_replayCounted_raised s p, rfl, rfl, rfl, rfl⟩

/-- The stall that a second failure makes. -/
def stallOf (s : State) (p : ParityCase) : Stall :=
  { unit := p.unit, addr := p.src.toNat, regen := workingCopy s p && !p.rebuilding, op := stallKey s p.op }

/-- A second failure whose location is queued, before the loss of data. -/
def stalledAt (s : State) (p : ParityCase) : State :=
  queueLocation { s with par := { s.par with stalls := s.par.stalls ++ [stallOf s p] } } p.unit p.src.toNat 2

theorem secondFailure_eq (s : State) (p : ParityCase) : secondFailure s p =
    if (stallOf s p).regen then stalledAt s p else dataLoss (stalledAt s p) p.unit p.src.toNat := rfl

theorem stalledAt_keeps (s : State) (p : ParityCase) :
    (stalledAt s p).par.stalls = s.par.stalls ++ [stallOf s p] ∧ (stalledAt s p).mem = s.mem ∧ (stalledAt s p).stp = s.stp := by
  obtain ⟨hmem, -, hpar, hstp⟩ := queueLocation_keepsStep { s with par := { s.par with stalls := s.par.stalls ++ [stallOf s p] } }
    p.unit p.src.toNat 2
  exact ⟨congrArg Parity.stalls hpar, hmem, hstp⟩

theorem secondFailure_keeps (s : State) (p : ParityCase) :
    (secondFailure s p).par.stalls = s.par.stalls ++ [stallOf s p] ∧ (secondFailure s p).mem = s.mem ∧
      (secondFailure s p).stp.bank = s.stp.bank ∧ (secondFailure s p).stp.c = s.stp.c := by
  obtain ⟨hstalls, hmem, hstp⟩ := stalledAt_keeps s p
  rw [secondFailure_eq]
  split
  · exact ⟨hstalls, hmem, by rw [hstp], by rw [hstp]⟩
  · have hloss := dataLoss_keepsCommitted (stalledAt s p) p.unit p.src.toNat
    exact ⟨by rw [hloss.par, hstalls], hloss.mem.trans hmem, by rw [hloss.bank, hstp], by rw [hloss.c, hstp]⟩

/-- The end of the rebuilding program takes the stall out. -/
theorem regenDone_eq {addr : Nat} {st : Stall} (hr : s.stp.state ≠ .suspended)
    (hf : s.par.stalls.find? (fun p => p.regen && p.addr == addr) = some st) :
    regenDone s addr = raise { s with par := { s.par with stalls := s.par.stalls.erase st } } 0x2102 st.unit.toNat
      (memPay st.unit.toNat addr) := by
  simp [regenDone, suspended, hr, hf]

/-- Settles O23: a passed replay is counted; a second failure adds its stall and, where the datum is lost, raises an abort cause; the
end of a rebuilding takes the stall out. -/
theorem parityReplayOrAbort : Obligations.ParityReplayOrAbort := by
  refine ⟨fun s p hp => ?passed, fun s p hp => ?second, fun s addr st hr hf => ?rebuilt⟩
  case passed =>
    have hexec : exec (.parityReplay p) s = .next (replayPassed s p) := by
      show Host.Outcome.next (if p.second then secondFailure s p else replayPassed s p) = _
      simp [hp]
    exact ⟨_, hexec, replayPassed_counts s p⟩
  case second =>
    have hexec : exec (.parityReplay p) s = .next (secondFailure s p) := by
      show Host.Outcome.next (if p.second then secondFailure s p else replayPassed s p) = _
      simp [hp]
    obtain ⟨hstalls, hmem, hbank, hc⟩ := secondFailure_keeps s p
    obtain ⟨-, -, hstp⟩ := stalledAt_keeps s p
    refine ⟨_, stallOf s p, hexec, hstalls, rfl, rfl, rfl, hmem, hbank, hc, fun hg => ?_, fun hg a ha hlt hr => ?_⟩
    · rw [secondFailure_eq, if_pos hg, hstp]
    · rw [secondFailure_eq, hg]
      rw [← hstp] at ha hr
      exact dataLoss_aborts ha hlt hr ..
  case rebuilt =>
    have hexec : exec (.regenerated addr) s = .next (regenDone s addr.toNat) := rfl
    rw [regenDone_eq hr hf] at hexec
    refine ⟨_, hexec, ?_, ?_, ?_, ?_⟩ <;> simp

/-! Refresh and scrubbing (R162). -/

/-- A location queued while the queue has room joins it at its end. -/
theorem queueLocation_queue {unit : W32} {addr : Nat} {cause : Byte} (h : s.spr.queue.length < 4096) :
    (queueLocation s unit addr cause).spr.queue = s.spr.queue ++ [QueuedLoc.mk unit addr cause] := by
  rw [queueLocation, if_pos h, raise_spr]

/-- The scrubber of a stack past its next granule. -/
def scrubbed (s : State) (k : Nat) : State :=
  { s with par := { s.par with scrub := smSet 0 s.par.scrub k ((smGet 0 s.par.scrub k + 1) % granules) } }

/-- A scrub read moves on; one that meets an uncorrectable error then raises latent-fault and queues the granule. -/
theorem scrub_eq {k die i : Nat} (hk : stackPlace (curDies s) 0 k = some (die, i)) (bad : Bool) :
    scrub s k bad = if bad then
        queueLocation (raise (scrubbed s k) 0x2104 (srcStack die i)
          (memPay (srcStack die i) (k * stackBytes + 512 * smGet 0 s.par.scrub k))) (BitVec.ofNat 32 (srcStack die i))
          (k * stackBytes + 512 * smGet 0 s.par.scrub k) 4
      else scrubbed s k := by
  simp [scrub, hk, scrubbed]

/-- Settles O24: a refresh is counted, and a scrub read moves its position; neither writes. -/
theorem refreshAndScrubKeepData : Obligations.RefreshAndScrubKeepData := by
  refine ⟨fun s k hk => congrArg Host.Outcome.next (if_pos hk), fun s k bad die i hk => ?_⟩
  have hexec : exec (.scrubRead k bad) s = .next (scrub s k.val bad) := rfl
  rw [scrub_eq hk] at hexec
  refine ⟨_, hexec, ?_⟩
  cases bad with
  | false => exact ⟨rfl, rfl, rfl, rfl, fun _ => rfl, fun h => nomatch h⟩
  | true =>
    simp only [if_true]
    generalize hu : raise (scrubbed s k.val) 0x2104 _ _ = u
    have hraise : KeepsStep (scrubbed s k.val) u := hu ▸ raise_keepsStep ..
    have hspr : u.spr = s.spr := hu ▸ raise_spr ..
    obtain ⟨hmem, hcores, hpar, hstp⟩ := hraise.trans (queueLocation_keepsStep u (BitVec.ofNat 32 (srcStack die i))
      (k.val * stackBytes + 512 * smGet 0 s.par.scrub k.val) 4)
    refine ⟨hmem, hcores, hstp, congrArg Parity.scrub hpar, fun h => (nomatch h), fun _ hroom => ?_⟩
    rw [queueLocation_queue (hspr ▸ hroom), hspr]
    rfl

end Sys2Proof.Machine
end

section
/-! The start of a mover (R164, R166–R168, R170, R226, R445): what it writes is a run of rows that share no byte, or one result byte, and
what else it changes is its core. -/
namespace Sys2Proof.Machine
open Sys2Proof Sys2Proof.Safety

variable {s t : State} {c : CoreId} {x : Core} {e : QEntry} {rest : List QEntry} {d : Bytes} {idx : List Nat}

/-! The rows (R167). -/

/-- The row of the source that an operation's row `r` reads, and the row of the destination that it writes: an index picks one of
them. -/
def srcPlace (d : Bytes) (idx : List Nat) (r : Nat) : Nat := if mOp d = 2 then idx.getD r 0 else r
def dstPlace (d : Bytes) (idx : List Nat) (r : Nat) : Nat := if mOp d = 3 then idx.getD r 0 else r

/-- What a mover writes at its row `r`: the pattern of a FILL, else the bytes of a source row. -/
def rowBytes (s : State) (d : Bytes) (idx : List Nat) (r : Nat) : Bytes :=
  if mOp d = 4 then fillRow (rdMem s (mAux d) 16) (mBytes d) else rdMem s (mSrc d + srcPlace d idx r * mSs d) (mBytes d)

/-- The row writes of a COPY, GATHER, SCATTER or FILL. -/
def rowsMoved (s : State) (d : Bytes) (idx : List Nat) : List (Nat × Bytes) :=
  (List.range (mRows d)).map fun r => (mDst d + dstPlace d idx r * mDs d, rowBytes s d idx r)

/-- The writes of a mover. -/
def moverWrites (s : State) (d : Bytes) (idx : List Nat) : List (Nat × Bytes) :=
  match mOp d with
  | 5 => []
  | 6 => [(mAux d, [if rowsEqual s (mSrcRows d idx) (mDstRows d idx) then 0 else 1])]
  | _ => rowsMoved s d idx

@[simp] theorem fillRow_length (pat : Bytes) (n : Nat) : (fillRow pat n).length = n := by simp [fillRow]

@[simp] theorem rowBytes_length (s : State) (d : Bytes) (idx : List Nat) (r : Nat) : (rowBytes s d idx r).length = mBytes d := by
  unfold rowBytes
  split
  · exact fillRow_length ..
  · exact rdMem_length ..

/-- The index list of an indexed operation names one row for each of its rows. -/
theorem readIdx_length (s : State) (h : mIndexed d = true) : (readIdx s d).length = mRows d := by
  simp [readIdx, h, elems]

/-- Rows picked by a list of indices, by position. -/
theorem idxRanges_eq (base stride len : Nat) (idx : List Nat) :
    idxRanges base stride len idx = (List.range idx.length).map fun r => (base + idx.getD r 0 * stride, len) := by
  apply List.ext_getElem
  · simp [idxRanges]
  · intro i h _
    have hi : i < idx.length := by simpa [idxRanges] using h
    simp [idxRanges, hi]

/-- An operation code that is not a FILL's, a SIGNAL's or a COMPARE's. -/
theorem mOp_copies (h : mOp d ∈ [1, 2, 3]) : mOp d = 1 ∨ mOp d = 2 ∨ mOp d = 3 := by simpa using h

theorem mSrcRows_eq (h : mOp d ∈ [1, 2, 3]) (hi : mIndexed d = true → idx.length = mRows d) :
    mSrcRows d idx = (List.range (mRows d)).map fun r => (mSrc d + srcPlace d idx r * mSs d, mBytes d) := by
  rcases mOp_copies h with hop | hop | hop
  · simp [mSrcRows, srcPlace, hop, rowRanges]
  · simp [mSrcRows, srcPlace, hop, idxRanges_eq, hi (by simp [mIndexed, hop])]
  · simp [mSrcRows, srcPlace, hop, rowRanges]

theorem mDstRows_eq (h : mOp d ∈ [1, 2, 3, 4]) (hi : mIndexed d = true → idx.length = mRows d) :
    mDstRows d idx = (List.range (mRows d)).map fun r => (mDst d + dstPlace d idx r * mDs d, mBytes d) := by
  simp only [List.mem_cons, List.not_mem_nil, or_false] at h
  rcases h with hop | hop | hop | hop
  · simp [mDstRows, dstPlace, hop, rowRanges]
  · simp [mDstRows, dstPlace, hop, rowRanges]
  · simp [mDstRows, dstPlace, hop, idxRanges_eq, hi (by simp [mIndexed, hop])]
  · simp [mDstRows, dstPlace, hop, rowRanges]

/-! The writes. -/

theorem copyRows_eq (h : mOp d ∈ [1, 2, 3]) (hi : mIndexed d = true → idx.length = mRows d) :
    copyRows s (mSrcRows d idx) (mDstRows d idx) = writeAll s (rowsMoved s d idx) := by
  have h4 : mOp d ≠ 4 := by
    rintro hop
    simp [hop] at h
  rw [mSrcRows_eq h hi, mDstRows_eq (List.mem_append_left [4] h) hi]
  simp only [copyRows, writeAll, rowsMoved, rowBytes, h4, if_false, List.map_map, List.zip_map', List.foldl_map, Function.comp_apply]

theorem fillRows_eq (h : mOp d = 4) : (mDstRows d idx).foldl
    (fun t r => wrMem t r.1 (fillRow (rdMem s (mAux d) 16) (mBytes d))) s = writeAll s (rowsMoved s d idx) := by
  rw [mDstRows_eq (by simp [h]) (by simp [mIndexed, h])]
  simp only [writeAll, rowsMoved, rowBytes, h, if_true, List.foldl_map]

/-- The codes of the six movers, split as their writes are. -/
theorem mOp_cases (h : mOp d ∈ [1, 2, 3, 4, 5, 6]) : mOp d ∈ [1, 2, 3] ∨ mOp d = 4 ∨ mOp d = 5 ∨ mOp d = 6 := by
  simpa [or_assoc] using h

/-- A mover's effect is the run of its writes; a difference is what a COMPARE of rows that are not equal finds. -/
theorem movEffect_eq (h : mOp d ∈ [1, 2, 3, 4, 5, 6]) (hi : mIndexed d = true → idx.length = mRows d) :
    movEffect s d idx =
      (writeAll s (moverWrites s d idx), mOp d == 6 && !rowsEqual s (mSrcRows d idx) (mDstRows d idx)) := by
  rcases mOp_cases h with hop | hop | hop | hop
  · have hcopy := copyRows_eq (s := s) hop hi
    rcases mOp_copies hop with hop | hop | hop <;> simp [movEffect, moverWrites, hop, hcopy]
  · simp [movEffect, moverWrites, hop, fillRows_eq hop]
  · simp [movEffect, moverWrites, hop, writeAll]
  · simp [movEffect, moverWrites, hop, writeAll]

theorem moverWrites_rows (h : mOp d ∈ [1, 2, 3, 4]) : moverWrites s d idx = rowsMoved s d idx := by
  simp only [List.mem_cons, List.not_mem_nil, or_false] at h
  rcases h with hop | hop | hop | hop <;> simp [moverWrites, hop]

/-- The ranges of the writes are the mover's own rows, or its result byte. -/
theorem moverWrites_ranges (s : State) (h : mOp d ∈ [1, 2, 3, 4, 5, 6]) (hi : mIndexed d = true → idx.length = mRows d) :
    (moverWrites s d idx).map writeRange = mWrites d idx := by
  have hrows (hop : mOp d ∈ [1, 2, 3, 4]) (h6 : mOp d ≠ 6) : (moverWrites s d idx).map writeRange = mWrites d idx := by
    rw [moverWrites_rows hop, mWrites, if_neg h6, mDstRows_eq hop hi]
    simp [rowsMoved, writeRange]
  rcases mOp_cases h with hop | hop | hop | hop
  · exact hrows (List.mem_append_left [4] hop) (by rintro h6; simp [h6] at hop)
  · exact hrows (by simp [hop]) (by simp [hop])
  · simp [moverWrites, mWrites, mDstRows, hop]
  · simp [moverWrites, mWrites, writeRange, hop]

/-! What the rows read back. -/

/-- What the placement of a valid mover gives: a STOP belongs to a COMPARE, and rows of the destination do not overlap. -/
theorem movCheck_place (h : movCheck s c d idx = .ok) :
    (mStop d = true → mOp d = 6) ∧ (mOp d = 5 ∨ mBytes d ≤ mDs d ∨ mRows d = 1) := by
  have hp := (check_ok h).2
  simp only [mPlace, Bool.and_eq_true] at hp
  obtain ⟨⟨⟨⟨⟨⟨⟨⟨⟨hstop, _⟩, _⟩, _⟩, _⟩, _⟩, hds⟩, _⟩, _⟩, _⟩ := hp
  simp only [Bool.or_eq_true, Bool.not_eq_true', beq_iff_eq, decide_eq_true_eq] at hstop hds
  exact ⟨fun h => hstop.resolve_left (by simp [h]), or_assoc.1 hds⟩

/-- Rows at places that differ, at a stride that spans them, share no byte. -/
theorem placed_apart {base ld len n : Nat} {place : Nat → Nat} {f : Nat → Bytes} (hlen : ∀ r, (f r).length = len)
    (hp : (List.range n).Pairwise fun a b => place a ≠ place b) (h : len ≤ ld ∨ n = 1) :
    ((List.range n).map fun r => (base + place r * ld, f r)).Pairwise WritesApart := by
  rcases h with h | rfl
  · refine List.pairwise_map.2 (hp.imp fun {a b} hab => ?_)
    simp only [WritesApart, hlen]
    rcases Nat.lt_or_gt_of_ne hab with hlt | hgt
    · have := Nat.mul_le_mul_right ld (Nat.succ_le_of_lt hlt)
      rw [Nat.succ_mul] at this
      exact .inl (by omega)
    · have := Nat.mul_le_mul_right ld (Nat.succ_le_of_lt hgt)
      rw [Nat.succ_mul] at this
      exact .inr (by omega)
  · simp

/-- The rows of the destination are at different places, where a SCATTER has no index twice. -/
theorem dstPlace_distinct (hi : mIndexed d = true → idx.length = mRows d) (h : mOp d = 3 → idx.Nodup) :
    (List.range (mRows d)).Pairwise fun a b => dstPlace d idx a ≠ dstPlace d idx b := by
  by_cases h3 : mOp d = 3
  · have hlen : idx.length = mRows d := hi (by simp [mIndexed, h3])
    refine List.pairwise_iff_getElem.2 fun i j hir hjr hij => ?_
    simp only [List.length_range] at hir hjr
    rw [← hlen] at hir hjr
    simpa [dstPlace, h3, hir, hjr] using (List.nodup_iff_pairwise_ne.1 (h h3)).rel_get_of_lt (a := ⟨i, hir⟩) (b := ⟨j, hjr⟩) hij
  · simpa [dstPlace, h3] using List.nodup_iff_pairwise_ne.1 (List.nodup_range (n := mRows d))

/-- Each row that a valid mover wrote holds its bytes. -/
theorem rdMem_rowsMoved (hs : Memory.wf s.mem = true) (hk : movCheck s c d idx = .ok) (hop : mOp d ∈ [1, 2, 3, 4])
    (hi : mIndexed d = true → idx.length = mRows d) (h3 : mOp d = 3 → idx.Nodup) {r : Nat} (hr : r < mRows d) :
    rdMem (writeAll s (moverWrites s d idx)) (mDst d + dstPlace d idx r * mDs d) (mBytes d) = rowBytes s d idx r := by
  have hds : mBytes d ≤ mDs d ∨ mRows d = 1 := (movCheck_place hk).2.resolve_left (by rintro h5; simp [h5] at hop)
  have hapart : (rowsMoved s d idx).Pairwise WritesApart :=
    placed_apart (rowBytes_length s d idx) (dstPlace_distinct hi h3) hds
  have hmem : (mDst d + dstPlace d idx r * mDs d, rowBytes s d idx r) ∈ rowsMoved s d idx :=
    List.mem_map_of_mem (List.mem_range.2 hr)
  rw [moverWrites_rows hop]
  simpa using rdMem_writeAll_whole hs hapart hmem

/-! The start. -/

/-- The commands that start movers, with their operation codes. -/
def moverCommands (c : CoreId) : List (Instr × Nat) :=
  [(.copy c, 1), (.gather c, 2), (.scatter c, 3), (.fill c, 4), (.signal c, 5), (.compare c, 6)]

/-- Each of them starts the operation of its code. -/
theorem exec_moverCommand (s : State) {i : Instr} {op : Nat} (h : (i, op) ∈ moverCommands c) : exec i s = .next (startMov op s c) := by
  have hall : ∀ p ∈ moverCommands c, exec p.1 s = .next (startMov p.2 s c) := by
    simp only [moverCommands, List.forall_mem_cons, List.not_mem_nil, false_imp_iff, implies_true, and_true]
    and_intros <;> rfl
  exact hall _ h

theorem moverCommand_code {i : Instr} {op : Nat} (h : (i, op) ∈ moverCommands c) : op ∈ [1, 2, 3, 4, 5, 6] :=
  List.mem_map_of_mem (f := Prod.snd) h

/-- The head of a core's mover queue is valid, and no mover in flight holds it back. -/
structure MoverMayStart (s : State) (c : CoreId) (x : Core) (e : QEntry) (rest : List QEntry) (d : Bytes) (idx : List Nat) :
    Prop where
  core : getCore s c = x
  desc : desc64 s e = d
  index : readIdx s d = idx
  queue : x.movQ = e :: rest
  running : s.stp.state ≠ .suspended
  going : x.stopped = false
  room : x.movs.length < 4
  ready : ready s x e = true
  form : mForm d = true
  listFree : listHeld x d = false
  valid : movCheck s c d idx = .ok
  free : movHeld x d idx = false

/-- The core of a started mover: the mover took its tokens and flies; one that stops its program stops the core. -/
def moverStarted (x : Core) (e : QEntry) (rest : List QEntry) (d : Bytes) (idx : List Nat) (stop : Bool) : Core :=
  { consume x e with movQ := rest, movs := x.movs ++ [MovRun.mk d stop idx e.ord], stopped := stop }

/-- A core that goes on is stopped by no start but that of a COMPARE that stops. -/
theorem moverStarted_going (h : x.stopped = false) : moverStarted x e rest d idx false =
    { consume x e with movQ := rest, movs := x.movs ++ [MovRun.mk d false idx e.ord] } := by
  rw [moverStarted, consume_eq, h]

/-- R445: a mover waits for a stack that holds new requests. -/
theorem startMov_waits (h : MoverMayStart s c x e rest d idx) (hstk : movStackHeld s d idx = true) : startMov (mOp d) s c = s := by
  obtain ⟨rfl, rfl, rfl, hq, hr, hg, hm, hy, hf, hl, hk, hh⟩ := h
  simp [startMov, suspended, *]

/-- A start is the effect of the operation and a change of the core; a COMPARE that stops then raises its event and aborts. -/
theorem startMov_eq (h : MoverMayStart s c x e rest d idx) (hstk : movStackHeld s d idx = false) {u : State} {diff : Bool}
    (he : movEffect s d idx = (u, diff)) : startMov (mOp d) s c =
      if diff && mStop d then
        startAbort (raise (setCore u c (moverStarted x e rest d idx true)) 0x4104 (srcCore c) []) cStale
      else setCore u c (moverStarted x e rest d idx false) := by
  obtain ⟨rfl, rfl, rfl, hq, hr, hg, hm, hy, hf, hl, hk, hh⟩ := h
  cases hstop : diff && mStop (desc64 s e) <;> simp [startMov, suspended, moverStarted, Nat.not_le.2 hm, *]

theorem MoverMayStart.indexed (h : MoverMayStart s c x e rest d idx) : mIndexed d = true → idx.length = mRows d :=
  fun hi => h.index ▸ readIdx_length s hi

/-- Writes do not meet the cores. -/
theorem setCore_writeAll (s : State) (y : Core) (ws : List (Nat × Bytes)) :
    setCore (writeAll s ws) c y = writeAll (setCore s c y) ws := by
  rw [writeAll_frame s, writeAll_frame (setCore s c y), writeAll_mem_congr (setCore_mem s c y)]
  rfl

/-- Settles O17: a start is a run of writes and a change of its core; the rows it writes share no byte, so that each reads back. -/
theorem moverStartWritesRows : Obligations.MoverStartWritesRows := by
  intro s c x e rest d idx i hcmd hx hd hidx hq hr hg hm hy hf hl hk hh hs
  have h : MoverMayStart s c x e rest d idx := ⟨hx, hd, hidx, hq, hr, hg, hm, hy, hf, hl, hk, hh⟩
  have hexec : exec i s = .next (startMov (mOp d) s c) := exec_moverCommand s hcmd
  have hop : mOp d ∈ [1, 2, 3, 4, 5, 6] := moverCommand_code hcmd
  have heff := movEffect_eq (s := s) hop h.indexed
  refine ⟨fun hstk => ?_, fun hstk => ⟨fun hgo => ?_, fun hstop hdiff => ?_⟩⟩
  · rw [hexec, startMov_waits h hstk]
  · have hnot : ((mOp d == 6 && !rowsEqual s (mSrcRows d idx) (mDstRows d idx)) && mStop d) = false := by
      rcases hgo with hgo | hgo <;> simp [hgo]
    rw [startMov_eq h hstk heff, if_neg (by simp [hnot]), moverStarted_going hg, setCore_writeAll] at hexec
    generalize ht : writeAll (setCore s c _) _ = t at hexec
    obtain ⟨hframe, hcore, -, hmem⟩ := writeAll_setCore hs _ _ ht
    have hwf := canonical_mem hs
    have hrow (h14 : mOp d ∈ [1, 2, 3, 4]) (h3 : mOp d = 3 → idx.Nodup) {r : Nat} (hr : r < mRows d) :
        rdMem t (mDst d + dstPlace d idx r * mDs d) (mBytes d) = rowBytes s d idx r :=
      (rdMem_congr hmem ..).trans (rdMem_rowsMoved hwf hk h14 h.indexed h3 hr)
    refine ⟨t, hexec, hframe, hcore, by rw [heff, hmem], ?_, fun h1 r hr => ?_, fun h2 r hr => ?_, fun h3 hnd r hr => ?_,
      fun h4 r hr => ?_, fun h5 => ?_, fun h6 => ?_⟩
    · rw [← moverWrites_ranges s hop h.indexed]
      exact (writeAll_sameOutside hwf _).2.congr rfl hmem
    · simpa [dstPlace, rowBytes, srcPlace, h1] using hrow (by simp [h1]) (by simp [h1]) hr
    · simpa [dstPlace, rowBytes, srcPlace, h2] using hrow (by simp [h2]) (by simp [h2]) hr
    · simpa [dstPlace, rowBytes, srcPlace, h3] using hrow (by simp [h3]) (fun _ => hnd) hr
    · simpa [dstPlace, rowBytes, srcPlace, h4] using hrow (by simp [h4]) (by simp [h4]) hr
    · rw [hmem]
      simp [moverWrites, h5, writeAll]
    · rw [rdMem_congr hmem]
      simpa [moverWrites, h6, writeAll] using rdMem_wrMem s (mAux d) [if rowsEqual s (mSrcRows d idx) (mDstRows d idx) then 0 else 1] hwf
  · have h6 : mOp d = 6 := (movCheck_place hk).1 hstop
    rw [hexec, startMov_eq h hstk heff, if_pos (by simp [h6, hstop, hdiff])]
    simp [moverWrites, h6, hdiff, writeAll, moverStarted]

end Sys2Proof.Machine
end

section
/-! Arbitration (R160, R176–R181): how a transfer is cut into HBM requests, which request a slot grants, and what the sideband masks. -/
namespace Sys2Proof.Machine
open Sys2Proof Sys2Proof.Safety

/-! HBM requests (R160). -/

/-- The part of the bytes from `lo` to `hi` in granule `j`, as an address and a length. -/
def granulePart (lo hi j : Nat) : Nat × Nat := (max lo (512 * j), min hi (512 * (j + 1)) - max lo (512 * j))

/-- The 32-byte units that a transfer touches, from the first to behind the last. -/
def unitsStart (a : Nat) : Nat := a / 32 * 32
def unitsEnd (a n : Nat) : Nat := a / 32 * 32 + ceilDiv (a % 32 + n) 32 * 32

/-- The requests of a transfer are the parts of its units in the granules from its first on. -/
theorem mem_hbmRequests {a n : Nat} {p : Nat × Nat} :
    p ∈ hbmRequests a n ↔ ∃ j, a / 512 ≤ j ∧ 512 * j < unitsEnd a n ∧ p = granulePart (unitsStart a) (unitsEnd a n) j := by
  have hpart (i : Nat) : granulePart (unitsStart a) (unitsEnd a n) (a / 512 + i) =
      (Nat.max (a / 32 * 32) (a / 32 * 32 / 512 * 512 + i * 512),
        Nat.min (a / 32 * 32 + ceilDiv (a % 32 + n) 32 * 32) (a / 32 * 32 / 512 * 512 + (i + 1) * 512) -
          Nat.max (a / 32 * 32) (a / 32 * 32 / 512 * 512 + i * 512)) := by
    have hlo : 512 * (a / 512 + i) = a / 32 * 32 / 512 * 512 + i * 512 := by omega
    have hhi : 512 * (a / 512 + i + 1) = a / 32 * 32 / 512 * 512 + (i + 1) * 512 := by omega
    rw [granulePart, unitsStart, unitsEnd, hlo, hhi]
  have hcount (i : Nat) : i < ceilDiv (a / 32 * 32 % 512 + ceilDiv (a % 32 + n) 32 * 32) 512 ↔ 512 * (a / 512 + i) < unitsEnd a n := by
    unfold unitsEnd
    generalize ceilDiv (a % 32 + n) 32 = m
    unfold ceilDiv
    omega
  simp only [hbmRequests, cutAt, List.mem_map, List.mem_range]
  constructor
  · rintro ⟨i, hi, rfl⟩
    exact ⟨a / 512 + i, Nat.le_add_right .., (hcount i).1 hi, (hpart i).symm⟩
  · rintro ⟨j, hj, hlt, rfl⟩
    obtain ⟨i, rfl⟩ := Nat.exists_eq_add_of_le hj
    exact ⟨i, (hcount i).2 hlt, (hpart i).symm⟩

/-- Each request is aligned, has 32 to 512 bytes and lies in one granule. -/
theorem hbmRequests_bounds {a n : Nat} (hn : 1 ≤ n) {p : Nat × Nat} (hp : p ∈ hbmRequests a n) :
    p.1 % 32 = 0 ∧ p.2 % 32 = 0 ∧ 32 ≤ p.2 ∧ p.2 ≤ 512 ∧ p.1 / 512 = (p.1 + p.2 - 1) / 512 := by
  obtain ⟨j, hj, hlt, rfl⟩ := mem_hbmRequests.1 hp
  unfold granulePart unitsStart unitsEnd ceilDiv at *
  dsimp only at *
  omega

/-- Every byte of the transfer is in the request of its granule. -/
theorem hbmRequests_cover {a n b : Nat} (ha : a ≤ b) (hb : b < a + n) : ∃ p ∈ hbmRequests a n, p.1 ≤ b ∧ b < p.1 + p.2 := by
  refine ⟨_, mem_hbmRequests.2 ⟨b / 512, Nat.div_le_div_right ha, ?_, rfl⟩, ?_⟩
  · unfold unitsEnd ceilDiv
    omega
  · unfold granulePart unitsStart unitsEnd ceilDiv
    dsimp only
    omega

/-! What an arbiter picks (R178, R179). -/

variable {s : State} {a : ArbId} {kind ptr : Nat} {l : List ArbReq} {g : ArbReq}

/-- The first in round-robin order of a list that is not empty is one of it. -/
theorem rrFirst_mem (n ptr : Nat) (h : l ≠ []) : ∃ g ∈ l, rrFirst n ptr l = some g := by
  have hsome (l : List ArbReq) (b : ArbReq) : ∃ g ∈ b :: l, l.foldl (fun best r =>
      match best with
      | none => some r
      | some b => if rrRank n ptr r.req < rrRank n ptr b.req then some r else some b) (some b) = some g := by
    induction l generalizing b with
    | nil => exact ⟨b, List.mem_cons_self, rfl⟩
    | cons r l ih =>
      simp only [List.foldl_cons]
      split
      · obtain ⟨g, hg, he⟩ := ih r
        exact ⟨g, List.mem_cons_of_mem _ hg, he⟩
      · obtain ⟨g, hg, he⟩ := ih b
        exact ⟨g, by simp only [List.mem_cons] at hg ⊢; tauto, he⟩
  cases l with
  | nil => exact absurd rfl h
  | cons r l => exact hsome l r

/-- The highest effective priority of a list, or `b` where that is higher, is reached and not passed. -/
theorem foldl_max_effPriority (l : List ArbReq) (b : Nat) {top : Nat} (ht : l.foldl (fun m r => Nat.max m (effPriority r)) b = top) :
    b ≤ top ∧ (∀ r ∈ l, effPriority r ≤ top) ∧ (top = b ∨ ∃ r ∈ l, effPriority r = top) := by
  induction l generalizing b with
  | nil => exact ⟨ht.le, nofun, .inl ht.symm⟩
  | cons q l ih =>
    obtain ⟨hb, hl, htop⟩ := ih _ ht
    refine ⟨(Nat.le_max_left ..).trans hb, List.forall_mem_cons.2 ⟨(Nat.le_max_right ..).trans hb, hl⟩, ?_⟩
    rcases htop with htop | ⟨r, hr, htop⟩
    · rcases Nat.le_total b (effPriority q) with hle | hle
      · exact .inr ⟨q, List.mem_cons_self, (htop.trans (Nat.max_eq_right hle)).symm⟩
      · exact .inl (htop.trans (Nat.max_eq_left hle))
    · exact .inr ⟨r, List.mem_cons_of_mem _ hr, htop⟩

/-- A large arbiter picks one of the requests, of the highest effective priority. -/
theorem arbPick_large (hk : arbLarge kind = true) (hl : l ≠ []) :
    ∃ g ∈ l, arbPick kind ptr l = some g ∧ ∀ r ∈ l, effPriority r ≤ effPriority g := by
  simp only [arbPick, hk, if_true]
  generalize htop : l.foldl (fun m r => Nat.max m (effPriority r)) 0 = top
  obtain ⟨-, hle, hreach⟩ := foldl_max_effPriority l 0 htop
  have hone : ∃ r ∈ l, effPriority r = top := by
    rcases hreach with rfl | hreach
    · obtain ⟨r, hr⟩ := List.exists_mem_of_ne_nil l hl
      exact ⟨r, hr, Nat.le_zero.1 (hle r hr)⟩
    · exact hreach
  obtain ⟨r, hr, hrt⟩ := hone
  have hne : l.filter (fun r => effPriority r == top) ≠ [] := List.ne_nil_of_mem (List.mem_filter.2 ⟨hr, beq_iff_eq.2 hrt⟩)
  obtain ⟨g, hg, hpick⟩ := rrFirst_mem (arbRequesters kind) ptr hne
  obtain ⟨hgl, hgt⟩ := List.mem_filter.1 hg
  exact ⟨g, hgl, hpick, fun r hr => (beq_iff_eq.1 hgt) ▸ hle r hr⟩

/-- A small arbiter picks one of the requests, an urgent one where there is any. -/
theorem arbPick_small (hk : arbLarge kind = false) (hl : l ≠ []) :
    ∃ g ∈ l, arbPick kind ptr l = some g ∧ ((∃ r ∈ l, r.cls = .urgent) → g.cls = .urgent) := by
  simp only [arbPick, hk, Bool.false_eq_true, if_false]
  split
  · next hnone =>
    obtain ⟨g, hg, hpick⟩ := rrFirst_mem (arbRequesters kind) ptr hl
    refine ⟨g, hg, hpick, fun ⟨r, hr, hu⟩ => ?_⟩
    exact absurd (beq_iff_eq.2 hu) (List.filter_eq_nil_iff.1 (List.isEmpty_iff.1 hnone) r hr)
  · next hsome =>
    obtain ⟨g, hg, hpick⟩ := rrFirst_mem (arbRequesters kind) ptr (mt List.isEmpty_iff.2 hsome)
    obtain ⟨hgl, hgu⟩ := List.mem_filter.1 hg
    exact ⟨g, hgl, hpick, fun _ => beq_iff_eq.1 hgu⟩

/-- An arbiter picks one of the requests that compete: of the highest effective priority at a large one, an urgent one where there is
any at a small one. -/
theorem arbPick_spec (kind ptr : Nat) (hl : l ≠ []) : ∃ g ∈ l, arbPick kind ptr l = some g ∧
    (arbLarge kind = true → ∀ r ∈ l, effPriority r ≤ effPriority g) ∧
    (arbLarge kind = false → (∃ r ∈ l, r.cls = .urgent) → g.cls = .urgent) := by
  cases hk : arbLarge kind with
  | true =>
    obtain ⟨g, hg, hpick, htop⟩ := arbPick_large (ptr := ptr) hk hl
    exact ⟨g, hg, hpick, fun _ => htop, nofun⟩
  | false =>
    obtain ⟨g, hg, hpick, hurgent⟩ := arbPick_small (ptr := ptr) hk hl
    exact ⟨g, hg, hpick, nofun, fun _ => hurgent⟩

theorem arbPick_nil (kind ptr : Nat) : arbPick kind ptr [] = none := by
  unfold arbPick
  split <;> rfl

/-! The requests that stand, and those that a grant leaves. -/

/-- A request that stands at an arbiter is one of its requests. -/
theorem mem_of_mem_standing {x : Arb} {r : ArbReq} (h : r ∈ standing x) : r ∈ x.reqs := by
  refine List.foldlRecOn (motive := fun acc => ∀ q ∈ acc, q ∈ x.reqs) x.reqs _ (fun _ h => (List.not_mem_nil h).elim)
    (fun acc hacc q hq => ?_) r h
  split
  · exact hacc
  · exact fun p hp => (List.mem_append.1 hp).elim (hacc p) fun h => List.mem_singleton.1 h ▸ hq

theorem dropReq_length {q : Nat} (h : ∃ r ∈ l, r.req = q) : (dropReq l q).length + 1 = l.length := by
  induction l with
  | nil => simp at h
  | cons r l ih =>
    simp only [dropReq]
    split
    · rfl
    · next hr => simp [ih (by simpa [hr] using h)]

@[simp] theorem ageReqs_length (lost l : List ArbReq) (seen : List Nat) : (ageReqs lost l seen).length = l.length := by
  induction l generalizing seen with
  | nil => rfl
  | cons r l ih => simp [ageReqs, ih]

/-! One slot (R176–R181). -/

/-- An arbiter once the requests of a slot have arrived, and those that compete in it. -/
def arrived (s : State) (a : ArbId) (arrivals : List Arrival) : Arb :=
  { getArb s a with reqs := (getArb s a).reqs ++ arrivals.flatMap (arrivalReqs s a) }
def competing (s : State) (a : ArbId) (x : Arb) : List ArbReq := (standing x).filter fun r => !reqMasked s a x r

/-- A request that competes stands, and neither the sideband nor its spent quota masks it. -/
theorem competing_unmasked {x : Arb} (h : g ∈ competing s a x) : g ∈ x.reqs ∧ g.req ∉ x.masked ∧ reqAsleep s a g.req = false ∧
    (g.cls = .urgent → smGet 0 x.urgent g.req < quotaOf s a g.req) := by
  obtain ⟨hg, hfree⟩ := List.mem_filter.1 h
  simp only [reqMasked, Bool.not_eq_true', Bool.or_eq_false_iff, Bool.and_eq_false_imp, beq_iff_eq, decide_eq_false_iff_not,
    not_le, List.contains_eq_mem] at hfree
  obtain ⟨⟨hmask, hawake⟩, hquota⟩ := hfree
  exact ⟨mem_of_mem_standing hg, hmask, hawake, hquota⟩

/-- An arbiter after the grant of a request. -/
def granted (s : State) (a : ArbId) (x : Arb) (g : ArbReq) : Arb :=
  { x with
    reqs := if arbLarge a.kind.val then ageReqs ((competing s a x).filter fun r => r.req != g.req) (dropReq x.reqs g.req) []
      else dropReq x.reqs g.req
    ptr := (g.req + 1) % arbRequesters a.kind.val
    last := some g.req
    urgent := if g.cls = .urgent then smUpd 0 x.urgent g.req (· + 1) else x.urgent }

theorem granted_reqs_length {x : Arb} (h : g ∈ competing s a x) : (granted s a x g).reqs.length + 1 = x.reqs.length := by
  obtain ⟨hg, -⟩ := competing_unmasked h
  have hdrop := dropReq_length (q := g.req) ⟨g, hg, rfl⟩
  unfold granted
  dsimp only
  split
  · rwa [ageReqs_length]
  · exact hdrop

/-- A slot grants what the arbiter picks among the requests that compete. -/
theorem arbSlot_eq (s : State) (a : ArbId) (arrivals : List Arrival) : arbSlot s a arrivals =
    match arbPick a.kind.val (arrived s a arrivals).ptr (competing s a (arrived s a arrivals)) with
    | none => { arrived s a arrivals with last := none }
    | some g => granted s a (arrived s a arrivals) g := rfl

theorem arbSlot_idle {arrivals : List Arrival} (h : competing s a (arrived s a arrivals) = []) :
    arbSlot s a arrivals = { arrived s a arrivals with last := none } := by
  rw [arbSlot_eq, h, arbPick_nil]

theorem arbSlot_granted {arrivals : List Arrival}
    (h : arbPick a.kind.val (arrived s a arrivals).ptr (competing s a (arrived s a arrivals)) = some g) :
    arbSlot s a arrivals = granted s a (arrived s a arrivals) g := by
  rw [arbSlot_eq, h]

/-- A requester that the sideband masks is not granted. -/
theorem arbSlot_last_ne {req : Nat} (h : req ∈ (getArb s a).masked) (arrivals : List Arrival) :
    (arbSlot s a arrivals).last ≠ some req := by
  by_cases hpool : competing s a (arrived s a arrivals) = []
  · rw [arbSlot_idle hpool]
    nofun
  · obtain ⟨g, hg, hpick, -⟩ := arbPick_spec a.kind.val (arrived s a arrivals).ptr hpool
    rw [arbSlot_granted hpick]
    obtain ⟨-, hmask, -⟩ := competing_unmasked hg
    rintro he
    exact hmask (Option.some.inj he ▸ h)

/-! The sideband (R181). -/

/-- An arbiter with a mask is put and read back in every table. -/
theorem getArb_setArb {y : Arb} {req : Nat} (h : req ∈ y.masked) : getArb (setArb s a y) a = y := by
  have hne : y ≠ Arb.init := by
    rintro rfl
    cases h
  exact (smGet_smSet_ne _ _ _ hne).trans (if_pos rfl)

/-- The conditions under which a requester's sideband masks it: its island is in reset, or it enters deep-sleep with no request
parked, or by the disconnection at the reset level. -/
def Masks (x : Arb) (req : Nat) (cond : MaskCond) : Prop :=
  cond = .inReset ∨ cond = .resetLevelSleep ∨ cond = .deepSleep ∧ ∀ r ∈ x.reqs, r.req ≠ req

theorem arbMask_masks {x : Arb} {req : Nat} {cond : MaskCond} (h : Masks x req cond) : req ∈ (arbMask a x req cond).masked := by
  have hon : req ∈ (if x.masked.contains req then x.masked else x.masked ++ [req]) := by
    split
    · next hin => exact List.contains_iff_mem.1 hin
    · simp
  rcases h with rfl | rfl | ⟨rfl, hnone⟩
  · exact hon
  · exact hon
  · have hany : (x.reqs.any fun r => r.req == req) = false := by simpa using hnone
    simp only [arbMask, hany]
    exact hon

/-- A requester with a request parked does not enter deep-sleep. -/
theorem arbMask_parked {x : Arb} {req : Nat} (h : ∃ r ∈ x.reqs, r.req = req) : arbMask a x req .deepSleep = x := by
  have hany : (x.reqs.any fun r => r.req == req) = true := by simpa using h
  simp [arbMask, hany]

/-- Settles O22: the parts of a transfer in its granules; the pick of a slot among the requests that compete; and a mask, which takes
its requester out of every later slot. -/
theorem arbiterGrantsByPriority : Obligations.ArbiterGrantsByPriority := by
  refine ⟨fun addr n hn => ⟨fun p hp => hbmRequests_bounds hn hp, fun b ha hb => hbmRequests_cover ha hb⟩, ?slot,
    fun s a x hx => ?window, fun s a req cond hcond => ?mask, fun s a x req hx => ?sideband⟩
  case slot =>
    rintro s a arrivals _ _ rfl rfl
    refine ⟨arbSlot s a arrivals, rfl, ?_⟩
    change _ = (arrived s a arrivals).masked ∧ (competing s a (arrived s a arrivals) = [] → _) ∧
      (competing s a (arrived s a arrivals) ≠ [] → _)
    by_cases hpool : competing s a (arrived s a arrivals) = []
    · rw [arbSlot_idle hpool]
      exact ⟨rfl, fun _ => ⟨rfl, rfl, rfl⟩, fun h => absurd hpool h⟩
    · obtain ⟨g, hg, hpick, hlarge, hsmall⟩ := arbPick_spec a.kind.val (arrived s a arrivals).ptr hpool
      obtain ⟨-, hmask, hawake, hquota⟩ := competing_unmasked hg
      rw [arbSlot_granted hpick]
      exact ⟨rfl, fun h => absurd h hpool,
        fun _ => ⟨g, hg, rfl, hmask, hawake, rfl, granted_reqs_length hg, hquota, hlarge, hsmall⟩⟩
  case window =>
    subst hx
    rfl
  case mask =>
    have hin := arbMask_masks (a := a) hcond
    refine ⟨_, rfl, hin, fun arrivals => arbSlot_last_ne ?_ arrivals⟩
    rwa [getArb_setArb hin]
  case sideband =>
    subst hx
    exact ⟨rfl, fun h => congrArg (fun y => Host.Outcome.next (setArb s a y)) (arbMask_parked h), rfl⟩

end Sys2Proof.Machine
end

section
/-! Sample intake (R199–R202): a manifest at the head of a stream's submissions, and the samples that its window admits and its
engines take. -/
namespace Sys2Proof.Machine
open Sys2Proof Sys2Proof.Safety

variable {s : State}

/-! The streams' table (R200): sending and the log leave it; of what an abort cause does, only the discard of the intake changes it. -/

@[simp] theorem sendTxn_streams (s : State) (rail : Nat) (x : Txn) (why : SentFor) : (sendTxn s rail x why).1.streams = s.streams := by
  unfold sendTxn
  split
  · rfl
  · split
    · exact ((raise_streams ..).trans (raise_streams ..)).trans rfl
    · rfl

@[simp] theorem sendCctlAll_streams (s : State) (kind cause : Nat) (step : W64) (tag : W32) (data : Nat) (dsts : List Nat) :
    (sendCctlAll s kind cause step tag data dsts).1.streams = s.streams :=
  List.foldlRecOn (motive := fun a : State × Bool => a.1.streams = s.streams) dsts _ rfl fun _ ha _ _ => (sendTxn_streams ..).trans ha

@[simp] theorem sendLogCopy_streams (s : State) (r : LogRec) : (sendLogCopy s r).streams = s.streams := by
  unfold sendLogCopy
  split
  · rfl
  · exact List.foldlRecOn (motive := fun a : State × Bool => a.1.streams = s.streams) _ _ rfl
      fun _ ha _ _ => (sendTxn_streams ..).trans ha

@[simp] theorem loseCover_streams (s : State) (seq : W64) (i : Nat) : (loseCover s seq i).streams = s.streams := by
  unfold loseCover
  dsimp only
  split
  · exact raise_streams ..
  · rfl

@[simp] theorem loseReplay_streams (s : State) (seq : W64) : (loseReplay s seq).streams = s.streams := by
  unfold loseReplay
  split
  · split <;> rfl
  · rfl

@[simp] theorem logEvict_streams (n : Nat) (s : State) (need : Nat) : (logEvict n s need).streams = s.streams := by
  induction n generalizing s with
  | zero => rfl
  | succ n ih =>
    unfold logEvict
    split
    · rfl
    · split
      · rfl
      · simp [ih]

@[simp] theorem logAppend_streams (s : State) (type : Nat) (step : W64) (body : Bytes) :
    (logAppend s type step body).streams = s.streams := by
  unfold logAppend
  extract_lets seq prev r s1
  exact (sendLogCopy_streams ..).trans (logEvict_streams ..)

@[simp] theorem enterState_streams (s : State) (x : StepState) : (enterState s x).streams = s.streams := by
  unfold enterState
  split <;> rfl

@[simp] theorem endAbandon_streams (s : State) (l : Lock) : (endAbandon s l).streams = s.streams := by
  simp [endAbandon]

@[simp] theorem lockCause_streams (s : State) : (lockCause s).streams = s.streams := by
  unfold lockCause
  split
  · rfl
  · split
    · rfl
    · split
      · split
        · rfl
        · exact (endAbandon_streams ..).trans (sendCctlAll_streams ..)
      · split
        · rfl
        · exact sendTxn_streams ..

@[simp] theorem floodAbort_streams (s : State) (cause : Nat) (step : W64) (tag : W32) (f : Option Nat) :
    (floodAbort s cause step tag f).streams = s.streams := by
  unfold floodAbort
  split
  · rfl
  · exact sendCctlAll_streams ..

theorem canonical_streams (hs : canonical s) : smWf Stream.init s.streams = true := by
  obtain ⟨_, _, _, _, _, _, h, _⟩ := hs
  exact h

/-- A stream that is not as it started is put and read back in every table. -/
theorem getStream_setStream {k : Nat} {y : Stream} (h : y ≠ Stream.init) : getStream (setStream s k y) k = y :=
  (smGet_smSet_ne _ _ _ h).trans (if_pos rfl)

theorem getStream_congr {t : State} (h : t.streams = s.streams) (k : Nat) : getStream t k = getStream s k :=
  congrArg (smGet Stream.init · k) h

/-- A read of a canonical map whose values are changed in place, where the change keeps the default. -/
theorem smGet_map_filter {α : Type} [DecidableEq α] {d : α} {m : SMap α} {f : Nat × α → α} {k : Nat} (hd : f (k, d) = d)
    (h : smWf d m = true) :
    smGet d ((m.map fun p => (p.1, f p)).filter fun p => decide (p.2 ≠ d)) k = f (k, smGet d m k) := by
  induction m with
  | nil => exact hd.symm
  | cons q m ih =>
    obtain ⟨j, v⟩ := q
    obtain ⟨hr, hv⟩ := (smWf_iff ..).1 h
    obtain ⟨hlt, hr⟩ := List.pairwise_cons.1 hr
    have ih := ih ((smWf_iff ..).2 ⟨hr, fun p hp => hv p (List.mem_cons_of_mem _ hp)⟩)
    rw [List.map_cons, List.filter_cons]
    by_cases hj : j = k
    · subst hj
      rw [smGet_absent d m j fun p hp => Nat.ne_of_gt (hlt p hp), hd] at ih
      split
      · simp [smGet]
      · next hf =>
        have hf : f (j, v) = d := by simpa using hf
        rw [ih, smGet, if_pos rfl, hf]
    · split <;> simpa only [smGet, if_neg hj] using ih

theorem getStream_discardIntake (hs : smWf Stream.init s.streams = true) (k : Nat) :
    getStream (discardIntake s) k = dropSamples (isEvalStream s k) (getStream s k) :=
  smGet_map_filter (f := fun p => dropSamples (isEvalStream s p.1) p.2) (by cases isEvalStream s k <;> rfl) hs

@[simp] theorem dropSamples_invalid (eval : Bool) (x : Stream) : (dropSamples eval x).invalid = x.invalid := by
  cases eval <;> rfl

theorem getStream_enterAbort (hs : smWf Stream.init s.streams = true) (a : Attempt) (cause : BitVec 12) (k : Nat) :
    ∃ eval, getStream (enterAbort s a cause) k = dropSamples eval (getStream s k) := by
  unfold enterAbort
  extract_lets _ s1
  generalize hu : floodAbort s1 cause.toNat a.step a.tag none = u
  have hstr : u.streams = s.streams := hu ▸ floodAbort_streams ..
  have hdrop := getStream_discardIntake (s := discardQueues u) (hstr ▸ hs) k
  exact ⟨_, (getStream_congr (enterState_streams ..) k).trans (hdrop.trans (congrArg _ (getStream_congr hstr k)))⟩

/-- An abort cause leaves the mark of a stream's invalid manifest. -/
theorem startAbort_invalid (hs : smWf Stream.init s.streams = true) (cause : BitVec 12) (k : Nat) :
    (getStream (startAbort s cause) k).invalid = (getStream s k).invalid := by
  unfold startAbort
  split
  · rw [getStream_congr (lockCause_streams s)]
  · next a _ =>
    split
    · rfl
    · split
      · rfl
      · split
        · rfl
        · obtain ⟨eval, hdrop⟩ := getStream_enterAbort hs a cause k
          rw [hdrop, dropSamples_invalid]

/-! Writes of a unit that no bank admits (R222). -/

variable {src : Nat} {l : List (Nat × Bytes)}

/-- The writes that touch no bank. -/
def offBanks (s : State) (l : List (Nat × Bytes)) : List (Nat × Bytes) := l.filter fun w => !touchesAnyBank s w.1 w.2.length

theorem wrUnit_eq (s : State) (src : Nat) (l : List (Nat × Bytes)) : wrUnit s src l =
    if l.any fun w => touchesAnyBank s w.1 w.2.length then raise (writeAll s (offBanks s l)) 0x4107 src []
    else writeAll s (offBanks s l) := rfl

theorem wrUnit_mem : (wrUnit s src l).mem = (writeAll s (offBanks s l)).mem := by
  rw [wrUnit_eq]
  split
  · exact raise_mem ..
  · rfl

@[simp] theorem wrUnit_streams : (wrUnit s src l).streams = s.streams := by
  have hall : (writeAll s (offBanks s l)).streams = s.streams := by rw [writeAll_frame]
  rw [wrUnit_eq]
  split
  · exact (raise_streams ..).trans hall
  · exact hall

theorem wrUnit_sameOutside (hs : Memory.wf s.mem = true) : sameOutside s (wrUnit s src l) (l.map writeRange) :=
  ((writeAll_sameOutside hs (offBanks s l)).2.mono (List.map_subset writeRange (List.filter_subset_self l))).congr rfl wrUnit_mem

/-- A single write that touches no bank reads back. -/
theorem rdMem_wrUnit_single (hs : Memory.wf s.mem = true) {a : Nat} {bs : Bytes} (hb : touchesAnyBank s a bs.length = false) :
    rdMem (wrUnit s src [(a, bs)]) a bs.length = bs := by
  have hoff : offBanks s [(a, bs)] = [(a, bs)] := by simp [offBanks, hb]
  rw [rdMem, wrUnit_mem, hoff]
  exact rdMem_wrMem s a bs hs

/-! The validation of a manifest (R199, R200). -/

variable {die st addr p : Nat} {pass : Option Nat} {rest : List (Nat × Option Nat)}

/-- The manifest at an address, with the next number of a stream. -/
def manifestAt (s : State) (addr num : Nat) : Man :=
  { num := num, hdr := manHeader s addr, ents := manEntries s addr (manHeader s addr), digest := manDigest s addr (manHeader s addr),
    next := 0, released := 0 }

/-- A stream whose queue a manifest has joined. -/
def joinedBy (x : Stream) (rest : List (Nat × Option Nat)) (m : Man) : Stream :=
  { x with subs := rest, queue := x.queue ++ [m], nextNum := x.nextNum + 1, invalid := false, mdigest := m.digest }

/-- The state with the manifest in its stream's queue. -/
def manifestJoined (s : State) (die st addr : Nat) (rest : List (Nat × Option Nat)) : State :=
  let x := getStream s (streamIdx die st)
  setStream s (streamIdx die st) (joinedBy x rest (manifestAt s addr x.nextNum))

/-- The state with the manifest queued and its concealed-bit array zeroed. -/
def manifestQueued (s : State) (die st addr : Nat) (rest : List (Nat × Option Nat)) : State :=
  wrUnit (manifestJoined s die st addr rest) (srcStream die st)
    [(mhConc (manHeader s addr), zeroBytes (ceilDiv (mhCount (manHeader s addr)) 8))]

/-- The state with the manifest taken out and its stream marked, the event raised. -/
def manifestRejected (s : State) (die st : Nat) (rest : List (Nat × Option Nat)) : State :=
  let k := streamIdx die st
  raise (setStream s k { getStream s k with subs := rest, invalid := true }) 0x3001 (srcStream die st) []

/-- A manifest of an attempt that is accepted is queued; the attempt's log of manifests is all that changes besides. -/
theorem acceptManifest_frame : ∃ stp,
    acceptManifest s die st addr rest (some p) = { manifestQueued s die st addr rest with stp := stp } := by
  unfold acceptManifest
  dsimp only
  split
  · exact ⟨_, rfl⟩
  · next h => exact nomatch h
  · exact ⟨_, rfl⟩

theorem validateManifest_held (hx : (getStream s (streamIdx die st)).subs = (addr, pass) :: rest) (hk : anyStackHolds s = true) :
    validateManifest s die st = s := by
  simp [validateManifest, hx, hk]

section
variable (hx : (getStream s (streamIdx die st)).subs = (addr, some p) :: rest) (hr : s.stp.state ≠ .suspended)
  (hq : (getStream s (streamIdx die st)).queue.length < 4) (hk : anyStackHolds s = false)
include hx hr hq hk

theorem validateManifest_accepts (hrep : replayRec s = none) (hok : manifestOk s addr die st (some p) = true) :
    validateManifest s die st = acceptManifest s die st addr rest (some p) := by
  simp [validateManifest, hx, hk, suspended, hr, Nat.not_le.2 hq, replayManOk, hrep, hok]

theorem validateManifest_rejects (hbad : manifestOk s addr die st (some p) = false) :
    validateManifest s die st = startAbort (manifestRejected s die st rest) cManifest := by
  simp [validateManifest, manifestRejected, hx, hk, suspended, hr, Nat.not_le.2 hq, hbad]

end

theorem getStream_manifestQueued : getStream (manifestQueued s die st addr rest) (streamIdx die st) =
    joinedBy (getStream s (streamIdx die st)) rest (manifestAt s addr (getStream s (streamIdx die st)).nextNum) := by
  rw [manifestQueued, getStream_congr wrUnit_streams, manifestJoined, getStream_setStream]
  intro h
  simpa [joinedBy, Stream.init] using congrArg Stream.queue h

theorem manifestQueued_sameOutside (hs : Memory.wf s.mem = true) : sameOutside s (manifestQueued s die st addr rest)
    [(mhConc (manHeader s addr), ceilDiv (mhCount (manHeader s addr)) 8)] := by
  rw [← zeroBytes_length (ceilDiv (mhCount (manHeader s addr)) 8)]
  exact wrUnit_sameOutside (s := manifestJoined s die st addr rest) (l := [(_, _)]) hs

theorem rdMem_manifestQueued (hs : Memory.wf s.mem = true)
    (hb : touchesAnyBank s (mhConc (manHeader s addr)) (ceilDiv (mhCount (manHeader s addr)) 8) = false) :
    rdMem (manifestQueued s die st addr rest) (mhConc (manHeader s addr)) (ceilDiv (mhCount (manHeader s addr)) 8) =
      zeroBytes (ceilDiv (mhCount (manHeader s addr)) 8) := by
  have hread := rdMem_wrUnit_single (s := manifestJoined s die st addr rest) (src := srcStream die st) hs
    (a := mhConc (manHeader s addr)) (bs := zeroBytes (ceilDiv (mhCount (manHeader s addr)) 8)) (by rwa [zeroBytes_length])
  rwa [zeroBytes_length] at hread

theorem manifestRejected_streams : (manifestRejected s die st rest).streams =
    smSet Stream.init s.streams (streamIdx die st) { getStream s (streamIdx die st) with subs := rest, invalid := true } :=
  raise_streams ..

theorem manifestRejected_invalid : (getStream (manifestRejected s die st rest) (streamIdx die st)).invalid = true := by
  rw [manifestRejected, getStream_congr (raise_streams ..), getStream_setStream]
  intro h
  cases congrArg Stream.invalid h

/-- Settles O25: an accepted manifest is queued, its only write the zeros of its concealed-bit array; a rejected one marks its stream
and is an abort cause, which neither writes memory nor clears the mark. -/
theorem manifestQueuedOrInvalid : Obligations.ManifestQueuedOrInvalid := by
  rintro s die st _ addr p _ rest _ rfl hx hr hq hrep rfl rfl hs
  have hexec : exec (.manifestValidation die st) s = .next (validateManifest s die.val st.val) := rfl
  refine ⟨fun hk => ?held, fun hk => ⟨fun hok => ?accepted, fun hbad => ?rejected⟩⟩
  case held => rw [hexec, validateManifest_held hx hk]
  case accepted =>
    obtain ⟨stp, hframe⟩ := acceptManifest_frame (s := s) (die := die) (st := st) (addr := addr) (p := p) (rest := rest)
    rw [validateManifest_accepts hx hr hq hk hrep hok, hframe] at hexec
    refine ⟨_, hexec, ?_⟩
    change (getStream (manifestQueued s die st addr rest) _).subs = _ ∧ (getStream (manifestQueued s die st addr rest) _).queue = _ ∧ _
    rw [getStream_manifestQueued]
    exact ⟨rfl, rfl, rdMem_manifestQueued (canonical_mem hs), manifestQueued_sameOutside (canonical_mem hs)⟩
  case rejected =>
    rw [validateManifest_rejects hx hr hq hk hbad] at hexec
    have hstp : (manifestRejected s die st rest).stp = s.stp := raise_stp ..
    have hwf : smWf Stream.init (manifestRejected s die st rest).streams = true := by
      rw [manifestRejected_streams]
      exact smSet_wf _ _ (canonical_streams hs)
    refine ⟨_, hexec, (startAbort_invalid hwf _ _).trans manifestRejected_invalid,
      (startAbort_keepsCommitted ..).mem.trans (raise_mem ..), fun a ha hp => startAbort_aborts ?_ hp ?_ _⟩
    · rw [hstp, ha]
    · rwa [hstp]

/-! The window and the engines (R201, R202). -/

/-- Manifests without entries left are passed over. -/
theorem takeEntry_append {q ms : List Man} {m : Man} (hq : ∀ y ∈ q, y.ents.length ≤ y.next) (hm : m.next < m.ents.length) :
    takeEntry (q ++ m :: ms) =
      some (Sample.mk m.num m.next (m.ents.getD m.next []) .waiting, q ++ { m with next := m.next + 1 } :: ms) := by
  induction q with
  | nil => simp [takeEntry, hm]
  | cons y q ih =>
    obtain ⟨hy, hq⟩ := List.forall_mem_cons.1 hq
    rw [List.cons_append, takeEntry, if_neg (Nat.not_lt.2 hy), ih hq]
    rfl

theorem admitSample_full (h : 64 ≤ (getStream s (streamIdx die st)).window.length) : admitSample s die st = s := by
  simp [admitSample, h]

theorem admitSample_room {m : Sample} {q : List Man} (hr : s.stp.state ≠ .suspended)
    (hw : (getStream s (streamIdx die st)).window.length < 64) (hq : takeEntry (getStream s (streamIdx die st)).queue = some (m, q)) :
    admitSample s die st = setStream s (streamIdx die st)
      { getStream s (streamIdx die st) with queue := q, window := (getStream s (streamIdx die st)).window ++ [m] } := by
  simp [admitSample, suspended, hr, Nat.not_le.2 hw, hq]

/-- The order of the streams from a pointer, up to the first that satisfies a condition. -/
theorem find?_rotated {f : Nat → Bool} {ptr n : Nat} (hn : n < 8) (hj : ∀ j < n, f ((ptr + j) % 8) = false)
    (hf : f ((ptr + n) % 8) = true) : ((List.range 8).map fun i => (ptr + i) % 8).find? f = some ((ptr + n) % 8) := by
  have hfind : (List.range 8).find? (f ∘ fun i => (ptr + i) % 8) = some n :=
    List.find?_range_eq_some.2 ⟨hf, List.mem_range.2 hn, fun j hlt => by simp [hj j hlt]⟩
  rw [List.find?_map, hfind]
  rfl

/-- The state in which an engine has taken a sample of a stream. -/
def engineTook (s : State) (die : Nat) (k : EngineKind) (e i : Nat) (m : Sample) : State :=
  let x := getStream s (streamIdx die i)
  let sl := getSlip s die
  setSlip (setStream s (streamIdx die i) { x with window := markSample x.window m.man m.idx .decoding }) die
    { sl with busy := smSet none sl.busy (engineKey k e) (some { stream := i, man := m.man, idx := m.idx }),
              ptr := smSet 0 sl.ptr (engineKey k e) ((i + 1) % 8) }

theorem grantEngine_takes {k : EngineKind} {e ptr n : Nat} {m : Sample} (hr : s.stp.state ≠ .suspended)
    (hrun : computeStopped s (islandId 4 die 0) = false) (hfree : smGet none (getSlip s die).busy (engineKey k e) = none)
    (hup : e < enginesUp s die (kindIndex k)) (hptr : smGet 0 (getSlip s die).ptr (engineKey k e) = ptr) (hn : n < 8)
    (hnone : ∀ j < n, firstWaiting s k (getStream s (streamIdx die ((ptr + j) % 8))).window = none)
    (hm : firstWaiting s k (getStream s (streamIdx die ((ptr + n) % 8))).window = some m) :
    grantEngine s die k e = engineTook s die k e ((ptr + n) % 8) m := by
  have hfind := find?_rotated (f := fun i => (firstWaiting s k (getStream s (streamIdx die i)).window).isSome) (ptr := ptr) hn
    (fun j hlt => by simp [hnone j hlt]) (by simp [hm])
  simp [grantEngine, suspended, hr, hrun, hfree, Nat.not_le.2 hup, hptr, hfind, hm, engineTook]

theorem getSlip_engineTook (k : EngineKind) (e i : Nat) (m : Sample) : getSlip (engineTook s die k e i m) die =
    { getSlip s die with
      busy := smSet none (getSlip s die).busy (engineKey k e) (some { stream := i, man := m.man, idx := m.idx }),
      ptr := smSet 0 (getSlip s die).ptr (engineKey k e) ((i + 1) % 8) } := by
  refine (smGet_smSet_ne _ _ _ fun h => ?_).trans (if_pos rfl)
  have hget := congrArg (fun x : Slipway => smGet none x.busy (engineKey k e)) h
  rw [smGet_smSet_ne _ _ _ (Option.some_ne_none _), if_pos rfl] at hget
  cases hget

/-- A window with a sample in it keeps its stream apart from one as it started. -/
theorem getStream_engineTook {i : Nat} {m : Sample} (k : EngineKind) (e : Nat) (hw : (getStream s (streamIdx die i)).window ≠ []) :
    (getStream (engineTook s die k e i m) (streamIdx die i)).window =
      markSample (getStream s (streamIdx die i)).window m.man m.idx .decoding := by
  refine congrArg Stream.window (getStream_setStream fun h => hw ?_)
  exact List.map_eq_nil_iff.1 (congrArg Stream.window h)

/-- Settles O26: the window takes the next entry of the first manifest that has any left; the first stream from the pointer with a
waiting sample of the engine's kind gives it up. -/
theorem samplesAdmittedAndGranted : Obligations.SamplesAdmittedAndGranted := by
  refine ⟨?admitted, ?granted⟩
  case admitted =>
    rintro s die st _ q m ms rfl hr hq hdone hm
    have hexec : exec (.sampleAdmit die st) s = .next (admitSample s die.val st.val) := rfl
    refine ⟨fun hw => ?_, fun hw => by rw [hexec, admitSample_full hw]⟩
    rw [hexec, admitSample_room hr hw (hq ▸ takeEntry_append hdone hm)]
  case granted =>
    rintro s die k e _ ptr n m rfl hr hrun hfree hup hptr hn hnone hm
    have hexec : exec (.engineGrant die k e) s = .next (grantEngine s die.val k e.val) := rfl
    rw [grantEngine_takes hr hrun hfree hup hptr hn hnone hm] at hexec
    refine ⟨_, hexec, getSlip_engineTook .., getStream_engineTook k e.val fun hw => ?_, rfl, rfl⟩
    rw [hw] at hm
    cases hm

end Sys2Proof.Machine
end

section
/-! The state right after reset (R251, R364, R403, R404, R414, R421, R434, R462, R463). -/
namespace Sys2Proof.Machine
open Sys2Proof Sys2Proof.Safety

theorem reset_legal : legalFields State.reset :=
  ⟨fun _ h => (List.not_mem_nil h).elim, by decide, by decide, by decide, fun _ h => (List.not_mem_nil h).elim⟩

theorem reset_canonical : canonical State.reset := by
  obtain ⟨hmem, ha, hb, h0, h1⟩ := Memory.wf_reset
  exact ⟨hmem, ha, hb, h0, h1, smWf_nil _, smWf_nil _, smWf_nil _, smWf_nil _, smWf_nil _, smWf_nil _, smWf_nil _, smWf_nil _, smWf_nil _⟩

/-- Settles O3: the reset state lists nothing in its memories and tables, and each part holds its reset value. -/
theorem resetHoldsSpecValues : Obligations.ResetHoldsSpecValues :=
  ⟨⟨reset_legal, reset_canonical⟩, rfl, rfl, rfl, rfl, rfl, rfl, rfl, rfl, rfl, rfl, rfl, rfl, fun _ => rfl,
    fun _ => ⟨rfl, rfl, rfl, rfl⟩⟩

end Sys2Proof.Machine
end

section
/-! What goes out of the device (R269, R298, R323–R326, R431): a message, a record of the log and an event change the fabric, the Hold
and where events are delivered. Nothing else of the state changes, and outside replay the device stays outside replay. -/
namespace Sys2Proof.Machine
open Sys2Proof Sys2Proof.Safety

variable {s t u : State}

/-- A state without what messages, records and events change. -/
def inner (s : State) : State :=
  { s with hostA := [], hostB := [], queues := [], fns := [], ports := [], bus := Bus.init,
           fab := { Fabric.init with homeId := s.fab.homeId, aliases := s.fab.aliases }, hold := Hold.init }

/-- `t` differs from `s` by what messages, records and events change. -/
structure Outward (s t : State) : Prop where
  same : inner t = inner s
  replay : s.hold.replay = none → t.hold.replay = none

namespace Outward

theorem refl (s : State) : Outward s s := ⟨rfl, id⟩

theorem trans (h : Outward s t) (k : Outward t u) : Outward s u := ⟨k.same.trans h.same, fun hr => k.replay (h.replay hr)⟩

/-- A change of these parts first. -/
theorem after (k : Outward t u) (hs : inner t = inner s) (hr : s.hold.replay = none → t.hold.replay = none) : Outward s u :=
  trans ⟨hs, hr⟩ k

/-- What does not depend on these parts is the same. -/
theorem keeps (h : Outward s t) {α : Type} (f : State → α) (hf : ∀ s, f (inner s) = f s) : f t = f s := by
  rw [← hf t, h.same, hf]

theorem mem (h : Outward s t) : t.mem = s.mem := h.keeps State.mem fun _ => rfl
theorem cores (h : Outward s t) : t.cores = s.cores := h.keeps State.cores fun _ => rfl
theorem par (h : Outward s t) : t.par = s.par := h.keeps State.par fun _ => rfl
theorem stp (h : Outward s t) : t.stp = s.stp := h.keeps State.stp fun _ => rfl
theorem lock (h : Outward s t) : t.lock = s.lock := h.keeps State.lock fun _ => rfl
theorem pln (h : Outward s t) : t.pln = s.pln := h.keeps State.pln fun _ => rfl
theorem ctl (h : Outward s t) : t.ctl = s.ctl := h.keeps State.ctl fun _ => rfl
theorem clk (h : Outward s t) : t.clk = s.clk := h.keeps State.clk fun _ => rfl
theorem pwr (h : Outward s t) : t.pwr = s.pwr := h.keeps State.pwr fun _ => rfl

theorem foldl {ι : Type} {g : State → ι → State} (hg : ∀ s i, Outward s (g s i)) (l : List ι) (s : State) :
    Outward s (l.foldl g s) :=
  List.foldlRecOn (motive := Outward s) l g (refl s) fun _ h i _ => h.trans (hg _ i)

theorem foldl_fst {ι κ : Type} {g : State × κ → ι → State × κ} (hg : ∀ a i, Outward a.1 (g a i).1) (l : List ι)
    (a : State × κ) : Outward a.1 (l.foldl g a).1 :=
  List.foldlRecOn (motive := fun b : State × κ => Outward a.1 b.1) l g (refl a.1) fun _ h i _ => h.trans (hg _ i)

end Outward

theorem eventsOnly_outward (h : eventsOnly s t) : Outward s t := by
  obtain ⟨_, _, _, _, _, _, rfl, _⟩ := h
  exact ⟨rfl, id⟩

theorem raise_outward (s : State) (code src : Nat) (p : Bytes) : Outward s (raise s code src p) := eventsOnly_outward (raise_frame ..)

theorem takeLanded_outward (s : State) (x : Txn) : Outward s (takeLanded s x) := ⟨rfl, id⟩

theorem sendTxn_outward (s : State) (rail : Nat) (x : Txn) (why : SentFor) : Outward s (sendTxn s rail x why).1 := by
  unfold sendTxn
  split
  · exact .refl s
  · split
    · exact ((raise_outward ..).trans (raise_outward ..)).after rfl id
    · exact ⟨rfl, id⟩

theorem sendCctl_outward (s : State) (kind cause : Nat) (step : W64) (tag : W32) (data dst : Nat) :
    Outward s (sendCctl s kind cause step tag data dst).1 := sendTxn_outward ..

theorem sendCctlAll_outward (s : State) (kind cause : Nat) (step : W64) (tag : W32) (data : Nat) (dsts : List Nat) :
    Outward s (sendCctlAll s kind cause step tag data dsts).1 :=
  .foldl_fst (by exact fun _ _ => sendCctl_outward ..) dsts (s, true)

theorem sendComplOn_outward (s : State) (rail : Nat) (x : Txn) (status : Nat) : Outward s (sendComplOn s rail x status) := by
  unfold sendComplOn sendAnswer
  split
  · exact .refl s
  · exact ⟨rfl, id⟩

theorem sendCompl_outward (s : State) (x : Txn) (status : Nat) : Outward s (sendCompl s x status) := sendComplOn_outward ..

theorem sendPuts_outward (s : State) (dst : Nat) (why : SentFor) (cls : Nat) (parts : List (Nat × Bytes)) :
    Outward s (sendPuts s dst why cls parts) :=
  .foldl_fst (by exact fun _ _ => sendTxn_outward ..) parts (s, true)

theorem sendLogCopy_outward (s : State) (r : LogRec) : Outward s (sendLogCopy s r) := by
  unfold sendLogCopy
  split
  · exact .refl s
  · exact sendPuts_outward ..

theorem loseCover_outward (s : State) (seq : W64) (i : Nat) : Outward s (loseCover s seq i) := by
  unfold loseCover
  dsimp only
  split
  · exact (raise_outward (setSlot s i _) ..).after rfl id
  · exact .refl s

theorem loseReplay_outward (s : State) (seq : W64) : Outward s (loseReplay s seq) := by
  unfold loseReplay
  split
  · next h =>
    split
    · exact ⟨rfl, fun hr => nomatch h.symm.trans hr⟩
    · exact .refl s
  · exact .refl s

theorem logEvict_outward (n : Nat) (s : State) (need : Nat) : Outward s (logEvict n s need) := by
  induction n generalizing s with
  | zero => exact .refl s
  | succ n ih =>
    unfold logEvict
    split
    · exact .refl s
    · split
      · exact .refl s
      · refine Outward.trans ?_ (ih _)
        exact (((loseReplay_outward ..).trans (loseCover_outward ..)).trans (loseCover_outward ..)).after rfl id

theorem bondProgram_outward (s : State) (n : Nat) : Outward s (bondProgram s n) := ⟨rfl, id⟩

theorem logAppend_outward (s : State) (type : Nat) (step : W64) (body : Bytes) : Outward s (logAppend s type step body) := by
  unfold logAppend
  extract_lets seq prev r s1
  have hevict : Outward s s1 := (logEvict_outward ..).trans (bondProgram_outward ..)
  clear_value s1
  exact hevict.trans ((sendLogCopy_outward ..).after rfl id)

theorem freeze_outward (s : State) (seq : W64) : Outward s (freeze s seq) := by
  unfold freeze
  dsimp only
  split <;> exact ⟨rfl, id⟩

end Sys2Proof.Machine
end

section
/-! The end of an attempt (R235, R238–R241) outside replay: its record, its entry and the state that the step machine goes to. -/
namespace Sys2Proof.Machine
open Sys2Proof Sys2Proof.Safety

variable {s : State} {a : Attempt} {verdict : Nat} {cause : BitVec 12} {tally : Bytes}

/-! States of the step machine (R217). -/

theorem enterState_eq {x : StepState} (h : s.stp.state ≠ .suspended) :
    enterState s x = { s with stp := { s.stp with state := x } } := if_neg h

/-- Where no suspension is, a pending STOP takes effect and is pending no more. -/
theorem settleState_eq {x : StepState} (h : s.stp.state ≠ .suspended) : settleState s x =
    { s with stp := { s.stp with state := if s.stp.stopPend then .stopped else x, stopPend := false } } := by
  unfold settleState
  cases hp : s.stp.stopPend with
  | true => exact enterState_eq h
  | false =>
    have hstp : { s.stp with stopPend := false, state := x } = { s.stp with state := x } := by rw [← hp]
    rw [if_neg Bool.false_ne_true, if_neg Bool.false_ne_true, enterState_eq h, hstp]

/-- The mirror of the control-island state is all that its writing changes. -/
theorem mirrored_eq (s : State) : ∃ m, mirrored s = { s with stp := { s.stp with mirror := m } } := by
  unfold mirrored
  split
  · exact ⟨_, rfl⟩
  · exact ⟨s.stp.mirror, rfl⟩

/-! The record and the log entry (R249, R325). -/

/-- Device memory with the statistics record of an ended attempt, at the plan's address. -/
def statsMem (s : State) (a : Attempt) (verdict : Nat) (cause : BitVec 12) : SMap Byte :=
  match curPlan s with
  | some p => wr s.mem p.policy.statsAddr (statsRecord s a verdict cause)
  | none => s.mem

/-- The state at the end of an attempt, before its log entry. -/
def closedState (s : State) (a : Attempt) (verdict : Nat) (cause : BitVec 12) (m : ControlCopy) : State :=
  { s with mem := statsMem s a verdict cause,
           stp := { s.stp with a := s.stp.a + 1, att := none, last := BitVec.ofNat 32 (verdict * 2 ^ 24 + cause.toNat),
                               ended := endedAtt a, mirror := m } }

theorem replayAfter_none (h : s.hold.replay = none) : replayAfter s a none = (s, false) := by
  unfold replayAfter
  rw [h]

/-- Outside replay an attempt ends with its record, and nothing is found to differ. -/
theorem closeAttempt_closes (hr : s.hold.replay = none) : ∃ m t,
    closeAttempt s a verdict cause tally = (t, false) ∧ Outward (closedState s a verdict cause m) t := by
  obtain ⟨m, hm⟩ := mirrored_eq { s with stp := { s.stp with
    a := s.stp.a + 1, att := none, last := BitVec.ofNat 32 (verdict * 2 ^ 24 + cause.toNat), ended := endedAtt a } }
  have hnone : replayMatch s a.step = none := by rw [replayMatch, hr]
  have hlog := logAppend_outward (closedState s a verdict cause m) 0x0001 a.step
    (attemptBody s a (statsRecord s a verdict cause) verdict false tally)
  have hrep : (logAppend (closedState s a verdict cause m) 0x0001 a.step
      (attemptBody s a (statsRecord s a verdict cause) verdict false tally)).hold.replay = none := hlog.replay hr
  have hclose : closeAttempt s a verdict cause tally = replayAfter (logAppend (closedState s a verdict cause m) 0x0001 a.step
      (attemptBody s a (statsRecord s a verdict cause) verdict false tally)) a none := by
    unfold closeAttempt closedState statsMem
    cases hp : curPlan s with
    | none => simp only [hnone, hm]; rfl
    | some p => simp only [hnone, hm]; rfl
  refine ⟨m, _, ?_, hlog⟩
  rw [hclose, replayAfter_none hrep]

end Sys2Proof.Machine
end

section
/-! Aborts (R241, R251, R270): an abort cause keeps what is committed, and a completed abort stops the device. -/
namespace Sys2Proof.Machine
open Sys2Proof Sys2Proof.Safety

variable {s : State} {a : Attempt}

/-- A flooded ABORT is a tag seen and the messages that tell it. -/
theorem floodAbort_outward (s : State) (cause : Nat) (step : W64) (tag : W32) (f : Option Nat) :
    ∃ l, Outward { s with stp := { s.stp with abortsSeen := l } } (floodAbort s cause step tag f) := by
  unfold floodAbort
  split
  · exact ⟨_, .refl s⟩
  · exact ⟨_, sendCctlAll_outward ..⟩

theorem startAbort_held (ha : s.stp.att = some a) (hp : 4 ≤ a.point) (hn : s.stp.state ≠ .aborting) (cause : BitVec 12) :
    startAbort s cause = { s with stp := { s.stp with att := some { a with held := a.held ||| cause } } } := by
  simp [startAbort, ha, hp, hn]

/-- An abort cause before point 4 aborts, and leaves memory and what is committed. -/
theorem startAbort_aborts_keeps (ha : s.stp.att = some a) (hp : a.point < 4) (hr : s.stp.state ≠ .suspended) (cause : BitVec 12) :
    (startAbort s cause).stp.state = .aborting ∧ (startAbort s cause).stp.bank = s.stp.bank ∧
      (startAbort s cause).stp.c = s.stp.c ∧ (startAbort s cause).stp.a = s.stp.a ∧ (startAbort s cause).mem = s.mem := by
  obtain ⟨hmem, -, hbank, hc, hA, -⟩ := startAbort_keepsCommitted s cause
  exact ⟨startAbort_aborts ha hp hr cause, hbank, hc, hA, hmem⟩

theorem tagCase_now {x : W32} (h : x = s.stp.curTag) : tagCase s x = .now := by simp [tagCase, h]

/-- An ABORT that tells the running attempt's tag for the first time is flooded, taken and answered. -/
theorem recvAbort_now {txn : Txn} (ha : s.stp.att = some a) (ht : ccTag txn = s.stp.curTag) (he : epochOk s txn.epoch = true)
    (hs : s.stp.abortsSeen.contains (ccTag txn) = false) : recvAbort s txn =
      sendCompl (startAbort (floodAbort (takeLanded s txn) (ccCause txn) (ccStep txn) (ccTag txn) (some (ccMember txn))) cRemote)
        txn 0 := by
  have hnow : tagCase (takeLanded s txn) (ccTag txn) = .now := tagCase_now ht
  have hok : epochOk (takeLanded s txn) txn.epoch = true := he
  have hseen : ccTag txn ∉ (takeLanded s txn).stp.abortsSeen := (by simpa using hs : ccTag txn ∉ s.stp.abortsSeen)
  have hatt : (floodAbort (takeLanded s txn) (ccCause txn) (ccStep txn) (ccTag txn) (some (ccMember txn))).stp.att = some a := by
    obtain ⟨l, hout⟩ := floodAbort_outward (takeLanded s txn) (ccCause txn) (ccStep txn) (ccTag txn) (some (ccMember txn))
    rw [hout.stp]
    exact ha
  simp [recvAbort, hnow, hok, hseen, takeAbort, hatt]

/-- Settles O34: each of the three is the abort cause, which before point 4 aborts and from it on is held. -/
theorem abortCausesKeepCommitted : Obligations.AbortCausesKeepCommitted := by
  refine fun s a ha hr => ⟨fun hp => ⟨fun k => ?cause, fun m ho hm hb => ?owner, fun txn ht he hs => ?message⟩, fun hp hn k => ?held⟩
  case cause => exact ⟨_, rfl, startAbort_aborts_keeps ha hp hr _⟩
  case owner =>
    have hexec : exec (.stpAbort m) s = .next (startAbort s cHost) := congrArg Host.Outcome.next (writeGate_owner hm hb ho)
    exact ⟨_, hexec, startAbort_aborts_keeps ha hp hr _⟩
  case message =>
    have hexec : exec (.abort txn) s = .next (recvAbort s txn) := rfl
    rw [recvAbort_now ha ht he hs] at hexec
    obtain ⟨l, hflood⟩ := floodAbort_outward (takeLanded s txn) (ccCause txn) (ccStep txn) (ccTag txn) (some (ccMember txn))
    generalize floodAbort _ _ _ _ _ = u at hexec hflood
    have hstp : u.stp = { s.stp with abortsSeen := l } := hflood.stp
    have hmem : u.mem = s.mem := hflood.mem
    obtain ⟨hst, hbank, hc, hA, hm⟩ := startAbort_aborts_keeps (s := u) (by rw [hstp]; exact ha) hp (by rw [hstp]; exact hr) cRemote
    have hout := sendCompl_outward (startAbort u cRemote) txn 0
    refine ⟨_, hexec, ?_⟩
    rw [hout.stp, hout.mem, hst, hbank, hc, hA, hm, hstp, hmem]
    exact ⟨rfl, rfl, rfl, rfl, rfl⟩
  case held => exact congrArg Host.Outcome.next (startAbort_held ha hp hn _)

/-- No core holds an operation in flight once the units are emptied. -/
theorem emptyUnits_cores (s : State) : ∀ p ∈ (emptyUnits s).cores, p.2.tiles = [] ∧ p.2.vec = none ∧ p.2.movs = [] ∧ p.2.cols = [] := by
  intro p hp
  obtain ⟨q, -, rfl⟩ := List.mem_map.1 (List.mem_of_mem_filter hp)
  exact ⟨rfl, rfl, rfl, rfl⟩

/-- Settles O35: the units are emptied, the attempt closes, and the step machine stops with the entry's end. -/
theorem abortCompleteStops : Obligations.AbortCompleteStops := by
  intro s a ha hst hq hr
  obtain ⟨m, t, hclose, hout⟩ := closeAttempt_closes (s := emptyUnits s) (a := a) (verdict := verAborted) (cause := a.cause)
    (tally := zeroBytes 16) hr
  have hraise : Outward _ (raise t 0x4103 srcDevice []) := hout.trans (raise_outward ..)
  generalize hu : raise t 0x4103 srcDevice [] = u at hraise
  have hstp := hraise.stp
  have hrun : ({ u with stp := { u.stp with stopPend := false } } : State).stp.state ≠ .suspended := by
    rw [hstp]
    simp [closedState, emptyUnits, hst]
  have hexec : exec .abortComplete s = .next (endControl { u with stp := { u.stp with stopPend := false, state := .stopped } } a.job 0 0x4103) := by
    show Host.Outcome.next (finishAbort s) = _
    simp only [finishAbort, ha, hst, hq, hclose, hu, enterState_eq hrun]
    simp
  refine ⟨_, hexec, ?_⟩
  simp [hstp, hraise.par, hraise.cores, endControl, closedState]
  exact ⟨rfl, rfl, rfl, rfl, fun i k h => emptyUnits_cores s (i, k) h⟩

end Sys2Proof.Machine
end

section
/-! The step commands (R251), and evaluation windows (R247). -/
namespace Sys2Proof.Machine
open Sys2Proof Sys2Proof.Safety

variable {s : State} {m : Fin 4} {j : JobEnt}

/-! STP_CTRL. -/

theorem stepStop_idle (h : s.stp.state = .idle) : stepStop s = { s with stp := { s.stp with state := .stopped } } := by
  simp [stepStop, effState, suspended, h]

theorem stepStop_settled (h : effState s = .stopped ∨ effState s = .aborting) : stepStop s = s := by
  rcases h with h | h <;> simp [stepStop, h]

theorem stepStop_noted (h : effState s ∈ ([.passes, .normCheck, .updateWait, .update, .tally, .evaluation, .reshardLock] : List StepState) ∨
    s.stp.state = .suspended ∧ s.stp.prior = .idle) : stepStop s = { s with stp := { s.stp with stopPend := true } } := by
  rcases h with h | ⟨hs, hp⟩
  · cases he : effState s <;> simp_all [stepStop]
  · simp [stepStop, effState, suspended, hs, hp]

/-- R17: a master that does not own the device is refused. -/
theorem writeGate_refused {off : Nat} {f : State → State} (hm : masterExists s m.val = true) (hb : s.sec.boot = .ready)
    (ho : isOwner s m.val = false) : writeGate s m.val off false f = nonOwnerWrite s m.val off := by
  simp [writeGate, hm, hb, ho]

/-- The owner's STP_CTRL, and that of another master. -/
theorem stepCommands_byState (s : State) (m : Fin 4) (hm : masterExists s m.val = true) (hb : s.sec.boot = .ready) :
    (isOwner s m.val = true → exec (.stpStop m) s = .next (stepStop s) ∧ exec (.stpResume m) s = .next (stepResume s)) ∧
      (isOwner s m.val = false → ∀ i ∈ [Instr.stpStop m, Instr.stpResume m, Instr.stpAbort m],
        exec i s = .next (nonOwnerWrite s m.val 0xB000)) := by
  refine ⟨fun ho => ⟨congrArg Host.Outcome.next (writeGate_owner hm hb ho), congrArg Host.Outcome.next (writeGate_owner hm hb ho)⟩,
    fun ho i hi => ?_⟩
  simp only [List.mem_cons, List.not_mem_nil, or_false] at hi
  rcases hi with rfl | rfl | rfl <;> exact congrArg Host.Outcome.next (writeGate_refused hm hb ho)

/-! What an attempt or a window starts with (R169, R221, R226, R392, R429). -/

/-- A state without what the start of an attempt or a window primes. -/
def unprimed (s : State) : State := { s with mem := [], cores := [], par := Parity.init, streams := [] }

/-- What every step of a fold keeps, the fold keeps. -/
theorem foldl_keeps {ι α : Type} {f : State → α} {g : State → ι → State} (hg : ∀ s i, f (g s i) = f s) (l : List ι) (s : State) :
    f (l.foldl g s) = f s :=
  List.foldlRecOn (motive := fun t => f t = f s) l g rfl fun _ h i _ => (hg _ i).trans h

theorem unprimed_relocate (s : State) : unprimed (relocate s) = unprimed s := by
  refine foldl_keeps (f := unprimed) (fun s r => ?_) _ s
  split <;> rfl

theorem unprimed_writeExpected (s : State) : unprimed (writeExpected s) = unprimed s := by
  unfold writeExpected
  split
  · rfl
  · exact foldl_keeps (f := unprimed) (fun s i => foldl_keeps (f := unprimed) (by exact fun _ _ => rfl) _ s) _ s

/-- Priming changes device memory, cores, the once-per-step marks and the streams, and nothing else. -/
theorem unprimed_primeCores (s : State) (j : JobEnt) : unprimed (primeCores s j) = unprimed s := by
  have hentry (u : State) : unprimed (writeEntry u j) = unprimed u := foldl_keeps (f := unprimed) (by exact fun _ _ => rfl) _ u
  have hfresh (u : State) : unprimed (freshCores u) = unprimed u := foldl_keeps (f := unprimed) (by exact fun _ _ => rfl) _ u
  have hmarks (u : State) : unprimed (freshMarks u) = unprimed u := rfl
  rw [primeCores, unprimed_relocate, unprimed_writeExpected, hentry, hmarks, hfresh]

theorem keeps_of_unprimed {t : State} (h : unprimed t = unprimed s) {α : Type} (f : State → α) (hf : ∀ s, f (unprimed s) = f s) :
    f t = f s := by
  rw [← hf t, h, hf]

theorem primeCores_stp (s : State) (j : JobEnt) : (primeCores s j).stp = s.stp :=
  keeps_of_unprimed (unprimed_primeCores s j) State.stp fun _ => rfl

theorem primeCores_ctl (s : State) (j : JobEnt) : (primeCores s j).ctl = s.ctl :=
  keeps_of_unprimed (unprimed_primeCores s j) State.ctl fun _ => rfl

/-- Where nothing is kept of a later attempt, nothing is taken. -/
theorem takeKept_nothing (h : s.stp.kept = []) : takeKept s = s := by
  unfold takeKept
  simp only [h, List.filter_nil, List.foldl_nil]
  rw [← h]

/-! Evaluation windows (R247). -/

theorem entryGate_idle (h : s.stp.state = .idle) : entryGate s = .start := by rw [entryGate, h]

/-- The state of the step machine in an evaluation window of an entry. -/
def evalStp (s : State) (j : JobEnt) : Stp :=
  { s.stp with state := .evaluation, lastTag := seTag j, curTag := seTag j, ended := EndedAtt.init }

/-- The end of the entry that opens a window. -/
def startedEval (s : State) (j : JobEnt) : State := endControl (logAppend s 0x0004 s.stp.c [1]) j 0 0

theorem openEval_opens (hh : headEntry s 2 = some j) (hi : s.stp.state = .idle) (hok : evalOk s j = true) (hk : s.stp.kept = []) :
    (openEval s).stp = evalStp s j ∧ (openEval s).ctl = { s.ctl with running := none, waiting := s.ctl.waiting.drop 1 } := by
  have hstp := primeCores_stp { takeHead s j with stp := evalStp s j } j
  have hctl := primeCores_ctl { takeHead s j with stp := evalStp s j } j
  have hopen : openEval s = startedEval (takeKept (primeCores { takeHead s j with stp := evalStp s j } j)) j := by
    unfold openEval startedEval evalStp takeHead
    rw [hh]
    dsimp only
    rw [entryGate_idle hi, hok]
    generalize takeKept _ = u
    rfl
  rw [hopen]
  generalize primeCores _ _ = u at hstp hctl
  have hlog := logAppend_outward u 0x0004 u.stp.c [1]
  rw [takeKept_nothing (by rw [hstp]; exact hk), startedEval]
  constructor
  · rw [endControl_stp, hlog.stp, hstp]
  · rw [endControl, jobDone_ctl, hlog.ctl, hctl]
    rfl

/-- No core runs once the sequencers have discarded their queues. -/
theorem discardQueues_cores (s : State) : ∀ p ∈ (discardQueues s).cores, p.2.runActive = false := by
  intro p hp
  obtain ⟨q, -, rfl⟩ := List.mem_map.1 (List.mem_of_mem_filter hp)
  rfl

theorem closeEval_closes (hh : headEntry s 3 = some j) (he : s.stp.state = .evaluation) (hf : entryForm j [] = true) :
    (closeEval s).stp = { s.stp with state := if s.stp.stopPend then .stopped else .idle, stopPend := false } ∧
      (closeEval s).ctl.running = none ∧ (closeEval s).cores = (discardQueues (takeHead s j)).cores := by
  have hlog := logAppend_outward (discardQueues (takeHead s j)) 0x0004 s.stp.c [2]
  have hclose : closeEval s = endControl (settleState (logAppend (discardQueues (takeHead s j)) 0x0004 s.stp.c [2]) .idle) j 0 0 := by
    simp [closeEval, hh, he, hf]
    rfl
  generalize logAppend _ _ _ _ = u at hlog hclose
  have hstp : u.stp = s.stp := hlog.stp
  rw [hclose, settleState_eq (by rw [hstp, he]; decide)]
  refine ⟨?_, ?_, ?_⟩
  · rw [endControl_stp, hstp]
  · simp [endControl]
  · rw [endControl_cores]
    exact hlog.cores

/-- Settles O36: the step commands by the state they meet, and the two ends of an evaluation window. -/
theorem ownerStepCommands : Obligations.OwnerStepCommands := by
  refine ⟨fun s m hm hb => ⟨fun ho => ?owner, fun ho i hi => ?other⟩, fun s j hh hi hok hk => ?opens, fun s j hh he hf => ?closes⟩
  case owner =>
    obtain ⟨hstop, hresume⟩ := (stepCommands_byState s m hm hb).1 ho
    rw [hstop, hresume]
    refine ⟨fun h => ?_, fun h => ?_, fun h => ?_, fun h h1 h2 h3 => ?_, fun h h1 => ?_⟩
    · rw [stepStop_idle h]
    · rw [stepStop_noted h]
    · rw [stepStop_settled h]
    · simp [stepResume, h, h1, h2, h3]
    · rcases h1 with h1 | h1 | h1 <;> simp [stepResume, h1]
  case other => exact ⟨_, (stepCommands_byState s m hm hb).2 ho i hi, raise_frame .., rfl⟩
  case opens =>
    obtain ⟨hstp, hctl⟩ := openEval_opens hh hi hok hk
    refine ⟨_, rfl, ?_⟩
    rw [hstp, hctl]
    exact ⟨rfl, rfl, rfl, rfl, rfl, rfl, rfl⟩
  case closes =>
    obtain ⟨hstp, hrun, hcores⟩ := closeEval_closes hh he hf
    refine ⟨_, rfl, ?_⟩
    rw [hstp, hrun, hcores]
    exact ⟨rfl, rfl, rfl, rfl, rfl, rfl, discardQueues_cores _⟩

end Sys2Proof.Machine
end

section
/-! The step entry at the head of the control order (R215, R427, R428). -/
namespace Sys2Proof.Machine
open Sys2Proof Sys2Proof.Safety

variable {s : State} {a : Attempt} {j : JobEnt}

theorem startStep_waits (h : s.stp.state = .suspended ∨ s.stp.state = .aborting) : startStep s = s := by
  have hgate : entryGate s = .wait := by rcases h with h | h <;> rw [entryGate, h]
  unfold startStep
  split
  · rfl
  · rw [hgate]

theorem startStep_turnsAway (hh : headEntry s 1 = some j) (h : s.stp.state = .stopped ∨ s.stp.state = .evaluation) :
    startStep s = rejectHead s j := by
  have hgate : entryGate s = .reject := by rcases h with h | h <;> rw [entryGate, h]
  rw [startStep, hh]
  dsimp only
  rw [hgate]

theorem startStep_rejects (hh : headEntry s 1 = some j) (hi : s.stp.state = .idle) (hok : stepOk s j = false) :
    startStep s = rejectStep s j := by
  rw [startStep, hh]
  dsimp only
  rw [entryGate_idle hi, hok]
  rfl

theorem startStep_begins (hh : headEntry s 1 = some j) (hi : s.stp.state = .idle) (hok : stepOk s j = true)
    (hr : s.hold.replay = none) : startStep s = beginStep s j := by
  have hlists : replayListsOk s j = true := by rw [replayListsOk, hr]
  have hpass : passOver s (seStep j) = s := by rw [passOver, hr]
  rw [startStep, hh]
  dsimp only
  rw [entryGate_idle hi, hok, hlists, hpass]
  rfl

theorem seStep_of_stepOk (h : stepOk s j = true) : seStep j = s.stp.c + 1 := by
  simp only [stepOk, Bool.and_eq_true, beq_iff_eq] at h
  exact h.1.1.1.1.1.1.1.1.2

/-- The manifests of the attempt go to their streams. -/
theorem feedStreams_feeds (ha : s.stp.att = some a) : ∃ x l, feedStreams s =
    { s with streams := x, stp := { s.stp with att := some { a with mans := l } } } := by
  unfold feedStreams
  rw [ha]
  dsimp only
  generalize hr : List.foldl _ _ _ = r
  have hfed : ∃ x, r.1 = { s with streams := x } := by
    rw [← hr]
    refine List.foldlRecOn (motive := fun r : State × List ManRef => ∃ x, r.1 = { s with streams := x }) _ _ ⟨_, rfl⟩ ?_
    rintro ⟨u, l⟩ ⟨x, rfl⟩ m -
    split <;> exact ⟨_, rfl⟩
  obtain ⟨x, hx⟩ := hfed
  exact ⟨x, r.2, by rw [hx]⟩

/-- What each core's update gives holds of every core that a fold updates. -/
theorem foldl_updCore_forall {P : Core → Prop} {f : State → CoreId → Core → Core} (hf : ∀ s c x, P (f s c x)) (l : List CoreId)
    (hs : smWf Core.init s.cores = true) {c : CoreId} (hc : c ∈ l ∨ P (getCore s c)) :
    P (getCore (l.foldl (fun s c => updCore s c (f s c)) s) c) := by
  induction l generalizing s with
  | nil => exact hc.resolve_left List.not_mem_nil
  | cons d l ih =>
    refine ih (smSet_wf _ _ hs) ?_
    dsimp only [updCore]
    rw [getCore_setCore_wf _ _ _ _ hs]
    by_cases h : c = d
    · rw [if_pos h]
      exact .inr (hf ..)
    · rw [if_neg h]
      exact hc.imp_left fun hm => (List.mem_cons.1 hm).resolve_left h

/-- A core with its counters empty and no run done. -/
def unrun (x : Core) : Prop := x.ctr = [] ∧ x.run = 0 ∧ x.runActive = false

theorem freshCores_unrun (hs : smWf Core.init s.cores = true) {c : CoreId} (hc : c ∈ allCores s) :
    unrun (getCore (freshCores s) c) :=
  foldl_updCore_forall (P := unrun) (by exact fun _ _ _ => ⟨rfl, rfl, rfl⟩) _ hs (.inl hc)

/-- Past the fresh cores, priming writes device memory, marks and streams. -/
theorem primeCores_cores (s : State) (j : JobEnt) : (primeCores s j).cores = (freshCores s).cores := by
  have hentry (u : State) : (writeEntry u j).cores = u.cores := foldl_keeps (f := State.cores) (by exact fun _ _ => rfl) _ u
  have hexp (u : State) : (writeExpected u).cores = u.cores := by
    unfold writeExpected
    split
    · rfl
    · exact foldl_keeps (f := State.cores) (fun s i => foldl_keeps (f := State.cores) (by exact fun _ _ => rfl) _ s) _ u
  have hreloc (u : State) : (relocate u).cores = u.cores := by
    refine foldl_keeps (f := State.cores) (fun s r => ?_) _ u
    split <;> rfl
  have hmarks (u : State) : (freshMarks u).cores = u.cores := rfl
  rw [primeCores, hreloc, hexp, hentry, hmarks]

/-- The state as an entry takes the head, before anything is primed. -/
def headTaken (s : State) (j : JobEnt) : State :=
  { takeHead s j with
    stp := { s.stp with state := .passes, pass := 0, phase := false, lastTag := seTag j, curTag := seTag j,
                        ended := EndedAtt.init, att := some (newAttempt (takeHead s j) j) },
    pwr := { s.pwr with limitedTold := false } }

theorem beginStep_begins (hk : s.stp.kept = []) : ∃ l t, beginStep s j = t ∧
    t.stp = { (headTaken s j).stp with att := some { newAttempt (takeHead s j) j with mans := l } } ∧
    t.ctl = (takeHead s j).ctl ∧ t.cores = (freshCores (headTaken s j)).cores := by
  have hstp := primeCores_stp (headTaken s j) j
  have hctl := primeCores_ctl (headTaken s j) j
  have hcores := primeCores_cores (headTaken s j) j
  have hbegin : beginStep s j = takeKept (feedStreams (primeCores (headTaken s j) j)) := rfl
  generalize primeCores _ _ = u at hstp hctl hcores hbegin
  obtain ⟨x, l, hfeed⟩ := feedStreams_feeds (s := u) (a := newAttempt (takeHead s j) j) (by rw [hstp]; rfl)
  rw [hbegin, hfeed, takeKept_nothing (by dsimp only; rw [hstp]; exact hk), hstp]
  exact ⟨l, _, rfl, rfl, hctl, hcores⟩

/-- Settles O28: the entry's gate by the state of the step machine, and in idle by R215's rules. -/
theorem stepEntryStartsAttempt : Obligations.StepEntryStartsAttempt := by
  intro s j hh
  have hexec : exec .step s = .next (startStep s) := rfl
  refine ⟨fun hi hok hr hk hs => ?begins, fun hi hok => ?rejects, fun h => ?turnsAway, fun h => ?waits⟩
  case begins =>
    rw [startStep_begins hh hi hok hr] at hexec
    obtain ⟨l, t, ht, hstp, hctl, hcores⟩ := beginStep_begins (j := j) hk
    rw [ht] at hexec
    have hcore (c : CoreId) : getCore t c = getCore (freshCores (headTaken s j)) c := by
      rw [getCore, coreAt, hcores]
      rfl
    refine ⟨t, { newAttempt (takeHead s j) j with mans := l }, hexec, ?_⟩
    rw [hstp, hctl]
    refine ⟨rfl, rfl, seStep_of_stepOk hok, rfl, rfl, rfl, rfl, rfl, rfl, rfl, rfl, rfl, rfl, fun c hc => ?_⟩
    rw [hcore]
    exact freshCores_unrun (s := headTaken s j) (canonical_cores hs) hc
  case rejects =>
    rw [startStep_rejects hh hi hok] at hexec
    exact ⟨_, hexec, by simp [rejectStep], by simp [rejectStep], by simp [rejectStep], by simp [rejectStep]⟩
  case turnsAway =>
    rw [startStep_turnsAway hh h] at hexec
    exact ⟨_, hexec, by simp [rejectHead, raiseJobInvalid], by simp [rejectHead, raiseJobInvalid],
      by simp [rejectHead, raiseJobInvalid], by simp [rejectHead, raiseJobInvalid]⟩
  case waits => rw [hexec, startStep_waits h]

end Sys2Proof.Machine
end

section
/-! The flip, the stop and the tally (R223, R238–R240, R269, R272): an attempt that commits leaves its alternate bank committed, one
that stops leaves what was committed, and the last digest decides which. -/
namespace Sys2Proof.Machine
open Sys2Proof Sys2Proof.Safety

variable {s t u : State} {a : Attempt} {txn : Txn} {cause : BitVec 12} {tally : Bytes}

/-! The two ends of an attempt past its verdict, outside replay. -/

/-- From `s` to `t` the attempt has committed: the bank pointer toggles, C and A rise by one, and the attempt and its entry end. -/
structure Committed (s t : State) : Prop where
  bank : t.stp.bank = !s.stp.bank
  c : t.stp.c = s.stp.c + 1
  a : t.stp.a = s.stp.a + 1
  att : t.stp.att = none
  running : t.ctl.running = none
  state : t.stp.state = if s.stp.stopPend then .stopped else .idle

/-- From `s` to `t` the attempt has ended in stopped, with the bank pointer and C unchanged. -/
structure Stopped (s t : State) : Prop where
  state : t.stp.state = .stopped
  bank : t.stp.bank = s.stp.bank
  c : t.stp.c = s.stp.c
  a : t.stp.a = s.stp.a + 1
  att : t.stp.att = none

theorem Committed.outward (h : Committed s t) (k : Outward t u) : Committed s u := by
  obtain ⟨hbank, hc, ha, hatt, hrun, hst⟩ := h
  exact ⟨by rw [k.stp, hbank], by rw [k.stp, hc], by rw [k.stp, ha], by rw [k.stp, hatt], by rw [k.ctl, hrun], by rw [k.stp, hst]⟩

theorem Stopped.outward (h : Stopped s t) (k : Outward t u) : Stopped s u := by
  obtain ⟨hst, hbank, hc, ha, hatt⟩ := h
  exact ⟨by rw [k.stp, hst], by rw [k.stp, hbank], by rw [k.stp, hc], by rw [k.stp, ha], by rw [k.stp, hatt]⟩

/-- What a commit tells (R238, R242): its event, the commit notices of the shard group, and the snapshot where one is due. -/
def commitNotices (s : State) (a : Attempt) (seq : W64) : State :=
  let s3 := raise s 0x4001 srcDevice (le64 s.stp.c ++ le64 s.stp.a)
  let s4 := (sendCctlAll s3 ckCommit 0 s3.stp.c a.tag 0 (groupPeers s3 (shardGroup s3))).1
  let every := ((curPlan s4).map fun p => p.policy.snapEvery).getD 0
  if a.snap || (every != 0 && s4.stp.c.toNat % every == 0) then freeze s4 seq else s4

theorem commitNotices_outward (s : State) (a : Attempt) (seq : W64) : Outward s (commitNotices s a seq) := by
  unfold commitNotices
  extract_lets s3 s4 every
  have hsent : Outward s s4 := (raise_outward ..).trans (sendCctlAll_outward ..)
  split
  · exact hsent.trans (freeze_outward ..)
  · exact hsent

/-- The state at the flip, with the tally and the device's own commit notice. -/
def flippedState (s : State) (tally : Bytes) (m : ControlCopy) : State :=
  { s with stp := { s.stp with bank := !s.stp.bank, c := s.stp.c + 1, mirror := m, tally := sub tally 0 16,
                               commits := smSet 0 s.stp.commits (myId s) (s.stp.c + 1) } }

theorem commitAttempt_eq {m : ControlCopy} (hm : flip s = { s with stp := { s.stp with bank := !s.stp.bank, c := s.stp.c + 1, mirror := m } })
    (hc : closeAttempt (flippedState s tally m) a verCommitted cause tally = (t, false)) :
    commitAttempt s a cause tally = endControl (settleState (commitNotices t a s.hold.nextSeq) .idle) a.job 0 0x4001 := by
  unfold flippedState at hc
  unfold commitAttempt commitNotices
  rw [hm]
  dsimp only
  have hid : myId { s with stp := { s.stp with bank := !s.stp.bank, c := s.stp.c + 1, mirror := m } } = myId s := rfl
  rw [hid, hc]
  rfl

theorem commitAttempt_commits (hr : s.hold.replay = none) (hs : s.stp.state ≠ .suspended) :
    Committed s (commitAttempt s a cause tally) := by
  obtain ⟨m, hflip⟩ := mirrored_eq { s with stp := { s.stp with bank := !s.stp.bank, c := s.stp.c + 1 } }
  obtain ⟨m2, t, hclose, hout⟩ := closeAttempt_closes (s := flippedState s tally m) (a := a) (verdict := verCommitted)
    (cause := cause) (tally := tally) hr
  rw [commitAttempt_eq hflip hclose]
  have hnote := hout.trans (commitNotices_outward t a s.hold.nextSeq)
  generalize commitNotices _ _ _ = u at hnote
  have hstp := hnote.stp
  rw [settleState_eq (by rw [hstp]; exact hs)]
  constructor <;> simp [hstp, endControl, closedState, flippedState]

theorem stopAttempt_stops (hr : s.hold.replay = none) (hs : s.stp.state ≠ .suspended) : Stopped s (stopAttempt s a cause) := by
  obtain ⟨m, t, hclose, hout⟩ := closeAttempt_closes (a := a) (verdict := verStopped) (cause := cause ||| a.held)
    (tally := a.balDigest) hr
  have hstp := hout.stp
  unfold stopAttempt
  rw [hclose]
  dsimp only
  rw [enterState_eq (by dsimp only; rw [hstp]; exact hs)]
  constructor <;> simp [hstp, closedState]

/-! A message of an attempt by its tag (R269). -/

theorem recvTagged_old {x : W32} {take : State → State} (h : x.toNat < s.stp.curTag.toNat) :
    recvTagged s txn x take = sendCompl (takeLanded s txn) txn 0 := by
  have hcase : tagCase (takeLanded s txn) x = .old := if_pos h
  rw [recvTagged, hcase]

theorem recvTagged_later {x : W32} {take : State → State} (h : s.stp.curTag.toNat < x.toNat) :
    recvTagged s txn x take = sendCompl (keepTxn (takeLanded s txn) txn) txn 0 := by
  have hne : x ≠ s.stp.curTag := fun he => by rw [he] at h; exact Nat.lt_irrefl _ h
  have hcase : tagCase (takeLanded s txn) x = .later := (if_neg (Nat.lt_asymm h)).trans (if_neg hne)
  rw [recvTagged, hcase]

theorem recvTagged_now {x : W32} {take : State → State} (h : x = s.stp.curTag) (he : epochOk s txn.epoch = true) :
    recvTagged s txn x take = sendCompl (take (takeLanded s txn)) txn 0 := by
  have hcase : tagCase (takeLanded s txn) x = .now := tagCase_now h
  have hok : epochOk (takeLanded s txn) txn.epoch = true := he
  rw [recvTagged, hcase, hok, Bool.or_true]
  rfl

/-! The majority (R239). -/

section
variable {l : List (Nat × Bytes)} {n : Nat} {v w : Bytes}

/-- Two digests have together no more holders than there are members. -/
theorem votes_add_le (h : v ≠ w) (l : List (Nat × Bytes)) : votes l v + votes l w ≤ l.length := by
  induction l with
  | nil => simp [votes]
  | cons p l ih =>
    unfold votes at ih ⊢
    by_cases hv : p.2 = v
    · simp [hv, h]
      omega
    · by_cases hw : p.2 = w
      · simp [hw, Ne.symm h]
        omega
      · simp [hv, hw]
        omega

theorem majority_eq_some (hl : l.length = n) (hv : n < 2 * votes l v) : majority l n = some v := by
  unfold majority
  cases hf : l.find? fun p => decide (n < 2 * votes l p.2) with
  | none =>
    have hlen : votes l v ≠ 0 := by omega
    obtain ⟨p, hp⟩ := List.exists_mem_of_length_pos (Nat.pos_of_ne_zero hlen)
    obtain ⟨hmem, hpv⟩ := List.mem_filter.1 hp
    have hno := List.find?_eq_none.1 hf p hmem
    rw [eq_of_beq hpv, decide_eq_true hv] at hno
    exact (hno rfl).elim
  | some p =>
    have hp : n < 2 * votes l p.2 := by simpa using List.find?_some hf
    by_contra hne
    have hle := votes_add_le (fun h => hne (congrArg some h)) l (v := p.2) (w := v)
    omega

theorem majority_eq_none (h : ∀ v, 2 * votes l v ≤ n) : majority l n = none := by
  rw [majority, List.find?_eq_none.2 fun p _ => by simpa using h p.2]
  rfl

end

/-! The tally (R237–R240, R272). -/

theorem tallyOk_eq_true {g : Group} {step : W64} (hg : replicaGroup s = some g) (hm : txnFld txn 28 3 < groupSize g)
    (hsrc : txn.src.toNat = memberId g (myId s) (txnFld txn 28 3)) (hne : txnFld txn 28 3 ≠ replicaIndex s)
    (hstep : fld64 txn.fields 0 = step) (he : txn.epoch = s.stp.epoch) : tallyOk s txn step = true := by
  simp [tallyOk, hg, hm, hsrc, hne, hstep, he]

/-- The digest of another member joins those held, and the decision is tried. -/
theorem takeTally_joins (ha : s.stp.att = some a) (hok : tallyOk s txn a.step = true)
    (hnew : ∀ p ∈ a.digests, p.1 ≠ txnFld txn 28 3) : takeTally s txn =
      decideTally (setAtt s { a with digests := a.digests ++ [(txnFld txn 28 3, sub txn.fields 16 16)] }) := by
  have hany : (a.digests.any fun p => p.1 == txnFld txn 28 3) = false :=
    List.any_eq_false.2 fun p hp => by simpa using hnew p hp
  rw [takeTally, ha]
  dsimp only
  rw [hok, hany]
  rfl

theorem decideTally_waits (ha : s.stp.att = some a) (h : a.digests.length < replicaSize s) : decideTally s = s := by
  simp [decideTally, ha, h]

/-- With every digest held, the decision is by the majority. -/
theorem decideTally_decides (ha : s.stp.att = some a) (hst : s.stp.state = .tally) (hp : a.point < 4)
    (hl : a.digests.length = replicaSize s) : decideTally s =
      match majority a.digests (replicaSize s) with
      | some v => if v = ownDigest s a then commitAttempt (setAtt s { a with point := 4 }) { a with point := 4 } 0 (ownDigest s a)
        else raise (setAtt s { a with point := 5, repairing := true }) 0x4105 srcDevice []
      | none => stopAttempt (raise (setAtt s { a with point := 4 }) 0x4106 srcDevice []) { a with point := 4 } cNomaj := by
  have hwait : (suspended s || s.stp.state != .tally || decide (4 ≤ a.point) || decide (a.digests.length < replicaSize s)) = false := by
    simp [suspended, hst, hp, hl]
  rw [decideTally, ha]
  dsimp only
  rw [hwait]
  rfl

/-- An attempt with the digest of another member joined. -/
def digestJoined (a : Attempt) (txn : Txn) : Attempt :=
  { a with digests := a.digests ++ [(txnFld txn 28 3, sub txn.fields 16 16)] }

/-- A tally of the running attempt, from another member that has told none yet. -/
structure TallyArrives (s : State) (a : Attempt) (g : Group) (txn : Txn) : Prop where
  tag : fld32 txn.data 0 = s.stp.curTag
  epochOk : epochOk s txn.epoch = true
  att : s.stp.att = some a
  group : replicaGroup s = some g
  member : txnFld txn 28 3 < groupSize g
  src : txn.src.toNat = memberId g (myId s) (txnFld txn 28 3)
  other : txnFld txn 28 3 ≠ replicaIndex s
  step : fld64 txn.fields 0 = a.step
  epoch : txn.epoch = s.stp.epoch
  new : ∀ p ∈ a.digests, p.1 ≠ txnFld txn 28 3

/-- The state with that digest held. -/
def digestHeld (s : State) (a : Attempt) (txn : Txn) : State := setAtt (takeLanded s txn) (digestJoined a txn)

variable {g : Group}

theorem ownDigest_digestJoined {mine : Bytes} {i : Nat} (h : a.digests.find? (fun p => p.1 == replicaIndex s) = some (i, mine)) :
    ownDigest s (digestJoined a txn) = mine := by
  unfold ownDigest digestJoined
  rw [List.find?_append, h]
  rfl

theorem TallyArrives.size (h : TallyArrives s a g txn) : replicaSize s = groupSize g := by rw [replicaSize, h.group]; rfl

theorem TallyArrives.exec_eq (h : TallyArrives s a g txn) : exec (.tally txn) s =
    .next (sendCompl (decideTally (digestHeld s a txn)) txn 0) := by
  have hok : tallyOk (takeLanded s txn) txn a.step = true :=
    tallyOk_eq_true (s := takeLanded s txn) h.group h.member h.src h.other h.step h.epoch
  have htake := takeTally_joins (s := takeLanded s txn) h.att hok h.new
  have hrecv := recvTagged_now (take := fun s => takeTally s txn) h.tag h.epochOk
  exact congrArg Host.Outcome.next (hrecv.trans (congrArg (fun u => sendCompl u txn 0) htake))

/-- With the last digest the majority decides. -/
theorem TallyArrives.decides (h : TallyArrives s a g txn) (hst : s.stp.state = .tally) (hp : a.point < 4)
    (hl : a.digests.length + 1 = groupSize g) {mine : Bytes} {i : Nat}
    (hmine : a.digests.find? (fun p => p.1 == replicaIndex s) = some (i, mine)) : decideTally (digestHeld s a txn) =
      match majority (digestJoined a txn).digests (groupSize g) with
      | some v => if v = mine then
          commitAttempt (setAtt (digestHeld s a txn) { digestJoined a txn with point := 4 }) { digestJoined a txn with point := 4 } 0 mine
        else raise (setAtt (digestHeld s a txn) { digestJoined a txn with point := 5, repairing := true }) 0x4105 srcDevice []
      | none => stopAttempt (raise (setAtt (digestHeld s a txn) { digestJoined a txn with point := 4 }) 0x4106 srcDevice [])
          { digestJoined a txn with point := 4 } cNomaj := by
  have hsize : replicaSize (digestHeld s a txn) = groupSize g := h.size
  have hown : ownDigest (digestHeld s a txn) (digestJoined a txn) = mine := ownDigest_digestJoined (s := digestHeld s a txn) hmine
  have hlen : (digestJoined a txn).digests.length = replicaSize (digestHeld s a txn) := by
    rw [hsize, ← hl, digestJoined, List.length_append]
    rfl
  rw [decideTally_decides (s := digestHeld s a txn) (a := digestJoined a txn) rfl hst hp hlen, hsize, hown]

/-- A repair ends, or waits (R240, R445). -/
theorem completeRepair_eq {l : Layout} {copies : List ShardCopy} {lost : Bool} (ha : s.stp.att = some a) (hst : s.stp.state = .tally)
    (hrep : a.repairing = true) (hl : curLayout s = some l) : completeRepair s copies lost =
      if anyStackHolds s then s else if lost then stopAttempt s a cDataloss
      else if majority a.digests (replicaSize s) = some (deviceDigest (repairWrites s copies) l) then
        commitAttempt (repairWrites s copies) a cRepaired (deviceDigest (repairWrites s copies) l)
      else stopAttempt (raise (repairWrites s copies) 0x4106 srcDevice []) a cNomaj := by
  simp [completeRepair, ha, hl, suspended, hst, hrep]

theorem repairWrites_keeps (s : State) (copies : List ShardCopy) :
    (repairWrites s copies).stp = s.stp ∧ (repairWrites s copies).hold = s.hold :=
  ⟨foldl_keeps (f := State.stp) (by exact fun _ _ => rfl) _ s, foldl_keeps (f := State.hold) (by exact fun _ _ => rfl) _ s⟩

/-- Settles O33: a tally by its tag, the decision by the majority, and the end of a repair. -/
theorem tallyHoldsOrRepairs : Obligations.TallyHoldsOrRepairs := by
  refine ⟨fun s txn => ⟨fun h => congrArg Host.Outcome.next (recvTagged_old h), fun h => congrArg Host.Outcome.next (recvTagged_later h), ?held⟩,
    ?decided, ?repaired⟩
  case held =>
    rintro a g _ htag hok ha hg rfl hm hsrc hne hstep he hnew hlen
    have h : TallyArrives s a g txn := ⟨htag, hok, ha, hg, hm, hsrc, hne, hstep, he, hnew⟩
    have hsize : replicaSize (digestHeld s a txn) = groupSize g := h.size
    have hwait : decideTally (digestHeld s a txn) = digestHeld s a txn :=
      decideTally_waits (a := digestJoined a txn) rfl (by rw [hsize]; simpa [digestJoined] using hlen)
    refine ⟨_, h.exec_eq, ?_⟩
    rw [hwait, (sendCompl_outward ..).mem, (sendCompl_outward ..).stp]
    exact ⟨rfl, rfl⟩
  case decided =>
    rintro s txn a g _ mine _ htag hok ha hg rfl hm hsrc hne hstep he hnew hst hp hr hlen hmine rfl
    have h : TallyArrives s a g txn := ⟨htag, hok, ha, hg, hm, hsrc, hne, hstep, he, hnew⟩
    have hexec := h.exec_eq
    have hrun : s.stp.state ≠ .suspended := by rw [hst]; decide
    rw [h.decides hst hp hlen hmine] at hexec
    have hdig : (digestJoined a txn).digests.length = groupSize g := by simpa [digestJoined] using hlen
    refine ⟨fun hv => ?_, fun v hne hv => ?_, fun hv => ?_⟩
    · rw [majority_eq_some hdig hv] at hexec
      dsimp only at hexec
      rw [if_pos rfl] at hexec
      obtain ⟨hbank, hc, hA, hatt, -, -⟩ := (commitAttempt_commits (s := setAtt (digestHeld s a txn) { digestJoined a txn with point := 4 })
        (a := { digestJoined a txn with point := 4 }) (cause := 0) (tally := mine) hr hrun).outward (sendCompl_outward _ txn 0)
      exact ⟨_, hexec, hbank, hc, hA, hatt⟩
    · rw [majority_eq_some hdig hv] at hexec
      dsimp only at hexec
      rw [if_neg hne] at hexec
      exact hexec
    · rw [majority_eq_none (l := (digestJoined a txn).digests) hv] at hexec
      dsimp only at hexec
      have hraise := raise_outward (setAtt (digestHeld s a txn) { digestJoined a txn with point := 4 }) 0x4106 srcDevice []
      obtain ⟨hstate, hbank, hc, hA, hatt⟩ := (stopAttempt_stops (a := { digestJoined a txn with point := 4 }) (cause := cNomaj)
        (hraise.replay hr) (by rw [hraise.stp]; exact hrun)).outward (sendCompl_outward _ txn 0)
      rw [hraise.stp] at hbank hc hA
      exact ⟨_, hexec, hstate, hbank, hc, hA, hatt⟩
  case repaired =>
    intro s a l copies ha hst hrep hl hr
    have hexec (lost : Bool) : exec (.repairComplete copies lost) s = .next (completeRepair s copies lost) := rfl
    have hrun : s.stp.state ≠ .suspended := by rw [hst]; decide
    obtain ⟨hstp, hhold⟩ := repairWrites_keeps s copies
    refine ⟨fun hs b => ?_, fun hs => ?_, fun hs hmaj => ?_⟩
    · rw [hexec, completeRepair_eq ha hst hrep hl, if_pos hs]
    · obtain ⟨hstate, hbank, hc, hA, hatt⟩ := stopAttempt_stops (a := a) (cause := cDataloss) hr hrun
      refine ⟨_, hexec true, ?_⟩
      rw [completeRepair_eq ha hst hrep hl, if_neg (by simp [hs]), if_pos rfl]
      exact ⟨hstate, hbank, hc, hA, hatt⟩
    · obtain ⟨hbank, hc, hA, hatt, -, -⟩ := commitAttempt_commits (s := repairWrites s copies) (a := a) (cause := cRepaired)
        (tally := deviceDigest (repairWrites s copies) l) (by rw [hhold]; exact hr) (by rw [hstp]; exact hrun)
      rw [hstp] at hbank hc hA
      refine ⟨_, hexec false, ?_⟩
      rw [completeRepair_eq ha hst hrep hl, if_neg (by simp [hs]), if_neg Bool.false_ne_true, if_pos hmaj]
      exact ⟨hbank, hc, hA, hatt⟩

end Sys2Proof.Machine
end

section
/-! Commit notices (R227): whatever the collectives of a core do, the notices heard from the members stay. -/
namespace Sys2Proof.Machine
open Sys2Proof Sys2Proof.Safety

variable {s t u : State}

/-- `t` has the commit notices of `s`. -/
def sameCommits (s t : State) : Prop := t.stp.commits = s.stp.commits

theorem sameCommits.refl (s : State) : sameCommits s s := rfl

theorem sameCommits.trans (h : sameCommits s t) (k : sameCommits t u) : sameCommits s u := Eq.trans k h

theorem Outward.sameCommits (h : Outward s t) : sameCommits s t := by rw [Machine.sameCommits, h.stp]

theorem wrMem_sameCommits (a : Nat) (b : Bytes) (h : sameCommits s t) : sameCommits s (wrMem t a b) := h

theorem updCore_sameCommits (c : CoreId) (f : Core → Core) (h : sameCommits s t) : sameCommits s (updCore t c f) := h

theorem enterState_sameCommits (s : State) (x : StepState) : sameCommits s (enterState s x) := by
  unfold enterState
  split <;> rfl

theorem endAbandon_sameCommits (s : State) (l : Lock) : sameCommits s (endAbandon s l) := by
  unfold endAbandon
  extract_lets s1 s2
  have hsent : Outward { s with lock := none } s2 := (logAppend_outward ..).trans (raise_outward ..)
  have hsame : sameCommits s s2 := congrArg Stp.commits hsent.stp
  have henter (u : State) : sameCommits u (enterState { u with stp := { u.stp with stopPend := false } } .stopped) :=
    enterState_sameCommits ..
  exact (hsame.trans (henter s2)).trans (congrArg Stp.commits (endControl_stp ..))

theorem lockCause_sameCommits (s : State) : sameCommits s (lockCause s) := by
  unfold lockCause
  split
  · exact .refl s
  · split
    · exact .refl s
    · split
      · split
        · exact .refl s
        · exact (sendCctlAll_outward ..).sameCommits.trans (endAbandon_sameCommits ..)
      · split
        · exact .refl s
        · exact congrArg Stp.commits (sendCctl_outward ..).stp

theorem floodAbort_sameCommits (s : State) (cause : Nat) (step : W64) (tag : W32) (f : Option Nat) :
    sameCommits s (floodAbort s cause step tag f) := by
  obtain ⟨l, hflood⟩ := floodAbort_outward s cause step tag f
  rw [sameCommits, hflood.stp]

theorem enterAbort_sameCommits (s : State) (a : Attempt) (cause : BitVec 12) : sameCommits s (enterAbort s a cause) := by
  have hdiscard (u : State) : sameCommits u (discardIntake (discardQueues u)) := rfl
  unfold enterAbort
  refine sameCommits.trans ?_ (enterState_sameCommits ..)
  refine sameCommits.trans ?_ (hdiscard _)
  exact Eq.trans (floodAbort_sameCommits ..) rfl

theorem startAbort_sameCommits (cause : BitVec 12) (h : sameCommits s t) : sameCommits s (startAbort t cause) := by
  refine h.trans ?_
  unfold startAbort
  split
  · exact lockCause_sameCommits t
  · split
    · rfl
    · split
      · rfl
      · split
        · rfl
        · exact enterAbort_sameCommits ..

theorem foldl_sameCommits {ι κ : Type} {g : State × κ → ι → State × κ} (hg : ∀ a i, sameCommits s a.1 → sameCommits s (g a i).1)
    (l : List ι) {a : State × κ} (h : sameCommits s a.1) : sameCommits s (l.foldl g a).1 :=
  List.foldlRecOn (motive := fun b : State × κ => sameCommits s b.1) l g h fun _ h i _ => hg _ i h

/-! Progress of the collectives (R255–R271). -/

theorem sendMsg_sameCommits (c ord d x k dst b scale) (h : sameCommits s t) : sameCommits s (sendMsg t c ord d x k dst b scale).1 := by
  unfold sendMsg
  extract_lets parts id r
  have hr : sameCommits s r.1 := foldl_sameCommits (by exact fun _ _ h => h.trans (sendTxn_outward ..).sameCommits) _ h
  split
  · exact hr
  · exact startAbort_sameCommits _ hr

theorem sendFor_sameCommits (c run x k dst b scale) (h : sameCommits s t) : sameCommits s (sendFor t c run x k dst b scale).1 :=
  sendMsg_sameCommits _ _ _ _ _ _ _ _ h

theorem sendDown_sameCommits (c run x k b scale) (h : sameCommits s t) : sameCommits s (sendDown t c run x k b scale).1 :=
  foldl_sameCommits (fun a m => sendFor_sameCommits c a.2 x k m b scale) _ h

theorem deliverChunk_sameCommits (run lo v) (h : sameCommits s t) : sameCommits s (deliverChunk t run lo v).1 := by
  unfold deliverChunk
  split <;> exact h

theorem writeResidues_sameCommits (d lo p) (h : sameCommits s t) : sameCommits s (writeResidues t d lo p) := by
  unfold writeResidues
  split <;> exact h

theorem pumpUp_sameCommits (c x run k) (h : sameCommits s t) : sameCommits s (pumpUp t c x run k).1 := by
  grind [pumpUp, sendFor_sameCommits, writeResidues_sameCommits, sendDown_sameCommits, deliverChunk_sameCommits]

theorem pumpDown_sameCommits (c x run k) (h : sameCommits s t) : sameCommits s (pumpDown t c x run k).1 := by
  grind [pumpDown, sendDown_sameCommits, deliverChunk_sameCommits]

theorem pumpBytes_sameCommits (c x run k) (h : sameCommits s t) : sameCommits s (pumpBytes t c x run k).1 := by
  grind [pumpBytes, sendDown_sameCommits, wrMem_sameCommits]

theorem pumpRing_sameCommits (c x run) (h : sameCommits s t) : sameCommits s (pumpRing t c x run).1 := by
  grind [pumpRing, sendFor_sameCommits, updCore_sameCommits, wrMem_sameCommits]

theorem pumpRun_sameCommits (c run) (h : sameCommits s t) : sameCommits s (pumpRun t c run).1 := by
  unfold pumpRun
  split
  · exact h
  · split
    · exact pumpRing_sameCommits _ _ _ h
    · exact foldl_sameCommits (by grind [pumpUp_sameCommits, pumpDown_sameCommits, pumpBytes_sameCommits]) _ h

theorem pumpCore_sameCommits (c) (h : sameCommits s t) : sameCommits s (pumpCore t c) :=
  List.foldlRecOn (motive := sameCommits s) _ _ h fun _ h r _ => by grind [pumpRun_sameCommits, updCore_sameCommits]

theorem pumpAll_sameCommits (s : State) : sameCommits s (pumpAll s) :=
  List.foldlRecOn (motive := sameCommits s) _ _ (.refl s) fun _ h _ _ => pumpCore_sameCommits _ h

end Sys2Proof.Machine
end

section
/-! Verdict messages (R234, R235, R269), and an attempt that ends without a commit. -/
namespace Sys2Proof.Machine
open Sys2Proof Sys2Proof.Safety

variable {s t u : State} {a : Attempt} {txn : Txn} {cause : BitVec 12}

/-! Bytes outside a write, in a memory of any form. -/

theorem smGet_smDel_other {α : Type} (d : α) (m : SMap α) {j k : Nat} (h : j ≠ k) : smGet d (smDel m k) j = smGet d m j := by
  induction m with
  | nil => rfl
  | cons p m ih =>
    obtain ⟨i, v⟩ := p
    unfold smDel
    split
    · next hi => exact (if_neg fun hj => h (hj.symm.trans hi)).symm
    · unfold smGet
      rw [ih]

theorem smGet_smSet_other {α : Type} [DecidableEq α] (d v : α) (m : SMap α) {j k : Nat} (h : j ≠ k) :
    smGet d (smSet d m k v) j = smGet d m j := by
  unfold smSet
  split
  · exact smGet_smDel_other d m h
  · rw [smGet_smIns, if_neg h]

theorem smGet_wr_outside {m : SMap Byte} (a j : Nat) (bs : Bytes) (h : j < a ∨ a + bs.length ≤ j) :
    smGet 0 (wr m a bs) j = smGet 0 m j := by
  unfold wr
  induction bs generalizing m a with
  | nil => rfl
  | cons b bs ih =>
    rw [List.length_cons] at h
    rw [wrD, ih (a + 1) (by omega), smGet_smSet_other _ _ _ (by omega)]

/-- A write changes no byte outside its range. -/
theorem sameOutside_of_wr {a : Nat} {bs : Bytes} (h : t.mem = wr s.mem a bs) : sameOutside s t [(a, bs.length)] := by
  intro x hx
  have hget := smGet_wr_outside (m := s.mem) a x bs (hx _ List.mem_cons_self)
  simpa [rdMem, rd, rdD, h] using hget

theorem statsRecord_length (s : State) (a : Attempt) (verdict : Nat) (cause : BitVec 12) :
    (statsRecord s a verdict cause).length = 128 := by
  simp [statsRecord, le64, Function.comp_def]

/-! The end without a commit (R235). -/

/-- From `s` to `t` the attempt has ended with no commit, under a plan's policy and with a cause. -/
structure EndedWithout (s t : State) (p : Plan) (cause : BitVec 12) : Prop where
  bank : t.stp.bank = s.stp.bank
  c : t.stp.c = s.stp.c
  a : t.stp.a = s.stp.a + 1
  att : t.stp.att = none
  skips : t.stp.skips = satInc32 s.stp.skips
  running : t.ctl.running = none
  last : t.stp.last = BitVec.ofNat 32 ((if p.policy.skip then 2 else 3) * 2 ^ 24 + cause.toNat)
  state : t.stp.state = if p.policy.skip && !s.stp.stopPend then .idle else .stopped
  mem : sameOutside s t [(p.policy.statsAddr, 128)]

theorem EndedWithout.outward {p : Plan} (h : EndedWithout s t p cause) (k : Outward t u) : EndedWithout s u p cause := by
  obtain ⟨hbank, hc, ha, hatt, hskips, hrun, hlast, hst, hmem⟩ := h
  refine ⟨?_, ?_, ?_, ?_, ?_, by rw [k.ctl, hrun], ?_, ?_, hmem.congr rfl k.mem⟩ <;> rw [k.stp] <;> assumption

/-- The step machine past an attempt that ended with no commit: on under `skip`, else in stopped. -/
def endedWithout (s : State) (a : Attempt) (skip : Bool) : State :=
  endControl (if skip then settleState s .idle else enterState { s with stp := { s.stp with stopPend := false } } .stopped) a.job 0
    (if skip then 0x4101 else 0x4102)

theorem endedWithout_eq {skip : Bool} (h : s.stp.state ≠ .suspended) : endedWithout s a skip =
    endControl { s with stp := { s.stp with state := if skip && !s.stp.stopPend then .idle else .stopped, stopPend := false } }
      a.job 0 (if skip then 0x4101 else 0x4102) := by
  unfold endedWithout
  cases skip with
  | true =>
    rw [if_pos rfl, settleState_eq h]
    cases s.stp.stopPend <;> rfl
  | false =>
    have henter := enterState_eq (s := { s with stp := { s.stp with stopPend := false } }) (x := .stopped) h
    rw [if_neg Bool.false_ne_true, henter]
    rfl

theorem noCommit_ends {p : Plan} (hr : s.hold.replay = none) (hs : s.stp.state ≠ .suspended) (hp : curPlan s = some p) :
    EndedWithout s (noCommit s a cause) p (cause ||| a.held) := by
  obtain ⟨m, t, hclose, hout⟩ := closeAttempt_closes (a := a) (verdict := if p.policy.skip then verSkipped else verStopped)
    (cause := cause ||| a.held) (tally := zeroBytes 16) hr
  have hmem : t.mem = wr s.mem p.policy.statsAddr (statsRecord s a (if p.policy.skip then verSkipped else verStopped) (cause ||| a.held)) := by
    rw [hout.mem]
    simp [closedState, statsMem, hp]
  have hsame : sameOutside s t [(p.policy.statsAddr, 128)] := by
    simpa [statsRecord_length] using sameOutside_of_wr hmem
  have hraise := raise_outward { t with stp := { t.stp with skips := satInc32 t.stp.skips } }
    (if p.policy.skip then 0x4101 else 0x4102) srcDevice []
  have hno : noCommit s a cause = endedWithout (raise { t with stp := { t.stp with skips := satInc32 t.stp.skips } }
      (if p.policy.skip then 0x4101 else 0x4102) srcDevice []) a p.policy.skip := by
    unfold noCommit endedWithout
    rw [hp]
    simp only [Option.map_some, Option.getD_some, hclose, Bool.not_false, Bool.and_true]
  rw [hno]
  generalize raise _ _ _ _ = u at hraise
  have hstp : u.stp = { t.stp with skips := satInc32 t.stp.skips } := hraise.stp
  have hrun : u.stp.state ≠ .suspended := by
    rw [hstp, hout.stp]
    exact hs
  rw [endedWithout_eq hrun, hstp, hout.stp]
  exact ⟨by simp [closedState], by simp [closedState], by simp [closedState], by simp [closedState], by simp [closedState],
    by simp [endControl], by cases p.policy.skip <;> simp [closedState, verSkipped, verStopped],
    by simp [closedState], hsame.congr rfl (by rw [endControl_mem]; exact hraise.mem)⟩

/-! The verdict (R234). -/

theorem sendJob_nobody (s : State) (kind cause : Nat) (step : W64) (tag : W32) (data : Nat) :
    sendJob s kind cause step tag data [] = s := rfl

theorem takeVerdictUp_again (ha : s.stp.att = none) (h : s.stp.ended.upFrom.contains (ccMember txn) = true) :
    takeVerdictUp s txn = sequenceFault s := by
  rw [takeVerdictUp, ha]
  dsimp only
  rw [h, Bool.or_true]
  rfl

theorem takeVerdictDown_again (ha : s.stp.att = none) (h : s.stp.ended.down = true) :
    takeVerdictDown s txn = sequenceFault s := by
  rw [takeVerdictDown, ha]
  dsimp only
  rw [h, Bool.or_true]
  rfl

/-- Before the reduction a child's VERDICT_UP is recorded, and nothing is told yet. -/
theorem takeVerdictUp_records (ha : s.stp.att = some a) (hnew : a.upFrom.contains (ccMember txn) = false)
    (hkid : (jobKids s).contains (ccMember txn) = true) (hred : a.reduced = false) : takeVerdictUp s txn =
      setAtt s { a with upFrom := a.upFrom ++ [ccMember txn], lossOr := a.lossOr || bitOf (ccData txn) 0 == 1 } := by
  rw [takeVerdictUp, ha]
  dsimp only
  rw [hnew, hkid]
  simp [tryVerdictUp, setAtt, hred]

/-- The parent's VERDICT_DOWN makes the job's latch known; without children nothing is forwarded. -/
theorem takeVerdictDown_decides (ha : s.stp.att = some a) (hpar : jobParent s = some (ccMember txn)) (hl : a.jobLoss = none)
    (hk : jobKids s = []) : takeVerdictDown s txn =
      decideVerdict (setAtt s { a with jobLoss := some (bitOf (ccData txn) 0 == 1) }) := by
  rw [takeVerdictDown, ha]
  dsimp only
  rw [hpar, hl, hk, List.map_nil, sendJob_nobody]
  simp

/-- With the norm at hand the job's latch decides. -/
theorem decideVerdict_decides {n : W64 × W64} {bad : Bool} {p : Plan} (ha : s.stp.att = some a) (hst : s.stp.state = .normCheck)
    (hv : a.verdict = none) (hn : a.norm = some n) (hl : a.jobLoss = some bad) (hp : curPlan s = some p) : decideVerdict s =
      match verdictOf bad (dwordVal n.1 n.2) (decode .fp32 p.policy.normLimit.toNat) with
      | .commit => setAtt s { a with verdict := some .commit }
      | .noCommit c => noCommit (setAtt s { a with verdict := some (.noCommit c) }) { a with verdict := some (.noCommit c) } c := by
  rw [decideVerdict, ha]
  cases hd : verdictOf bad (dwordVal n.1 n.2) (decode .fp32 p.policy.normLimit.toNat) with
  | commit => simp [suspended, hst, hv, hn, hl, hp, hd]
  | noCommit c => simp [suspended, hst, hv, hn, hl, hp, hd]

theorem decideVerdict_waits (ha : s.stp.att = some a) (hst : s.stp.state ≠ .normCheck) : decideVerdict s = s := by
  rw [decideVerdict, ha]
  simp [hst]

/-- R234 in the words of its cases. -/
theorem verdictOf_eq (bit : Nat) (g l : Machine.Num) : verdictOf (bit == 1) g l =
    if bit = 1 then .noCommit 1 else if isNan g || isInf g then .noCommit 2
    else if numLt (numMul l l).1 g then .noCommit 4 else .commit := by
  unfold verdictOf
  by_cases h : bit = 1 <;> simp [h, cLoss, cGrad, cOverlimit]

theorem verdictUp_now (htag : ccTag txn = s.stp.curTag) (he : epochOk s txn.epoch = true) :
    exec (.verdictUp txn) s = .next (sendCompl (takeVerdictUp (takeLanded s txn) txn) txn 0) :=
  congrArg Host.Outcome.next (recvTagged_now htag he)

theorem verdictDown_now (htag : ccTag txn = s.stp.curTag) (he : epochOk s txn.epoch = true) :
    exec (.verdictDown txn) s = .next (sendCompl (takeVerdictDown (takeLanded s txn) txn) txn 0) :=
  congrArg Host.Outcome.next (recvTagged_now htag he)

/-- The state with a commit notice taken. -/
def noticeTaken (s : State) (t : Txn) : State :=
  { takeLanded s t with stp := { s.stp with commits := smSet 0 s.stp.commits t.src.toNat (ccStep t) } }

/-- A commit notice is noted, and stays noted. -/
theorem recvCommit_notes (he : epochOk s txn.epoch = true) :
    (recvCommit s txn).stp.commits = smSet 0 s.stp.commits txn.src.toNat (ccStep txn) := by
  have hok : epochOk (takeLanded s txn) txn.epoch = true := he
  have hrecv : recvCommit s txn = pumpAll (sendCompl (noticeTaken s txn) txn 0) := by
    unfold recvCommit
    dsimp only
    rw [hok]
    rfl
  have hpump := pumpAll_sameCommits (sendCompl (noticeTaken s txn) txn 0)
  rw [sameCommits, (sendCompl_outward (noticeTaken s txn) txn 0).stp] at hpump
  rw [hrecv, hpump]
  simp only [noticeTaken]

/-- Settles O37: a message by its tag, and the verdict by the latch and the norm. -/
theorem verdictMessagesByAttempt : Obligations.VerdictMessagesByAttempt := by
  refine ⟨fun s txn he => ⟨_, rfl, recvCommit_notes he⟩,
    fun s txn h => ⟨congrArg Host.Outcome.next (recvTagged_old h), congrArg Host.Outcome.next (recvTagged_old h)⟩,
    fun s txn htag _ he ha => ⟨fun h => ?upAgain, fun h => ?downAgain⟩,
    fun s txn h => ⟨congrArg Host.Outcome.next (recvTagged_later h), congrArg Host.Outcome.next (recvTagged_later h)⟩,
    fun s txn a htag he ha => ⟨fun hnew hkid hred => ?up, ?decides, fun hpar hl hk hst => ?latch⟩⟩
  case upAgain => rw [verdictUp_now htag he, takeVerdictUp_again (s := takeLanded s txn) ha h]
  case downAgain => rw [verdictDown_now htag he, takeVerdictDown_again (s := takeLanded s txn) ha h]
  case up => rw [verdictUp_now htag he, takeVerdictUp_records (s := takeLanded s txn) ha hnew hkid hred]
  case decides =>
    rintro n p _ _ v hpar hl hk hst hn hv hr hp rfl rfl hverdict
    have hexec := verdictDown_now htag he
    rw [takeVerdictDown_decides (s := takeLanded s txn) ha hpar hl hk,
      decideVerdict_decides (s := setAtt (takeLanded s txn) { a with jobLoss := some (bitOf (ccData txn) 0 == 1) })
        (a := { a with jobLoss := some (bitOf (ccData txn) 0 == 1) }) rfl hst hv hn rfl hp, verdictOf_eq, hverdict] at hexec
    refine ⟨fun hcommit => ?_, fun k hk => ?_⟩
    · rw [hexec, hcommit]
      rfl
    · rw [hk] at hexec
      obtain ⟨hbank, hc, hA, hatt, hskips, hrun, hlast, hstate, hmem⟩ := (noCommit_ends (s := setAtt (takeLanded s txn)
        { a with jobLoss := some (bitOf (ccData txn) 0 == 1), verdict := some (.noCommit k) })
        (a := { a with jobLoss := some (bitOf (ccData txn) 0 == 1), verdict := some (.noCommit k) }) (cause := k) hr
        (by rw [setAtt]; simp [takeLanded, hst]) hp).outward (sendCompl_outward _ txn 0)
      exact ⟨_, hexec, hbank, hc, hA, hatt, hskips, hrun, hlast, hstate, hmem⟩
  case latch =>
    rw [verdictDown_now htag he, takeVerdictDown_decides (s := takeLanded s txn) ha hpar hl hk,
      decideVerdict_waits (s := setAtt (takeLanded s txn) { a with jobLoss := some (bitOf (ccData txn) 0 == 1) }) rfl
        (by rw [setAtt]; simp [takeLanded, hst])]

end Sys2Proof.Machine
end

section
/-! The end of a collective (R232, R263, R271). -/
namespace Sys2Proof.Machine
open Sys2Proof Sys2Proof.Safety

variable {s u : State} {c : CoreId} {r : ColRun} {a : Attempt}

/-! What a record and a signal leave of the step machine. -/

theorem finalRecord_keeps {α : Type} (f : State → α) (hraise : ∀ s code src p, f (raise s code src p) = f s)
    (hcore : ∀ s c x, f (setCore s c x) = f s) (s : State) (c : CoreId) (r : ExcRec) (addr : Nat) :
    f (finalRecord s c r addr) = f s := by
  unfold finalRecord
  extract_lets s1 fl conds
  refine (foldl_keeps (f := f) (fun s k => ?_) conds s1).trans (hcore ..)
  dsimp only
  split
  · rw [hraise, hcore]
  · rfl

theorem finalRecord_stp (s : State) (c : CoreId) (r : ExcRec) (addr : Nat) : (finalRecord s c r addr).stp = s.stp :=
  finalRecord_keeps State.stp raise_stp (fun _ _ _ => rfl) s c r addr

theorem signalField_stp (s : State) (c : CoreId) (f : Nat) : (signalField s c f).stp = s.stp := by
  unfold signalField
  split
  · rfl
  · unfold signalCtr
    dsimp only
    split
    · exact raise_stp ..
    · rfl

theorem endJob_frame (s : State) (j : StageJob) : ∃ p, endJob s j = { s with stp := p } ∧ p.state = s.stp.state := by
  unfold endJob
  split
  · exact ⟨_, rfl, rfl⟩
  · exact ⟨s.stp, rfl, rfl⟩

theorem endJob_norm {own out : Bytes} (ha : s.stp.att = some a) : endJob s (.norm own out) =
    { s with stp := { s.stp with att := some { a with norm := some (storeDword (deepOf out)).1 }, normHi := (storeDword (deepOf out)).1.1 } } := by
  unfold endJob
  rw [ha]

/-- Outside the norm check the stages after the runs go nowhere. -/
theorem stageNext_waits (h : s.stp.state ≠ .normCheck) : stageNext s = s := by
  unfold stageNext
  split
  · rfl
  · simp [h]

theorem pumpCore_nothing (h : (getCore s c).cols = []) : pumpCore s c = s := by
  rw [pumpCore, h, List.foldl_nil]

/-! The collective that leaves. -/

/-- The record of a completed collective. -/
def colRecord (u : State) (r : ColRun) : ExcRec := { r.exc with terms := kTerms u r, leaf := List.replicate 8 0xFFFF }

/-- Whether a message belongs to the run of a collective. -/
def ofInstance (u : State) (r : ColRun) (g : Msg) : Bool :=
  g.attempt == u.stp.curTag && g.sched == kSched r.desc && g.seq == kSeq r.desc

/-- The core that a completed collective leaves. -/
def colLeft (u : State) (c : CoreId) (k : Nat) (r : ColRun) : Core :=
  { getCore u c with cols := dropAt (getCore u c).cols k, recv := (getCore u c).recv.filter (! ofInstance u r ·),
                     doneCols := (kSched r.desc, kSeq r.desc) :: (getCore u c).doneCols }

/-- The completion of a collective once its messages are taken. -/
def colCompleted (u : State) (c : CoreId) (k : Nat) (r : ColRun) : State :=
  match r.job with
  | none => signalField (finalRecord (wrMem (setCore u c (colLeft u c k r)) (kExc r.desc) (excBytes (colRecord u r))) c
      (colRecord u r) (kExc r.desc)) c (kSig r.desc)
  | some j => endJob (finalRecord (bumpFresh (setCore u c (colLeft u c k r))) c (colRecord u r) (Config.programRecord u.fresh)) j

theorem completeCol_eq {k : Nat} (hu : pumpCore s c = u) (hr : (getCore u c).cols[k]? = some r) (hd : kDone u r = true)
    (hm : kDelivered u r = true) (hs : u.stp.state ≠ .suspended) (hb : u.stp.state ≠ .aborting)
    (ho : opStalled u c r.ord = false) : completeCol s c k = colCompleted u c k r := by
  subst hu
  have hgo : (suspended (pumpCore s c) || opStalled (pumpCore s c) c r.ord || (pumpCore s c).stp.state == .aborting ||
      !kDone (pumpCore s c) r || !kDelivered (pumpCore s c) r) = false := by
    simp [suspended, hs, hb, ho, hd, hm]
  unfold completeCol
  dsimp only
  rw [hr]
  dsimp only
  rw [hgo]
  rfl

theorem colCompleted_state (u : State) (c : CoreId) (k : Nat) (r : ColRun) : (colCompleted u c k r).stp.state = u.stp.state := by
  unfold colCompleted
  split
  · rw [signalField_stp, finalRecord_stp]
    rfl
  · next j _ =>
    obtain ⟨p, hp, hst⟩ := endJob_frame (finalRecord (bumpFresh (setCore u c (colLeft u c k r))) c (colRecord u r)
      (Config.programRecord u.fresh)) j
    rw [hp]
    dsimp only
    rw [hst, finalRecord_stp]
    rfl

/-- The core of a completed collective: what it leaves, the statistics, and the signal of a descriptor's own. -/
theorem getCore_colCompleted (hu : canonical u) (k : Nat) (r : ColRun) : ∃ st fl ra, getCore (colCompleted u c k r) c =
    { colLeft u c k r with stat := st, flagged := fl, raised := ra, ctr := match r.job with
        | none => signalled (getCore u c).ctr (kSig r.desc)
        | some _ => (getCore u c).ctr } := by
  have hput {t : State} (ht : canonical t) (x : Core) : getCore (setCore t c x) c = x :=
    (getCore_setCore_wf t c c x (canonical_cores ht)).trans (if_pos rfl)
  have hset : canonical (setCore u c (colLeft u c k r)) := setCore_canonical _ _ hu
  have hleft := hput hu (colLeft u c k r)
  unfold colCompleted
  split
  · have hw := wrMem_canonical (kExc r.desc) (excBytes (colRecord u r)) hset
    obtain ⟨st, fl, ra, hrec⟩ := getCore_finalRecord (c := c) hw (colRecord u r) (kExc r.desc)
    rw [show getCore (wrMem (setCore u c (colLeft u c k r)) (kExc r.desc) (excBytes (colRecord u r))) c = colLeft u c k r from hleft] at hrec
    rw [getCore_signalField _ fun m => hput (finalRecord_canonical _ _ _ hw) _, hrec]
    exact ⟨st, fl, ra, rfl⟩
  · next j _ =>
    have hw : canonical (bumpFresh (setCore u c (colLeft u c k r))) := bumpFresh_canonical hset
    obtain ⟨st, fl, ra, hrec⟩ := getCore_finalRecord (c := c) hw (colRecord u r) (Config.programRecord u.fresh)
    rw [show getCore (bumpFresh (setCore u c (colLeft u c k r))) c = colLeft u c k r from hleft] at hrec
    obtain ⟨p, hp, -⟩ := endJob_frame (finalRecord (bumpFresh (setCore u c (colLeft u c k r))) c (colRecord u r)
      (Config.programRecord u.fresh)) j
    rw [hp]
    exact ⟨st, fl, ra, hrec⟩

/-- A descriptor's own collective: the step state stays, and its record is all that memory gains. -/
theorem colCompleted_own (hu : canonical u) (k : Nat) (hj : r.job = none) : (colCompleted u c k r).stp = u.stp ∧
    (colCompleted u c k r).mem = (wrMem u (kExc r.desc) (excBytes (colRecord u r))).mem := by
  have hw := wrMem_canonical (kExc r.desc) (excBytes (colRecord u r)) (setCore_canonical c (colLeft u c k r) hu)
  unfold colCompleted
  rw [hj]
  dsimp only
  rw [signalField_stp, finalRecord_stp, signalField_mem, (finalRecord_sameWork hw _ _).mem]
  exact ⟨rfl, rfl⟩

/-- The norm's own run leaves the root. -/
theorem colCompleted_norm {own out : Bytes} (hu : canonical u) (k : Nat) (hj : r.job = some (.norm own out)) (ha : u.stp.att = some a) :
    (colCompleted u c k r).mem = u.mem ∧ (colCompleted u c k r).stp = { u.stp with
      att := some { a with norm := some (storeDword (deepOf out)).1 }, normHi := (storeDword (deepOf out)).1.1 } := by
  have hw : canonical (bumpFresh (setCore u c (colLeft u c k r))) := bumpFresh_canonical (setCore_canonical _ _ hu)
  have hstp := finalRecord_stp (bumpFresh (setCore u c (colLeft u c k r))) c (colRecord u r) (Config.programRecord u.fresh)
  have hmem := (finalRecord_sameWork (c := c) hw (colRecord u r) (Config.programRecord u.fresh)).mem
  unfold colCompleted
  rw [hj]
  dsimp only
  rw [endJob_norm (by rw [hstp]; exact ha)]
  exact ⟨hmem, by rw [hstp]; rfl⟩

/-- Settles O20: the collective leaves its core, and a descriptor's own signals; a credit is kept before the collectives go on. -/
theorem collectiveCompleteLeaves : Obligations.CollectiveCompleteLeaves := by
  refine ⟨?completes, ?credit⟩
  case completes =>
    rintro s u c k r _ hu hr hd hm hs hb ho hcan rfl
    have hcanu : canonical u := hu ▸ pumpCore_canonical c hcan
    have hexec : exec (.collectiveComplete c k) s = .next (stageNext (colCompleted u c k.val r)) :=
      congrArg (fun t => Host.Outcome.next (stageNext t)) (completeCol_eq hu hr hd hm hs hb ho)
    obtain ⟨st, fl, ra, hcore⟩ := getCore_colCompleted (c := c) hcanu k.val r
    refine ⟨_, hexec, fun hst => ?_, ?_, ?_, fun g hg => ?_, fun hj => ?_, fun own out a hj ha => ?_⟩
    · rw [hexec, stageNext_waits (by rw [colCompleted_state]; exact hst)]
    · rw [hcore]
      rfl
    · rw [hcore]
      exact List.mem_cons_self
    · rw [hcore] at hg
      have hout := (List.mem_filter.1 hg).2
      rintro ⟨ha, hb, hc⟩
      simp [ofInstance, ha, hb, hc] at hout
    · obtain ⟨hstp, hmem⟩ := colCompleted_own (c := c) hcanu k.val hj
      have hctr : (getCore (colCompleted u c k.val r) c).ctr = signalled (getCore u c).ctr (kSig r.desc) := by
        rw [hcore, hj]
      have hread := rdMem_wrMem u (kExc r.desc) (excBytes (colRecord u r)) (canonical_mem hcanu)
      refine ⟨hstp, (sameOutside.wrMem u _ _ (canonical_mem hcanu)).congr rfl hmem, ?_, fun hsig => ?_, fun hsig hlt => ?_⟩
      · rw [rdMem, hmem]
        exact hread
      · rw [hctr, hsig, signalled_none]
      · rw [hctr, smGet_signalled hsig hlt]
    · obtain ⟨hmem, hstp⟩ := colCompleted_norm (c := c) hcanu k.val hj ha
      rw [hstp]
      exact ⟨hmem, rfl, rfl⟩
  case credit =>
    rintro s c x sched round seq rfl
    refine ⟨rfl, fun hcols => ?_⟩
    have hne : ({ getCore s c with credits := (getCore s c).credits ++ [(sched.toNat, round.toNat, seq.toNat)] } : Core) ≠ Core.init := by
      intro h
      have := congrArg Core.credits h
      simp [Core.init] at this
    have hexec : exec (.ringCredit c sched round seq) s = .next (pumpCore (setCore s c { getCore s c with
        credits := (getCore s c).credits ++ [(sched.toNat, round.toNat, seq.toNat)] }) c) := rfl
    rw [hexec, pumpCore_nothing (by rw [getCore_setCore _ _ _ hne]; exact hcols)]

end Sys2Proof.Machine
end

section
/-! The replica reduction (R228, R231, R232). -/
namespace Sys2Proof.Machine
open Sys2Proof Sys2Proof.Safety

variable {s w : State} {a b : Attempt} {r : GradRegion} {rs : List GradRegion}

/-! A program's own record (R126), and what it leaves. -/

theorem programFinal_keeps {α : Type} (f : State → α) (hraise : ∀ s code src p, f (raise s code src p) = f s)
    (hcore : ∀ s c x, f (setCore s c x) = f s) (hfresh : ∀ s, f (bumpFresh s) = f s) (s : State) (c : CoreId) (e : ExcRec) :
    f (programFinal s c e) = f s := (finalRecord_keeps f hraise hcore ..).trans (hfresh s)

theorem programFinal_mem (s : State) (c : CoreId) (e : ExcRec) : (programFinal s c e).mem = s.mem :=
  programFinal_keeps State.mem raise_mem (fun _ _ _ => rfl) (fun _ => rfl) s c e

theorem programFinal_stp (s : State) (c : CoreId) (e : ExcRec) : (programFinal s c e).stp = s.stp :=
  programFinal_keeps State.stp raise_stp (fun _ _ _ => rfl) (fun _ => rfl) s c e

theorem programFinal_kCtx (s : State) (c : CoreId) (e : ExcRec) (n : Nat) : kCtx (programFinal s c e) n = kCtx s n :=
  programFinal_keeps (kCtx · n) (fun _ _ _ _ => (raise_outward ..).keeps (kCtx · n) fun _ => rfl) (fun _ _ _ => rfl) (fun _ => rfl) s c e

theorem programFinal_layout (s : State) (c : CoreId) (e : ExcRec) : curLayout (programFinal s c e) = curLayout s :=
  programFinal_keeps curLayout (fun _ _ _ _ => (raise_outward ..).keeps curLayout fun _ => rfl) (fun _ _ _ => rfl) (fun _ => rfl) s c e

/-! The gradients of a region (R231). -/

/-- The FP32 gradient of a region: each element the single rounding of its entry. -/
def gradBytes (s : State) (r : GradRegion) : Bytes :=
  ((List.range r.elems).map fun i => toLe 4 (toFp32 (op32 (deepOf (rdMem s (r.acc.toNat + 16 * i) 16), false)
    [deepOf (rdMem s (r.acc.toNat + 16 * i) 16)]).1)).flatten

theorem gradBytes_length (s : State) (r : GradRegion) : (gradBytes s r).length = 4 * r.elems := by
  rw [gradBytes, length_flatten_of_forall (n := 4) (by simp)]
  simp [Nat.mul_comm]

theorem finalise_eq (s : State) (r : GradRegion) : ∃ e, finalise s r = programFinal (wrMem s r.grad.toNat (gradBytes s r)) r.core e := by
  unfold finalise
  extract_lets g
  have hg : g.1 = gradBytes s r := foldl_flatten (p := Prod.fst) (by exact fun _ _ => rfl) (List.range r.elems) rfl
  exact ⟨g.2, by rw [hg]⟩

/-! The norm of the device (R232) is a matter of device memory. -/

theorem deviceNorm_congr (h : w.mem = s.mem) (rs : List GradRegion) : deviceNorm w rs = deviceNorm s rs := by
  have hread : rdElem w = rdElem s := by
    funext a n
    rw [rdElem, rdElem, rdMem, rdMem, h]
  have hcore : coreNorm w = coreNorm s := by
    unfold coreNorm
    rw [hread]
  unfold deviceNorm
  rw [hcore]

/-! The verdict that goes up the job tree (R269). -/

theorem setAtt_self (ha : s.stp.att = some a) : setAtt s a = s := by
  rw [setAtt, ← ha]

theorem sendTxn_routable {rail : Nat} {x : Txn} {why : SentFor} (h : routable s x.dst.toNat = true) (ht : traceReplay s = false) :
    (sendTxn s rail x why).2.isSome = true := by
  simp [sendTxn, ht, h]

theorem sendCctl_routable {kind cause data dst : Nat} {step : W64} {tag : W32} (h : routable s (BitVec.ofNat 18 dst).toNat = true) :
    (sendCctl s kind cause step tag data dst).2 = true := by
  unfold sendCctl
  cases ht : traceReplay s with
  | true => exact Bool.or_true _
  | false => exact Bool.or_eq_true_iff.2 (.inl (sendTxn_routable h ht))

theorem sendJob_routable {kind cause data dst : Nat} {step : W64} {tag : W32} (h : routable s (BitVec.ofNat 18 dst).toNat = true) :
    Outward s (sendJob s kind cause step tag data [dst]) := by
  have hsent : (sendCctlAll s kind cause step tag data [dst]).2 = true := sendCctl_routable h
  unfold sendJob
  dsimp only
  rw [hsent]
  exact sendCctlAll_outward ..

/-- Whether its latch goes up the tree or waits for a child's, a member notes no more than its own latch. -/
theorem tryVerdictUp_notes (ha : s.stp.att = some a) (h : (jobKids s).all a.upFrom.contains = false ∨
    ∃ p, jobParent s = some p ∧ routable s (BitVec.ofNat 18 (jobMemberId s p)).toNat = true) :
    ∃ x y, Outward (setAtt s { a with lossOr := x, upSent := y }) (tryVerdictUp s) := by
  unfold tryVerdictUp
  rw [ha]
  dsimp only
  split
  · exact ⟨a.lossOr, a.upSent, by rw [setAtt_self ha]; exact .refl s⟩
  · next hgo =>
    obtain hwait | ⟨p, hp, hroute⟩ := h
    · rw [hwait] at hgo
      simp at hgo
    · rw [hp]
      exact ⟨_, _, sendJob_routable hroute⟩

/-! The stages after the runs. -/

theorem startJobs_nothing (ha : s.stp.att = some a) (ht : a.todo = []) : startJobs s a = s := by
  have hatt : { a with todo := [] } = a := by rw [← ht]
  simp only [startJobs, ht, List.foldl_nil, ha]
  rw [hatt, setAtt_self ha]

theorem stageNext_finalises (ha : s.stp.att = some a) (hst : s.stp.state = .normCheck) (ht : a.todo = []) (hf : a.finalised = false)
    (hj : jobsRun s = false) : stageNext s = decideVerdict (startNorm s a) := by
  rw [stageNext, ha]
  dsimp only
  rw [startJobs_nothing ha ht, ha]
  simp [suspended, hst, hf, ht, hj]

/-- Without the job's latch there is no verdict. -/
theorem decideVerdict_noLatch (ha : s.stp.att = some a) (hl : a.jobLoss = none) : decideVerdict s = s := by
  rw [decideVerdict, ha]
  simp [hl]

/-- The state with the device's part of the norm found: the gradients are written, and a merge counts its record. -/
def normFound (s : State) (rs : List GradRegion) : State :=
  match (deviceNorm (rs.foldl finalise s) rs).2 with
  | some e => programFinal (rs.foldl finalise s) (normCore (rs.foldl finalise s)) e
  | none => rs.foldl finalise s

theorem normFound_keeps {α : Type} (f : State → α) (h : ∀ s c e, f (programFinal s c e) = f s) (s : State) (rs : List GradRegion) :
    f (normFound s rs) = f (rs.foldl finalise s) := by
  unfold normFound
  split
  · exact h ..
  · rfl

/-- The root of a device alone in its norm group. -/
def normRoot (s : State) (rs : List GradRegion) : W64 × W64 :=
  (storeDword (deepOf (deepBytes (storeDword (deviceNorm (rs.foldl finalise s) rs).1).1))).1

/-- The state of a device alone in its norm group with a root held. -/
def rootHeld (s : State) (a : Attempt) (n : W64 × W64) : State :=
  { s with stp := { s.stp with att := some { a with finalised := true, norm := some n }, normHi := n.1 } }

/-- A device alone in its norm group holds the root. -/
theorem startNorm_alone (h : ∀ k, kCtx (normFound s a.grads) (((curLayout s).map fun l => l.normSched).getD 0) = some k →
    k.size = 1) : startNorm s a = rootHeld (normFound s a.grads) a (normRoot s a.grads) := by
  have hstart : startNorm s a = endJob (setAtt (normFound s a.grads) { a with finalised := true })
      (.norm (deepBytes (storeDword (deviceNorm (a.grads.foldl finalise s) a.grads).1).1)
        (deepBytes (storeDword (deviceNorm (a.grads.foldl finalise s) a.grads).1).1)) := by
    unfold normFound at h
    unfold startNorm normFound
    dsimp only at h ⊢
    generalize deviceNorm _ _ = d at h ⊢
    obtain ⟨own, exc⟩ := d
    cases exc
    all_goals
      dsimp only at h ⊢
      split
      · next x hx => exact if_pos (h x hx)
      · rfl
  rw [hstart, endJob_norm (s := setAtt (normFound s a.grads) { a with finalised := true }) (a := { a with finalised := true }) rfl]
  unfold rootHeld normRoot setAtt
  dsimp only

theorem finalise_keeps {α : Type} (f : State → α) (hprog : ∀ s c e, f (programFinal s c e) = f s) (hwr : ∀ s x l, f (wrMem s x l) = f s)
    (s : State) (r : GradRegion) : f (finalise s r) = f s := by
  obtain ⟨e, he⟩ := finalise_eq s r
  rw [he, hprog, hwr]

/-- No stage job runs where no collective does. -/
theorem jobsRun_false (h : ∀ p ∈ s.cores, p.2.cols = []) : jobsRun s = false :=
  List.any_eq_false.2 fun p hp => by simp [h p hp]

theorem cols_of_runsDone (h : runsDone s a = true) : ∀ p ∈ s.cores, p.2.cols = [] := by
  intro p hp
  simp only [runsDone, Bool.and_eq_true, List.all_eq_true] at h
  obtain ⟨⟨-, hcols⟩, -⟩ := h.2 p hp
  exact List.isEmpty_iff.1 hcols

/-- The stages of a device alone in its groups: the gradient is written, the root is held, and the verdict waits. -/
theorem stageNext_alone (ha : s.stp.att = some a) (hst : s.stp.state = .normCheck) (hg : a.grads = [r]) (ht : a.todo = [])
    (hf : a.finalised = false) (hl : a.jobLoss = none) (hj : jobsRun s = false)
    (h : ∀ k, kCtx s (((curLayout s).map fun l => l.normSched).getD 0) = some k → k.size = 1) :
    stageNext s = rootHeld (normFound s [r]) a (normRoot s [r]) := by
  have hctx (n : Nat) : kCtx (normFound s a.grads) n = kCtx s n := by
    rw [hg, normFound_keeps (kCtx · n) (programFinal_kCtx · · · n)]
    exact finalise_keeps (kCtx · n) (programFinal_kCtx · · · n) (fun _ _ _ => rfl) s r
  rw [stageNext_finalises ha hst ht hf hj, startNorm_alone (by rw [hctx]; exact h), hg]
  exact decideVerdict_noLatch (a := { a with finalised := true, norm := some (normRoot s [r]) }) rfl hl

/-- Memory past the norm of one region: its gradient is all that is written. -/
theorem normFound_mem (s : State) (r : GradRegion) : (normFound s [r]).mem = (wrMem s r.grad.toNat (gradBytes s r)).mem := by
  obtain ⟨e, he⟩ := finalise_eq s r
  rw [normFound_keeps State.mem programFinal_mem, List.foldl_cons, List.foldl_nil, he, programFinal_mem]

theorem normFound_stp (s : State) (r : GradRegion) : (normFound s [r]).stp = s.stp :=
  (normFound_keeps State.stp programFinal_stp s [r]).trans (finalise_keeps State.stp programFinal_stp (fun _ _ _ => rfl) s r)

/-- The root is that of the gradients as memory then holds them. -/
theorem normRoot_eq (h : w.mem = (normFound s [r]).mem) :
    normRoot s [r] = (storeDword (deepOf (deepBytes (storeDword (deviceNorm w [r]).1).1))).1 := by
  have hmem : w.mem = ([r].foldl finalise s).mem := h.trans (normFound_keeps State.mem programFinal_mem s [r])
  rw [deviceNorm_congr hmem]
  rfl

/-- The attempt and the state at the start of stage 2. -/
def reduceAtt (a : Attempt) (rs : List GradRegion) (q : W32) : Attempt :=
  { a with reduced := true, grads := rs, todo := rs.filter fun r => r.sched.isSome, normSeq := q }

def reducing (s : State) (a : Attempt) (rs : List GradRegion) (q : W32) : State :=
  setAtt { s with stp := { s.stp with state := .normCheck } } (reduceAtt a rs q)

theorem replicaReduce_starts {q : W32} (ha : s.stp.att = some a) (hst : s.stp.state = .passes) (hr : runsDone s a = true)
    (hok : regionsOk s rs = true) : replicaReduce s rs q = stageNext (tryVerdictUp (reducing s a rs q)) := by
  rw [replicaReduce, ha]
  simp [suspended, hst, hr, hok]
  rfl

/-- Settles O31: stage 2 begins; a device alone in its groups goes through it and the norm at once. -/
theorem replicaReductionFinalises : Obligations.ReplicaReductionFinalises := by
  intro s a rs q ha hst hruns hreg hs
  have hexec : exec (.replicaReduction rs q) s = .next (stageNext (tryVerdictUp (reducing s a rs q))) :=
    congrArg Host.Outcome.next (replicaReduce_starts ha hst hruns hreg)
  refine ⟨hexec, ?_⟩
  rintro r rfl hsched hloss hfin hsize hroute
  obtain ⟨x, y, hout⟩ := tryVerdictUp_notes (s := reducing s a [r] q) (a := reduceAtt a [r] q) rfl hroute
  generalize tryVerdictUp (reducing s a [r] q) = w at hexec hout
  have hmem : w.mem = s.mem := hout.mem
  have hstp := hout.stp
  have hctx (n : Nat) : kCtx w n = kCtx s n := hout.keeps (kCtx · n) fun _ => rfl
  have hlay : curLayout w = curLayout s := hout.keeps curLayout fun _ => rfl
  have hjobs : jobsRun w = false := jobsRun_false (by rw [hout.cores]; exact cols_of_runsDone hruns)
  have htodo : (reduceAtt a [r] q).todo = [] := by simp [reduceAtt, hsched]
  have hatt : w.stp.att = some { reduceAtt a [r] q with lossOr := x, upSent := y } := by rw [hstp]; rfl
  rw [stageNext_alone hatt (by rw [hstp]; rfl) rfl htodo hfin hloss hjobs (by rw [hlay]; simpa only [hctx] using hsize)] at hexec
  have hgrad : gradBytes w r = gradBytes s r := by
    unfold gradBytes rdMem
    rw [hmem]
  have hnmem : (normFound w [r]).mem = (wrMem s r.grad.toNat (gradBytes s r)).mem := by
    rw [normFound_mem, hgrad, wrMem, wrMem, hmem]
  have hnstp := (normFound_stp w r).trans hstp
  have hroot (t : State) := normRoot_eq (s := w) (r := r) (w := t)
  generalize normRoot w [r] = n at hexec hroot
  generalize normFound w [r] = v at hexec hroot hnmem hnstp
  refine ⟨_, _, n, hexec, ?_, ?_, ?_, ?_, ?_, ?_, rfl, rfl, rfl, hroot _ rfl⟩
  · exact (congrArg Stp.state hnstp : v.stp.state = _)
  · exact (congrArg Stp.bank hnstp : v.stp.bank = _)
  · exact (congrArg Stp.c hnstp : v.stp.c = _)
  · exact (congrArg Stp.a hnstp : v.stp.a = _)
  · rw [← gradBytes_length s r]
    show rd v.mem _ _ = _
    rw [hnmem]
    exact rdMem_wrMem s _ _ (canonical_mem hs)
  · rw [← gradBytes_length s r]
    exact (sameOutside.wrMem s _ _ (canonical_mem hs)).congr rfl hnmem

end Sys2Proof.Machine
end

section
/-! The update (R236, R243, R485): a run of writes into the alternate bank, each of the committed bank's words and the gradients. -/
namespace Sys2Proof.Machine
open Sys2Proof Sys2Proof.Safety

variable {s t : State} {a : Attempt} {o : OptVals} {x : Shard}

/-! Runs of writes some of which may write nothing. -/

/-- The writes of a run that write at all. -/
def nonEmpty (ws : List (Nat × Bytes)) : List (Nat × Bytes) := ws.filter fun w => decide (0 < w.2.length)

theorem writeAll_nonEmpty (s : State) (ws : List (Nat × Bytes)) : writeAll s (nonEmpty ws) = writeAll s ws := by
  induction ws generalizing s with
  | nil => rfl
  | cons w ws ih =>
    obtain ⟨x, b⟩ := w
    cases b with
    | nil => exact ih s
    | cons b bs => exact ih (wrMem s x (b :: bs))

/-- Writes apart from a read leave it. -/
theorem rdMem_writeAll_unread (h : Memory.wf s.mem = true) {ws : List (Nat × Bytes)} {b n : Nat} (hn : 0 < n)
    (hd : ∀ r ∈ ws.map writeRange, overlapR (b, n) r = false) : rdMem (writeAll s ws) b n = rdMem s b n := by
  rw [← writeAll_nonEmpty]
  refine rdMem_writeAll_apart h fun w hw => ?_
  obtain ⟨hw, hlen⟩ := List.mem_filter.1 hw
  have hlen := of_decide_eq_true hlen
  have hover := of_decide_eq_false (hd _ (List.mem_map_of_mem hw))
  simp only [writeRange] at hover
  omega

/-- Writes of disjoint ranges share no byte. -/
theorem nonEmpty_apart {ws : List (Nat × Bytes)} (h : disjointRanges (ws.map writeRange) = true) :
    (nonEmpty ws).Pairwise WritesApart := by
  induction ws with
  | nil => exact .nil
  | cons w ws ih =>
    simp only [List.map_cons, disjointRanges, Bool.and_eq_true, List.all_eq_true] at h
    obtain ⟨hw, hws⟩ := h
    unfold nonEmpty
    rw [List.filter_cons]
    split
    · next hlen =>
      have hlen := of_decide_eq_true hlen
      refine List.pairwise_cons.2 ⟨fun v hv => ?_, ih hws⟩
      obtain ⟨hv, hvlen⟩ := List.mem_filter.1 hv
      have hvlen := of_decide_eq_true hvlen
      have hover := of_decide_eq_false (Bool.not_eq_true' _ ▸ hw _ (List.mem_map_of_mem hv))
      simp only [writeRange] at hover
      unfold WritesApart
      omega
    · exact ih hws

/-- A piece of a write among disjoint ones reads back. -/
theorem rdMem_writeAll_disjoint (h : Memory.wf s.mem = true) {ws : List (Nat × Bytes)} (hd : disjointRanges (ws.map writeRange) = true)
    {w : Nat × Bytes} (hw : w ∈ ws) {k n : Nat} (hn : 0 < n) (hk : k + n ≤ w.2.length) :
    rdMem (writeAll s ws) (w.1 + k) n = sub w.2 k n := by
  rw [← writeAll_nonEmpty]
  exact rdMem_writeAll h (nonEmpty_apart hd) (List.mem_filter.2 ⟨hw, decide_eq_true (by omega)⟩) hk

/-! One shard (R236, R485). -/

/-- The elements of a shard. -/
def shardLen (o : OptVals) (x : Shard) : Nat := x.bytes / (if o.adamW then 12 else 8)

/-- The word of a committed shard with a place among its masters and moments. -/
def shardWord (s : State) (o : OptVals) (x : Shard) (k i : Nat) : Machine.Num :=
  decode .fp32 (rdElem s ((bankRange s 0).1 + x.offset + 4 * (k * shardLen o x + i)) 4)

/-- What R485 makes of an element of a shard. -/
def shardOut (s : State) (a : Attempt) (o : OptVals) (x : Shard) (i : Nat) : OptOut :=
  optElem o (shardWord s o x 0 i) (shardWord s o x 1 i) (if o.adamW then shardWord s o x 2 i else numZero)
    (decode .fp32 ((shardGrads s a x.shard).getD i 0))

/-- One kind of the words of an updated shard. -/
def shardCol (s : State) (a : Attempt) (o : OptVals) (x : Shard) (f : OptOut → Machine.Num) : List Bytes :=
  (List.range (shardLen o x)).map fun i => toLe 4 (toFp32 (f (shardOut s a o x i)))

/-- The words of an updated shard. -/
def shardWords (s : State) (a : Attempt) (o : OptVals) (x : Shard) : List Bytes :=
  shardCol s a o x OptOut.w ++ shardCol s a o x OptOut.m ++ (if o.adamW then shardCol s a o x OptOut.v else [])

/-- What the update of a shard writes: its words and its tag, in the alternate bank. -/
def shardWrites (s : State) (a : Attempt) (o : OptVals) (x : Shard) : List (Nat × Bytes) :=
  [((bankRange s 1).1 + x.offset, (shardWords s a o x).flatten),
    ((bankRange s 1).1 + x.tagOff, versionTag (s.stp.c + 1) s.stp.epoch x.shard)]

theorem countShard_keeps {α : Type} (f : State → α) (h : ∀ s c e, f (programFinal s c e) = f s) (s : State) (es : List OptOut)
    (ops : Nat) (rs : List GradRegion) : f (countShard s es ops rs) = f s := by
  induction rs generalizing s es with
  | nil =>
    unfold countShard
    split
    · rfl
    · exact foldl_keeps (by exact fun _ _ => h ..) _ s
  | cons r rs ih =>
    unfold countShard
    exact (ih _ _).trans (foldl_keeps (by exact fun _ _ => h ..) _ s)

/-- The update of a shard is its writes and its records. -/
theorem updateShard_eq (s : State) (a : Attempt) (o : OptVals) (x : Shard) : updateShard s a o x =
    countShard (writeAll s (shardWrites s a o x)) ((List.range (shardLen o x)).map (shardOut s a o x)) (if o.adamW then 12 else 4)
      (shardRegions a x.shard) := by
  have hwords : (shardWords s a o x).flatten = (shardCol s a o x OptOut.w).flatten ++ (shardCol s a o x OptOut.m).flatten ++
      (if o.adamW then (shardCol s a o x OptOut.v).flatten else []) := by
    unfold shardWords
    split <;> simp
  unfold shardWrites
  rw [hwords]
  unfold updateShard shardCol
  simp only [List.map_map]
  rfl

theorem shardCol_length (s a o x f) : (shardCol s a o x f).length = shardLen o x := by simp [shardCol]

theorem mem_shardWords_length {b : Bytes} (h : b ∈ shardWords s a o x) : b.length = 4 := by
  have hcol {f} (h : b ∈ shardCol s a o x f) : b.length = 4 := by
    obtain ⟨i, -, rfl⟩ := List.mem_map.1 h
    exact toLe_length ..
  rcases List.mem_append.1 h with h | h
  · rcases List.mem_append.1 h with h | h <;> exact hcol h
  · split at h
    · exact hcol h
    · cases h

theorem shardWords_length (s : State) (a : Attempt) (o : OptVals) (x : Shard) :
    (shardWords s a o x).flatten.length = shardLen o x * (if o.adamW then 12 else 8) := by
  rw [length_flatten_of_forall fun b hb => mem_shardWords_length hb]
  unfold shardWords
  split <;> simp [shardCol_length] <;> omega

theorem versionTag_length (c : W64) (e k : W32) : (versionTag c e k).length = 16 := by simp [versionTag, le64, le32]

/-- The ranges that the update of a shard writes. -/
def shardRanges (b : Nat) (o : OptVals) (x : Shard) : List (Nat × Nat) :=
  [(b + x.offset, shardLen o x * (if o.adamW then 12 else 8)), (b + x.tagOff, 16)]

theorem shardWrites_ranges (s : State) (a : Attempt) (o : OptVals) (x : Shard) :
    (shardWrites s a o x).map writeRange = shardRanges (bankRange s 1).1 o x := by
  simp only [shardWrites, List.map_cons, List.map_nil, writeRange, shardWords_length, versionTag_length, shardRanges]

/-- The updated shard's state differs from its writes by records alone. -/
theorem updateShard_keeps {α : Type} (f : State → α) (h : ∀ s c e, f (programFinal s c e) = f s) (hmem : ∀ s m, f { s with mem := m } = f s)
    (s : State) (a : Attempt) (o : OptVals) (x : Shard) : f (updateShard s a o x) = f s := by
  rw [updateShard_eq, countShard_keeps f h, writeAll_frame, hmem]

theorem updateShard_stp (s : State) (a : Attempt) (o : OptVals) (x : Shard) : (updateShard s a o x).stp = s.stp :=
  updateShard_keeps State.stp programFinal_stp (fun _ _ => rfl) s a o x

theorem programFinal_pln (s : State) (c : CoreId) (e : ExcRec) : (programFinal s c e).pln = s.pln :=
  programFinal_keeps State.pln raise_pln (fun _ _ _ => rfl) (fun _ => rfl) s c e

theorem updateShard_pln (s : State) (a : Attempt) (o : OptVals) (x : Shard) : (updateShard s a o x).pln = s.pln :=
  updateShard_keeps State.pln programFinal_pln (fun _ _ => rfl) s a o x

theorem updateShard_mem (s : State) (a : Attempt) (o : OptVals) (x : Shard) :
    (updateShard s a o x).mem = (writeAll s (shardWrites s a o x)).mem := by
  rw [updateShard_eq, countShard_keeps State.mem programFinal_mem]

theorem bankRange_congr (hs : t.stp = s.stp) (hp : t.pln = s.pln) (r : Nat) : bankRange t r = bankRange s r := by
  rw [bankRange, bankRange, hs, hp]

/-! Every shard. -/

/-- A shard's update reads no byte that the ranges hold: its words, and the gradients. -/
structure ReadsApart (s : State) (a : Attempt) (o : OptVals) (x : Shard) (rs : List (Nat × Nat)) : Prop where
  words : ∀ r ∈ rs, overlapR ((bankRange s 0).1 + x.offset, shardLen o x * (if o.adamW then 12 else 8)) r = false
  grads : ∀ g ∈ a.grads, ∀ r ∈ rs, overlapR (g.grad.toNat, 4 * g.elems) r = false

theorem overlapR_inside {p q r : Nat × Nat} (h : overlapR p r = false) (hlo : p.1 ≤ q.1) (hhi : q.1 + q.2 ≤ p.1 + p.2) :
    overlapR q r = false := by
  have h := of_decide_eq_false h
  exact decide_eq_false (by omega)

theorem shardOut_congr {ws : List (Nat × Bytes)} (hw : Memory.wf s.mem = true) (hm : t.mem = (writeAll s ws).mem) (hst : t.stp = s.stp)
    (hp : t.pln = s.pln) (h : ReadsApart s a o x (ws.map writeRange)) {i : Nat} (hi : i < shardLen o x) :
    shardOut t a o x i = shardOut s a o x i := by
  have hread {b : Nat} (hb : ∀ r ∈ ws.map writeRange, overlapR (b, 4) r = false) : rdElem t b 4 = rdElem s b 4 := by
    have := rdMem_writeAll_unread hw (by decide) hb
    rw [rdElem, rdElem, rdMem, hm]
    exact congrArg leNat this
  have hword {k : Nat} (hk : 4 * (k + 1) ≤ (if o.adamW then 12 else 8)) : shardWord t o x k i = shardWord s o x k i := by
    unfold shardWord
    rw [bankRange_congr hst hp, hread]
    intro r hr
    refine overlapR_inside (h.words r hr) (by dsimp only; omega) ?_
    have := Nat.mul_le_mul_left (shardLen o x) hk
    have : 4 * (k * shardLen o x + i) + 4 ≤ shardLen o x * (4 * (k + 1)) := by
      have : shardLen o x * (4 * (k + 1)) = 4 * (k * shardLen o x + shardLen o x) := by ring
      omega
    dsimp only
    omega
  have hgrads : shardGrads t a x.shard = shardGrads s a x.shard := by
    unfold shardGrads
    refine congrArg List.flatten (List.map_congr_left fun g hg => List.map_congr_left fun j hj => hread fun r hr => ?_)
    have hj := List.mem_range.1 hj
    exact overlapR_inside (h.grads g (List.mem_filter.1 hg).1 r hr) (by dsimp only; omega) (by dsimp only; omega)
  unfold shardOut
  rw [hword (by split <;> decide), hword (by split <;> decide), hgrads]
  split
  · next hadam => rw [hword (by rw [if_pos hadam])]
  · rfl

theorem shardWrites_congr {ws : List (Nat × Bytes)} (hw : Memory.wf s.mem = true) (hm : t.mem = (writeAll s ws).mem) (hst : t.stp = s.stp)
    (hp : t.pln = s.pln) (h : ReadsApart s a o x (ws.map writeRange)) : shardWrites t a o x = shardWrites s a o x := by
  have hcol (f : OptOut → Machine.Num) : shardCol t a o x f = shardCol s a o x f :=
    List.map_congr_left fun i hi => by rw [shardOut_congr hw hm hst hp h (List.mem_range.1 hi)]
  unfold shardWrites shardWords
  rw [bankRange_congr hst hp, hcol, hcol, hcol, hst]

/-- The update of several shards is a run of writes over their ranges; where no shard reads what one writes, each writes what it
would write alone. -/
theorem foldl_updateShard (l : List Shard) (hw : Memory.wf s.mem = true) :
    (l.foldl (fun s x => updateShard s a o x) s).stp = s.stp ∧ (l.foldl (fun s x => updateShard s a o x) s).pln = s.pln ∧
      ∃ ws, (l.foldl (fun s x => updateShard s a o x) s).mem = (writeAll s ws).mem ∧
        ws.map writeRange = l.flatMap (shardRanges (bankRange s 1).1 o) ∧
        ((∀ x ∈ l, ReadsApart s a o x (l.flatMap (shardRanges (bankRange s 1).1 o))) → ws = l.flatMap (shardWrites s a o)) := by
  induction l generalizing s with
  | nil => exact ⟨rfl, rfl, [], rfl, rfl, fun _ => rfl⟩
  | cons x l ih =>
    have hst := updateShard_stp s a o x
    have hp := updateShard_pln s a o x
    have hm := updateShard_mem s a o x
    have hw1 : Memory.wf (updateShard s a o x).mem = true := by
      rw [hm]
      exact (writeAll_sameOutside hw _).1
    have hbank (r : Nat) : bankRange (updateShard s a o x) r = bankRange s r := bankRange_congr hst hp r
    obtain ⟨hst', hp', ws, hm', hr', hval⟩ := ih hw1
    rw [hbank] at hr' hval
    refine ⟨hst'.trans hst, hp'.trans hp, shardWrites s a o x ++ ws, ?_, ?_, fun happ => ?_⟩
    · rw [List.foldl_cons, hm', writeAll_append]
      exact writeAll_mem_congr hm ws
    · rw [List.map_append, hr', shardWrites_ranges]
      rfl
    · have hcongr {y : Shard} (hy : y ∈ l) : shardWrites (updateShard s a o x) a o y = shardWrites s a o y := by
        obtain ⟨hwords, hgrads⟩ := happ y (List.mem_cons_of_mem _ hy)
        refine shardWrites_congr hw hm hst hp ⟨fun r hr => hwords r ?_, fun g hg r hr => hgrads g hg r ?_⟩ <;>
          exact List.mem_append_left _ (shardWrites_ranges s a o x ▸ hr)
      have hrest : ws = l.flatMap (shardWrites (updateShard s a o x) a o) := by
        refine hval fun y hy => ?_
        obtain ⟨hwords, hgrads⟩ := happ y (List.mem_cons_of_mem _ hy)
        refine ⟨fun r hr => ?_, fun g hg r hr => hgrads g hg r (List.mem_append_right _ hr)⟩
        rw [hbank]
        exact hwords r (List.mem_append_right _ hr)
      rw [List.flatMap_cons, hrest]
      exact congrArg _ (List.flatMap_congr fun y hy => hcongr hy)

/-! The whole update. -/

theorem updateBallast_none (h : hasBallast s = false) : updateBallast s a = s := by
  simp [updateBallast, h]

theorem runUpdate_eq {l : Layout} (hl : curLayout s = some l) (hb : hasBallast s = false) (hw : Memory.wf s.mem = true) :
    runUpdate s a = l.shards.foldl (fun s x => updateShard s a (optVals l a.step.toNat) x) s := by
  have hp := (foldl_updateShard (a := a) (o := optVals l a.step.toNat) l.shards hw).2.1
  rw [runUpdate, hl]
  refine updateBallast_none ?_
  rw [← hb]
  unfold hasBallast holdCfg curPlan
  rw [hp]

/-! The words of an updated shard, by their place. -/

theorem shardCol_getElem? {f : OptOut → Machine.Num} {i : Nat} (hi : i < shardLen o x) :
    (shardCol s a o x f)[i]? = some (toLe 4 (toFp32 (f (shardOut s a o x i)))) := by
  simp [shardCol, hi]

theorem shardWords_master {i : Nat} (hi : i < shardLen o x) :
    (shardWords s a o x)[i]? = some (toLe 4 (toFp32 (shardOut s a o x i).w)) := by
  rw [shardWords, List.append_assoc, List.getElem?_append_left (by rw [shardCol_length]; exact hi), shardCol_getElem? hi]

theorem shardWords_moment {i : Nat} (hi : i < shardLen o x) :
    (shardWords s a o x)[shardLen o x + i]? = some (toLe 4 (toFp32 (shardOut s a o x i).m)) := by
  rw [shardWords, List.getElem?_append_left (by simp only [List.length_append, shardCol_length]; omega),
    List.getElem?_append_right (by rw [shardCol_length]; omega), shardCol_length, Nat.add_sub_cancel_left, shardCol_getElem? hi]

theorem shardWords_second {i : Nat} (hi : i < shardLen o x) (hv : o.adamW = true) :
    (shardWords s a o x)[2 * shardLen o x + i]? = some (toLe 4 (toFp32 (shardOut s a o x i).v)) := by
  rw [shardWords, if_pos hv, List.getElem?_append_right (by simp only [List.length_append, shardCol_length]; omega)]
  simp only [List.length_append, shardCol_length]
  rw [show 2 * shardLen o x + i - (shardLen o x + shardLen o x) = i by omega, shardCol_getElem? hi]

/-- A word of an updated shard reads back among disjoint shards. -/
theorem rdMem_updated {l : List Shard} {j : Nat} {b : Bytes} (hw : Memory.wf s.mem = true)
    (hm : t.mem = (writeAll s (l.flatMap (shardWrites s a o))).mem)
    (hd : disjointRanges (l.flatMap (shardRanges (bankRange s 1).1 o)) = true) (hx : x ∈ l) (hj : (shardWords s a o x)[j]? = some b) :
    rdMem t ((bankRange s 1).1 + x.offset + 4 * j) 4 = b := by
  have hranges : (l.flatMap (shardWrites s a o)).map writeRange = l.flatMap (shardRanges (bankRange s 1).1 o) := by
    rw [List.map_flatMap]
    exact List.flatMap_congr fun y _ => shardWrites_ranges s a o y
  have hmem : ((bankRange s 1).1 + x.offset, (shardWords s a o x).flatten) ∈ l.flatMap (shardWrites s a o) :=
    List.mem_flatMap.2 ⟨x, hx, List.mem_cons_self⟩
  have hlen : ((shardWords s a o x).flatten).length = (shardWords s a o x).length * 4 :=
    length_flatten_of_forall fun b hb => mem_shardWords_length hb
  have hlt := (List.getElem?_eq_some_iff.1 hj).1
  rw [rdMem, hm]
  refine (rdMem_writeAll_disjoint hw (hranges ▸ hd) hmem (k := 4 * j) (by decide) (by dsimp only; omega)).trans ?_
  rw [Nat.mul_comm]
  exact sub_flatten (fun b hb => mem_shardWords_length hb) hj

/-- Its tag reads back likewise. -/
theorem rdMem_updatedTag {l : List Shard} (hw : Memory.wf s.mem = true) (hm : t.mem = (writeAll s (l.flatMap (shardWrites s a o))).mem)
    (hd : disjointRanges (l.flatMap (shardRanges (bankRange s 1).1 o)) = true) (hx : x ∈ l) :
    rdMem t ((bankRange s 1).1 + x.tagOff) 16 = versionTag (s.stp.c + 1) s.stp.epoch x.shard := by
  have hranges : (l.flatMap (shardWrites s a o)).map writeRange = l.flatMap (shardRanges (bankRange s 1).1 o) := by
    rw [List.map_flatMap]
    exact List.flatMap_congr fun y _ => shardWrites_ranges s a o y
  have hmem : ((bankRange s 1).1 + x.tagOff, versionTag (s.stp.c + 1) s.stp.epoch x.shard) ∈ l.flatMap (shardWrites s a o) :=
    List.mem_flatMap.2 ⟨x, hx, List.mem_cons_of_mem _ List.mem_cons_self⟩
  have hread := rdMem_writeAll_disjoint hw (hranges ▸ hd) hmem (k := 0) (n := 16) (by decide) (by rw [versionTag_length])
  rw [rdMem, hm]
  refine hread.trans ?_
  rw [← versionTag_length (s.stp.c + 1) s.stp.epoch x.shard]
  exact sub_self _

/-! UPDATE_START (R236, R243) and UPDATE_COMPLETE (R237). -/

/-- The state as the update runs. -/
def updating (s : State) : State := { s with stp := { s.stp with state := .update } }

theorem startUpdate_eq (ha : s.stp.att = some a) (hst : s.stp.state = .normCheck) (hv : a.verdict = some .commit) :
    startUpdate s = if anyStackHolds s then s
      else if targetDraining s then raise { s with stp := { s.stp with state := .updateWait } } 0x4005 srcDevice []
      else runUpdate (updating s) a := by
  rw [startUpdate, ha]
  simp [suspended, hst, hv]
  rfl

theorem completeUpdate_eq {l : Layout} (ha : s.stp.att = some a) (hst : s.stp.state = .update) (hl : curLayout s = some l) :
    completeUpdate s = if anyStackHolds s then s
      else startTally { s with stp := { s.stp with state := .tally } } a (deviceDigest s l) (lowestShard l) := by
  rw [completeUpdate, ha, hl]
  simp [suspended, hst]

/-- An attempt in the tally of a device alone in its replica group. -/
def tallyAlone (s : State) (a : Attempt) (d : Bytes) : Attempt := { a with point := 2, digests := [(replicaIndex s, d)] }

theorem startTally_eq {d : Bytes} {k : Nat} (hd : a.digests = []) (hsize : replicaSize s = 1)
    (hpeers : groupPeers s (replicaGroup s) = []) : startTally s a d k = decideTally (setAtt s (tallyAlone s a d)) := by
  have hpeers (b : Attempt) : groupPeers (setAtt s b) (replicaGroup (setAtt s b)) = [] := hpeers
  unfold startTally tallyAlone
  simp only [hpeers, hd, hsize, List.foldl_nil, List.nil_append, if_true]

/-- A device alone in its replica group is its own majority. -/
theorem startTally_alone {d : Bytes} {k : Nat} (hst : s.stp.state = .tally) (hd : a.digests = []) (hsize : replicaSize s = 1)
    (hpeers : groupPeers s (replicaGroup s) = []) (hr : s.hold.replay = none) : Committed s (startTally s a d k) := by
  have hown : ownDigest (setAtt s (tallyAlone s a d)) (tallyAlone s a d) = d := by
    have hidx : replicaIndex (setAtt s (tallyAlone s a d)) = replicaIndex s := rfl
    unfold ownDigest tallyAlone at *
    simp [hidx]
  have hvotes : replicaSize (setAtt s (tallyAlone s a d)) < 2 * votes (tallyAlone s a d).digests d := by
    rw [show replicaSize (setAtt s (tallyAlone s a d)) = 1 from hsize]
    simp [votes, tallyAlone]
  have hlen : (tallyAlone s a d).digests.length = replicaSize (setAtt s (tallyAlone s a d)) := hsize.symm
  rw [startTally_eq hd hsize hpeers, decideTally_decides (s := setAtt s (tallyAlone s a d)) rfl hst (by decide : 2 < 4) hlen,
    majority_eq_some hlen hvotes, hown]
  dsimp only
  rw [if_pos rfl]
  obtain ⟨hbank, hc, hA, hatt, hrun, hstate⟩ := commitAttempt_commits
    (s := setAtt (setAtt s (tallyAlone s a d)) { tallyAlone s a d with point := 4 }) (a := { tallyAlone s a d with point := 4 })
    (cause := 0) (tally := d) hr (fun h => nomatch hst.symm.trans h)
  exact ⟨hbank, hc, hA, hatt, hrun, hstate⟩

theorem readsApart_of_anyOverlap {l : List Shard} {rs : List (Nat × Nat)}
    (h : anyOverlap ((l.map fun x => ((bankRange s 0).1 + x.offset, shardLen o x * (if o.adamW then 12 else 8))) ++
      a.grads.map fun r => (r.grad.toNat, 4 * r.elems)) rs = false) (hx : x ∈ l) : ReadsApart s a o x rs := by
  have hno {q : Nat × Nat} (hq : q ∈ (l.map fun x => ((bankRange s 0).1 + x.offset, shardLen o x * (if o.adamW then 12 else 8))) ++
      a.grads.map fun r => (r.grad.toNat, 4 * r.elems)) : ∀ r ∈ rs, overlapR q r = false := fun r hr =>
    Bool.eq_false_of_not_eq_true (List.any_eq_false.1 (Bool.eq_false_of_not_eq_true (List.any_eq_false.1 h q hq)) r hr)
  exact ⟨hno (List.mem_append_left _ (List.mem_map.2 ⟨x, hx, rfl⟩)),
    fun g hg => hno (List.mem_append_right _ (List.mem_map.2 ⟨g, hg, rfl⟩))⟩

/-- Settles O32: the update is a run of writes, word by word, and alone in its replica group a device then flips. -/
theorem updateWritesThenFlips : Obligations.UpdateWritesThenFlips := by
  refine ⟨?updates, ?flips⟩
  case updates =>
    rintro s a l b ha hst hv hl hbal rfl hs
    have hexec : exec .updateStart s = .next (startUpdate s) := rfl
    rw [startUpdate_eq ha hst hv] at hexec
    refine ⟨fun hh => by rw [hexec, if_pos hh], fun hh => ⟨fun hdrain => ?_, fun hdrain => ?_⟩⟩
    · rw [if_neg (by simp [hh]), if_pos hdrain] at hexec
      exact ⟨_, hexec, raise_stp .., raise_mem ..⟩
    · have hw : Memory.wf (updating s).mem = true := canonical_mem hs
      rw [if_neg (by simp [hh]), if_neg (by simp [hdrain]), runUpdate_eq (s := updating s) hl hbal hw] at hexec
      obtain ⟨hstp, -, ws, hmem, hranges, hval⟩ := foldl_updateShard (a := a) (o := optVals l a.step.toNat) l.shards hw
      refine ⟨_, hexec, hstp, ?_, ?_⟩
      · have hsame := (writeAll_sameOutside hw ws).2.congr rfl hmem
        rw [hranges] at hsame
        exact hsame
      · rintro n _ rfl hn hdis hover x hx
        obtain rfl : n = shardLen (optVals l a.step.toNat) := funext hn
        obtain rfl := hval fun y hy => readsApart_of_anyOverlap (s := updating s) hover hy
        refine ⟨rdMem_updatedTag (s := updating s) hw hmem hdis hx, fun i hi e he => ?_⟩
        have hout : e = shardOut (updating s) a (optVals l a.step.toNat) x i := by
          rw [he]
          simp only [shardOut, shardWord, Nat.zero_mul, Nat.zero_add, Nat.one_mul]
          rfl
        rw [hout]
        refine ⟨rdMem_updated (s := updating s) hw hmem hdis hx (shardWords_master hi), rdMem_updated (s := updating s) hw hmem hdis hx (shardWords_moment hi), fun hv => ?_⟩
        exact rdMem_updated (s := updating s) hw hmem hdis hx (shardWords_second hi hv)
  case flips =>
    intro s a l ha hst hl hd hsize hpeers hr
    have hexec : exec .updateComplete s = .next (completeUpdate s) := rfl
    rw [completeUpdate_eq ha hst hl] at hexec
    refine ⟨fun hh => by rw [hexec, if_pos hh], fun hh => ?_⟩
    rw [if_neg (by simp [hh])] at hexec
    obtain ⟨hbank, hc, hA, hatt, hrun, hstate⟩ := startTally_alone (s := { s with stp := { s.stp with state := .tally } })
      (d := deviceDigest s l) (k := lowestShard l) rfl hd hsize hpeers hr
    exact ⟨_, hexec, hbank, hc, hA, hatt, hrun, hstate⟩

end Sys2Proof.Machine
end

section
/-! An event and the job queues (R425, R432, R433): what is told goes to event queues and ports, and a job queue stays as it is. -/
namespace Sys2Proof.Machine
open Sys2Proof Sys2Proof.Safety

variable {s t : State} {q p : Nat} {x : Queue}

/-- An entry of a canonical map is what its key reads. -/
theorem smGet_of_mem {α : Type} [DecidableEq α] {d v : α} {m : SMap α} {k : Nat} (h : smWf d m = true) (hm : (k, v) ∈ m) :
    smGet d m k = v := by
  obtain ⟨hlt, -⟩ := (smWf_iff ..).1 h
  clear h
  induction m with
  | nil => cases hm
  | cons e m ih =>
    obtain ⟨j, w⟩ := e
    obtain ⟨hfirst, hlt⟩ := List.pairwise_cons.1 hlt
    rcases List.mem_cons.1 hm with he | hm
    · obtain ⟨rfl, rfl⟩ := Prod.mk.inj he
      exact if_pos rfl
    · exact (if_neg (Nat.ne_of_lt (hfirst _ hm))).trans (ih hm hlt)

theorem canonical_queues (hs : canonical s) : smWf Queue.init s.queues = true := by
  obtain ⟨_, _, _, _, _, _, _, h, _⟩ := hs
  exact h

theorem getQueue_setQueue_other (h : q ≠ p) (x : Queue) : getQueue (setQueue s p x) q = getQueue s q :=
  smGet_smSet_other _ _ _ h

theorem getQueue_msixSend (s : State) (l v q : Nat) : getQueue (msixSend s l v) q = getQueue s q := by
  unfold msixSend
  dsimp only
  split <;> rfl

theorem getQueue_evqSignal (h : q ≠ p) : getQueue (evqSignal s p) q = getQueue s q := by
  unfold evqSignal
  dsimp only
  split
  · rfl
  · rw [getQueue_msixSend, getQueue_setQueue_other h]

theorem getQueue_wrHost (s : State) (l : Bool) (a : Nat) (b : Bytes) : getQueue (wrHost s l a b) q = getQueue s q := by
  unfold wrHost
  split <;> rfl

theorem getQueue_evqPush (h : q ≠ p) (e : Event) : getQueue (evqPush s p e).1 q = getQueue s q := by
  unfold evqPush
  dsimp only
  split
  · exact getQueue_setQueue_other h _
  · split
    · exact getQueue_setQueue_other h _
    · dsimp only
      split
      · rw [getQueue_evqSignal h, getQueue_setQueue_other h, getQueue_wrHost]
      · rw [getQueue_setQueue_other h, getQueue_wrHost]

theorem getQueue_mgmtPush (s : State) (p : Nat) (e : Event) : getQueue (mgmtPush s p e).1 q = getQueue s q := by
  unfold mgmtPush
  extract_lets x free gale y s1 byte
  generalize (if gale then free == 0 else decide (free ≤ 4)) = full
  cases full with
  | true => rfl
  | false =>
    cases gale || (x.buf.isEmpty && isOwner s (2 + p)) <;> rfl

theorem getQueue_foldl_fst {ι κ : Type} {g : State × κ → ι → State × κ} {l : List ι}
    (hg : ∀ a, ∀ i ∈ l, getQueue (g a i).1 q = getQueue a.1 q) (a : State × κ) : getQueue (l.foldl g a).1 q = getQueue a.1 q :=
  List.foldlRecOn (motive := fun b : State × κ => getQueue b.1 q = getQueue a.1 q) l g rfl fun b h i hi => (hg b i hi).trans h

/-- A job queue takes no event. -/
theorem getQueue_deliver (hs : canonical s) (h : (getQueue s q).event = false) (e : Event) :
    getQueue (deliver s e).1 q = getQueue s q := by
  have hports (a : State × List Event) : getQueue ([0, 1].foldl (gather fun s p => mgmtPush s p e) a).1 q = getQueue a.1 q :=
    getQueue_foldl_fst (by exact fun _ _ _ => getQueue_mgmtPush ..) a
  have hqueues : getQueue (((s.queues.filter fun x => takesEvent x.2 e.code).map fun x => x.1).foldl
      (gather fun s q => evqPush s q e) (s, [])).1 q = getQueue s q := by
    refine getQueue_foldl_fst (fun a p hp => ?_) _
    refine getQueue_evqPush (fun hqp => ?_) e
    obtain ⟨⟨k, y⟩, hy, rfl⟩ := List.mem_map.1 hp
    obtain ⟨hy, htakes⟩ := List.mem_filter.1 hy
    have hget : getQueue s q = y := hqp ▸ smGet_of_mem (canonical_queues hs) hy
    simp [takesEvent, ← hget, h] at htakes
  unfold deliver
  split
  · rfl
  · dsimp only
    split
    · exact (hports _).trans hqueues
    · exact hqueues

/-- The events delivered leave a job queue as it was. -/
theorem getQueue_deliverRounds (n : Nat) (es : List Event) (hs : canonical s) (h : (getQueue s q).event = false) :
    getQueue (deliverRounds n es s) q = getQueue s q := by
  induction n generalizing es s with
  | zero => rfl
  | succ n ih =>
    have hround : canonical (es.foldl (fun acc e => let d := deliver acc.1 e; (d.1, acc.2 ++ d.2)) (s, ([] : List Event))).1 ∧
        getQueue (es.foldl (fun acc e => let d := deliver acc.1 e; (d.1, acc.2 ++ d.2)) (s, ([] : List Event))).1 q = getQueue s q :=
      List.foldlRecOn (motive := fun b : State × List Event => canonical b.1 ∧ getQueue b.1 q = getQueue s q) es _ ⟨hs, rfl⟩
        fun b ⟨hb, hq⟩ e _ => ⟨deliver_canonical e hb, (getQueue_deliver hb (by rw [hq]; exact h) e).trans hq⟩
    obtain ⟨hcan, hsame⟩ := hround
    exact (ih _ hcan (by rw [hsame]; exact h)).trans hsame

theorem getQueue_raise (hs : canonical s) (h : (getQueue s q).event = false) (code src : Nat) (b : Bytes) :
    getQueue (raise s code src b) q = getQueue s q := getQueue_deliverRounds 4 _ hs h

end Sys2Proof.Machine
end

section
/-! Job entries (R246, R409, R425, R426): the fetch, and the entries outside the control order. -/
namespace Sys2Proof.Machine
open Sys2Proof Sys2Proof.Safety

variable {s t : State} {q n : Nat} {x : Queue} {j : JobEnt}

/-! The fetch. -/

/-- The first place in turn that qualifies. -/
theorem find?_inTurn {f : Nat → Bool} {turn n m : Nat} (hn : n < m) (hno : ∀ i < n, f ((turn + i) % m) = false)
    (hf : f ((turn + n) % m) = true) : ((List.range m).map fun i => (turn + i) % m).find? f = some ((turn + n) % m) := by
  have hfind : (List.range m).find? (f ∘ fun i => (turn + i) % m) = some n :=
    List.find?_range_eq_some.2 ⟨hf, List.mem_range.2 hn, fun i hlt => by simp [hno i hlt]⟩
  rw [List.find?_map, hfind]
  rfl

/-- The state with the turn past a queue. -/
def turned (s : State) (q : Nat) : State := { s with ctl := { s.ctl with turn := (q + 1) % 256 } }

/-- The state with an entry of a queue taken from its ring. -/
def entryTaken (s : State) (q : Nat) : State :=
  setQueue (turned s q) q { getQueue s q with head := ((getQueue s q).head + 1) % ringSize (getQueue s q), fetched := (getQueue s q).fetched + 1 }

theorem fetchJob_eq (hb : s.sec.boot = .ready) (hf : ((List.range 256).map fun i => (s.ctl.turn + i) % 256).find? (mayFetch s) = some q) :
    fetchJob s = if (getFn s (b2n (getQueue s q).link)).up then acceptEntry (entryTaken s q) (nextEntry s q)
      else queueError (raiseEvent (turned s q) (dmaEvent (b2n (getQueue s q).link) 1
        (BitVec.ofNat 64 ((getQueue s q).base.toNat + 64 * (getQueue s q).head)))) q 2 := by
  unfold fetchJob
  rw [if_neg (by simp [hb]), hf]
  dsimp only
  cases (getFn s (b2n (getQueue s q).link)).up <;> rfl

theorem jobQueue_of_mayFetch (h : mayFetch s q = true) :
    (getQueue s q).enabled = true ∧ (getQueue s q).event = false ∧ (getQueue s q).error = 0 := by
  simp only [mayFetch, Bool.and_eq_true, Bool.not_eq_true', beq_iff_eq] at h
  exact ⟨h.1.1.1.1.1, h.1.1.1.1.2, h.1.1.1.2⟩

/-- A job queue that fails goes into its error, and keeps its pointers. -/
theorem getQueue_queueError (hs : canonical s) (he : (getQueue s q).error = 0) (hj : (getQueue s q).event = false) (code : Nat) :
    getQueue (queueError s q code) q = { getQueue s q with error := BitVec.ofNat 8 code } := by
  have hset : getQueue (setQueue s q { getQueue s q with error := BitVec.ofNat 8 code }) q =
      { getQueue s q with error := BitVec.ofNat 8 code } := getQueue_setQueue_same (canonical_queues hs) q _
  unfold queueError
  dsimp only
  rw [if_neg (by simp [he])]
  exact (getQueue_raise (setQueue_canonical _ _ hs) (by rw [hset]; exact hj) ..).trans hset

theorem queueError_outward (s : State) (q code : Nat) : Outward s (queueError s q code) := by
  unfold queueError
  dsimp only
  split
  · exact .refl s
  · exact (raise_outward ..).after rfl id

/-- Where an accepted entry goes. -/
theorem acceptEntry_control (h1 : 1 ≤ jobOpc j) (h5 : jobOpc j ≤ 5) :
    acceptEntry s j = { s with ctl := { s.ctl with waiting := s.ctl.waiting ++ [j] } } := if_pos ⟨h1, h5⟩

theorem acceptEntry_free (h : jobOpc j ∈ ([0, 6, 7, 8] : List Nat)) :
    acceptEntry s j = { s with ctl := { s.ctl with free := s.ctl.free ++ [j] } } := by
  simp only [List.mem_cons, List.not_mem_nil, or_false] at h
  unfold acceptEntry
  dsimp only
  rw [if_neg (by omega), if_pos (by omega)]

theorem acceptEntry_reserved (h : 8 < jobOpc j) : acceptEntry s j = jobDone (raiseJobInvalid s j) j 1 0xC003 := by
  unfold acceptEntry
  dsimp only
  rw [if_neg (by omega), if_neg (by omega)]

theorem acceptEntry_keeps (s : State) (j : JobEnt) : (acceptEntry s j).mem = s.mem ∧ (acceptEntry s j).ctl.turn = s.ctl.turn ∧
    (acceptEntry s j).ctl.running = s.ctl.running := by
  unfold acceptEntry
  dsimp only
  split
  · exact ⟨rfl, rfl, rfl⟩
  · split
    · exact ⟨rfl, rfl, rfl⟩
    · simp [raiseJobInvalid]

/-! NOP and FENCE. -/

theorem runNop_ends (hf : entryForm j [] = true) (h : freeEntry s 0 = some j) : runNop s = endFree s j 0 0 := by
  rw [runNop, h]
  exact if_pos hf

theorem runFence_eq (hf : entryForm j [] = true) (h : s.ctl.free.filter (fun j => jobOpc j == 8) = [j]) :
    runFence s = if earlierEnded s j then endFree s j 0 0 else s := by
  have hfind : s.ctl.free.find? (fun j => jobOpc j == 8 && (!entryForm j [] || earlierEnded s j)) =
      [j].find? fun j => !entryForm j [] || earlierEnded s j := by
    rw [← h, List.find?_filter]
    exact congrArg (s.ctl.free.find? ·) (funext fun i => by rw [Bool.eq_iff_iff]; simp)
  rw [runFence, hfind]
  cases he : earlierEnded s j with
  | true => simp [hf, he]
  | false => simp [hf, he]

/-! MANIFEST. -/

theorem runManifest_hands {k : Nat} (hf : s.ctl.free = [j]) (ho : jobOpc j = 7) (hsub : j.sub = false)
    (hk : manifestStream s j = some k) (hroom : streamHolds (getStream s k) < 4) : runManifest s =
      { setStream s k { getStream s k with subs := (getStream s k).subs ++ [(fld j.bytes 8 8, none)] } with
        ctl := { s.ctl with free := [{ j with sub := true }] } } := by
  unfold runManifest
  simp [hf, ho, hsub, hk, hroom]

theorem manifestStream_eq {k : Nat} (hf : entryForm j [(8, 8)] = true) (ha : fld j.bytes 8 8 % 128 = 0)
    (hin : inHbm s (fld j.bytes 8 8) 128 = true) (hd : byteAt (rdMem s (fld j.bytes 8 8) 128) 7 < 12)
    (hst : byteAt (rdMem s (fld j.bytes 8 8) 128) 6 < 8)
    (hk : streamIdx (byteAt (rdMem s (fld j.bytes 8 8) 128) 7) (byteAt (rdMem s (fld j.bytes 8 8) 128) 6) = k)
    (he : isEvalStream s k = true) : manifestStream s j = some k := by
  unfold manifestStream
  simp [hf, ha, hin, Nat.not_le.2 hd, Nat.not_le.2 hst, hk, he]

/-! DEAL. -/

/-- The passes and the deferred entries of a request. -/
def dealtOf (s : State) (r : Bytes) : List (List Nat) × List Nat :=
  deal (dBudget r) (dPasses r) (mhCount (rdMem s (dSrc r) 128)) fun e =>
    fld (rdMem s (dTokens r) (4 * mhCount (rdMem s (dSrc r) 128))) (4 * e) 4

/-- What a DEAL writes. -/
def dealWrites (s : State) (r : Bytes) (ps : List (List Nat)) (late : List Nat) : List (Nat × Bytes) :=
  (ps.mapIdx fun p es => (dDst r + p * dStride r, dealManifest s r p es)) ++
    [(dDefer r, (late.map fun e => toLe 4 e).flatten), (dResult r, toLe 4 ps.length ++ toLe 4 late.length ++ zeroBytes 8)]

/-- Whether what a DEAL writes has a place. -/
def dealRoom (s : State) (r : Bytes) (ps : List (List Nat)) (late : List Nat) : Bool :=
  inHbm s (dDefer r) (4 * late.length) &&
    (List.range ps.length).all fun p => inHbm s (dDst r + p * dStride r) (128 * ((ps.getD p []).length + 1))

theorem runDeal_eq (h : freeEntry s 6 = some j) (hh : anyStackHolds s = false) (hf : entryForm j [(8, 8)] = true)
    (hin : inHbm s (fld j.bytes 8 8) 128 = true) : runDeal s =
      let r := rdMem s (fld j.bytes 8 8) 128
      let d := dealtOf s r
      if !dealOk s (fld j.bytes 8 8) r || !dealRoom s r d.1 d.2 then endFree (raise s 0x4108 srcDevice []) j 1 0x4108
      else endFree (raise (wrUnit s srcDevice (dealWrites s r d.1 d.2)) 0x4004 srcDevice []) j 0 0x4004 := by
  unfold runDeal dealtOf dealRoom dealWrites
  rw [h]
  dsimp only
  rw [hh, hf, hin, rdMem_length, Nat.mul_div_cancel_left _ (by decide)]
  generalize deal _ _ _ _ = d
  obtain ⟨ps, late⟩ := d
  rw [show (!true || !true) = false from rfl, if_neg Bool.false_ne_true, if_neg Bool.false_ne_true]

theorem mapIdx_eq_range {α β : Type} (d : α) (f : Nat → α → β) (l : List α) :
    l.mapIdx f = (List.range l.length).map fun i => f i (l.getD i d) := by
  refine List.ext_getElem (by simp) fun i hi _ => ?_
  have hi : i < l.length := by simpa using hi
  simp [hi]

/-- The ranges that a DEAL writes. -/
theorem dealWrites_ranges (s : State) (r : Bytes) (ps : List (List Nat)) (late : List Nat) : (dealWrites s r ps late).map writeRange =
    ((List.range ps.length).map fun p => (dDst r + p * dStride r, (dealManifest s r p (ps.getD p [])).length)) ++
      [(dDefer r, 4 * late.length), (dResult r, 16)] := by
  have hlate : ((late.map fun e => toLe 4 e).flatten).length = 4 * late.length := by
    rw [length_flatten_of_forall (n := 4) (by simp), List.length_map, Nat.mul_comm]
  unfold dealWrites
  rw [mapIdx_eq_range []]
  simp [writeRange, hlate, Function.comp_def]

theorem wrUnit_ctl (s : State) (src : Nat) (l : List (Nat × Bytes)) : (wrUnit s src l).ctl = s.ctl := by
  have hall : (writeAll s (offBanks s l)).ctl = s.ctl := by rw [writeAll_frame]
  rw [wrUnit_eq]
  split
  · exact (raise_ctl ..).trans hall
  · exact hall

/-- The last write of a unit reads back where it touches no bank. -/
theorem rdMem_wrUnit_last {src a : Nat} {l : List (Nat × Bytes)} {b : Bytes} (hs : Memory.wf s.mem = true)
    (hb : touchesAnyBank s a b.length = false) : rdMem (wrUnit s src (l ++ [(a, b)])) a b.length = b := by
  have hoff : offBanks s (l ++ [(a, b)]) = offBanks s l ++ [(a, b)] := by simp [offBanks, hb]
  rw [rdMem, wrUnit_mem, hoff]
  exact rdMem_writeAll_last hs _ a b

/-- Settles O54: the fetch by the next queue in turn, and each entry's end by its rules. -/
theorem jobEntriesFetchAndEnd : Obligations.JobEntriesFetchAndEnd := by
  refine ⟨?fetch, fun s j hf => ⟨?nop, ?fence, ?fenceWaits⟩, ?manifest, ?dealInvalid, ?deals⟩
  case fetch =>
    rintro s n _ _ hb hn hno hmay rfl rfl hs
    obtain ⟨-, hev, herr⟩ := jobQueue_of_mayFetch hmay
    have hexec : exec .jobFetch s = .next (fetchJob s) := rfl
    rw [fetchJob_eq hb (find?_inTurn hn hno hmay)] at hexec
    generalize (s.ctl.turn + n) % 256 = q at hev herr hexec
    refine ⟨fun hup => ?_, fun hup => ?_⟩
    · rw [if_neg (by simp [hup])] at hexec
      generalize dmaEvent _ _ _ = e at hexec
      have hcan : canonical (turned s q) := canonical_frame rfl rfl rfl hs
      have hsame : getQueue (raiseEvent (turned s q) e) q = getQueue s q := getQueue_raise hcan hev ..
      have hout : Outward (turned s q) (queueError (raiseEvent (turned s q) e) q 2) :=
        (raise_outward ..).trans (queueError_outward ..)
      have herror := getQueue_queueError (raiseEvent_canonical e hcan) (hsame ▸ herr) (hsame ▸ hev) 2
      rw [hsame] at herror
      refine ⟨_, hexec, hout.mem, by rw [herror]; rfl, by rw [herror], ?_, ?_⟩ <;> rw [hout.ctl] <;> rfl
    · rw [if_pos hup] at hexec
      obtain ⟨hmem, hturn, hrun⟩ := acceptEntry_keeps (entryTaken s q) (nextEntry s q)
      refine ⟨_, hexec, hmem, hturn, hrun, fun h1 h5 => ?_, fun h => ?_, fun h => ?_⟩
      · have hacc := acceptEntry_control (s := entryTaken s q) (j := nextEntry s q) h1 h5
        rw [hacc]
        exact ⟨rfl, rfl⟩
      · have hacc := acceptEntry_free (s := entryTaken s q) (j := nextEntry s q) h
        rw [hacc]
        exact ⟨rfl, rfl⟩
      · have hacc := acceptEntry_reserved (s := entryTaken s q) (j := nextEntry s q) h
        rw [hacc, jobDone_ctl, raiseJobInvalid, raise_ctl]
        exact ⟨rfl, rfl⟩
  case nop => 
    intro h
    have hexec : exec .nop s = .next (runNop s) := rfl
    rw [runNop_ends hf h] at hexec
    exact ⟨_, hexec, endFree_frame ..⟩
  case fence =>
    intro h he
    have hexec : exec .fence s = .next (runFence s) := rfl
    rw [runFence_eq hf h, if_pos he] at hexec
    exact ⟨_, hexec, endFree_frame ..⟩
  case fenceWaits =>
    intro h he
    have hexec : exec .fence s = .next (runFence s) := rfl
    rw [hexec, runFence_eq hf h, if_neg (by simp [he])]
  case manifest =>
    rintro s j _ k _ _ hf rfl rfl hk rfl ho hsub hform ha hin hd hst he hroom hs
    have hexec : exec .manifest s = .next (runManifest s) := rfl
    rw [runManifest_hands hf ho hsub (manifestStream_eq hform ha hin hd hst hk he) hroom] at hexec
    refine ⟨_, hexec, ?_, rfl, rfl⟩
    exact congrArg Stream.subs (getStream_setStream fun h => by simpa [Stream.init] using congrArg Stream.subs h)
  case dealInvalid => 
    rintro s j _ _ h rfl hh rfl hf hin hbad
    have hexec : exec .deal s = .next (runDeal s) := rfl
    rw [hexec, runDeal_eq h hh hf hin]
    dsimp only
    rw [hbad]
    rfl
  case deals =>
    rintro s j _ _ ps late _ h rfl hh rfl hf - hin hok rfl hd hdefer hpass hs
    have hexec : exec .deal s = .next (runDeal s) := rfl
    have hroom : dealRoom s (rdMem s (fld j.bytes 8 8) 128) ps late = true := by
      rw [dealRoom, hdefer, List.all_eq_true.2 fun p hp => hpass p (List.mem_range.1 hp)]
      rfl
    have hdealt : dealtOf s (rdMem s (fld j.bytes 8 8) 128) = (ps, late) := hd
    rw [runDeal_eq h hh hf hin] at hexec
    dsimp only at hexec
    rw [hdealt] at hexec
    dsimp only at hexec
    rw [hok, hroom] at hexec
    generalize rdMem s (fld j.bytes 8 8) 128 = r at hexec
    have hctl := (raise_ctl (wrUnit s srcDevice (dealWrites s r ps late)) 0x4004 srcDevice []).trans (wrUnit_ctl ..)
    refine ⟨_, hexec, fun hbank => ?_, ?_, ?_⟩
    · have hlen : (toLe 4 ps.length ++ toLe 4 late.length ++ zeroBytes 8).length = 16 := by simp
      have hlast := rdMem_wrUnit_last (src := srcDevice) (a := dResult r) (canonical_mem hs) (hlen.symm ▸ hbank)
        (l := (ps.mapIdx fun p es => (dDst r + p * dStride r, dealManifest s r p es)) ++ [(dDefer r, (late.map fun e => toLe 4 e).flatten)])
      rw [hlen, List.append_assoc] at hlast
      rw [if_neg (by decide), rdMem, endFree_mem, raise_mem]
      exact hlast
    · rw [if_neg (by decide), endFree, jobDone_ctl]
      dsimp only
      rw [hctl]
    · have hsame := wrUnit_sameOutside (src := srcDevice) (l := dealWrites s r ps late) (canonical_mem hs)
      rw [dealWrites_ranges] at hsame
      exact hsame.congr rfl (by rw [if_neg (by decide), endFree_mem, raise_mem])

end Sys2Proof.Machine
end

section
/-! The clocks through the step machine: nothing that a resumption carries on (messages, decisions, collectives, the lock, the ends
of attempts) changes them. -/
namespace Sys2Proof.Machine
open Sys2Proof Sys2Proof.Safety

variable {s t u : State}

theorem enterState_clk (s : State) (x : StepState) : (enterState s x).clk = s.clk := by
  unfold enterState
  split <;> rfl

theorem settleState_clk (s : State) (x : StepState) : (settleState s x).clk = s.clk := by
  unfold settleState
  split
  · exact enterState_clk ..
  · exact enterState_clk ..

theorem floodAbort_clk (s : State) (cause : Nat) (step : W64) (tag : W32) (f : Option Nat) :
    (floodAbort s cause step tag f).clk = s.clk := by
  obtain ⟨l, hflood⟩ := floodAbort_outward s cause step tag f
  rw [hflood.clk]

theorem endAbandon_clk (s : State) (l : Lock) : (endAbandon s l).clk = s.clk := by
  unfold endAbandon
  extract_lets s1 s2
  have hsent : Outward { s with lock := none } s2 := (logAppend_outward ..).trans (raise_outward ..)
  rw [endControl_clk, enterState_clk]
  exact hsent.clk

theorem decideAbandon_clk (s : State) (l : Lock) : (decideAbandon s l).clk = s.clk := by
  rw [decideAbandon, endAbandon_clk, (sendCctlAll_outward ..).clk]

theorem lockCause_clk (s : State) : (lockCause s).clk = s.clk := by
  unfold lockCause
  split
  · rfl
  · split
    · rfl
    · split
      · split
        · rfl
        · exact decideAbandon_clk ..
      · split
        · rfl
        · exact (sendCctl_outward ..).clk

theorem enterAbort_clk (s : State) (a : Attempt) (cause : BitVec 12) : (enterAbort s a cause).clk = s.clk := by
  have hdiscard (u : State) : (discardIntake (discardQueues u)).clk = u.clk := rfl
  rw [enterAbort, enterState_clk, hdiscard, floodAbort_clk]

theorem startAbort_clk (s : State) (cause : BitVec 12) : (startAbort s cause).clk = s.clk := by
  unfold startAbort
  split
  · exact lockCause_clk s
  · split
    · rfl
    · split
      · rfl
      · split
        · rfl
        · exact enterAbort_clk ..

theorem sendJob_clk (s : State) (kind cause : Nat) (step : W64) (tag : W32) (data : Nat) (dsts : List Nat) :
    (sendJob s kind cause step tag data dsts).clk = s.clk := by
  unfold sendJob
  extract_lets r
  have hr : r.1.clk = s.clk := (sendCctlAll_outward ..).clk
  split
  · exact hr
  · rw [startAbort_clk, hr]

/-! Progress of the collectives (R255–R271). -/

theorem foldl_fst_keeps {ι κ α : Type} {f : State → α} {g : State × κ → ι → State × κ} (hg : ∀ a i, f (g a i).1 = f a.1)
    (l : List ι) (a : State × κ) : f (l.foldl g a).1 = f a.1 :=
  List.foldlRecOn (motive := fun b : State × κ => f b.1 = f a.1) l g rfl fun b h i _ => (hg b i).trans h

theorem sendMsg_clk (s c ord d x k dst b scale) : (sendMsg s c ord d x k dst b scale).1.clk = s.clk := by
  unfold sendMsg
  extract_lets parts id r
  have hr : r.1.clk = s.clk := foldl_fst_keeps (f := State.clk) (by exact fun _ _ => (sendTxn_outward ..).clk) _ _
  split
  · exact hr
  · rw [startAbort_clk, hr]

theorem sendFor_clk (s c run x k dst b scale) : (sendFor s c run x k dst b scale).1.clk = s.clk := sendMsg_clk ..

theorem sendDown_clk (s c run x k b scale) : (sendDown s c run x k b scale).1.clk = s.clk :=
  foldl_fst_keeps (f := State.clk) (fun a m => sendFor_clk a.1 c a.2 x k m b scale) _ _

theorem deliverChunk_clk (s run lo v) : (deliverChunk s run lo v).1.clk = s.clk := by
  unfold deliverChunk
  split <;> rfl

theorem writeResidues_clk (s d lo p) : (writeResidues s d lo p).clk = s.clk := by
  unfold writeResidues
  split <;> rfl

theorem updCore_clk (s : State) (c : CoreId) (f : Core → Core) : (updCore s c f).clk = s.clk := rfl

theorem pumpUp_clk (s c x run k) : (pumpUp s c x run k).1.clk = s.clk := by
  grind [pumpUp, sendFor_clk, writeResidues_clk, sendDown_clk, deliverChunk_clk]

theorem pumpDown_clk (s c x run k) : (pumpDown s c x run k).1.clk = s.clk := by
  grind [pumpDown, sendDown_clk, deliverChunk_clk]

theorem pumpBytes_clk (s c x run k) : (pumpBytes s c x run k).1.clk = s.clk := by
  grind [pumpBytes, sendDown_clk, wrMem_clk]

theorem pumpRing_clk (s c x run) : (pumpRing s c x run).1.clk = s.clk := by
  grind [pumpRing, sendFor_clk, updCore_clk, wrMem_clk]

theorem pumpRun_clk (s c run) : (pumpRun s c run).1.clk = s.clk := by
  unfold pumpRun
  split
  · rfl
  · split
    · exact pumpRing_clk ..
    · exact foldl_fst_keeps (f := State.clk) (by grind [pumpUp_clk, pumpDown_clk, pumpBytes_clk]) _ _

theorem pumpCore_clk (s c) : (pumpCore s c).clk = s.clk :=
  foldl_keeps (f := State.clk) (by grind [pumpRun_clk, updCore_clk]) _ _

theorem pumpAll_clk (s : State) : (pumpAll s).clk = s.clk := foldl_keeps (f := State.clk) (fun s _ => pumpCore_clk s _) _ _

/-! The ends of an attempt (R235, R238–R240). -/

theorem endReplay_clk (s : State) (reason : Nat) : (endReplay s reason).clk = s.clk := by
  unfold endReplay
  split
  · rfl
  · exact ((logAppend_outward ..).trans (raise_outward ..)).clk

theorem replayAfter_clk (s : State) (a : Attempt) (d : Option Bool) : (replayAfter s a d).1.clk = s.clk := by
  have hdiverge : (diverge s).clk = s.clk := by rw [diverge, endReplay_clk, raise_clk]
  unfold replayAfter
  split
  · exact hdiverge
  · dsimp only
    split
    · exact endReplay_clk ..
    · split
      · exact endReplay_clk ..
      · rfl
  · dsimp only
    split
    · exact endReplay_clk ..
    · rfl
  · rfl

theorem closeAttempt_clk (s : State) (a : Attempt) (v : Nat) (cause : BitVec 12) (tally : Bytes) :
    (closeAttempt s a v cause tally).1.clk = s.clk := by
  unfold closeAttempt
  extract_lets stats differs x s1 s2 s3
  have h1 : s1.clk = s.clk := mirrored_clk _
  have h2 : s2.clk = s1.clk := by dsimp only [s2]; split <;> rfl
  have h3 : s3.clk = s2.clk := by dsimp only [s3]; split <;> rfl
  rw [replayAfter_clk, (logAppend_outward ..).clk, h3, h2, h1]

/-- The state that a commit leads to: stopped where replay diverged. -/
theorem endState_clk (s : State) (diverged : Bool) :
    (if diverged then enterState { s with stp := { s.stp with stopPend := false } } .stopped else settleState s .idle).clk = s.clk := by
  split
  · exact enterState_clk ..
  · exact settleState_clk ..

theorem commitAttempt_clk (s : State) (a : Attempt) (cause : BitVec 12) (tally : Bytes) : (commitAttempt s a cause tally).clk = s.clk := by
  unfold commitAttempt
  extract_lets s0 x s1 seq
  have h1 : s1.clk = s.clk := mirrored_clk _
  clear_value s1
  have hclose := closeAttempt_clk s1 a verCommitted cause tally
  generalize closeAttempt s1 a verCommitted cause tally = r at hclose
  obtain ⟨s2, diverged⟩ := r
  dsimp only at hclose ⊢
  have hnote : (commitNotices s2 a seq).clk = s.clk := (commitNotices_outward s2 a seq).clk.trans (hclose.trans h1)
  exact (endControl_clk ..).trans ((endState_clk (commitNotices s2 a seq) diverged).trans hnote)

theorem stopAttempt_clk (s : State) (a : Attempt) (cause : BitVec 12) : (stopAttempt s a cause).clk = s.clk := by
  rw [stopAttempt, endControl_clk, enterState_clk]
  exact closeAttempt_clk ..

theorem noCommit_clk (s : State) (a : Attempt) (cause : BitVec 12) : (noCommit s a cause).clk = s.clk := by
  unfold noCommit
  extract_lets skip
  have hclose := closeAttempt_clk s a (if skip then verSkipped else verStopped) (cause ||| a.held) (zeroBytes 16)
  generalize closeAttempt s a _ _ _ = r at hclose
  obtain ⟨s1, diverged⟩ := r
  dsimp only at hclose ⊢
  rw [endControl_clk]
  split
  · rw [settleState_clk, raise_clk, hclose]
  · rw [enterState_clk]
    exact (raise_clk ..).trans hclose

/-! The decisions of an attempt. -/

theorem decideVerdict_clk (s : State) : (decideVerdict s).clk = s.clk := by
  grind [decideVerdict, setAtt, noCommit_clk]

theorem tryVerdictUp_clk (s : State) : (tryVerdictUp s).clk = s.clk := by
  grind [tryVerdictUp, setAtt, sendJob_clk, decideVerdict_clk]

theorem decideTally_clk (s : State) : (decideTally s).clk = s.clk := by
  grind [decideTally, setAtt, commitAttempt_clk, raise_clk, stopAttempt_clk]

/-! The re-shard lock. -/

theorem sendLock_clk (s : State) (kind : Nat) (l : List Nat) : (sendLock s kind l).clk = s.clk := sendJob_clk ..

theorem tryDrained_clk (s : State) : (tryDrained s).clk = s.clk := by
  grind [tryDrained, sendLock_clk, setLock]

theorem endAdvance_clk (s : State) (l : Lock) : (endAdvance s l).clk = s.clk := by
  unfold endAdvance
  extract_lets body s1 s2 s3
  have hload (u : State) : (loadImages u).clk = u.clk := foldl_keeps (f := State.clk) (by exact fun _ _ => rfl) _ _
  have h1 : s1.clk = s.clk := (hload _).trans (mirrored_clk _)
  have h3 : Outward s1 s3 := ((logAppend_outward ..).trans (raise_outward ..)).trans (sendCctlAll_outward ..)
  rw [pumpAll_clk, endControl_clk, settleState_clk, h3.clk, h1]

theorem tryPermuted_clk (s : State) : (tryPermuted s).clk = s.clk := by
  grind [tryPermuted, sendLock_clk, setLock, endAdvance_clk]

theorem takeLockMsg_clk (s : State) (t : Txn) : (takeLockMsg s t).clk = s.clk := by
  have habandon (l : Lock) (c : List Nat) :
      (endAbandon (sendCctlAll s ckAbandon 0 s.stp.c 0 0 c).1 l).clk = s.clk := by
    rw [endAbandon_clk, (sendCctlAll_outward ..).clk]
  grind [takeLockMsg, takeDrained, takeClosed, takePermuted, takeAdvance, takeAbandon, takeAbandonReq, setLock, tryDrained_clk,
    sendLock_clk, tryPermuted_clk, endAdvance_clk, decideAbandon_clk]

theorem takeKeptLock_clk (s : State) : (takeKeptLock s).clk = s.clk := by
  unfold takeKeptLock
  split
  · rfl
  · exact foldl_keeps (f := State.clk) takeLockMsg_clk _ _

end Sys2Proof.Machine
end

section
/-! A reference failure (R451): what the islands, the ports and the PCIe links lose leaves the step machine and the clocks' own
record of the failure as the suspension set them. -/
namespace Sys2Proof.Machine
open Sys2Proof Sys2Proof.Safety

variable {s t u : State}

/-! The islands and the governor. -/

/-- A state without the settings of its islands and what waits at the governor. -/
def unclocked (s : State) : State := { s with clk := { s.clk with islands := [], gov := [], forced := 0 } }

/-- What the islands' settings do not show in, is kept where `unclocked` is. -/
theorem keeps_of_unclocked (h : unclocked t = unclocked s) {α : Type} (f : State → α) (hf : ∀ s, f (unclocked s) = f s) :
    f t = f s := by rw [← hf t, h, hf s]

theorem unclocked_setIsland (s : State) (i : IslandId) (x : Island) : unclocked (setIsland s i x) = unclocked s := rfl

theorem unclocked_askMode (s : State) (i : IslandId) (m : BitVec 2) : unclocked (askMode s i m) = unclocked s := rfl

theorem unclocked_askClock (s : State) (i : IslandId) (a : ClockAsk) : unclocked (askClock s i a) = unclocked s := by
  unfold askClock
  split <;> rfl

theorem unclocked_applyClocks (s : State) : unclocked (applyClocks s) = unclocked s := by
  refine foldl_keeps (f := unclocked) (fun s i => ?_) _ s
  dsimp only
  split
  · rfl
  · split
    · exact unclocked_askClock ..
    · rfl

theorem unclocked_lockGenerators (s : State) : unclocked (lockGenerators s) = unclocked s := by
  refine foldl_keeps (f := unclocked) (fun s i => ?_) _ s
  dsimp only
  split
  · rfl
  · split
    · rfl
    · exact (unclocked_askClock ..).trans rfl

theorem unclocked_forceFallback (s : State) : unclocked (forceFallback s) = unclocked s := by
  have heach (f : Island → Island) (u : State) : unclocked (eachIsland u f) = unclocked u :=
    foldl_keeps (f := unclocked) (by exact fun _ _ => rfl) _ _
  unfold forceFallback
  extract_lets n s1
  have h1 : unclocked s1 = unclocked s := heach _ s
  clear_value s1
  simp only [unclocked] at h1 ⊢
  exact h1

theorem unclocked_foldl_askMode (m : BitVec 2) (l : List IslandId) (s : State) :
    unclocked (l.foldl (fun s i => askMode s i m) s) = unclocked s :=
  foldl_keeps (f := unclocked) (fun s i => unclocked_askMode s i m) l s

/-! The tiles that stop (R128). -/

/-- A state without what a tile's suspension writes. -/
def untiled (s : State) : State := { s with mem := [], cores := [] }

theorem ArrayWork.untiled {a b : State × TileRun} (h : ArrayWork a b) : untiled b.1 = untiled a.1 := by
  rw [h.frame]
  rfl

theorem untiled_foldl_wrMem {ι : Type} (f : ι → Nat × Bytes) (l : List ι) (s : State) :
    untiled (l.foldl (fun s i => wrMem s (f i).1 (f i).2) s) = untiled s :=
  foldl_keeps (f := untiled) (by exact fun _ _ => rfl) l s

theorem untiled_saveDeep (s : State) (t : TileRun) : untiled (saveDeep s t) = untiled s := by
  unfold saveDeep
  split
  · exact foldl_keeps (f := untiled) (by exact fun s m => foldl_keeps (f := untiled) (by exact fun _ _ => rfl) _ s) _ s
  · rfl

theorem untiled_suspendTile (s : State) (c : CoreId) (m : BroadcastMode) (n : Nat) : untiled (suspendTile s c m n) = untiled s := by
  unfold suspendTile
  extract_lets x
  split
  · rfl
  · next t ht =>
    have hrest : untiled (if t.ahead = 0 then (s, t) else spillRest t.fed.length s t).1 = untiled s := by
      split
      · rfl
      · exact (spillRest_work ..).untiled
    generalize (if t.ahead = 0 then (s, t) else spillRest t.fed.length s t) = r at hrest
    obtain ⟨s0, t0⟩ := r
    have hblocks : untiled (allBlocks n s0 t0).1 = untiled s0 := (allBlocks_work n s0 t0).untiled
    dsimp only at hrest ⊢
    generalize allBlocks n s0 t0 = r at hblocks
    obtain ⟨s1, t1⟩ := r
    dsimp only at hblocks ⊢
    refine Eq.trans (untiled_saveDeep ..) ?_
    split
    · exact hblocks.trans hrest
    · refine Eq.trans ?_ (hblocks.trans hrest)
      exact foldl_keeps (f := untiled) (by exact fun s m => foldl_keeps (f := untiled) (by exact fun _ _ => rfl) _ s) _ s1

theorem untiled_suspendTiles (s : State) (stops : List TileStop) : untiled (suspendTiles s stops) = untiled s :=
  foldl_keeps (f := untiled) (fun s _ => foldl_keeps (f := untiled) (fun s m => untiled_suspendTile s _ m _) _ s) _ s

/-- Memory and the tiles aside, a suspension changes the step machine alone. -/
theorem untiled_suspendWork (s : State) (inSlack : Bool) (stops : List TileStop) (h : inSlack = true → s.stp.state = .suspended) :
    ∃ p, untiled (suspendWork s inSlack stops) = untiled { s with stp := { s.stp with state := .suspended, prior := p } } ∧
      (s.stp.state ≠ .suspended → p = s.stp.state) := by
  unfold suspendWork suspendStep
  by_cases hs : s.stp.state = .suspended
  · have hself : { s with stp := { s.stp with state := .suspended, prior := s.stp.prior } } = s := by rw [← hs]
    refine ⟨s.stp.prior, ?_, fun hn => absurd hs hn⟩
    rw [hself]
    split
    · exact untiled_suspendTiles ..
    · rw [if_pos (by simpa [suspended] using hs)]
  · have hn : suspended s = false := by simp [suspended, hs]
    refine ⟨s.stp.state, ?_, fun _ => rfl⟩
    rw [if_neg (mt h hs), hn]
    exact untiled_suspendTiles ..

/-! The ports and the links. -/

/-- The step machine and the clocks of a state. -/
def stepAndClocks (s : State) : Stp × Clk := (s.stp, s.clk)

theorem stepAndClocks_raise (s : State) (code src : Nat) (p : Bytes) : stepAndClocks (raise s code src p) = stepAndClocks s := by
  simp [stepAndClocks]

theorem stepAndClocks_portGoesDown (s : State) (p : Nat) (st : PortState) : stepAndClocks (portGoesDown s p st) = stepAndClocks s := by
  unfold portGoesDown
  dsimp only
  split
  · rw [stepAndClocks_raise, stepAndClocks_raise]
    rfl
  · exact stepAndClocks_raise ..

theorem stepAndClocks_portDown (s : State) (p : Nat) : stepAndClocks (portDown s p) = stepAndClocks s := by
  unfold portDown
  dsimp only
  split
  · exact stepAndClocks_portGoesDown ..
  · exact stepAndClocks_portGoesDown ..
  · exact stepAndClocks_portGoesDown ..
  · rfl
  · rfl

theorem stepAndClocks_failHostCmd (s : State) (c : HoldCmd) : stepAndClocks (failHostCmd s c) = stepAndClocks s := by
  simp [stepAndClocks, failHostCmd, endExport, endCmd, raiseDma, raiseEvent]

theorem stepAndClocks_endDecode (s : State) (die : Nat) (k : EngineKind) (e : Nat) (f : Bool) :
    stepAndClocks (endDecode s die k e f) = stepAndClocks s := by
  unfold endDecode
  dsimp only
  split
  · rfl
  · split <;> rfl

theorem stepAndClocks_endTransfers (s : State) : stepAndClocks (endTransfers s) = stepAndClocks s := by
  unfold endTransfers
  extract_lets s1
  have h1 : stepAndClocks s1 = stepAndClocks s := by
    dsimp only [s1]
    split
    · split
      · exact stepAndClocks_failHostCmd ..
      · rfl
    · rfl
  refine (foldl_keeps (f := stepAndClocks) (fun s x => ?_) _ s1).trans h1
  split
  · rw [stepAndClocks_endDecode]
    exact stepAndClocks_raise ..
  · rfl

theorem stepAndClocks_queueError (s : State) (q code : Nat) : stepAndClocks (queueError s q code) = stepAndClocks s := by
  unfold queueError
  dsimp only
  split
  · rfl
  · exact stepAndClocks_raise ..

theorem stepAndClocks_resetFn (s : State) (l : Nat) : stepAndClocks (resetFn s l) = stepAndClocks s :=
  foldl_keeps (f := stepAndClocks) (fun s q => stepAndClocks_queueError s q 4) _ _

theorem stepAndClocks_moveOwn (s : State) (st : OwnState) (o : Fin 4) (cause : Nat) :
    stepAndClocks (moveOwn s st o cause) = stepAndClocks s := by
  unfold moveOwn
  split
  · rfl
  · exact stepAndClocks_raise ..

theorem stepAndClocks_linkDown (s : State) (l : Nat) : stepAndClocks (linkDown s l) = stepAndClocks s := by
  unfold linkDown
  extract_lets f s1 s2
  have hend : stepAndClocks (if l = 0 then endTransfers s1 else s1) = stepAndClocks s := by
    split
    · exact stepAndClocks_endTransfers s1
    · rfl
  have h2 : stepAndClocks s2 = stepAndClocks s := ((stepAndClocks_raise ..).trans (stepAndClocks_resetFn ..)).trans hend
  clear_value s2
  split
  · rfl
  · split
    · exact (stepAndClocks_moveOwn ..).trans h2
    · exact h2

end Sys2Proof.Machine
end

section
/-! What a resumption leads on (R218, R293, R451). -/
namespace Sys2Proof.Machine
open Sys2Proof Sys2Proof.Safety

variable {s t : State} {a : Attempt}

theorem sisterSealed_outward (s : State) (slot : Nat) : Outward s (sisterSealed s slot) := by
  unfold sisterSealed
  split
  · split
    · exact ⟨rfl, id⟩
    · exact .refl s
  · exact .refl s

theorem trySisterHeader_outward (s : State) : Outward s (trySisterHeader s) := by
  unfold trySisterHeader
  split
  · exact .refl s
  · next d hd =>
    dsimp only
    split
    · exact .refl s
    · have hsent : Outward s (sendPuts { s with hold := { s.hold with drain := some { d with point := 5 } } } (sisterId s)
          (.sisterHeader d.slot) 2 [(slotAddr s (2 + d.slot), d.header)]) := (sendPuts_outward ..).after rfl id
      split
      · exact hsent.trans (sisterSealed_outward ..)
      · exact hsent

/-- The state that a suspension held, with the sister copy's header on its way. -/
def unsuspended (s : State) : State := trySisterHeader { s with stp := { s.stp with state := s.stp.prior } }

theorem unsuspended_outward (s : State) : Outward { s with stp := { s.stp with state := s.stp.prior } } (unsuspended s) :=
  trySisterHeader_outward _

theorem unsuspended_stp (s : State) : (unsuspended s).stp = { s.stp with state := s.stp.prior } := (unsuspended_outward s).stp

theorem unsuspended_mem (s : State) : (unsuspended s).mem = s.mem := (unsuspended_outward s).mem

theorem unsuspended_cores (s : State) : (unsuspended s).cores = s.cores := (unsuspended_outward s).cores

theorem unsuspended_lock (s : State) : (unsuspended s).lock = s.lock := (unsuspended_outward s).lock

/-- The state that resumption leads on from: a pending STOP takes effect in idle. -/
def ledOn (s : State) : State := if (unsuspended s).stp.state = .idle then settleState (unsuspended s) .idle else unsuspended s

theorem ledOn_eq (hp : s.stp.prior ≠ .idle) : ledOn s = unsuspended s :=
  if_neg (by rw [unsuspended_stp]; exact hp)

theorem resumeStep_device (hs : s.stp.state = .suspended) (ha : (ledOn s).stp.att = none) :
    resumeStep s = pumpAll (takeKeptLock (ledOn s)) := by
  unfold resumeStep
  rw [if_neg (by simp [suspended, hs])]
  extract_lets x s1 s2
  have h2 : s2.stp.att = none := ha
  split
  · rfl
  · next h => rw [h2] at h; contradiction

theorem resumeStep_attempt (hs : s.stp.state = .suspended) (ha : (ledOn s).stp.att = some a) : resumeStep s =
    if a.lostWhileSuspended then startAbort (setAtt (ledOn s) { a with lostWhileSuspended := false }) a.cause
    else pumpAll (decideTally (decideVerdict (tryVerdictUp (ledOn s)))) := by
  unfold resumeStep
  rw [if_neg (by simp [suspended, hs])]
  extract_lets x s1 s2
  have h2 : s2.stp.att = some a := ha
  split
  · next h => rw [h2] at h; contradiction
  · next b h =>
    rw [h2, Option.some.injEq] at h
    subst h
    rfl

/-! What is not due stays. -/

theorem pumpAll_nothing (h : ∀ p ∈ s.cores, p.2.cols = []) : pumpAll s = s :=
  List.foldlRecOn (motive := (· = s)) _ _ rfl fun t ht k _ => by
    rw [ht]
    exact pumpCore_nothing (smGet_of_forall (P := fun x : Core => x.cols = []) rfl h _)

theorem tryVerdictUp_notDue (ha : s.stp.att = some a) (h : a.reduced = false ∨ a.upSent = true) : tryVerdictUp s = s := by
  unfold tryVerdictUp
  rw [ha]
  dsimp only
  rw [if_pos]
  rcases h with h | h <;> simp [h]

theorem decideVerdict_notDue (ha : s.stp.att = some a) (h : a.verdict ≠ none ∨ a.norm = none ∨ a.jobLoss = none) :
    decideVerdict s = s := by
  rcases h with h | h | h
  · simp [decideVerdict, ha, Option.isSome_iff_ne_none.2 h]
  · rw [decideVerdict, ha]
    simp [h]
  · exact decideVerdict_noLatch ha h

theorem decideTally_notDue (ha : s.stp.att = some a) (h : s.stp.state = .tally → 4 ≤ a.point ∨ a.digests.length < replicaSize s) :
    decideTally s = s := by
  by_cases hst : s.stp.state = .tally
  · rcases h hst with h | h
    · simp [decideTally, ha, h]
    · exact decideTally_waits ha h
  · simp [decideTally, ha, hst]

theorem takeKeptLock_noLock (h : s.lock = none) : takeKeptLock s = s := by
  simp [takeKeptLock, h]

theorem takeKeptLock_nothing (h : s.stp.kept = []) : takeKeptLock s = s := by
  unfold takeKeptLock
  simp only [h, List.filter_nil, List.foldl_nil]
  rw [← h]
  exact ite_self s

/-! Resumption. -/

theorem resumeStep_nothingDue (hs : s.stp.state = .suspended) (hc : ∀ p ∈ s.cores, p.2.cols = []) (ha : s.stp.att = none)
    (hp : s.stp.prior ≠ .idle) (hl : s.lock = none ∨ s.stp.kept = []) : resumeStep s = unsuspended s := by
  have hled : ledOn s = unsuspended s := ledOn_eq hp
  have hkept : takeKeptLock (unsuspended s) = unsuspended s := by
    rcases hl with h | h
    · exact takeKeptLock_noLock ((unsuspended_lock s).trans h)
    · exact takeKeptLock_nothing (by rw [unsuspended_stp]; exact h)
  rw [resumeStep_device hs (by rw [hled, unsuspended_stp]; exact ha), hled, hkept]
  exact pumpAll_nothing (by rw [unsuspended_cores]; exact hc)

theorem resumeStep_idle (hs : s.stp.state = .suspended) (hc : ∀ p ∈ s.cores, p.2.cols = []) (ha : s.stp.att = none)
    (hl : s.lock = none) (hp : s.stp.prior = .idle) : resumeStep s = settleState (unsuspended s) .idle := by
  have hled : ledOn s = settleState (unsuspended s) .idle := if_pos (by rw [unsuspended_stp]; exact hp)
  have hst : (unsuspended s).stp.state ≠ .suspended := by rw [unsuspended_stp]; simp [hp]
  have hset := settleState_eq (x := .idle) hst
  have hkept : takeKeptLock (settleState (unsuspended s) .idle) = settleState (unsuspended s) .idle :=
    takeKeptLock_noLock (by rw [hset]; exact (unsuspended_lock s).trans hl)
  rw [resumeStep_device hs (by rw [hled, hset, unsuspended_stp]; exact ha), hled, hkept]
  exact pumpAll_nothing (by rw [hset]; exact (unsuspended_cores s).symm ▸ hc)

theorem resumeStep_goesOn (hs : s.stp.state = .suspended) (hc : ∀ p ∈ s.cores, p.2.cols = []) (ha : s.stp.att = some a)
    (hp : s.stp.prior ≠ .idle) (hlost : a.lostWhileSuspended = false) (hup : a.reduced = false ∨ a.upSent = true)
    (hv : a.verdict ≠ none ∨ a.norm = none ∨ a.jobLoss = none)
    (ht : s.stp.prior = .tally → 4 ≤ a.point ∨ a.digests.length < replicaSize s) : resumeStep s = unsuspended s := by
  have hatt : (unsuspended s).stp.att = some a := by rw [unsuspended_stp]; exact ha
  have hsize : replicaSize (unsuspended s) = replicaSize s := (unsuspended_outward s).keeps replicaSize fun _ => rfl
  have hst : (unsuspended s).stp.state = s.stp.prior := by rw [unsuspended_stp]
  have hled : ledOn s = unsuspended s := ledOn_eq hp
  rw [resumeStep_attempt hs (hled ▸ hatt), hled, hlost, if_neg Bool.false_ne_true, tryVerdictUp_notDue hatt hup,
    decideVerdict_notDue hatt hv, decideTally_notDue hatt (by rw [hst, hsize]; exact ht)]
  exact pumpAll_nothing (by rw [unsuspended_cores]; exact hc)

/-- A resumption leads on what was suspended. -/
theorem resumeStep_resumed (hs : s.stp.state = .suspended) : resumed s (resumeStep s) := by
  intro hc
  refine ⟨fun ha hl hp => ?_, fun ha hl hp => ?_, fun l ha hl hp hk => ?_, fun a ha hp => ⟨fun hlost hup hv ht => ?_, fun hlost hpt => ?_⟩⟩
  · rw [resumeStep_nothingDue hs hc ha (by simp [hp]) (.inl hl), unsuspended_stp, unsuspended_mem, hp]
    exact ⟨rfl, rfl⟩
  · rw [resumeStep_idle hs hc ha hl hp, settleState_eq (by rw [unsuspended_stp]; simp [hp]), unsuspended_stp]
    exact ⟨rfl, rfl, rfl, rfl, rfl, unsuspended_mem s⟩
  · rw [resumeStep_nothingDue hs hc ha (by simp [hp]) (.inr hk), unsuspended_stp, unsuspended_mem, unsuspended_lock, hp]
    exact ⟨rfl, hl, rfl⟩
  · have hidle : s.stp.prior ≠ .idle := by rintro h; simp [h] at hp
    rw [resumeStep_goesOn hs hc ha hidle hlost hup hv ht, unsuspended_stp, unsuspended_mem]
    exact ⟨rfl, rfl⟩
  · have hidle : s.stp.prior ≠ .idle := by rintro h; simp [h] at hp
    have hsusp : s.stp.prior ≠ .suspended := by rintro h; simp [h] at hp
    have hled : ledOn s = unsuspended s := ledOn_eq hidle
    rw [resumeStep_attempt hs (by rw [hled, unsuspended_stp]; exact ha), hled, hlost, if_pos rfl]
    have hab := startAbort_aborts_keeps (s := setAtt (unsuspended s) { a with lostWhileSuspended := false })
      (a := { a with lostWhileSuspended := false }) rfl hpt (by rw [setAtt, unsuspended_stp]; exact hsusp) a.cause
    have hstp : (setAtt (unsuspended s) { a with lostWhileSuspended := false }).stp =
        { s.stp with state := s.stp.prior, att := some { a with lostWhileSuspended := false } } := by
      rw [setAtt, unsuspended_stp]
    obtain ⟨hst, hbank, hcs, hA, hmem⟩ := hab
    rw [hstp] at hbank hcs hA
    exact ⟨hst, hbank, hcs, hA, hmem.trans (unsuspended_mem s)⟩

theorem resumeStep_clk (s : State) : (resumeStep s).clk = s.clk := by
  by_cases hs : s.stp.state = .suspended
  · have hled : (ledOn s).clk = s.clk := by
      unfold ledOn
      split
      · exact (settleState_clk ..).trans (unsuspended_outward s).clk
      · exact (unsuspended_outward s).clk
    cases ha : (ledOn s).stp.att with
    | none => rw [resumeStep_device hs ha, pumpAll_clk, takeKeptLock_clk, hled]
    | some a =>
      rw [resumeStep_attempt hs ha]
      split
      · rw [startAbort_clk]
        exact hled
      · rw [pumpAll_clk, decideTally_clk, decideVerdict_clk, tryVerdictUp_clk, hled]
  · rw [resumeStep, if_pos (by simp [suspended, hs])]

end Sys2Proof.Machine
end

section
/-! The reference (R447–R451): it fails, it is restored, and the owner leads the step on or discards it; a source switch is staged,
refused or forced. -/
namespace Sys2Proof.Machine
open Sys2Proof Sys2Proof.Safety

variable {s t : State} {a : Attempt}

/-! A failure. -/

/-- The step machine, and what the clocks hold of a failure. -/
def failureRecord (s : State) : Stp × RefState × W32 × Bool := (s.stp, s.clk.ref, s.clk.refFails, s.clk.needResume)

theorem failureRecord_of_stepAndClocks (h : stepAndClocks t = stepAndClocks s) : failureRecord t = failureRecord s :=
  congrArg (fun x : Stp × Clk => (x.1, x.2.ref, x.2.refFails, x.2.needResume)) h

theorem failureRecord_of_untiled (h : untiled t = untiled s) : failureRecord t = failureRecord s :=
  show failureRecord (untiled t) = failureRecord (untiled s) from congrArg failureRecord h

theorem failureRecord_of_unclocked (h : unclocked t = unclocked s) : failureRecord t = failureRecord s :=
  keeps_of_unclocked h failureRecord fun _ => rfl

/-- Points 1 to 3 of R451. -/
theorem refFailure_fails (s : State) (cause : Nat) (count : BitVec 16) (stops : List TileStop) :
    ∃ p, failureRecord (refFailure s cause count stops) =
      ({ s.stp with state := .suspended, prior := p }, .failed, satInc32 s.clk.refFails, true) ∧
      (s.stp.state ≠ .suspended → p = s.stp.state) := by
  unfold refFailure
  extract_lets x s1 s2 s3 s4
  have hraise := stepAndClocks_raise s1 0x8801 srcDevice (toLe 1 cause ++ toLe 2 count.toNat)
  have hslack : slackOnly s = true → s.stp.state = .suspended := by
    simp only [slackOnly, suspended, Bool.and_eq_true, decide_eq_true_eq]
    exact And.left
  obtain ⟨hstp, hclk⟩ := Prod.mk.inj hraise
  obtain ⟨p, hp, hprior⟩ := untiled_suspendWork (raise s1 0x8801 srcDevice (toLe 1 cause ++ toLe 2 count.toNat)) (slackOnly s) stops
    (by rw [hstp]; exact hslack)
  have h2 : failureRecord s2 = ({ s.stp with state := .suspended, prior := p }, .failed, satInc32 s.clk.refFails, true) := by
    refine (failureRecord_of_untiled hp).trans ?_
    rw [failureRecord, hclk, hstp]
  have h3 : failureRecord s3 = failureRecord s2 := failureRecord_of_unclocked (unclocked_foldl_askMode ..)
  have h4 : failureRecord s4 = failureRecord s3 :=
    (failureRecord_of_stepAndClocks (foldl_keeps (f := stepAndClocks) stepAndClocks_portDown _ _)).trans
      (failureRecord_of_unclocked (unclocked_forceFallback s3))
  refine ⟨p, ?_, fun hs => (hprior (by rw [hstp]; exact hs)).trans (by rw [hstp])⟩
  have h5 := failureRecord_of_stepAndClocks (foldl_keeps (f := stepAndClocks) stepAndClocks_linkDown [0, 1] s4)
  exact ((h5.trans h4).trans h3).trans h2

/-- `t` is `s` after a failure of its reference. -/
structure ReferenceFailed (s t : State) : Prop where
  ref : t.clk.ref = .failed
  count : t.clk.refFails = satInc32 s.clk.refFails
  waits : t.clk.needResume = true
  state : t.stp.state = .suspended
  prior : s.stp.state ≠ .suspended → t.stp.prior = s.stp.state
  bank : t.stp.bank = s.stp.bank
  c : t.stp.c = s.stp.c

theorem refFailure_failed (s : State) (cause : Nat) (count : BitVec 16) (stops : List TileStop) :
    ReferenceFailed s (refFailure s cause count stops) := by
  obtain ⟨p, hrec, hprior⟩ := refFailure_fails s cause count stops
  generalize refFailure s cause count stops = t at hrec
  simp only [failureRecord, Prod.mk.injEq] at hrec
  obtain ⟨hstp, href, hcount, hwaits⟩ := hrec
  exact ⟨href, hcount, hwaits, by rw [hstp], fun hs => by rw [hstp]; exact hprior hs, by rw [hstp], by rw [hstp]⟩

theorem monitorWindow_fails {die : Nat} {count : BitVec 16} {stops : List TileStop} (hp : isPowered s = true)
    (hr : s.clk.ref = .good)
    (hf : count = 0 ∨ outOfRange (expectedCount s die) count.toNat = true ∧ smGet 0 s.clk.bad die = 1) :
    ∃ cause, monitorWindow s die count stops = refFailure s cause count stops := by
  unfold monitorWindow
  rw [hp, hr]
  by_cases h0 : count = 0
  · exact ⟨1, by simp [h0]⟩
  · obtain ⟨hout, hbad⟩ := hf.resolve_left h0
    refine ⟨2, ?_⟩
    dsimp only
    rw [if_neg h0, hout, hbad]
    rfl

theorem monitorWindow_inRange {die : Nat} {count : BitVec 16} {stops : List TileStop} (hp : isPowered s = true)
    (hr : s.clk.ref = .good) (h0 : count ≠ 0) (hin : outOfRange (expectedCount s die) count.toNat = false) :
    monitorWindow s die count stops = endHoldover { s with clk := { s.clk with bad := smSet 0 s.clk.bad die 0 } } die := by
  unfold monitorWindow
  rw [hp, hr]
  dsimp only
  rw [if_neg h0, hin]
  rfl

/-! A restoration. -/

theorem smGet_foldl_smSet {α : Type} [DecidableEq α] {d : α} (f : Nat → α) (l : List Nat) {m : SMap α} (h : smWf d m = true) {j : Nat}
    (hj : j ∈ l) : smGet d (l.foldl (fun m k => smSet d m k (f k)) m) j = f j := by
  induction l generalizing m with
  | nil => simp at hj
  | cons k l ih =>
    by_cases hl : j ∈ l
    · exact ih (smSet_wf k (f k) h) hl
    · obtain rfl : j = k := (List.mem_cons.1 hj).resolve_right hl
      have hlater (m : SMap α) (hm : smGet d m j = f j) : smGet d (l.foldl (fun m k => smSet d m k (f k)) m) j = f j :=
        List.foldlRecOn (motive := fun m => smGet d m j = f j) _ _ hm fun m hm k hk => by
          have hjk : j ≠ k := by rintro rfl; exact hl hk
          rw [smGet_smSet_other _ _ _ hjk, hm]
      exact hlater _ (by rw [smGet_smSet _ _ _ h, if_pos rfl])

/-- The clocks' calibration by the windows of the monitors. -/
theorem calibrate_eq (s : State) (windows : List (List (BitVec 16))) : 
    (calibrate s windows).clk.ref = .good ∧ (calibrate s windows).clk.n0 = BitVec.ofNat 16 (meanCount ((windows[12]?).getD [])) ∧
      (∀ d, d < 12 → expectedCount (calibrate s windows) d = meanCount ((windows[d]?).getD [])) ∧
      (calibrate s windows).stp = s.stp ∧ (calibrate s windows).mem = s.mem ∧
      (calibrate s windows).clk.needResume = s.clk.needResume := by
  unfold calibrate
  extract_lets n others
  refine ⟨by rw [raise_clk], by rw [raise_clk], fun d hd => ?_, raise_stp .., raise_mem .., by rw [raise_clk]⟩
  rw [expectedCount, if_neg (by omega), raise_clk]
  exact smGet_foldl_smSet n _ rfl (by simp; omega)

theorem unclocked_referenceRestored (hr : s.clk.ref = .failed) (windows : List (List (BitVec 16))) :
    unclocked (referenceRestored s windows) = unclocked (calibrate s windows) := by
  have hrun (u : State) : unclocked (if u.pwr.slack && !u.pwr.releasing then u
      else (stackIslands u).foldl (fun s i => askMode s i modeRun) u) = unclocked u := by
    split
    · rfl
    · exact unclocked_foldl_askMode ..
  have h1 : unclocked (lockGenerators (applyClocks (calibrate s windows))) = unclocked (calibrate s windows) :=
    (unclocked_lockGenerators _).trans (unclocked_applyClocks _)
  unfold referenceRestored
  rw [if_neg (by simp [hr])]
  exact (hrun _).trans h1

/-! The owner's RESUME and DISCARD. -/

theorem clkResume_held (hr : s.clk.ref = .good) (hn : s.clk.needResume = true) (hw : s.pwr.slack = true ∨ anyStackHolds s = true) :
    clkResume s = { s with clk := { s.clk with resumePend := true } } := by
  have hstack : anyStackHolds { s with clk := { s.clk with resumePend := true } } = anyStackHolds s := rfl
  unfold clkResume takeResume
  rw [if_neg (by simp [hr, hn]), if_neg]
  rw [hstack]
  rcases hw with h | h <;> simp [h]

theorem clkResume_leadsOn (hr : s.clk.ref = .good) (hn : s.clk.needResume = true) (hs : s.pwr.slack = false)
    (hk : anyStackHolds s = false) :
    clkResume s = resumeStep { s with clk := { s.clk with needResume := false, resumePend := false } } := by
  have hstack : anyStackHolds { s with clk := { s.clk with resumePend := true } } = anyStackHolds s := rfl
  unfold clkResume takeResume
  rw [if_neg (by simp [hr, hn]), if_pos]
  rw [hstack]
  simp [hr, hn, hs, hk]

theorem dropRunning_keeps (s : State) : (dropRunning s).stp = s.stp ∧ (dropRunning s).lock = s.lock ∧ (dropRunning s).mem = s.mem ∧
    (dropRunning s).pwr = s.pwr := by
  unfold dropRunning
  split
  · split <;> simp
  · simp

/-- DISCARD outside slack state stops the device with what is committed as it was. -/
theorem clkDiscard_stops (hr : s.clk.ref = .good) (hn : s.clk.needResume = true) (hs : s.pwr.slack = false) :
    (clkDiscard s).stp.state = .stopped ∧ (clkDiscard s).stp.att = none ∧ (clkDiscard s).lock = none ∧
      (clkDiscard s).clk.needResume = false ∧ (clkDiscard s).stp.bank = s.stp.bank ∧ (clkDiscard s).stp.c = s.stp.c ∧
      (clkDiscard s).stp.a = s.stp.a ∧ (clkDiscard s).mem = s.mem := by
  obtain ⟨hstp, hlock, hmem, hpwr⟩ := dropRunning_keeps (discardAttempt { s with lock := none })
  unfold clkDiscard
  rw [if_neg (by simp [hr, hn])]
  generalize dropRunning _ = u at hstp hlock hmem hpwr
  dsimp only
  have hslack : u.pwr.slack = false := by rw [hpwr]; exact hs
  rw [hslack, if_neg Bool.false_ne_true]
  dsimp only
  rw [hstp, hlock, hmem]
  exact ⟨rfl, rfl, rfl, rfl, rfl, rfl, rfl, rfl⟩

/-! Source switches (R447, R448). -/

theorem askSource_named {i : IslandId} {gen : Bool} (hi : (namedIslands s).contains i = true)
    (hl : gen = false ∨ (getIsland s i).lock = true) :
    askSource s i gen = askClock s i (if gen then .toGenerator else .toFallback) := by
  rcases hl with h | h <;> simp only [askSource, hi, h] <;> simp

theorem askSource_refused {i : IslandId} (hi : (namedIslands s).contains i = true) (hl : (getIsland s i).lock = false) :
    askSource s i true = setIsland s i { getIsland s i with last := 3 } := by
  simp only [askSource, hi, hl]
  rfl

theorem forceSwitch_stopped {i : IslandId} (ht : (getIsland s i).target = some true) (hl : (getIsland s i).lock = false) :
    forceSwitch s i = s := by
  simp [forceSwitch, ht, hl]

/-- The state with a switch forced to a source. -/
def forcedSwitch (s : State) (i : IslandId) (g : Bool) : State :=
  setIsland { s with clk := { s.clk with forced := satInc32 s.clk.forced } } i { getIsland s i with generator := g, last := 2, target := none }

theorem forceSwitch_forces {i : IslandId} {g : Bool} (ht : (getIsland s i).target = some g)
    (hg : g = false ∨ (getIsland s i).lock = true) : eventsOnly (forcedSwitch s i g) (forceSwitch s i) := by
  have hrun : ¬(g && !(getIsland s i).lock) = true := by rcases hg with h | h <;> simp [h]
  simp only [forceSwitch, ht]
  rw [if_neg hrun]
  split
  · exact .refl _
  · exact raise_frame (forcedSwitch s i g) ..

/-- Settles O59: each clause from what its command does. -/
theorem referenceFailsAndRecovers : Obligations.ReferenceFailsAndRecovers := by
  intro s
  refine ⟨fun die count stops hp hr => ⟨fun hf => ?_, fun h0 hin => ?_⟩, fun i hi hl => ?_, fun windows hr => ?_,
    fun m ho hm hb => ⟨fun hr hn => ⟨fun hw => ?_, fun hs hk hst => ?_, fun hs => ?_⟩, fun i hi hc => ⟨?_, fun hl => ?_, fun a ha => ?_,
      fun hl => ?_⟩⟩, fun i x hx htgt hl => ?_, fun i g x hx htgt hl => ?_⟩
  · obtain ⟨cause, heq⟩ := monitorWindow_fails (stops := stops) hp hr hf
    obtain ⟨href, hcount, hwaits, hstate, hprior, hbank, hc⟩ := refFailure_failed s cause count stops
    exact ⟨_, congrArg Host.Outcome.next heq, href, hcount, hwaits, hstate, hprior, hbank, hc⟩
  · exact ⟨_, congrArg Host.Outcome.next (monitorWindow_inRange hp hr h0 hin), rfl, hr, rfl, rfl⟩
  · refine congrArg Host.Outcome.next ?_
    rw [generatorHoldover, hi, hl]
    rfl
  · have h := unclocked_referenceRestored hr windows
    obtain ⟨hgood, hn0, hd, hstp, hmem, hneed⟩ := calibrate_eq s windows
    refine ⟨_, rfl, ?_, ?_, fun d hlt => ?_, ?_, ?_, ?_⟩
    · exact (keeps_of_unclocked h (fun s => s.clk.ref) fun _ => rfl).trans hgood
    · exact (keeps_of_unclocked h (fun s => s.clk.n0) fun _ => rfl).trans hn0
    · exact (keeps_of_unclocked h (fun s => expectedCount s d) fun _ => rfl).trans (hd d hlt)
    · exact (keeps_of_unclocked h State.stp fun _ => rfl).trans hstp
    · exact (keeps_of_unclocked h State.mem fun _ => rfl).trans hmem
    · exact (keeps_of_unclocked h (fun s => s.clk.needResume) fun _ => rfl).trans hneed
  · exact congrArg Host.Outcome.next ((writeGate_owner hm hb ho).trans (clkResume_held hr hn hw))
  · have hclk := resumeStep_clk { s with clk := { s.clk with needResume := false, resumePend := false } }
    refine ⟨_, congrArg Host.Outcome.next ((writeGate_owner hm hb ho).trans (clkResume_leadsOn hr hn hs hk)), ?_, ?_, ?_⟩
    · rw [hclk]
    · rw [hclk]
    · exact resumeStep_resumed (s := { s with clk := { s.clk with needResume := false, resumePend := false } }) hst
  · exact ⟨_, congrArg Host.Outcome.next (writeGate_owner hm hb ho), clkDiscard_stops hr hn hs⟩
  · subst hi
    exact congrArg Host.Outcome.next ((writeGate_owner hm hb ho).trans (askSource_named hc (.inl rfl)))
  · subst hi
    exact congrArg Host.Outcome.next ((writeGate_owner hm hb ho).trans (askSource_named hc (.inr hl)))
  · exact ⟨_, by rw [askClock, if_neg ha], rfl, rfl, rfl, by rw [askClock, if_neg ha]⟩
  · subst hi
    exact congrArg Host.Outcome.next ((writeGate_owner hm hb ho).trans (askSource_refused hc hl))
  · subst hx
    exact congrArg Host.Outcome.next (forceSwitch_stopped htgt hl)
  · subst hx
    exact ⟨_, rfl, forceSwitch_forces htgt hl⟩

end Sys2Proof.Machine
end

section
/-! What the collectives of a core leave as they go on (R255–R271): the step state of the device, the lock, the credits sent, and of
each core its counters and the list of its collectives. -/
namespace Sys2Proof.Machine
open Sys2Proof Sys2Proof.Safety

variable {s t u : State}

/-! The credits sent (R271). -/

theorem eventsOnly_ring (h : eventsOnly s t) : t.bus.ring = s.bus.ring := by
  obtain ⟨_, _, _, _, _, _, rfl, _, _, _, _, _, _, hring, _⟩ := h
  exact hring

theorem raise_ring (s : State) (code src : Nat) (p : Bytes) : (raise s code src p).bus.ring = s.bus.ring :=
  eventsOnly_ring (raise_frame ..)

theorem endControl_ring (s : State) (j : JobEnt) (st code : Nat) : (endControl s j st code).bus.ring = s.bus.ring :=
  eventsOnly_ring (s := { s with ctl := { s.ctl with running := none } }) (endControl_frame ..)

theorem sendTxn_ring (s : State) (rail : Nat) (x : Txn) (why : SentFor) : (sendTxn s rail x why).1.bus.ring = s.bus.ring := by
  unfold sendTxn
  split
  · rfl
  · split
    · exact (raise_ring ..).trans (raise_ring ..)
    · rfl

theorem sendCctl_ring (s : State) (kind cause : Nat) (step : W64) (tag : W32) (data dst : Nat) :
    (sendCctl s kind cause step tag data dst).1.bus.ring = s.bus.ring := sendTxn_ring ..

theorem sendCctlAll_ring (s : State) (kind cause : Nat) (step : W64) (tag : W32) (data : Nat) (dsts : List Nat) :
    (sendCctlAll s kind cause step tag data dsts).1.bus.ring = s.bus.ring :=
  foldl_fst_keeps (f := fun s => s.bus.ring) (by exact fun _ _ => sendCctl_ring ..) dsts (s, true)

theorem sendLogCopy_ring (s : State) (r : LogRec) : (sendLogCopy s r).bus.ring = s.bus.ring := by
  unfold sendLogCopy
  split
  · rfl
  · exact foldl_fst_keeps (f := fun s => s.bus.ring) (by exact fun _ _ => sendTxn_ring ..) _ (s, true)

theorem loseCover_ring (s : State) (seq : W64) (i : Nat) : (loseCover s seq i).bus.ring = s.bus.ring := by
  unfold loseCover
  dsimp only
  split
  · exact raise_ring ..
  · rfl

theorem loseReplay_ring (s : State) (seq : W64) : (loseReplay s seq).bus.ring = s.bus.ring := by
  unfold loseReplay
  split
  · split <;> rfl
  · rfl

theorem logEvict_ring (n : Nat) (s : State) (need : Nat) : (logEvict n s need).bus.ring = s.bus.ring := by
  induction n generalizing s with
  | zero => rfl
  | succ n ih =>
    unfold logEvict
    split
    · rfl
    · split
      · rfl
      · rw [ih]
        dsimp only
        rw [loseCover_ring, loseCover_ring, loseReplay_ring]

theorem logAppend_ring (s : State) (type : Nat) (step : W64) (body : Bytes) : (logAppend s type step body).bus.ring = s.bus.ring := by
  unfold logAppend
  extract_lets seq prev r s1
  have hevict : s1.bus.ring = s.bus.ring := logEvict_ring ..
  clear_value s1
  exact (sendLogCopy_ring ..).trans hevict

/-! The relation. -/

/-- What the device's step state holds from one step to the next (R220, R277). -/
def lasting (p : Stp) : Bool × W32 × Nat × W64 × W64 × SMap W32 := (p.bank, p.epoch, p.layout, p.c, p.a, p.advances)

/-- From `s` to `t` collectives went on: the lasting step state, the credits sent and every core's counters stay, and no lock and no
control entry comes up. -/
structure Going (s t : State) : Prop where
  lasting : lasting t.stp = lasting s.stp
  lock : s.lock = none → t.lock = none
  running : s.ctl.running = none → t.ctl.running = none
  ring : t.bus.ring = s.bus.ring
  cores : smWf Core.init s.cores = true → smWf Core.init t.cores = true
  ctr : smWf Core.init s.cores = true → ∀ c, (getCore t c).ctr = (getCore s c).ctr

/-- As `Going`, and every core has the same collectives in progress. -/
structure Steady (s t : State) : Prop extends Going s t where
  cols : smWf Core.init s.cores = true → ∀ c, (getCore t c).cols = (getCore s c).cols

theorem Going.refl (s : State) : Going s s := ⟨rfl, id, id, rfl, id, fun _ _ => rfl⟩

theorem Going.trans (h : Going s t) (k : Going t u) : Going s u :=
  ⟨k.lasting.trans h.lasting, fun hl => k.lock (h.lock hl), fun hr => k.running (h.running hr), k.ring.trans h.ring,
    fun hw => k.cores (h.cores hw), fun hw c => (k.ctr (h.cores hw) c).trans (h.ctr hw c)⟩

theorem Steady.refl (s : State) : Steady s s := ⟨.refl s, fun _ _ => rfl⟩

theorem Steady.trans (h : Steady s t) (k : Steady t u) : Steady s u :=
  ⟨h.toGoing.trans k.toGoing, fun hw c => (k.cols (h.cores hw) c).trans (h.cols hw c)⟩

/-- A change of the cores' other parts, of memory, of the fabric and of the rest of the step state. -/
theorem Steady.of_parts (hp : Machine.lasting t.stp = Machine.lasting s.stp) (hl : s.lock = none → t.lock = none)
    (hr : s.ctl.running = none → t.ctl.running = none) (hring : t.bus.ring = s.bus.ring) (hc : t.cores = s.cores) : Steady s t := by
  have hget (c : CoreId) : getCore t c = getCore s c := by rw [getCore, getCore, coreAt, coreAt, hc]
  exact ⟨⟨hp, hl, hr, hring, fun hw => hc ▸ hw, fun _ c => by rw [hget]⟩, fun _ c => by rw [hget]⟩

theorem Outward.steady (h : Outward s t) (hr : t.bus.ring = s.bus.ring) : Steady s t :=
  .of_parts (by rw [h.stp]) (fun hl => h.lock.trans hl) (fun hn => by rw [h.ctl, hn]) hr h.cores

theorem wrMem_steady (a : Nat) (b : Bytes) (h : Steady s t) : Steady s (wrMem t a b) :=
  h.trans (.of_parts rfl id id rfl rfl)

/-- A change of one core that keeps its counters and its collectives. -/
theorem updCore_steady {c : CoreId} {f : Core → Core} (hctr : ∀ y, (f y).ctr = y.ctr) (hcols : ∀ y, (f y).cols = y.cols) (s : State) :
    Steady s (updCore s c f) := by
  have hget (hw : smWf Core.init s.cores = true) (d : CoreId) : getCore (updCore s c f) d = if d = c then f (getCore s c) else getCore s d :=
    getCore_setCore_wf s c d _ hw
  refine ⟨⟨rfl, id, id, rfl, fun hw => smSet_wf _ _ hw, fun hw d => ?_⟩, fun hw d => ?_⟩
  · rw [hget hw]
    split
    · next hd => rw [hctr, hd]
    · rfl
  · rw [hget hw]
    split
    · next hd => rw [hcols, hd]
    · rfl

/-! An abort cause (R241, R275) leaves all this. -/

theorem enterState_steady (s : State) (x : StepState) : Steady s (enterState s x) := by
  unfold enterState
  split <;> exact .of_parts rfl id id rfl rfl

/-- A core whose queues are discarded. -/
def queuesDropped (x : Core) : Core :=
  { x with tileQ := [], vecQ := [], movQ := [], colQ := [], mark := none, markBad := false, runActive := false, fwdEnded := false }

theorem getCore_discard (hw : smWf Core.init s.cores = true) (c : CoreId) :
    getCore (discardIntake (discardQueues s)) c = queuesDropped (getCore s c) :=
  smGet_map_filter (f := fun p => queuesDropped p.2) rfl hw

theorem discard_steady (s : State) : Steady s (discardIntake (discardQueues s)) :=
  ⟨⟨rfl, id, id, rfl, fun hw => smWf_mapVal (m := s.cores) queuesDropped hw,
    fun hw c => by rw [getCore_discard hw]; rfl⟩, fun hw c => by rw [getCore_discard hw]; rfl⟩

theorem endControl_steady (s : State) (j : JobEnt) (st code : Nat) : Steady s (endControl s j st code) :=
  .of_parts (by rw [endControl_stp]) (fun hl => by rw [endControl_lock, hl]) (fun _ => by simp [endControl])
    (endControl_ring ..) (endControl_cores ..)

theorem endAbandon_steady (s : State) (l : Lock) : Steady s (endAbandon s l) := by
  unfold endAbandon
  extract_lets s1 s2
  have hgone : Steady s { s with lock := none } := .of_parts rfl (fun _ => rfl) id rfl rfl
  have hsent : Steady { s with lock := none } s2 :=
    ((logAppend_outward ..).trans (raise_outward ..)).steady ((raise_ring ..).trans (logAppend_ring ..))
  have hpend : Steady s2 { s2 with stp := { s2.stp with stopPend := false } } := .of_parts rfl id id rfl rfl
  exact (((hgone.trans hsent).trans hpend).trans (enterState_steady ..)).trans (endControl_steady ..)

theorem sendCctlAll_steady (s : State) (kind cause : Nat) (step : W64) (tag : W32) (data : Nat) (dsts : List Nat) :
    Steady s (sendCctlAll s kind cause step tag data dsts).1 := (sendCctlAll_outward ..).steady (sendCctlAll_ring ..)

theorem lockCause_steady (s : State) : Steady s (lockCause s) := by
  unfold lockCause
  split
  · exact .refl s
  · next l hl =>
    split
    · exact .refl s
    · split
      · split
        · exact .refl s
        · exact (sendCctlAll_steady ..).trans (endAbandon_steady ..)
      · split
        · exact .refl s
        · have hasked : Steady s { s with lock := some { l with abandonAsked := true } } :=
            .of_parts rfl (fun hn => nomatch hl.symm.trans hn) id rfl rfl
          exact hasked.trans ((sendCctl_outward ..).steady (sendCctl_ring ..))

theorem floodAbort_steady (s : State) (cause : Nat) (step : W64) (tag : W32) (f : Option Nat) :
    Steady s (floodAbort s cause step tag f) := by
  unfold floodAbort
  split
  · exact .refl s
  · have hnoted : Steady s { s with stp := { s.stp with abortsSeen := s.stp.abortsSeen ++ [tag] } } := .of_parts rfl id id rfl rfl
    exact hnoted.trans (sendCctlAll_steady ..)

theorem enterAbort_steady (s : State) (a : Attempt) (cause : BitVec 12) : Steady s (enterAbort s a cause) := by
  unfold enterAbort
  have hnoted : Steady s { s with stp := { s.stp with att := some { a with cause := a.cause ||| cause } } } :=
    .of_parts rfl id id rfl rfl
  exact ((hnoted.trans (floodAbort_steady ..)).trans (discard_steady _)).trans (enterState_steady ..)

theorem startAbort_steady (cause : BitVec 12) (h : Steady s t) : Steady s (startAbort t cause) := by
  refine h.trans ?_
  unfold startAbort
  split
  · exact lockCause_steady t
  · split
    · exact .of_parts rfl id id rfl rfl
    · split
      · exact .of_parts rfl id id rfl rfl
      · split
        · exact .of_parts rfl id id rfl rfl
        · exact enterAbort_steady ..

/-! Progress of one collective (R255–R271). -/

theorem foldl_steady {ι κ : Type} {g : State × κ → ι → State × κ} (hg : ∀ a i, Steady s a.1 → Steady s (g a i).1)
    (l : List ι) {a : State × κ} (h : Steady s a.1) : Steady s (l.foldl g a).1 :=
  List.foldlRecOn (motive := fun b : State × κ => Steady s b.1) l g h fun _ h i _ => hg _ i h

theorem sendMsg_steady (c ord d x k dst b scale) (h : Steady s t) : Steady s (sendMsg t c ord d x k dst b scale).1 := by
  unfold sendMsg
  extract_lets parts id r
  have hr : Steady s r.1 :=
    foldl_steady (by exact fun _ _ h => h.trans ((sendTxn_outward ..).steady (sendTxn_ring ..))) _ h
  split
  · exact hr
  · exact startAbort_steady _ hr

theorem sendFor_steady (c run x k dst b scale) (h : Steady s t) : Steady s (sendFor t c run x k dst b scale).1 :=
  sendMsg_steady _ _ _ _ _ _ _ _ h

theorem sendDown_steady (c run x k b scale) (h : Steady s t) : Steady s (sendDown t c run x k b scale).1 :=
  foldl_steady (fun a m => sendFor_steady c a.2 x k m b scale) _ h

theorem deliverChunk_steady (run lo v) (h : Steady s t) : Steady s (deliverChunk t run lo v).1 := by
  unfold deliverChunk
  split
  · exact h
  · exact wrMem_steady _ _ h

theorem writeResidues_steady (d lo p) (h : Steady s t) : Steady s (writeResidues t d lo p) := by
  unfold writeResidues
  split
  · exact wrMem_steady _ _ h
  · exact h

theorem takeCredit_steady (c : CoreId) (key : Nat × Nat × Nat) (h : Steady s t) :
    Steady s (updCore t c fun y => { y with credits := y.credits.erase key }) :=
  h.trans (updCore_steady (f := fun y => { y with credits := y.credits.erase key }) (fun _ => rfl) (fun _ => rfl) t)

theorem pumpUp_steady (c x run k) (h : Steady s t) : Steady s (pumpUp t c x run k).1 := by
  grind [pumpUp, sendFor_steady, writeResidues_steady, sendDown_steady, deliverChunk_steady]

theorem pumpDown_steady (c x run k) (h : Steady s t) : Steady s (pumpDown t c x run k).1 := by
  grind [pumpDown, sendDown_steady, deliverChunk_steady]

theorem pumpBytes_steady (c x run k) (h : Steady s t) : Steady s (pumpBytes t c x run k).1 := by
  grind [pumpBytes, sendDown_steady, wrMem_steady]

theorem pumpRing_steady (c x run) (h : Steady s t) : Steady s (pumpRing t c x run).1 := by
  have htaken := takeCredit_steady c (kSched run.desc, kRound run.desc, kSeq run.desc) h
  grind [pumpRing, sendFor_steady, wrMem_steady]

theorem pumpRun_steady (c run) (h : Steady s t) : Steady s (pumpRun t c run).1 := by
  unfold pumpRun
  split
  · exact h
  · split
    · exact pumpRing_steady _ _ _ h
    · exact foldl_steady (by grind [pumpUp_steady, pumpDown_steady, pumpBytes_steady]) _ h

/-! Progress of every collective of a core, and of every core. -/

/-- One collective goes on and is noted in its core. -/
def pumpTurn (c : CoreId) (s : State) (r : ColRun) : State :=
  if suspended s || opStalled s c r.ord || s.stp.state == .aborting then s
  else updCore (pumpRun s c r).1 c fun y => { y with cols := replaceRun y.cols (pumpRun s c r).2 }

theorem pumpCore_eq (s : State) (c : CoreId) : pumpCore s c = (getCore s c).cols.foldl (pumpTurn c) s := rfl

theorem noteRun_going (s : State) (c : CoreId) (r : ColRun) :
    Going s (updCore s c fun y => { y with cols := replaceRun y.cols r }) := by
  refine ⟨rfl, id, id, rfl, fun hw => smSet_wf _ _ hw, fun hw d => ?_⟩
  rw [updCore, getCore_setCore_wf _ _ _ _ hw]
  split
  · next hd => rw [hd]
  · rfl

theorem pumpTurn_going (c : CoreId) (s : State) (r : ColRun) : Going s (pumpTurn c s r) := by
  unfold pumpTurn
  split
  · exact .refl s
  · exact (pumpRun_steady c r (.refl s)).toGoing.trans (noteRun_going ..)

theorem pumpCore_going (s : State) (c : CoreId) : Going s (pumpCore s c) := by
  rw [pumpCore_eq]
  exact List.foldlRecOn (motive := Going s) _ _ (.refl s) fun _ h r _ => h.trans (pumpTurn_going c _ r)

theorem pumpAll_going (s : State) : Going s (pumpAll s) :=
  List.foldlRecOn (motive := Going s) _ _ (.refl s) fun _ h _ _ => h.trans (pumpCore_going ..)

end Sys2Proof.Machine
end

section
/-! The re-shard lock (R275, R277): its taking, the messages that move it, the advance write and the abandonment. -/
namespace Sys2Proof.Machine
open Sys2Proof Sys2Proof.Safety

variable {s t u : State} {l : Lock} {txn : Txn} {j : JobEnt}

/-! The entry (R275). -/

/-- The lock as an entry takes it. -/
def lockTaken (j : JobEnt) : Lock := Lock.mk j (rsLayout j) 1 [] [] false false false [] 0 false false

theorem replayReshard_outside (h : s.hold.replay = none) (target : Nat) : replayReshard s target = s := by
  rw [replayReshard, h]

theorem startReshard_takes (hh : headEntry s 4 = some j) (hi : s.stp.state = .idle) (hok : reshardOk s j = true)
    (hr : s.hold.replay = none) (hk : s.stp.kept = []) : startReshard s =
      setLock { takeHead s j with stp := { s.stp with state := .reshardLock } } (lockTaken j) := by
  have hkept := takeKeptLock_nothing
    (s := setLock { takeHead s j with stp := { s.stp with state := .reshardLock } } (lockTaken j)) hk
  unfold startReshard
  rw [hh]
  dsimp only
  rw [entryGate_idle hi, hok, replayReshard_outside hr]
  exact hkept

/-- Settles O38: the entry leaves the control order for the lock, and no message waits for it. -/
theorem reshardEntryTakesLock : Obligations.ReshardEntryTakesLock := by
  intro s j hh hi hok hr hk
  exact ⟨_, congrArg Host.Outcome.next (startReshard_takes hh hi hok hr hk), rfl, rfl, rfl, rfl⟩

/-! Messages of the lock. -/

/-- A lock message of an epoch that the device takes, met by a held lock outside a suspension, is taken and answered. -/
theorem recvLock_held (hl : s.lock = some l) (hs : s.stp.state ≠ .suspended) (he : epochOk s txn.epoch = true)
    (hk : ccKind txn = 5 → txn.epoch = s.stp.epoch) :
    recvLock s txn = sendCompl (takeLockMsg (takeLanded s txn) txn) txn 0 := by
  have hok : epochOk (takeLanded s txn) txn.epoch = true := he
  have hnext : (ccKind txn == ckDrained && txn.epoch != (takeLanded s txn).stp.epoch) = false := by
    by_cases h : ccKind txn = 5
    · simp [takeLanded, hk h]
    · simp [ckDrained, h]
  have hlock : (takeLanded s txn).lock = some l := hl
  have hrun : suspended (takeLanded s txn) = false := decide_eq_false hs
  unfold recvLock
  dsimp only
  rw [hok, hnext, hlock, hrun]
  rfl

theorem takeLockMsg_drained (h : ccKind txn = 5) : takeLockMsg s txn = takeDrained s (ccMember txn) := by
  simp only [takeLockMsg, h]

theorem takeLockMsg_closed (h : ccKind txn = 6) : takeLockMsg s txn = takeClosed s (ccMember txn) := by
  simp only [takeLockMsg, h]

theorem takeLockMsg_advance (h : ccKind txn = 8) : takeLockMsg s txn = takeAdvance s (ccMember txn) := by
  simp only [takeLockMsg, h]

theorem takeLockMsg_abandon (h : ccKind txn = 9) : takeLockMsg s txn = takeAbandon s (ccMember txn) := by
  simp only [takeLockMsg, h]

theorem takeLockMsg_abandonReq (h : ccKind txn = 11) : takeLockMsg s txn = takeAbandonReq s := by
  simp only [takeLockMsg, h]

theorem sendLock_nobody (s : State) (kind : Nat) : sendLock s kind [] = s := sendJob_nobody ..

theorem sendLock_routable {kind m : Nat} (h : routable s (BitVec.ofNat 18 (jobMemberId s m)).toNat = true) :
    Outward s (sendLock s kind [m]) := sendJob_routable h

/-! The drain of the old epoch (R275). -/

/-- Before the device and its children have drained, nothing is told. -/
theorem tryDrained_waits (hl : s.lock = some l) (h : l.selfDrained = false ∨ kidsIn s l.drainedFrom = false) : tryDrained s = s := by
  rcases h with h | h <;> simp [tryDrained, hl, h]

theorem tryDrained_tells {p : Nat} (hl : s.lock = some l) (hs : s.stp.state ≠ .suspended) (hp : l.point = 1)
    (hself : l.selfDrained = true) (hkids : kidsIn s l.drainedFrom = true) (hpar : jobParent s = some p) :
    tryDrained s = sendLock (setLock s { l with point := 2 }) ckDrained [p] := by
  simp [tryDrained, hl, suspended, hs, hp, hself, hkids, hpar]

theorem lockDrained_eq (hl : s.lock = some l) (hs : s.stp.state ≠ .suspended) (hp : l.point = 1) (hn : nothingOutstanding s = true) :
    lockDrained s = tryDrained (setLock s { l with selfDrained := true }) := by
  simp [lockDrained, hl, suspended, hs, hp, hn]

theorem takeDrained_records (hl : s.lock = some l) (hkid : (jobKids s).contains (ccMember txn) = true)
    (hnew : l.drainedFrom.contains (ccMember txn) = false) (hself : l.selfDrained = false) :
    takeDrained s (ccMember txn) = setLock s { l with drainedFrom := l.drainedFrom ++ [ccMember txn] } := by
  have hwait := tryDrained_waits (s := setLock s { l with drainedFrom := l.drainedFrom ++ [ccMember txn] })
    (l := { l with drainedFrom := l.drainedFrom ++ [ccMember txn] }) rfl (.inl hself)
  rw [takeDrained, hl]
  dsimp only
  rw [hkid, hnew]
  exact hwait

theorem takeClosed_leads (hl : s.lock = some l) (hpar : jobParent s = some (ccMember txn)) (hp : l.point = 2) (hk : jobKids s = []) :
    takeClosed s (ccMember txn) = setLock s { l with point := 3 } := by
  simp [takeClosed, hl, hpar, hp, hk, sendLock_nobody]

/-! The advance write (R277). -/

/-- From `s` to `t` the device has advanced to a layout, and its lock and entry have ended. -/
structure Advanced (s t : State) (layout : Nat) : Prop where
  bank : t.stp.bank = !s.stp.bank
  epoch : t.stp.epoch = s.stp.epoch + 1
  layout : t.stp.layout = layout
  c : t.stp.c = s.stp.c
  a : t.stp.a = s.stp.a
  lock : t.lock = none
  running : t.ctl.running = none

theorem Advanced.going {n : Nat} (h : Advanced s t n) (k : Going t u) : Advanced s u n := by
  obtain ⟨hbank, hepoch, hlayout, hc, ha, hlock, hrun⟩ := h
  have hlast := k.lasting
  simp only [lasting, Prod.mk.injEq] at hlast
  obtain ⟨kbank, kepoch, klayout, kc, ka, -⟩ := hlast
  exact ⟨kbank.trans hbank, kepoch.trans hepoch, klayout.trans hlayout, kc.trans hc, ka.trans ha, k.lock hlock, k.running hrun⟩

theorem Advanced.outward {n : Nat} (h : Advanced s t n) (k : Outward t u) : Advanced s u n := by
  obtain ⟨hbank, hepoch, hlayout, hc, ha, hlock, hrun⟩ := h
  exact ⟨by rw [k.stp, hbank], by rw [k.stp, hepoch], by rw [k.stp, hlayout], by rw [k.stp, hc], by rw [k.stp, ha],
    by rw [k.lock, hlock], by rw [k.ctl, hrun]⟩

theorem loadImages_frame (s : State) : ∃ m, loadImages s = { s with mem := m } := by
  unfold loadImages
  refine List.foldlRecOn (motive := fun t : State => ∃ m, t = { s with mem := m }) _ _ ⟨s.mem, rfl⟩ fun t ht i _ => ?_
  obtain ⟨m, rfl⟩ := ht
  exact ⟨_, rfl⟩

/-- The step state past an advance to a layout, for the device with an ID. -/
def advancedStp (p : Stp) (me layout : Nat) (m : ControlCopy) : Stp :=
  { p with bank := !p.bank, epoch := p.epoch + 1, layout := layout, commits := smDel p.commits me,
           advances := smSet 0 p.advances me (p.epoch + 1), mirror := m }

theorem advanceWrite_eq (s : State) (l : Lock) :
    ∃ m, advanceWrite s l = { s with stp := advancedStp s.stp (myId s) l.target m } := mirrored_eq _

/-- The advance write with the images of the new layout, before its record and its notices. -/
def advancedState (s : State) (l : Lock) : State := loadImages (advanceWrite { s with lock := none } l)

/-- What an advance tells: its record, its event and the notices of the shard group. -/
def advanceNotices (s : State) (body : Bytes) : State :=
  let s2 := raise (logAppend s 0x0003 s.stp.c body) 0x5003 srcDevice (le32 s.stp.epoch ++ toLe 1 s.stp.layout)
  (sendCctlAll s2 ckAdvanced 0 s2.stp.c 0 0 (groupPeers s2 (shardGroup s2))).1

theorem advanceNotices_outward (s : State) (body : Bytes) : Outward s (advanceNotices s body) :=
  ((logAppend_outward ..).trans (raise_outward ..)).trans (sendCctlAll_outward ..)

theorem endAdvance_eq (s : State) (l : Lock) : endAdvance s l = pumpAll (endControl (settleState
    (advanceNotices (advancedState s l) (reshardBody s (s.stp.epoch + 1) l.target 1)) .idle) l.job 0 0x5003) := rfl

theorem advancedState_eq (s : State) (l : Lock) : ∃ m mir, advancedState s l =
    { s with mem := m, lock := none, stp := advancedStp s.stp (myId s) l.target mir } := by
  obtain ⟨mir, hwrite⟩ := advanceWrite_eq { s with lock := none } l
  obtain ⟨m, himages⟩ := loadImages_frame (advanceWrite { s with lock := none } l)
  refine ⟨m, mir, ?_⟩
  rw [advancedState, himages, hwrite]
  rfl

theorem endAdvance_advances (hs : s.stp.state ≠ .suspended) : Advanced s (endAdvance s l) l.target := by
  obtain ⟨m, mir, hadv⟩ := advancedState_eq s l
  have hnote := advanceNotices_outward (advancedState s l) (reshardBody s (s.stp.epoch + 1) l.target 1)
  rw [endAdvance_eq]
  generalize advanceNotices _ _ = u at hnote
  have hstp := hnote.stp
  have hlock := hnote.lock
  rw [hadv] at hstp hlock
  rw [settleState_eq (by rw [hstp]; exact hs)]
  refine Advanced.going ?_ (pumpAll_going _)
  constructor <;> simp [hstp, hlock, endControl, advancedStp]

theorem takeAdvance_advances (hl : s.lock = some l) (hpar : jobParent s = some (ccMember txn)) (hp : l.point = 5) (hk : jobKids s = [])
    (hs : s.stp.state ≠ .suspended) : Advanced s (takeAdvance s (ccMember txn)) l.target := by
  have htake : takeAdvance s (ccMember txn) =
      endAdvance (setLock s { l with point := 6, decided := true }) { l with point := 6, decided := true } := by
    simp [takeAdvance, hl, hpar, hp, hk, sendLock_nobody]
  rw [htake]
  obtain ⟨hbank, hepoch, hlayout, hc, ha, hlock, hrun⟩ :=
    endAdvance_advances (s := setLock s { l with point := 6, decided := true }) (l := { l with point := 6, decided := true }) hs
  exact ⟨hbank, hepoch, hlayout, hc, ha, hlock, hrun⟩

theorem recvAdvanced_notes (he : epochOk s txn.epoch = true) :
    (recvAdvanced s txn).stp.advances = smSet 0 s.stp.advances txn.src.toNat txn.epoch := by
  have hok : epochOk (takeLanded s txn) txn.epoch = true := he
  have hrecv : recvAdvanced s txn = pumpAll (sendCompl { takeLanded s txn with stp := { s.stp with
      advances := smSet 0 s.stp.advances txn.src.toNat txn.epoch } } txn 0) := by
    unfold recvAdvanced
    dsimp only
    rw [hok]
    rfl
  have hlast := (pumpAll_going (sendCompl { takeLanded s txn with stp := { s.stp with
      advances := smSet 0 s.stp.advances txn.src.toNat txn.epoch } } txn 0)).lasting
  rw [(sendCompl_outward ..).stp] at hlast
  simp only [lasting, Prod.mk.injEq] at hlast
  obtain ⟨-, -, -, -, -, hadv⟩ := hlast
  rw [hrecv, hadv]

/-! The abandonment (R275). -/

/-- From `s` to `t` the lock has ended in stopped, with the epoch, the bank pointer and the layout unchanged. -/
structure Abandoned (s t : State) : Prop where
  lock : t.lock = none
  state : t.stp.state = .stopped
  epoch : t.stp.epoch = s.stp.epoch
  bank : t.stp.bank = s.stp.bank
  layout : t.stp.layout = s.stp.layout

theorem Abandoned.outward (h : Abandoned s t) (k : Outward t u) : Abandoned s u := by
  obtain ⟨hlock, hst, hepoch, hbank, hlayout⟩ := h
  exact ⟨by rw [k.lock, hlock], by rw [k.stp, hst], by rw [k.stp, hepoch], by rw [k.stp, hbank], by rw [k.stp, hlayout]⟩

theorem endAbandon_abandons (k : Outward s t) (hs : s.stp.state ≠ .suspended) : Abandoned s (endAbandon t l) := by
  have hsent : Outward { t with lock := none } (raise (logAppend { t with lock := none } 0x0003 t.stp.c
      (reshardBody t (t.stp.epoch + 1) l.target 2)) 0x5103 srcDevice []) := (logAppend_outward ..).trans (raise_outward ..)
  unfold endAbandon
  dsimp only
  generalize raise _ _ _ _ = u at hsent
  have hstp : u.stp = s.stp := hsent.stp.trans k.stp
  have hlock : u.lock = none := hsent.lock
  rw [enterState_eq (by dsimp only; rw [hstp]; exact hs)]
  constructor <;> simp [hstp, hlock]

theorem takeAbandon_abandons (hl : s.lock = some l) (hpar : jobParent s = some (ccMember txn)) (hs : s.stp.state ≠ .suspended) :
    Abandoned s (takeAbandon s (ccMember txn)) := by
  have htake : takeAbandon s (ccMember txn) =
      endAbandon (sendCctlAll s ckAbandon 0 s.stp.c 0 0 ((jobKids s).map (jobMemberId s))).1 l := by
    simp [takeAbandon, hl, hpar]
  rw [htake]
  exact endAbandon_abandons (sendCctlAll_outward ..) hs

theorem takeAbandonReq_abandons (hl : s.lock = some l) (hz : jobIndex s = 0) (hd : l.decided = false) (hs : s.stp.state ≠ .suspended) :
    Abandoned s (takeAbandonReq s) := by
  have htake : takeAbandonReq s = decideAbandon s l := by simp [takeAbandonReq, hl, hz, hd]
  rw [htake]
  exact endAbandon_abandons (sendCctlAll_outward ..) hs

/-- Settles O39: each message by the point of the lock that it meets. -/
theorem lockMessagesDriveLock : Obligations.LockMessagesDriveLock := by
  refine ⟨fun s l hl hs => ⟨fun hp hn hkids => ?selfDrains, fun p hp hn hkids hpar hroute => ?tells, 
    fun txn hkind hepoch he hkid hnew hself => ?records, fun txn hkind he hpar hp hk => ?closes⟩,
    ⟨fun s l txn hl hs hkind he hpar hp hk => ?advances, fun s txn he => ⟨_, rfl, recvAdvanced_notes he⟩⟩,
    fun s l txn hl hst he => ⟨fun hkind hpar => ?abandons, fun hkind hz hd => ?asked⟩⟩
  case selfDrains =>
    have hwait := tryDrained_waits (s := setLock s { l with selfDrained := true }) (l := { l with selfDrained := true }) rfl (.inr hkids)
    exact congrArg Host.Outcome.next ((lockDrained_eq hl hs hp hn).trans hwait)
  case tells =>
    have htell := tryDrained_tells (s := setLock s { l with selfDrained := true }) (l := { l with selfDrained := true })
      rfl hs hp rfl hkids hpar
    have hsent := sendLock_routable (s := setLock s { l with selfDrained := true, point := 2 }) (kind := ckDrained) (m := p) hroute
    exact ⟨_, congrArg Host.Outcome.next ((lockDrained_eq hl hs hp hn).trans htell), hsent.lock, hsent.mem⟩
  case records =>
    have hrec := recvLock_held hl hs he fun _ => hepoch
    rw [takeLockMsg_drained hkind, takeDrained_records (s := takeLanded s txn) hl hkid hnew hself] at hrec
    exact congrArg Host.Outcome.next hrec
  case closes =>
    have hrec := recvLock_held hl hs he fun h => by omega
    rw [takeLockMsg_closed hkind, takeClosed_leads (s := takeLanded s txn) hl hpar hp hk] at hrec
    exact congrArg Host.Outcome.next hrec
  case advances =>
    have hrec := recvLock_held hl hs he fun h => by omega
    rw [takeLockMsg_advance hkind] at hrec
    obtain ⟨hbank, hepoch, hlayout, hc, ha, hlock, hrun⟩ :=
      (takeAdvance_advances (s := takeLanded s txn) hl hpar hp hk hs).outward (sendCompl_outward _ txn 0)
    exact ⟨_, congrArg Host.Outcome.next hrec, hbank, hepoch, hlayout, hc, ha, hlock, hrun⟩
  case abandons =>
    have hs : s.stp.state ≠ .suspended := by rw [hst]; decide
    have hrec := recvLock_held hl hs he fun h => by omega
    rw [takeLockMsg_abandon hkind] at hrec
    obtain ⟨hlock, hstate, hepoch, hbank, hlayout⟩ :=
      (takeAbandon_abandons (s := takeLanded s txn) hl hpar hs).outward (sendCompl_outward _ txn 0)
    exact ⟨_, congrArg Host.Outcome.next hrec, hlock, hstate, hepoch, hbank, hlayout⟩
  case asked =>
    have hs : s.stp.state ≠ .suspended := by rw [hst]; decide
    have hrec := recvLock_held hl hs he fun h => by omega
    rw [takeLockMsg_abandonReq hkind] at hrec
    obtain ⟨hlock, hstate, hepoch, hbank, hlayout⟩ :=
      (takeAbandonReq_abandons (s := takeLanded s txn) hl hz hd hs).outward (sendCompl_outward _ txn 0)
    exact ⟨_, congrArg Host.Outcome.next hrec, hlock, hstate, hepoch, hbank, hlayout⟩

end Sys2Proof.Machine
end

section
/-! The arrival of a collective message (R264, R276): dropped by its tag or its epoch, refused where it breaks the order of its
exchange, else joined to the message that it is a part of. -/
namespace Sys2Proof.Machine
open Sys2Proof Sys2Proof.Safety

variable {s : State} {c : CoreId} {txn : Txn} {k : KCtx} {l : List Msg}

/-- Whether a message keeps the order of its exchange. -/
def inOrder (s : State) (c : CoreId) (txn : Txn) (k : KCtx) : Bool :=
  arrivalOk k (getCore s c) (txnFld txn 16 2) (txnFld txn 24 4) (txnFld txn 18 3) (txnFld txn 21 3) &&
    !slotTaken s (getCore s c) k.runahead (txnFld txn 16 2) (txnFld txn 24 4) (fld32 txn.fields 12) &&
    !(fld32 txn.fields 12 == s.stp.curTag && (getCore s c).doneCols.contains (txnFld txn 16 2, txnFld txn 24 4))

/-- A message of an earlier attempt is only answered. -/
theorem recvReduce_old (h : (fld32 txn.fields 12).toNat < s.stp.curTag.toNat) :
    recvReduce s c txn = sendComplOn (takeLanded s txn) (railOfDie c.die.val) txn 0 := if_pos h

theorem recvReduce_epoch (h : s.stp.curTag.toNat ≤ (fld32 txn.fields 12).toNat) (he : epochOk s txn.epoch = false) :
    recvReduce s c txn = sendComplOn (epochFault (takeLanded s txn)) (railOfDie c.die.val) txn 3 := by
  have hok : epochOk (takeLanded s txn) txn.epoch = false := he
  refine (if_neg (Nat.not_lt.2 h)).trans ?_
  rw [hok]
  rfl

theorem recvReduce_noSchedule (h : s.stp.curTag.toNat ≤ (fld32 txn.fields 12).toNat) (he : epochOk s txn.epoch = true)
    (hk : kCtxAt s txn.epoch (txnFld txn 16 2) = none) :
    recvReduce s c txn = sendComplOn (sequenceFault (takeLanded s txn)) (railOfDie c.die.val) txn 0 := by
  have hok : epochOk (takeLanded s txn) txn.epoch = true := he
  have hctx : kCtxAt (takeLanded s txn) txn.epoch (txnFld txn 16 2) = none := hk
  refine (if_neg (Nat.not_lt.2 h)).trans ?_
  dsimp only
  rw [hok, hctx]
  rfl

/-- The core's messages with the part placed, where it keeps the order of its exchange. -/
def placed (s : State) (c : CoreId) (txn : Txn) (k : KCtx) : Option (List Msg) :=
  if inOrder s c txn k && decide (txnFld txn 32 2 < txnFld txn 34 2) then addPart (getCore s c).recv txn else none

theorem recvReduce_scheduled (h : s.stp.curTag.toNat ≤ (fld32 txn.fields 12).toNat) (he : epochOk s txn.epoch = true)
    (hk : kCtxAt s txn.epoch (txnFld txn 16 2) = some k) : recvReduce s c txn =
      (placed s c txn k).elim (sendComplOn (sequenceFault (takeLanded s txn)) (railOfDie c.die.val) txn 0) fun l =>
        pumpCore (sendComplOn (setCore (spoilSlot (takeLanded s txn) c k (txnFld txn 24 4)) c
          { getCore s c with recv := l }) (railOfDie c.die.val) txn 0) c := by
  have hok : epochOk (takeLanded s txn) txn.epoch = true := he
  have hctx : kCtxAt (takeLanded s txn) txn.epoch (txnFld txn 16 2) = some k := hk
  refine (if_neg (Nat.not_lt.2 h)).trans ?_
  dsimp only
  rw [hok, hctx]
  change (match placed s c txn k with | none => _ | some _ => _) = _
  cases placed s c txn k <;> rfl

theorem inOrder_iff : inOrder s c txn k = true ↔
    arrivalOk k (getCore s c) (txnFld txn 16 2) (txnFld txn 24 4) (txnFld txn 18 3) (txnFld txn 21 3) = true ∧
      slotTaken s (getCore s c) k.runahead (txnFld txn 16 2) (txnFld txn 24 4) (fld32 txn.fields 12) = false ∧
      (fld32 txn.fields 12 = s.stp.curTag → (getCore s c).doneCols.contains (txnFld txn 16 2, txnFld txn 24 4) = false) := by
  simp only [inOrder, Bool.and_eq_true, Bool.not_eq_true', Bool.and_eq_false_iff, beq_eq_false_iff_ne, and_assoc,
    imp_iff_not_or, ne_eq]

/-- A message that breaks the order of its exchange, or repeats a part, is refused. -/
theorem recvReduce_refused (h : s.stp.curTag.toNat ≤ (fld32 txn.fields 12).toNat) (he : epochOk s txn.epoch = true)
    (hk : kCtxAt s txn.epoch (txnFld txn 16 2) = some k)
    (hno : inOrder s c txn k = false ∨ txnFld txn 34 2 ≤ txnFld txn 32 2 ∨ addPart (getCore s c).recv txn = none) :
    recvReduce s c txn = sendComplOn (sequenceFault (takeLanded s txn)) (railOfDie c.die.val) txn 0 := by
  have hnone : placed s c txn k = none := by
    unfold placed
    rcases hno with ho | hp | ha
    · rw [ho]
      rfl
    · rw [decide_eq_false (Nat.not_lt.2 hp), Bool.and_false]
      rfl
    · rw [ha]
      exact ite_self none
  rw [recvReduce_scheduled h he hk, hnone]
  rfl

theorem recvReduce_joins (h : s.stp.curTag.toNat ≤ (fld32 txn.fields 12).toNat) (he : epochOk s txn.epoch = true)
    (hk : kCtxAt s txn.epoch (txnFld txn 16 2) = some k) (ho : inOrder s c txn k = true)
    (hp : txnFld txn 32 2 < txnFld txn 34 2) (ha : addPart (getCore s c).recv txn = some l) :
    recvReduce s c txn = pumpCore (sendComplOn (setCore (spoilSlot (takeLanded s txn) c k (txnFld txn 24 4)) c
      { getCore s c with recv := l }) (railOfDie c.die.val) txn 0) c := by
  have hplaced : placed s c txn k = some l := by
    rw [placed, ho, decide_eq_true hp, ha]
    rfl
  rw [recvReduce_scheduled h he hk, hplaced]
  rfl

/-- A part that has been placed leaves its message behind. -/
theorem addPart_ne_nil {m : List Msg} (h : addPart m txn = some l) : l ≠ [] := by
  unfold addPart at h
  split at h
  · obtain rfl := Option.some.inj h
    simp
  · next g hg =>
    split at h
    · cases h
    · obtain rfl := Option.some.inj h
      rintro hnil
      rw [List.map_eq_nil_iff.1 hnil] at hg
      cases hg

/-- The first part of the first message. -/
theorem addPart_first (txn : Txn) : ∃ g, addPart [] txn = some [g] ∧ isMsg txn g = true ∧ g.got = [partOf txn] ∧
    g.parts = txnFld txn 34 2 := ⟨_, rfl, by simp [isMsg], rfl, rfl⟩

/-- Where no collective is in progress, the message stays as it was placed. -/
theorem recv_of_noCols {w : State} {y : Core} {rail : Nat} (hcols : y.cols = []) (hl : l ≠ []) :
    (getCore (pumpCore (sendComplOn (setCore w c { y with recv := l }) rail txn 0) c) c).recv = l := by
  have hne : ({ y with recv := l } : Core) ≠ Core.init := fun h => hl (congrArg Core.recv h)
  have hcore : getCore (sendComplOn (setCore w c { y with recv := l }) rail txn 0) c = { y with recv := l } := by
    rw [getCore, coreAt, (sendComplOn_outward ..).cores]
    exact getCore_setCore w c _ hne
  rw [pumpCore_nothing (by rw [hcore]; exact hcols), hcore]

/-- Settles O21: a message by its tag, its epoch, its schedule and the order of its exchange. -/
theorem reduceArrivalByAttempt : Obligations.ReduceArrivalByAttempt := by
  rintro s _ c _ txn _ _ _ rfl rfl rfl rfl rfl
  refine ⟨fun h => ?old, fun h he => congrArg Host.Outcome.next (recvReduce_epoch h he),
    fun h he hk => congrArg Host.Outcome.next (recvReduce_noSchedule h he hk),
    fun h he k hk => ⟨fun hno => congrArg Host.Outcome.next (recvReduce_refused h he hk ?_), fun l harr hslot hnew hp ha => ?joins,
      fun hr => by rw [hr]; exact addPart_first txn⟩⟩
  case old =>
    have hout := sendComplOn_outward (takeLanded s txn) (railOfDie c.die.val) txn 0
    exact ⟨_, congrArg Host.Outcome.next (recvReduce_old h), hout.cores, hout.mem, rfl⟩
  case joins =>
    have hrecv := recvReduce_joins h he hk (inOrder_iff.2 ⟨harr, hslot, hnew⟩) hp ha
    refine ⟨congrArg Host.Outcome.next hrecv, fun hcols => ⟨_, congrArg Host.Outcome.next hrecv, ?_⟩⟩
    exact recv_of_noCols hcols (addPart_ne_nil ha)
  · obtain harr | hslot | ⟨htag, hdone⟩ | hp | ha := hno
    · exact .inl (by simp [inOrder, harr])
    · exact .inl (by simp [inOrder, hslot])
    · exact .inl (by rw [inOrder, htag, hdone, beq_self_eq_true]; exact Bool.and_false _)
    · exact .inr (.inl hp)
    · exact .inr (.inr ha)

end Sys2Proof.Machine
end

section
/-! The start of a collective (R260–R262, R264, R271): what it takes of its core, and that it is then in progress. -/
namespace Sys2Proof.Machine
open Sys2Proof Sys2Proof.Safety

variable {s : State} {c : CoreId} {x : Core} {e : QEntry} {rest : List QEntry} {d : Bytes} {k : KCtx} {r : ColRun}

/-! A collective in progress stays the collective it is. -/

/-- What tells a collective: its descriptor, its place in program order, and whether it is a descriptor's own. -/
def colKey (r : ColRun) : Bytes × Nat × Bool := (r.desc, r.ord, r.job.isNone)

theorem sendFor_key (s c run x k dst b scale) : colKey (sendFor s c run x k dst b scale).2 = colKey run := rfl

theorem sendDown_key (s c run x k b scale) : colKey (sendDown s c run x k b scale).2 = colKey run :=
  List.foldlRecOn (motive := fun a : State × ColRun => colKey a.2 = colKey run) _ _ rfl fun _ h _ _ => h

theorem deliverChunk_key (s run lo v) : colKey (deliverChunk s run lo v).2 = colKey run := by
  unfold deliverChunk
  split
  · next h => simp [colKey, h]
  · rfl

theorem pumpUp_key (s c x run k) : colKey (pumpUp s c x run k).2 = colKey run := by
  grind [pumpUp, colKey, sendFor_key, sendDown_key, deliverChunk_key]

theorem pumpDown_key (s c x run k) : colKey (pumpDown s c x run k).2 = colKey run := by
  grind [pumpDown, colKey, sendDown_key, deliverChunk_key]

theorem pumpBytes_key (s c x run k) : colKey (pumpBytes s c x run k).2 = colKey run := by
  grind [pumpBytes, colKey, sendDown_key]

theorem pumpRing_key (s c x run) : colKey (pumpRing s c x run).2 = colKey run := by
  grind [pumpRing, colKey, sendFor_key]

theorem pumpRun_key (s c run) : colKey (pumpRun s c run).2 = colKey run := by
  unfold pumpRun
  split
  · rfl
  · split
    · exact pumpRing_key ..
    · exact List.foldlRecOn (motive := fun a : State × ColRun => colKey a.2 = colKey run) _ _ rfl
        (by grind [pumpUp_key, pumpDown_key, pumpBytes_key])

/-- A core has a descriptor's own collective in progress, by its descriptor and its place in program order. -/
def inProgress (x : Core) (d : Bytes) (ord : Nat) : Prop := ∃ r ∈ x.cols, colKey r = (d, ord, true)

theorem mem_replaceRun {l : List ColRun} {q : ColRun} (h : q ∈ l) (r : ColRun) :
    (if q.ord = r.ord ∧ q.desc = r.desc then r else q) ∈ replaceRun l r := List.mem_map_of_mem h

theorem pumpTurn_inProgress {ord : Nat} (hw : smWf Core.init s.cores = true) (hp : inProgress (getCore s c) d ord)
    (hr : r.desc = d → r.ord = ord → r.job = none) : inProgress (getCore (pumpTurn c s r) c) d ord := by
  unfold pumpTurn
  split
  · exact hp
  · have hrun := pumpRun_steady c r (.refl s)
    have hkey := pumpRun_key s c r
    have hcols : (getCore (pumpRun s c r).1 c).cols = (getCore s c).cols := hrun.cols hw c
    rw [updCore, getCore_setCore_wf _ _ _ _ (hrun.cores hw), if_pos rfl]
    obtain ⟨q, hq, hqk⟩ := hp
    refine ⟨_, mem_replaceRun (hcols ▸ hq) _, ?_⟩
    simp only [colKey, Prod.mk.injEq] at hkey hqk ⊢
    obtain ⟨hd, ho, hj⟩ := hkey
    obtain ⟨hqd, hqo, hqj⟩ := hqk
    split
    · next hsame =>
      have hrd : r.desc = d := hd ▸ hsame.2 ▸ hqd
      have hro : r.ord = ord := ho ▸ hsame.1 ▸ hqo
      exact ⟨hd.trans hrd, ho.trans hro, by rw [hj, hr hrd hro]; rfl⟩
    · exact ⟨hqd, hqo, hqj⟩

theorem pumpCore_inProgress {ord : Nat} (hw : smWf Core.init s.cores = true) (hp : inProgress (getCore s c) d ord)
    (hown : ∀ r ∈ (getCore s c).cols, r.desc = d → r.ord = ord → r.job = none) :
    inProgress (getCore (pumpCore s c) c) d ord := by
  have hall : smWf Core.init (pumpCore s c).cores = true ∧ inProgress (getCore (pumpCore s c) c) d ord := by
    rw [pumpCore_eq]
    refine List.foldlRecOn (motive := fun t : State => smWf Core.init t.cores = true ∧ inProgress (getCore t c) d ord) _ _ ⟨hw, hp⟩
      fun t ht r hr => ?_
    obtain ⟨htw, htp⟩ := ht
    exact ⟨(pumpTurn_going c t r).cores htw, pumpTurn_inProgress htw htp (hown r hr)⟩
  exact hall.2

/-! The commands. -/

/-- The collective commands of a core with the operation codes they start (R260). -/
def collectiveCommands (c : CoreId) : List (Instr × Nat) :=
  [(.reduceScatter c, 1), (.allReduce c, 2), (.reduce c, 3), (.allGather c, 4), (.broadcast c, 5), (.ringStep c, 6)]

theorem exec_collectiveCommand (s : State) {i : Instr} {op : Nat} (h : (i, op) ∈ collectiveCommands c) :
    exec i s = .next (startCol op s c) := by
  have hall : ∀ p ∈ collectiveCommands c, exec p.1 s = .next (startCol p.2 s c) := by
    simp only [collectiveCommands, List.forall_mem_cons, List.not_mem_nil, false_imp_iff, implies_true, and_true]
    and_intros <;> rfl
  exact hall _ h

/-- The head of a core's collective queue may start. -/
structure ColMayStart (s : State) (c : CoreId) (x : Core) (e : QEntry) (rest : List QEntry) (d : Bytes) : Prop where
  core : getCore s c = x
  desc : desc128 s e = d
  queue : x.colQ = e :: rest
  running : s.stp.state ≠ .suspended
  going : x.stopped = false
  ready : ready s x e = true

theorem ColMayStart.gate (h : ColMayStart s c x e rest d) : (suspended s || x.stopped || !Machine.ready s x e) = false := by
  simp [suspended, h.running, h.going, h.ready]

theorem startCol_ok (h : ColMayStart s c x e rest d) (hk : colCheck s c d = .ok) (hx : kCtx s (kSched d) = some k) :
    startCol (kCop d) s c = beginCol s c e rest d k := by
  have hgate := h.gate
  obtain ⟨rfl, rfl, hq, -, -, -⟩ := h
  simp [startCol, hq, hgate, hk, hx]

theorem startCol_fails {v : Check} (h : ColMayStart s c x e rest d) (hk : colCheck s c d = v) (hv : v ≠ .ok) :
    startCol (kCop d) s c = failCol (setCore s c { x with colQ := rest }) c v := by
  have hgate := h.gate
  obtain ⟨rfl, rfl, hq, -, -, -⟩ := h
  simp [startCol, hq, hgate, hk, hv]

/-! A valid collective begins. -/

/-- The core past the start of its collective queue's head. -/
def colConsumed (x : Core) (e : QEntry) (rest : List QEntry) : Core := { consume x e with colQ := rest }

/-- The collective joins those in progress, and a ring round's credit is sent, before any work. -/
def launched (s : State) (c : CoreId) (run : ColRun) (k : KCtx) : State :=
  let w := updCore s c fun y => { y with cols := y.cols ++ [run], quant := y.quant ++ narrowWords s run.desc k }
  if kCop run.desc = 6 then
    { w with bus := { w.bus with ring := w.bus.ring ++
        [(memberId k.group (myId w) ((k.me + k.size - 1) % k.size), coreIdx c, kSched run.desc, kRound run.desc, kSeq run.desc)] } }
  else w

theorem launchCol_eq (s : State) (c : CoreId) (run : ColRun) (k : KCtx) :
    launchCol s c run k = pumpCore (launched s c run k) c := rfl

theorem launched_cores (s : State) (c : CoreId) (run : ColRun) (k : KCtx) : (launched s c run k).cores =
    (updCore s c fun y => { y with cols := y.cols ++ [run], quant := y.quant ++ narrowWords s run.desc k }).cores := by
  unfold launched
  dsimp only
  split <;> rfl

theorem launched_wf (hw : smWf Core.init s.cores = true) (run : ColRun) (k : KCtx) :
    smWf Core.init (launched s c run k).cores = true := by
  rw [launched_cores]
  exact smSet_wf _ _ hw

theorem getCore_launched (hw : smWf Core.init s.cores = true) (run : ColRun) (k : KCtx) : getCore (launched s c run k) c =
    { getCore s c with cols := (getCore s c).cols ++ [run], quant := (getCore s c).quant ++ narrowWords s run.desc k } := by
  rw [getCore, coreAt, launched_cores]
  exact (getCore_setCore_wf s c c _ hw).trans (if_pos rfl)

theorem launched_ring {run : ColRun} (h : kCop run.desc = 6) (k : KCtx) : (launched s c run k).bus.ring = s.bus.ring ++
    [(memberId k.group (myId s) ((k.me + k.size - 1) % k.size), coreIdx c, kSched run.desc, kRound run.desc, kSeq run.desc)] := by
  unfold launched
  dsimp only
  rw [if_pos h]
  rfl

theorem consume_cols (x : Core) (e : QEntry) : (consume x e).cols = x.cols := by rw [consume_eq]

theorem beginCol_launches (hx : getCore s c = x) (hs : strangers s x d k = []) (hc : slotClash s x d k = false) :
    beginCol s c e rest d k = launchCol (setCore s c (colConsumed x e rest)) c (newRun s d none e.ord) k := by
  subst hx
  unfold beginCol
  dsimp only
  rw [hs, hc]
  rfl

theorem beginCol_breaks (hx : getCore s c = x) (h : strangers s x d k ≠ [] ∨ slotClash s x d k = true) :
    beginCol s c e rest d k = breakOrder (setCore s c { x with colQ := rest }) c (strangers s x d k) := by
  subst hx
  unfold beginCol
  dsimp only
  rw [if_pos]
  rcases h with h | h <;> simp [h]

/-- Where the slot is free, no collective in progress has the descriptor. -/
theorem desc_ne_of_noClash (hc : slotClash s x d k = false) : ∀ r ∈ x.cols, r.desc ≠ d := by
  rintro r hr rfl
  have hnone := (Bool.or_eq_false_iff.1 hc).2
  have hno := List.any_eq_false.1 hnone r hr
  simp at hno

/-- Settles O19: a valid head begins, and from then on is in progress; any other breaks the order or fails. -/
theorem collectiveStartJoins : Obligations.CollectiveStartJoins := by
  intro s c x e rest d i hcmd hx hd hq hr hg hy hcan
  have h : ColMayStart s c x e rest d := ⟨hx, hd, hq, hr, hg, hy⟩
  have hexec : exec i s = .next (startCol (kCop d) s c) := exec_collectiveCommand s hcmd
  refine ⟨fun k hk hctx => ⟨fun hstr hclash => ?begins, fun hbreak => ?breaks⟩, fun v hv hne => ?fails⟩
  case begins =>
    have hput : canonical (setCore s c (colConsumed x e rest)) := setCore_canonical c _ hcan
    have hwf := canonical_cores hput
    have hcore : getCore (setCore s c (colConsumed x e rest)) c = colConsumed x e rest :=
      (getCore_setCore_wf s c c _ (canonical_cores hcan)).trans (if_pos rfl)
    have hlaunched := getCore_launched (c := c) hwf (newRun s d none e.ord) k
    rw [hcore] at hlaunched
    have hgoing := pumpCore_going (launched (setCore s c (colConsumed x e rest)) c (newRun s d none e.ord) k) c
    rw [startCol_ok h hk hctx, beginCol_launches hx hstr hclash] at hexec
    have hin : inProgress (getCore (pumpCore (launched (setCore s c (colConsumed x e rest)) c (newRun s d none e.ord) k) c) c) d e.ord := by
      refine pumpCore_inProgress (launched_wf hwf _ _) ⟨newRun s d none e.ord, ?_, rfl⟩ fun r hmem hrd _ => ?_
      · rw [hlaunched]
        exact List.mem_append_right _ (List.mem_singleton_self _)
      · rw [hlaunched] at hmem
        rcases List.mem_append.1 hmem with hold | hnew
        · rw [colConsumed, consume_cols] at hold
          exact absurd hrd (desc_ne_of_noClash hclash r hold)
        · rw [List.mem_singleton.1 hnew]
          rfl
    obtain ⟨r, hmem, hkey⟩ := hin
    simp only [colKey, Prod.mk.injEq, Option.isNone_iff_eq_none] at hkey
    obtain ⟨hrd, hro, hrj⟩ := hkey
    refine ⟨hexec, _, r, hexec, hmem, hrd, hro, hrj, ?_, fun h6 => ?_⟩
    · rw [launchCol_eq, hgoing.ctr (launched_wf hwf _ _), hlaunched]
      rfl
    · rw [launchCol_eq, hgoing.ring, launched_ring h6]
      rfl
  case breaks => rw [hexec, startCol_ok h hk hctx, beginCol_breaks hx hbreak]
  case fails => rw [hexec, startCol_fails h hv hne]

end Sys2Proof.Machine
end

section
/-! The end of the permute (R274, R275) where the advance has been decided: the device writes its tags and tells its parent nothing. -/
namespace Sys2Proof.Machine
open Sys2Proof Sys2Proof.Safety

variable {s : State} {l : Lock}

/-- A decided advance is past the point at which PERMUTED goes up. -/
theorem tryPermuted_decided (hl : s.lock = some l) (hd : l.decided = true) : tryPermuted s = s := by
  simp [tryPermuted, hl, hd]

theorem permuteComplete_decided (hl : s.lock = some l) (hs : s.stp.state ≠ .suspended) (hp : l.point = 4)
    (hself : l.selfPermuted = false) (hputs : putsDelivered s = true) (hgot : permuteDue s l ≤ l.got) (hd : l.decided = true) :
    (permuteComplete s).lock = some { l with selfPermuted := true } := by
  have htry := tryPermuted_decided (s := setLock (writeNewTags s l) { l with selfPermuted := true })
    (l := { l with selfPermuted := true }) rfl hd
  have hgo : permuteComplete s = tryPermuted (setLock (writeNewTags s l) { l with selfPermuted := true }) := by
    simp [permuteComplete, hl, suspended, hs, hp, hself, hputs, Nat.not_lt.2 hgot]
  rw [hgo, htry]
  rfl

/-! The second device of a job of two, at point 4 of a lock whose advance has been decided. -/

/-- A layout whose job group is two devices along x, without shards and without permutes. -/
def pairLayout : Layout :=
  { runahead := 0, groups := [{ group := 0, n := (2, 1, 1), s := (1, 1, 1) }], scheds := [], nodes := [], maps := [], jobGroup := 0,
    shardGroup := 0, replicaGroup := 0, normSched := 0, adamW := false, beta1 := 0, beta2 := 0, eps := 0, wd := 0, lrs := [],
    images := [], shards := [], ranges := [], relocs := [], progs := [] }

def pairPlan : Plan :=
  { digest := [], shapeId := [],
    shape := { ex := 2, ey := 1, ez := 1, rails := 1, holdStacks := 0, state0 := 0, state1 := 0, res0 := 0, res1 := 0, stateBytes := 0,
               resBytes := 0, dies := [] },
    clocks := [], quotas := [], parts := [], modes := [], streams := [],
    hold := { sisterXor := 0, balRow := 0, slotBytes := 0, logBytes := 0, traceBytes := 0, balBytes := 0, balRows := 0, balCache := 0,
              balSlots := 0, balLife := 0, balList := 0, balLStride := 0 },
    policy := { skip := false, snapEvery := 0, normLimit := 0, statsAddr := 0, laneThresh := 0, suppress := [], loss := [] },
    layouts := [pairLayout, pairLayout] }

def decidedLock : Lock :=
  { job := { num := 0, queue := 0, index := 0, sub := false, bytes := [] }, target := 1, point := 4,
    drainedFrom := [], permutedFrom := [], selfDrained := true, selfPermuted := false, waited := false, putsLeft := [], got := 0,
    abandonAsked := false, decided := true }

def decidedState : State :=
  { State.reset with pln := { State.reset.pln with plan := some pairPlan }, fab := { State.reset.fab with homeId := 1 },
                     lock := some decidedLock }

theorem decidedState_canonical : canonical decidedState := by
  unfold canonical
  decide

/-- Refutes O40: the statement lacks the premise that the advance is not decided. A member at point 4 of a lock with `decided` set,
whose children have all permuted and whose parent can be reached, stays at point 4, where the statement has it go to point 5. -/
theorem not_permuteMovesOwnRange : ¬ Obligations.PermuteMovesOwnRange := by
  intro h
  obtain ⟨-, -, -, -, hend, -⟩ := h decidedState decidedLock rfl (by decide) decidedState_canonical
  have hroute : ∃ p, jobParent decidedState = some p ∧
      routable decidedState (BitVec.ofNat 18 (jobMemberId decidedState p)).toNat = true := ⟨0, by decide, by decide⟩
  obtain ⟨t, hexec, -, hlock, -⟩ := hend pairLayout rfl rfl rfl (by decide) (by decide) (.inr hroute)
  have hkids : kidsIn decidedState decidedLock.permutedFrom = true := by decide
  have hstay : (permuteComplete decidedState).lock = some { decidedLock with selfPermuted := true } :=
    permuteComplete_decided rfl (by decide) rfl rfl (by decide) (by decide) rfl
  have ht : permuteComplete decidedState = t := Host.Outcome.next.inj hexec
  rw [ht, hlock, hkids] at hstay
  have hpoint := congrArg Lock.point (Option.some.inj hstay)
  exact absurd hpoint (by decide)

end Sys2Proof.Machine
end

section
/-! Transactions at their destination (R274, R276, R300, R301, R335, R445): a PUT, a GET_REQ, a GET_RSP and a COMPL. -/
namespace Sys2Proof.Machine
open Sys2Proof Sys2Proof.Safety

variable {s t : State} {txn : Txn} {l : Lock} {q : BitVec 16 × Txn × SentFor}

/-! The token of a PUT (R300). -/

/-- What a signal and an event leave of the state, where neither cores nor deliveries are meant. -/
theorem signalRemote_keeps {α : Type} (f : State → α) (hraise : ∀ s code src p, f (raise s code src p) = f s)
    (hcore : ∀ s c x, f (setCore s c x) = f s) (s : State) (w : Nat) : f (signalRemote s w) = f s := by
  unfold signalRemote
  dsimp only
  split
  · unfold signalCtr
    dsimp only
    split
    · exact hraise ..
    · exact hcore ..
  · rfl

theorem signalRemote_mem (s : State) (w : Nat) : (signalRemote s w).mem = s.mem :=
  signalRemote_keeps State.mem raise_mem (fun _ _ _ => rfl) s w

theorem signalRemote_stp (s : State) (w : Nat) : (signalRemote s w).stp = s.stp :=
  signalRemote_keeps State.stp raise_stp (fun _ _ _ => rfl) s w

theorem signalRemote_lock (s : State) (w : Nat) : (signalRemote s w).lock = s.lock :=
  signalRemote_keeps State.lock raise_lock (fun _ _ _ => rfl) s w

/-- A PUT that took effect signals where it asks for a token, and is answered. -/
theorem endPut_done (s : State) (txn : Txn) :
    endPut s txn 0 = sendCompl (if txn.sig then signalRemote s (txnFld txn 24 4) else s) txn 0 := rfl

/-- The end of a PUT leaves memory, the step state and the lock. -/
theorem endPut_done_keeps (s : State) (txn : Txn) :
    (endPut s txn 0).mem = s.mem ∧ (endPut s txn 0).stp = s.stp ∧ (endPut s txn 0).lock = s.lock := by
  have hout := sendCompl_outward (if txn.sig then signalRemote s (txnFld txn 24 4) else s) txn 0
  rw [endPut_done, hout.mem, hout.stp, hout.lock]
  split
  · exact ⟨signalRemote_mem .., signalRemote_stp .., signalRemote_lock ..⟩
  · exact ⟨rfl, rfl, rfl⟩

/-! PUT (R300, R274, R276). -/

/-- A PUT of an epoch that the device takes, which nothing holds back, writes its data and ends. -/
theorem recvPut_lands (he : epochOk s txn.epoch = true)
    (hw : (isPermute s (txnFld txn 16 6) txn.data.length && targetDraining s) = false)
    (hh : hbmHolds s (txnFld txn 16 6) txn.data.length = false) (hl : isSisterLog s txn (txnFld txn 16 6) = false) :
    recvPut s txn = endPut (putData (takeLanded s txn) txn (txnFld txn 16 6)).1 txn
      (putData (takeLanded s txn) txn (txnFld txn 16 6)).2 := by
  have hok : epochOk (takeLanded s txn) txn.epoch = true := he
  have hlog : isSisterLog (takeLanded s txn) txn (txnFld txn 16 6) = false := hl
  unfold recvPut txnHeld
  dsimp only
  rw [hw, hh, hok, hlog, Bool.and_false, Bool.false_and]
  rfl

/-- A PUT of a wrong epoch writes nothing. -/
theorem recvPut_epoch (he : epochOk s txn.epoch = false) : recvPut s txn = sendCompl (epochFault (takeLanded s txn)) txn 3 := by
  have hok : epochOk (takeLanded s txn) txn.epoch = false := he
  unfold recvPut txnHeld
  dsimp only
  rw [he, hok, Bool.and_false, Bool.false_and]
  rfl

theorem recvPut_waits (h : (isPermute s (txnFld txn 16 6) txn.data.length && targetDraining s) = true)
    (he : epochOk s txn.epoch = true) : recvPut s txn = s := by
  unfold recvPut
  dsimp only
  rw [h, he]
  rfl

variable {a : Nat}

theorem isPermute_noLock (hl : s.lock = none) (a n : Nat) : isPermute s a n = false := by
  rw [isPermute, hl]
  rfl

theorem putData_writes (hl : s.lock = none) (hm : mapped s a txn.data.length = true) (hw : inHoldWindow a txn.data.length = false)
    (hb : bankWriteOk s a txn.data.length = true) : putData s txn a = (wrMem s a txn.data, 0) := by
  unfold putData
  dsimp only
  rw [hm, hw, isPermute_noLock hl, hl, hb]
  rfl

theorem putData_refuses (hl : s.lock = none) (hm : mapped s a txn.data.length = true) (hw : inHoldWindow a txn.data.length = false)
    (hb : bankWriteOk s a txn.data.length = false) : putData s txn a = (raise s 0x4107 srcDevice [], 2) := by
  unfold putData
  dsimp only
  rw [hm, hw, isPermute_noLock hl, hl, hb]
  rfl

/-- A permute's PUT inside the lock is counted (R274). -/
theorem putData_permutes (hl : s.lock = some l) (hm : mapped s a txn.data.length = true) (hw : inHoldWindow a txn.data.length = false)
    (hp : isPermute s a txn.data.length = true) (ha : inAlternate s a txn.data.length = true) (he : txn.epoch ≠ s.stp.epoch) :
    putData s txn a = (setLock (wrMem s a txn.data) { l with got := l.got + txn.data.length }, 0) := by
  have hne : (txn.epoch != s.stp.epoch) = true := bne_iff_ne.2 he
  have hlock : (wrMem s a txn.data).lock = some l := hl
  unfold putData
  dsimp only
  rw [hm, hw, hp, ha, hne, hlock]
  rfl

/-- The bytes that a write of `s` left, and the bytes outside it, in every state with that memory. -/
theorem written_of_mem {bs : Bytes} (hs : Memory.wf s.mem = true) (h : t.mem = (wrMem s a bs).mem) :
    rdMem t a bs.length = bs ∧ sameOutside s t [(a, bs.length)] := by
  refine ⟨?_, sameOutside_of_wr h⟩
  rw [rdMem, h]
  exact rdMem_wrMem s a bs hs

/-! A wrong epoch (R276). -/

theorem epochFault_mem (s : State) : (epochFault s).mem = s.mem :=
  (startAbort_keepsCommitted ..).mem.trans (raise_mem ..)

theorem epochFault_aborts {b : Attempt} (ha : s.stp.att = some b) (hp : b.point < 4) (hr : s.stp.state ≠ .suspended) :
    (epochFault s).stp.state = .aborting :=
  startAbort_aborts (by rw [raise_stp]; exact ha) hp (by rw [raise_stp]; exact hr) cFault

/-! GET (R300, R301, R335). -/

theorem recvGetReq_answers (hn : 1 ≤ txnFld txn 22 2) (hmax : txnFld txn 22 2 ≤ 4096) (he : epochOk s txn.epoch = true)
    (hm : mapped s (txnFld txn 16 6) (txnFld txn 22 2) = true)
    (hret : mapped s (leNat (sub txn.fields 8 6)) (txnFld txn 22 2) = true)
    (hh : hbmHolds s (txnFld txn 16 6) (txnFld txn 22 2) = false) : recvGetReq s txn =
      sendAnswer (takeLanded s txn) (answerRail (takeLanded s txn) txn) txn .getRsp
        (txnFields [(16, sub txn.fields 8 6), (22, toLe 1 0)]) (readAny s (txnFld txn 16 6) (txnFld txn 22 2)) := by
  have hok : epochOk (takeLanded s txn) txn.epoch = true := he
  have hmap : mapped (takeLanded s txn) (txnFld txn 16 6) (txnFld txn 22 2) = true := hm
  have hmapRet : mapped (takeLanded s txn) (leNat (sub txn.fields 8 6)) (txnFld txn 22 2) = true := hret
  have hsize : ¬(txnFld txn 22 2 = 0 ∨ 4096 < txnFld txn 22 2) := by omega
  unfold recvGetReq txnHeld
  dsimp only
  rw [hh, hok, hmap, hmapRet, if_neg hsize, Bool.and_false]
  rfl

/-- An answer stands at the end of the outbox, and is all that changes. -/
theorem sendAnswer_queues (hr : traceReplay s = false) (rail : Nat) (ty : TxnType) (f b : Bytes) :
    ∃ o, sendAnswer s rail txn ty f b = { s with fab := { s.fab with outbox := s.fab.outbox ++ [o] } } ∧
      o.txn.type = ty ∧ o.txn.data = b ∧ o.txn.dst = txn.src ∧ o.txn.tag = txn.tag := by
  refine ⟨{ rail := rail, arr := none, txn := { mkTxn s ty txn.cls.toNat txn.src.toNat f b with tag := txn.tag } },
    ?_, rfl, rfl, BitVec.ofNat_toNat .. |>.trans (BitVec.setWidth_eq _), rfl⟩
  rw [sendAnswer, hr]
  rfl

/-- The state with an answered request out of the outstanding ones. -/
def answerTaken (s : State) (txn : Txn) (q : BitVec 16 × Txn × SentFor) : State := dropOutstanding (takeLanded s txn) q.1

theorem recvGetRsp_epoch (hq : answered s txn = some q) (he : epochOk s txn.epoch = false) :
    recvGetRsp s txn = epochFault (answerTaken s txn q) := by
  have hans : answered (takeLanded s txn) txn = some q := hq
  have hok : epochOk (takeLanded s txn) txn.epoch = false := he
  unfold recvGetRsp txnHeld
  dsimp only
  rw [he, Bool.false_and, hans]
  dsimp only
  rw [hok]
  rfl

theorem recvGetRsp_standin {i : Nat} (hq : answered s txn = some q) (hh : hbmHolds s (txnFld txn 16 6) txn.data.length = false)
    (he : epochOk s txn.epoch = true) (hfor : q.2.2 = .standin i) (hst : txnFld txn 22 1 = 0) :
    recvGetRsp s txn = takeStandin (answerTaken s txn q) i 0 txn.data := by
  have hans : answered (takeLanded s txn) txn = some q := hq
  have hok : epochOk (takeLanded s txn) txn.epoch = true := he
  unfold recvGetRsp txnHeld
  dsimp only
  rw [hh, Bool.and_false, hans]
  dsimp only
  rw [hok, hfor, hst]
  rfl

theorem recvGetRsp_lands (hq : answered s txn = some q) (hh : hbmHolds s (txnFld txn 16 6) txn.data.length = false)
    (he : epochOk s txn.epoch = true) (hfor : ∀ i, q.2.2 ≠ .standin i) (hst : txnFld txn 22 1 = 0) :
    recvGetRsp s txn = landGetRsp (answerTaken s txn q) txn := by
  have hans : answered (takeLanded s txn) txn = some q := hq
  have hok : epochOk (takeLanded s txn) txn.epoch = true := he
  unfold recvGetRsp txnHeld
  dsimp only
  rw [hh, Bool.and_false, hans]
  dsimp only
  rw [hok, hst]
  cases hwhy : q.2.2 with
  | standin i => exact absurd hwhy (hfor i)
  | _ => rfl

theorem landGetRsp_writes (hm : mapped s (txnFld txn 16 6) txn.data.length = true)
    (hw : inHoldWindow (txnFld txn 16 6) txn.data.length = false) (hb : bankWriteOk s (txnFld txn 16 6) txn.data.length = true) :
    landGetRsp s txn = wrMem s (txnFld txn 16 6) txn.data := by
  unfold landGetRsp
  dsimp only
  rw [hm, hw, hb]
  rfl

theorem takeStandin_keeps {i : Nat} {f : StandinFetch} {b : Bytes} (hf : s.hold.fetch = some f) : takeStandin s i 0 b =
    { s with hold := { s.hold with fetch := some { f with got := i :: f.got, bytes := wr f.bytes (4096 * i) b } } } := by
  rw [takeStandin, hf]
  rfl

/-! COMPL (R301). -/

theorem recvCompl_control (hq : answered s txn = some q) (hfor : q.2.2 = .control) :
    recvCompl s txn = remoteReject (answerTaken s txn q) txn (txnFld txn 16 1) := by
  have hans : answered (takeLanded s txn) txn = some q := hq
  unfold recvCompl
  dsimp only
  rw [hans]
  dsimp only
  rw [hfor]
  rfl

theorem remoteReject_eq {st : Nat} (h : st ∈ [1, 2, 4]) :
    remoteReject s txn st = startAbort (raise s 0x6106 srcDevice (toLe 3 txn.src.toNat)) cFault :=
  if_pos (by simpa using h)

/-- Settles O44: a PUT by its epoch and the bank it goes to, the two ends of a GET, and a COMPL by its status. -/
theorem transactionsTakeEffect : Obligations.TransactionsTakeEffect := by
  rintro s txn _ n rfl hcan
  have hmem := canonical_mem hcan
  refine ⟨?put, ?permute, ?request, fun q hq hh => ⟨fun he => ?rspEpoch, fun i f he hfor hf hst => ?rspStandin,
    fun he hfor hst hm hw hb => ?rspLands, fun hfor hst => ?complDone, fun hfor hst b ha hp hr => ?complRejects⟩⟩
  case put =>
    rintro rfl hl hh hsis
    have hnow : (isPermute s (txnFld txn 16 6) txn.data.length && targetDraining s) = false := by
      rw [isPermute_noLock hl, Bool.false_and]
    refine ⟨fun he hm hw hb => ?_, fun he hm hw hb => ?_, fun he => ?_⟩
    · have hput := recvPut_lands he hnow hh hsis
      rw [putData_writes (s := takeLanded s txn) hl hm hw hb] at hput
      obtain ⟨hend, -, -⟩ := endPut_done_keeps (wrMem (takeLanded s txn) (txnFld txn 16 6) txn.data) txn
      obtain ⟨hread, hout⟩ := written_of_mem hmem hend
      exact ⟨_, congrArg Host.Outcome.next hput, hread, hout, endPut_done ..⟩
    · have hput := recvPut_lands he hnow hh hsis
      rw [putData_refuses (s := takeLanded s txn) hl hm hw hb] at hput
      have hout := ((takeLanded_outward s txn).trans (raise_outward _ 0x4107 srcDevice [])).trans (sendCompl_outward _ txn 2)
      exact ⟨_, congrArg Host.Outcome.next hput, hout.mem, hout.cores, hout.stp⟩
    · have hout := sendCompl_outward (epochFault (takeLanded s txn)) txn 3
      refine ⟨_, congrArg Host.Outcome.next (recvPut_epoch he), hout.mem.trans (epochFault_mem _), fun b ha hp hr => ?_⟩
      rw [hout.stp]
      exact epochFault_aborts (s := takeLanded s txn) ha hp hr
  case permute =>
    rintro l rfl hl hp ha hh hsis he hne hm hw
    refine ⟨fun hdrain => congrArg Host.Outcome.next (recvPut_waits (by rw [hp, hdrain]; rfl) he), fun hdrain => ?_⟩
    have hput := recvPut_lands he (by rw [hdrain, Bool.and_false]) hh hsis
    rw [putData_permutes (s := takeLanded s txn) hl hm hw hp ha hne] at hput
    obtain ⟨hend, hstp, hlock⟩ := endPut_done_keeps (setLock (wrMem (takeLanded s txn) (txnFld txn 16 6) txn.data)
      { l with got := l.got + txn.data.length }) txn
    obtain ⟨hread, hout⟩ := written_of_mem hmem hend
    exact ⟨_, congrArg Host.Outcome.next hput, hlock, hread, hout, hstp⟩
  case request =>
    rintro rfl hn hmax he hm hret hr hh
    obtain ⟨o, hans, hty, hdata, hdst, htag⟩ := sendAnswer_queues (s := takeLanded s txn) (txn := txn) hr
      (answerRail (takeLanded s txn) txn) .getRsp (txnFields [(16, sub txn.fields 8 6), (22, toLe 1 0)])
      (readAny s (txnFld txn 16 6) (txnFld txn 22 2))
    have hreq := (recvGetReq_answers hn hmax he hm hret hh).trans hans
    exact ⟨_, o, congrArg Host.Outcome.next hreq, rfl, rfl, rfl, hty, hdata, hdst, htag⟩
  case rspEpoch => exact congrArg Host.Outcome.next (recvGetRsp_epoch hq he)
  case rspStandin =>
    have hrsp := (recvGetRsp_standin hq hh he hfor hst).trans (takeStandin_keeps (s := answerTaken s txn q) hf)
    exact ⟨_, congrArg Host.Outcome.next hrsp, rfl, rfl⟩
  case rspLands =>
    have hrsp := (recvGetRsp_lands hq hh he hfor hst).trans (landGetRsp_writes (s := answerTaken s txn q) hm hw hb)
    obtain ⟨hread, hout⟩ := written_of_mem (t := wrMem (answerTaken s txn q) (txnFld txn 16 6) txn.data) hmem rfl
    exact ⟨_, congrArg Host.Outcome.next hrsp, hread, hout, rfl⟩
  case complDone =>
    have hcompl := recvCompl_control hq hfor
    rw [hst] at hcompl
    exact congrArg Host.Outcome.next hcompl
  case complRejects =>
    have hcompl := (recvCompl_control hq hfor).trans (remoteReject_eq hst)
    obtain ⟨hstate, hbank, -, -, hm⟩ := startAbort_aborts_keeps
      (s := raise (answerTaken s txn q) 0x6106 srcDevice (toLe 3 txn.src.toNat)) (a := b)
      (by rw [raise_stp]; exact ha) hp (by rw [raise_stp]; exact hr) cFault
    rw [raise_stp] at hbank
    rw [raise_mem] at hm
    exact ⟨_, congrArg Host.Outcome.next hcompl, hstate, hbank, hm⟩

end Sys2Proof.Machine
end

section
/-! Fabric ports: training (R284), lanes (R291, R292) and the owner's commands (R309). -/
namespace Sys2Proof.Machine
open Sys2Proof Sys2Proof.Safety

variable {s : State} {p : Nat} {x : Port}

/-! A port's entry in the table. -/

theorem smIns_smIns {α : Type} (m : SMap α) (k : Nat) (v w : α) : smIns (smIns m k v) k w = smIns m k w := by
  induction m with
  | nil => simp [smIns]
  | cons q m ih =>
    obtain ⟨j, u⟩ := q
    rcases lt_trichotomy k j with h | h | h
    · simp [smIns, h]
    · simp [smIns, h]
    · simp [smIns, h.not_gt, h.ne', ih]

theorem setPort_setPort {y z : Port} (hy : y ≠ Port.init) (hz : z ≠ Port.init) : setPort (setPort s p y) p z = setPort s p z := by
  simp [setPort, smSet, hy, hz, smIns_smIns]

theorem getPort_setPort {y : Port} (hy : y ≠ Port.init) : getPort (setPort s p y) p = y := by
  simp [getPort, smGet_smSet_ne _ _ _ hy]

theorem ne_init_of_state {y : Port} (h : y.state ≠ .down) : y ≠ Port.init := by
  rintro rfl
  exact h rfl

/-! Training (R284). -/

/-- A port trains only while the reference is good and its island runs from it (R451). -/
theorem trainPort_waits (h : s.clk.ref ≠ .good ∨ onReference s (portIsland p) = false) (r : TrainResult) : trainPort s p r = s := by
  unfold trainPort
  exact if_pos (by simpa using h)

/-- What the end of a port's training does, where its axis is used. -/
def trainStage (s : State) (p : Nat) : TrainResult → State
  | .stageFailed => stageFails s p
  | .linked peer pp session badTx badRx =>
    if healthy ((getPort s p).laneBadTx ||| badTx) < 4 ∨ healthy ((getPort s p).laneBadRx ||| badRx) < 4 then stageFails s p
    else portLinked s p peer pp session badTx badRx

theorem trainPort_trains (hr : s.clk.ref = .good) (ho : onReference s (portIsland p) = true)
    (hst : (getPort s p).state ∈ [PortState.training, .down, .held, .retraining]) (r : TrainResult) :
    trainPort s p r = if unusedPort s p then setPort s p { getPort s p with state := .down } else trainStage s p r := by
  have hgo : ¬(s.clk.ref ≠ .good ∨ !onReference s (portIsland p)) := by simp [hr, ho]
  simp only [List.mem_cons, List.not_mem_nil, or_false] at hst
  unfold trainPort
  dsimp only
  rw [if_neg hgo]
  rcases hst with h | h | h | h <;> rw [h] <;> cases r <;> rfl

theorem stageFails_counts (h : (getPort s p).fails + 1 ≠ 16) :
    stageFails s p = setPort s p { getPort s p with fails := (getPort s p).fails + 1 } := if_pos h

theorem stageFails_sixteenth (h : (getPort s p).fails + 1 = 16) (hst : (getPort s p).state ≠ .retraining) :
    stageFails s p = raise (setPort s p { getPort s p with fails := 16 }) 0x6103 (srcPort p)
      (toLe 1 p ++ toLe 3 (getPort s p).peerId.toNat) := by
  unfold stageFails
  dsimp only
  rw [h, if_neg (by simp), if_neg hst]

/-- R284, R292: eight lanes where eight are healthy in both directions and nothing narrowed the link. -/
theorem mapLanes_width (x : Port) (badTx badRx : BitVec 9) : (mapLanes x badTx badRx).width =
    if x.narrowed = false ∧ 8 ≤ healthy (x.laneBadTx ||| badTx) ∧ 8 ≤ healthy (x.laneBadRx ||| badRx) then 8 else 4 := by
  simp [mapLanes, and_assoc]

/-- This end of a new link, before its first flit. -/
def freshEnd (s : State) (y : Port) (peer : BitVec 18) (pp : BitVec 4) (session : W32) : Port :=
  { y with state := .up, peerId := peer, peerPort := pp, fails := 0, linked := true, session := session, carries := false,
           sess := Config.linkSession s.fresh, txSeq := 0, rxSeq := 0, acked := 0, asked := false, resends := 0, credit := [] }

/-- The body of the first control flit of a port's end: the credits of its buffers, and its identity. -/
def grantBody (s : State) (p : Nat) (y : Port) : Bytes :=
  withIdent (stageIdent s p y) (controlBody freshCredits none 0 0 0 0)

theorem sub_sub_front {bs : Bytes} {off n m : Nat} (h : off + n ≤ m) : sub (sub bs 0 m) off n = sub bs off n := by
  refine List.map_congr_left fun i hi => ?_
  have hi := List.mem_range.1 hi
  rw [List.getD_eq_getElem _ _ (by simp; omega)]
  simp [sub]

/-- The first 16 bytes of a control flit's body stand in front of an identity. -/
theorem sub_withIdent (idn body : Bytes) {off n : Nat} (h : off + n ≤ 16) :
    sub (sub (withIdent idn body) 0 252) off n = sub body off n := by
  rw [show sub (sub (withIdent idn body) 0 252) off n = sub (withIdent idn body) off n from ?_]
  · unfold withIdent
    split
    · rfl
    · rw [sub_append_left _ _ _ _ (by rw [sub_length]; exact h)]
      exact sub_sub_front h
  · exact sub_sub_front (by omega)

/-- R290: 256 flits of each virtual lane. -/
theorem grantBody_credits (s : State) (p : Nat) (y : Port) : ∀ v < 4, fld (sub (grantBody s p y) 0 252) (2 * v) 2 = 256 := by
  intro v hv
  rw [fld, grantBody, sub_withIdent _ _ (by omega)]
  revert v
  decide

/-- R289: with room in the replay buffer a control flit leaves at once. -/
theorem sendControl_sends (hb : x.replayBuf.length < 2048) (hw : x.ctlWait = []) (s : State) (p : Nat) (body : Bytes) :
    sendControl s p x body = sendFlit x 1 0 (withIdent (stageIdent s p x) body) := if_pos ⟨hb, by rw [hw]; rfl⟩

/-- A control flit changes a port's replay buffer, the number of its next flit and the bodies that wait. -/
theorem sendControl_eq (s : State) (p : Nat) (x : Port) (body : Bytes) : ∃ buf wait n,
    sendControl s p x body = { x with replayBuf := buf, ctlWait := wait, txSeq := n } := by
  unfold sendControl sendBody
  split
  · exact ⟨_, _, _, rfl⟩
  · exact ⟨_, _, _, rfl⟩

theorem tellSpares_frame (old new : Port) (s : State) (p : Nat) : eventsOnly s (tellSpares old new s p) := by
  have hif (b : Bool) (u : State) : eventsOnly u (if b then raise u 0xA104 (srcPort p) [] else u) := by
    split
    · exact raise_frame ..
    · exact .refl u
  exact (hif ..).trans (hif ..)

theorem tellSpares_told {old new : Port} (ht : old.toldTx = true) (hr : old.toldRx = true) : tellSpares old new s p = s := by
  simp [tellSpares, ht, hr]

/-- R285: without a plan no identity is checked. -/
theorem checkPeer_noPlan (h : s.pln.plan = none) : checkPeer s p = s := by
  simp [checkPeer, h]

theorem tellSpares_pln (old new : Port) (s : State) (p : Nat) : (tellSpares old new s p).pln = s.pln :=
  (eventsOnly_outward (tellSpares_frame ..)).pln

/-- A port that was not linked comes up, its first flit the grant of credits. -/
theorem portLinked_new (hx : getPort s p = x) (hl : x.linked = false) (hplan : s.pln.plan = none) (hb : x.replayBuf = [])
    (hw : x.ctlWait = []) (peer : BitVec 18) (pp : BitVec 4) (session : W32) (badTx badRx : BitVec 9) {n : Port}
    (hn : freshEnd s (mapLanes x badTx badRx) peer pp session = n) :
    portLinked s p peer pp session badTx badRx = tellSpares x (mapLanes x badTx badRx)
      (bumpFresh (setPort s p { sendFlit n 1 0 (grantBody s p n) with state := .up, widthOp := false })) p := by
  have hsend := sendControl_sends (x := n) (by rw [← hn]; exact hb ▸ (by decide : 0 < 2048)) (by rw [← hn]; exact hw) s p
    (controlBody freshCredits none 0 0 0 0)
  rw [← grantBody] at hsend
  subst hn
  rw [← hsend]
  unfold portLinked
  simp only [hx, hl, Bool.false_and, Bool.false_eq_true, if_false, and_false]
  rw [checkPeer_noPlan (by rw [tellSpares_pln]; exact hplan)]
  rfl

/-! Lanes (R291, R292). -/

theorem laneFail_peer {lane : Nat} (hx : getPort s p = x) (hst : x.state = .up)
    (hrx : 4 ≤ healthy x.laneBadRx) (htx : 4 ≤ healthy (x.laneBadTx ||| BitVec.ofNat 9 (2 ^ lane))) :
    laneFail s p lane false .lostLock = setPort s p { x with laneBadTx := x.laneBadTx ||| BitVec.ofNat 9 (2 ^ lane) } := by
  have hok : ¬(healthy x.laneBadRx < 4 ∨ healthy (x.laneBadTx ||| BitVec.ofNat 9 (2 ^ lane)) < 4) := by omega
  unfold laneFail
  simp only [hx, hst, hok, Bool.false_eq_true, if_false]
  rfl

/-- A port whose receive lane is bad. -/
def badLane (x : Port) (lane : Nat) : Port := { x with laneBadRx := x.laneBadRx ||| BitVec.ofNat 9 (2 ^ lane) }

/-- The flit from which the spare serves in place of a lane that fails now. -/
def switchFlit (x : Port) : BitVec 12 := x.rxSeq - 1 + 32

/-- A port whose bad receive lane the spare replaces. -/
def swappingLane (x : Port) (lane : Nat) : Port := { badLane x lane with swapRx := some (lane, 8, switchFlit x) }

theorem laneFail_serving {lane : Nat} (hx : getPort s p = x) (hst : x.state = .up)
    (hrx : 4 ≤ healthy (badLane x lane).laneBadRx) (htx : 4 ≤ healthy x.laneBadTx)
    (hserv : (servingLanes x.laneBadRx x.width).contains lane = true) (hsw : x.swapRx = none) :
    laneFail s p lane true .lostLock =
      if spareFree x then
        setPort s p (sendControl s p (swappingLane x lane) (controlBody [] none 1 lane 8 (switchFlit x)))
      else narrowPort (setPort s p (badLane x lane)) p true := by
  have hok : ¬(healthy (x.laneBadRx ||| BitVec.ofNat 9 (2 ^ lane)) < 4 ∨ healthy x.laneBadTx < 4) :=
    fun h => h.elim (Nat.not_lt.2 hrx) (Nat.not_lt.2 htx)
  have hgo : ¬(!laneFails s .lostLock || (x.state != .up && x.state != .retraining && x.state != .cablingFault)) = true := by
    simp [laneFails, hst]
  have hserves : ¬((!true) = true ∨ x.state = .retraining ∨ (!(servingLanes x.laneBadRx x.width).contains lane) = true ∨
      x.swapRx.isSome = true) := by
    rw [hst, hserv, hsw]
    simp
  unfold laneFail
  simp only [hx, if_true]
  rw [if_neg hgo, if_neg hok, if_neg hserves]
  rfl

theorem narrowPort_tells (hx : getPort s p = x) (hrx : 4 ≤ healthy x.laneBadRx) (htx : 4 ≤ healthy x.laneBadTx) :
    narrowPort s p true = setPort s p { sendControl s p x (controlBody [] none 2 0 0 0) with
      state := .retraining, narrowed := true, widthOp := true, swapTx := none, swapRx := none } := by
  simp [narrowPort, hx, Nat.not_lt.2 hrx, Nat.not_lt.2 htx]

/-- R291, R292: a serving lane's failure, with a free spare and without. -/
theorem laneFail_replaces {lane : Nat} (hx : getPort s p = x) (hst : x.state = .up)
    (hrx : 4 ≤ healthy (badLane x lane).laneBadRx) (htx : 4 ≤ healthy x.laneBadTx)
    (hserv : (servingLanes x.laneBadRx x.width).contains lane = true) (hsw : x.swapRx = none) : ∃ y,
    laneFail s p lane true .lostLock = setPort s p y ∧ y.laneBadRx = (badLane x lane).laneBadRx ∧
    (spareFree x = true → y.state = .up ∧ y.swapRx = some (lane, 8, x.rxSeq - 1 + 32) ∧
      (x.replayBuf.length < 2048 → x.ctlWait = [] → y.txSeq = x.txSeq + 1)) ∧
    (spareFree x = false → y.state = .retraining ∧ y.narrowed = true) := by
  rw [laneFail_serving hx hst hrx htx hserv hsw]
  cases hspare : spareFree x with
  | true =>
    obtain ⟨buf, wait, n, hsend⟩ := sendControl_eq s p (swappingLane x lane) (controlBody [] none 1 lane 8 (switchFlit x))
    refine ⟨_, rfl, by rw [hsend]; rfl, fun _ => ⟨by rw [hsend]; exact hst, by rw [hsend]; rfl, fun hb hw => ?_⟩, nofun⟩
    rw [sendControl_sends (x := swappingLane x lane) hb hw]
    rfl
  | false =>
    have hup : (badLane x lane).state ≠ .down := fun h => nomatch hst.symm.trans h
    have hbad := getPort_setPort (s := s) (p := p) (ne_init_of_state hup)
    obtain ⟨buf, wait, n, hsend⟩ := sendControl_eq (setPort s p (badLane x lane)) p (badLane x lane) (controlBody [] none 2 0 0 0)
    rw [if_neg Bool.false_ne_true, narrowPort_tells hbad hrx htx, setPort_setPort (ne_init_of_state hup)]
    · exact ⟨_, rfl, by rw [hsend], nofun, fun _ => ⟨rfl, rfl⟩⟩
    · exact ne_init_of_state nofun

theorem laneSwap_rx {w : Nat × Nat × BitVec 12} (hx : getPort s p = x) (hst : x.state = .up) (hw : x.swapRx = some w)
    (hpast : pastSwitch x.rxSeq w.2.2 = true) (hh : 8 ≤ healthy x.laneBadRx) :
    laneSwap s p true = raise (raise (setPort s p { x with swapRx := none, spareRx := true, toldRx := true }) 0x6101 (srcPort p)
      (toLe 1 p ++ toLe 3 x.peerId.toNat)) 0xA104 (srcPort p) [] := by
  simp [laneSwap, hx, receives, hst, hw, hpast, swapDone, Nat.not_lt.2 hh]

theorem laneSwap_tx {w : Nat × Nat × BitVec 12} (hx : getPort s p = x) (hst : x.state = .up) (hw : x.swapTx = some w)
    (hpast : pastSwitch x.txSeq w.2.2 = true) (hh : 8 ≤ healthy x.laneBadTx) :
    laneSwap s p false = raise (raise (setPort s p { x with swapTx := none, spareTx := true, toldTx := true }) 0x6101 (srcPort p)
      (toLe 1 p ++ toLe 3 x.peerId.toNat)) 0xA104 (srcPort p) [] := by
  simp [laneSwap, hx, receives, hst, hw, hpast, swapDone, Nat.not_lt.2 hh]

/-! The port's commands (R309). -/

theorem portGoesDown_frame (s : State) (p : Nat) (st : PortState) : eventsOnly (setPort s p { getPort s p with
    state := st, carries := false, swapTx := none, swapRx := none, resends := 0 }) (portGoesDown s p st) := by
  unfold portGoesDown
  dsimp only
  split
  · exact (raise_frame ..).trans (raise_frame ..)
  · exact raise_frame ..

theorem disablePort_up (h : (getPort s p).state = .up) : disablePort s p = portGoesDown s p .disabled := by
  simp [disablePort, stateDown, h]

/-- The owner's FAB_CTRL acts on the port that it selected. -/
theorem portCommand_selected {m : Nat} (ho : isOwner s m = true) (hm : masterExists s m = true) (hb : s.sec.boot = .ready)
    (hsel : selPort s m = some p) (f : State → Nat → State) :
    writeGate s m 0x8020 false (fun s => portCommand s m f) = f s p := by
  rw [writeGate_owner hm hb ho, portCommand, hsel]

/-- Settles O41: training by its stages, the lanes by direction and spare, and the owner's commands. -/
theorem portsTrainAndRepair : Obligations.PortsTrainAndRepair := by
  rintro s p _ rfl hcan
  refine ⟨fun r h => congrArg Host.Outcome.next (trainPort_waits h r), fun hr ho hst => ?train, fun hst lane => ?lanes,
    fun hst w => ⟨fun hw hpast hh => congrArg Host.Outcome.next (laneSwap_rx rfl hst hw hpast hh),
      fun hw hpast hh => congrArg Host.Outcome.next (laneSwap_tx rfl hst hw hpast hh)⟩,
    fun m ho hm hb hsel => ?command⟩
  case train =>
    have htrain := trainPort_trains hr ho hst
    refine ⟨fun r hun => ?_, fun hun hf => ?_, fun hun hf hne => ?_, fun hl hplan hb hw peer pp session badTx badRx htx hrx => ?_⟩
    · exact congrArg Host.Outcome.next ((htrain r).trans (if_pos hun))
    · exact congrArg Host.Outcome.next (((htrain _).trans (if_neg (by simp [hun]))).trans (stageFails_counts hf))
    · exact congrArg Host.Outcome.next (((htrain _).trans (if_neg (by simp [hun]))).trans (stageFails_sixteenth hf hne))
    · have hun : ¬unusedPort s p.val = true := by simp [unusedPort, hplan]
      have hlink := ((htrain (.linked peer pp session badTx badRx)).trans (if_neg hun)).trans (if_neg (by omega))
      rw [portLinked_new rfl hl hplan hb hw peer pp session badTx badRx rfl] at hlink
      exact ⟨_, _, _, congrArg Host.Outcome.next hlink, tellSpares_frame .., fun ht hr => tellSpares_told ht hr, rfl, rfl, rfl,
        mapLanes_width .., rfl, rfl, rfl, rfl, rfl, rfl, rfl, rfl, congrArg (· ++ [_]) hb, rfl, grantBody_credits s p _, rfl, rfl⟩
  case lanes =>
    refine ⟨fun htx hrx => congrArg Host.Outcome.next (laneFail_peer rfl hst hrx htx), fun hrx htx hserv hsw => ?_⟩
    obtain ⟨y, hfail, hbad, hkeep⟩ := laneFail_replaces rfl hst hrx htx hserv hsw
    exact ⟨y, congrArg Host.Outcome.next hfail, hbad, hkeep⟩
  case command =>
    have hsel := portCommand_selected ho hm hb hsel
    refine ⟨fun h => ?_, fun h => ?_, fun h => ?_⟩
    · exact congrArg Host.Outcome.next ((hsel retrainPort).trans (if_pos h))
    · exact ⟨_, congrArg Host.Outcome.next ((hsel disablePort).trans (disablePort_up h)), portGoesDown_frame ..⟩
    · exact congrArg Host.Outcome.next ((hsel enablePort).trans (if_pos h))

end Sys2Proof.Machine
end

section
/-! Dimension-order routing (R295): a step in the next direction comes one hop nearer. -/
namespace Sys2Proof.Machine
open Sys2Proof Sys2Proof.Safety

variable {e : Nat × Nat × Nat} {i j n a b d here dst : Nat}

/-! One ring. -/

/-- The steps between two coordinates of a ring, the shorter way. -/
def ringDist (n a b : Nat) : Nat := min ((b + n - a) % n) ((a + n - b) % n)

/-- The low bit of the direction that goes from one coordinate to another the shorter way: 0 up, 1 down. -/
def shorterWay (n a b : Nat) : Nat := if (b + n - a) % n ≤ n - (b + n - a) % n then 0 else 1

/-- The steps from a coordinate up to another. -/
theorem ringWay (ha : a < n) (hb : b < n) : (b + n - a) % n = if a ≤ b then b - a else b + n - a := by
  split
  · rw [show b + n - a = b - a + n by omega, Nat.add_mod_right, Nat.mod_eq_of_lt (by omega)]
  · exact Nat.mod_eq_of_lt (by omega)

theorem axisStep_up (ha : a < n) (hd : d % 2 = 0) : axisStep n a d = if a + 1 = n then 0 else a + 1 := by
  rw [axisStep, if_pos hd]
  split
  · next h => rw [h, Nat.mod_self]
  · exact Nat.mod_eq_of_lt (by omega)

theorem axisStep_down (ha : a < n) (hd : d % 2 ≠ 0) : axisStep n a d = if a = 0 then n - 1 else a - 1 := by
  rw [axisStep, if_neg hd]
  split
  · next h => rw [h, Nat.zero_add, Nat.mod_eq_of_lt (by omega)]
  · rw [show a + n - 1 = a - 1 + n by omega, Nat.add_mod_right, Nat.mod_eq_of_lt (by omega)]

theorem axisStep_lt (ha : a < n) (d : Nat) : axisStep n a d < n := by
  unfold axisStep
  split <;> exact Nat.mod_lt _ (by omega)

/-- A step the shorter way round comes one step nearer. -/
theorem ringDist_axisStep (ha : a < n) (hb : b < n) (hne : b ≠ a) (hd : d % 2 = shorterWay n a b) :
    ringDist n (axisStep n a d) b + 1 = ringDist n a b := by
  have hlt := axisStep_lt ha d
  rw [ringDist, ringDist, ringWay hlt hb, ringWay hb hlt, ringWay ha hb, ringWay hb ha]
  rw [shorterWay, ringWay ha hb] at hd
  by_cases h : d % 2 = 0
  · rw [axisStep_up ha h]
    split_ifs at hd ⊢ <;> omega
  · rw [axisStep_down ha h]
    split_ifs at hd ⊢ <;> omega

/-! IDs. -/

theorem routableIn_iff : routableIn e i = true ↔ i < 2 ^ 18 ∧ ∀ j < 3, idAxis i j < axisExtent e j := by
  rw [routableIn, decide_eq_true_eq]
  refine and_congr_right fun _ => ⟨fun ⟨hx, hy, hz⟩ j hj => ?_, fun h => ⟨h 0 (by omega), h 1 (by omega), h 2 (by omega)⟩⟩
  interval_cases j
  · exact hx
  · exact hy
  · exact hz

theorem axisExtent_le (hx : e.1 ≤ 64) (hy : e.2.1 ≤ 64) (hz : e.2.2 ≤ 64) (j : Nat) : axisExtent e j ≤ 64 := by
  unfold axisExtent
  split_ifs <;> assumption

/-- The ID of three coordinates has them. -/
theorem idAxis_mkId {c : Nat → Nat} (hc : ∀ j < 3, c j < 64) (hj : j < 3) : idAxis (mkId (c 0) (c 1) (c 2)) j = c j := by
  have h0 := hc 0 (by omega)
  have h1 := hc 1 (by omega)
  have h2 := hc 2 (by omega)
  unfold idAxis idX idY idZ mkId
  interval_cases j <;> simp <;> omega

/-- IDs of equal coordinates are equal. -/
theorem id_ext (hi : i < 2 ^ 18) (hj : j < 2 ^ 18) (h : ∀ a < 3, idAxis i a = idAxis j a) : i = j := by
  have hx : i % 64 = j % 64 := h 0 (by omega)
  have hy : i / 64 % 64 = j / 64 % 64 := h 1 (by omega)
  have hz : i / 4096 % 64 = j / 4096 % 64 := h 2 (by omega)
  omega

/-- A coordinate of the neighbour in a direction. -/
def neighbourAxis (e : Nat × Nat × Nat) (i d j : Nat) : Nat :=
  if j = d / 2 then axisStep (axisExtent e j) (idAxis i j) d else idAxis i j

theorem neighbour_eq (hd : d < 6) :
    neighbour e i d = mkId (neighbourAxis e i d 0) (neighbourAxis e i d 1) (neighbourAxis e i d 2) := by
  have haxis : d / 2 = 0 ∨ d / 2 = 1 ∨ d / 2 = 2 := by omega
  unfold neighbour neighbourAxis
  rcases haxis with h | h | h <;> rw [h] <;> rfl

theorem neighbourAxis_lt (hi : routableIn e i = true) (d : Nat) (hj : j < 3) : neighbourAxis e i d j < axisExtent e j := by
  have hlt := (routableIn_iff.1 hi).2 j hj
  unfold neighbourAxis
  split
  · exact axisStep_lt hlt d
  · exact hlt

/-- The hops between two IDs. -/
def hops (e : Nat × Nat × Nat) (i dst : Nat) : Nat :=
  (([0, 1, 2] : List Nat).map fun a => ringDist (axisExtent e a) (idAxis i a) (idAxis dst a)).sum

theorem nextDir_here : nextDir e here here [0, 1, 2] = none := by simp [nextDir]

/-- The next direction goes the shorter way along an axis in which the two IDs differ. -/
theorem nextDir_differs (hh : routableIn e here = true) (hd : routableIn e dst = true) (hne : here ≠ dst) :
    ∃ a d, nextDir e here dst [0, 1, 2] = some d ∧ a < 3 ∧ d / 2 = a ∧ idAxis dst a ≠ idAxis here a ∧
      d % 2 = shorterWay (axisExtent e a) (idAxis here a) (idAxis dst a) := by
  obtain ⟨hhere, hlt⟩ := routableIn_iff.1 hh
  obtain ⟨hdst, hlt'⟩ := routableIn_iff.1 hd
  have hmod (a : Nat) (ha : a < 3) : idAxis here a % axisExtent e a = idAxis here a := Nat.mod_eq_of_lt (hlt a ha)
  have hmod' (a : Nat) (ha : a < 3) : idAxis dst a % axisExtent e a = idAxis dst a := Nat.mod_eq_of_lt (hlt' a ha)
  unfold nextDir shorterWay
  cases hfind : ([0, 1, 2] : List Nat).find? (fun a => idAxis dst a % axisExtent e a != idAxis here a % axisExtent e a) with
  | none =>
    refine absurd (id_ext hhere hdst fun a ha => ?_) hne
    have hsame := not_not.1 (mt bne_iff_ne.2 (List.find?_eq_none.1 hfind a (by simp; omega)))
    rw [hmod a ha, hmod' a ha] at hsame
    exact hsame.symm
  | some a =>
    have hmem := List.mem_of_find?_eq_some hfind
    have ha : a < 3 := by simp at hmem; omega
    have hdiff := List.find?_some hfind
    rw [bne_iff_ne, hmod a ha, hmod' a ha] at hdiff
    refine ⟨a, _, rfl, ha, ?_, hdiff, ?_⟩
    · dsimp only
      split <;> omega
    · dsimp only
      rw [hmod a ha]
      split <;> omega

section
variable (he : ∀ j, axisExtent e j ≤ 64)
include he

theorem idAxis_neighbour (hi : routableIn e i = true) (hd : d < 6) (hj : j < 3) :
    idAxis (neighbour e i d) j = neighbourAxis e i d j := by
  rw [neighbour_eq hd]
  exact idAxis_mkId (fun j hj => (neighbourAxis_lt hi d hj).trans_le (he j)) hj

theorem neighbour_routable (hi : routableIn e i = true) (hd : d < 6) : routableIn e (neighbour e i d) = true := by
  have hlt (j : Nat) (hj : j < 3) := (neighbourAxis_lt hi d hj).trans_le (he j)
  refine routableIn_iff.2 ⟨?_, fun j hj => ?_⟩
  · have h0 := hlt 0 (by omega)
    have h1 := hlt 1 (by omega)
    have h2 := hlt 2 (by omega)
    rw [neighbour_eq hd]
    unfold mkId
    omega
  · rw [idAxis_neighbour he hi hd hj]
    exact neighbourAxis_lt hi d hj

/-- A hop in the next direction comes one hop nearer. -/
theorem hops_neighbour (hh : routableIn e here = true) (hr : routableIn e dst = true) (ha : a < 3) (hd : d / 2 = a)
    (hdiff : idAxis dst a ≠ idAxis here a)
    (hway : d % 2 = shorterWay (axisExtent e a) (idAxis here a) (idAxis dst a)) :
    hops e (neighbour e here d) dst + 1 = hops e here dst := by
  have hlt := (routableIn_iff.1 hh).2 a ha
  have hlt' := (routableIn_iff.1 hr).2 a ha
  have hstep := ringDist_axisStep hlt hlt' hdiff hway
  have haxis (j : Nat) (hj : j < 3) := idAxis_neighbour he hh (d := d) (by omega) hj
  simp only [hops, List.map_cons, List.map_nil, List.sum_cons, List.sum_nil, haxis 0 (by omega), haxis 1 (by omega),
    haxis 2 (by omega), neighbourAxis, hd]
  interval_cases a <;> simp <;> omega

end

end Sys2Proof.Machine
end

section
/-! The routing of a transaction (R295, R304–R307), and the commit of an entry of FAB_ALIAS. -/
namespace Sys2Proof.Machine
open Sys2Proof Sys2Proof.Safety

variable {s : State} {o : Outbound} {rest : List Outbound} {txn : Txn} {i : Nat} {lo hi : W32}

/-- Credits that go back change the ports alone. -/
theorem returnCredits_eq (s : State) (o : Outbound) :
    ∃ ports, returnCredits s o = { s with fab := { s.fab with ports := ports } } := by
  unfold returnCredits returnCredit
  split
  · dsimp only
    split
    · exact ⟨_, rfl⟩
    · exact ⟨_, rfl⟩
  · exact ⟨_, rfl⟩

/-- What lands waits for its own command; the trace aside, nothing else changes. -/
theorem landTxn_keeps (s : State) (txn : Txn) :
    (landTxn s txn).fab = { s.fab with landed := s.fab.landed ++ [txn] } ∧ (landTxn s txn).mem = s.mem ∧
      (landTxn s txn).stp = s.stp := by
  unfold landTxn
  dsimp only
  split <;> exact ⟨rfl, rfl, rfl⟩

/-- The transaction that a device routes, with the destination that a redirect entry gives it. -/
def routedTxn (s : State) (o : Outbound) : Txn :=
  if o.arr.isNone && acceptId s == some o.txn.dst.toNat then o.txn else redirected s o.arr o.txn

theorem routeTxn_lands (hout : s.fab.outbox = o :: rest) (ht : routedTxn s o = txn) (hme : isForMe s o.arr.isNone txn = true)
    (hacc : (txn.aliased && (acceptId s).isNone) = false) :
    routeTxn s = landTxn (returnCredits { s with fab := { s.fab with outbox := rest } } o) txn := by
  rw [routedTxn] at ht
  rw [routeTxn, hout]
  dsimp only
  rw [ht, hme, hacc]
  rfl

theorem routeTxn_forwards {d0 d p : Nat} {u : Txn} (hout : s.fab.outbox = o :: rest) (ht : routedTxn s o = txn)
    (hme : isForMe s o.arr.isNone txn = false) (hr : routable s txn.dst.toNat = true) (hdir : txnDir s o.arr txn = some d0)
    (hby : bypassed s txn d0 = (u, d)) (hp : portFor s o.rail d = some p) :
    routeTxn s = enqueueTxn { s with fab := { s.fab with outbox := rest } } p
      (hopVl (extents s) s.fab.homeId.toNat d { o with txn := u }) u o.arr := by
  rw [routedTxn] at ht
  rw [routeTxn, hout]
  dsimp only
  rw [ht, hme, hr, hdir]
  dsimp only
  rw [hby]
  dsimp only
  rw [hp]
  rfl

theorem redirected_noAlias (h : aliasList s = []) (arr : Option Arrived) (txn : Txn) : redirected s arr txn = txn := by
  rw [redirected, h]
  rfl

theorem bypassed_noAlias (h : aliasList s = []) (txn : Txn) (d : Nat) : bypassed s txn d = (txn, d) := by
  rw [bypassed, h]
  rfl

/-- R307: both halves of an entry at once, where it may be committed. -/
theorem commitAlias_staged (hlo : smGet none s.staged (aliasLoOff i) = some lo) : commitAlias s i hi =
    if aliasOk s i (aliasOf lo hi) then
      { s with staged := smDel s.staged (aliasLoOff i),
               fab := { s.fab with aliases := smSet Alias.init s.fab.aliases i (aliasOf lo hi) } }
    else raise { s with staged := smDel s.staged (aliasLoOff i) } 0x6001 srcDevice (toLe 3 (aliasId (aliasOf lo hi))) := by
  rw [commitAlias, hlo]
  rfl

/-- Settles O43: a hop in the next direction shortens the way along one axis; a transaction lands or joins its lane; an entry is
committed where it may be. -/
theorem routingNearsDestination : Obligations.RoutingNearsDestination := by
  refine ⟨fun e here dst dist hx hy hz hh hd hdist => ?nears, fun s o rest txn hout ht => ⟨?lands, ?forwards, ?own⟩,
    fun s m i lo hi ho hm hb hlo => ?commit⟩
  case nears =>
    obtain rfl : dist = fun j => hops e j dst := funext hdist
    refine ⟨fun h => h ▸ nextDir_here, fun hne => ?_⟩
    have he := axisExtent_le hx hy hz
    obtain ⟨a, d, hdir, ha, hda, hdiff, hway⟩ := nextDir_differs hh hd hne
    exact ⟨d, hdir, by omega, neighbour_routable he hh (by omega), hops_neighbour he hh hd ha hda hdiff hway⟩
  case lands =>
    intro hme hacc
    obtain ⟨ports, hback⟩ := returnCredits_eq { s with fab := { s.fab with outbox := rest } } o
    obtain ⟨hfab, hmem, hstp⟩ := landTxn_keeps (returnCredits { s with fab := { s.fab with outbox := rest } } o) txn
    rw [hback] at hfab hmem hstp
    refine ⟨_, congrArg Host.Outcome.next (routeTxn_lands hout ht hme hacc), ?_⟩
    rw [hback, hfab, hmem, hstp]
    exact ⟨rfl, rfl, rfl, rfl⟩
  case forwards =>
    exact fun d0 d p u hme hr hdir hby hp => congrArg Host.Outcome.next (routeTxn_forwards hout ht hme hr hdir hby hp)
  case own =>
    refine fun h => ⟨?_, bypassed_noAlias h txn⟩
    rw [← ht, redirected_noAlias h, ite_self]
  case commit =>
    have hexec : exec (.aliasCommit m i hi) s = .next (commitAlias s i.val hi) := congrArg Host.Outcome.next (writeGate_owner hm hb ho)
    rw [commitAlias_staged hlo] at hexec
    refine ⟨fun hok => ?_, fun hok => ?_⟩ <;> rw [hok] at hexec
    · exact hexec
    · exact ⟨_, hexec, raise_fab .., raise_frame ..⟩

end Sys2Proof.Machine
end

section
/-! The expiry of a port's hold (R293) where the ABORT that it sends has no route: the ABORT counts as lost at the same port. -/
namespace Sys2Proof.Machine
open Sys2Proof Sys2Proof.Safety

/-- An attempt in its passes, as it starts. -/
def startedAttempt : Attempt :=
  { job := { num := 0, queue := 0, index := 0, sub := false, bytes := [] }, step := 1, np := 1, tag := 1, snap := false, mans := [],
    paged := [], reduced := false, finalised := false, todo := [], normSeq := 0, grads := [], norm := none, upFrom := [], lossOr := false,
    upSent := false, jobLoss := none, verdict := none, point := 0, digests := [], repairing := false, cause := 0, held := 0,
    lostWhileSuspended := false, concealed := 0, overBudget := 0, manLog := [], sampLog := [], balDigest := [] }

/-- A +x port of rail 0 whose hold runs, with one transaction unacknowledged. -/
def heldPort : Port := { Port.init with state := .held, linked := true, flying := [(0, 2, 5)] }

/-- A device at coordinate 2 of an axis of extent 2, in the passes of an attempt: the other member of its job has no route. -/
def strandedState : State :=
  { State.reset with pln := { State.reset.pln with plan := some pairPlan },
                     fab := { State.reset.fab with homeId := 2, ports := [(0, heldPort)] },
                     stp := { State.reset.stp with state := .passes, att := some startedAttempt } }

theorem strandedState_canonical : canonical strandedState := by
  unfold canonical
  decide

/-- The link's one transaction, and the ABORT to the other member, 3. -/
theorem strandedState_lost : (getPort (holdExpiry strandedState 0) 0).lost = 2 := by
  decide

/-- Refutes O42: the statement lacks the premise that the ABORT of the attempt can be routed. A hold of the +x port of rail 0 expires
with one transaction lost; the ABORT that the attempt then sends has no route, and FAB_LOST of that port counts it as well (R294, log
108), where the statement has it count the link's alone. -/
theorem not_portFlitsInOrder : ¬ Obligations.PortFlitsInOrder := by
  intro h
  obtain ⟨-, -, -, -, hexpiry⟩ := h strandedState 0 heldPort rfl strandedState_canonical
  obtain ⟨t, hexec, -, -, hlosing⟩ := hexpiry (.inl rfl)
  obtain ⟨-, -, -, -, -, hlost⟩ := hlosing (by decide) startedAttempt rfl (by decide) (by decide)
  have ht : holdExpiry strandedState 0 = t := Host.Outcome.next.inj hexec
  rw [← ht] at hlost
  exact absurd (hlost.symm.trans strandedState_lost) (by decide)

end Sys2Proof.Machine
end

section
/-! Page-in (R338–R340): what the cache holds as its slots are touched, the slot that a missing row takes, and the pass that is paged
in. -/
namespace Sys2Proof.Machine
open Sys2Proof Sys2Proof.Safety

variable {s t u : State} {list rows : List Nat} {row i k : Nat}

/-! The cache. -/

theorem mem_of_smGet_ne {α : Type} [DecidableEq α] {d : α} {m : SMap α} {k : Nat} (hm : smWf d m = true) (h : smGet d m k ≠ d) :
    (k, smGet d m k) ∈ m := by
  by_contra hk
  refine h (smGet_absent d m k fun p hp he => hk ?_)
  subst he
  rwa [smGet_of_mem hm hp]

/-- An entry put at a key that is listed leaves the keys. -/
theorem smIns_keys {α : Type} {m : SMap α} {k : Nat} {v w : α} (hm : m.Pairwise fun p q => p.1 < q.1) (hk : (k, w) ∈ m) :
    (smIns m k v).map Prod.fst = m.map Prod.fst := by
  induction m with
  | nil => cases hk
  | cons e m ih =>
    obtain ⟨j, x⟩ := e
    obtain ⟨hfirst, hm⟩ := List.pairwise_cons.1 hm
    rcases List.mem_cons.1 hk with he | hk
    · obtain ⟨rfl, rfl⟩ := Prod.mk.inj he
      simp [smIns]
    · have hlt : j < k := hfirst _ hk
      simp [smIns, Nat.not_lt.2 hlt.le, hlt.ne', ih hm hk]

theorem getSlotB_setSlotB (hs : smWf BalSlot.init s.hold.cache = true) (i j : Nat) (x : BalSlot) :
    getSlotB (setSlotB s i x) j = if j = i then x else getSlotB s j := smGet_smSet i j x hs

theorem setSlotB_wf (hs : smWf BalSlot.init s.hold.cache = true) (i : Nat) (x : BalSlot) :
    smWf BalSlot.init (setSlotB s i x).hold.cache = true := smSet_wf i x hs

/-- The slot found for a row holds it. -/
theorem row_of_slotOfRow (hs : smWf BalSlot.init s.hold.cache = true) (h : slotOfRow s row = some i) :
    (i, getSlotB s i) ∈ s.hold.cache ∧ (getSlotB s i).row = some row := by
  obtain ⟨⟨j, x⟩, hfind, rfl⟩ := Option.map_eq_some_iff.1 h
  have hmem := List.mem_of_find?_eq_some hfind
  have hx : getSlotB s j = x := smGet_of_mem hs hmem
  rw [hx]
  exact ⟨hmem, by simpa using List.find?_some hfind⟩

/-- A row has a slot where some slot holds it. -/
theorem slotOfRow_ne_none (hs : smWf BalSlot.init s.hold.cache = true) :
    slotOfRow s row ≠ none ↔ ∃ i, (getSlotB s i).row = some row := by
  refine ⟨fun h => ?_, fun ⟨i, h⟩ hn => ?_⟩
  · obtain ⟨i, hi⟩ := Option.ne_none_iff_exists'.1 h
    exact ⟨i, (row_of_slotOfRow hs hi).2⟩
  · have hne : getSlotB s i ≠ BalSlot.init := fun he => by simp [he, BalSlot.init] at h
    have hnone := List.find?_eq_none.1 (Option.map_eq_none_iff.1 hn) _ (mem_of_smGet_ne hs hne)
    exact hnone (by simpa [getSlotB] using h)

/-- The search for a free number finds one, or every number that it tried is used. -/
theorem freeSlot_cases (used : List Nat) (n k : Nat) : freeSlot used n k ∉ used ∨ ∀ j ∈ List.range' k n, j ∈ used := by
  induction n generalizing k with
  | zero => exact .inr (by simp)
  | succ n ih =>
    unfold freeSlot
    by_cases hk : used.contains k
    · rw [if_pos hk]
      refine (ih (k + 1)).imp_right fun hall j hj => ?_
      rcases List.mem_cons.1 (List.range'_succ ▸ hj) with rfl | hj
      · simpa using hk
      · exact hall j hj
    · rw [if_neg hk]
      exact .inl (by simpa using hk)

/-- The first free slot number is not among the used ones: it is found among one number more than are used. -/
theorem freeSlot_unused (used : List Nat) : freeSlot used (used.length + 1) 0 ∉ used := by
  refine (freeSlot_cases used _ 0).resolve_right fun hall => ?_
  have hle := (List.subperm_of_subset List.nodup_range' hall).length_le
  simp at hle

/-! Rows that are resident are touched. -/

/-- `t` is `s` after a touch of slots that hold rows of a list: the cache alone changed, and of it the last uses of those slots. -/
structure Touched (list : List Nat) (s t : State) : Prop where
  frame : t = { s with hold := { s.hold with cache := t.hold.cache } }
  wf : smWf BalSlot.init t.hold.cache = true
  keys : t.hold.cache.map Prod.fst = s.hold.cache.map Prod.fst
  row : ∀ i, (getSlotB t i).row = (getSlotB s i).row
  others : ∀ i, (∀ r ∈ list, (getSlotB s i).row ≠ some r) → getSlotB t i = getSlotB s i

theorem Touched.refl (hs : smWf BalSlot.init s.hold.cache = true) : Touched list s s := ⟨rfl, hs, rfl, fun _ => rfl, fun _ _ => rfl⟩

theorem Touched.trans (h : Touched list s t) (k : Touched list t u) : Touched list s u where
  frame := by rw [k.frame, h.frame]
  wf := k.wf
  keys := k.keys.trans h.keys
  row i := (k.row i).trans (h.row i)
  others i hi := (k.others i fun r hr => h.row i ▸ hi r hr).trans (h.others i hi)

theorem Touched.mono (h : Touched list s t) {more : List Nat} (hl : ∀ r ∈ list, r ∈ more) : Touched more s t :=
  ⟨h.frame, h.wf, h.keys, h.row, fun i hi => h.others i fun r hr => hi r (hl r hr)⟩

theorem Touched.resident (h : Touched list s t) (hs : smWf BalSlot.init s.hold.cache = true) :
    slotOfRow t row ≠ none ↔ slotOfRow s row ≠ none := by
  rw [slotOfRow_ne_none hs, slotOfRow_ne_none h.wf]
  simp only [h.row]

/-- A resident row of a pass is touched. -/
theorem pageRow_resident (hs : smWf BalSlot.init s.hold.cache = true) (h : slotOfRow s row ≠ none) :
    ∃ t, pageRow s list row = (t, true) ∧ Touched [row] s t := by
  obtain ⟨i, hi⟩ := Option.ne_none_iff_exists'.1 h
  obtain ⟨hmem, hrow⟩ := row_of_slotOfRow hs hi
  refine ⟨setSlotB s i { getSlotB s i with lastUse := s.hold.useOrd }, by rw [pageRow, hi], rfl, smSet_wf _ _ hs, ?_, fun j => ?_,
    fun j hj => ?_⟩
  · have hne : { getSlotB s i with lastUse := s.hold.useOrd } ≠ BalSlot.init := fun he => by
      have := congrArg BalSlot.row he
      simp [hrow, BalSlot.init] at this
    show (smSet _ _ _ _).map _ = _
    rw [smSet, if_neg hne]
    exact smIns_keys ((smWf_iff ..).1 hs).1 hmem
  · rw [getSlotB_setSlotB hs]
    split
    · next he => rw [he]
    · rfl
  · rw [getSlotB_setSlotB hs, if_neg]
    rintro rfl
    exact hj row (List.mem_singleton_self row) hrow

theorem pageRows_resident (hs : smWf BalSlot.init s.hold.cache = true) (h : ∀ r ∈ rows, slotOfRow s r ≠ none) :
    ∃ t, pageRows list rows s = (t, true) ∧ Touched rows s t := by
  induction rows generalizing s with
  | nil => exact ⟨s, rfl, .refl hs⟩
  | cons r rows ih =>
    obtain ⟨u, hpage, hu⟩ := pageRow_resident (list := list) hs (h r List.mem_cons_self)
    obtain ⟨t, hrest, ht⟩ := ih hu.wf fun y hy => (hu.resident hs).2 (h y (List.mem_cons_of_mem r hy))
    refine ⟨t, by simp [pageRows, hpage, hrest], .trans (hu.mono (by simp)) (ht.mono fun y hy => List.mem_cons_of_mem r hy)⟩

theorem pageRows_append (l1 l2 : List Nat) (h : pageRows list l1 s = (u, true)) : pageRows list (l1 ++ l2) s = pageRows list l2 u := by
  induction l1 generalizing s with
  | nil => obtain ⟨rfl, -⟩ := Prod.mk.inj h; rfl
  | cons r l1 ih =>
    rw [List.cons_append, pageRows]
    rw [pageRows] at h
    generalize pageRow s list r = q at h ⊢
    obtain ⟨s1, _ | _⟩ := q
    · simp at h
    · exact ih h

/-! A row that is missing (R340). -/

/-- A missing row takes the first free slot. -/
theorem pageRow_missing (h : slotOfRow s row = none) (hk : freeSlot (s.hold.cache.map Prod.fst) (s.hold.cache.length + 1) 0 = k)
    (hroom : k < balSlots s) : pageRow s list row = (fillSlot s k row, true) := by
  simp [pageRow, h, hk, hroom]

/-- The slot of a row that was just read in from its newest durable version. -/
def filledSlot (s : State) (v : BallastRow) : BalSlot := { row := some v.row, ver0 := v.ver, ver1 := emptyVer, lastUse := s.hold.useOrd }

/-- The newer of what is the newest so far and another version; of two of one VER the first. -/
def newerOf (best : Option BallastRow) (v : BallastRow) : Option BallastRow :=
  match best with
  | none => some v
  | some b => if b.ver.toNat < v.ver.toNat then some v else some b

theorem newestOf_eq (l : List BallastRow) (row : Nat) : newestOf l row = (l.filter fun v => v.row == row).foldl newerOf none := rfl

theorem newerOf_max (b : Option BallastRow) (v : BallastRow) :
    ∃ w, newerOf b v = some w ∧ (b = some w ∨ w = v) ∧ v.ver.toNat ≤ w.ver.toNat ∧ ∀ x, b = some x → x.ver.toNat ≤ w.ver.toNat := by
  cases b with
  | none => exact ⟨v, rfl, .inr rfl, le_rfl, fun _ h => nomatch h⟩
  | some b =>
    by_cases hlt : b.ver.toNat < v.ver.toNat
    · exact ⟨v, if_pos hlt, .inr rfl, le_rfl, fun x hx => Option.some.inj hx ▸ hlt.le⟩
    · exact ⟨b, if_neg hlt, .inl rfl, Nat.not_lt.1 hlt, fun x hx => Option.some.inj hx ▸ le_rfl⟩

theorem foldl_newerOf_max (l : List BallastRow) (b : Option BallastRow) (hb : b ≠ none ∨ l ≠ []) :
    ∃ w, l.foldl newerOf b = some w ∧ (b = some w ∨ w ∈ l) ∧ ∀ x, b = some x ∨ x ∈ l → x.ver.toNat ≤ w.ver.toNat := by
  induction l generalizing b with
  | nil =>
    obtain ⟨w, rfl⟩ := Option.ne_none_iff_exists'.1 (hb.resolve_right fun h => h rfl)
    exact ⟨w, rfl, .inl rfl, fun x hx => by simp_all⟩
  | cons v l ih =>
    obtain ⟨y, hy, hfrom, hv, hmax⟩ := newerOf_max b v
    obtain ⟨w, hw, hin, hall⟩ := ih (newerOf b v) (.inl (by simp [hy]))
    refine ⟨w, hw, ?_, fun x hx => ?_⟩
    · rw [hy] at hin
      simp only [List.mem_cons]
      rcases hin with h | h
      · exact Option.some.inj h ▸ hfrom.imp_right .inl
      · exact .inr (.inr h)
    · have hyw := hall y (.inl hy)
      rcases hx with h | h
      · exact (hmax x h).trans hyw
      · rcases List.mem_cons.1 h with rfl | h
        · exact hv.trans hyw
        · exact hall x (.inr h)

/-- The newest version of a row is one of its versions, and none is newer. -/
theorem newestOf_max {l : List BallastRow} {v : BallastRow} (hl : v ∈ l) (hr : v.row = row) :
    ∃ w, newestOf l row = some w ∧ (w ∈ l ∧ w.row = row) ∧ ∀ x ∈ l, x.row = row → x.ver.toNat ≤ w.ver.toNat := by
  obtain ⟨w, hw, hin, hall⟩ := foldl_newerOf_max (l.filter fun v => v.row == row) none
    (.inr (List.ne_nil_of_mem (a := v) (by simp [hl, hr])))
  refine ⟨w, hw, by simpa using hin.resolve_left (by simp), fun x hx hxr => hall x (.inr (by simp [hx, hxr]))⟩

theorem newestOf_mem {l : List BallastRow} {v : BallastRow} (h : newestOf l row = some v) : v ∈ l ∧ v.row = row := by
  have hne : (l.filter fun v => v.row == row) ≠ [] := fun he => by simp [newestOf_eq, he] at h
  obtain ⟨x, hx⟩ := List.exists_mem_of_ne_nil _ hne
  obtain ⟨w, hw, hin, -⟩ := newestOf_max (l := l) (row := row) (List.mem_of_mem_filter hx) (by simpa using List.of_mem_filter hx)
  exact Option.some.inj (hw.symm.trans h) ▸ hin

/-- A version of a row that is newer than every other is the newest. -/
theorem newestOf_of_newer {l : List BallastRow} {v : BallastRow} (hl : v ∈ l)
    (h : ∀ w ∈ l, w.row = v.row → w = v ∨ w.ver.toNat < v.ver.toNat) : newestOf l v.row = some v := by
  obtain ⟨w, hw, ⟨hin, hrow⟩, hmax⟩ := newestOf_max hl rfl
  rw [hw, (h w hin hrow).resolve_right (Nat.not_lt.2 (hmax v hl rfl))]

theorem fillSlot_durable {v : BallastRow} (h : newestOf s.hold.bal row = some v) (k : Nat) :
    fillSlot s k row = setSlotB (wrMem s (halfAddr s k 0) (sub v.bytes 0 (balRow s))) k (filledSlot s v) := by
  rw [fillSlot, h, filledSlot, (newestOf_mem h).2]
  rfl

/-- A pass with one missing row: it takes the first free slot, and the rows before and after it are touched. -/
theorem pageRows_missing {l1 l2 : List Nat} {v : BallastRow} (hs : smWf BalSlot.init s.hold.cache = true) (hmiss : slotOfRow s row = none)
    (hres : ∀ y ∈ l1 ++ l2, slotOfRow s y ≠ none) (hk : freeSlot (s.hold.cache.map Prod.fst) (s.hold.cache.length + 1) 0 = k)
    (hroom : k < balSlots s) (hv : newestOf s.hold.bal row = some v) :
    ∃ t, pageRows list (l1 ++ row :: l2) s = (t, true) ∧ getSlotB t k = filledSlot s v ∧
      t = { wrMem s (halfAddr s k 0) (sub v.bytes 0 (balRow s)) with hold := { s.hold with cache := t.hold.cache } } := by
  obtain ⟨s1, hr1, h1⟩ := pageRows_resident (list := list) (rows := l1) hs fun y hy => hres y (List.mem_append_left l2 hy)
  have hframe1 := h1.frame
  have hunused : getSlotB s1 k = BalSlot.init := by
    refine smGet_absent _ _ _ fun q hq he => ?_
    have hin := List.mem_map_of_mem (f := Prod.fst) hq
    have hfree := freeSlot_unused (s.hold.cache.map Prod.fst)
    rw [List.length_map, hk] at hfree
    rw [he, h1.keys] at hin
    exact hfree hin
  have hfill : pageRow s1 list row = (fillSlot s1 k row, true) := by
    refine pageRow_missing (not_ne_iff.1 fun hne => (h1.resident hs).1 hne hmiss) ?_ (hframe1 ▸ hroom)
    have hlen : s1.hold.cache.length = s.hold.cache.length := by simpa only [List.length_map] using congrArg List.length h1.keys
    rw [h1.keys, hlen, hk]
  have hslot : fillSlot s1 k row = setSlotB (wrMem s1 (halfAddr s k 0) (sub v.bytes 0 (balRow s))) k (filledSlot s v) := by
    rw [fillSlot_durable (by rw [hframe1]; exact hv), hframe1]
    rfl
  generalize fillSlot s1 k row = s2 at hfill hslot
  have hcache2 : smWf BalSlot.init s2.hold.cache = true := by
    rw [hslot]
    exact setSlotB_wf h1.wf k (filledSlot s v)
  have hget (i : Nat) : getSlotB s2 i = if i = k then filledSlot s v else getSlotB s1 i := by
    rw [hslot]
    exact getSlotB_setSlotB (s := wrMem s1 _ _) h1.wf k i _
  obtain ⟨t, hr2, h2⟩ := pageRows_resident (s := s2) (list := list) (rows := l2) hcache2 fun y hy => by
    obtain ⟨i, hi⟩ := (slotOfRow_ne_none h1.wf).1 ((h1.resident hs).2 (hres y (List.mem_append_right l1 hy)))
    refine (slotOfRow_ne_none hcache2).2 ⟨i, ?_⟩
    rw [hget, if_neg, hi]
    rintro rfl
    simp [hunused, BalSlot.init] at hi
  refine ⟨t, ?_, ?_, ?_⟩
  · rw [pageRows_append l1 _ hr1, pageRows, hfill]
    exact hr2
  · rw [h2.others k, hget, if_pos rfl]
    intro y hy hrow
    rw [hget, if_pos rfl] at hrow
    obtain rfl : row = y := (newestOf_mem hv).2.symm.trans (Option.some.inj hrow)
    exact hres row (List.mem_append_right l1 hy) hmiss
  · rw [h2.frame, hslot, hframe1]
    rfl

/-! The pass. -/

/-- The state once the rows of a pass are resident, with no batch open: the slot table is written, and the pass counts as paged. -/
def passPaged (s : State) (a : Attempt) (p : Nat) (list : List Nat) : State :=
  { s with hold := { s.hold with batch := 0, slotTable := slotTableOf s list },
           stp := { s.stp with att := some { a with paged := a.paged ++ [p] } } }

@[simp] theorem getSlotB_passPaged (s : State) (a : Attempt) (p : Nat) (list : List Nat) (k : Nat) :
    getSlotB (passPaged s a p list) k = getSlotB s k := rfl

theorem slotTableOf_passPaged (s : State) (a : Attempt) (p : Nat) (list rows : List Nat) :
    slotTableOf (passPaged s a p list) rows = slotTableOf s rows := rfl

/-- The Ballast's order of use goes on by one for a pass. -/
def nextUse (s : State) : State := { s with hold := { s.hold with useOrd := s.hold.useOrd + 1 } }

theorem pageIn_pages {a : Attempt} {p : Nat} (ha : s.stp.att = some a) (hst : s.stp.state = .passes) (hb : hasBallast s = true)
    (hn : nextPaged a = some p) (he : p ≠ 0 → passEnded s (p - 1) = true) (hh : anyStackHolds s = false)
    (hr : pageRows (balRowsOf s p) (balRowsOf s p) (nextUse s) = (t, true)) :
    pageIn s = passPaged t a p (balRowsOf s p) := by
  have hgo : ¬(p ≠ 0 ∧ (!passEnded s (p - 1)) = true) := fun ⟨h0, h1⟩ => by simp [he h0] at h1
  unfold pageIn
  simp only [ha, hn, suspended, hst, hb, hh, if_neg hgo]
  rw [nextUse] at hr
  simp only [hr]
  rfl

theorem pageIn_waits (h : anyStackHolds s = true) : pageIn s = s := by
  unfold pageIn
  split
  · rfl
  · simp [h]

/-- Settles O30: rows that are resident are touched and the others stay; the one that is not takes the first free slot, and the rows
after it stay resident. -/
theorem ballastPassPagedIn : Obligations.BallastPassPagedIn := by
  intro s a p ha hst hb hn he hs
  have hcache : smWf BalSlot.init (nextUse s).hold.cache = true := canonical_cache hs
  refine ⟨fun hh => congrArg Host.Outcome.next (pageIn_waits hh), fun hh => ⟨fun hres => ?resident, ?missing⟩⟩
  case resident =>
    obtain ⟨t, hr, ht⟩ := pageRows_resident (s := nextUse s) (list := balRowsOf s p) hcache hres
    refine ⟨_, congrArg Host.Outcome.next (pageIn_pages ha hst hb hn he hh hr), ?_⟩
    rw [ht.frame]
    exact ⟨rfl, rfl, rfl, rfl⟩
  case missing =>
    intro l1 l2 r k v hl hmiss hres hk hroom hv
    obtain ⟨t, hr, hslot, hframe⟩ := pageRows_missing (s := nextUse s) (list := balRowsOf s p) hcache hmiss hres hk hroom hv
    rw [← hl] at hr
    have hmem : (passPaged t a p (balRowsOf s p)).mem = (wrMem s (halfAddr s k 0) (sub v.bytes 0 (balRow s))).mem := by
      rw [hframe]
      rfl
    refine ⟨_, congrArg Host.Outcome.next (pageIn_pages ha hst hb hn he hh hr), by rw [hframe]; rfl, ?_, ?_, ?_,
      by rw [hframe]; rfl, (slotTableOf_passPaged ..).symm⟩
    · rw [getSlotB_passPaged, hslot, filledSlot, (newestOf_mem hv).2]
      rfl
    · rw [rdMem_congr hmem]
      exact rdMem_wrMem s _ _ hs.1
    · have hw := sameOutside.wrMem s (halfAddr s k 0) (sub v.bytes 0 (balRow s)) hs.1
      rw [sub_length] at hw
      exact hw.congr rfl hmem

end Sys2Proof.Machine
end

section
/-! The operations of the Hold (R315–R348): what a slot reads after a write, what a message and a record of the log leave of the
Hold, and which versions stay where one is programmed. -/
namespace Sys2Proof.Machine
open Sys2Proof Sys2Proof.Safety

variable {s t u : State}

/-! Slots. -/

theorem getSlot_setSlot (hs : canonical s) (i j : Nat) (x : Slot) : getSlot (setSlot s i x) j = if j = i then x else getSlot s j :=
  smGet_smSet i j x (canonical_slots hs)

theorem getSlot_setSlot_self (hs : canonical s) (i : Nat) (x : Slot) : getSlot (setSlot s i x) i = x :=
  (getSlot_setSlot hs i i x).trans (if_pos rfl)

theorem setSlot_outward (s : State) (i : Nat) (x : Slot) : Outward s (setSlot s i x) := ⟨rfl, id⟩

theorem setSlot_keepsStep (s : State) (i : Nat) (x : Slot) : KeepsStep s (setSlot s i x) := ⟨rfl, rfl, rfl, rfl⟩

theorem getSlot_bondProgram (s : State) (n i : Nat) : getSlot (bondProgram s n) i = getSlot s i := rfl

/-! A message leaves the Hold. -/

@[simp] theorem sendTxn_hold (s : State) (rail : Nat) (x : Txn) (why : SentFor) : (sendTxn s rail x why).1.hold = s.hold := by
  unfold sendTxn
  split
  · rfl
  · split
    · simp [raiseLost, countLost]
    · rfl

@[simp] theorem sendCctl_hold (s : State) (kind cause : Nat) (step : W64) (tag : W32) (data dst : Nat) :
    (sendCctl s kind cause step tag data dst).1.hold = s.hold := sendTxn_hold ..

@[simp] theorem sendCctlAll_hold (s : State) (kind cause : Nat) (step : W64) (tag : W32) (data : Nat) (dsts : List Nat) :
    (sendCctlAll s kind cause step tag data dsts).1.hold = s.hold :=
  foldl_fst_keeps (f := State.hold) (by exact fun _ _ => sendCctl_hold ..) dsts (s, true)

@[simp] theorem sendPuts_hold (s : State) (dst : Nat) (why : SentFor) (cls : Nat) (parts : List (Nat × Bytes)) :
    (sendPuts s dst why cls parts).hold = s.hold :=
  foldl_fst_keeps (f := State.hold) (by exact fun _ _ => sendTxn_hold ..) parts (s, true)

@[simp] theorem sendLogCopy_hold (s : State) (r : LogRec) : (sendLogCopy s r).hold = s.hold := by
  unfold sendLogCopy
  split
  · rfl
  · exact sendPuts_hold ..

/-! A record of the log. -/

/-- The Hold without what a record of the log changes: the log, the replay's reach, the coverage of the slots and the wear. -/
def offLog (h : Hold) : Hold :=
  { h with slots := [], log := [], nextSeq := 0, prevDigest := [], logPos := 0, replay := none, bondProg := 0 }

theorem loseCover_offLog (s : State) (seq : W64) (i : Nat) : offLog (loseCover s seq i).hold = offLog s.hold := by
  unfold loseCover
  dsimp only
  split
  · rw [raise_hold]
    rfl
  · rfl

theorem loseReplay_offLog (s : State) (seq : W64) : offLog (loseReplay s seq).hold = offLog s.hold := by
  unfold loseReplay
  split
  · split <;> rfl
  · rfl

theorem logEvict_offLog (n : Nat) (s : State) (need : Nat) : offLog (logEvict n s need).hold = offLog s.hold := by
  induction n generalizing s with
  | zero => rfl
  | succ n ih =>
    unfold logEvict
    split
    · rfl
    · split
      · rfl
      · rw [ih, loseCover_offLog, loseCover_offLog, loseReplay_offLog]
        rfl

theorem bondProgram_offLog (s : State) (n : Nat) : offLog (bondProgram s n).hold = offLog s.hold := rfl

theorem logAppend_offLog (s : State) (type : Nat) (step : W64) (body : Bytes) :
    offLog (logAppend s type step body).hold = offLog s.hold := by
  unfold logAppend
  extract_lets seq prev r s1
  have hevict : offLog s1.hold = offLog s.hold := (bondProgram_offLog ..).trans (logEvict_offLog ..)
  clear_value s1
  rw [sendLogCopy_hold]
  exact hevict

/-- Whatever coverage slots lose, each stays as sealed as it was. -/
theorem loseCover_st (hs : canonical s) (seq : W64) (i j : Nat) : (getSlot (loseCover s seq i) j).st = (getSlot s j).st := by
  unfold loseCover
  dsimp only
  split
  · rw [getSlot, raise_hold]
    refine (congrArg Slot.st (getSlot_setSlot hs i j _)).trans ?_
    split
    · next he => rw [he]
    · rfl
  · rfl

theorem loseReplay_getSlot (s : State) (seq : W64) (j : Nat) : getSlot (loseReplay s seq) j = getSlot s j := by
  unfold loseReplay
  split
  · split <;> rfl
  · rfl

theorem logEvict_st (hs : canonical s) (n need j : Nat) : (getSlot (logEvict n s need) j).st = (getSlot s j).st := by
  induction n generalizing s with
  | zero => rfl
  | succ n ih =>
    unfold logEvict
    split
    · rfl
    · next r rest _ =>
      split
      · rfl
      · have h0 : canonical { s with hold := { s.hold with log := rest } } := canonical_frame rfl rfl rfl hs
        have h1 := loseReplay_canonical r.seq h0
        have h2 := loseCover_canonical r.seq 0 h1
        rw [ih (loseCover_canonical _ _ h2), loseCover_st h2, loseCover_st h1, loseReplay_getSlot]
        rfl

theorem logAppend_st (hs : canonical s) (type : Nat) (step : W64) (body : Bytes) (j : Nat) :
    (getSlot (logAppend s type step body) j).st = (getSlot s j).st := by
  unfold logAppend
  extract_lets seq prev r s1
  have hevict : (getSlot s1 j).st = (getSlot s j).st := (congrArg Slot.st (getSlot_bondProgram ..)).trans (logEvict_st hs ..)
  clear_value s1
  rw [getSlot, sendLogCopy_hold]
  exact hevict

/-! Versions of the Ballast. -/

/-- A version programmed stays where no version of its row is newer. -/
theorem mem_addVersion {v : BallastRow} (h : ∀ w ∈ s.hold.bal, w.row = v.row → w.ver.toNat ≤ v.ver.toNat) :
    v ∈ (addVersion s v).hold.bal := by
  have hl : v ∈ (s.hold.bal.filter fun w => !(w.row == v.row && w.ver == v.ver)) ++ [v] := by simp
  have hnew := newestOf_of_newer hl fun w hw hr => by
    rcases List.mem_append.1 hw with hw | hw
    · obtain ⟨hin, hne⟩ := List.mem_filter.1 hw
      have hver : w.ver ≠ v.ver := by simpa [hr] using hne
      exact .inr (lt_of_le_of_ne (h w hin hr) fun he => hver (BitVec.eq_of_toNat_eq he))
    · exact .inl (List.mem_singleton.1 hw)
  exact List.mem_filter.2 ⟨hl, by simp only [hnew, beq_self_eq_true, Bool.true_or]⟩

/-- What is kept was there before or is what was programmed. -/
theorem addVersion_sub {v w : BallastRow} (h : w ∈ (addVersion s v).hold.bal) : w ∈ s.hold.bal ∨ w = v := by
  rcases List.mem_append.1 (List.mem_of_mem_filter h) with h | h
  · exact .inl (List.mem_of_mem_filter h)
  · exact .inr (List.mem_singleton.1 h)

end Sys2Proof.Machine
end

section
/-! A snapshot (R319): its pieces, its seal and its release, and the records that the sister has not acknowledged (R326). -/
namespace Sys2Proof.Machine
open Sys2Proof Sys2Proof.Safety

variable {s t u : State} {d : Drain}

/-! The drain. -/

theorem setDrain_outward (s : State) (d : Drain) : Outward s (setDrain s d) := ⟨rfl, id⟩

/-- A piece in its slot. -/
def pieceCopied (s : State) (d : Drain) (b : Bytes) (n : Nat) : State :=
  setSlot (bondProgram s n) d.slot { getSlot s d.slot with body := wr (getSlot s d.slot).body d.next b }

theorem drainPiece_eq {p : Plan} {n : Nat} (hd : s.hold.drain = some d) (hr : s.stp.state ≠ .suspended) (hp : curPlan s = some p)
    (h2 : d.point = 2) (hh : anyStackHolds s = false) (hn : n = min 65536 (p.shape.stateBytes + p.shape.resBytes - d.next)) :
    ∃ dst parts, drainPiece s = setDrain
      (sendPuts (pieceCopied s d (drainRead p.shape s d d.next n) n) dst (.sisterPiece d.slot) 2 parts)
      { d with next := d.next + n, point := if p.shape.stateBytes + p.shape.resBytes ≤ d.next + n then 3 else 2 } := by
  have hgo : (suspended s || anyStackHolds s || d.point != 2) = false := by simp [suspended, hr, hh, h2]
  have hpiece : Nat.min pieceBytes (p.shape.stateBytes + p.shape.resBytes - d.next) = n := hn.symm
  unfold drainPiece
  simp only [hd, hp, hgo, hpiece, Bool.false_eq_true, if_false]
  exact ⟨_, _, rfl⟩

theorem drainPiece_copies {p : Plan} {n : Nat} (hd : s.hold.drain = some d) (hr : s.stp.state ≠ .suspended) (hs : canonical s)
    (hp : curPlan s = some p) (h2 : d.point = 2) (hh : anyStackHolds s = false)
    (hn : n = min 65536 (p.shape.stateBytes + p.shape.resBytes - d.next)) :
    Outward s (drainPiece s) ∧
      (getSlot (drainPiece s) d.slot).body = wr (getSlot s d.slot).body d.next (drainRead p.shape s d d.next n) ∧
      (drainPiece s).hold.drain =
        some { d with next := d.next + n, point := if p.shape.stateBytes + p.shape.resBytes ≤ d.next + n then 3 else 2 } := by
  obtain ⟨dst, parts, he⟩ := drainPiece_eq hd hr hp h2 hh hn
  have hsent : Outward s (sendPuts (pieceCopied s d (drainRead p.shape s d d.next n) n) dst (.sisterPiece d.slot) 2 parts) :=
    ((bondProgram_outward s n).trans (setSlot_outward ..)).trans (sendPuts_outward ..)
  rw [he]
  refine ⟨hsent.trans (setDrain_outward ..), ?_, rfl⟩
  show (smGet Slot.init (sendPuts ..).hold.slots d.slot).body = _
  rw [sendPuts_hold]
  exact congrArg Slot.body (getSlot_setSlot_self (bondProgram_canonical n hs) d.slot _)

/-- The sister's header leaves every slot as it is but for the mark that its copy is complete. -/
theorem trySisterHeader_getSlot (hs : canonical s) (i : Nat) :
    ∃ b, getSlot (trySisterHeader s) i = { getSlot s i with sisterOk := b } := by
  have hsame : ∃ b, getSlot s i = { getSlot s i with sisterOk := b } := ⟨_, rfl⟩
  unfold trySisterHeader
  split
  · exact hsame
  · next d hd =>
    dsimp only
    split
    · exact hsame
    · generalize hw : sendPuts { s with hold := { s.hold with drain := some { d with point := 5 } } } _ _ _ _ = w
      have hslots : ∀ j, getSlot w j = getSlot s j := fun j => by
        rw [← hw, getSlot, sendPuts_hold]
        rfl
      have hcanon : canonical w := hw ▸ sendPuts_canonical _ _ _ _ (canonical_frame rfl rfl rfl hs)
      split
      · unfold sisterSealed
        split
        · next d' hd' =>
          split
          · have h1 : canonical { w with hold := { w.hold with drain := some { d' with sister := .sealed } } } :=
              canonical_frame rfl rfl rfl hcanon
            rw [getSlot_setSlot h1]
            split
            · next he =>
              subst he
              exact ⟨true, congrArg (fun x : Slot => { x with sisterOk := true }) (hslots d'.slot)⟩
            · exact (hslots i).symm ▸ hsame
          · exact (hslots i).symm ▸ hsame
        · exact (hslots i).symm ▸ hsame
      · exact (hslots i).symm ▸ hsame

/-- The header that a drain's slot is sealed with, with the digest of what it holds. -/
def sealedHeader (s : State) (d : Drain) : Bytes :=
  withHchk (sub d.header 0 160 ++ imageDigest (sub d.header 0 160) (getSlot s d.slot).body ++ zeroBytes 48)

/-- A drain's slot, sealed. -/
def slotSealed (s : State) (d : Drain) : State :=
  setSlot (bondProgram s 256) d.slot { getSlot s d.slot with
    st := .sealed, cover := logCovers s d.header, sisterOk := false, header := sealedHeader s d }

/-- A drain of which every version relied on is durable is sealed (point 4). -/
theorem localSeal_seals (hd : s.hold.drain = some d) (hr : s.stp.state ≠ .suspended) (hs : canonical s) (h3 : d.point = 3)
    (hdirty : snapDirty s (hdrStep d.header) = []) :
    Outward s (localSeal s) ∧ ∃ b, getSlot (localSeal s) d.slot =
      { getSlot s d.slot with
        st := .sealed, cover := logCovers s d.header, sisterOk := b,
        header := sealedHeader s d } := by
  have hgo : (suspended s || d.point != 3 || !(snapDirty s (hdrStep d.header)).isEmpty) = false := by simp [suspended, hr, h3, hdirty]
  have he : localSeal s = trySisterHeader (setDrain (slotSealed s d) { d with point := 4, header := sealedHeader s d }) := by
    simp only [localSeal, hd, hgo]
    rfl
  have h1 : canonical (slotSealed s d) := setSlot_canonical _ _ (bondProgram_canonical _ hs)
  obtain ⟨b, hb⟩ := trySisterHeader_getSlot (setDrain_canonical { d with point := 4, header := sealedHeader s d } h1) d.slot
  have hslot := getSlot_setSlot_self (bondProgram_canonical 256 hs) d.slot { getSlot s d.slot with
    st := .sealed, cover := logCovers s d.header, sisterOk := false, header := sealedHeader s d }
  rw [he]
  have hsealed : Outward s (setDrain (slotSealed s d) { d with point := 4, header := sealedHeader s d }) :=
    ((bondProgram_outward s 256).trans (setSlot_outward ..)).trans (setDrain_outward ..)
  exact ⟨hsealed.trans (trySisterHeader_outward _), b, hb.trans (congrArg (fun x : Slot => { x with sisterOk := b }) hslot)⟩

/-- The record and the event of a release. -/
def releaseTold (s : State) (d : Drain) : State :=
  raise (logAppend s 0x0002 s.stp.c d.header) 0x7002 srcDevice (sub d.header 8 8 ++ toLe 1 (b2n (d.sister == .sealed)))

theorem releaseSnap_releases (hd : s.hold.drain = some d) (hr : s.stp.state ≠ .suspended) (h4 : 4 ≤ d.point)
    (hsis : d.sister ≠ .pending) : releaseSnap s = nextDrain (releaseTold s d) := by
  have hgo : (suspended s || decide (d.point < 4) || d.sister == .pending) = false := by simp [suspended, hr, Nat.not_lt.2 h4, hsis]
  simp [releaseSnap, hd, hgo, releaseTold]

theorem releaseTold_outward (s : State) (d : Drain) : Outward s (releaseTold s d) := (logAppend_outward ..).trans (raise_outward ..)

theorem releaseTold_snapQueue (s : State) (d : Drain) : (releaseTold s d).hold.snapQueue = s.hold.snapQueue := by
  rw [releaseTold, raise_hold]
  have hkept := congrArg Hold.snapQueue (logAppend_offLog s 0x0002 s.stp.c d.header)
  exact hkept

theorem releaseTold_st (hs : canonical s) (i : Nat) : (getSlot (releaseTold s d) i).st = (getSlot s i).st := by
  rw [releaseTold, getSlot, raise_hold]
  exact logAppend_st hs 0x0002 s.stp.c d.header i

theorem nextDrain_last (h : s.hold.snapQueue = []) : nextDrain s = { s with hold := { s.hold with drain := none } } := by
  rw [nextDrain, h]

/-! Records that are sent again. -/

/-- `t` is `s` with transactions put at the end of the outbox. -/
def Sending (s t : State) (os : List Outbound) : Prop :=
  ∃ n l, t = { s with fab := { s.fab with outbox := s.fab.outbox ++ os, nextTag := n, outstanding := l } }

theorem Sending.trans {os ps : List Outbound} (h : Sending s t os) (k : Sending t u ps) : Sending s u (os ++ ps) := by
  obtain ⟨n, l, rfl⟩ := h
  obtain ⟨m, k, rfl⟩ := k
  exact ⟨m, k, by simp only [List.append_assoc]⟩

/-- What a state that is sending leaves. -/
theorem Sending.keeps {os : List Outbound} (h : Sending s t os) {α : Type} (f : State → α)
    (hf : ∀ (s : State) n l o, f { s with fab := { s.fab with outbox := o, nextTag := n, outstanding := l } } = f s) : f t = f s := by
  obtain ⟨n, l, rfl⟩ := h
  exact hf ..

theorem Sending.nothing (s : State) (n : BitVec 16) (l : List (BitVec 16 × Txn × SentFor)) :
    Sending s { s with fab := { s.fab with nextTag := n, outstanding := l } } [] := ⟨n, l, by simp only [List.append_nil]⟩

theorem Sending.refl (s : State) : Sending s s [] := .nothing s s.fab.nextTag s.fab.outstanding

theorem voidRecord_sending (s : State) (why : SentFor) : Sending s (voidRecord s why) [] := by
  unfold voidRecord
  split
  · exact .nothing ..
  · exact .refl s

theorem voidCopies_sending (s : State) (seqs : List W64) : Sending s (voidCopies s seqs) [] :=
  List.foldlRecOn (motive := fun t => Sending s t []) seqs _ (.refl s) fun _ h _ _ => h.trans (voidRecord_sending _ _)

/-- What the copy of a record is: a PUT of its bytes to the sister. -/
def copyOf (s : State) (r : LogRec) : TxnType × BitVec 18 × Bytes × Bytes :=
  (.put, BitVec.ofNat 18 (sisterId s), r.bytes, txnFields [(16, toLe 6 (sisLogAddr s + r.pos % logBytes s))])

/-- A record of one transaction that does not go over the end of the log area is one part. -/
theorem ringParts_one {ring n pos : Nat} {b : Bytes} (hb : 0 < b.length) (hmax : b.length ≤ 4096)
    (hfit : pos % ring + b.length ≤ ring) : ringParts ring (n + 1) pos b = [(pos % ring, b)] := by
  have hring : ring ≠ 0 := by
    rintro rfl
    omega
  have hk : b.length ≤ min 4096 (ring - pos % ring) := by omega
  have hne : b.isEmpty = false := by
    cases b
    · cases hb
    · rfl
  have hrest (m q : Nat) : ringParts ring m q [] = [] := by cases m <;> rfl
  rw [ringParts]
  simp only [hne, if_neg hring, List.take_of_length_le hk, List.drop_of_length_le hk, hrest]
  rfl

theorem sendLogCopy_sends {r : LogRec} (hcfg : (holdCfg s).isSome = true) (hro : routable s (BitVec.ofNat 18 (sisterId s)).toNat = true)
    (ht : traceReplay s = false) (hb : 0 < r.bytes.length) (hmax : r.bytes.length ≤ 4096)
    (hfit : r.pos % logBytes s + r.bytes.length ≤ logBytes s) :
    ∃ o : Outbound, Sending s (sendLogCopy s r) [o] ∧ (o.txn.type, o.txn.dst, o.txn.data, o.txn.fields) = copyOf s r := by
  have hsome : ¬(holdCfg s).isNone = true := by simpa using Option.isSome_iff_ne_none.1 hcfg
  rw [sendLogCopy, if_neg hsome, ringParts_one hb hmax hfit]
  simp only [sendPuts, sendPutsOn, List.map_cons, List.map_nil, List.foldl_cons, List.foldl_nil, sendTxn, ht, mkTxn, hro]
  exact ⟨_, ⟨_, _, rfl⟩, rfl⟩

/-- Records that each fit are sent one after another. -/
theorem sendLogCopies_send (l : List LogRec) (hcfg : (holdCfg s).isSome = true)
    (hro : routable s (BitVec.ofNat 18 (sisterId s)).toNat = true) (ht : traceReplay s = false)
    (hl : ∀ r ∈ l, 0 < r.bytes.length ∧ r.bytes.length ≤ 4096 ∧ r.pos % logBytes s + r.bytes.length ≤ logBytes s) :
    ∃ os : List Outbound, Sending s (l.foldl sendLogCopy s) os ∧
      os.map (fun o => (o.txn.type, o.txn.dst, o.txn.data, o.txn.fields)) = l.map (copyOf s) := by
  induction l generalizing s with
  | nil => exact ⟨[], .refl s, rfl⟩
  | cons r l ih =>
    obtain ⟨hb, hmax, hfit⟩ := hl r List.mem_cons_self
    obtain ⟨o, ho, hkey⟩ := sendLogCopy_sends hcfg hro ht hb hmax hfit
    obtain ⟨os, hos, hkeys⟩ := ih (s := sendLogCopy s r) (by rw [ho.keeps holdCfg fun _ _ _ _ => rfl]; exact hcfg)
      (by rw [ho.keeps (fun s => routable s (BitVec.ofNat 18 (sisterId s)).toNat) fun _ _ _ _ => rfl]; exact hro)
      (by rw [ho.keeps traceReplay fun _ _ _ _ => rfl]; exact ht)
      (by rw [ho.keeps logBytes fun _ _ _ _ => rfl]; exact fun q hq => hl q (List.mem_cons_of_mem r hq))
    refine ⟨o :: os, ho.trans hos, ?_⟩
    rw [List.map_cons, hkey, hkeys, ho.keeps copyOf fun _ _ _ _ => rfl, List.map_cons]

theorem resendLog_sends (hcfg : (holdCfg s).isSome = true) (hro : routable s (BitVec.ofNat 18 (sisterId s)).toNat = true)
    (ht : traceReplay s = false) {again : List LogRec} (hagain : s.hold.log.dropWhile (fun r => s.hold.sisAcks.contains r.seq) = again)
    (hl : ∀ r ∈ again, 0 < r.bytes.length ∧ r.bytes.length ≤ 4096 ∧ r.pos % logBytes s + r.bytes.length ≤ logBytes s) :
    ∃ os : List Outbound, Sending s (resendLog s) os ∧
      os.map (fun o => (o.txn.type, o.txn.dst, o.txn.data, o.txn.fields)) = again.map (copyOf s) := by
  unfold resendLog
  simp only [hagain]
  have hvoid := voidCopies_sending s (again.map fun r => r.seq)
  generalize voidCopies s (again.map fun r => r.seq) = v at hvoid ⊢
  obtain ⟨os, hos, hkeys⟩ := sendLogCopies_send (s := v) again (by rw [hvoid.keeps holdCfg fun _ _ _ _ => rfl]; exact hcfg)
    (by rw [hvoid.keeps (fun s => routable s (BitVec.ofNat 18 (sisterId s)).toNat) fun _ _ _ _ => rfl]; exact hro)
    (by rw [hvoid.keeps traceReplay fun _ _ _ _ => rfl]; exact ht)
    (by rw [hvoid.keeps logBytes fun _ _ _ _ => rfl]; exact hl)
  refine ⟨os, hvoid.trans hos, ?_⟩
  rw [hkeys, hvoid.keeps copyOf fun _ _ _ _ => rfl]

end Sys2Proof.Machine
end

section
/-! Write-back of the Ballast (R342): what is forced by the snapshot that drains, and what is voluntary. Then the drain as a whole. -/
namespace Sys2Proof.Machine
open Sys2Proof Sys2Proof.Safety

variable {s t u w : State} {d : Drain} {row i h : Nat}

theorem writeBackRow_waits (hh : anyStackHolds s = true) (row : Nat) : writeBackRow s row = s := by
  unfold writeBackRow
  split
  · rfl
  · simp [hh]

/-- A row with a version that the snapshot that drains relies on is forced; with the last such version the batch closes. -/
theorem writeBackRow_forced (hr : s.stp.state ≠ .suspended) (hh : anyStackHolds s = false) (hi : slotOfRow s row = some i)
    (hd : s.hold.drain = some d) (h3 : d.point = 3) (hn : snapNeeds s (getSlotB s i) (hdrStep d.header).toNat = some h)
    (hf : forceHalf s i h = some t) : writeBackRow s row = if snapDirty t (hdrStep d.header) = [] then closeBatch t else t := by
  simp [writeBackRow, suspended, hi, hr, hh, hd, h3, hn, hf]

/-- Such a row waits where it fits in no batch. -/
theorem writeBackRow_throttled (hr : s.stp.state ≠ .suspended) (hh : anyStackHolds s = false) (hi : slotOfRow s row = some i)
    (hd : s.hold.drain = some d) (h3 : d.point = 3) (hn : snapNeeds s (getSlotB s i) (hdrStep d.header).toNat = some h)
    (hf : forceHalf s i h = none) : writeBackRow s row = raise s 0x7005 srcDevice [] := by
  simp [writeBackRow, suspended, hi, hr, hh, hd, h3, hn, hf]

/-- The batch that a forced program falls in: the open one, or a new one. -/
def batched (s : State) : State := if s.hold.batch = 0 then { s with hold := { s.hold with batch := batchBytes } } else s

theorem forceHalf_batched (hb : s.hold.batch ≠ 0 ∨ batchBytes ≤ s.hold.bucket) (i h : Nat) : forceHalf s i h =
    some { writeBackHalf (batched s) i h with hold := { (writeBackHalf (batched s) i h).hold with
      batch := (writeBackHalf (batched s) i h).hold.batch - balRow s } } := by
  by_cases h0 : s.hold.batch = 0
  · simp [forceHalf, openBatch, batched, h0, hb.resolve_left (not_not.2 h0)]
  · simp [forceHalf, openBatch, batched, h0]

theorem forceHalf_waits (h0 : s.hold.batch = 0) (hb : s.hold.bucket < batchBytes) (i h : Nat) : forceHalf s i h = none := by
  simp [forceHalf, openBatch, h0, Nat.not_le.2 hb]

/-- A row without such a version is written back as the next dirty one, while the bucket is at least half full. -/
theorem writeBackRow_voluntary (hr : s.stp.state ≠ .suspended) (hh : anyStackHolds s = false) (hi : slotOfRow s row = some i)
    (hd : ∀ d, s.hold.drain = some d → d.point ≠ 3) (hnext : nextDirty s = some row) (hb : bucketMax s ≤ 2 * s.hold.bucket) :
    writeBackRow s row = writeBackHalf s i (curHalf s (getSlotB s i)) := by
  have hgo : (suspended s || anyStackHolds s) = false := by simp [suspended, hr, hh]
  cases hdrain : s.hold.drain with
  | none => simp [writeBackRow, hi, hgo, hdrain, hnext, hb]
  | some d => simp [writeBackRow, hi, hgo, hdrain, hd d hdrain, hnext, hb]

/-- The current version of a row in a slot. -/
def currentVersion (s : State) (i row : Nat) : BallastRow :=
  BallastRow.mk row (curVer s (getSlotB s i)) (rdMem s (halfAddr s i (curHalf s (getSlotB s i))) (balRow s))

theorem writeBackHalf_current (hrow : (getSlotB s i).row = some row) :
    writeBackHalf s i (curHalf s (getSlotB s i)) = addVersion s (currentVersion s i row) := by
  simp [writeBackHalf, hrow, currentVersion, curVer]

/-- Where a row is dirty no durable version of it is as new as the current one. -/
theorem le_curVer_of_dirty (hrow : (getSlotB s i).row = some row) (hdirty : slotDirty s (getSlotB s i) = true) {w : BallastRow}
    (hw : w ∈ s.hold.bal) (hwr : w.row = row) : w.ver.toNat ≤ (curVer s (getSlotB s i)).toNat := by
  obtain ⟨b, hb, -, hmax⟩ := newestOf_max hw hwr
  simp only [slotDirty, hrow, hb, Bool.and_eq_true, decide_eq_true_eq] at hdirty
  exact (hmax w hw hwr).trans hdirty.2.le

theorem refillBucket_eq {cfg : HoldCfg} {ms n : Nat} (hcfg : holdCfg s = some cfg)
    (hn : n = cfg.balBytes * 3000 * ms + s.hold.bucketRem) : refillBucket s ms = { s with hold := { s.hold with
      bucket := min (s.hold.bucket + n / lifeMs s) (bucketMax s), bucketRem := n % lifeMs s } } := by
  rw [refillBucket, hcfg, hn]
  rfl

/-- Settles O45: a piece, the seal and the release of the snapshot that drains, the forced and the voluntary write-back, the records
sent again, and the refill. -/
theorem snapshotDrainSeals : Obligations.SnapshotDrainSeals := by
  refine ⟨fun s d hd hr hs => ⟨fun p n hp h2 hh hn => ?piece, fun b hb h3 hdirty => ?seals, fun h4 hsis => ?release,
    fun h4 hsis hq => ?last, fun row i h u w hh hi h3 hn hu hw => ?forced⟩, fun s hr hs => ⟨fun hall => ?acked,
    fun again hagain hcfg hro ht hl => ?resent, fun row hh => congrArg Host.Outcome.next (writeBackRow_waits hh row),
    fun row i v hh hi hrow hdirty hnext hd hb hv => ?voluntary⟩,
    fun s ms cfg n hcfg hn => congrArg Host.Outcome.next (refillBucket_eq hcfg hn)⟩
  case piece =>
    obtain ⟨hout, hbody, hdrain⟩ := drainPiece_copies hd hr hs hp h2 hh hn
    exact ⟨_, rfl, hout.mem, hout.stp, hbody, hdrain⟩
  case seals =>
    obtain ⟨hout, c, hslot⟩ := localSeal_seals hd hr hs h3 hdirty
    refine ⟨_, rfl, hout.mem, hout.stp, ?_⟩
    rw [hslot]
    exact ⟨rfl, hb, by rw [sealedHeader, hb], rfl⟩
  case release => exact congrArg Host.Outcome.next (releaseSnap_releases hd hr h4 hsis)
  case last =>
    have hout := releaseTold_outward s d
    have hst := releaseTold_st (d := d) hs
    have hnone := nextDrain_last ((releaseTold_snapQueue s d).trans hq)
    have hexec : exec .snapshotRelease s = .next (nextDrain (releaseTold s d)) :=
      congrArg Host.Outcome.next (releaseSnap_releases hd hr h4 hsis)
    generalize releaseTold s d = told at hout hst hnone hexec
    rw [hnone] at hexec
    exact ⟨_, hexec, rfl, hout.mem, hout.stp, hst⟩
  case forced =>
    have hw' : w = writeBackHalf (batched s) i h := by rw [hw, hu, batched]
    refine ⟨fun hb => congrArg Host.Outcome.next ?_, fun h0 hb => congrArg Host.Outcome.next ?_⟩
    · rw [writeBackRow_forced hr hh hi hd h3 hn (forceHalf_batched hb i h), ← hw']
      have hsame : snapDirty { w with hold := { w.hold with batch := w.hold.batch - balRow s } } (hdrStep d.header) =
          snapDirty w (hdrStep d.header) := rfl
      rw [hsame]
      split <;> rfl
    · exact writeBackRow_throttled hr hh hi hd h3 hn (forceHalf_waits h0 hb i h)
  case acked =>
    refine congrArg Host.Outcome.next ?_
    rw [resendLog, List.dropWhile_eq_nil_iff.2 hall]
    rfl
  case resent =>
    obtain ⟨os, hos, hkeys⟩ := resendLog_sends hcfg hro ht hagain hl
    obtain ⟨n, l, he⟩ := hos
    refine ⟨_, os, congrArg Host.Outcome.next he, rfl, hkeys, rfl, rfl, rfl⟩
  case voluntary =>
    have hexec : exec (.ballastWriteBack row) s = .next (addVersion s (currentVersion s i row)) :=
      congrArg Host.Outcome.next ((writeBackRow_voluntary hr hh hi hd hnext hb).trans (writeBackHalf_current hrow))
    refine ⟨_, hexec, ?_, rfl, rfl, rfl⟩
    rw [hv]
    exact mem_addVersion fun w hw hwr => le_curVer_of_dirty hrow hdirty hw hwr

end Sys2Proof.Machine
end

section
/-! The HOLD entry (R328, R329, R430), and what the Hold loses (R315, R316): a block, a slot, a record or a version. -/
namespace Sys2Proof.Machine
open Sys2Proof Sys2Proof.Safety

variable {s t : State} {j : JobEnt}

/-! What an event, a record and an abort cause leave of the Hold. -/

theorem eventsOnly_hold (h : eventsOnly s t) : t.hold = s.hold := by
  obtain ⟨_, _, _, _, _, _, rfl, _⟩ := h
  rfl

@[simp] theorem queueLocation_hold (s : State) (unit : W32) (addr : Nat) (cause : Byte) :
    (queueLocation s unit addr cause).hold = s.hold := by
  unfold queueLocation
  split <;> exact raise_hold ..

theorem endReplay_offLog (s : State) (reason : Nat) : offLog (endReplay s reason).hold = offLog s.hold := by
  unfold endReplay
  split
  · rfl
  · rw [raise_hold, logAppend_offLog]
    rfl

theorem endReplay_outward (s : State) (reason : Nat) : Outward s (endReplay s reason) := by
  unfold endReplay
  split
  · exact .refl s
  · exact ((logAppend_outward ..).trans (raise_outward ..)).after rfl fun _ => rfl

theorem enterState_hold (s : State) (x : StepState) : (enterState s x).hold = s.hold := by
  unfold enterState
  split <;> rfl

theorem endAbandon_offLog (s : State) (l : Lock) : offLog (endAbandon s l).hold = offLog s.hold := by
  rw [endAbandon, endControl_hold, enterState_hold]
  exact (congrArg offLog (raise_hold ..)).trans (logAppend_offLog ..)

theorem lockCause_offLog (s : State) : offLog (lockCause s).hold = offLog s.hold := by
  unfold lockCause
  split
  · rfl
  · split
    · rfl
    · split
      · split
        · rfl
        · rw [decideAbandon, endAbandon_offLog, sendCctlAll_hold]
      · split
        · rfl
        · rw [sendCctl_hold]

theorem floodAbort_hold (s : State) (cause : Nat) (step : W64) (tag : W32) (f : Option Nat) :
    (floodAbort s cause step tag f).hold = s.hold := by
  unfold floodAbort
  split
  · rfl
  · exact sendCctlAll_hold ..

theorem enterAbort_hold (s : State) (a : Attempt) (cause : BitVec 12) : (enterAbort s a cause).hold = s.hold :=
  (enterState_hold ..).trans (floodAbort_hold ..)

theorem startAbort_offLog (s : State) (cause : BitVec 12) : offLog (startAbort s cause).hold = offLog s.hold := by
  unfold startAbort
  split
  · exact lockCause_offLog s
  · split
    · rfl
    · split
      · rfl
      · split
        · rfl
        · rw [enterAbort_hold]

theorem answerLoads_hold (s : State) (status code : Nat) : (answerLoads s status code).hold = s.hold := by
  refine foldl_keeps (f := State.hold) (fun s l => ?_) [0, 1] s
  split
  · unfold answerDoe
    dsimp only
    split
    · rfl
    · exact raise_hold ..
  · rfl

theorem failApply_hold (s : State) : (failApply s).hold = s.hold := by
  unfold failApply
  split
  · rfl
  · exact (answerLoads_hold ..).trans (raise_hold ..)

theorem dataLoss_offLog (s : State) (unit : W32) (addr : Nat) : offLog (dataLoss s unit addr).hold = offLog s.hold := by
  rw [dataLoss, failApply_hold, startAbort_offLog, raise_hold]

theorem dataLoss_bal (s : State) (unit : W32) (addr : Nat) : (dataLoss s unit addr).hold.bal = s.hold.bal := by
  have hkept := congrArg Hold.bal (dataLoss_offLog s unit addr)
  exact hkept

/-! The HOLD entry. -/

theorem headEntry_idle {opc : Nat} (h : headEntry s opc = some j) : s.ctl.running = none := by
  unfold headEntry at h
  split at h
  · assumption
  · cases h

/-- The entry at the head is taken and its command runs. -/
def commandTaken (s : State) (j : JobEnt) : State :=
  { takeHead s j with hold := { s.hold with cmd := some { code := hCmd j, job := j, cancel := false } } }

/-- The entry at the head leaves the order. -/
def headDropped (s : State) : State := { s with ctl := { s.ctl with waiting := s.ctl.waiting.drop 1 } }

theorem startHold_rejects (hh : headEntry s 5 = some j) (hl : loadRuns s = false) (hok : holdOk s j = false) :
    startHold s = jobDone (raise (headDropped s) 0x7008 srcDevice []) j 1 0x7008 := by
  simp [startHold, hh, hl, hok, headDropped]

theorem startHold_accepts (hh : headEntry s 5 = some j) (hl : loadRuns s = false) (hok : holdOk s j = true) :
    startHold s = if hCmd j ≤ 2 then
        { endReplay (abandonDrain (commandTaken s j)) 4 with
          stp := { (endReplay (abandonDrain (commandTaken s j)) 4).stp with state := .stopped } }
      else commandTaken s j := by
  simp only [startHold, hh, hl, hok]
  rfl

/-- The end of a drain that a restore abandons changes the Hold alone, and leaves the command. -/
theorem abandonDrain_frame (s : State) : ∃ h, abandonDrain s = { s with hold := h } ∧ h.cmd = s.hold.cmd := by
  unfold abandonDrain
  dsimp only
  split
  · split
    · exact ⟨_, rfl, rfl⟩
    · exact ⟨_, rfl, rfl⟩
  · exact ⟨_, rfl, rfl⟩

/-- A command that is accepted runs; memory and what is committed stay. -/
theorem startHold_runs (hh : headEntry s 5 = some j) (hl : loadRuns s = false) (hok : holdOk s j = true) :
    (startHold s).ctl.running = some j ∧ (startHold s).hold.cmd = some (HoldCmd.mk (hCmd j) j false) ∧ (startHold s).mem = s.mem ∧
      (startHold s).stp.c = s.stp.c ∧ (startHold s).stp.bank = s.stp.bank := by
  rw [startHold_accepts hh hl hok]
  split
  · obtain ⟨h, habandon, hcmd⟩ := abandonDrain_frame (commandTaken s j)
    have hout := endReplay_outward (abandonDrain (commandTaken s j)) 4
    have hheld := congrArg Hold.cmd (endReplay_offLog (abandonDrain (commandTaken s j)) 4)
    rw [habandon] at hout hheld ⊢
    generalize endReplay _ 4 = u at hout hheld ⊢
    have hstp : u.stp = s.stp := hout.stp
    exact ⟨congrArg Ctl.running hout.ctl, Eq.trans hheld hcmd, hout.mem, by rw [← hstp], by rw [← hstp]⟩
  · exact ⟨rfl, rfl, rfl, rfl, rfl⟩

/-! The owner's commands. -/

theorem holdCommand_owner {m : Fin 4} (ho : isOwner s m.val = true) (hm : masterExists s m.val = true) (hb : s.sec.boot = .ready)
    (off : Nat) (f : State → State) :
    Host.Outcome.next (writeGate s m.val off false f) = (.next (f s) : Host.Outcome State Fault Refusal) :=
  congrArg Host.Outcome.next (writeGate_owner hm hb ho)

theorem cancelCmd_cancels {c : HoldCmd} (hc : s.hold.cmd = some c) (h : c.code ∈ [3, 4, 6]) :
    cancelCmd s = { s with hold := { s.hold with cmd := some (HoldCmd.mk c.code c.job true) } } := by
  simp only [cancelCmd, hc, List.contains_iff_mem.2 h]
  rfl

/-! Failures. -/

/-- A block that failed is retired, and a spare one takes its place. -/
def blockRetired (s : State) (k : Nat) : State :=
  { s with hold := { s.hold with
      retired := smUpd 0 s.hold.retired k (· + 1), progFail := satInc32 s.hold.progFail,
      spareBlocks := BitVec.ofNat 32 (s.hold.spareBlocks.toNat - 1) } }

theorem programFailed_frame (s : State) (k : Nat) : eventsOnly (blockRetired s k) (programFailed s k) := by
  unfold programFailed
  extract_lets spare src h s1 low s2
  have h1 : eventsOnly (blockRetired s k) s1 := raise_frame ..
  have h2 : eventsOnly (blockRetired s k) s2 := by
    dsimp only [s2]
    split
    · exact h1.trans (raise_frame ..)
    · exact h1
  split
  · exact h2.trans (raise_frame ..)
  · exact h2

/-- A slot whose snapshot waits for a record that was lost is covered no more. -/
def uncoverSlot (seq : W64) (s : State) (i : Nat) : State :=
  let x := getSlot s i
  if x.st = .sealed ∧ (hdrLogSeq x.header).toNat < seq.toNat then setSlot s i { x with cover := false } else s

/-- A record of the log that could not be read is taken out, with what it covered. -/
def recordOut (uncover : State → Nat → State) (s : State) (seq : W64) : State :=
  let s1 := loseReplay (uncover (uncover (raise s 0x7104 srcDevice []) 0) 1) seq
  queueLocation { s1 with hold := { s1.hold with log := s1.hold.log.filter fun r => r.seq != seq } } 0 (ownLogAddr s) 7

/-- The replay that waited for a record ends. -/
def replayBroken (s : State) : State := if s.hold.replay.any fun r => r.lost then endReplay s 3 else s

/-- A record of the log that could not be read is taken out, and the slots that waited for it are covered no more. -/
def recordLost (s : State) (seq : W64) : State := recordOut (uncoverSlot seq) s seq

theorem holdReadFailed_logRecord (s : State) (seq : W64) : holdReadFailed s (.logRecord seq) = replayBroken (recordLost s seq) := by
  unfold holdReadFailed
  delta replayBroken recordLost recordOut uncoverSlot
  with_reducible rfl

theorem replayBroken_noReplay (h : s.hold.replay = none) : replayBroken s = s := by
  rw [replayBroken, h, Option.any_none, if_neg Bool.false_ne_true]

theorem replayBroken_keepsStep (s : State) : KeepsStep s (replayBroken s) := by
  unfold replayBroken
  split
  · have hout := endReplay_outward s 3
    exact ⟨hout.mem, hout.cores, hout.par, hout.stp⟩
  · exact .refl s

theorem uncoverSlot_keepsStep (seq : W64) (s : State) (i : Nat) : KeepsStep s (uncoverSlot seq s i) := by
  unfold uncoverSlot
  dsimp only
  split <;> exact ⟨rfl, rfl, rfl, rfl⟩

theorem uncoverSlot_log (seq : W64) (s : State) (i : Nat) : (uncoverSlot seq s i).hold.log = s.hold.log ∧
    (uncoverSlot seq s i).hold.replay = s.hold.replay := by
  unfold uncoverSlot
  dsimp only
  split <;> exact ⟨rfl, rfl⟩

theorem recordLost_keepsStep (s : State) (seq : W64) : KeepsStep s (recordLost s seq) := by
  have h : KeepsStep s (loseReplay (uncoverSlot seq (uncoverSlot seq (raise s 0x7104 srcDevice []) 0) 1) seq) :=
    (((raise_keepsStep s 0x7104 srcDevice []).trans (uncoverSlot_keepsStep seq _ 0)).trans (uncoverSlot_keepsStep seq _ 1)).trans
      (loseReplay_keepsStep _ seq)
  rw [recordLost, recordOut]
  generalize loseReplay _ seq = u at h ⊢
  exact h.trans ((queueLocation_keepsStep ..).after rfl rfl rfl rfl)

/-- Outside replay the record leaves the log, and nothing is replayed. -/
theorem recordLost_log (h : s.hold.replay = none) (seq : W64) :
    (recordLost s seq).hold.log = s.hold.log.filter (fun r => r.seq != seq) ∧ (recordLost s seq).hold.replay = none := by
  obtain ⟨hl0, hr0⟩ := uncoverSlot_log seq (raise s 0x7104 srcDevice []) 0
  obtain ⟨hl1, hr1⟩ := uncoverSlot_log seq (uncoverSlot seq (raise s 0x7104 srcDevice []) 0) 1
  rw [hl0, raise_hold] at hl1
  rw [hr0, raise_hold, h] at hr1
  rw [recordLost, recordOut, queueLocation_hold]
  generalize uncoverSlot seq (uncoverSlot seq (raise s 0x7104 srcDevice []) 0) 1 = u at hl1 hr1 ⊢
  have hlose : loseReplay u seq = u := by rw [loseReplay, hr1]
  rw [hlose, ← hl1]
  exact ⟨rfl, hr1⟩

/-- A record of the sister's log that could not be read is taken out. -/
def sisterRecordLost (s : State) (seq : W64) : State :=
  queueLocation { raise s 0x7104 srcDevice [] with hold := { (raise s 0x7104 srcDevice []).hold with
    sisLog := (raise s 0x7104 srcDevice []).hold.sisLog.filter fun r => r.seq != seq } } 0 (sisLogAddr s) 7

theorem holdReadFailed_sisterRecord (s : State) (seq : W64) : holdReadFailed s (.sisterRecord seq) = sisterRecordLost s seq := rfl

theorem sisterRecordLost_keepsStep (s : State) (seq : W64) : KeepsStep s (sisterRecordLost s seq) :=
  (raise_keepsStep s 0x7104 srcDevice []).trans ((queueLocation_keepsStep ..).after rfl rfl rfl rfl)

theorem sisterRecordLost_hold (s : State) (seq : W64) :
    (sisterRecordLost s seq).hold = { s.hold with sisLog := s.hold.sisLog.filter fun r => r.seq != seq } := by
  rw [sisterRecordLost, queueLocation_hold, raise_hold]

/-- A version of the Ballast that could not be read is no longer kept, before its loss counts as one of data. -/
def versionLost (s : State) (row : Nat) (ver : W64) : State :=
  queueLocation { raise s 0x7104 srcDevice [] with hold := { (raise s 0x7104 srcDevice []).hold with
    bal := (raise s 0x7104 srcDevice []).hold.bal.filter fun v => !(v.row == row && v.ver == ver) } } 0 (ballastBase + row * balRow s) 7

theorem holdReadFailed_ballast (s : State) (row : Nat) (ver : W64) :
    holdReadFailed s (.ballast row ver) = dataLoss (versionLost s row ver) 0 (ballastBase + row * balRow s) := rfl

theorem versionLost_keepsStep (s : State) (row : Nat) (ver : W64) : KeepsStep s (versionLost s row ver) :=
  (raise_keepsStep s 0x7104 srcDevice []).trans ((queueLocation_keepsStep ..).after rfl rfl rfl rfl)

theorem versionLost_bal (s : State) (row : Nat) (ver : W64) :
    (versionLost s row ver).hold.bal = s.hold.bal.filter fun v => !(v.row == row && v.ver == ver) := by
  rw [versionLost, queueLocation_hold, raise_hold]

/-- A slot that could not be read is invalid. -/
def slotLost (s : State) (i : Nat) : State :=
  queueLocation (setSlot (raise s 0x7104 srcDevice []) i { getSlot (raise s 0x7104 srcDevice []) i with st := .invalid }) 0 (slotAddr s i) 7

theorem holdReadFailed_slot (s : State) (i : Fin 4) : holdReadFailed s (.slot i) = slotLost s i.val := rfl

theorem slotLost_keepsStep (s : State) (i : Nat) : KeepsStep s (slotLost s i) :=
  ((raise_keepsStep s 0x7104 srcDevice []).trans (setSlot_keepsStep ..)).trans (queueLocation_keepsStep ..)

theorem slotLost_st (hs : canonical s) (i : Nat) : (getSlot (slotLost s i) i).st = .invalid := by
  rw [slotLost, getSlot, queueLocation_hold]
  exact congrArg Slot.st (getSlot_setSlot_self (raise_canonical _ _ _ hs) i _)

theorem slotLost_log (s : State) (i : Nat) : (slotLost s i).hold.log = s.hold.log := by
  rw [slotLost, queueLocation_hold]
  show (raise s 0x7104 srcDevice []).hold.log = _
  rw [raise_hold]

/-- Settles O46: an entry that is accepted and one that is not, the owner's commands, and what each failure takes out. -/
theorem holdCommandsAccepted : Obligations.HoldCommandsAccepted := by
  refine ⟨⟨fun s j hh hl => ⟨fun hok => ⟨_, rfl, startHold_runs hh hl hok⟩, fun hok => ?rejected⟩,
    fun s m ho hm hb => ⟨fun ht => ?on, fun ht => ?off, fun c hc hcode => ?cancels⟩⟩, fun s k => ?block,
    fun s hs => ⟨fun i => ?slot, fun q hq => ?record, fun q => ?any, fun q => ?sister, fun row ver => ?version⟩, fun s m ho hm hb => ⟨⟨_, holdCommand_owner ho hm hb _ _, rfl, rfl, rfl⟩,
    _, holdCommand_owner ho hm hb _ _, rfl, rfl, rfl⟩⟩
  case rejected =>
    have hexec : exec .hold s = .next (jobDone (raise (headDropped s) 0x7008 srcDevice []) j 1 0x7008) :=
      congrArg Host.Outcome.next (startHold_rejects hh hl hok)
    refine ⟨_, hexec, ?_, ?_, ?_, ?_, ?_⟩
    · rw [jobDone_hold, raise_hold]
      rfl
    · rw [jobDone_mem, raise_mem]
      rfl
    · rw [jobDone_stp, raise_stp]
      rfl
    · rw [jobDone_ctl, raise_ctl]
      exact (headEntry_idle hh : s.ctl.running = none)
    · rw [jobDone_ctl, raise_ctl]
      rfl
  case on =>
    refine (holdCommand_owner ho hm hb 0x7044 traceOn).trans (congrArg Host.Outcome.next ?_)
    rw [traceOn, ht]
    rfl
  case off =>
    refine (holdCommand_owner ho hm hb 0x7044 traceOff).trans (congrArg Host.Outcome.next ?_)
    rw [traceOff, if_pos ht]
  case cancels =>
    exact (holdCommand_owner ho hm hb 0x7044 cancelCmd).trans (congrArg Host.Outcome.next (cancelCmd_cancels hc hcode))
  case block =>
    have hframe := programFailed_frame s k.val
    exact ⟨_, rfl, (eventsOnly_outward hframe).mem, (eventsOnly_outward hframe).stp, eventsOnly_hold hframe⟩
  case slot =>
    have hkeeps := slotLost_keepsStep s i.val
    have hexec : exec (.holdReadFailed (.slot i)) s = .next (slotLost s i.val) := congrArg Host.Outcome.next (holdReadFailed_slot s i)
    exact ⟨_, hexec, slotLost_st hs i.val, hkeeps.mem, slotLost_log s i.val, hkeeps.stp⟩
  case record =>
    obtain ⟨hlog, hnone⟩ := recordLost_log hq q
    have hkeeps := recordLost_keepsStep s q
    have hexec : exec (.holdReadFailed (.logRecord q)) s = .next (recordLost s q) :=
      congrArg Host.Outcome.next ((holdReadFailed_logRecord s q).trans (replayBroken_noReplay hnone))
    exact ⟨_, hexec, hlog, hkeeps.mem, hkeeps.stp⟩
  case any =>
    have hexec : exec (.holdReadFailed (.logRecord q)) s = .next (replayBroken (recordLost s q)) :=
      congrArg Host.Outcome.next (holdReadFailed_logRecord s q)
    have hkeeps := (recordLost_keepsStep s q).trans (replayBroken_keepsStep _)
    exact ⟨_, hexec, hkeeps.mem, congrArg Stp.bank hkeeps.stp, congrArg Stp.c hkeeps.stp⟩
  case sister =>
    have hkeeps := sisterRecordLost_keepsStep s q
    have hexec : exec (.holdReadFailed (.sisterRecord q)) s = .next (sisterRecordLost s q) :=
      congrArg Host.Outcome.next (holdReadFailed_sisterRecord s q)
    have hheld := sisterRecordLost_hold s q
    exact ⟨_, hexec, congrArg Hold.sisLog hheld, by rw [hheld], hkeeps.mem, hkeeps.stp⟩
  case version =>
    have hexec : exec (.holdReadFailed (.ballast row ver)) s = .next (dataLoss (versionLost s row ver) 0 (ballastBase + row * balRow s)) :=
      congrArg Host.Outcome.next (holdReadFailed_ballast s row ver)
    have hkeeps := versionLost_keepsStep s row ver
    have hloss := dataLoss_keepsCommitted (versionLost s row ver) 0 (ballastBase + row * balRow s)
    refine ⟨_, hexec, ?_, ?_, ?_, fun a ha hp hr => ?_⟩
    · rw [dataLoss_bal, versionLost_bal]
    · rw [hloss.bank, hkeeps.stp]
    · rw [hloss.c, hkeeps.stp]
    · rw [← hkeeps.stp] at ha hr
      exact dataLoss_aborts ha hp hr 0 _

end Sys2Proof.Machine
end

section
/-! The running command of the Hold (R328, R329): when it goes on, and what its end changes; versions of the Ballast programmed one
after another (R336, R341). -/
namespace Sys2Proof.Machine
open Sys2Proof Sys2Proof.Safety

variable {s t u : State} {c : HoldCmd}

theorem onHost_of_device {code : Nat} (h : code ∉ [3, 4, 5, 6]) (hc : c.code = code) : onHost c = false := by
  simp only [onHost, hc, Bool.and_eq_false_iff]
  exact .inl (by simpa using h)

theorem onHost_of_hbm (h : hHost c.job ≠ 1) : onHost c = false := by simp [onHost, h]

/-- The command goes on where its data can be reached. -/
theorem running_goes {n : Nat} (hc : s.hold.cmd = some c) (hr : s.stp.state ≠ .suspended) (hn : c.code = n)
    (hfree : (if onHost c then (getFn s 0).cfg.d3hot else anyStackHolds s) = false) : running s n = some c := by
  have hsus : suspended s = false := by simp [suspended, hr]
  simp only [running, hc, Option.bind_some, hsus, hfree]
  exact if_pos ⟨hn, by decide⟩

/-- A command on device memory waits while a stack is in self-refresh. -/
theorem running_waits {n : Nat} (hc : s.hold.cmd = some c) (hon : onHost c = false) (hh : anyStackHolds s = true) : running s n = none := by
  simp [running, hc, hon, hh]

/-- No command runs any more. -/
def commandOff (s : State) : State := { s with hold := { s.hold with cmd := none }, ctl := { s.ctl with running := none } }

theorem commandOff_frame (h : eventsOnly s t) : eventsOnly (commandOff s) (commandOff t) := by
  obtain ⟨a, b, q, f, p, u, rfl, h⟩ := h
  exact ⟨a, b, q, f, p, u, rfl, h⟩

/-- The end of a command after events. -/
theorem endCmd_frame (h : eventsOnly s t) (c : HoldCmd) (code : Nat) : eventsOnly (commandOff s) (endCmd t c code) :=
  (commandOff_frame h).trans (endControl_frame ..)

theorem endExport_frame (s : State) (c : HoldCmd) (fail : Bool) : eventsOnly (commandOff s) (endExport s c fail) :=
  endCmd_frame (raise_frame ..) c 0x7006

theorem endInvalid_frame (s : State) (c : HoldCmd) : eventsOnly (commandOff s) (endCmd (snapInvalid s) c 0x7101) :=
  endCmd_frame (raise_frame ..) c 0x7101

/-- What is left once a command has ended. -/
theorem command_ended (h : eventsOnly (commandOff s) t) :
    t.mem = s.mem ∧ t.stp = s.stp ∧ t.hold = { s.hold with cmd := none } ∧ t.ctl.running = none :=
  ⟨(eventsOnly_outward h).mem, (eventsOnly_outward h).stp, eventsOnly_hold h, congrArg Ctl.running (eventsOnly_outward h).ctl⟩

/-! Versions programmed one after another. -/

/-- Programming changes the versions and the governor's count. -/
theorem addVersion_frame (s : State) (v : BallastRow) : ∃ b n, addVersion s v =
    { s with hold := { s.hold with bal := (addVersion s v).hold.bal, bucket := b, balProg := n } } := ⟨_, _, rfl⟩

theorem foldl_addVersion_frame (l : List BallastRow) (s : State) : ∃ b n, l.foldl addVersion s =
    { s with hold := { s.hold with bal := (l.foldl addVersion s).hold.bal, bucket := b, balProg := n } } := by
  induction l generalizing s with
  | nil => exact ⟨_, _, rfl⟩
  | cons v l ih =>
    obtain ⟨b, n, h⟩ := addVersion_frame s v
    obtain ⟨b', n', h'⟩ := ih (addVersion s v)
    rw [List.foldl_cons]
    generalize l.foldl addVersion (addVersion s v) = t at h' ⊢
    exact ⟨b', n', by rw [h', h]⟩

/-- A version that is the only one of its row. -/
def OnlyVersion (l : List BallastRow) (v : BallastRow) : Prop := v ∈ l ∧ ∀ w ∈ l, w.row = v.row → w = v

/-- It stays the only one where versions of other rows are programmed, or itself again. -/
theorem OnlyVersion.addVersion {v w : BallastRow} (h : OnlyVersion s.hold.bal v) (hw : w.row = v.row → w = v) :
    OnlyVersion (addVersion s w).hold.bal v := by
  obtain ⟨hin, hone⟩ := h
  have honly : ∀ x ∈ (s.hold.bal.filter fun y => !(y.row == w.row && y.ver == w.ver)) ++ [w], x.row = v.row → x = v := by
    intro x hx hr
    rcases List.mem_append.1 hx with hx | hx
    · exact hone x (List.mem_of_mem_filter hx) hr
    · obtain rfl := List.mem_singleton.1 hx
      exact hw hr
  have hl : v ∈ (s.hold.bal.filter fun y => !(y.row == w.row && y.ver == w.ver)) ++ [w] := by
    by_cases hr : v.row = w.row
    · simp [hw hr.symm]
    · simp [hin, hr]
  refine ⟨List.mem_filter.2 ⟨hl, ?_⟩, fun x hx hr => honly x (List.mem_of_mem_filter hx) hr⟩
  simp only [newestOf_of_newer hl fun x hx hr => .inl (honly x hx hr), beq_self_eq_true, Bool.true_or]

theorem foldl_addVersion_only {v : BallastRow} {l : List BallastRow} (h : OnlyVersion s.hold.bal v)
    (hl : ∀ w ∈ l, w.row = v.row → w = v) : OnlyVersion (l.foldl addVersion s).hold.bal v := by
  induction l generalizing s with
  | nil => exact h
  | cons w l ih => exact ih (h.addVersion (hl w List.mem_cons_self)) fun x hx => hl x (List.mem_cons_of_mem w hx)

/-- A version 0 programmed where every version is 0 takes the place of every other of its row. -/
theorem addVersion_only {v : BallastRow} (hs : ∀ w ∈ s.hold.bal, w.ver = 0) (hv : v.ver = 0) :
    OnlyVersion (addVersion s v).hold.bal v := by
  refine ⟨mem_addVersion fun w hw _ => by rw [hs w hw, hv], fun w hw hr => ?_⟩
  rcases List.mem_append.1 (List.mem_of_mem_filter hw) with hw | hw
  · obtain ⟨hin, hne⟩ := List.mem_filter.1 hw
    simp [hr, hs w hin, hv] at hne
  · exact List.mem_singleton.1 hw

/-- Versions 0 of different rows, programmed where every version is 0: each is kept, and nothing else comes in. -/
theorem foldl_addVersion_zeros {l : List BallastRow} (hs : ∀ v ∈ s.hold.bal, v.ver = 0) (hl : ∀ v ∈ l, v.ver = 0)
    (hrows : ∀ v ∈ l, ∀ w ∈ l, v.row = w.row → v = w) :
    (∀ v ∈ l, v ∈ (l.foldl addVersion s).hold.bal) ∧ ∀ w ∈ (l.foldl addVersion s).hold.bal, w ∈ s.hold.bal ∨ w ∈ l := by
  induction l generalizing s with
  | nil => exact ⟨by simp, fun _ => .inl⟩
  | cons v l ih =>
    have hv := hl v List.mem_cons_self
    have hzero : ∀ w ∈ (addVersion s v).hold.bal, w.ver = 0 := fun w hw => by
      rcases addVersion_sub hw with h | rfl
      · exact hs w h
      · exact hv
    obtain ⟨hin, hsub⟩ := ih hzero (fun w hw => hl w (List.mem_cons_of_mem v hw))
      fun w hw x hx => hrows w (List.mem_cons_of_mem v hw) x (List.mem_cons_of_mem v hx)
    refine ⟨fun w hw => ?_, fun w hw => ?_⟩
    · rcases List.mem_cons.1 hw with rfl | hw
      · exact (foldl_addVersion_only (addVersion_only hs hv) fun x hx hr => hrows x (List.mem_cons_of_mem w hx) w List.mem_cons_self hr).1
      · exact hin w hw
    · rcases hsub w hw with h | h
      · exact (addVersion_sub h).imp_right fun he => List.mem_cons.2 (.inl he)
      · exact .inr (List.mem_cons_of_mem v h)

end Sys2Proof.Machine
end

section
/-! Restore (R330, R331, R335–R337): what the banks and the step state are set to, and how a stand-in reads its sister's copy. -/
namespace Sys2Proof.Machine
open Sys2Proof Sys2Proof.Safety

variable {s t u : State} {c : HoldCmd} {p : Plan} {h body : Bytes} {f : StandinFetch} {rows : List BallastRow}

/-! The banks. -/

/-- The ranges of the banks that a restore writes: state bank 0 and residue bank 0. -/
def restoredBanks (p : Plan) : List (Nat × Nat) := [(p.shape.state0, p.shape.stateBytes), (p.shape.res0, p.shape.resBytes)]

/-- An image's body in the banks. -/
def bankWrites (p : Plan) (body : Bytes) : List (Nat × Bytes) :=
  [(p.shape.state0, sub body 0 p.shape.stateBytes), (p.shape.res0, sub body p.shape.stateBytes p.shape.resBytes)]

theorem writeBanks_eq (hp : curPlan s = some p) (body : Bytes) : writeBanks s body = writeAll s (bankWrites p body) := by
  rw [writeBanks, hp]
  rfl

theorem writeBanks_frame (hp : curPlan s = some p) (body : Bytes) : writeBanks s body = { s with mem := (writeBanks s body).mem } := by
  rw [writeBanks_eq hp]
  exact writeAll_frame ..

theorem writeBanks_sameOutside (hs : canonical s) (hp : curPlan s = some p) (body : Bytes) :
    sameOutside s (writeBanks s body) (restoredBanks p) := by
  have hsame := (writeAll_sameOutside (canonical_mem hs) (bankWrites p body)).2
  simp only [bankWrites, List.map_cons, List.map_nil, writeRange, sub_length] at hsame
  rw [writeBanks_eq hp]
  exact hsame

theorem rdMem_writeBanks_residue (hs : canonical s) (hp : curPlan s = some p) (body : Bytes) :
    rdMem (writeBanks s body) p.shape.res0 p.shape.resBytes = sub body p.shape.stateBytes p.shape.resBytes := by
  have hread := rdMem_wrMem (wrMem s p.shape.state0 (sub body 0 p.shape.stateBytes)) p.shape.res0
    (sub body p.shape.stateBytes p.shape.resBytes) (canonical_mem (wrMem_canonical _ _ hs))
  rw [sub_length] at hread
  rw [writeBanks, hp]
  exact hread

/-- Where the banks share no byte the state bank reads back as well. -/
theorem rdMem_writeBanks_state (hs : canonical s) (hp : curPlan s = some p) (hd : disjointRanges (restoredBanks p) = true) (body : Bytes) :
    rdMem (writeBanks s body) p.shape.state0 p.shape.stateBytes = sub body 0 p.shape.stateBytes := by
  have hfirst := rdMem_wrMem s p.shape.state0 (sub body 0 p.shape.stateBytes) (canonical_mem hs)
  rw [sub_length] at hfirst
  rw [writeBanks, hp]
  show rdMem (wrMem _ _ _) _ _ = _
  rcases Nat.eq_zero_or_pos p.shape.stateBytes with h0 | hn
  · rw [h0]
    rfl
  rcases Nat.eq_zero_or_pos p.shape.resBytes with h0 | hm
  · rw [h0]
    exact hfirst
  have hno : ¬overlap p.shape.state0 p.shape.stateBytes p.shape.res0 p.shape.resBytes = true := by
    simpa [disjointRanges, restoredBanks] using hd
  have hapart : p.shape.state0 + p.shape.stateBytes ≤ p.shape.res0 ∨ p.shape.res0 + p.shape.resBytes ≤ p.shape.state0 := by
    simp only [overlap, decide_eq_true_eq, not_and] at hno
    have := hno hn hm
    omega
  rw [rdMem_wrMem_apart (canonical_mem (wrMem_canonical _ _ hs)) (by rwa [sub_length]), hfirst]

/-! The end of a restore. -/

/-- The one control write of a restore. -/
def controlWritten (s : State) (h : Bytes) : State :=
  { s with stp := { s.stp with bank := false, c := hdrStep h, a := hdrAttempt h, epoch := fld32 h 24, layout := byteAt h 28,
                               commits := [], advances := [] } }

theorem restoreControl_same (hl : byteAt h 28 = s.stp.layout) : restoreControl s h = mirrored (controlWritten s h) := by
  have hsame : s.stp.layout = (mirrored (controlWritten s h)).stp.layout := by
    rw [mirrored_stp_layout]
    exact hl.symm
  exact if_pos hsame

/-- Replay mode as a restore arms it. -/
def replayArmed (s : State) (r : Option Replay) : State := { s with hold := { s.hold with replay := r } }

/-- A device that a restore has stopped. -/
def restoredStop (s : State) (upto : W64) : State :=
  { s with hold := { s.hold with replayTo := upto, restoreFailed := false }, stp := { s.stp with state := .stopped } }

theorem restoreEnd_eq (s : State) (c : HoldCmd) (h : Bytes) (source : Nat) (recs : List LogRec) :
    ∃ r b fab, restoreEnd s c h source recs = endCmd (raise
      { restoredStop (logAppend (replayArmed s r) 0x0006 s.stp.c b) (hArgA c.job) with fab := fab } 0x7003 srcDevice []) c 0x7003 := by
  unfold restoreEnd
  dsimp only
  split <;> exact ⟨_, _, _, rfl⟩

/-- The record of a restore is written and the device stopped; no command runs and no restore has failed. -/
theorem restoreEnd_ends (s : State) (c : HoldCmd) (h : Bytes) (source : Nat) (recs : List LogRec) :
    (restoreEnd s c h source recs).mem = s.mem ∧ (restoreEnd s c h source recs).stp = { s.stp with state := .stopped } ∧
      (restoreEnd s c h source recs).hold.restoreFailed = false ∧ (restoreEnd s c h source recs).hold.cmd = none := by
  obtain ⟨r, b, fab, he⟩ := restoreEnd_eq s c h source recs
  have hlog : KeepsStep s (logAppend (replayArmed s r) 0x0006 s.stp.c b) := (logAppend_keepsStep ..).after rfl rfl rfl rfl
  rw [he]
  generalize logAppend (replayArmed s r) 0x0006 s.stp.c b = u at hlog ⊢
  have hevent := raise_frame { restoredStop u (hArgA c.job) with fab := fab } 0x7003 srcDevice []
  obtain ⟨hmem, hstp, hhold, -⟩ := command_ended (endCmd_frame hevent c 0x7003)
  rw [hmem, hstp, hhold, ← hlog.mem, ← hlog.stp]
  exact ⟨rfl, rfl, rfl, rfl⟩

/-- `t` is restored from an image: the step state is the header's, the banks hold the body, the device is stopped and no command runs. -/
structure RestoredFrom (s t : State) (p : Plan) (h body : Bytes) : Prop where
  bank : t.stp.bank = false
  c : t.stp.c = hdrStep h
  a : t.stp.a = hdrAttempt h
  epoch : t.stp.epoch = fld32 h 24
  state : t.stp.state = .stopped
  failed : t.hold.restoreFailed = false
  cmd : t.hold.cmd = none
  residue : rdMem t p.shape.res0 p.shape.resBytes = sub body p.shape.stateBytes p.shape.resBytes
  banks : disjointRanges (restoredBanks p) = true → rdMem t p.shape.state0 p.shape.stateBytes = sub body 0 p.shape.stateBytes
  outside : sameOutside s t (restoredBanks p)

theorem restoreImage_restores (hs : canonical s) (hp : curPlan s = some p)
    (hdig : digest32 (sub h 0 160 ++ sub body 0 (hdrBody h)) = sub h 160 32) (hl : byteAt h 28 = s.stp.layout)
    (c : HoldCmd) (source : Nat) (recs : List LogRec) : RestoredFrom s (restoreImage s c h body true source recs) p h body := by
  have he : restoreImage s c h body true source recs =
      restoreEnd (restoreBallast (restoreControl (writeBanks s body) h) (hdrStep h)) c h source recs := by
    rw [restoreImage]
    simp only [Bool.not_true, Bool.false_eq_true, if_false, bne, hdig, beq_self_eq_true]
  have hframe := writeBanks_frame hp body
  rw [he, restoreControl_same (s := writeBanks s body) (by rw [hframe]; exact hl)]
  obtain ⟨hmem, hstp, hfailed, hcmd⟩ := restoreEnd_ends
    (restoreBallast (mirrored (controlWritten (writeBanks s body) h)) (hdrStep h)) c h source recs
  have hw : (restoreBallast (mirrored (controlWritten (writeBanks s body) h)) (hdrStep h)).mem = (writeBanks s body).mem :=
    mirrored_mem _
  rw [hw] at hmem
  generalize restoreEnd _ c h source recs = t at hmem hstp hfailed hcmd ⊢
  exact {
    bank := by rw [hstp]; exact mirrored_stp_bank _
    c := by rw [hstp]; exact mirrored_stp_c _
    a := by rw [hstp]; exact mirrored_stp_a _
    epoch := by rw [hstp]; exact mirrored_stp_epoch _
    state := by rw [hstp]
    failed := hfailed
    cmd := hcmd
    residue := (rdMem_congr hmem _ _).trans (rdMem_writeBanks_residue hs hp body)
    banks := fun hd => (rdMem_congr hmem _ _).trans (rdMem_writeBanks_state hs hp hd body)
    outside := (writeBanks_sameOutside hs hp body).congr rfl hmem }

/-- An image that does not fit changes neither the step state nor memory. -/
theorem restoreImage_unfit (s : State) (c : HoldCmd) (h body : Bytes) (source : Nat) (recs : List LogRec) :
    eventsOnly (commandOff s) (restoreImage s c h body false source recs) := endInvalid_frame s c

/-- The banks with free bytes, and a restore that failed. -/
def restoreSpoiled (s : State) : State := { spoilBanks s with hold := { (spoilBanks s).hold with restoreFailed := true } }

theorem restoreImage_spoils (hdig : digest32 (sub h 0 160 ++ sub body 0 (hdrBody h)) ≠ sub h 160 32) (s : State) (c : HoldCmd)
    (source : Nat) (recs : List LogRec) :
    eventsOnly (commandOff (restoreSpoiled s)) (restoreImage s c h body true source recs) := by
  have he : restoreImage s c h body true source recs = endCmd (snapInvalid (restoreSpoiled s)) c 0x7101 := by
    rw [restoreImage]
    simp only [Bool.not_true, Bool.false_eq_true, if_false, bne_iff_ne.2 hdig, if_true]
    rfl
  rw [he]
  exact endInvalid_frame ..

theorem restoreSpoiled_stp (hp : curPlan s = some p) : (restoreSpoiled s).stp = s.stp := by
  simp only [restoreSpoiled, spoilBanks, hp, bumpFresh_stp]
  rw [writeBanks_frame hp]

theorem restoreSpoiled_sameOutside (hs : canonical s) (hp : curPlan s = some p) : sameOutside s (restoreSpoiled s) (restoredBanks p) := by
  have hmem : ∃ b, (restoreSpoiled s).mem = (writeBanks s b).mem := by
    simp only [restoreSpoiled, spoilBanks, hp]
    exact ⟨_, rfl⟩
  obtain ⟨b, hb⟩ := hmem
  exact (writeBanks_sameOutside hs hp b).congr rfl hb

/-! RESTORE. -/

theorem runRestore_image {x : Slot} (hc : s.hold.cmd = some c) (hr : s.stp.state ≠ .suspended) (h1 : c.code = 1)
    (hh : anyStackHolds s = false) (hx : getSlot s (hSlot c.job) = x) : ∃ source, runRestore s =
      restoreImage s c x.header (slotBody x) (decide (x.st = .sealed) && imageFits s x.header (hArgA c.job)) source (coverLog s x) := by
  have hgo : running s 1 = some c := running_goes hc hr h1 (by rw [onHost_of_device (by decide) h1]; exact hh)
  rw [runRestore, hgo]
  simp only [hx]
  exact ⟨_, rfl⟩

theorem runRestore_waits (hc : s.hold.cmd = some c) (h1 : c.code = 1) (hh : anyStackHolds s = true) : runRestore s = s := by
  rw [runRestore, running_waits hc (onHost_of_device (by decide) h1) hh]

/-! STANDIN_RESTORE. -/

theorem running_standin (hc : s.hold.cmd = some c) (hr : s.stp.state ≠ .suspended) (h2 : c.code = 2) (hh : anyStackHolds s = false) :
    running s 2 = some c := running_goes hc hr h2 (by rw [onHost_of_device (by decide) h2]; exact hh)

theorem runStandin_asks (hc : running s 2 = some c) (hf : s.hold.fetch.getD freshFetch = f) (hok : f.failed = false)
    (hd : fetchDone s f = false) (rows : List BallastRow) :
    runStandin s rows = sendFetch { s with hold := { s.hold with fetch := some f } } f := by
  simp [runStandin, hc, hf, hok, hd]

theorem runStandin_fails (hc : running s 2 = some c) (hf : s.hold.fetch = some f)
    (h : f.failed = true ∨ (fetchDone s f = true ∧ f.header = none ∧ pickHeader f (hArgB c.job) = none)) (rows : List BallastRow) :
    runStandin s rows = failStandin s c := by
  by_cases hfail : f.failed = true
  · simp [runStandin, hc, hf, hfail]
  · obtain ⟨hd, hhead, hpick⟩ := h.resolve_left hfail
    simp [runStandin, hc, hf, hfail, hd, hhead, hpick]

/-- No part is fetched any more. -/
def fetchOff (s : State) : State := { s with hold := { s.hold with fetch := none } }

theorem failStandin_frame (s : State) (c : HoldCmd) : eventsOnly (commandOff (fetchOff s)) (failStandin s c) :=
  endInvalid_frame (fetchOff s) c

theorem runStandin_picks {g : StandinFetch} {k : Nat} {x : Bytes} (hc : running s 2 = some c) (hf : s.hold.fetch = some f)
    (hok : f.failed = false) (hd : fetchDone s f = true) (hhead : f.header = none) (hpick : pickHeader f (hArgB c.job) = some (k, x))
    (hg : g = { freshFetch with header := some x, slot := k }) (rows : List BallastRow) :
    runStandin s rows = sendFetch { s with hold := { s.hold with fetch := some g } } g := by
  simp [runStandin, hc, hf, hok, hd, hhead, hpick, hg]

theorem runStandin_finishes (hc : running s 2 = some c) (hf : s.hold.fetch = some f) (hok : f.failed = false)
    (hd : fetchDone s f = true) (hhead : f.header = some h) (rows : List BallastRow) : runStandin s rows = finishStandin s c f h rows := by
  simp [runStandin, hc, hf, hok, hd, hhead]

/-- What a peer gives: versions 0, one a row. -/
theorem peerRows_zeros (l : List BallastRow) (step : Nat) : (∀ v ∈ peerRows l step, v.ver = 0) ∧
    ∀ v ∈ peerRows l step, ∀ w ∈ peerRows l step, v.row = w.row → v = w := by
  have hfrom : ∀ v ∈ peerRows l step, ∃ x,
      newestOf (l.filter fun w => decide (w.ver.toNat ≤ step)) v.row = some x ∧ v = { x with ver := 0 } := by
    intro v hv
    obtain ⟨x, hx, rfl⟩ := List.mem_map.1 hv
    exact ⟨x, by simpa using (List.mem_filter.1 hx).2, rfl⟩
  refine ⟨fun v hv => ?_, fun v hv w hw hr => ?_⟩
  · obtain ⟨x, -, rfl⟩ := hfrom v hv
    rfl
  · obtain ⟨x, hx, hvx⟩ := hfrom v hv
    obtain ⟨y, hy, hwy⟩ := hfrom w hw
    obtain rfl : x = y := Option.some.inj (hx.symm.trans (hr ▸ hy))
    exact hvx.trans hwy.symm

/-- The slots of a stand-in that ends, with the versions that its Ballast peer gave. -/
def standinEnd (t : State) (c : HoldCmd) (h : Bytes) (rows : List BallastRow) : State :=
  if hPeer c.job = 0x3FFFF then emptySlots t
  else (peerRows rows (hdrStep h).toNat).foldl addVersion { emptySlots t with hold := { (emptySlots t).hold with bal := [] } }

theorem standinEnd_frame (t : State) (c : HoldCmd) (h : Bytes) (rows : List BallastRow) : (standinEnd t c h rows).mem = t.mem ∧
    (standinEnd t c h rows).stp = t.stp ∧ (standinEnd t c h rows).hold.restoreFailed = t.hold.restoreFailed ∧
    (standinEnd t c h rows).hold.cmd = t.hold.cmd ∧ (standinEnd t c h rows).hold.slots = [] := by
  unfold standinEnd
  split
  · exact ⟨rfl, rfl, rfl, rfl, rfl⟩
  · obtain ⟨b, n, he⟩ := foldl_addVersion_frame (peerRows rows (hdrStep h).toNat)
      { emptySlots t with hold := { (emptySlots t).hold with bal := [] } }
    rw [he]
    exact ⟨rfl, rfl, rfl, rfl, rfl⟩

theorem mem_standinEnd_bal (hpeer : hPeer c.job ≠ 0x3FFFF) (t : State) (h : Bytes) (rows : List BallastRow) (v : BallastRow) :
    v ∈ (standinEnd t c h rows).hold.bal ↔ v ∈ peerRows rows (hdrStep h).toNat := by
  obtain ⟨hzero, hone⟩ := peerRows_zeros rows (hdrStep h).toNat
  obtain ⟨hin, hsub⟩ := foldl_addVersion_zeros (s := { emptySlots t with hold := { (emptySlots t).hold with bal := [] } })
    (by simp) hzero hone
  rw [standinEnd, if_neg hpeer]
  exact ⟨fun hv => (hsub v hv).resolve_left (by simp), hin v⟩

theorem finishStandin_eq (hid : (acceptId s).isSome = true) (hfit : imageFits s h (hArgA c.job) = true) (f : StandinFetch)
    (rows : List BallastRow) {t : State} (hfailed : t.hold.restoreFailed = false)
    (ht : restoreImage (fetchOff s) c h (rd f.bytes 0 (hdrBody h)) true 2
      (recordsAfter (rd f.bytes (4096 * bodyParts h) (logBytes s)) h) = t) :
    finishStandin s c f h rows = standinEnd t c h rows := by
  unfold finishStandin
  simp only [hid, hfit, Bool.and_self]
  rw [fetchOff] at ht
  simp only [ht, hfailed, Bool.not_true, Bool.or_self, Bool.false_eq_true, if_false]
  rfl

/-- Settles O47: RESTORE of an image that does not fit, whose digest fails, and that holds; STANDIN_RESTORE with parts missing, without a
usable image, with the headers there, and with all there. -/
theorem restoreSetsStepState : Obligations.RestoreSetsStepState := by
  intro s c p h body hc hr hp hs
  refine ⟨fun hh h1 => congrArg Host.Outcome.next (runRestore_waits hc h1 hh), fun hh => ⟨fun x ok hx h1 hxh hbody hok => ?restore,
    fun rows vers bytes h2 => ?standin⟩⟩
  case restore =>
    obtain ⟨source, he⟩ := runRestore_image hc hr h1 hh hx
    rw [hxh, hbody, ← hok] at he
    have hexec : exec .restore s = .next (restoreImage s c h body ok source (coverLog s x)) := congrArg Host.Outcome.next he
    refine ⟨fun hno => ?unfit, fun hyes hdig => ?spoilt, fun hyes hdig hl => ?restored⟩
    case unfit =>
      rw [hno] at hexec
      obtain ⟨hmem, hstp, hhold, hctl⟩ := command_ended (restoreImage_unfit s c h body source (coverLog s x))
      exact ⟨_, hexec, hmem, hstp, congrArg Hold.cmd hhold, hctl⟩
    case spoilt =>
      rw [hyes] at hexec
      obtain ⟨hmem, hstp, hhold, -⟩ := command_ended (restoreImage_spoils hdig s c source (coverLog s x))
      exact ⟨_, hexec, hstp.trans (restoreSpoiled_stp hp), congrArg Hold.restoreFailed hhold, congrArg Hold.cmd hhold,
        (restoreSpoiled_sameOutside hs hp).congr rfl hmem⟩
    case restored =>
      rw [hyes] at hexec
      obtain ⟨hbank, hstep, ha, hepoch, hstate, hfailed, hcmd, hres, hbanks, hout⟩ :=
        restoreImage_restores hs hp hdig hl c source (coverLog s x)
      exact ⟨_, hexec, hbank, hstep, ha, hepoch, hstate, hfailed, hcmd, hres, hbanks, hout⟩
  case standin =>
    have hgo := running_standin hc hr h2 hh
    refine ⟨fun f hf hok hd => congrArg Host.Outcome.next (runStandin_asks hgo hf hok hd _), fun f hf hfail => ?fails,
      fun f k g x hf hok hd hhead hpick hg => congrArg Host.Outcome.next (runStandin_picks hgo hf hok hd hhead hpick hg _),
      fun f hf hok hd hhead hbody hid hfit hdig hl => ?finishes⟩
    case fails =>
      have hexec : exec (.standinRestore rows vers bytes) s = .next (failStandin s c) :=
        congrArg Host.Outcome.next (runStandin_fails hgo hf hfail _)
      obtain ⟨hmem, hstp, hhold, hctl⟩ := command_ended (failStandin_frame s c)
      exact ⟨_, hexec, congrArg Hold.cmd hhold, congrArg Hold.fetch hhold, hctl, hmem, hstp⟩
    case finishes =>
      have hs' : canonical (fetchOff s) := canonical_frame rfl rfl rfl hs
      rw [← hbody] at hdig
      have hrestored := restoreImage_restores (s := fetchOff s) hs' hp hdig hl c 2
        (recordsAfter (rd f.bytes (4096 * bodyParts h) (logBytes s)) h)
      rw [hbody] at hrestored
      generalize ht : restoreImage (fetchOff s) c h body true 2
        (recordsAfter (rd f.bytes (4096 * bodyParts h) (logBytes s)) h) = t at hrestored
      obtain ⟨hbank, hstep, ha, hepoch, hstate, hfailed, hcmd, hres, hbanks, hout⟩ := hrestored
      rw [← hbody] at ht
      have hexec : exec (.standinRestore rows vers bytes) s = .next (standinEnd t c h (peerVersions rows vers bytes)) :=
        congrArg Host.Outcome.next ((runStandin_finishes hgo hf hok hd hhead _).trans (finishStandin_eq hid hfit f _ hfailed ht))
      obtain ⟨hmem, hstp, hrf, hcm, hslots⟩ := standinEnd_frame t c h (peerVersions rows vers bytes)
      have hbal := fun hpeer => mem_standinEnd_bal (c := c) hpeer t h (peerVersions rows vers bytes)
      generalize standinEnd t c h (peerVersions rows vers bytes) = e at hexec hmem hstp hrf hcm hslots hbal
      refine ⟨e, hexec, ?_⟩
      rw [hstp, hrf, hcm]
      exact ⟨hbank, hstep, ha, hepoch, hstate, hfailed, hcmd, hslots, hbal, (rdMem_congr hmem _ _).trans hres,
        fun hd => (rdMem_congr hmem _ _).trans (hbanks hd), hout.congr rfl hmem⟩

end Sys2Proof.Machine
end

section
/-! What the Hold writes out and takes in (R343–R346, R328): exports, sealed slots, captures, images and rows. -/
namespace Sys2Proof.Machine
open Sys2Proof Sys2Proof.Safety

variable {s t : State} {c : HoldCmd}

/-! Output. -/

/-- An output to HBM that is not cancelled is written whole, and its command ends. -/
theorem finishOut_hbm (hhost : hHost c.job = 0) (hcan : c.cancel = false) (s : State) (out : Bytes) :
    eventsOnly (commandOff (wrMem s (hAddr c.job) out)) (finishOut s c out) := by
  have hon : onHost c = false := onHost_of_hbm (by rw [hhost]; decide)
  have he : finishOut s c out = endExport (wrMem s (hAddr c.job) out) c false := by
    simp [finishOut, hostLost, hon, hcan, writeOut, hhost]
  rw [he]
  exact endExport_frame ..

/-- The output stands where the command says, and nowhere else; the step state stays. -/
theorem finishOut_writes (hs : canonical s) (hhost : hHost c.job = 0) (hcan : c.cancel = false) (out : Bytes) :
    rdMem (finishOut s c out) (hAddr c.job) out.length = out ∧ sameOutside s (finishOut s c out) [(hAddr c.job, out.length)] ∧
      (finishOut s c out).hold = { s.hold with cmd := none } ∧ (finishOut s c out).stp = s.stp := by
  obtain ⟨hmem, hstp, hhold, -⟩ := command_ended (finishOut_hbm hhost hcan s out)
  exact ⟨(rdMem_congr hmem _ _).trans (rdMem_wrMem s _ _ (canonical_mem hs)),
    (sameOutside.wrMem s _ _ (canonical_mem hs)).congr rfl hmem, hhold, hstp⟩

/-- A seal counts one and leaves device memory. -/
theorem sealBody_eq {clear body b : Bytes} {u : State} (h : sealBody s clear body = some (u, b)) : u = bumpSeal s := by
  obtain ⟨_, -, he⟩ := Option.map_eq_some_iff.1 h
  exact (Prod.mk.inj he).1.symm

theorem bumpSeal_mem (s : State) : (bumpSeal s).mem = s.mem := rfl

theorem bumpSeal_stp (s : State) : (bumpSeal s).stp = s.stp := rfl

theorem bumpSeal_hold (s : State) : (bumpSeal s).hold = { s.hold with sealCount := s.hold.sealCount + 1 } := rfl

theorem running_hbm {n : Nat} (hc : s.hold.cmd = some c) (hr : s.stp.state ≠ .suspended) (hn : c.code = n) (hhost : hHost c.job = 0)
    (hh : anyStackHolds s = false) : running s n = some c :=
  running_goes hc hr hn (by rw [onHost_of_hbm (by rw [hhost]; decide)]; exact hh)

theorem runExport_finishes (hgo : running s 3 = some c) (hcan : c.cancel = false) :
    runExport s = finishOut s c (exportRecords s ++ exportEnd) := by
  simp [runExport, hgo, hcan]

theorem runSealOut_finishes {x : Slot} {s1 : State} {b : Bytes} (hgo : running s 4 = some c) (hx : getSlot s (hSlot c.job) = x)
    (hb : sealBody s x.header (slotBody x) = some (s1, b)) : runSealOut s = finishOut s1 c (sub x.header 0 256 ++ b) := by
  simp [runSealOut, hgo, hx, hb]

theorem runCapture_finishes {x : Slot} {s1 s2 : State} {b2 b34 p3 p4 ch : Bytes} {cv : Bool} {lo : Nat} (hgo : running s 6 = some c)
    (hx : getSlot s (hSlot c.job) = x) (hlo : lo = (hdrStep x.header).toNat + 1) (hcv : cv = traceCovers s lo (hArgA c.job).toNat)
    (hp3 : p3 = ((captureLog s (hdrLogSeq x.header) (hArgA c.job)).map fun r => r.bytes).flatten)
    (hp4 : p4 = if cv then (traceSteps s lo (hArgA c.job).toNat).flatten else [])
    (hb2 : sealBody s x.header (slotBody x) = some (s1, b2))
    (hch : ch = captureHeader x.header (hArgA c.job) (sub x.header 0 256 ++ b2).length p3.length p4.length cv)
    (hb34 : sealBody s1 ch (p3 ++ p4) = some (s2, b34)) : runCapture s = finishOut s2 c (ch ++ (sub x.header 0 256 ++ b2) ++ b34) := by
  rw [runCapture, hgo]
  simp only [hx, hb2, ← hlo, ← hcv, ← hp3, ← hp4, ← hch, hb34]

/-! Input. -/

theorem hostLost_up (h : hHost c.job = 1 → (getFn s 0).up = true) : hostLost s c = false := by
  by_cases hhost : hHost c.job = 1
  · simp [hostLost, h hhost]
  · simp [hostLost, onHost_of_hbm hhost]

theorem running_in (hc : s.hold.cmd = some c) (hr : s.stp.state ≠ .suspended) (h5 : c.code = 5)
    (hhost : hHost c.job = 1 → (getFn s 0).cfg.d3hot = false) (hh : anyStackHolds s = false) : running s 5 = some c := by
  refine running_goes hc hr h5 ?_
  by_cases h1 : hHost c.job = 1
  · split
    · exact hhost h1
    · exact hh
  · rw [onHost_of_hbm h1]
    exact hh

theorem runSealIn_image {h body : Bytes} (hgo : running s 5 = some c) (hup : hostLost s c = false)
    (hmagic : fld (readIn s c.job) 0 4 ≠ 0x50434B4B) (hopen : openImage s (readIn s c.job) = some (h, body)) :
    runSealIn s = endExport (writeImage s (hSlot c.job) h body false) c false := by
  simp [runSealIn, hgo, hup, hmagic, hopen]

theorem runSealIn_capture {y : CaptureIn} (hgo : running s 5 = some c) (hup : hostLost s c = false)
    (hmagic : fld (readIn s c.job) 0 4 = 0x50434B4B) (hopen : openCapture s (readIn s c.job) = some y) :
    runSealIn s = endExport (takeCapture s (hSlot c.job) y) c false := by
  simp [runSealIn, hgo, hup, hmagic, hopen]

/-- A slot with an image that came in. -/
def importedSlot (h body : Bytes) (cover : Bool) : Slot := Slot.mk .sealed false cover true h (wr [] 0 body)

theorem getSlot_writeImage (hs : canonical s) (k : Nat) (h body : Bytes) (cover : Bool) :
    getSlot (writeImage s k h body cover) k = importedSlot h body cover :=
  getSlot_setSlot_self (bondProgram_canonical (256 + body.length) hs) k _

/-- The other slot is covered no more. -/
def otherUncovered (s : State) (k : Nat) : State := setSlot s (1 - k) { getSlot s (1 - k) with cover := false }

theorem takeCapture_eq (s : State) (k : Nat) (y : CaptureIn) : ∃ (u : State) (h : Hold),
    takeCapture s k y = { u with hold := h } ∧ Sending (otherUncovered (writeImage s k y.header y.body true) k) u [] ∧
      h.slots = u.hold.slots ∧ h.log = placeRecs 0 y.recs := by
  refine ⟨_, _, rfl, voidCopies_sending .., ?_, ?_⟩
  · split <;> rfl
  · split <;> rfl

/-- A capture fills its slot and restores its log; memory and the step state stay. -/
theorem takeCapture_takes (hs : canonical s) {k : Nat} (hk : k ≤ 1) (y : CaptureIn) :
    getSlot (takeCapture s k y) k = importedSlot y.header y.body true ∧ (takeCapture s k y).mem = s.mem ∧
      (takeCapture s k y).stp = s.stp ∧ (takeCapture s k y).hold.log = placeRecs 0 y.recs := by
  obtain ⟨u, h, he, hsend, hslots, hlog⟩ := takeCapture_eq s k y
  have hother : getSlot (otherUncovered (writeImage s k y.header y.body true) k) k = importedSlot y.header y.body true := by
    rw [otherUncovered, getSlot_setSlot (writeImage_canonical _ _ _ _ hs), if_neg (by omega), getSlot_writeImage hs]
  rw [he]
  refine ⟨?_, hsend.keeps State.mem fun _ _ _ _ => rfl, hsend.keeps State.stp fun _ _ _ _ => rfl, hlog⟩
  show smGet Slot.init h.slots k = _
  rw [hslots, hsend.keeps (fun s => s.hold.slots) fun _ _ _ _ => rfl]
  exact hother

/-! BAL_LOAD. -/

/-- The rows of HBM that BAL_LOAD names, as versions 0. -/
def loadedRow (s : State) (j : JobEnt) (i : Nat) : BallastRow :=
  BallastRow.mk ((hArgA j).toNat + i) 0 (rdMem s (hAddr j + i * balRow s) (balRow s))

/-- A fold that programs versions read from what programming leaves programs the versions read at first. -/
theorem foldl_addVersion_map {ι : Type} {f : State → ι → BallastRow} (hf : ∀ s v i, f (addVersion s v) i = f s i)
    (l : List ι) (s : State) : l.foldl (fun s i => addVersion s (f s i)) s = (l.map (f s)).foldl addVersion s := by
  induction l generalizing s with
  | nil => rfl
  | cons i l ih =>
    rw [List.foldl_cons, ih, List.map_cons, List.foldl_cons, funext (hf s (f s i))]

theorem runBalLoad_loads (hgo : running s 7 = some c) : runBalLoad s = endExport
    (((List.range (hArgB c.job).toNat).map (loadedRow s c.job)).foldl addVersion s) c false := by
  rw [← foldl_addVersion_map (f := fun s => loadedRow s c.job) fun _ _ _ => rfl, runBalLoad, hgo]
  rfl

theorem loadedRows_kept (hs : ∀ v ∈ s.hold.bal, v.ver = 0) (j : JobEnt) {n i : Nat} (hi : i < n) :
    loadedRow s j i ∈ (((List.range n).map (loadedRow s j)).foldl addVersion s).hold.bal := by
  refine (foldl_addVersion_zeros hs (fun v hv => ?_) fun v hv w hw hr => ?_).1 _ (List.mem_map_of_mem (List.mem_range.2 hi))
  · obtain ⟨k, -, rfl⟩ := List.mem_map.1 hv
    rfl
  · obtain ⟨k, -, rfl⟩ := List.mem_map.1 hv
    obtain ⟨m, -, rfl⟩ := List.mem_map.1 hw
    rw [Nat.add_left_cancel hr]

/-- Settles O48: the three outputs, the two kinds of image that come in, and the rows that BAL_LOAD takes. -/
theorem holdImagesInAndOut : Obligations.HoldImagesInAndOut := by
  intro s c x out hc hr hs hx hh
  refine ⟨fun h3 hcan hhost hout => ?exported, fun s1 b h4 hcan hhost hb hout => ?slot,
    fun s1 s2 b2 b34 p3 p4 cv lo ch h6 hcan hhost hlo hcv hp3 hp4 hb2 hch hb34 hout => ?capture,
    fun h5 hup hin => ?input, fun h7 hzero => ?rows⟩
  case exported =>
    have hexec : exec .exportState s = .next (finishOut s c out) :=
      congrArg Host.Outcome.next (hout ▸ runExport_finishes (running_hbm hc hr h3 hhost hh) hcan)
    obtain ⟨hread, hsame, hhold, hstp⟩ := finishOut_writes hs hhost hcan out
    exact ⟨_, hexec, hread, hsame, congrArg Hold.cmd hhold, hstp⟩
  case slot =>
    have hexec : exec .sealOut s = .next (finishOut s1 c out) :=
      congrArg Host.Outcome.next (hout ▸ runSealOut_finishes (running_hbm hc hr h4 hhost hh) hx hb)
    obtain ⟨hread, hsame, hhold, hstp⟩ := finishOut_writes (sealBody_canonical hs hb) hhost hcan out
    obtain rfl := sealBody_eq hb
    exact ⟨_, hexec, hread, hsame.congr rfl rfl, congrArg Hold.cmd hhold, congrArg Hold.sealCount hhold, hstp⟩
  case capture =>
    have hexec : exec .capture s = .next (finishOut s2 c out) := congrArg Host.Outcome.next
      (hout ▸ runCapture_finishes (running_hbm hc hr h6 hhost hh) hx hlo hcv hp3 hp4 hb2 hch hb34)
    obtain ⟨hread, hsame, hhold, hstp⟩ := finishOut_writes (sealBody_canonical (sealBody_canonical hs hb2) hb34) hhost hcan out
    obtain rfl := sealBody_eq hb2
    obtain rfl := sealBody_eq hb34
    rw [bumpSeal_stp, bumpSeal_stp] at hstp
    rw [bumpSeal_hold, bumpSeal_hold] at hhold
    refine ⟨_, hexec, hread, hsame.congr ((bumpSeal_mem _).trans (bumpSeal_mem s)).symm rfl, congrArg Hold.cmd hhold,
      (congrArg Hold.sealCount hhold).trans ?_, hstp⟩
    exact BitVec.add_assoc s.hold.sealCount 1 1
  case input =>
    have hgo := running_in hc hr h5 (fun h1 => (hup h1).2) hh
    have hlink := hostLost_up fun h1 => (hup h1).1
    subst hin
    refine ⟨fun h body hmagic hopen => ?image, fun y hmagic hopen hk => ?log⟩
    case image =>
      have hexec : exec .sealIn s = .next (endExport (writeImage s (hSlot c.job) h body false) c false) :=
        congrArg Host.Outcome.next (runSealIn_image hgo hlink hmagic hopen)
      obtain ⟨hmem, hstp, hhold, -⟩ := command_ended (endExport_frame (writeImage s (hSlot c.job) h body false) c false)
      refine ⟨_, hexec, ?_, hmem, hstp, congrArg Hold.cmd hhold⟩
      rw [getSlot, hhold]
      exact getSlot_writeImage hs (hSlot c.job) h body false
    case log =>
      have hexec : exec .sealIn s = .next (endExport (takeCapture s (hSlot c.job) y) c false) :=
        congrArg Host.Outcome.next (runSealIn_capture hgo hlink hmagic hopen)
      obtain ⟨hslot, hmem, hstp, hlog⟩ := takeCapture_takes hs hk y
      obtain ⟨hmem', hstp', hhold, -⟩ := command_ended (endExport_frame (takeCapture s (hSlot c.job) y) c false)
      refine ⟨_, hexec, ?_, hmem'.trans hmem, hstp'.trans hstp, ?_, congrArg Hold.cmd hhold⟩
      · rw [getSlot, hhold]
        exact hslot
      · rw [hhold]
        exact hlog
  case rows =>
    have hgo := running_goes hc hr h7 (by rw [onHost_of_device (by decide) h7]; exact hh)
    have hkept := fun i (hi : i < (hArgB c.job).toNat) => loadedRows_kept hzero c.job hi
    have hexec : exec .balLoad s = .next _ := congrArg Host.Outcome.next (runBalLoad_loads hgo)
    obtain ⟨b, n, hframe⟩ := foldl_addVersion_frame ((List.range (hArgB c.job).toNat).map (loadedRow s c.job)) s
    generalize ((List.range (hArgB c.job).toNat).map (loadedRow s c.job)).foldl addVersion s = u at hkept hexec hframe
    obtain ⟨hmem, hstp, hhold, -⟩ := command_ended (endExport_frame u c false)
    refine ⟨_, hexec, by rw [hmem, hframe], by rw [hstp, hframe], congrArg Hold.cmd hhold, fun i hi => ?_⟩
    rw [hhold]
    exact hkept i hi

end Sys2Proof.Machine
end
